-- ==== Sys2Proof/Word.lean ====
section
/-! DEFINITION. The word types of the K4 cluster and the plain data that commands carry. -/

namespace Sys2Proof

abbrev Byte := BitVec 8
abbrev Half := BitVec 16
abbrev Word := BitVec 32
abbrev DWord := BitVec 64

/-- A master ID (R449; seven bits wide on FA_MID, R461). -/
abbrev Master := BitVec 7

/-- A message: its header of two 64-bit words (R239, R240, R289) and its payload bytes. -/
structure Message where
  /-- header bytes 0-7 (R239) -/
  w0 : DWord
  /-- header bytes 8-15 (R240, R289) -/
  w1 : DWord
  /-- payload, lowest address first -/
  payload : List Byte
  deriving DecidableEq, Repr, Inhabited

/-- The sideband fields of a message on a port that the router reads (R307). -/
structure Sideband where
  /-- physical ID toward which the message is routed -/
  tpid : BitVec 11
  /-- the message has been re-routed (R317) -/
  rr : Bool
  /-- domain multicast (R322) -/
  mc : Bool
  deriving DecidableEq, Repr, Inhabited

/-- Where the router takes its next message from (R306). -/
inductive RouterInput where
  /-- mesh port N 0, E 1, S 2, W 3; the message as received with its sideband -/
  | mesh (port : BitVec 2) (msg : Message) (side : Sideband)
  /-- the oldest message the edge link layer has put together (R326) -/
  | edge
  /-- the oldest message of the cluster's own send path -/
  | own
  deriving DecidableEq, Repr, Inhabited

/-- An idle flit of a mesh port, and its way (R325). -/
inductive IdleFlit where
  | sent (port : Fin 5)
  | received (port : Fin 5)
  deriving DecidableEq, Repr

/-- The error code of a far-port response (R461: FR_ERR, FB_ERR). -/
inductive FarErr where
  | ok | data | address
  deriving DecidableEq, Repr, Inhabited

/-- What far memory answers to the reads of a step that makes several far reads at once:
the bytes it returned and the transfers it answered with an error, by system address (R463, log 19). -/
structure FarReply where
  /-- bytes returned, by system address bits [56:0] -/
  cells : List (Nat × Byte)
  /-- errors: an address in a failed transfer, and its code -/
  errs : List (Nat × FarErr)
  deriving DecidableEq, Repr, Inhabited

/-- The pins sampled at reset release (R461, R462). -/
structure Straps where
  chipId : BitVec 12
  row : BitVec 5
  col : BitVec 6
  edge : Bool
  mtie : BitVec 4
  mouldSel : BitVec 2
  deriving DecidableEq, Repr, Inhabited

/-- What a test access through the IEEE 1149.1 port does (R475). -/
inductive TestAccess where
  /-- boundary scan, or the IDCODE instruction -/
  | boundaryScan
  /-- memory built-in self-test through the IEEE 1687 network -/
  | memorySelfTest
  /-- a write of one byte of the repair data area of MRAM (R454) -/
  | repairWrite (offset : BitVec 14) (value : Byte)
  deriving DecidableEq, Repr, Inhabited

end Sys2Proof
end

