-- ==== Sys2Proof/Syntax.lean ====
section
/-! DEFINITION. The commands of the block: one constructor per row of spec/opcode_table.json.
A constructor carries what the row needs from outside the block; everything else a step reads is state.
Register writes carry the master that makes them (R449). Lengths of byte lists are checked in WellFormed. -/

namespace Sys2Proof

inductive Instr where
  -- the control core
  | longWordIssue
  | loadDataArrival (task : Fin 32)
  | storeBufferDrain (task : Fin 32)
  | cacheDropComplete (task : Fin 32)
  | taskWake (task : Fin 32)
  | queueClear (m : Master) (mask : BitVec 8)
  | queueRestart (m : Master) (mask : BitVec 8)
  -- tiles and matrix engines
  | tcfg (e : Fin 4)
  | tcfgApply (e : Fin 4)
  | trel (e : Fin 4)
  | tld (e : Fin 4)
  | tst (e : Fin 4)
  | tileRowWriteComplete (e : Fin 4)
  | ldw (e : Fin 4)
  | stationaryRowWrite (e : Fin 4)
  | swap (e : Fin 4)
  | swapTokenEntry (e : Fin 4)
  | mm (e : Fin 4)
  | mms (e : Fin 4)
  | acvt (e : Fin 4)
  | accumulatorRowWrite (e : Fin 4)
  | saturationCheck (e : Fin 4)
  -- the vector engine
  | vop
  | vpload
  | vep
  | vred
  | veCompletion
  -- the stream engine
  | sarm
  | rearm
  | sstop
  | streamTransferIssue (far : FarReply)
  | pageTableWalk (far : FarReply)
  | farReadData (tag : BitVec 11) (data : List Byte) (last : Bool) (err : FarErr)
  | farWriteAck (tag : BitVec 11) (err : FarErr)
  | tlbInvalidate (m : Master)
  | ptrootWrite (m : Master) (upper : Word)
  | patrolScrub
  -- the schedule unit
  | msend
  | xsend
  | xsendRelease
  | sendCompletion
  | bar
  | arriveSend
  | rwin
  | barrierPass (b : Fin 14)
  | barrierTimeout (b : Fin 14)
  -- messages and rings
  | inboundDataMessage
  | inboundGatherMessage
  | wptrAdvance
  | creditReceive
  | revokeReceive
  | arriveReceive
  | releaseReceive
  | rptrWrite (m : Master) (tag : BitVec 13) (value : Word)
  | ringDescriptorWrite (m : Master) (offset : BitVec 18) (size : Nat) (data : DWord)
  | creditEntryWrite (m : Master) (offset : BitVec 15) (size : Nat) (data : DWord)
  | ringOpen (m : Master) (tag : BitVec 13)
  | ringClose (m : Master) (tag : BitVec 13)
  | ringDrain (m : Master) (tag : BitVec 13)
  | ringReset (m : Master) (tag : BitVec 13)
  | ringGrel (m : Master) (tag : BitVec 13) (slot : BitVec 12)
  -- the router and its ports
  | routerForward (src : RouterInput)
  | linkCreditReturn (port : Fin 5) (lane : BitVec 2)
  | idleFlit (flit : IdleFlit)
  | linkReadyDrop (port : Fin 5)
  | flitTimeout (port : Fin 5)
  | linkReadyRise (port : Fin 5)
  | linkReadyHoldEnd (port : Fin 5)
  | trainingComplete (port : Fin 5)
  | helloReceive (port : Fin 5) (record : List Byte)
  | edgeFrameReceive (frame : List Byte)
  | edgeRetryTimeout
  | edgeTrainTimeout
  | edgeTrainRetry
  | elockChange (lock : Bool)
  -- the Lehr count and timed actions
  | lehrSyncPulse (value : DWord)
  | missedPulse
  | actionArm (m : Master) (a : Fin 8) (ctl : Word)
  | launch (a : Fin 8)
  | snapshotActionFire (a : Fin 8)
  | profile (a : Fin 8)
  | snapshotTimer
  -- snapshots, journal, replay
  | snapshotCopy
  | snapshotComplete
  | journalWrite
  | traceSample
  | replayMessageCursor (record : List Byte)
  | replayReadCursor (record : List Byte)
  -- Marver
  | shdef
  | sharm
  | shgo
  | shsync
  | shdrop
  | marverSlot (far : FarReply)
  | marverStatistics (far : FarReply)
  | marverUpdateBlock (far : FarReply)
  | publicationSend
  -- management
  | managementPacket (bytes : List Byte)
  | mailboxGo (m : Master)
  | gafferRound
  | fwImageLoaded (far : FarReply)
  | launchImageCopied (far : FarReply)
  | restoreLoadComplete (far : FarReply)
  | mramStoreComplete (torn : Bool)
  | kilnRecordStore
  | clusterReset
  | outboundPacket
  -- reset, power and start-up
  | resetRelease (straps : Straps)
  | resetAssert
  | bistComplete (pass : Bool)
  | switchClose
  | computeTierPowerGood (trained : Bool)
  | tierStartTimeout
  | powerGoodLoss
  | tierInterfaceError
  | tierInterfaceTimeout
  | annealSelfTestComplete (pass : Bool)
  | discoveryComplete
  | pwrStableChange (level : Bool)
  | testModeChange (level : Bool)
  | scanShift
  -- registers
  | counterSetClear (m : Master) (mask : BitVec 16)
  | digestClearAll (m : Master)
  | jnLiveWrite (m : Master) (i : BitVec 4) (value : Word)
  | upperWordLatchRead (m : Master) (addr : Word)
  | split64BitWrite (m : Master) (addr : Word) (lower : Word)
  | readClear (m : Master) (addr : Word)
  | registerWrite (m : Master) (addr : Word) (value : Word)
  | externalMasterAccess (m : Master) (write : Bool) (addr : DWord) (size : Nat) (data : DWord)
  -- completions
  | tstComplete (e : Fin 4)
  | localTransferComplete
  | mouldImageRead (far : FarReply)
  | mouldStoreWaitTimeout
  | fenceRecordRead (far : FarReply)
  | baseTierFailure
  | testAccessPort (access : TestAccess)
  deriving DecidableEq, Repr

end Sys2Proof
end

