-- ==== Sys2Proof/Decode.lean ====
section
/-! DEFINITION. The command a word of the opcode table spells. Every row of the table is a step of the part and has
no encoding of its own, so no word spells one (log 1). The encodings the part itself decodes (long words, engine
commands, packets, messages) are decoded where they are taken. -/

namespace Sys2Proof

/-- The table gives no row any bits. -/
def decodeTableWord (_nbits _w : Nat) : Option Instr := none

end Sys2Proof
end

