-- ==== Sys2Proof/Config.lean ====
section
/-! DEFINITION. What version 2.0 of the cluster fixes (R1, R2), and the free values: constants without a
body, so that no proof can see a value of theirs. -/

namespace Sys2Proof.Config

/-- N-cycles in one microsecond at the nominal clock (R11, R14): 1.7 GHz. -/
def ncPerUs : Nat := 1700

/-- Commands one engine queue holds (R59). -/
def queueDepth : Nat := 64
/-- Entries of a task's store buffer (R27). -/
def storeDepth : Nat := 16
/-- Levels of a task's loop stack (R27). -/
def loopDepth : Nat := 4
/-- Bytes of instruction memory (R30). -/
def imemSize : Nat := 65536
/-- Bytes of local memory (R201). -/
def localSize : Nat := 0x200000
/-- Bytes of one tile pool (R68). -/
def poolSize : Nat := 0x20000
/-- Stream contexts (R209), the firmware ones being those below 64 (R208). -/
def numContexts : Nat := 3072
/-- Tags outstanding at the far port (R463). -/
def farTags : Nat := 2048
/-- Transfers outstanding over all contexts (R216). -/
def xferLimit : Nat := 1024
/-- Sends the parking holds (R255). -/
def parkDepth : Nat := 64
/-- Events the firmware queues (R447), and kiln records (R429). -/
def eventDepth : Nat := 64
def kilnDepth : Nat := 8
/-- Translations the TLB holds (R223). -/
def tlbSize : Nat := 4096
/-- Tokens of a full regulator bucket (R218), in hundredths of a byte. -/
def bucketFull : Nat := 409600
/-- Frames in the edge retry buffer (R327). -/
def retryFrames : Nat := 240
/-- Bytes of the journal's staging buffer (R409). -/
def stagingSize : Nat := 262144

/-- Bytes of a torn MRAM record or mould (R455: the n-th torn store leaves any bytes at all), and of an uncorrectable word that
a unit with no rule for it reads (R204). -/
opaque freeByte : Nat → Nat → Byte

/-- What a BF16 master weight becomes that overflows or is infinite, by its FP32 pattern: the largest finite value or an
infinity (R369 does not say). -/
opaque freeBf16 : Nat → Bool

/-- Whether a store of the MRAM that ran when the rails were lost is torn: R455 and R472 say that it may be. -/
opaque freeFlag : Nat → Bool

/-- Values that the spec names and does not give: word `k` of the n-th such set (the unit and address in the kiln record
of a failed start-up self-test, R456). -/
opaque freeWord : Nat → Nat → Word

end Sys2Proof.Config
end

