-- ==== Sys2Proof/Machine/Table.lean ====
section
/-! DEFINITION. Sparse tables in one canonical form: a list of key and value, keys strictly rising, no entry
equal to what an unlisted key reads as. Memories are tables of bytes; large register arrays are tables too.
Also the two accessors of fixed-size arrays. -/

namespace Sys2Proof.Machine

/-- The value of key `k`; an unlisted key reads as `d`. -/
def Tbl.get {α : Type} (d : α) : List (Nat × α) → Nat → α
  | [], _ => d
  | (a, v) :: t, k => if k = a then v else if k < a then d else Tbl.get d t k

/-- Set key `k` to `v`, keeping the canonical form: writing the default removes the entry. -/
def Tbl.set {α : Type} [DecidableEq α] (d : α) : List (Nat × α) → Nat → α → List (Nat × α)
  | [], k, v => if v = d then [] else [(k, v)]
  | (a, w) :: t, k, v =>
    if k = a then (if v = d then t else (a, v) :: t)
    else if k < a then (if v = d then (a, w) :: t else (k, v) :: (a, w) :: t)
    else (a, w) :: Tbl.set d t k v

/-- Apply `f` to every listed value, keeping the canonical form. -/
def Tbl.update {α : Type} [DecidableEq α] (d : α) (f : α → α) : List (Nat × α) → List (Nat × α)
  | [] => []
  | (a, v) :: t => if f v = d then Tbl.update d f t else (a, f v) :: Tbl.update d f t

/-- Every key of the table is above `k`. -/
def Tbl.above {α : Type} (k : Nat) : List (Nat × α) → Bool
  | [] => true
  | (a, _) :: _ => decide (k < a)

/-- The canonical form. -/
def Tbl.wf {α : Type} [DecidableEq α] (d : α) : List (Nat × α) → Bool
  | [] => true
  | (a, v) :: t => decide (v ≠ d) && Tbl.above a t && Tbl.wf d t

/-- Element `i` of an array; outside it, the default of the type. -/
def Vec.at {α : Type} {n : Nat} [Inhabited α] (v : Vector α n) (i : Nat) : α :=
  v.toList.getD i default

/-- Apply `f` to element `i` of an array; outside it, nothing changes. -/
def Vec.upd {α : Type} {n : Nat} (v : Vector α n) (i : Nat) (f : α → α) : Vector α n :=
  if h : i < n then v.set i (f v[i]) h else v

/-- A byte-addressed memory: a canonical table of bytes. -/
abbrev Memory := List (Nat × Byte)

/-- One byte. An unlisted address reads as zero: the start-up self-test leaves local memory, the ring store,
the context store and the sequence table zero (R206, R456 step 6), and the cluster zeroes tile pools on entry
into RUN (R70); for instruction memory and MRAM the zero is the model's choice (log 3). -/
def Memory.read (m : Memory) (a : Nat) : Byte := Tbl.get 0#8 m a

/-- Write one byte. -/
def Memory.write (m : Memory) (a : Nat) (b : Byte) : Memory := Tbl.set 0#8 m a b

/-- The canonical form of a memory. -/
def Memory.wf (m : Memory) : Bool := Tbl.wf 0#8 m

/-- `n` bytes from `a`, as one little-endian number (R7). -/
def Memory.readLE (m : Memory) (a : Nat) : Nat → Nat
  | 0 => 0
  | n + 1 => (m.read a).toNat + 256 * Memory.readLE m (a + 1) n

/-- `n` bytes from `a`, as a list, lowest address first. -/
def Memory.readBytes (m : Memory) (a : Nat) : Nat → List Byte
  | 0 => []
  | n + 1 => m.read a :: Memory.readBytes m (a + 1) n

/-- Write a list of bytes from `a`, lowest address first. -/
def Memory.writeBytes (m : Memory) (a : Nat) : List Byte → Memory
  | [] => m
  | b :: bs => Memory.writeBytes (m.write a b) (a + 1) bs

/-- Remove every listed byte of `[a, a + n)`: the range reads zero afterwards. -/
def Memory.zero (m : Memory) (a n : Nat) : Memory :=
  m.filter fun c => !(decide (a ≤ c.1) && decide (c.1 < a + n))

/-- The `n` little-endian bytes of a number (R7). -/
def leBytes : Nat → Nat → List Byte
  | 0, _ => []
  | n + 1, v => BitVec.ofNat 8 v :: leBytes n (v / 256)

/-- The number that little-endian bytes spell (R7). -/
def ofLE : List Byte → Nat
  | [] => 0
  | b :: bs => b.toNat + 256 * ofLE bs

/-- Write the `n` little-endian bytes of `v` at `a`. -/
def Memory.writeLE (m : Memory) (a n v : Nat) : Memory := m.writeBytes a (leBytes n v)

end Sys2Proof.Machine
end

