-- ==== Sys2Proof/Machine/Bits.lean ====
section
/-! DEFINITION. Bit fields, sign extension, saturating counts, check codes and the mixing function of R166. -/

namespace Sys2Proof.Machine

/-- Bits `[hi:lo]` of a number. -/
def fld (hi lo x : Nat) : Nat := (x >>> lo) % 2 ^ (hi - lo + 1)

/-- Bit `i` of a number. -/
def bit (i x : Nat) : Bool := x.testBit i

/-- A number of `w` bits read as two's complement. -/
def sext (w x : Nat) : Int := if x.testBit (w - 1) then (x % 2 ^ w : Nat) - (2 ^ w : Nat) else (x % 2 ^ w : Nat)

/-- A Bool as a bit value placed at position `i`. -/
def flag (i : Nat) (b : Bool) : Nat := if b then 2 ^ i else 0

/-- The low word of 64 bits. -/
def loWord (x : DWord) : Word := x.extractLsb' 0 32

/-- The high word of 64 bits. -/
def hiWord (x : DWord) : Word := x.extractLsb' 32 32

/-- 64 bits from a high and a low word. -/
def ofWords (hi lo : Word) : DWord := hi ++ lo

/-- A 32-bit count that saturates at all ones. -/
def satAdd (w : Word) (n : Nat) : Word := BitVec.ofNat 32 (min (w.toNat + n) 0xFFFFFFFF)

/-- Little-endian 32-bit word number `i` of a byte list; absent bytes are zero. -/
def leWord (bs : List Byte) (i : Nat) : Nat := ofLE ((bs.drop (4 * i)).take 4)

/-- `n` little-endian bytes at offset `o`; absent bytes are zero. -/
def leAt (bs : List Byte) (o n : Nat) : Nat := ofLE ((bs.drop o).take n)

/-- All bytes of a list are zero. -/
def allZero (bs : List Byte) : Bool := bs.all (· == 0#8)

/-- Bring a byte list to length `n`: cut, or padded with zeros. -/
def padTo (n : Nat) (bs : List Byte) : List Byte := (bs.take n) ++ List.replicate (n - bs.length) 0#8

/-- One bit of a most-significant-first 64-bit CRC with the ECMA-182 polynomial (R388). -/
def crc64Bit (c : DWord) : DWord :=
  if c.getLsbD 63 then (c <<< 1) ^^^ 0x42F0E1EBA9EA3693#64 else c <<< 1

def crc64Byte (c : DWord) (b : Byte) : DWord :=
  Nat.repeat crc64Bit 8 (c ^^^ ((b.setWidth 64) <<< 56))

/-- CRC-64 of R388, continued from `c`. -/
def crc64 (c : DWord) (bs : List Byte) : DWord := bs.foldl crc64Byte c

/-- One bit of a reflected CRC-32C (Castagnoli). -/
def crc32cBit (c : Word) : Word :=
  if c.getLsbD 0 then (c >>> 1) ^^^ 0x82F63B78#32 else c >>> 1

def crc32cByte (c : Word) (b : Byte) : Word :=
  Nat.repeat crc32cBit 8 (c ^^^ b.setWidth 32)

/-- CRC-32C: initial value all ones, reflected, final exclusive-or all ones. -/
def crc32c (bs : List Byte) : Word := (bs.foldl crc32cByte 0xFFFFFFFF#32) ^^^ 0xFFFFFFFF#32

/-- mix of R166. -/
def mix (z : DWord) : DWord :=
  let z := (z ^^^ (z >>> 30)) * 0xBF58476D1CE4E5B9#64
  let z := (z ^^^ (z >>> 27)) * 0x94D049BB133111EB#64
  z ^^^ (z >>> 31)

/-- The random value u of R166 for element index `e` of stream `osid`. -/
def randomU (seed : DWord) (step : Word) (hid : Word) (osid e : Nat) : Nat :=
  let a := ofWords step (BitVec.ofNat 32 e)
  let chip := fld 27 16 hid.toNat
  let lcid := fld 10 0 hid.toNat
  let b := BitVec.ofNat 64 (chip * 2 ^ 32 + lcid * 2 ^ 12 + osid)
  (mix (seed ^^^ a ^^^ mix b)).toNat % 2 ^ 16

end Sys2Proof.Machine
end

