-- ==== Sys2Proof/Machine/EngineState.lean ====
section
/-! DEFINITION. State of the matrix engines, the vector engine and the statistics and digest registers. -/

namespace Sys2Proof.Machine

/-- An exact value: NaN, an infinity of a sign, or a signed finite number m x 2^e (R141, R142, R144, R150). -/
inductive FVal where
  | nan
  | inf (neg : Bool)
  | fin (neg : Bool) (m : Nat) (e : Int)
  deriving DecidableEq, Repr, Inhabited

/-- Class tags (R97): NONE 0, H 1, F8 2, I8 3, S32 4, W64 5. -/
inductive ClassTag where
  | none | h | f8 | i8 | s32 | w64
  deriving DecidableEq, Repr, Inhabited

/-- A stationary set (R100): its class tag, its source tile and its weights by weight row.
A row that is absent from the list holds zeros. Classes S32 and W64 hold whole operands; the pieces of R157
and R159 are computed from them (log 12). -/
structure StationarySet where
  /-- tag; 3; R97, R100; NONE on entry into RUN -/
  tag : ClassTag
  /-- source tile; 5; R100; 0 -/
  tile : BitVec 5
  /-- weight rows k, each N values; R100; zeros on entry into RUN -/
  rows : List (Nat × List FVal)
  deriving DecidableEq, Repr, Inhabited

def StationarySet.empty : StationarySet where
  tag := .none
  tile := 0#5
  rows := []

/-- A decoded array command MM (R116). -/
structure MmCmd where
  spl : Bool
  strict : Bool
  zero : Bool
  trans : Bool
  arow : Nat
  acc : Nat
  off : Nat
  count : Nat
  row : Nat
  tile : Nat
  deriving DecidableEq, Repr, Inhabited

/-- An output conversion descriptor as read at take time (R161, R162), with its bias vector,
the seed and step of R166 and the logical identity in force. -/
structure OcdCmd where
  otype : Nat
  retry : Nat
  tsen : Bool
  clip : Bool
  keep : Bool
  ieee : Bool
  rmode : Nat
  tset : Nat
  scale : Word
  bias : Option (List Word)
  lo : Word
  hi : Word
  sthr : Nat
  adj : Nat
  osid : Nat
  seed : DWord
  step : Word
  hid : Word
  strict : Bool
  deriving DecidableEq, Repr, Inhabited

/-- Address generator descriptor (R127). -/
structure AgdCmd where
  base : Nat
  mode : Nat
  fmt : Nat
  lstride : Nat
  ih : Nat
  iw : Nat
  c : Nat
  c0 : Nat
  cg : Nat
  wh : Nat
  ww : Nat
  t0 : Nat
  sy : Nat
  sx : Nat
  dy : Nat
  dx : Nat
  pt : Nat
  pl : Nat
  ow : Nat
  p0 : Nat
  tile : Nat
  row0 : Nat
  off : Nat
  deriving DecidableEq, Repr, Inhabited

/-- A decoded MMS (R125) with the descriptors read when it was taken. -/
structure MmsCmd where
  accp : Bool
  spl : Bool
  strict : Bool
  trans : Bool
  count : Nat
  agd : AgdCmd
  ocd : OcdCmd
  dst : Nat
  dstride : Nat
  psum : Option (Nat × Nat)
  deriving DecidableEq, Repr, Inhabited

/-- A decoded ACVT (R133) with the descriptor read when it was taken. -/
structure AcvtCmd where
  f64 : Bool
  wide : Bool
  clr : Bool
  drow : Nat
  dtile : Nat
  toTile : Bool
  count : Nat
  arow : Nat
  acc : Nat
  ocd : OcdCmd
  dst : Nat
  dstride : Nat
  deriving DecidableEq, Repr, Inhabited

/-- A decoded TLD or TST (R84). -/
structure TileMove where
  count : Nat
  row : Nat
  tile : Nat
  stride : Nat
  addr : Nat
  deriving DecidableEq, Repr, Inhabited

/-- A decoded LDW (R101) with the expansion table read when it was taken (R148). -/
structure LdwCmd where
  xf : Nat
  off : Nat
  count : Nat
  row : Nat
  tile : Nat
  tag : ClassTag
  table : List FVal
  /-- the address of an expansion table that is still to be read: earlier commands of the engine write local memory (R123) -/
  xtab : Option Nat := none
  /-- a half load after a full load: the active set is zeroed and tagged NONE (R106) -/
  clears : Bool
  deriving DecidableEq, Repr, Inhabited

/-- A command an engine has taken and not completed, with its progress. -/
inductive MeOp where
  /-- TCFG whose table at an address is still to be read: earlier commands of the engine write local memory (R123) -/
  | tcfgWait (mask : Word) (addr : Nat)
  /-- TCFG: mask and the table as read (R74, R76) -/
  | tcfg (mask : Word) (table : List Word)
  /-- TREL that waits for the tiles of its mask to be drained (R82) -/
  | trel (mask : Word)
  /-- TLD: rows written so far -/
  | tld (c : TileMove) (done : Nat)
  | tst (c : TileMove)
  /-- LDW: stationary rows written so far -/
  | ldw (c : LdwCmd) (done : Nat)
  /-- SWAP whose token has not entered (R107) -/
  | swap
  /-- SWAP whose token entered the array in a beat and exchanged the sets (R107, R108) -/
  | token (beat : Nat)
  /-- MM with its class: input rows done so far -/
  | mm (c : MmCmd) (cls : ClassTag) (done : Nat)
  /-- MMS with its class: rows staged so far, the group being converted, halvings h of the attempt, CRC of the digest so far,
  and the input rows that have been read ahead and are not staged (R131) -/
  | mms (c : MmsCmd) (cls : ClassTag) (done : Nat) (group : Nat) (h : Nat) (crc : DWord) (ahead : List (List FVal))
  /-- ACVT whose descriptor is still to be read: earlier commands of the engine write local memory (R123); its registers, and
  the seed, step and identity of the beat in which it was taken (R162) -/
  | acvtWait (regs : List DWord) (seed : DWord) (step hid : Word)
  /-- ACVT: halvings h; for a tile destination, the converted rows still to write and the row they start at -/
  | acvt (c : AcvtCmd) (h : Nat) (rows : Option (List (List Byte) × Nat)) (crc : DWord)
  deriving DecidableEq, Repr, Inhabited

structure InFlight where
  /-- seq; 32; queue sequence number; R44 -/
  seq : Word
  /-- opcode; 8; R43 -/
  opc : Byte
  op : MeOp
  /-- taken before the last LAUNCH: it counts in no queue; R302 -/
  old : Bool
  deriving DecidableEq, Repr, Inhabited

/-- One matrix engine (R68-R140). -/
structure MatrixEngine where
  /-- tile pool; 128 KiB; R68; reset 0 (R70: zero on entry into RUN) -/
  pool : Memory
  /-- pool bank rows (16 B) with an uncorrectable error, rising; R69; reset none -/
  poolBad : List Nat
  /-- tile descriptors T0-T31; 32 x 32; R71; reset 0 (unconfigured, R70) -/
  desc : Vector Word 32
  /-- row valid bits of each tile; 32 x 32; R80; reset 0 (R70) -/
  valid : Vector Word 32
  /-- ME_TSEL.TILE; 5; R94; reset 0 -/
  tsel : BitVec 5
  /-- ME_TSTAT.EMPTY; 1; R94; reset 0 -/
  empty : Bool
  /-- ME_TSTAT.EMPTY_TILE; 5; R94; reset 0 -/
  emptyTile : BitVec 5
  /-- ME_TBUB.COUNT; 32; R94; reset 0 -/
  tbub : Word
  /-- ME_TFAULT.VALID; 1; R94; reset 0 -/
  tfValid : Bool
  /-- ME_TFAULT.CODE; 16; R94; reset 0 -/
  tfCode : Half
  /-- ME_TFAULT.TILE; 5; R94; reset 0 -/
  tfTile : BitVec 5
  /-- ME_TFAULT.OPC; 8; R94; reset 0 -/
  tfOpc : Byte
  /-- ME_TFSEQ.SEQ; 32; R94; reset 0 -/
  tfSeq : Word
  /-- active stationary set; R100; reset zeros, NONE -/
  active : StationarySet
  /-- shadow stationary set; R100; reset zeros, NONE -/
  shadow : StationarySet
  /-- the tags and source tiles as checks of later commands see them (active, shadow); R109; reset NONE -/
  queueTags : (ClassTag × BitVec 5) × (ClassTag × BitVec 5)
  /-- accumulators A0-A3; 4 x 32 rows x 128 B, byte address a*4096 + row*128; R113; reset 0 -/
  acc : Memory
  /-- ME_ASTAT.WEMPTY; 1; R139; reset 0 -/
  wempty : Bool
  /-- ME_ABUSY; 64; R139; reset 0 -/
  abusy : DWord
  /-- ME_GATED; 64; R139; reset 0 -/
  gated : DWord
  /-- commands taken and not complete, oldest first; R119; reset none -/
  inflight : List InFlight
  deriving DecidableEq, Repr, Inhabited

/-- An engine on entry into RUN and after reset (R70, R95, R100, R113, R140). -/
def MatrixEngine.fresh : MatrixEngine where
  pool := []
  poolBad := []
  desc := Vector.replicate 32 0#32
  valid := Vector.replicate 32 0#32
  tsel := 0#5
  empty := false
  emptyTile := 0#5
  tbub := 0#32
  tfValid := false
  tfCode := 0#16
  tfTile := 0#5
  tfOpc := 0#8
  tfSeq := 0#32
  active := StationarySet.empty
  shadow := StationarySet.empty
  queueTags := ((.none, 0#5), (.none, 0#5))
  acc := []
  wempty := false
  abusy := 0#64
  gated := 0#64
  inflight := []

/-- A vector command taken and not complete: its registers and sequence number (R196). -/
structure VeCmd where
  regs : List DWord
  seq : Word
  /-- TS_SEED, TS_STEP and TS_HID as the command was taken (R166, R185) -/
  seed : DWord
  step : Word
  hid : Word
  /-- taken before the last LAUNCH: it counts in no queue; R302 -/
  old : Bool
  deriving DecidableEq, Repr, Inhabited

/-- The vector engine and reduction unit (R175-R200). -/
structure VectorEngine where
  /-- V0-V7; 8 x 2048 x 32, slot i of register v at v*2048+i; R176; reset 0 -/
  vregs : List (Nat × Word)
  /-- element program store; 8 x 128 B, slot n at 128n; R188; reset 0 DESIGN CHOICE 0 (log 2) -/
  progs : Memory
  /-- VE_PVALID; 8; R199; reset 0 -/
  pvalid : BitVec 8
  /-- VE_STAT.OOB; 1; R199; reset 0 -/
  oobSticky : Bool
  /-- VE_STAT.ISAT; 1; R199; reset 0 -/
  isat : Bool
  /-- VE_STAT.INV; 1; R199; reset 0 -/
  inv : Bool
  /-- VE_FAULT.VALID; 1; R199; reset 0 -/
  fValid : Bool
  /-- VE_FAULT.CODE; 16; R199; reset 0 -/
  fCode : Half
  /-- VE_FAULT.OPC; 8; R199; reset 0 -/
  fOpc : Byte
  /-- VE_FSEQ; 32; R199; reset 0 -/
  fSeq : Word
  /-- VE_OOB; 32; R199; reset 0 -/
  oob : Word
  /-- VE_LOST; 32; R199; reset 0 -/
  lost : Word
  /-- VE_BUSY; 64; R199; reset 0 -/
  busy : DWord
  /-- commands taken and not complete, oldest first; R196; reset none -/
  inflight : List VeCmd
  deriving DecidableEq, Repr, Inhabited

def VectorEngine.fresh : VectorEngine where
  vregs := []
  progs := []
  pvalid := 0#8
  oobSticky := false
  isat := false
  inv := false
  fValid := false
  fCode := 0#16
  fOpc := 0#8
  fSeq := 0#32
  oob := 0#32
  lost := 0#32
  busy := 0#64
  inflight := []

/-- One statistics counter set (R173). -/
structure StatSet where
  /-- TS_ZERO; 32; R173; reset 0 -/
  zero : Word
  /-- TS_SAT; 32; R173; reset 0 -/
  sat : Word
  /-- TS_NONFIN; 32; R173; reset 0 -/
  nonfin : Word
  /-- TS_FLUSH; 32; R173; reset 0 -/
  flush : Word
  /-- TS_MAXEXP.EXP; 16; R173; reset 0x8000 -/
  maxexp : Half
  /-- TS_RETRY; 32; R173; reset 0 -/
  retry : Word
  /-- TS_EXH; 32; R173; reset 0 -/
  exh : Word
  /-- TS_GROUPS; 32; R173; reset 0 -/
  groups : Word
  deriving DecidableEq, Repr, Inhabited

def StatSet.cleared : StatSet where
  zero := 0#32
  sat := 0#32
  nonfin := 0#32
  flush := 0#32
  maxexp := 0x8000#16
  retry := 0#32
  exh := 0#32
  groups := 0#32

/-- The tensor statistics block (R173, R174). -/
structure TensorStats where
  /-- TS_STAT.NONFIN; 1; R173; reset 0 -/
  nonfin : Bool
  /-- TS_STAT.NF_SET; 4; R173; reset 0 -/
  nfSet : BitVec 4
  /-- TS_STAT.RSX; 1; R173; reset 0 -/
  rsx : Bool
  /-- TS_STAT.RX_SET; 4; R173; reset 0 -/
  rxSet : BitVec 4
  /-- TS_SEED; 64; R173; reset 0, from the mould on entry into RUN -/
  seed : DWord
  /-- TS_STEP; 32; R173; reset 0 -/
  step : Word
  /-- counter sets 0-15; R173; reset as each field says -/
  sets : Vector StatSet 16
  deriving DecidableEq, Repr, Inhabited

def TensorStats.fresh (seed : DWord) : TensorStats where
  nonfin := false
  nfSet := 0#4
  rsx := false
  rxSet := 0#4
  seed := seed
  step := 0#32
  sets := Vector.replicate 16 StatSet.cleared

/-- The digest block (R388-R394). -/
structure Digests where
  /-- DG_VAL; 64 x 64; R393; reset 0 -/
  val : List (Nat × DWord)
  /-- DG_CNT; 64 x 32; R393; reset 0 -/
  cnt : List (Nat × Word)
  /-- DG_CTL.LOG; 1; R393; reset 0 -/
  log : Bool
  /-- DG_STAT.LOGERR; 1; R393; reset 0 -/
  logErr : Bool
  /-- DG_STAT.LOGWRAP; 1; R393; reset 0 -/
  logWrap : Bool
  /-- DG_LOGBASE as a byte address; 21, bits [3:0] zero; R393; reset 0 -/
  logBase : BitVec 21
  /-- DG_LOGSIZE.RECS; 16; R393; reset 0 -/
  logSize : Half
  /-- DG_LOGPTR; 32; R393; reset 0 -/
  logPtr : Word
  deriving DecidableEq, Repr, Inhabited

def Digests.fresh : Digests where
  val := []
  cnt := []
  log := false
  logErr := false
  logWrap := false
  logBase := 0#21
  logSize := 0#16
  logPtr := 0#32
end Sys2Proof.Machine
end

