-- ==== Sys2Proof/Machine/Num.lean ====
section
/-! DEFINITION. Element formats, exact values, rounding, and the floating-point operations of the cluster
(R141-R143, R150, R151, R165, R183, R184). Values are exact dyadic numbers; every rounding is explicit. -/

namespace Sys2Proof.Machine

/-- A floating-point format of R141: stored significand bits, exponent bits, bias, whether it has infinities,
and the NaN the cluster writes (R142). -/
structure Fmt where
  man : Nat
  exp : Nat
  bias : Int
  inf : Bool
  nan : Nat
  deriving DecidableEq, Repr, Inhabited

def Fmt.bf16 : Fmt := ⟨7, 8, 127, true, 0x7FC0⟩
def Fmt.fp16 : Fmt := ⟨10, 5, 15, true, 0x7E00⟩
def Fmt.fp32 : Fmt := ⟨23, 8, 127, true, 0x7FC00000⟩
def Fmt.fp64 : Fmt := ⟨52, 11, 1023, true, 0x7FF8000000000000⟩
def Fmt.e4m3 : Fmt := ⟨3, 4, 7, false, 0x7F⟩
def Fmt.e5m2 : Fmt := ⟨2, 5, 15, true, 0x7E⟩

/-- Bytes of an element. -/
def Fmt.bytes (f : Fmt) : Nat := (f.man + f.exp + 1) / 8

/-- Weight of the last bit of the format's subnormals. -/
def Fmt.qmin (f : Fmt) : Int := 1 - f.bias - f.man

/-- Largest finite value, as a significand and a weight (R141). -/
def Fmt.maxM (f : Fmt) : Nat := if f.inf then 2 ^ (f.man + 1) - 1 else 2 ^ (f.man + 1) - 2
def Fmt.maxE (f : Fmt) : Int := (2 ^ f.exp : Int) - (if f.inf then 2 else 1) - f.bias - f.man

/-- The value of an encoding (R141, R142). -/
def Fmt.decode (f : Fmt) (x : Nat) : FVal :=
  let neg := x.testBit (f.man + f.exp)
  let e := (x >>> f.man) % 2 ^ f.exp
  let m := x % 2 ^ f.man
  let top := 2 ^ f.exp - 1
  if f.inf && e == top then (if m = 0 then .inf neg else .nan)
  else if !f.inf && e == top && m == 2 ^ f.man - 1 then .nan
  else if e = 0 then .fin neg m f.qmin
  else .fin neg (m + 2 ^ f.man) (e - f.bias - f.man)

/-- Whether an encoding is subnormal. -/
def Fmt.isSub (f : Fmt) (x : Nat) : Bool :=
  (x >>> f.man) % 2 ^ f.exp == 0 && x % 2 ^ f.man != 0

/-- `m * 2^e` as a multiple of `2^q`; exact when `q` is no greater than the weight of the lowest set bit. -/
def shiftTo (m : Nat) (e q : Int) : Nat :=
  if q ≤ e then m <<< (e - q).toNat else m >>> (q - e).toNat

/-- floor of log2 of a positive `m * 2^e`. -/
def lead (m : Nat) (e : Int) : Int := (m.log2 : Int) + e

/-- The encoding of a value the format represents (an infinity of a format without infinities, and NaN, give NaN). -/
def Fmt.encode (f : Fmt) : FVal → Nat
  | .nan => f.nan
  | .inf neg =>
    if f.inf then (if neg then 2 ^ (f.man + f.exp) else 0) + (2 ^ f.exp - 1) * 2 ^ f.man else f.nan
  | .fin neg m e =>
    let s := if neg then 2 ^ (f.man + f.exp) else 0
    if m = 0 then s
    else
      let l := lead m e
      if l < 1 - f.bias then s + shiftTo m e f.qmin
      else s + (l + f.bias).toNat * 2 ^ f.man + shiftTo m e (l - f.man) % 2 ^ f.man

/-- How a value is rounded: R165, and away from zero for the directed bounds of R164 step 6. -/
inductive RMode where
  | rne | rtz | stoch | away
  deriving DecidableEq, Repr, Inhabited

/-- `m * 2^e` rounded to a multiple of `2^q`, as that multiple; `u` is the random value of R166. -/
def roundInt (md : RMode) (u : Nat) (m : Nat) (e q : Int) : Nat :=
  if q ≤ e then m <<< (e - q).toNat
  else
    let d := (q - e).toNat
    let k := m >>> d
    let r := m % 2 ^ d
    match md with
    | .rne => if 2 * r > 2 ^ d || (2 * r == 2 ^ d && k % 2 == 1) then k + 1 else k
    | .rtz => k
    | .stoch => if (r <<< 16) >>> d + u ≥ 2 ^ 16 && r != 0 then k + 1 else k
    | .away => if r = 0 then k else k + 1

/-- Compare the magnitudes `m1 * 2^e1 > m2 * 2^e2`. -/
def magGt (m1 : Nat) (e1 : Int) (m2 : Nat) (e2 : Int) : Bool :=
  let e := min e1 e2
  decide (m1 <<< (e1 - e).toNat > m2 <<< (e2 - e).toNat)

/-- Round a finite magnitude to the format's precision, with unbounded exponent range above (R164 step 4). -/
def Fmt.roundMag (f : Fmt) (md : RMode) (u : Nat) (m : Nat) (e : Int) : Nat × Int :=
  if m = 0 then (0, f.qmin)
  else
    let q := max (lead m e - f.man) f.qmin
    (roundInt md u m e q, q)

/-- A magnitude exceeds the format's largest finite value. -/
def Fmt.over (f : Fmt) (m : Nat) (e : Int) : Bool := magGt m e f.maxM f.maxE

/-- Largest finite value with a sign. -/
def Fmt.maxVal (f : Fmt) (neg : Bool) : FVal := .fin neg f.maxM f.maxE

/-- IEEE rounding to nearest-even, overflow to infinity, subnormals kept (R183). -/
def Fmt.rnd (f : Fmt) : FVal → FVal
  | .fin neg m e =>
    let (n, q) := f.roundMag .rne 0 m e
    if f.over n q then .inf neg else .fin neg n q
  | v => v

/-- A value that is subnormal in the format, taken as a zero of its sign (R154). -/
def Fmt.flush (f : Fmt) : FVal → FVal
  | .fin neg m e => if m ≠ 0 ∧ lead m e < 1 - f.bias then .fin neg 0 f.qmin else .fin neg m e
  | v => v

namespace Val

def zero : FVal := .fin false 0 0

def isNan : FVal → Bool
  | .nan => true
  | _ => false

def isInf : FVal → Bool
  | .inf _ => true
  | _ => false

def isFinite : FVal → Bool
  | .fin _ _ _ => true
  | _ => false

/-- A zero of either sign. -/
def isZero : FVal → Bool
  | .fin _ m _ => m == 0
  | _ => false

def sign : FVal → Bool
  | .nan => false
  | .inf n => n
  | .fin n _ _ => n

def neg : FVal → FVal
  | .nan => .nan
  | .inf n => .inf (!n)
  | .fin n m e => .fin (!n) m e

/-- Multiply by a power of two. -/
def scale (k : Int) : FVal → FVal
  | .fin n m e => .fin n m (e + k)
  | v => v

/-- A signed integer as a value. -/
def ofInt (i : Int) : FVal := .fin (decide (i < 0)) i.natAbs 0

/-- A finite value as a signed multiple of `2^q`; `q` no greater than its weight. -/
def toInt (q : Int) : FVal → Int
  | .fin n m e => if n then - (shiftTo m e q : Int) else (shiftTo m e q : Int)
  | _ => 0

/-- The exact product (R150, R151). -/
def mul : FVal → FVal → FVal
  | .nan, _ => .nan
  | _, .nan => .nan
  | .inf a, .inf b => .inf (a ^^ b)
  | .inf a, .fin b m _ => if m = 0 then .nan else .inf (a ^^ b)
  | .fin a m _, .inf b => if m = 0 then .nan else .inf (a ^^ b)
  | .fin a m e, .fin b n f => .fin (a ^^ b) (m * n) (e + f)

/-- The exact sum with the special values and zero signs of IEEE 754 under nearest-even. -/
def add : FVal → FVal → FVal
  | .nan, _ => .nan
  | _, .nan => .nan
  | .inf a, .inf b => if a = b then .inf a else .nan
  | .inf a, .fin _ _ _ => .inf a
  | .fin _ _ _, .inf b => .inf b
  | .fin a m e, .fin b n f =>
    if m = 0 && n == 0 then .fin (a && b) 0 e
    else
      let q := min e f
      let i := toInt q (.fin a m e) + toInt q (.fin b n f)
      .fin (decide (i < 0)) i.natAbs q

/-- Order of two values that are not NaN: negative, zero or positive as `a` is below, equal to or above `b`;
zeros are equal. -/
def cmp : FVal → FVal → Int
  | .inf a, .inf b => if a = b then 0 else if a then -1 else 1
  | .inf a, _ => if a then -1 else 1
  | _, .inf b => if b then 1 else -1
  | .fin a m e, .fin b n f =>
    let q := min e f
    toInt q (.fin a m e) - toInt q (.fin b n f)
  | _, _ => 0

def lt (a b : FVal) : Bool := !isNan a && !isNan b && decide (cmp a b < 0)
def le (a b : FVal) : Bool := !isNan a && !isNan b && decide (cmp a b ≤ 0)
def eq (a b : FVal) : Bool := !isNan a && !isNan b && decide (cmp a b = 0)

/-- IEEE 754-2019 minimum: -0 below +0, NaN if either is (R183). -/
def min2 (a b : FVal) : FVal :=
  if isNan a || isNan b then .nan
  else if cmp a b < 0 then a else if cmp a b > 0 then b else if sign a then a else b

/-- IEEE 754-2019 maximum (R183). -/
def max2 (a b : FVal) : FVal :=
  if isNan a || isNan b then .nan
  else if cmp a b < 0 then b else if cmp a b > 0 then a else if sign a then b else a

/-- An exact or sticky-marked magnitude: `n` when exact, otherwise one more bit that is set. -/
def sticky (neg : Bool) (n : Nat) (e : Int) (exact : Bool) : FVal :=
  .fin neg (2 * n + (if exact then 0 else 1)) (e - 1)

/-- The quotient, precise beyond every rounding of R141's formats, with a sticky bit. -/
def div : FVal → FVal → FVal
  | .nan, _ => .nan
  | _, .nan => .nan
  | .inf _, .inf _ => .nan
  | .inf a, .fin b _ _ => .inf (a ^^ b)
  | .fin a _ _, .inf b => .fin (a ^^ b) 0 0
  | .fin a m e, .fin b n f =>
    if n = 0 then (if m = 0 then .nan else .inf (a ^^ b))
    else
      let k := 80 + n.log2
      sticky (a ^^ b) ((m <<< k) / n) (e - f - k) ((m <<< k) % n == 0)

/-- Integer square root, one bit per unit of fuel. -/
def isqrt : Nat → Nat → Nat
  | 0, _ => 0
  | k + 1, n =>
    let r := 2 * isqrt k (n / 4)
    if (r + 1) * (r + 1) ≤ n then r + 1 else r

/-- The square root, with a sticky bit; negative gives NaN, a zero keeps its sign. -/
def sqrt : FVal → FVal
  | .nan => .nan
  | .inf n => if n then .nan else .inf false
  | .fin n m e =>
    if m = 0 then .fin n 0 e
    else if n then .nan
    else
      let k := 160 + (if (e % 2 == 0) then 0 else 1)
      let x := m <<< k
      let r := isqrt (x.log2 / 2 + 1) x
      sticky false r ((e - k) / 2) (r * r == x)

end Val

/-! Binary32 and the other formats: operands and results as encodings. -/

/-- IEEE operations rounded once to the format (R183). -/
def Fmt.fadd (f : Fmt) (a b : Nat) : Nat := f.encode (f.rnd (Val.add (f.decode a) (f.decode b)))
def Fmt.fmul (f : Fmt) (a b : Nat) : Nat := f.encode (f.rnd (Val.mul (f.decode a) (f.decode b)))

/-! The approximate functions of R184. They return the mathematical value to far more than 16 bits, with a
sticky bit; that this suffices to round every operand correctly is not proved (log 10, UNVERIFIED). -/

namespace Approx

/-- Fraction bits of the fixed-point working values. -/
def prec : Nat := 192

/-- The sum over `j < n` of `z^(2j+1) / (2j+1)` in fixed point, from the power `p = z^(2i+1)` and `z2 = z^2`. -/
def atanhSum : Nat → Nat → Nat → Nat → Nat
  | 0, _, _, _ => 0
  | n + 1, i, p, z2 => p / (2 * i + 1) + atanhSum n (i + 1) ((p * z2) >>> prec) z2

/-- ln of `x / y`, with `1 ≤ x / y < 2`, in fixed point. -/
def lnRatio (x y : Nat) : Nat :=
  let z := ((x - y) <<< prec) / (x + y)
  2 * atanhSum 70 0 z ((z * z) >>> prec)

def ln2 : Nat := lnRatio 2 1

/-- The sum over `j < n` of `y^j / j!` in fixed point. -/
def expSum : Nat → Nat → Nat → Nat → Nat
  | 0, _, _, _ => 0
  | n + 1, i, t, y => t + expSum n (i + 1) (((t * y) >>> prec) / (i + 1)) y

/-- `2^f` for a fraction `f / 2^prec`. -/
def exp2Frac (f : Nat) : Nat := expSum 60 0 (1 <<< prec) ((f * ln2) >>> prec)

/-- 2^a. -/
def exp2 : FVal → FVal
  | .nan => .nan
  | .inf n => if n then Val.zero else .inf false
  | .fin neg m e =>
    if m = 0 then .fin false 1 0
    else if lead m e ≥ 10 then (if neg then .fin false 1 (-2000) else .fin false 1 2000)
    else
      let i := Val.toInt (-prec) (.fin neg m e)
      let k := i / (2 ^ prec : Nat)
      let f := (i % (2 ^ prec : Nat)).toNat
      if f = 0 then .fin false 1 k else Val.sticky false (exp2Frac f) (k - prec) false

/-- log2 a. -/
def log2 : FVal → FVal
  | .nan => .nan
  | .inf n => if n then .nan else .inf false
  | .fin neg m e =>
    if m = 0 then .inf true
    else if neg then .nan
    else
      let l := lead m e
      let one := 2 ^ m.log2
      if m = one then Val.ofInt l
      else
        let i := l * (2 ^ prec : Nat) + (((lnRatio m one) <<< prec) / ln2 : Nat)
        Val.sticky (decide (i < 0)) i.natAbs (-prec) false

/-- 1 / a. -/
def rcp (a : FVal) : FVal := Val.div (.fin false 1 0) a

/-- 1 / sqrt a, with the special cases of R184. -/
def rsq : FVal → FVal
  | .fin neg m e =>
    if m = 0 then .inf neg
    else if neg then .nan
    else
      let (m, e) := if e % 2 = 0 then (m, e) else (2 * m, e - 1)
      let k := 200 + m.log2
      let x := (1 <<< (2 * k)) / m
      let r := Val.isqrt (x.log2 / 2 + 1) x
      Val.sticky false r (-k - e / 2) (r * r * m == 1 <<< (2 * k))
  | v => Val.div (.fin false 1 0) (Val.sqrt v)

/-- A result rounded to 16 of FP32's 23 significand bits, in its exponent range, so that bits [6:0] are zero; overflow
gives +∞, of a negative result too (R184; log 126). -/
def round16 : FVal → FVal
  | .fin neg m e =>
    if m = 0 then .fin neg 0 0
    else
      let q := max (lead m e - 16) Fmt.fp32.qmin
      let n := roundInt .rne 0 m e q
      if Fmt.fp32.over n q then .inf false else .fin neg n q
  | v => v

/-- Its rounding to the type of the result, with R184's overflow. -/
def round (f : Fmt) (v : FVal) : FVal :=
  match f.rnd v with
  | .inf neg => .inf (neg && !Val.isFinite v)
  | r => r

end Approx

end Sys2Proof.Machine
end

