-- ==== Sys2Proof/Machine/CoreState.lean ====
section
/-! DEFINITION. State of the control core and of the eight engine queues.
Every field's docstring gives its width, the rule that names it and its value after reset. -/

namespace Sys2Proof.Machine

/-- The four task states (R28). -/
inductive TaskState where
  | free | ready | waiting | halted
  deriving DecidableEq, Repr, Inhabited

/-- An active hardware loop level (R55-R57). -/
structure LoopLevel where
  /-- first; 16-bit byte address of the body's first word; R55; none at reset -/
  first : Nat
  /-- last; 16-bit byte address of the body's last word; R55; none at reset -/
  last : Nat
  /-- rem; 32; remaining iterations; R55, R56; none at reset -/
  rem : Word
  deriving DecidableEq, Repr, Inhabited

/-- Where a result goes. -/
inductive Dest where
  | reg (n : BitVec 5)
  | pred (n : BitVec 3)
  deriving DecidableEq, Repr, Inhabited

/-- A result waiting for its task cycle (R46). -/
structure PendingResult where
  /-- due; task cycle from which words read the value; R46 -/
  due : Nat
  dest : Dest
  value : DWord
  deriving DecidableEq, Repr, Inhabited

/-- A store in a task's store buffer (R54). -/
structure StoreEntry where
  addr : Nat
  size : Nat
  data : DWord
  /-- ord; place of the store in the order of all stores of the core; R54, R344 -/
  ord : Nat
  deriving DecidableEq, Repr, Inhabited

/-- A load that waits for its data (R47). -/
structure LoadWait where
  addr : Nat
  size : Nat
  signed : Bool
  rd : BitVec 5
  /-- due; task cycle of the issue plus 4; R46 -/
  due : Nat
  /-- pc; address of the load's word, for a fault found at the arrival; R63 -/
  pc : Nat
  /-- results of the task that were issued before the load; among results due together the later-issued wins; R36, R48 -/
  place : Nat
  /-- stores of the core issued before the load, which it must see; R54, R337 -/
  ord : Nat
  deriving DecidableEq, Repr, Inhabited

/-- Why a task is WAITING (R28, R53, R258). -/
inductive WaitCause where
  | none
  | queueDone (q : BitVec 3) (seq : Word)
  | stream (ctx : Nat) (count : Word)
  | lehr (target : DWord)
  | storeEmpty
  | queueFree (q : BitVec 3) (n : Nat)
  | rsel (tags : List Nat) (mode : Nat) (rd : BitVec 5)
  | load (l : LoadWait)
  /-- an ACQ over `[base, base+len)`, or everything when `all` -/
  | drop (base len : Nat) (all : Bool)
  | storeFull
  | queueStopped (q : Nat)
  /-- a SPAWN issued in N-cycle `at`: task `u` is to start at `pc` with argument `arg`; R51 -/
  | spawn (u pc : Nat) (arg : DWord) (rd : BitVec 5) (at_ : Nat)
  /-- that SPAWN has been performed, with its result; the task is READY from the next N-cycle; R51 -/
  | spawned (value : DWord) (rd : BitVec 5) (at_ : Nat)
  deriving DecidableEq, Repr, Inhabited

/-- One task (R27). -/
structure Task where
  /-- state; 2; R28, R65 (CC_TSTATE0/1); reset FREE -/
  state : TaskState
  /-- s0-s31; 32 x 64; R27; reset 0 DESIGN CHOICE 0 (log 2; R29 zeroes them at launch) -/
  regs : Vector DWord 32
  /-- p0-p7; 8; R27; reset 0 DESIGN CHOICE 0 (log 2; R29 clears p1-p7 at launch) -/
  preds : BitVec 8
  /-- pc; 16 (byte address, may reach the end of instruction memory); R27; reset 0 DESIGN CHOICE 0 (log 2) -/
  pc : Nat
  /-- loop stack; up to 4 levels, innermost first; R27, R55; reset empty -/
  loops : List LoopLevel
  /-- store buffer; up to 16 entries, oldest first; R27, R54; reset empty -/
  stores : List StoreEntry
  /-- results not yet due, in issue order; R46, R48; reset none -/
  results : List PendingResult
  /-- task cycle; R45; reset 0 -/
  cycle : Nat
  /-- what the task waits for by a WAIT, an RSEL, a SPAWN, a full store buffer or a stopped queue; R28; reset none -/
  cause : WaitCause
  /-- what the task waits for by a load, an ACQ or a CINVA; R28, R47, R344; reset none -/
  memWait : WaitCause
  /-- last RSEL position; 6; R258; 63 after SPAWN or launch; reset 63 -/
  rselPos : Nat
  deriving DecidableEq, Repr, Inhabited

/-- A task that holds no program (R29, R51): registers zero, p1-p7 false, last RSEL position 63. -/
def Task.fresh : Task where
  state := .free
  regs := Vector.replicate 32 0#64
  preds := 0#8
  pc := 0
  loops := []
  stores := []
  results := []
  cycle := 0
  cause := .none
  memWait := .none
  rselPos := 63

/-- A line of the data cache (R484). -/
structure CacheLine where
  /-- line; byte address / 64; R484 -/
  line : Nat
  /-- data; 512; byte k of the line in bits [8k+7:8k]; R484 -/
  data : BitVec 512
  /-- poison; 8; bit k: 8-byte word k of the line was uncorrectable; R63 -/
  poison : BitVec 8
  /-- bad; 1; the cache's own storage of the line holds an uncorrectable error; R63; a filled line has none -/
  bad : Bool
  deriving DecidableEq, Repr, Inhabited

/-- A command in an engine queue (R43, R44). -/
structure QueueCmd where
  /-- the N 64-bit registers; R43 -/
  regs : List DWord
  /-- seq; 32; the queue sequence number; R44 -/
  seq : Word
  deriving DecidableEq, Repr, Inhabited

/-- How far a command that an engine has taken has come: running, complete, or the one that stopped the queue (R61). -/
inductive CmdProgress where
  | run | done | faulted
  deriving DecidableEq, Repr, Inhabited

/-- One engine queue (R59-R66). -/
structure EngineQueue where
  /-- commands not yet taken, oldest first, at most 64; R59; reset empty -/
  entries : List QueueCmd
  /-- CC_QISS; 32; R65; reset 0 -/
  issued : Word
  /-- CC_QDONE; 32; R65; reset 0 -/
  completed : Word
  /-- taken commands that the completed count has not passed, oldest first; R59, R61; reset none -/
  outstanding : List (Word × CmdProgress)
  /-- CC_QSTAT.STOPPED; 1; R65; reset 0 -/
  stopped : Bool
  /-- CC_QSTAT.FCODE; 16; R65; reset 0 -/
  fcode : Half
  deriving DecidableEq, Repr, Inhabited

/-- The control core (R27-R67, R484). -/
structure Core where
  /-- tasks 0-31; R27; reset every task FREE -/
  tasks : Vector Task 32
  /-- the present task; 5; R52; reset 0 DESIGN CHOICE 0 (log 2) -/
  cur : Nat
  /-- the core must switch to another READY task if there is one (YLD, DLY, SPAWN); R52; reset false -/
  mustSwitch : Bool
  /-- a program runs: from a LAUNCH until every task is FREE or HALTED; R31; reset false -/
  running : Bool
  /-- data cache lines, most recently used first; 512 lines, 4 per set; R484; reset empty (R343: no line at LAUNCH) -/
  cache : List CacheLine
  /-- engine queues 0-7; R43; reset empty -/
  queues : Vector EngineQueue 8
  /-- CC_FAULT.CODE; 16; R65; reset 0 -/
  faultCode : Half
  /-- CC_FAULT.VALID; 1; R65; reset 0 -/
  faultValid : Bool
  /-- CC_FAULT.SLOT; 2; R65; reset 0 -/
  faultSlot : BitVec 2
  /-- CC_FAULT.TASK; 5; R65; reset 0 -/
  faultTask : BitVec 5
  /-- CC_FAULTPC.PC as a byte address; 16; R65; reset 0 -/
  faultPc : Half
  /-- CC_QOWN0/1 OWN fields; 8 x 5; R65; reset 0 -/
  owners : Vector (BitVec 5) 8
  /-- first beat in which a word may issue: the beat after that of the last LAUNCH; R302; reset 0 -/
  startBeat : Nat
  /-- stores issued so far; orders the stores of all tasks; R54; reset 0 -/
  storeCount : Nat
  /-- instruction memory; 64 KiB; R30; reset 0 DESIGN CHOICE 0 (log 3) -/
  imem : Memory
  /-- 8-byte words of instruction memory with an uncorrectable error, rising; R30; reset none -/
  imemBad : List Nat
  deriving DecidableEq, Repr, Inhabited

def EngineQueue.empty : EngineQueue where
  entries := []
  issued := 0#32
  completed := 0#32
  outstanding := []
  stopped := false
  fcode := 0#16

/-- The control core on entry into RUN and after reset (R32, R482); `imem` and its errors are kept apart. -/
def Core.fresh (imem : Memory) (bad : List Nat) : Core where
  tasks := Vector.replicate 32 Task.fresh
  cur := 0
  mustSwitch := false
  running := false
  cache := []
  queues := Vector.replicate 8 EngineQueue.empty
  faultCode := 0#16
  faultValid := false
  faultSlot := 0#2
  faultTask := 0#5
  faultPc := 0#16
  owners := Vector.replicate 8 0#5
  startBeat := 0
  storeCount := 0
  imem := imem
  imemBad := bad

end Sys2Proof.Machine
end

