-- ==== Sys2Proof/Machine/ManageState.lean ====
section
/-! DEFINITION. State of Marver, the journal, snapshots and replay, the Gaffer, MRAM, the compute tier and the pins. -/

namespace Sys2Proof.Machine

/-- Shard states (R354). -/
inductive ShardState where
  | empty | idle | armed | ready | stats | update | fault
  deriving DecidableEq, Repr, Inhabited

/-- One Marver shard (R354, R355). -/
structure Shard where
  /-- STATE; 4; R354; reset EMPTY -/
  state : ShardState
  /-- the 128 B descriptor as a little-endian number; 1024; R355; reset 0 -/
  desc : BitVec 1024
  /-- STEPN; 32; R360; reset 0 -/
  stepn : Word
  /-- ENDN; 32; R360; reset 0 -/
  endn : Word
  /-- ARR; 16 (shown modulo 4096); R360, R377; reset 0 -/
  arr : Nat
  /-- BAD; 1; R360; reset 0 -/
  bad : Bool
  /-- LRSRC sampled on entry into UPDATE; 32; R368; reset 0 -/
  lrsrc : Word
  /-- next block of the update pass; R365; reset 0 -/
  block : Nat
  /-- 1/mean(r), kept from the statistics phase; 32; R364; reset 0 -/
  rinv : Word
  /-- new row statistics; R x 32; R364; reset none -/
  rstat : List Word
  /-- new column statistics; C x 32; R364; reset none -/
  cstat : List Word
  /-- far writes of the step not acknowledged; R372; reset 0 -/
  farOut : Nat
  /-- the last block has been written and ENDN waits for acknowledgements; R372; reset false -/
  ending : Bool
  /-- first block of the publication message being packed; R370; reset 0 -/
  pubFirst : Nat
  /-- blocks of it so far: E8M0 scale and 32 element bytes; R370; reset none -/
  pubBlocks : List (Byte × List Byte)
  /-- destinations skipped for the rest of the step; 8; R371; reset 0 -/
  pubSkip : BitVec 8
  /-- volatile reads since the last MARK (ORD); R408; reset 0 -/
  ord : Nat
  deriving DecidableEq, Repr, Inhabited

def Shard.none : Shard where
  state := .empty
  desc := 0#1024
  stepn := 0#32
  endn := 0#32
  arr := 0
  bad := false
  lrsrc := 0#32
  block := 0
  rinv := 0#32
  rstat := []
  cstat := []
  farOut := 0
  ending := false
  pubFirst := 0
  pubBlocks := []
  pubSkip := 0#8
  ord := 0

/-- A publication message that waits to be sent (R371). -/
structure PubMsg where
  shard : Nat
  payload : List Byte
  /-- destinations still to serve, in order: the place in PCENT0-7 and the credit entry it named -/
  todo : List (Nat × Nat)
  deriving DecidableEq, Repr, Inhabited

/-- A command Marver has taken that waits (R360). -/
inductive MvWait where
  /-- the sequence number is absent for a command taken before the last LAUNCH (R302) -/
  | shgo (shard : Nat) (skip : Bool) (seq : Option Word)
  | shsync (shard : Nat) (target : Word) (seq : Option Word)
  deriving DecidableEq, Repr, Inhabited

/-- The Marver update engine (R353-R378). -/
structure Marver where
  /-- shards 0-255; R353; reset EMPTY -/
  shards : List (Nat × Shard)
  /-- DONE slots of UPDATE rings held or to be processed, in the order they became DONE: ring tag and slot; R361; reset none -/
  slots : List (Nat × Nat)
  /-- the shard whose chunk waits for its stage writes to be acknowledged, and the slot still to be released; R362; reset none -/
  chunk : Option (Nat × Option (Nat × Nat))
  /-- a command that waits and holds up queue 6; R360; reset none -/
  wait : Option MvWait
  /-- publication buffers; up to 4; R371; reset none -/
  pubs : List PubMsg
  /-- MV_STAT bits [6:1]; 7; R377; reset 0 -/
  stat : BitVec 7
  /-- MV_FAULT.CODE; 16; R377; reset 0 -/
  fCode : Half
  /-- MV_FAULT.VALID; 1; R377; reset 0 -/
  fValid : Bool
  /-- MV_FAULT.SHARD; 8; R377; reset 0 -/
  fShard : Byte
  /-- MV_LR; 32; R377; reset 0 -/
  lr : Word
  /-- MV_SCHED.MODE; 1; R377; reset 1 -/
  mode : Bool
  /-- MV_LRMAX; 32; R377; reset 0 -/
  lrmax : Word
  /-- MV_LRMIN; 32; R377; reset 0 -/
  lrmin : Word
  /-- MV_WARM; 32; R377; reset 0 -/
  warm : Word
  /-- MV_PERIOD; 32; R377; reset 0 -/
  period : Word
  /-- MV_SEED; 64; R377; reset 0 -/
  seed : DWord
  /-- MV_SSEL.SHARD; 8; R377; reset 0 -/
  ssel : Byte
  /-- MV_ORPHAN; 32; R377; reset 0 -/
  orphan : Word
  /-- MV_DUP; 32; R377; reset 0 -/
  dup : Word
  /-- MV_BLOCKS; 64; R377; reset 0 -/
  blocks : DWord
  deriving DecidableEq, Repr, Inhabited

/-- Replay states (R430: JN_RSTAT.STATE). -/
inductive ReplayState where
  | none | restored | replay | tail | failed
  deriving DecidableEq, Repr, Inhabited

/-- The steps of a snapshot (R399): the MARK is appended and the freeze is on; the header with COMPLETE clear is on
its way, then acknowledged; the areas and regions are being copied; everything is read; the header with COMPLETE set is on
its way, then acknowledged. -/
inductive SnapPhase where
  | idle | marked | header | headerDone | copying | copied | final | finalDone
  deriving DecidableEq, Repr, Inhabited

/-- A piece of a snapshot that is still to be written, with its system address (R399, R403). -/
inductive SnapPiece where
  /-- bytes of a header page or of a state area -/
  | bytes (addr : Nat) (bs : List Byte)
  /-- the `k`-th 256 bytes of local memory region `r` -/
  | region (addr : Nat) (r k : Nat)
  deriving DecidableEq, Repr, Inhabited

/-- A journal record in the staging buffer (R408, R409). -/
structure JRecord where
  jseq : Word
  /-- bytes appended before it, pads included; the record lies at this number modulo the region's size -/
  pos : Nat
  bytes : List Byte
  /-- beat in which it was appended, and its place among the records of that beat; R411 -/
  beat : Nat
  rank : Nat
  deriving DecidableEq, Repr, Inhabited

/-- The place of a MARK in the journal and the counts of R412 there, from which a FENCE record says what changed (R413). -/
structure MarkPoint where
  jseq : Word
  /-- bytes appended before it, pads included -/
  pos : Nat
  send : List (Nat × Word)
  credit : List (Nat × Word)
  revoke : List (Nat × Half)
  deriving DecidableEq, Repr, Inhabited

/-- A volatile-read record that a replay holds until its transfer is made (R418). -/
structure ReadRecord where
  jseq : Word
  src : Nat
  ord : Nat
  faddr : DWord
  data : List Byte
  deriving DecidableEq, Repr, Inhabited

/-- The journal, trace, snapshots and replay (R397-R431). -/
structure Journal where
  /-- JN_CTL.EN; 1; R430; reset 1 -/
  en : Bool
  /-- JN_CTL.TEN; 1; R430; reset 0 -/
  ten : Bool
  /-- JN_STAT bits [7:1]; 8; R430; reset 0 -/
  stat : BitVec 8
  /-- JN_BASE; 64, bits [56:16]; R430; reset 0 -/
  base : DWord
  /-- JN_SIZE; 16; R430; reset 0 -/
  size : Half
  /-- staging buffer, journal records, oldest first; 256 KiB with the trace; R409; reset empty -/
  staged : List JRecord
  /-- staging buffer, trace samples, oldest first; R409, R410; reset empty -/
  trace : List (List Byte)
  /-- JN_WSEQ; 32; R430; reset 0 -/
  wseq : Word
  /-- JSEQ of the next record; 32; R408; reset DESIGN CHOICE 1 (log 2) -/
  nextSeq : Word
  /-- bytes appended so far, pads included: the place of the next record; R411; reset 0 DESIGN CHOICE 0 (log 2) -/
  wpos : Nat
  /-- the retention point, once there is a MARK; R411; reset none -/
  retain : Option MarkPoint
  /-- the MARK of the snapshot being taken; R399; reset none -/
  snapMark : Option MarkPoint
  /-- back-pressure is on; R409; reset false -/
  bpress : Bool
  /-- TRACE_STARVED was posted since TSTARV was cleared; R409; reset false -/
  starvPosted : Bool
  /-- the writer has stopped at the retention point; R411; reset false -/
  stopped : Bool
  /-- JN_RSTAT.FVALID; 1; R430; reset 0 -/
  fvalid : Bool
  /-- JN_RSTAT.FLCID; 11; R430; reset 0 -/
  flcid : BitVec 11
  /-- JN_RSTAT.CAUSE; 8; R430; reset 0 -/
  cause : Byte
  /-- JN_RSTAT.STATE; 3; R430; reset NONE -/
  rstate : ReplayState
  /-- JN_SNAPBASE; 64, bits [56:20]; R430; reset 0 -/
  snapBase : DWord
  /-- JN_SNAPSTAT.VALID; 1; R430; reset 0 -/
  snapValid : Bool
  /-- JN_SNAPSTAT.BUSY; 1; R430; reset 0 -/
  snapBusy : Bool
  /-- JN_SNAPSTAT.PEND; 1; R430; reset 0 -/
  snapPend : Bool
  /-- LC of the beat in which PEND was set; 64; R397; reset 0 -/
  snapPendAt : DWord
  /-- JN_SNAPSTAT.BANK; 1; R430; reset 0 -/
  snapBank : Bool
  /-- JN_SNAPSTAT.RCAUSE; 8; R430; reset 0 -/
  rcause : Byte
  /-- JN_SNAPSTAT.COUNT; 16; R430; reset 0 -/
  snapCount : Half
  /-- JN_RESUME.PC as a byte address; 16; R430; reset 0 -/
  resume : Half
  /-- JN_SNAPID; 64; R430; reset 0 -/
  snapId : DWord
  /-- JN_TCFG.TSIZE; 16; R430; reset 0 -/
  tsize : Half
  /-- JN_TCFG.TPER; 5; R430; reset 0 -/
  tper : BitVec 5
  /-- JN_TBASE; 64, bits [56:16]; R430; reset 0 -/
  tbase : DWord
  /-- trace samples written to the trace region; R410; reset 0 DESIGN CHOICE 0 (log 2) -/
  tpos : Nat
  /-- LC of the last trace sample, so that one is taken per beat; R410; reset none -/
  tlast : Option DWord
  /-- counters at the last sample: array busy beats, vector busy beats, accepted, sent; R410; reset 0 -/
  tprev : Vector DWord 4
  /-- JN_LIVE; 512; R430; reset all ones -/
  live : BitVec 512
  /-- dirty bits of bank 0; 512; R401; reset 0 DESIGN CHOICE 0 (log 2; set on every entry into RUN) -/
  dirty0 : BitVec 512
  /-- dirty bits of bank 1; 512; R401; reset 0 DESIGN CHOICE 0 (log 2; set on every entry into RUN) -/
  dirty1 : BitVec 512
  /-- JN_VOLB; 16 x 64, bits [56:16]; R430; reset 0 -/
  volB : Vector DWord 16
  /-- JN_VOLS.V; 16 x 1; R430; reset 0 -/
  volV : BitVec 16
  /-- JN_VOLS.SIZE; 16 x 16; R430; reset 0 -/
  volS : Vector Half 16
  /-- the freeze of R400 is on; R400; reset false -/
  freeze : Bool
  /-- the snapshot being taken: SNAPID, bank, barrier, its GEN, JSEQ of the MARK; R399; reset none -/
  snapNow : Option (DWord × Bool × Nat × Half × Word)
  /-- how far the snapshot being taken has come; R399; reset idle -/
  snapPhase : SnapPhase
  /-- the header page with COMPLETE set, as of the copy; R399, R404; reset none -/
  snapPage : List Byte
  /-- pieces of the snapshot still to be written, in order; R399; reset none -/
  snapTodo : List SnapPiece
  /-- far writes of the snapshot outstanding; R399; reset 0 -/
  snapOut : Nat
  /-- snapshots attempted since reset (SEQ); 32; R404; reset 0 -/
  snapSeq : Word
  /-- LCID of the snapshot that the last RESTORE loaded, if the cluster has held no logical ID since; 11; R174, R416; reset none -/
  restLcid : Option (BitVec 11)
  /-- LCID of the cluster whose snapshot was restored last: the ID that starts TAIL; 11; R416, R421; reset 0 -/
  restFor : BitVec 11
  /-- SNAPID restored; 64; R417; reset 0 -/
  restId : DWord
  /-- JSEQ of the snapshot's MARK, from the restored header; 32; R417; reset 0 -/
  restMark : Word
  /-- JSEQ of the next record of the message cursor and of the read cursor; R418; reset 0 -/
  curMsg : Word
  curRead : Word
  /-- the read cursor has met END; R424; reset false -/
  readEnd : Bool
  /-- JSEQ of the FENCE record that the REPLAY named; R417; reset 0 -/
  fenceSeq : Word
  /-- READ records waiting for their transfer, in order; R418; reset none -/
  waiting : List ReadRecord
  /-- sends still to suppress by credit entry; R419; reset none -/
  supSend : List (Nat × Word)
  /-- CREDITs still to suppress by ring tag; R419; reset none -/
  supCredit : List (Nat × Word)
  /-- REVOKEs still to suppress by ring tag; R419; reset none -/
  supRevoke : List (Nat × Word)
  /-- FENCE record's GEN and ARRIVED per barrier; R419; reset none -/
  fenceBars : List (Half × Bool)
  deriving DecidableEq, Repr, Inhabited

/-- Where a command packet came from (R432). -/
inductive PacketInput where
  | port
  | mailbox (m : Master)
  /-- ring 1: domain of the carrying message, chip and logical ID of the sender -/
  | ring1 (domain : BitVec 6) (chip : BitVec 12) (lcid : BitVec 11)
  deriving DecidableEq, Repr, Inhabited

/-- What a reply needs (R434-R436). -/
structure ReplyTo where
  input : PacketInput
  /-- CP1 reply -/
  cp1 : Bool
  opc : Byte
  tag : Half
  src : Byte
  deriving DecidableEq, Repr, Inhabited

/-- A command whose action is running (R439). -/
inductive GafferAction where
  | loadFw (r : ReplyTo) (src : DWord) (len : Nat)
  /-- LAUNCH_AT: target, entry, det, source, length, barrier entries -/
  | launchAt (r : ReplyTo) (target : DWord) (entry : Nat) (det : Bool) (src : DWord) (len : Nat) (bars : List (Word × Word × Word))
  | anneal (r : ReplyTo)
  | restore (r : ReplyTo) (base : DWord) (bank : Bool) (src : DWord) (len : Nat)
  /-- journal-mode REPLAY reading its FENCE record: base, size, JSEQ -/
  | replayRead (r : ReplyTo) (base : DWord) (size : Nat) (jseq : Word)
  /-- REPLAY under way until STATE is NONE or FAILED; no-journal mode when `false` -/
  | replayRun (r : ReplyTo) (journal : Bool)
  deriving DecidableEq, Repr, Inhabited

/-- A WRITE_MOULD under way (R443, R455). -/
inductive MouldAction where
  /-- reading the image -/
  | read (r : ReplyTo) (mould : BitVec 2) (src : DWord)
  /-- image checked, waiting for PWR_STABLE or for another store since that N-cycle -/
  | wait (r : ReplyTo) (mould : BitVec 2) (image : List Byte) (sinceNc : Nat)
  /-- the store is running -/
  | store (r : ReplyTo) (mould : BitVec 2) (image : List Byte)
  deriving DecidableEq, Repr, Inhabited

/-- An event in the firmware's queue (R446). -/
structure Event where
  code : Half
  source : Byte
  tier : BitVec 3
  lc : DWord
  pos : Word
  detail : List Word
  deriving DecidableEq, Repr, Inhabited

/-- What waits to leave on the management port (R447, R464). -/
inductive OutPacket where
  | event (e : Event)
  | reply (bytes : List Byte) (reset : Bool)
  deriving DecidableEq, Repr, Inhabited

/-- A packet waiting at an input of the Gaffer (R432, R433). -/
structure InPacket where
  input : PacketInput
  bytes : List Byte
  deriving DecidableEq, Repr, Inhabited

/-- The Gaffer, its inputs and outputs, moulds, access tables and MRAM (R432-R458). -/
structure Gaffer where
  /-- packets waiting, in arrival order; 4 from the port, 1 from the mailbox, 8 from ring 1; R432; reset none -/
  inq : List InPacket
  /-- replies and events for the management port, oldest first; R447; reset none -/
  outq : List OutPacket
  /-- events dropped since the last event sent; 16; R447; reset 0 -/
  lost : Half
  /-- running action of the Tier and program group; R439; reset none -/
  action : Option GafferAction
  /-- running WRITE_MOULD; R439; reset none -/
  mouldAct : Option MouldAction
  /-- version of the checked firmware image in Gaffer RAM; R443, R444; reset none -/
  image : Option Word
  /-- KFEAT3.FW_MAJOR, FW_MINOR, FW_PATCH; 16; R64; reset 0 -/
  fw : Half
  /-- START_FW has completed; R440; reset false -/
  started : Bool
  /-- N-cycle at which START_FW completed; R330; reset 0 -/
  startedNc : Nat
  /-- N-cycle at which the tier entered RUN; R330; reset 0 -/
  runNc : Nat
  /-- KCR_BOOT.STEP; 4; R457; reset 2 -/
  step : BitVec 4
  /-- KCR_BOOT.FAIL; 1; R457; reset 0 -/
  fail : Bool
  /-- KCR_MOULD.EVTEN; 1; R457; reset 0 -/
  evten : Bool
  /-- KCR_MOULD.TORN; 1; R457; reset 0 -/
  torn : Bool
  /-- KCR_MOULD.OVR; 1; R457; reset 0 -/
  ovr : Bool
  /-- KCR_MOULD.SEL; 2; R457; reset 0 -/
  sel : BitVec 2
  /-- KCR_MOULD.PINS; 2; R457; reset from MOULD_SEL -/
  pins : BitVec 2
  /-- AC_ENT(m); 96 x 32, entries of 0x01 and 0x50 fixed in the accessor; R449, R450, R457; reset 0 -/
  access : List (Nat × Word)
  /-- the cluster's domain; 6; R450, R451; reset 0 DESIGN CHOICE 0 (log 2; a mould sets it) -/
  domain : BitVec 6
  /-- MRAM; 256 KiB; R454; reset 0 DESIGN CHOICE 0 (log 3: non-volatile contents) -/
  mram : Memory
  /-- moulds a torn store has left; 4; R455; reset 0 DESIGN CHOICE 0 (log 3) -/
  tornMould : BitVec 4
  /-- kiln slots a torn store has left; R455; reset none DESIGN CHOICE none (log 3) -/
  tornKiln : List Nat
  /-- kiln records queued and the one being stored first; up to 8; R429; reset none -/
  kiln : List (List Byte)
  /-- the first queued kiln record is being stored (KCR_BOOT.NVBUSY with a mould store); R455; reset false -/
  kilnBusy : Bool
  /-- JN_KSEQ; 32; R430; reset 0 -/
  kseq : Word
  /-- SEQ of the next kiln record; 32; R429; reset 0 -/
  kilnNext : Word
  /-- mailbox request buffer; 2 KiB; R432, R480; reset 0 DESIGN CHOICE 0 (log 2) -/
  mbReq : Memory
  /-- mailbox reply buffer; 1.75 KiB; R458; reset 0 DESIGN CHOICE 0 (log 2) -/
  mbRep : Memory
  /-- MB_CTL.DONE; 1; R457; reset 0 -/
  mbDone : Bool
  /-- MB_CTL.BUSY; 1; R457; reset 0 -/
  mbBusy : Bool
  /-- the RESET_CLUSTER reply was queued at that N-cycle and the cluster has yet to reset; R443; reset none -/
  resetAt : Option Nat
  /-- the RESET_CLUSTER reply has crossed; R443; reset false -/
  resetGo : Bool
  /-- the mould in force was valid when it was loaded or switched to; R452, R453; reset false -/
  mouldOk : Bool
  /-- PWR_STABLE has fallen since the running MRAM store began; R455; reset false -/
  storeLost : Bool
  /-- the last packet sent on the management port: the model's own output; R447, R464; DESIGN CHOICE none (log 2) -/
  sent : List Byte
  deriving DecidableEq, Repr, Inhabited

/-- Compute-tier states (R18). -/
inductive TierState where
  | off | starting | run | fenced | fencedOff | anneal
  deriving DecidableEq, Repr, Inhabited

/-- The compute tier, its supply and the mode register (R18-R24, R383, R473). -/
structure Tier where
  /-- KCR_TIER.STATE; 3; R18; reset OFF -/
  state : TierState
  /-- KCR_TIER.CAUSE; 8; R18; reset 0 -/
  cause : Byte
  /-- KCR_MODE.DET; 1; R383; reset 0 -/
  det : Bool
  /-- KCR_MODE.DETNEXT; 1; R383; reset 0 -/
  detNext : Bool
  /-- VCT_REQ; 5; R473; reset 0 -/
  vctReq : BitVec 5
  /-- VCT_ON; 1; R473; reset 0 -/
  vctOn : Bool
  /-- N-cycle of the entry into STARTING, or of the closing of the switches in ANNEAL; R19, R473; reset 0 -/
  sinceNc : Nat
  /-- power good seen since then; R19; reset false -/
  powerGood : Bool
  /-- the tier interface has trained since then; R19; reset false -/
  trained : Bool
  /-- a FENCE kept the tier from starting at step 8; R456; reset false -/
  skipped : Bool
  deriving DecidableEq, Repr, Inhabited

/-- Pins and test state (R277, R461, R472, R475). -/
structure Pins where
  /-- RST_N is low; R468; reset false (State.reset is the state after its release) -/
  resetHeld : Bool
  /-- RST_N fell while an MRAM store ran; R468; reset false -/
  resetPending : Bool
  /-- RST_N has risen again, with these straps, while such a store still ran; R468; reset none -/
  release : Option Straps
  /-- PWR_STABLE; 1; R472; reset 0 DESIGN CHOICE 0 (log 2) -/
  pwrStable : Bool
  /-- TEST_MODE; 1; R277; reset 0 DESIGN CHOICE 0 (log 2) -/
  testMode : Bool
  /-- the base tier has failed; R24; reset false -/
  dead : Bool
  deriving DecidableEq, Repr, Inhabited

end Sys2Proof.Machine
end

