-- ==== Sys2Proof/Machine/MoveState.lean ====
section
/-! DEFINITION. State of local memory, the stream engine, the far port, rings, credits, the schedule unit,
the Lehr counter and the router. -/

namespace Sys2Proof.Machine

/-- Local memory (R201-R206). -/
structure LocalMemory where
  /-- bytes; 2 MiB; R201; reset 0 (R206: the self-test leaves it zero) -/
  mem : Memory
  /-- 8-byte words with an uncorrectable error, by address / 8, rising; R204; reset none -/
  bad : List Nat
  /-- 8-byte words with a single-bit error, by address / 8, rising; R204, R205; reset none -/
  single : List Nat
  /-- next bank row the scrubber reads; 15; R205; reset 0 DESIGN CHOICE 0 (log 2) -/
  scrubRow : Nat
  /-- N-cycle of the scrubber's last row; R205; reset 0 -/
  scrubNc : Nat
  /-- SE_ECCCNT; 32; R236; reset 0 -/
  eccCount : Word
  /-- SE_ECCADDR.VALID; 1; R236; reset 0 -/
  eccValid : Bool
  /-- SE_ECCADDR.ADDR as a byte address; 21; R236; reset 0 -/
  eccAddr : BitVec 21
  deriving DecidableEq, Repr, Inhabited

/-- Context states (R210). -/
inductive CtxState where
  | idle | running | done | pageHalt | fault | paused
  deriving DecidableEq, Repr, Inhabited

/-- A token sequence of a KVGATHER block as read at the block's begin (R231). -/
structure KvSlot where
  /-- place i in the slot list -/
  i : Nat
  plist : DWord
  len : Nat
  npg : Nat
  deriving DecidableEq, Repr, Inhabited

/-- A block descriptor as read (R213, R229), bases added. -/
structure BlockDesc where
  src : DWord
  dst : DWord
  rowlen : Nat
  zero : Bool
  kv : Bool
  /-- rows of a COPY, or slots of a KVGATHER -/
  rows : Nat
  tpp : Nat
  sstride : Nat
  dstride : Nat
  /-- the VALID slots of a KVGATHER, in list order, up to the first failing one -/
  slots : List KvSlot
  /-- the first failing slot: the offset where it begins, FADDR, and the code (R231) -/
  bad : Option (Nat × DWord × Half)
  deriving DecidableEq, Repr, Inhabited

/-- Why and where a context is halting (R215, R225, R227). -/
structure HaltInfo where
  page : Bool
  code : Half
  faddr : DWord
  blk : Nat
  off : Nat
  deriving DecidableEq, Repr, Inhabited

/-- A stream context (R209). -/
structure StreamCtx where
  /-- LIST; 64; R209; reset 0 -/
  list : DWord
  /-- SBASE; 64; R209; reset 0 -/
  sbase : DWord
  /-- DBASE; 64; R209; reset 0 -/
  dbase : DWord
  /-- DELIVERED; 32; R209; reset 0 -/
  delivered : Word
  /-- NBLK; 16; R209; reset 0 -/
  nblk : Nat
  /-- CUR; 16; R209: lowest incomplete block; reset 0 -/
  cur : Nat
  /-- OFFSET; 32; R209; reset 0 -/
  offset : Nat
  /-- STATE; 3; R210; reset IDLE -/
  state : CtxState
  /-- LIMIT; 8; R209; reset 0 -/
  limit : Nat
  /-- FLAGS.PERS; 1; R209; reset 0 -/
  pers : Bool
  /-- FLAGS.FW; 1; R209; reset 0 -/
  fw : Bool
  /-- FCODE; 16; R209; reset 0 -/
  fcode : Half
  /-- FADDR; 64; R209; reset 0 -/
  faddr : DWord
  /-- block whose next transfer is to be issued; R214; reset 0 -/
  iblk : Nat
  /-- byte offset in that block of the next transfer; R214; reset 0 -/
  ioff : Nat
  /-- descriptor of block iblk once read; R213; reset none -/
  desc : Option BlockDesc
  /-- a halt that waits for the outstanding transfers; R225; reset none -/
  halt : Option HaltInfo
  /-- block at whose start the context pauses; R235; reset none -/
  pauseAt : Option Nat
  /-- volatile reads made since the last MARK (ORD); R408; reset 0 -/
  ord : Nat
  deriving DecidableEq, Repr, Inhabited

def StreamCtx.idle : StreamCtx where
  list := 0#64
  sbase := 0#64
  dbase := 0#64
  delivered := 0#32
  nblk := 0
  cur := 0
  offset := 0
  state := .idle
  limit := 0
  pers := false
  fw := false
  fcode := 0#16
  faddr := 0#64
  iblk := 0
  ioff := 0
  desc := none
  halt := none
  pauseAt := none
  ord := 0

/-- An outstanding stream transfer (R214). -/
structure Xfer where
  ctx : Nat
  blk : Nat
  off : Nat
  len : Nat
  /-- source as named by the block -/
  src : DWord
  /-- destination as named by the block -/
  dst : DWord
  zero : Bool
  /-- tag at the far port, none for a local transfer -/
  tag : Option Nat
  /-- the far read is volatile (R407) -/
  volat : Bool
  /-- ORD of a volatile read (R408) -/
  ord : Nat
  /-- system address bits [56:0] of the far side, after translation; 0 for a local transfer -/
  faddr : Nat
  /-- bytes read from local memory when the transfer was issued -/
  data : List Byte
  deriving DecidableEq, Repr, Inhabited

/-- A command that waits inside the stream engine (R212). -/
inductive SeWait where
  /-- the sequence number is absent for a command taken before the last LAUNCH (R302) -/
  | rearm (ctx : Nat) (sbase dbase : DWord) (seq : Option Word)
  | sstop (ctx : Nat) (seq : Option Word)
  deriving DecidableEq, Repr, Inhabited

/-- A TLB entry: 64 KiB or 2 MiB page (R223). -/
structure TlbEntry where
  /-- far address of the page, bits [56:0] -/
  page : Nat
  big : Bool
  /-- system address of the page -/
  addr : Nat
  writable : Bool
  deriving DecidableEq, Repr, Inhabited

/-- A transfer waiting for a page-table walk (R224). -/
structure Walk where
  ctx : Nat
  /-- far address of the access, bits [56:0] -/
  addr : Nat
  write : Bool
  blk : Nat
  off : Nat
  deriving DecidableEq, Repr, Inhabited

/-- The stream engine (R207-R237). -/
structure StreamEngine where
  /-- stream contexts; 3072 x 64 B; R209; reset every context IDLE and zero (R456 step 6) -/
  ctxs : List (Nat × StreamCtx)
  /-- outstanding transfers, oldest first; R214, R216; reset none -/
  xfers : List Xfer
  /-- a REARM or SSTOP that waits; R212; reset none -/
  wait : Option SeWait
  /-- context served last; 12; R216; reset 0 DESIGN CHOICE 0 (log 2) -/
  last : Nat
  /-- regulator buckets read, write, remote in hundredths of a byte; R218; reset full (4096 B) -/
  buckets : Vector Nat 3
  /-- TLB; 4096 entries, newest first; R223; reset empty -/
  tlb : List TlbEntry
  /-- walks waiting, oldest first; R224; reset none -/
  walks : List Walk
  /-- sequence table; 512 x 32 B; R228; reset 0 (R456 step 6) -/
  seqTable : Memory
  /-- SE_FAULT.CODE; 16; R236; reset 0 -/
  fCode : Half
  /-- SE_FAULT.VALID; 1; R236; reset 0 -/
  fValid : Bool
  /-- SE_FAULT.CTX; 12; R236; reset 0 -/
  fCtx : BitVec 12
  /-- SE_FADDR; 64; R236; reset 0 -/
  fAddr : DWord
  /-- SE_REG.READ; 8; R236; reset 0x32 -/
  shareRead : Byte
  /-- SE_REG.WRITE; 8; R236; reset 0x1E -/
  shareWrite : Byte
  /-- SE_REG.REMOTE; 8; R236; reset 0x14 -/
  shareRemote : Byte
  /-- SE_XCTL.EN; 1; R236; reset 0 -/
  xlatEn : Bool
  /-- SE_PTROOT; 64, bits [56:12]; R236; reset 0 -/
  ptroot : DWord
  /-- SE_THROT; 32; R236; reset 0 -/
  throt : Word
  /-- a transfer was refused for want of tokens in the present beat; R220; reset false -/
  throttled : Bool
  deriving DecidableEq, Repr, Inhabited

/-- What an outstanding far request is for (R461: FA_USER). -/
inductive FarUse where
  | stream
  | journal (jseq : Word)
  | trace
  | snapshot
  | snapHeader (complete : Bool)
  | marver (shard : Nat)
  deriving DecidableEq, Repr, Inhabited

/-- An outstanding far request (R463). -/
structure FarReq where
  /-- FA_TAG; 11 -/
  tag : Nat
  write : Bool
  /-- system address, bits [56:0] -/
  addr : Nat
  /-- bytes, 16-256 -/
  len : Nat
  /-- FA_MID -/
  mid : Master
  use : FarUse
  /-- write data sent, or read data received so far -/
  data : List Byte
  /-- worst error of the beats received so far -/
  err : FarErr
  deriving DecidableEq, Repr, Inhabited

/-- A message accepted into a PLAIN ring and not yet written (R248). -/
structure RingWrite where
  tag : Nat
  /-- nominal write position P at acceptance -/
  pos : Word
  n : Nat
  msg : Message
  stamp : DWord
  deriving DecidableEq, Repr, Inhabited

/-- Where a send's payload comes from. -/
inductive SendSource where
  /-- local memory, with the bytes to read (MSEND, XSEND) -/
  | memory (paddr : Nat) (len : Nat)
  /-- bytes put together by Marver (R370) -/
  | bytes (payload : List Byte)
  deriving DecidableEq, Repr, Inhabited

/-- A send that has been taken: parked, or released and on its way (R255, R256). -/
structure Send where
  /-- queue 7 sequence number, none for a publication -/
  seq : Option Word
  opc : Byte
  entry : Nat
  /-- lane, LEN, SLOT and CID of the command -/
  lane : Nat
  len : Nat
  slot : Nat
  cid : Nat
  /-- header, built from the entry when the send is released -/
  w0 : DWord
  w1 : DWord
  src : SendSource
  /-- EXACT gather: scale exponent to convert with (R260) -/
  exact : Option Int
  /-- granules -/
  n : Nat
  deriving DecidableEq, Repr, Inhabited

/-- Rings, credits and sends (R238-R271, R412). -/
structure Rings where
  /-- ring descriptors; 8192 x 32 B, byte 32t; R241; reset 0 (R243) -/
  store : Memory
  /-- credit table; 2048 x 16 B, byte 16e, PARKED kept in `parked`; R252; reset 0 -/
  credit : Memory
  /-- messages accepted and not written, oldest first; R248; reset none -/
  writes : List RingWrite
  /-- parked sends in parking order; up to 64; R255; reset none -/
  parked : List Send
  /-- RG_CSTAT.CODE; 16; R270; reset 0 -/
  cCode : Half
  /-- RG_CSTAT.TAG; 13; R270; reset 0 -/
  cTag : BitVec 13
  /-- RG_CSTAT.BUSY; 1; R270; reset 0 -/
  cBusy : Bool
  /-- RG_STAT bits [10:1]; 11; R270; reset 0 -/
  stat : BitVec 11
  /-- RG_DFIRST.CODE; 16; R270; reset 0 -/
  dCode : Half
  /-- RG_DFIRST.VALID; 1; R270; reset 0 -/
  dValid : Bool
  /-- RG_DFIRST.TAG; 13; R270; reset 0 -/
  dTag : BitVec 13
  /-- RG_DISC; 32; R270; reset 0 -/
  disc : Word
  /-- RG_STALE.VALID; 1; R270; reset 0 -/
  staleValid : Bool
  /-- RG_STALE.ENTRY; 11; R270; reset 0 -/
  staleEntry : BitVec 11
  /-- RG_TX; 64; R270; reset 0 -/
  tx : DWord
  /-- RG_RX; 64; R270; reset 0 -/
  rx : DWord
  /-- send count per credit entry; 2048 x 32; R412; reset 0 DESIGN CHOICE 0 (log 2) -/
  sendCount : List (Nat × Word)
  /-- CREDIT messages generated per ring tag; 8192 x 32; R412; reset 0 DESIGN CHOICE 0 (log 2) -/
  creditCount : List (Nat × Word)
  /-- REVOKE multicasts per ring tag; 8192 x 16; R412; reset 0 DESIGN CHOICE 0 (log 2) -/
  revokeCount : List (Nat × Half)
  deriving DecidableEq, Repr, Inhabited

/-- A receive window (R298). -/
structure Window where
  /-- LH_WACT bit; 1; R304; reset 0 -/
  active : Bool
  /-- LH_WDONE bit; 1; R304; reset 0 -/
  done : Bool
  /-- TAG; 13; R298; reset 0 -/
  tag : Nat
  /-- EXPECT; 16; R298; reset 0 -/
  expect : Nat
  /-- OPEN; 64; R298; reset 0 -/
  opens : DWord
  /-- CLOSE; 64; R298; reset 0 -/
  closes : DWord
  /-- count of the window; R298; reset 0 -/
  count : Nat
  /-- order in which it was armed; R299; reset 0 -/
  order : Nat
  deriving DecidableEq, Repr, Inhabited

/-- The schedule unit (R253-R256, R284-R302). -/
structure Sched where
  /-- an XSEND held at the head of queue 7, with its target; R294; reset none -/
  held : Option (Send × DWord)
  /-- released sends whose payload has not been read, oldest first; R256; reset none -/
  sends : List Send
  /-- beat in which the unit may take its next command; R294, R295; reset 0 -/
  freeBeat : Nat
  /-- N-cycle up to which the send port is held; R295; reset 0 -/
  portNc : Nat
  /-- receive windows 0-63; R298; reset inactive -/
  windows : Vector Window 64
  /-- windows armed so far; orders them; R299; reset 0 -/
  armed : Nat
  /-- the barrier whose BAR is pending, with the sequence number of the BAR; R285; reset none -/
  bar : Option (Nat × Word)
  /-- what the ARRIVE of that BAR waits for held at the start of the present beat; R285; reset false -/
  barReady : Bool
  deriving DecidableEq, Repr, Inhabited

/-- A timed action entry (R279-R281, R304). -/
structure TimedAction where
  /-- TARGET; 64; R304; reset 0 -/
  target : DWord
  /-- CTL.ARMED; 1; R304; reset 0 -/
  armed : Bool
  /-- CTL.FIRED; 1; R304; reset 0 -/
  fired : Bool
  /-- CTL.MISSED; 1; R304; reset 0 -/
  missed : Bool
  /-- CTL.KIND; 4; R304; reset 0 -/
  kind : BitVec 4
  /-- ARG; 32; R304; reset 0 -/
  arg : Word
  /-- the entry was armed by REPLAY; R302, R417; reset false -/
  replay : Bool
  deriving DecidableEq, Repr, Inhabited

/-- A barrier entry (R283, R304). -/
structure Barrier where
  /-- ROOT.CHIP; 12; R304; reset 0 -/
  rootChip : BitVec 12
  /-- ROOT.LCID; 11; R304; reset 0 -/
  rootLcid : BitVec 11
  /-- EXPECT; 24; R304; reset 0 -/
  expect : BitVec 24
  /-- CFG.MARGIN; 16; R304; reset 0 -/
  margin : Half
  /-- CFG.GEN; 16; R304; reset 0 -/
  gen : Half
  /-- RSTAT.RGEN; 16; R304; reset 0 -/
  rgen : Half
  /-- RCNT; 24; R304; reset 0 -/
  rcnt : BitVec 24
  /-- RSTAT.PEND; 1; R304; reset 0 -/
  pend : Bool
  /-- beat in which the barrier passes, once a RELEASE has matched, and whether a replay took that RELEASE from a record; R287,
R418; reset none -/
  passAt : Option (DWord × Bool)
  /-- the ARRIVE of the present GEN has left; R285, R412; reset false -/
  arrived : Bool
  /-- beat in which the BAR was taken; R290; reset 0 -/
  takenBeat : Nat
  /-- the timeout of this BAR has been posted; R290; reset false -/
  timedOut : Bool
  deriving DecidableEq, Repr, Inhabited

/-- The Lehr counter, timed actions and barriers (R272-R305). -/
structure Lehr where
  /-- LC (LH_LC); 64; R272; reset 0 -/
  lc : DWord
  /-- the count by which scheduled events are judged in the present beat: LC, but in the beat of a jump no more than LC was
  before it; R278; reset 0 -/
  evLc : DWord
  /-- LH_STAT.SYNCED; 1; R273; reset 0 -/
  synced : Bool
  /-- LEHR_LOAD samples taken since reset release or TEST_MODE, at most 64; R273; reset 0 -/
  samples : Nat
  /-- beats since the last pulse; R275; reset 0 -/
  sincePulse : Nat
  /-- a pulse has been sampled and no missed-pulse fault raised since; R275; reset false -/
  watch : Bool
  /-- LH_STAT.LFAULT; 1; R304; reset 0 -/
  lfault : Bool
  /-- LH_STAT.SLIP; 1; R304; reset 0 -/
  slipSticky : Bool
  /-- LH_STAT.LATE; 1; R304; reset 0 -/
  lateSticky : Bool
  /-- LH_STAT.ACTMISS; 1; R304; reset 0 -/
  actMiss : Bool
  /-- LH_STAT.SDISC; 1; R304; reset 0 -/
  sdisc : Bool
  /-- LH_STAT.BLATE; 1; R304; reset 0 -/
  blateSticky : Bool
  /-- LH_STAT.BTMO; 1; R304; reset 0 -/
  btmoSticky : Bool
  /-- LH_STAT.UNWIN; 1; R304; reset 0 -/
  unwinSticky : Bool
  /-- LH_CFG.GUARD; 4; R304; reset 2 -/
  guard : BitVec 4
  /-- LH_LFAULT.VALID; 1; R304; reset 0 -/
  lfValid : Bool
  /-- LH_LFAULT.DIFF; 16; R304; reset 0 -/
  lfDiff : Half
  /-- LH_LFAULT.CAUSE; 2; R304; reset 0 -/
  lfCause : BitVec 2
  /-- LH_SLIPF.VALID; 1; R304; reset 0 -/
  sfValid : Bool
  /-- LH_SLIPF.LATE; 16; R304; reset 0 -/
  sfLate : Half
  /-- LH_LATEF.VALID; 1; R304; reset 0 -/
  tfValid : Bool
  /-- LH_LATEF.WIN; 6; R304; reset 0 -/
  tfWin : BitVec 6
  /-- LH_LATEF.TAG; 13; R304; reset 0 -/
  tfTag : BitVec 13
  /-- LH_BTMO; 32; R304; reset 0 -/
  btmo : Word
  /-- LH_SLIP; 32; R304; reset 0 -/
  slip : Word
  /-- LH_LATE; 32; R304; reset 0 -/
  late : Word
  /-- LH_EARLY; 32; R304; reset 0 -/
  early : Word
  /-- LH_UNWIN; 32; R304; reset 0 -/
  unwin : Word
  /-- LH_BLATE; 32; R304; reset 0 -/
  blate : Word
  /-- LH_SYNCDISC; 32; R304; reset 0 -/
  syncdisc : Word
  /-- LH_SNAPINT; 32; R304; reset 0 -/
  snapInt : Word
  /-- LH_SNAPNEXT; 64; R304; reset 0 -/
  snapNext : DWord
  /-- LH_ACT(0)-LH_ACT(7); R279; reset 0 -/
  acts : Vector TimedAction 8
  /-- LH_BAR(0)-LH_BAR(13); R283; reset 0 -/
  bars : Vector Barrier 14
  /-- REMAP entries that a RELEASE without a matching BAR applies, and the beat each applies in; R320; reset none -/
  remapAt : List (Nat × DWord)
  deriving DecidableEq, Repr, Inhabited

/-- Port states (R331: PSTAT.STATE). -/
inductive PortState where
  | down | training | hello | up | mismatch | tied
  deriving DecidableEq, Repr, Inhabited

/-- A message on its way out of a port: the flits still to send (R307, R309). -/
structure OutMsg where
  msg : Message
  side : Sideband
  /-- the input it came by: N, E, S, W, edge, local 5; R310 -/
  input : Nat
  /-- its flits stand in that input's buffer until they are sent; R309 -/
  held : Bool
  /-- flits not yet sent -/
  left : Nat
  deriving DecidableEq, Repr, Inhabited

/-- A router port (R306, R325, R331). -/
structure Port where
  /-- PSTAT.STATE; 4; R331; reset DOWN, TIED where tied off -/
  state : PortState
  /-- PSTAT.GEN; 4; R331; reset 0 -/
  gen : BitVec 4
  /-- PID0.PVALID; 1; R331; reset 0 -/
  pvalid : Bool
  /-- PID0.CHIP; 12; R331; reset 0 -/
  chip : BitVec 12
  /-- PID0.PID; 11; R331; reset 0 -/
  pid : BitVec 11
  /-- PID1.LVALID; 1; R331; reset 0 -/
  lvalid : Bool
  /-- PID1.DOMAIN; 6; R331; reset 0 -/
  domain : BitVec 6
  /-- PID1.LCID; 11; R331; reset 0 -/
  lcid : BitVec 11
  /-- PVER.GENS; 8; R331; reset 0 -/
  gens : Byte
  /-- PVER.HW; 8; R331; reset 0 -/
  hw : Byte
  /-- PVER.FW; 16; R331; reset 0 -/
  fw : Half
  /-- FWD; 64; R331; reset 0 -/
  fwd : DWord
  /-- DROP; 32; R331; reset 0 -/
  drop : Word
  /-- RETRY; 32; R331; reset 0 -/
  retry : Word
  /-- CRCERR; 32; R331; reset 0 -/
  crcerr : Word
  /-- the port had a partner before; R330; reset false -/
  hadPartner : Bool
  /-- HELLO sent since link-up; R329; reset false -/
  helloSent : Bool
  /-- HELLO received since link-up; R329; reset false -/
  helloRecv : Bool
  /-- RDY driven to the peer; R325, R461; reset true while not tied -/
  ownReady : Bool
  /-- RDY seen from the peer; R325; reset true DESIGN CHOICE true (log 2) -/
  peerReady : Bool
  /-- N-cycle from which the port holds its own RDY low; R325; reset 0 -/
  holdNc : Nat
  /-- N-cycle of the last flit received; R325; reset 0 -/
  rxNc : Nat
  /-- N-cycle of the last flit sent; R325; reset 0 -/
  txNc : Nat
  /-- HELLO records and idle flits sent; R325, R329; reset 0 -/
  ctlSent : Nat
  /-- link credits by lane SYNC, CTRL, EXCH, BULK; R309; reset 4, 16, 16, 16 -/
  credits : Vector Nat 4
  /-- link credits owed to the neighbour by lane; R309, R326; reset 0 -/
  owed : Vector Nat 4
  /-- the input served last by lane; R310; reset 5 DESIGN CHOICE 5 (log 49) -/
  served : Vector Nat 4
  /-- messages waiting in the output, oldest first; R309, R310; reset none -/
  outq : List OutMsg
  /-- a PARTNER_CHANGED that waits for the link-up event; R330; reset false -/
  changed : Bool
  /-- what the port sent last: a flit, a HELLO record, or on the edge port a frame; R307, R326, R329; reset none -/
  sent : List Byte
  deriving DecidableEq, Repr, Inhabited

/-- The edge link layer (R326-R328). -/
structure EdgeLink where
  /-- ETRAIN; 1; R461; reset 0 DESIGN CHOICE 0 (log 2) -/
  train : Bool
  /-- EGEN; 2; R461; reset 0 DESIGN CHOICE 0 (log 2) -/
  gen : BitVec 2
  /-- ELOCK as last seen; 1; R461; reset 0 DESIGN CHOICE 0 (log 2) -/
  lock : Bool
  /-- N-cycle at which the present training began, or the port failed E1; R328; reset 0 -/
  sinceNc : Nat
  /-- E1 has failed to train; R328; reset false -/
  failed : Bool
  /-- highest generation this side offers, lowered by a fallback; 2; R328; reset 3 -/
  cap : BitVec 2
  /-- SEQ of the last DATA frame sent; 16; R326; reset 0 DESIGN CHOICE 0 (log 2) -/
  txSeq : Half
  /-- DATA frames not acknowledged, oldest first, each its SEQ and its slots with their SIDE bytes; at most 240; R327; reset
  none -/
  unacked : List (Half × List (List Byte × Byte))
  /-- N-cycle of the last progress of ACK; R327; reset 0 -/
  ackNc : Nat
  /-- resends of the first unacknowledged frame; R327; reset 0 -/
  resends : Nat
  /-- highest SEQ received in order; 16; R326; reset 0 DESIGN CHOICE 0 (log 2) -/
  rxSeq : Half
  /-- NAK frames sent; R327; reset 0 -/
  naks : Nat
  /-- flits of the messages being put together, by lane: sideband bits MC and RR and the bytes so far; R326; reset none -/
  partials : List (Nat × (Bool × Bool) × List Byte)
  /-- messages received whole, oldest first; R326; reset none -/
  rxq : List (Message × Bool × Bool)
  deriving DecidableEq, Repr, Inhabited

/-- A message at the cluster's local output, with its stamp (R300, R313). -/
structure Inbound where
  msg : Message
  stamp : DWord
  /-- beat in which it was stamped; R286 -/
  beat : Nat
  /-- input port that it came by: N, E, S, W, edge, local 5; R411 -/
  port : Nat
  /-- journalled (R246) -/
  journalled : Bool
  /-- journalled before the MARK of the snapshot that is being taken (R399) -/
  marked : Bool
  deriving DecidableEq, Repr, Inhabited

/-- The router (R306-R333). -/
structure Router where
  /-- RT_CFG.MCOUT; 1; R331; reset 0 -/
  mcout : Bool
  /-- RT_CFG.ADAPT; 1; R331; reset 0 -/
  adapt : Bool
  /-- RT_CFG.COMB; 1; R331; reset 1 -/
  comb : Bool
  /-- RT_STAT; 6; R331; reset 0 -/
  stat : BitVec 6
  /-- RT_POS.LVALID; 1; R331; reset 0 -/
  lvalid : Bool
  /-- RT_POS.LCID; 11; R331; reset 0 -/
  lcid : BitVec 11
  /-- LVALID and LCID as RT_POS and TS_HID show them in the beat in which a REMAP changes them; R319; reset none -/
  shown : Option (Bool × BitVec 11)
  /-- RT_POS.EDGE; 1; R331; reset from the EDGE pin -/
  edge : Bool
  /-- RT_POS.PID; 11; R331; reset from the position pins -/
  pid : BitVec 11
  /-- MTIE as latched; 4; R462; reset from the pins -/
  mtie : BitVec 4
  /-- SE_ID.CHIP and TS_HID.CHIP; 12; R236, R462; reset from the CHIP_ID pins -/
  chip : BitVec 12
  /-- RT_EPOCH.ACTIVE; 16; R331; reset 0 -/
  epoch : Half
  /-- RT_MAPIDX.BANK; 1; R331; reset 0 -/
  mapBank : Bool
  /-- RT_MAPIDX.INDEX; 12; R331; reset 0 -/
  mapIdx : BitVec 12
  /-- RT_XIDX.INDEX; 12; R331; reset 0 -/
  xIdx : BitVec 12
  /-- remap table, active bank; 2048 x (VALID in bit 11, PID in [10:0]); R319; reset invalid -/
  active : List (Nat × BitVec 12)
  /-- remap table, staged bank; 2048 x 12; R319; reset invalid -/
  staged : List (Nat × BitVec 12)
  /-- exit table; 4096 x 12; R313; reset invalid -/
  exits : List (Nat × BitVec 12)
  /-- RT_NOROUTE; 32; R331; reset 0 -/
  noroute : Word
  /-- RT_NRFIRST.VALID; 1; R331; reset 0 -/
  nrValid : Bool
  /-- RT_NRFIRST.MIS; 1; R331; reset 0 -/
  nrMis : Bool
  /-- RT_NRFIRST.DLCID; 11; R331; reset 0 -/
  nrLcid : BitVec 11
  /-- RT_NRFIRST.DCHIP; 12; R331; reset 0 -/
  nrChip : BitVec 12
  /-- ports N, E, S, W, edge; R306, R331 -/
  ports : Vector Port 5
  /-- the edge link layer; R326-R328 -/
  link : EdgeLink
  /-- messages of the own send path that wait for the router, oldest first, with MC; R307; reset none -/
  txq : List (Message × Bool)
  /-- messages at the local output not yet handled, oldest first; R313; reset none -/
  inbox : List Inbound
  deriving DecidableEq, Repr, Inhabited

end Sys2Proof.Machine
end

