-- ==== Sys2Proof/Machine/State.lean ====
section
/-! DEFINITION. The whole state of one K4 cluster, the reasons a step can stop, and the state after reset. -/

namespace Sys2Proof.Machine

/-- The response to the last register or window access (the master, the status code, the data read):
the model's own output, since R9 and R449 answer an access but name no register for the answer. -/
structure BusResp where
  master : Master
  status : Half
  data : DWord
  deriving DecidableEq, Repr, Inhabited

/-- Upper-word latches of 64-bit registers: for a master and an address of a lower word (R140, R174, R481). -/
abbrev Latches := List (Nat × Word)

/-- The state of the cluster. -/
structure State where
  /-- commands waiting, first in, first out: the model's own -/
  pending : List Instr
  /-- N-cycles since reset release; a beat is two, a G-cycle four; R14, R468; reset 0 -/
  nc : Nat
  /-- counter of the free values drawn: the model's own; DESIGN CHOICE 0 (log 6) -/
  free : Nat
  /-- the last access's response: the model's own; DESIGN CHOICE zero (log 2) -/
  resp : BusResp
  /-- read latches of upper words, key master*2^32 + address of the lower word; R140, R481; reset none -/
  latches : Latches
  /-- written lower words waiting for their upper word, key 0x1000*block + offset of the lower word; R174; reset none -/
  lowers : Latches
  /-- RW1C bits that an event of the present N-cycle has set, key 0x1000*block + offset of the register, and bit: the model's own; R10;
  reset none -/
  raised : List (Nat × Nat)
  core : Core
  /-- ME0-ME3; R96 -/
  engines : Vector MatrixEngine 4
  ve : VectorEngine
  stats : TensorStats
  digests : Digests
  mem : LocalMemory
  se : StreamEngine
  /-- outstanding far requests, oldest first; R463; reset none -/
  far : List FarReq
  rings : Rings
  sched : Sched
  lehr : Lehr
  router : Router
  marver : Marver
  journal : Journal
  gaffer : Gaffer
  tier : Tier
  pins : Pins
  deriving DecidableEq, Repr, Inhabited

/-- The reasons a step stops with a fault. -/
inductive Fault where
  /-- FAR_READ_DATA or FAR_WRITE_ACK with a tag that has no such request outstanding. R463 forbids the surroundings
  to do it and gives no effect. Safe: the model stops where the manual says nothing. -/
  | farTagNotOutstanding (tag : Nat)
  deriving DecidableEq, Repr

/-- The reasons a step is refused. -/
inductive Refusal where
  /-- An arm of the dispatch that has no meaning yet. Safe: the model stops. -/
  | notModelled (mnemonic : String)
  deriving DecidableEq, Repr

/-- The answer of a meaning. -/
abbrev Answer := Host.Outcome State Fault Refusal

def TimedAction.zero : TimedAction where
  target := 0#64
  armed := false
  fired := false
  missed := false
  kind := 0#4
  arg := 0#32
  replay := false

def Barrier.zero : Barrier where
  rootChip := 0#12
  rootLcid := 0#11
  expect := 0#24
  margin := 0#16
  gen := 0#16
  rgen := 0#16
  rcnt := 0#24
  pend := false
  passAt := none
  arrived := false
  takenBeat := 0
  timedOut := false

def Window.idle : Window where
  active := false
  done := false
  tag := 0
  expect := 0
  opens := 0#64
  closes := 0#64
  count := 0
  order := 0

/-- A port at reset release: it trains from then on, or is TIED from the first N-cycle on (R325, R331, R456 step 2, R466, R483). -/
def Port.atReset (tied : Bool) : Port where
  state := .down
  gen := 0#4
  pvalid := false
  chip := 0#12
  pid := 0#11
  lvalid := false
  domain := 0#6
  lcid := 0#11
  gens := 0#8
  hw := 0#8
  fw := 0#16
  fwd := 0#64
  drop := 0#32
  retry := 0#32
  crcerr := 0#32
  hadPartner := false
  helloSent := false
  helloRecv := false
  ownReady := !tied
  peerReady := true
  holdNc := 0
  rxNc := 0
  txNc := 0
  ctlSent := 0
  credits := #v[4, 16, 16, 16]
  owed := #v[0, 0, 0, 0]
  served := #v[5, 5, 5, 5]
  outq := []
  changed := false
  sent := []

def EdgeLink.atReset : EdgeLink where
  train := false
  gen := 0#2
  lock := false
  sinceNc := 0
  failed := false
  cap := 3#2
  txSeq := 0#16
  unacked := []
  ackNc := 0
  resends := 0
  rxSeq := 0#16
  naks := 0
  partials := []
  rxq := []

def LocalMemory.zero : LocalMemory where
  mem := []
  bad := []
  single := []
  scrubRow := 0
  scrubNc := 0
  eccCount := 0#32
  eccValid := false
  eccAddr := 0#21

def StreamEngine.atReset : StreamEngine where
  ctxs := []
  xfers := []
  wait := none
  last := 0
  buckets := #v[409600, 409600, 409600]
  tlb := []
  walks := []
  seqTable := []
  fCode := 0#16
  fValid := false
  fCtx := 0#12
  fAddr := 0#64
  shareRead := 0x32#8
  shareWrite := 0x1E#8
  shareRemote := 0x14#8
  xlatEn := false
  ptroot := 0#64
  throt := 0#32
  throttled := false

def Rings.atReset : Rings where
  store := []
  credit := []
  writes := []
  parked := []
  cCode := 0#16
  cTag := 0#13
  cBusy := false
  stat := 0#11
  dCode := 0#16
  dValid := false
  dTag := 0#13
  disc := 0#32
  staleValid := false
  staleEntry := 0#11
  tx := 0#64
  rx := 0#64
  sendCount := []
  creditCount := []
  revokeCount := []

def Sched.fresh : Sched where
  held := none
  sends := []
  freeBeat := 0
  portNc := 0
  windows := Vector.replicate 64 Window.idle
  armed := 0
  bar := none
  barReady := false

def Lehr.atReset : Lehr where
  lc := 0#64
  evLc := 0#64
  synced := false
  samples := 0
  sincePulse := 0
  watch := false
  lfault := false
  slipSticky := false
  lateSticky := false
  actMiss := false
  sdisc := false
  blateSticky := false
  btmoSticky := false
  unwinSticky := false
  guard := 2#4
  lfValid := false
  lfDiff := 0#16
  lfCause := 0#2
  sfValid := false
  sfLate := 0#16
  tfValid := false
  tfWin := 0#6
  tfTag := 0#13
  btmo := 0#32
  slip := 0#32
  late := 0#32
  early := 0#32
  unwin := 0#32
  blate := 0#32
  syncdisc := 0#32
  snapInt := 0#32
  snapNext := 0#64
  acts := Vector.replicate 8 TimedAction.zero
  bars := Vector.replicate 14 Barrier.zero
  remapAt := []

/-- The router after reset release with these straps (R331, R462, R465, R466). -/
def Router.atReset (p : Straps) : Router where
  mcout := false
  adapt := false
  comb := true
  stat := 0#6
  lvalid := false
  lcid := 0#11
  shown := none
  edge := p.edge
  pid := p.row ++ p.col
  mtie := p.mtie
  chip := p.chipId
  epoch := 0#16
  mapBank := false
  mapIdx := 0#12
  xIdx := 0#12
  active := []
  staged := []
  exits := []
  noroute := 0#32
  nrValid := false
  nrMis := false
  nrLcid := 0#11
  nrChip := 0#12
  ports := #v[Port.atReset (p.mtie.getLsbD 0), Port.atReset (p.mtie.getLsbD 1),
    Port.atReset (p.mtie.getLsbD 2), Port.atReset (p.mtie.getLsbD 3), Port.atReset (!p.edge)]
  link := EdgeLink.atReset
  txq := []
  inbox := []

def Marver.atReset : Marver where
  shards := []
  slots := []
  chunk := none
  wait := none
  pubs := []
  stat := 0#7
  fCode := 0#16
  fValid := false
  fShard := 0#8
  lr := 0#32
  mode := true
  lrmax := 0#32
  lrmin := 0#32
  warm := 0#32
  period := 0#32
  seed := 0#64
  ssel := 0#8
  orphan := 0#32
  dup := 0#32
  blocks := 0#64

def Journal.atReset : Journal where
  en := true
  ten := false
  stat := 0#8
  base := 0#64
  size := 0#16
  staged := []
  trace := []
  wseq := 0#32
  nextSeq := 1#32
  wpos := 0
  retain := none
  snapMark := none
  bpress := false
  starvPosted := false
  stopped := false
  fvalid := false
  flcid := 0#11
  cause := 0#8
  rstate := .none
  snapBase := 0#64
  snapValid := false
  snapBusy := false
  snapPend := false
  snapPendAt := 0#64
  snapBank := false
  rcause := 0#8
  snapCount := 0#16
  resume := 0#16
  snapId := 0#64
  tsize := 0#16
  tper := 0#5
  tbase := 0#64
  tpos := 0
  tlast := none
  tprev := #v[0#64, 0#64, 0#64, 0#64]
  live := BitVec.allOnes 512
  dirty0 := 0#512
  dirty1 := 0#512
  volB := Vector.replicate 16 0#64
  volV := 0#16
  volS := Vector.replicate 16 0#16
  freeze := false
  snapNow := none
  snapPhase := .idle
  snapPage := []
  snapTodo := []
  snapOut := 0
  snapSeq := 0#32
  restLcid := none
  restFor := 0#11
  restId := 0#64
  restMark := 0#32
  curMsg := 0#32
  curRead := 0#32
  readEnd := false
  fenceSeq := 0#32
  waiting := []
  supSend := []
  supCredit := []
  supRevoke := []
  fenceBars := []

/-- The Gaffer after reset release; MRAM and what torn stores left in it outlive a reset. -/
def Gaffer.atReset (mram : Memory) (tornMould : BitVec 4) (tornKiln : List Nat) (pins sel : BitVec 2) (ovr : Bool) :
    Gaffer where
  inq := []
  outq := []
  lost := 0#16
  action := none
  mouldAct := none
  image := none
  fw := 0#16
  started := false
  startedNc := 0
  runNc := 0
  step := 2#4
  fail := false
  evten := false
  torn := false
  ovr := ovr
  sel := sel
  pins := pins
  access := []
  domain := 0#6
  mram := mram
  tornMould := tornMould
  tornKiln := tornKiln
  kiln := []
  kilnBusy := false
  kseq := 0#32
  kilnNext := 0#32
  mbReq := []
  mbRep := []
  mbDone := false
  mbBusy := false
  resetAt := none
  resetGo := false
  mouldOk := false
  storeLost := false
  sent := []

def Tier.atReset : Tier where
  state := .off
  cause := 0#8
  det := false
  detNext := false
  vctReq := 0#5
  vctOn := false
  sinceNc := 0
  powerGood := false
  trained := false
  skipped := false

def Pins.atReset : Pins where
  resetHeld := false
  resetPending := false
  release := none
  pwrStable := false
  testMode := false
  dead := false

/-- Every strap low: the pin values of State.reset, which the spec leaves to the integrator (log 2). -/
def Straps.low : Straps where
  chipId := 0#12
  row := 0#5
  col := 0#6
  edge := false
  mtie := 0#4
  mouldSel := 0#2

/-- The cluster at reset release with these straps, with what outlives a reset (R456, R468). -/
def State.atReset (p : Straps) (g : Gaffer) (pins : Pins) (free : Nat) (imem : Memory) : State where
  pending := []
  nc := 0
  free := free
  resp := { master := 0#7, status := 0#16, data := 0#64 }
  latches := []
  lowers := []
  raised := []
  core := Core.fresh imem []
  engines := Vector.replicate 4 MatrixEngine.fresh
  ve := VectorEngine.fresh
  stats := TensorStats.fresh 0#64
  digests := Digests.fresh
  mem := LocalMemory.zero
  se := StreamEngine.atReset
  far := []
  rings := Rings.atReset
  sched := Sched.fresh
  lehr := Lehr.atReset
  router := Router.atReset p
  marver := Marver.atReset
  journal := Journal.atReset
  gaffer := g
  tier := Tier.atReset
  pins := pins

/-- The machine right after reset release, every strap low, nothing stored in MRAM. -/
def State.reset : State :=
  State.atReset Straps.low (Gaffer.atReset [] 0#4 [] 0#2 0#2 false) Pins.atReset 0 []

end Sys2Proof.Machine
end

