-- ==== Sys2Proof/Machine/Ops.lean ====
section
/-! DEFINITION. The named operations that every family uses: status codes, events and kiln records, local memory
with its check bits, access rights, engine queues, and far requests. -/

namespace Sys2Proof.Machine

/-! Status codes (R448). -/
namespace Code
def ok : Half := 0x0000#16
def pending : Half := 0x0001#16
def badOpcode : Half := 0x0101#16
def badParam : Half := 0x0102#16
def conflict : Half := 0x0103#16
def denied : Half := 0x0104#16
def busy : Half := 0x0105#16
def badVersion : Half := 0x0106#16
def nvTorn : Half := 0x0107#16
def badPacket : Half := 0x0108#16
def tileShape : Half := 0x0201#16
def tileCfg : Half := 0x0202#16
def tileEmpty : Half := 0x0203#16
def badCommand : Half := 0x0204#16
def schedSlip : Half := 0x0301#16
def lateArrival : Half := 0x0302#16
def lehrFault : Half := 0x0303#16
def barrierTimeout : Half := 0x0304#16
def actionMissed : Half := 0x0305#16
def ringClosed : Half := 0x0401#16
def staleCredit : Half := 0x0402#16
def creditOverrun : Half := 0x0403#16
def noRoute : Half := 0x0404#16
def pageHalt : Half := 0x0501#16
def accessDenied : Half := 0x0502#16
def eccUncorrected : Half := 0x0503#16
def rescaleExhausted : Half := 0x0601#16
def nonfiniteSeen : Half := 0x0602#16
def fenced : Half := 0x0701#16
def replayMismatch : Half := 0x0702#16
def traceStarved : Half := 0x0703#16
def snapshotRefused : Half := 0x0704#16
def journalFull : Half := 0x0705#16
def linkDown : Half := 0x0801#16
def partnerChanged : Half := 0x0802#16
def genMismatch : Half := 0x0803#16
end Code

/-! SOURCE codes of events and kiln records (R427). -/
namespace Source
def firmware : Byte := 0#8
def core : Byte := 1#8
def matrix (e : Nat) : Byte := BitVec.ofNat 8 (2 + e)
def vector : Byte := 6#8
def stream : Byte := 7#8
def marver : Byte := 8#8
def router : Byte := 9#8
def lehr : Byte := 10#8
def journal : Byte := 11#8
def tier : Byte := 12#8
/-- the unit that serves queue `q` (R43) -/
def queue (q : Nat) : Byte :=
  if q < 4 then matrix q else if q = 4 then vector else if q = 5 then stream else if q = 6 then marver else lehr
end Source

/-- The base tier works: RST_N is high and the base tier has not failed (R24, R468). -/
def Pins.alive (p : Pins) : Bool := !p.resetHeld && !p.dead

/-- The compute tier is in state RUN (R18), on a base tier that works. -/
def State.inRun (s : State) : Bool := s.tier.state == .run && s.pins.alive

/-- KCR_TIER.STATE codes (R18). -/
def TierState.code : TierState → BitVec 3
  | .off => 0#3
  | .starting => 1#3
  | .run => 2#3
  | .fenced => 3#3
  | .fencedOff => 4#3
  | .anneal => 5#3

/-- LVALID and LCID as the registers show them: a REMAP's change from the beat after it (R319). -/
def Router.shownId (r : Router) : Bool × BitVec 11 := r.shown.getD (r.lvalid, r.lcid)

/-- RT_POS as a word (R331). -/
def Router.posWord (r : Router) : Word :=
  BitVec.ofNat 32 (flag 31 r.shownId.1 + (if r.shownId.1 then r.shownId.2.toNat else 0) * 2 ^ 17 + flag 11 r.edge
    + r.pid.toNat)

/-- The beat: two N-cycles each (R14). -/
def State.beat (s : State) : Nat := s.nc / 2

/-- An event scheduled for target `x` happens in the present beat if it has not yet (R278). -/
def Lehr.due (l : Lehr) (x : DWord) : Bool := decide (x.toNat ≤ l.evLc.toNat)

/-- TS_HID: the logical identity (R173, R174). -/
def State.hid (s : State) : Word :=
  let lcid := if s.router.shownId.1 then s.router.shownId.2 else s.journal.restLcid.getD 0x7FF#11
  BitVec.ofNat 32 (s.router.chip.toNat * 2 ^ 16 + lcid.toNat)

/-! RW1C bits (R9, R10). -/

/-- An event sets bit `i` of the RW1C register at offset `o` of block `blk`: software that clears it in the same N-cycle leaves it
set (R10). The mailbox's control word counts as block 14. -/
def State.raise (s : State) (blk o i : Nat) : State := { s with raised := (0x1000 * blk + o, i) :: s.raised }

/-- The same where `b` holds. -/
def State.raiseIf (s : State) (b : Bool) (blk o i : Nat) : State := if b then s.raise blk o i else s

/-- A value written to a register whose RW1C bits are `bits`, without the ones that would clear bits set in the present N-cycle
(R10). -/
def State.unraised (s : State) (blk o bits v : Nat) : Nat :=
  s.raised.foldl (fun v p => if p.1 = 0x1000 * blk + o && bits.testBit p.2 && v.testBit p.2 then v - 2 ^ p.2 else v) v

/-! Events and kiln records. -/

/-- Events now waiting (R447). -/
def Gaffer.eventCount (g : Gaffer) : Nat :=
  (g.outq.filter fun p => match p with
    | .event _ => true
    | .reply _ _ => false).length

/-- Post an event: at most 64 wait, one more is dropped and counted (R446, R447). -/
def State.post (s : State) (code : Half) (source : Byte) (detail : List Nat) : State :=
  if s.gaffer.eventCount ≥ Config.eventDepth then
    { s with gaffer := { s.gaffer with lost := if s.gaffer.lost = 0xFFFF#16 then 0xFFFF#16 else s.gaffer.lost + 1#16 } }
  else
    { s with gaffer := { s.gaffer with outq := s.gaffer.outq ++ [.event {
        code := code, source := source, tier := s.tier.state.code, lc := s.lehr.lc,
        pos := s.router.posWord, detail := detail.map (BitVec.ofNat 32) }] } }

/-- The 64 bytes of a kiln record (R427). -/
def kilnBytes (s : State) (seq : Word) (code : Half) (source : Byte) (detail : List Nat) : List Byte :=
  let lc := if s.lehr.synced then s.lehr.lc.toNat else 0
  let body := leBytes 4 seq.toNat ++ leBytes 8 lc ++ leBytes 2 code.toNat ++ [source, s.tier.state.code.setWidth 8]
    ++ leBytes 2 s.router.chip.toNat ++ leBytes 2 (flag 15 s.router.lvalid + s.router.lcid.toNat)
    ++ leBytes 2 s.router.pid.toNat ++ leBytes 2 s.gaffer.fw.toNat
    ++ padTo 32 (detail.flatMap (leBytes 4)) ++ leBytes 4 0
  body ++ leBytes 4 (crc32c body).toNat

/-- JN_STAT bit `i` set (R430). -/
def State.setJnStat (s : State) (i : Nat) : State :=
  { s with journal := { s.journal with stat := s.journal.stat ||| BitVec.ofNat 8 (2 ^ i) } }.raise 11 0x004 i

/-- Queue a kiln record: up to 8 wait, one more is dropped and sets KDROP (R429). -/
def State.kilnRecord (s : State) (code : Half) (source : Byte) (detail : List Nat) : State :=
  if s.gaffer.kiln.length ≥ Config.kilnDepth then s.setJnStat 6
  else
    { s with gaffer := { s.gaffer with
        kiln := s.gaffer.kiln ++ [kilnBytes s s.gaffer.kilnNext code source detail]
        kilnNext := s.gaffer.kilnNext + 1#32 } }

/-- An event that also writes a kiln record: both carry the record's DETAIL (R446). -/
def State.postKiln (s : State) (code : Half) (source : Byte) (detail : List Nat) : State :=
  (s.kilnRecord code source detail).post code source detail

/-! Access rights (R449, R450). -/

/-- AC_ENT(m) as it reads. -/
def State.entry (s : State) (m : Nat) : Nat :=
  if m = 0x01 || m = 0x50 then 0x003F7337
  else if m = 0x00 || m ≥ 0x53 && m < 0x60 || m ≥ 0x60 then 0
  else (Tbl.get 0#32 s.gaffer.access m).toNat

/-- Regions of the access table (R449), each with the place of its lowest right. -/
inductive Region where
  | loc | ring | reg | far | gcmd | journal
  deriving DecidableEq, Repr, Inhabited

def Region.base : Region → Nat
  | .loc => 0
  | .ring => 4
  | .reg => 8
  | .far => 12
  | .gcmd => 16
  | .journal => 20

/-- The master may read or write the region. -/
def State.may (s : State) (m : Nat) (r : Region) (write : Bool) : Bool :=
  (s.entry m).testBit (r.base + (if write then 1 else 0))

/-- The master holds X, to name the region as an image source. -/
def State.mayX (s : State) (m : Nat) (r : Region) : Bool := (s.entry m).testBit (r.base + 2)

/-! Local memory. -/

/-- `[a, a+n)` lies in local memory (R201). -/
def inLocal (a n : Nat) : Bool := decide (a + n ≤ Config.localSize)

/-- SE_ECCADDR takes the first uncorrectable word (R204). -/
def State.eccAddr (s : State) (addr : Nat) : State :=
  (if s.mem.eccValid then s else
    { s with mem := { s.mem with eccValid := true, eccAddr := BitVec.ofNat 21 (addr / 8 * 8) } }).raise 7 0x030 31

/-- Record an uncorrectable word and write its kiln record (R204, R428). -/
def State.noteEcc (s : State) (unit : Byte) (addr : Nat) : State :=
  (s.eccAddr addr).kilnRecord Code.eccUncorrected unit [unit.toNat, addr]

/-- First uncorrectable word that `[a, a+n)` touches, as an address. -/
def LocalMemory.badIn (m : LocalMemory) (a n : Nat) : Option Nat :=
  (m.bad.find? fun w => decide (8 * w < a + n) && decide (a < 8 * w + 8)).map (8 * ·)

/-- Words of `[a, a+n)` with a single-bit error. -/
def LocalMemory.singlesIn (m : LocalMemory) (a n : Nat) : Nat :=
  (m.single.filter fun w => decide (8 * w < a + n) && decide (a < 8 * w + 8)).length

/-- Read `n` bytes of local memory: single-bit errors are corrected and counted; the address of an uncorrectable
word, if the range touches one, is answered beside the bytes (R204). -/
def State.lread (s : State) (a n : Nat) : List Byte × Option Nat × State :=
  (s.mem.mem.readBytes a n, s.mem.badIn a n,
    { s with mem := { s.mem with eccCount := satAdd s.mem.eccCount (s.mem.singlesIn a n) } })

/-- Replace the bytes of words with an uncorrectable error by free bytes: `k` counts them. -/
def freeBad (bad : List Nat) (draw a : Nat) : Nat → List Byte → List Byte
  | _, [] => []
  | k, b :: bs => (if bad.contains ((a + k) / 8) then Config.freeByte draw k else b) :: freeBad bad draw a (k + 1) bs

/-- Read local memory for a unit that no rule stops at an uncorrectable word: the word is recorded and reported, and its bytes
are free values (R204, R428; log 122). -/
def State.lreadOn (s : State) (unit : Byte) (a n : Nat) : List Byte × State :=
  match s.lread a n with
  | (bs, none, s) => (bs, s)
  | (bs, some w, s) => (freeBad s.mem.bad s.free a 0 bs, { s.noteEcc unit w with free := s.free + 1 })

/-- The dirty bits of the 4 KiB regions that `[a, a+n)` touches (R401). -/
def dirtyMask (a n : Nat) : BitVec 512 :=
  if n = 0 then 0#512
  else
    let lo := a / 4096
    let hi := (a + n - 1) / 4096
    BitVec.ofNat 512 ((2 ^ (hi + 1 - lo) - 1) <<< lo)

/-- Write bytes of local memory: whole words get new check bits, a part of an uncorrectable word leaves it poisoned
(R204); both dirty bits of every region touched are set (R401). -/
def State.lwrite (s : State) (a : Nat) (bs : List Byte) : State :=
  let n := bs.length
  { s with
    mem := { s.mem with
      mem := s.mem.mem.writeBytes a bs
      bad := s.mem.bad.filter fun w => !(decide (a ≤ 8 * w) && decide (8 * w + 8 ≤ a + n))
      single := s.mem.single.filter fun w => !(decide (8 * w < a + n) && decide (a < 8 * w + 8)) }
    journal := { s.journal with
      dirty0 := s.journal.dirty0 ||| dirtyMask a n
      dirty1 := s.journal.dirty1 ||| dirtyMask a n } }

/-! Engine queues (R59-R61). -/

def State.queue (s : State) (q : Nat) : EngineQueue := Vec.at s.core.queues q

def State.onQueue (s : State) (q : Nat) (f : EngineQueue → EngineQueue) : State :=
  { s with core := { s.core with queues := Vec.upd s.core.queues q f } }

/-- Register `i` of a command; absent registers are zero. -/
def QueueCmd.reg (c : QueueCmd) (i : Nat) : Nat := (c.regs.getD i 0#64).toNat

/-- The command's opcode: bits [7:0] of its first register (R43). -/
def QueueCmd.opc (c : QueueCmd) : Nat := c.reg 0 % 256

/-- A RESTORE is reading what it loads. -/
def Gaffer.restoring (g : Gaffer) : Bool :=
  match g.action with
  | some (.restore _ _ _ _ _) => true
  | _ => false

/-- The program does not go on: the freeze of a snapshot is on (R400), or a RESTORE is reading what it loads, which ends it
first unless the header refuses the RESTORE (R416; log 123). -/
def State.resting (s : State) : Bool := s.journal.freeze || s.gaffer.restoring

/-- The command at the head of a queue that its engine may take: the compute tier runs, the program goes on, the
queue is not stopped. -/
def State.head (s : State) (q : Nat) : Option QueueCmd :=
  if s.inRun && !s.resting && !(s.queue q).stopped then (s.queue q).entries.head? else none

/-- Take the command at the head: its entry is freed (R59). -/
def State.take (s : State) (q : Nat) (c : QueueCmd) : State :=
  s.onQueue q fun x => { x with entries := x.entries.tail, outstanding := x.outstanding ++ [(c.seq, .run)] }

/-- Move the completed count over the commands at the front that are complete. -/
def EngineQueue.settle (x : EngineQueue) : EngineQueue :=
  let n := (x.outstanding.takeWhile fun p => p.2 == .done).length
  { x with outstanding := x.outstanding.drop n, completed := x.completed + BitVec.ofNat 32 n }

def EngineQueue.mark (x : EngineQueue) (seq : Word) (p : CmdProgress) : EngineQueue :=
  { x with outstanding := x.outstanding.map fun o => if o.1 = seq then (o.1, p) else o }

/-- The command with this sequence number completes (R59). -/
def State.complete (s : State) (q : Nat) (seq : Word) : State :=
  s.onQueue q fun x => (x.mark seq .done).settle

/-- An engine stops its queue on a fault: STOPPED and FCODE, and the report to the supervisor (R61). An event that
also writes a kiln record carries the record's DETAIL instead (R446). -/
def State.stopQueue (s : State) (q : Nat) (code : Half) (opc : Nat) (seq : Word) (detail : Option (List Nat) := none) :
    State :=
  let s := s.onQueue q fun x =>
    { x.mark seq .faulted with stopped := true, fcode := if x.stopped then x.fcode else code }
  s.post code (Source.queue q) (detail.getD [q, opc, seq.toNat])

/-- Complete a command that may have been taken before the last LAUNCH; such a one counts in no queue (R302). -/
def State.completeIf (s : State) (q : Nat) : Option Word → State
  | some seq => s.complete q seq
  | none => s

/-- Stop the queue on a command that may have been taken before the last LAUNCH; such a one is only reported. -/
def State.stopIf (s : State) (q : Nat) (code : Half) (opc : Nat) (seq : Word) (old : Bool)
    (detail : Option (List Nat) := none) : State :=
  if old then s.post code (Source.queue q) (detail.getD [q, opc, seq.toNat]) else s.stopQueue q code opc seq detail

/-- Take a command that faults as it is taken. -/
def State.takeFault (s : State) (q : Nat) (c : QueueCmd) (code : Half) (detail : Option (List Nat) := none) : State :=
  (s.take q c).stopQueue q code c.opc c.seq detail

/-- Hardware version 2.0 as KFEAT0 [31:24] gives it (R64). -/
def hwVersion : Nat := 0x20

/-! The far port (R463). -/

/-- The lowest tag that is not outstanding. -/
def State.freeTag (s : State) : Option Nat :=
  (List.range (s.far.length + 1)).find? fun t => decide (t < Config.farTags) && s.far.all fun r => r.tag != t

/-- Issue a far request with a free tag; nothing happens when all 2,048 are outstanding. -/
def State.farIssue (s : State) (write : Bool) (addr len : Nat) (mid : Master) (use : FarUse) (data : List Byte) :
    Option (Nat × State) :=
  s.freeTag.map fun t =>
    (t, { s with far := s.far ++ [{ tag := t, write := write, addr := addr, len := len, mid := mid, use := use,
                                    data := data, err := .ok }] })

/-- Requests still out whose purpose is gone: their responses come and change nothing. -/
def State.forgetFar (s : State) (gone : FarUse → Bool) : State :=
  { s with far := s.far.map fun r => if gone r.use then { r with use := .trace } else r }

/-- The write belongs to a snapshot. -/
def FarUse.ofSnapshot : FarUse → Bool
  | .snapshot => true
  | .snapHeader _ => true
  | _ => false

/-- The write belongs to Marver, to shard `i` if one is given. -/
def FarUse.ofMarver (i : Option Nat) : FarUse → Bool
  | .marver k => i == none || i == some k
  | _ => false

/-- A byte that a far memory reply holds; an address the reply does not list reads as zero. -/
def replyByte (r : FarReply) (a : Nat) : Byte :=
  ((r.cells.find? fun c => c.1 == a).map (·.2)).getD 0#8

/-- The first failed transfer that a far read of `[a, a+n)` meets: an address in it and its error (R463). -/
def farFail (r : FarReply) (a n : Nat) : Option (Nat × FarErr) :=
  r.errs.find? fun e => decide (a ≤ e.1) && decide (e.1 < a + n) && e.2 != .ok

/-- The error that a far read of `[a, a+n)` meets. -/
def farErrIn (r : FarReply) (a n : Nat) : FarErr := ((farFail r a n).map (·.2)).getD .ok

/-- An error of a far transfer as a fault code (R215, R463). -/
def farCode : FarErr → Option Half
  | .ok => none
  | .data => some Code.eccUncorrected
  | .address => some Code.accessDenied

/-- A read of `[a, a+n)` of far memory by firmware: the code it fails with, and the kiln record of an uncorrectable error (R428). -/
def State.farChecked (s : State) (r : FarReply) (a n : Nat) : Option Half × State :=
  match farFail r a n with
  | some (w, .data) =>
    let x := BitVec.ofNat 64 (2 ^ 60 + w)
    (some Code.eccUncorrected,
      s.kilnRecord Code.eccUncorrected Source.firmware [Source.firmware.toNat, (loWord x).toNat, (hiWord x).toNat])
  | some (_, e) => (farCode e, s)
  | none => (none, s)

/-- `n` bytes of a far reply. -/
def replyBytes (r : FarReply) (a : Nat) : Nat → List Byte
  | 0 => []
  | n + 1 => replyByte r a :: replyBytes r (a + 1) n

end Sys2Proof.Machine
end

