-- ==== Sys2Proof/Machine/Flags.lean ====
section
/-! DEFINITION. Sticky bits and counters of the engines: tile faults and warnings (R94), the statistics counters
(R170-R172) and their warnings, vector warnings (R199), and the fold into the digest table (R388-R392). -/

namespace Sys2Proof.Machine

def State.me (s : State) (e : Nat) : MatrixEngine := Vec.at s.engines e

def State.onMe (s : State) (e : Nat) (f : MatrixEngine → MatrixEngine) : State :=
  { s with engines := Vec.upd s.engines e f }

/-- The TILE_EMPTY warning of R81. -/
def MatrixEngine.warnEmpty (m : MatrixEngine) (tile : Nat) : MatrixEngine :=
  if m.empty then m else { m with empty := true, emptyTile := BitVec.ofNat 5 tile }

/-- ME_TFAULT and ME_TFSEQ: the first tile fault holds until cleared (R94). -/
def MatrixEngine.tileFault (m : MatrixEngine) (code : Half) (tile opc : Nat) (seq : Word) : MatrixEngine :=
  if m.tfValid then m else
    { m with tfValid := true, tfCode := code, tfTile := BitVec.ofNat 5 tile, tfOpc := BitVec.ofNat 8 opc, tfSeq := seq }

/-- Counts of one attempt at converting a group (R170). -/
structure Counts where
  zero : Nat
  sat : Nat
  nonfin : Nat
  flush : Nat
  /-- largest exponent of a finite non-zero v, none if there was none -/
  maxexp : Option Int
  deriving DecidableEq, Repr, Inhabited

def Counts.none : Counts := ⟨0, 0, 0, 0, Option.none⟩

def Counts.plus (a b : Counts) : Counts where
  zero := a.zero + b.zero
  sat := a.sat + b.sat
  nonfin := a.nonfin + b.nonfin
  flush := a.flush + b.flush
  maxexp := match a.maxexp, b.maxexp with
    | some x, some y => some (max x y)
    | some x, Option.none => some x
    | Option.none, y => y

/-- Add the counts of a group's final attempt to a set; `h` retries were made (R171, R172). -/
def StatSet.addCounts (t : StatSet) (c : Counts) (h : Nat) (exhausted : Bool) : StatSet where
  zero := satAdd t.zero c.zero
  sat := satAdd t.sat c.sat
  nonfin := satAdd t.nonfin c.nonfin
  flush := satAdd t.flush c.flush
  maxexp := match c.maxexp with
    | Option.none => t.maxexp
    | some x => if x > t.maxexp.toInt then BitVec.ofInt 16 x else t.maxexp
  retry := satAdd t.retry h
  exh := satAdd t.exh (if exhausted then 1 else 0)
  groups := satAdd t.groups 1

/-- The warnings and counters of one finished group (R171): RESCALE_EXHAUSTED, NONFINITE_SEEN, and the set TSET
when TSEN is set. -/
def TensorStats.group (t : TensorStats) (tsen : Bool) (tset : Nat) (c : Counts) (h : Nat) (exhausted : Bool) :
    TensorStats :=
  let shown := BitVec.ofNat 4 (if tsen then tset else 0)
  let t := if exhausted && !t.rsx then { t with rsx := true, rxSet := shown } else t
  let t := if c.nonfin > 0 && !t.nonfin then { t with nonfin := true, nfSet := shown } else t
  if tsen then { t with sets := Vec.upd t.sets tset fun x => x.addCounts c h exhausted } else t

/-- First vector fault (R198, R199). -/
def VectorEngine.fault (v : VectorEngine) (code : Half) (opc : Nat) (seq : Word) : VectorEngine :=
  if v.fValid then v else
    { v with fValid := true, fCode := code, fOpc := BitVec.ofNat 8 opc, fSeq := seq }

/-- The log pointer wraps past RECS records (R392). -/
def Digests.wraps (g : Digests) : Bool := decide (0 < g.logPtr.toNat) && g.logPtr.toNat % g.logSize.toNat == 0

/-- Fold a command's digest into entry OSID mod 64, and log it if the log is on (R389, R392). -/
def State.foldDigest (s : State) (e osid : Nat) (digest : DWord) (seq : Word) : State :=
  let d := osid % 64
  let g := s.digests
  let g := { g with
    val := Tbl.set 0#64 g.val d (Tbl.get 0#64 g.val d + digest)
    cnt := Tbl.set 0#32 g.cnt d (Tbl.get 0#32 g.cnt d + 1#32) }
  let s := { s with digests := g }
  if g.log && g.logSize != 0#16 then
    let a := g.logBase.toNat + 16 * (g.logPtr.toNat % g.logSize.toNat)
    if inLocal a 16 && s.may 0x52 .loc true then
      let s := s.lwrite a (leBytes 8 digest.toNat ++ leBytes 2 osid ++ leBytes 1 e ++ leBytes 1 d ++ leBytes 4 seq.toNat)
      { s with digests := { g with
          logPtr := g.logPtr + 1#32
          logWrap := g.logWrap || g.wraps } }.raiseIf g.wraps 13 0x404 0
    else { s with digests := { g with log := false, logErr := true } }.raise 13 0x404 1
  else s

end Sys2Proof.Machine
end

