-- ==== Sys2Proof/Machine/Journal.lean ====
section
/-! DEFINITION. The cullet journal: its records, the staging buffer, back-pressure, trace samples and the writer
(R406-R413). -/

namespace Sys2Proof.Machine

/-! Record kinds (R408). -/
namespace JKind
def msg : Nat := 1
def read : Nat := 2
def mark : Nat := 3
def fence : Nat := 4
def end_ : Nat := 5
def pad : Nat := 6
def credit : Nat := 7
def revoke : Nat := 8
def release : Nat := 9
end JKind

/-- The journal records: it is enabled, has a region, and the cluster has a logical ID (R406). -/
def State.journalOn (s : State) : Bool := s.journal.en && s.journal.size != 0#16 && s.router.lvalid

/-- Bytes of the journal region (R411). -/
def Journal.region (j : Journal) : Nat := 65536 * j.size.toNat

/-- Bytes of journal records in the staging buffer. -/
def Journal.fill (j : Journal) : Nat := (j.staged.map (·.bytes.length)).foldl (· + ·) 0

/-- Bytes of trace samples in the staging buffer. -/
def Journal.tfill (j : Journal) : Nat := 32 * j.trace.length

/-! The place of a record among those of its beat: MARK; messages by input port; READ; FENCE; END (R411). -/
namespace JRank
def mark : Nat := 0
/-- a message from port N 0, E 1, S 2, W 3, edge 4, local 5 -/
def message (port : Nat) : Nat := 1 + port
def read : Nat := 7
def fence : Nat := 8
def end_ : Nat := 9
end JRank

/-- The bytes of a record before it has a JSEQ and a CRC: the 32-byte header, and the body to a multiple of 16 bytes
(R408). -/
def recordBytes (kind flags : Nat) (stamp : DWord) (arg body : List Byte) : List Byte :=
  let body := padTo ((body.length + 15) / 16 * 16) body
  leBytes 1 kind ++ leBytes 1 flags ++ leBytes 2 ((32 + body.length) / 16) ++ leBytes 4 0 ++ leBytes 8 stamp.toNat
    ++ leBytes 4 0 ++ padTo 12 arg ++ body

/-- A record with its JSEQ and its CRC, the CRC-32C of the whole record with the CRC field zero (R408). -/
def sealRecord (jseq : Word) (b : List Byte) : List Byte :=
  let front := b.take 4 ++ leBytes 4 jseq.toNat ++ (b.drop 8).take 8
  let back := b.drop 20
  front ++ leBytes 4 (crc32c (front ++ [0#8, 0#8, 0#8, 0#8] ++ back)).toNat ++ back

/-- STAMP of a record. -/
def JRecord.stamp (r : JRecord) : Nat := leAt r.bytes 8 8

/-- KIND of a record. -/
def JRecord.kind (r : JRecord) : Nat := leAt r.bytes 0 1

/-- Set TSTARV and post TRACE_STARVED, once per clear (R409). -/
def State.traceStarved (s : State) : State :=
  let s := s.setJnStat 1
  if s.journal.starvPosted then s
  else { s with journal := { s.journal with starvPosted := true } }.post Code.traceStarved Source.journal []

/-- Settle the staging buffer after its fill has changed: trace samples make room, the oldest first, and back-pressure
starts at 248 KiB and ends below 224 KiB (R409). -/
def State.settleStaging (s : State) : State :=
  let f := s.journal.fill
  let excess := f + s.journal.tfill - Config.stagingSize
  let s := if excess > 0 && !s.journal.trace.isEmpty then
      { s with journal := { s.journal with trace := s.journal.trace.drop ((excess + 31) / 32) } }.traceStarved
    else s
  if f ≥ 253952 then { s with journal := { s.journal with bpress := true } }.setJnStat 7
  else if f < 229376 then { s with journal := { s.journal with bpress := false } }
  else s

/-- Put one record at the end of the journal, without the pad before it. -/
def Journal.push (j : Journal) (beat rank : Nat) (b : List Byte) : Journal :=
  { j with
    staged := j.staged ++ [{ jseq := j.nextSeq, pos := j.wpos, bytes := sealRecord j.nextSeq b, beat := beat, rank := rank }]
    nextSeq := j.nextSeq + 1#32
    wpos := j.wpos + b.length }

/-- Put a record at the end of the journal; when it does not fit before the end of the region, a PAD fills the remainder
(R411). A remainder of 16 bytes cannot hold a PAD's header and is left as it is (log 20). -/
def Journal.place (j : Journal) (beat rank : Nat) (b : List Byte) : Journal :=
  let room := j.region - j.wpos % j.region
  let j := if b.length ≤ room then j
    else if room < 32 then { j with wpos := j.wpos + room }
    else j.push beat rank (recordBytes JKind.pad (leAt b 1 1) (BitVec.ofNat 64 (leAt b 8 8)) [] (List.replicate (room - 32) 0#8))
  j.push beat rank b

/-- The records at the end of the buffer that a new record of this beat goes before: those of the beat with a later stamp, or
with its stamp and a later place (R399, R411). Nothing goes before a FENCE or END record (log 4). -/
def Journal.later (j : Journal) (beat rank stamp : Nat) : List JRecord :=
  (j.staged.reverse.takeWhile fun r => r.beat == beat && decide (r.rank < JRank.fence)
    && (decide (stamp < r.stamp) || (r.stamp == stamp && decide (rank < r.rank)))).reverse

/-- Take records off the end of the buffer. -/
def Journal.unplace (j : Journal) : List JRecord → Journal
  | [] => j
  | r :: rest => { j with staged := j.staged.take (j.staged.length - (rest.length + 1)), nextSeq := r.jseq, wpos := r.pos }

/-- Append a record, in the order that R411 gives the records of one beat. -/
def State.jappend (s : State) (kind rank : Nat) (stamp : DWord) (arg body : List Byte) : State :=
  let flags := if s.inRun then 0 else 1
  let later := s.journal.later s.beat rank stamp.toNat
  let j := (s.journal.unplace later).place s.beat rank (recordBytes kind flags stamp arg body)
  let j := (later.filter fun r => r.kind != JKind.pad).foldl (fun j r => j.place r.beat r.rank r.bytes) j
  { s with journal := j }.settleStaging

/-- The buffer has room for a message's record; without it the router holds the message (R409). Records that are no messages
do not wait (log 120). -/
def State.jroom (s : State) (m : Message) : Bool :=
  !s.journalOn || decide (s.journal.fill + 48 + 16 * ((m.payload.length + 15) / 16) ≤ Config.stagingSize)

/-- The 16 bytes of a message header. -/
def headerBytes (m : Message) : List Byte := leBytes 8 m.w0.toNat ++ leBytes 8 m.w1.toNat

/-- Record an inbound message: MSG with its payload, CREDIT, REVOKE or RELEASE as a header (R406, R408). -/
def State.jmessage (s : State) (kind : Nat) (m : Message) (stamp : DWord) (port : Nat) : State :=
  if s.journalOn then
    s.jappend kind (JRank.message port) stamp [] (headerBytes m ++ (if kind = JKind.msg then m.payload else []))
  else s

/-- Where the next MARK would stand, with the counts of R412. -/
def State.markPoint (s : State) (r : JRecord) : MarkPoint where
  jseq := r.jseq
  pos := r.pos
  send := s.rings.sendCount
  credit := s.rings.creditCount
  revoke := s.rings.revokeCount

/-- The volatile reads of every source count anew from a MARK or a launch (R408: ORD). -/
def State.zeroOrds (s : State) : State :=
  { s with
    se := { s.se with ctxs := Tbl.update StreamCtx.idle (fun (c : StreamCtx) => { c with ord := 0 }) s.se.ctxs }
    marver := { s.marver with
      shards := Tbl.update Shard.none (fun (x : Shard) => { x with ord := 0 }) s.marver.shards } }

/-- Append a MARK and answer its place, when the journal is on (R399, R406, R408). -/
def State.jmark (s : State) (snapSeq : Word) (bank bid : Nat) (gen : Half) (id : DWord) : State × Option MarkPoint :=
  if s.journalOn then
    let arg := leBytes 4 snapSeq.toNat ++ leBytes 1 bank ++ leBytes 1 bid ++ leBytes 2 gen.toNat
    let s := s.jappend JKind.mark JRank.mark s.lehr.lc arg (leBytes 8 id.toNat ++ leBytes 8 0)
    (s, (s.journal.staged.reverse.find? fun r => r.kind == JKind.mark).map s.markPoint)
  else (s, none)

/-- The MARK of a LAUNCH firing: the retention point while no snapshot is complete (R406, R411). -/
def State.launchMark (s : State) : State :=
  let (s, m) := s.zeroOrds.jmark s.journal.snapSeq 0xFF 0 0#16 s.lehr.lc
  if s.journal.snapValid || m.isNone then s else { s with journal := { s.journal with retain := m } }

/-- A READ record: the data of a volatile far read as returned (R407, R408). -/
def State.jread (s : State) (src ord : Nat) (faddr : Nat) (data : List Byte) : State :=
  if s.journalOn then
    let arg := leBytes 2 src ++ leBytes 2 0 ++ leBytes 4 ord ++ leBytes 2 data.length
    s.jappend JKind.read JRank.read s.lehr.lc arg (leBytes 8 faddr ++ leBytes 8 0 ++ data)
  else s

/-- The body of a FENCE record, with NE and NR (R413). -/
def State.fenceBody (s : State) : List Byte × Nat × Nat :=
  let bars := s.lehr.bars.toList.flatMap fun b =>
    leBytes 2 b.gen.toNat ++ leBytes 1 (flag 0 b.arrived) ++ leBytes 1 0
  let at0 := s.journal.retain
  let oldSend := (at0.map (·.send)).getD []
  let oldCredit := (at0.map (·.credit)).getD []
  let oldRevoke := (at0.map (·.revoke)).getD []
  let es := (List.range 2048).filter fun e => Tbl.get 0#32 s.rings.sendCount e != Tbl.get 0#32 oldSend e
  let rs := (List.range 8192).filter fun t => Tbl.get 0#32 s.rings.creditCount t != Tbl.get 0#32 oldCredit t
    || Tbl.get 0#16 s.rings.revokeCount t != Tbl.get 0#16 oldRevoke t
  (bars ++ leBytes 8 0
    ++ es.flatMap (fun e => leBytes 2 e ++ leBytes 2 0 ++ leBytes 4 (Tbl.get 0#32 s.rings.sendCount e).toNat)
    ++ rs.flatMap (fun t => leBytes 2 t ++ leBytes 2 (Tbl.get 0#16 s.rings.revokeCount t).toNat
        ++ leBytes 4 (Tbl.get 0#32 s.rings.creditCount t).toNat), es.length, rs.length)

/-- Append the FENCE record of R414 with the CAUSE of the leave and answer its JSEQ; with no journal nothing is
appended. It is appended in the beat of the leave, so it is not HELD (log 21). -/
def State.jfence (s : State) (cause : Byte) : State × Word :=
  if s.journalOn then
    let (body, ne, nr) := s.fenceBody
    let arg := leBytes 1 cause.toNat ++ leBytes 1 0 ++ leBytes 2 ne ++ leBytes 2 nr
    let s := s.jappend JKind.fence JRank.fence s.lehr.lc arg body
    (s, (s.journal.staged.getLast?.map (·.jseq)).getD 0#32)
  else (s, 0#32)

/-- Append the END record of R414: the remap epoch that moved the ID. -/
def State.jend (s : State) (epoch : Half) : State :=
  if s.journalOn then s.jappend JKind.end_ JRank.end_ s.lehr.lc (leBytes 2 epoch.toNat) [] else s

/-- A far read of this system address is volatile when a program stream or Marver makes it (R407). -/
def State.isVolatile (s : State) (addr : Nat) : Bool :=
  (List.range 16).any fun v => s.journal.volV.getLsbD v &&
    decide ((Vec.at s.journal.volB v).toNat ≤ addr) &&
    decide (addr < (Vec.at s.journal.volB v).toNat + 65536 * (Vec.at s.journal.volS v).toNat)

/-- Cut a range into pieces that cross no 256-byte boundary (R463). -/
def pieces (addr : Nat) : Nat → List Byte → List (Nat × List Byte)
  | 0, _ => []
  | _ + 1, [] => []
  | k + 1, bs =>
    let n := 256 - addr % 256
    (addr, bs.take n) :: pieces (addr + n) k (bs.drop n)

/-- Issue a list of far writes, in order, when tags are free for all of them. -/
def State.farWrites (s : State) (use : FarUse) : List (Nat × List Byte) → Option State
  | [] => some s
  | (a, bs) :: rest =>
    match s.farIssue true a bs.length 0x50#7 use bs with
    | none => none
    | some (_, s') => s'.farWrites use rest

/-- The record at the front may be written: it lies within the region and overwrites nothing at or after the
retention point (R411). -/
def Journal.mayWrite (j : Journal) (r : JRecord) : Bool :=
  decide (0 < j.region) && decide (r.pos % j.region + r.bytes.length ≤ j.region) &&
    match j.retain with
    | none => true
    | some m => decide (r.pos + r.bytes.length ≤ m.pos + j.region)

/-- Write one trace sample into its ring (R410). -/
def State.traceWrite (s : State) : State :=
  match s.journal.trace with
  | [] => s
  | t :: rest =>
    let ring := 65536 * s.journal.tsize.toNat
    if ring = 0 then { s with journal := { s.journal with trace := rest } }
    else match s.farWrites .trace [(s.journal.tbase.toNat + (32 * s.journal.tpos) % ring, t)] with
      | none => s
      | some s => { s with journal := { s.journal with trace := rest, tpos := s.journal.tpos + 1 } }

/-- JOURNAL_WRITE: the writer sends the oldest record to the region, or stops at the retention point (R411); with no
journal record to write, the oldest trace sample goes (R220, R410). -/
def execJournalWrite (s : State) : Answer :=
  if !s.pins.alive then .next s else
  match s.journal.staged with
  | [] => .next s.traceWrite
  | r :: rest =>
    if s.journal.mayWrite r then
      match s.farWrites (.journal r.jseq)
          (pieces (s.journal.base.toNat + r.pos % s.journal.region) (r.bytes.length / 16 + 1) r.bytes) with
      | none => .next s
      | some s => .next { s with journal := { s.journal with staged := rest, stopped := false } }.settleStaging
    else if s.journal.stopped || s.journal.region = 0 then .next s.traceWrite
    else .next (({ s with journal := { s.journal with stopped := true } }.setJnStat 2).post Code.journalFull
      Source.journal [])

/-- JN_WSEQ: every record before the oldest one not acknowledged has been acknowledged (R430). -/
def State.journalAck (s : State) : State :=
  let waiting := s.far.findSome? fun r => match r.use with
    | .journal q => some q
    | _ => none
  let next := waiting.getD ((s.journal.staged.head?.map (·.jseq)).getD s.journal.nextSeq)
  { s with journal := { s.journal with wseq := next - 1#32 } }

/-- The four counters a trace sample reports the growth of (R410). -/
def State.traceCounters (s : State) : Vector DWord 4 :=
  #v[(s.engines.toList.map (·.abusy)).foldl (· + ·) 0#64, s.ve.busy, s.rings.rx, s.rings.tx]

/-- TRACE_SAMPLE: one sample in a beat in which LC is a multiple of 2^TPER (R410); none while the journal's fill exceeds
192 KiB (R409). In a buffer that samples fill, the oldest makes room for the new one (log 120). -/
def execTraceSample (s : State) : Answer :=
  if !s.pins.alive then .next s else
  let j := s.journal
  let per := j.tper.toNat
  if j.ten && s.inRun && decide (10 ≤ per) && decide (per ≤ 24) && s.lehr.lc.toNat % 2 ^ per == 0
      && j.tlast != some s.lehr.lc then
    let now := s.traceCounters
    let d := fun i => leBytes 4 ((Vec.at now i - Vec.at j.tprev i).toNat % 2 ^ 32)
    let sample := leBytes 8 s.lehr.lc.toNat ++ d 0 ++ d 1 ++ d 2 ++ d 3 ++ leBytes 4 (j.fill / 16) ++ leBytes 4 0
    let s := { s with journal := { j with tlast := some s.lehr.lc } }
    if j.fill > 196608 then .next s.traceStarved
    else
      let (kept, t) := if j.fill + j.tfill + 32 > Config.stagingSize then (j.trace.drop 1, s.traceStarved) else (j.trace, s)
      .next { t with journal := { t.journal with tprev := now, trace := kept ++ [sample] } }
  else .next s

end Sys2Proof.Machine
end

