-- ==== Sys2Proof/Machine/Messages.lean ====
section
/-! DEFINITION. Message headers (R239, R240, R289), the ring store (R241, R252) and what every family does with them:
fields of descriptors and credit entries, sending, window counting, parked sends. -/

namespace Sys2Proof.Machine

/-! Header fields. -/
namespace Msg
def lane (m : Message) : Nat := fld 63 62 m.w0.toNat
def kind (m : Message) : Nat := fld 60 58 m.w0.toNat
def epoch (m : Message) : Nat := fld 57 42 m.w0.toNat
def domain (m : Message) : Nat := fld 41 36 m.w0.toNat
def tag (m : Message) : Nat := fld 35 23 m.w0.toNat
def dlcid (m : Message) : Nat := fld 22 12 m.w0.toNat
def dchip (m : Message) : Nat := fld 11 0 m.w0.toNat
/-- LEN of DATA and GATHER -/
def len (m : Message) : Nat := fld 48 40 m.w1.toNat
/-- SENT of DATA -/
def sent (m : Message) : Nat := fld 33 23 m.w1.toNat
def slcid (m : Message) : Nat := fld 22 12 m.w1.toNat
def schip (m : Message) : Nat := fld 11 0 m.w1.toNat
def sx (m : Message) : Nat := fld 60 53 m.w1.toNat
def nf (m : Message) : Bool := bit 52 m.w1.toNat
def ovf (m : Message) : Bool := bit 51 m.w1.toNat
def gmode (m : Message) : Nat := fld 50 49 m.w1.toNat
def cid (m : Message) : Nat := fld 39 28 m.w1.toNat
def slot (m : Message) : Nat := fld 27 16 m.w1.toNat
def ncont (m : Message) : Nat := fld 15 0 m.w1.toNat
def gran (m : Message) : Nat := fld 26 11 m.w1.toNat
/-- SENT of CREDIT -/
def creditSent (m : Message) : Nat := fld 10 0 m.w1.toNat
def rtag (m : Message) : Nat := fld 35 23 m.w1.toNat
def rlcid (m : Message) : Nat := fld 22 12 m.w1.toNat
def rchip (m : Message) : Nat := fld 11 0 m.w1.toNat
def sop (m : Message) : Nat := fld 63 62 m.w1.toNat
def bid (m : Message) : Nat := fld 61 58 m.w1.toNat
def gen (m : Message) : Nat := fld 57 42 m.w1.toNat
def pass40 (m : Message) : Nat := fld 39 0 m.w1.toNat
def count (m : Message) : Nat := fld 23 0 m.w1.toNat
end Msg

/-! Lanes and kinds (R239). -/
namespace Lane
def sync : Nat := 0
def ctrl : Nat := 1
def exch : Nat := 2
def bulk : Nat := 3
end Lane
namespace Kind
def data : Nat := 0
def gather : Nat := 1
def credit : Nat := 2
def revoke : Nat := 3
def sync : Nat := 4
end Kind

/-- Granules of a message with `len` units of 16 bytes (R240). -/
def granules (len : Nat) : Nat := (len + 4) / 4

/-- Bytes 0-7 of a header (R239). -/
def headWord (lane kind epoch domain tag dlcid dchip : Nat) : DWord :=
  BitVec.ofNat 64 (lane * 2 ^ 62 + kind * 2 ^ 58 + epoch * 2 ^ 42 + domain * 2 ^ 36 + tag * 2 ^ 23 + dlcid * 2 ^ 12
    + dchip)

/-- The cluster's logical ID as TS_HID shows it. -/
def State.ownLcid (s : State) : Nat := s.hid.toNat % 2 ^ 11

/-- A message leaves the cluster's own send path for the router. -/
def State.transmit (s : State) (m : Message) (mc : Bool) : State :=
  { s with router := { s.router with txq := s.router.txq ++ [(m, mc)] } }

/-- In state REPLAY or TAIL (R420). -/
def Journal.replaying (j : Journal) : Bool := j.rstate == .replay || j.rstate == .tail

/-! Ring descriptors (R241). -/

/-- `n` bytes of the descriptor of ring `t` at offset `o`. -/
def State.ringFld (s : State) (t o n : Nat) : Nat := s.rings.store.readLE (32 * t + o) n

def State.setRing (s : State) (t o n v : Nat) : State :=
  { s with rings := { s.rings with store := s.rings.store.writeLE (32 * t + o) n v } }

/-- A ring descriptor taken apart (R241). -/
structure Ring where
  base : Nat
  logsize : Nat
  b4hi : Nat
  apron : Nat
  type : Nat
  state : Nat
  prio : Nat
  msrc : Bool
  b6hi : Bool
  domain : Nat
  b7hi : Nat
  epoch : Nat
  nslot : Nat
  wptr : Nat
  rptr : Nat
  elem : Nat
  gmode : Nat
  b22hi : Nat
  sx : Nat
  expect : Nat
  high : Nat
  tail : Nat
  deriving DecidableEq, Repr, Inhabited

/-- The descriptor of ring `t`. -/
def State.ring (s : State) (t : Nat) : Ring :=
  let b4 := s.ringFld t 4 1
  let b6 := s.ringFld t 6 1
  let b7 := s.ringFld t 7 1
  let b22 := s.ringFld t 22 1
  { base := s.ringFld t 0 4, logsize := b4 % 16, b4hi := b4 / 16, apron := s.ringFld t 5 1
    type := b6 % 4, state := fld 3 2 b6, prio := fld 5 4 b6, msrc := bit 6 b6, b6hi := bit 7 b6
    domain := b7 % 64, b7hi := b7 / 64, epoch := s.ringFld t 8 2, nslot := s.ringFld t 10 2
    wptr := s.ringFld t 12 4, rptr := s.ringFld t 16 4, elem := s.ringFld t 20 2, gmode := b22 % 4, b22hi := b22 / 4
    sx := s.ringFld t 23 1, expect := s.ringFld t 24 4, high := s.ringFld t 28 1, tail := s.ringFld t 29 3 }

namespace RingType
def plain : Nat := 0
def gather : Nat := 1
def update : Nat := 2
end RingType
namespace RingState
def closed : Nat := 0
def opened : Nat := 1
def draining : Nat := 2
end RingState

/-- Granules of a PLAIN ring. -/
def Ring.size (r : Ring) : Nat := 2 ^ r.logsize

/-- Bytes of one gather slot: its header and its data area (R245). -/
def Ring.slotBytes (r : Ring) : Nat := (1 + (r.elem * (if r.gmode = 2 then 8 else 4) + 63) / 64) * 64

/-- Local address of a gather slot. -/
def Ring.slotAddr (r : Ring) (slot : Nat) : Nat := r.base + slot * r.slotBytes

def State.setRingState (s : State) (t st : Nat) : State :=
  let b6 := s.ringFld t 6 1
  s.setRing t 6 1 (b6 % 4 + st * 4 + b6 / 16 * 16)
def State.setRingEpoch (s : State) (t v : Nat) : State := s.setRing t 8 2 v
def State.setWptr (s : State) (t v : Nat) : State := s.setRing t 12 4 v
def State.setRptr (s : State) (t v : Nat) : State := s.setRing t 16 4 v

/-- A DRAINING ring becomes CLOSED by itself when RPTR equals WPTR (R244). -/
def State.autoClose (s : State) (t : Nat) : State :=
  let r := s.ring t
  if r.state = RingState.draining && r.rptr = r.wptr then s.setRingState t RingState.closed else s

/-- Set a sticky bit of RG_STAT. -/
def State.setRgStat (s : State) (i : Nat) : State :=
  { s with rings := { s.rings with stat := s.rings.stat ||| BitVec.ofNat 11 (2 ^ i) } }.raise 9 0x808 i

/-! Credit entries (R252). -/

/-- A credit entry taken apart. -/
structure Credit where
  dchip : Nat
  dlcid : Nat
  dtag : Nat
  epoch : Nat
  credit : Nat
  valid : Bool
  stale : Bool
  gather : Bool
  gmode : Nat
  sx : Nat
  deriving DecidableEq, Repr, Inhabited

def State.creditFld (s : State) (e o n : Nat) : Nat := s.rings.credit.readLE (16 * e + o) n

def State.setCredit (s : State) (e o n v : Nat) : State :=
  { s with rings := { s.rings with credit := s.rings.credit.writeLE (16 * e + o) n v } }

def State.entryOf (s : State) (e : Nat) : Credit :=
  let b := s.creditFld e 10 1
  { dchip := s.creditFld e 0 2 % 2 ^ 12, dlcid := s.creditFld e 2 2 % 2 ^ 11, dtag := s.creditFld e 4 2 % 2 ^ 13
    epoch := s.creditFld e 6 2, credit := s.creditFld e 8 2, valid := bit 0 b, stale := bit 1 b, gather := bit 2 b
    gmode := fld 4 3 b, sx := s.creditFld e 11 1 }

/-- Sends parked on entry `e`. -/
def Rings.parkedOn (r : Rings) (e : Nat) : Nat := (r.parked.filter fun p => p.entry == e).length

/-- The stale send of R255: RG_STAT.SSTALE and the first such entry in RG_STALE. -/
def State.noteStale (s : State) (e : Nat) : State :=
  let s := (s.setRgStat 10).raise 9 0x814 31
  if s.rings.staleValid then s
  else { s with rings := { s.rings with staleValid := true, staleEntry := BitVec.ofNat 11 e } }

/-- Queue 7's command with this sequence number completes; a send of Marver has none. -/
def State.completeSend (s : State) : Option Word → State
  | some q => s.complete 7 q
  | none => s

/-- Release a send whose credit is settled: its header is built from the entry and the cluster's identity (R253; SX is zero in
the fast modes, R240), it holds the send port for its flits once those before it have left (R295), and it waits for its payload read (R256). -/
def State.releaseSend (s : State) (d : Send) : State :=
  let c := s.entryOf d.entry
  let w0 := headWord d.lane (if c.gather then Kind.gather else Kind.data) c.epoch s.gaffer.domain.toNat c.dtag
    c.dlcid c.dchip
  let w1 := if c.gather then
      BitVec.ofNat 64 ((if c.gmode = 2 then c.sx else 0) * 2 ^ 53 + c.gmode * 2 ^ 49 + d.len * 2 ^ 40 + d.cid * 2 ^ 28 + d.slot * 2 ^ 16 + 1)
    else BitVec.ofNat 64 (d.len * 2 ^ 40 + d.entry * 2 ^ 23 + s.ownLcid * 2 ^ 12 + s.router.chip.toNat)
  let d := { d with w0 := w0, w1 := w1, exact := if c.gather && c.gmode = 2 then some (sext 8 c.sx) else none }
  let until_ := max (2 * s.beat) s.sched.portNc + d.n
  { s with sched := { s.sched with
      sends := s.sched.sends ++ [d]
      portNc := until_
      freeBeat := max s.sched.freeBeat ((until_ + 1) / 2) } }

/-- Charge `n` granules to an entry. -/
def State.charge (s : State) (e n : Nat) : State := s.setCredit e 8 2 ((s.entryOf e).credit - n)

/-- Judge the parked sends in parking order: those of an entry that is no longer a VALID DATA entry, or is STALE,
complete unsent; the first of each entry leaves when its credit suffices, and holds those behind it otherwise
(R252, R255). -/
def judgeParked : List Send → List Nat → State → List Send × State
  | [], _, s => ([], s)
  | d :: ds, blocked, s =>
    let c := s.entryOf d.entry
    if c.stale || !c.valid || c.gather then judgeParked ds blocked ((s.noteStale d.entry).completeSend d.seq)
    else if blocked.contains d.entry || decide (c.credit < d.n) then
      let (rest, s) := judgeParked ds (d.entry :: blocked) s
      (d :: rest, s)
    else judgeParked ds blocked ((s.charge d.entry d.n).releaseSend d)

def State.releaseParked (s : State) : State :=
  let (rest, s) := judgeParked s.rings.parked [] s
  { s with rings := { s.rings with parked := rest } }

/-- A publication message waits for credit: its next destination takes messages and has not the credit for this one (R371, R377). -/
def State.pubWaits (s : State) (p : PubMsg) : Bool :=
  match p.todo with
  | [] => false
  | (_, e) :: _ =>
    let c := s.entryOf e
    !c.stale && c.valid && !c.gather
      && (s.rings.parkedOn e != 0 || decide (c.credit < granules (p.payload.length / 16)))

/-! Suppression during REPLAY (R419). -/

/-- Use up one suppressed item of key `k`, if one is left. -/
def useUp (k : Nat) : List (Nat × Word) → Option (List (Nat × Word))
  | [] => none
  | (a, n) :: t =>
    if a = k then (if n = 0#32 then none else some ((a, n - 1#32) :: t))
    else (useUp k t).map ((a, n) :: ·)

/-- Take one suppression of a CREDIT of ring `t`: true when the message is not to leave. -/
def State.suppressCredit (s : State) (t : Nat) : Bool × State :=
  if s.journal.rstate == .replay then
    match useUp t s.journal.supCredit with
    | some l => (true, { s with journal := { s.journal with supCredit := l } })
    | none => (false, s)
  else (false, s)

def State.suppressRevoke (s : State) (t : Nat) : Bool × State :=
  if s.journal.rstate == .replay then
    match useUp t s.journal.supRevoke with
    | some l => (true, { s with journal := { s.journal with supRevoke := l } })
    | none => (false, s)
  else (false, s)

def State.suppressSend (s : State) (e : Nat) : Bool × State :=
  if s.journal.rstate == .replay then
    match useUp e s.journal.supSend with
    | some l => (true, { s with journal := { s.journal with supSend := l } })
    | none => (false, s)
  else (false, s)

/-- Send one CREDIT of ring `t` to a source (R257); counted under R412 whether or not it is suppressed. -/
def State.sendCredit (s : State) (t epoch chip lcid sent gran : Nat) : State :=
  let s := { s with rings := { s.rings with
    creditCount := Tbl.set 0#32 s.rings.creditCount t (Tbl.get 0#32 s.rings.creditCount t + 1#32) } }
  let (stop, s) := s.suppressCredit t
  if stop then s
  else s.transmit {
    w0 := headWord Lane.ctrl Kind.credit epoch s.gaffer.domain.toNat 0 lcid chip
    w1 := BitVec.ofNat 64 (gran * 2 ^ 11 + sent), payload := [] } false

/-- Multicast the REVOKE of ring `t` with its new epoch (R240, R267). -/
def State.sendRevoke (s : State) (t epoch : Nat) : State :=
  let s := { s with rings := { s.rings with
    revokeCount := Tbl.set 0#16 s.rings.revokeCount t (Tbl.get 0#16 s.rings.revokeCount t + 1#16) } }
  let (stop, s) := s.suppressRevoke t
  if stop then s
  else s.transmit {
    w0 := headWord Lane.ctrl Kind.revoke epoch s.gaffer.domain.toNat 0 0x7FF s.router.chip.toNat
    w1 := BitVec.ofNat 64 (t * 2 ^ 23 + s.ownLcid * 2 ^ 12 + s.router.chip.toNat), payload := [] } true

/-! Receive windows (R298-R301). -/

/-- The active window on ring `tag` that was armed earliest. -/
def Sched.windowOf (d : Sched) (tag : Nat) : Option Nat :=
  (List.range 64).foldl (fun best w =>
    let x := Vec.at d.windows w
    if x.active && x.tag = tag then
      match best with
      | none => some w
      | some b => if x.order < (Vec.at d.windows b).order then some w else some b
    else best) none

/-- A window's classification of a stamp (R300): early, inside or late. -/
def State.classify (s : State) (w tag : Nat) (x : Window) (stamp : DWord) : State :=
  if s.journal.replaying then s
  else if stamp.toNat < x.opens.toNat then
    { s with lehr := { s.lehr with early := satAdd s.lehr.early 1 } }
  else if stamp.toNat < x.closes.toNat then s
  else
    let l := { s.lehr with late := satAdd s.lehr.late 1, lateSticky := true }
    ({ s with lehr := if l.tfValid then l else
        { l with tfValid := true, tfWin := BitVec.ofNat 6 w, tfTag := BitVec.ofNat 13 tag } }.raise 10 0x000 3).raise 10 0x018 31

/-- WINDOW_COUNT: an accepted EXCH message adds to the earliest armed active window of its ring (R299). -/
def State.countWindow (s : State) (lane tag amount : Nat) (stamp : DWord) : State :=
  if lane != Lane.exch || !s.inRun then s
  else match s.sched.windowOf tag with
    | none => { s with lehr := { s.lehr with unwin := satAdd s.lehr.unwin 1, unwinSticky := true } }.raise 10 0x000 8
    | some w =>
      let x := Vec.at s.sched.windows w
      let n := x.count + amount
      let x' := if n ≥ x.expect then { x with count := n, active := false, done := true } else { x with count := n }
      ({ s with sched := { s.sched with windows := Vec.upd s.sched.windows w fun _ => x' } }).classify w tag x stamp

/-- Write zeros over a range of local memory, with valid check bits and both dirty bits (R204, R401). -/
def State.lzero (s : State) (a n : Nat) : State :=
  { s with
    mem := { s.mem with
      mem := s.mem.mem.zero a n
      bad := s.mem.bad.filter fun w => !(decide (a ≤ 8 * w) && decide (8 * w + 8 ≤ a + n))
      single := s.mem.single.filter fun w => !(decide (8 * w < a + n) && decide (a < 8 * w + 8)) }
    journal := { s.journal with
      dirty0 := s.journal.dirty0 ||| dirtyMask a n
      dirty1 := s.journal.dirty1 ||| dirtyMask a n } }

end Sys2Proof.Machine
end

