-- ==== Sys2Proof/Machine/Rings.lean ====
section
/-! DEFINITION. Rings, gather rings and credits: writes of the ring store, ring commands, inbound messages and the
reading side (R238-R271). -/

namespace Sys2Proof.Machine

/-! Ring commands (R244, R245). -/

/-- A descriptor is consistent (R245). -/
def State.consistent (s : State) (t : Nat) : Bool :=
  let r := s.ring t
  let reserved := r.b4hi == 0 && !r.b6hi && r.b7hi == 0 && r.b22hi == 0 && r.tail == 0
  let aligned := r.base % 64 == 0
  if r.type = RingType.plain then
    reserved && aligned && decide (1 ≤ r.logsize) && decide (r.apron ≤ 65)
      && inLocal r.base ((r.size + r.apron) * 64) && r.nslot == 0 && r.elem == 0 && r.expect == 0
      && r.gmode == 0 && r.sx == 0
  else if r.type = 3 then false
  else
    let most := if r.gmode = 0 then 1024 else if r.gmode = 1 then 2048 else 512
    reserved && aligned && decide (32 ≤ t) && decide (t ≤ 1055) && r.gmode != 3 && !(s.tier.det && r.gmode != 2)
      && inLocal r.base (r.nslot * r.slotBytes) && r.logsize == 0 && r.apron == 0
      && decide (1 ≤ r.nslot) && decide (r.nslot ≤ 4096) && decide (1 ≤ r.elem) && decide (r.elem ≤ most)
      && decide (1 ≤ r.expect) && decide (r.expect ≤ 65535)

/-- Zero every slot of a gather ring, leaving each FREE (R244, R259). -/
def State.zeroSlots (s : State) (t : Nat) : State :=
  let r := s.ring t
  if r.type = RingType.plain then s else s.lzero r.base (r.nslot * r.slotBytes)

/-- The bytes and places of an accepted message: one segment, or two when it is split at the ring's end (R248). -/
def Ring.segments (r : Ring) (w : RingWrite) : List (Nat × List Byte) :=
  let p := w.pos.toNat % r.size
  let body := padTo (16 * Msg.len w.msg) w.msg.payload
  let tail := leBytes 8 w.msg.w1.toNat ++ body
  let front := leBytes 8 w.msg.w0.toNat
  if p + w.n ≤ r.size + r.apron then [(r.base + 64 * p, front ++ tail)]
  else
    let all := leBytes 8 (w.msg.w0 ||| 0x2000000000000000#64).toNat ++ tail
    let cut := (r.size - p) * 64
    [(r.base + 64 * p, all.take cut), (r.base, all.drop cut)]

/-- Write an accepted message into its ring's region (R248, R251). -/
def State.writeMessage (s : State) (w : RingWrite) : State :=
  ((s.ring w.tag).segments w).foldl (fun s g => s.lwrite g.1 g.2) s

/-- WPTR advances past a message that has been written, and its window counts it (R249, R299). -/
def State.advance (s : State) (w : RingWrite) : State :=
  let s := s.setWptr w.tag (((s.ring w.tag).wptr + w.n) % 2 ^ 32)
  (s.countWindow (Msg.lane w.msg) w.tag 1 w.stamp).autoClose w.tag

/-- The messages a ring has accepted complete their writes; under DRAIN they stay readable, under CLOSE and RESET
they are dropped with the unread content (R265; log 24). -/
def State.settleWrites (s : State) (t : Nat) (keep : Bool) : State :=
  let mine := s.rings.writes.filter fun w => w.tag == t
  let s := { s with rings := { s.rings with writes := s.rings.writes.filter fun w => w.tag != t } }
  mine.foldl (fun s w => let s := s.writeMessage w; if keep then s.advance w else s) s

/-- Revocation: the epoch rises by one and a REVOKE is multicast (R267). -/
def State.revoke (s : State) (t : Nat) : State :=
  let e := ((s.ring t).epoch + 1) % 2 ^ 16
  (s.setRingEpoch t e).sendRevoke t e

/-- Release a DONE slot: data and header zeroed, FREE, RPTR advances (R262, R361). -/
def State.releaseSlot (s : State) (t slot : Nat) : State :=
  let r := s.ring t
  ((s.lzero (r.slotAddr slot) r.slotBytes).setRptr t ((r.rptr + 1) % 2 ^ 32)).autoClose t

/-- The slot of the chunk that Marver is processing, if it is one of ring `t` that is still to be released. -/
def Marver.chunkSlot (m : Marver) (t : Nat) : Option Nat :=
  match m.chunk with
  | some (_, some (u, slot)) => if u = t then some slot else none
  | _ => none

/-- A CLOSE or RESET of an UPDATE ring acts after the chunk that Marver is processing from it, whose slot is released, and
discards the slots that Marver holds or has not taken (R375). -/
def State.dropSlots (s : State) (t : Nat) : State :=
  let s := match s.marver.chunkSlot t with
    | some slot =>
      let s := s.releaseSlot t slot
      { s with marver := { s.marver with chunk := s.marver.chunk.map fun (e : Nat × Option (Nat × Nat)) => (e.1, none) } }
    | none => s
  { s with marver := { s.marver with slots := s.marver.slots.filter fun x => x.1 != t } }

/-- STATE of a gather slot (R259). -/
def State.slotState (s : State) (r : Ring) (slot : Nat) : Nat := s.mem.mem.readLE (r.slotAddr slot + 6) 1

/-- A ring command acts, or is refused (R244). -/
def State.ringAct (s : State) (op t slot : Nat) : Option State :=
  let r := s.ring t
  let live := r.state == RingState.opened || r.state == RingState.draining
  match op with
  | 1 => if r.state = RingState.closed && s.consistent t then
        some ((((s.setWptr t 0).setRptr t 0).setRing t 28 1 0).zeroSlots t |>.setRingState t RingState.opened)
      else none
  | 2 => if live then
        let s := (s.settleWrites t false).dropSlots t
        some (((s.setWptr t (s.ring t).rptr).setRingState t RingState.closed).revoke t)
      else none
  | 3 => if r.state = RingState.opened then
        some ((((s.settleWrites t true).setRingState t RingState.draining).revoke t).autoClose t)
      else none
  | 4 => if live then
        let s := (s.settleWrites t false).dropSlots t
        some (((((s.setWptr t 0).setRptr t 0).zeroSlots t).setRingState t RingState.opened).revoke t)
      else none
  | 5 => if live && r.type = RingType.gather && decide (slot < r.nslot) && s.slotState r slot = 2 then
        some (s.releaseSlot t slot)
      else none
  | _ => none

/-- RG_CSTAT after a write of RG_CMD that names ring `t` (R244). -/
def State.ringNote (s : State) (t : Nat) (code : Half) (busy : Bool) : State :=
  { s with rings := { s.rings with cCode := code, cTag := BitVec.ofNat 13 t, cBusy := busy } }

/-- RG_CMD is written by master `m` (R244): refused while a command runs. A command acts in the N-cycle of the write, and BUSY
stays set up to the next one (log 121). -/
def State.ringCommand (s : State) (m op t slot : Nat) : State :=
  if s.rings.cBusy then s.ringNote t Code.busy true
  else if t < 32 && m != 0x50 then s.ringNote t Code.denied false
  else match s.ringAct op t slot with
    | some s => s.ringNote t Code.ok true
    | none => s.ringNote t Code.badParam false

/-- The ring command that runs is done (R244). -/
def State.ringIdle (s : State) : State := { s with rings := { s.rings with cBusy := false } }

/-! Writes of the ring store (R242, R252, R257). -/

/-- Walk the stored headers of ring `t` from distance `d` to distance `goal` past RPTR: the granules of each source,
by SCHIP, SLCID and SENT; none when the walk misses the goal (R257). -/
def State.rptrWalk (r : Ring) (goal : Nat) : Nat → Nat → List (Nat × Nat) → State → Option (List (Nat × Nat)) × State
  | 0, _, _, s => (none, s)
  | k + 1, d, acc, s =>
    if d = goal then (some acc, s)
    else if d > goal then (none, s)
    else
      let a := r.base + 64 * ((r.rptr + d) % r.size)
      let (bs, s) := s.lreadOn Source.router (a + 8) 8
      let w1 := ofLE bs
      let n := granules (fld 48 40 w1)
      let key := fld 11 0 w1 * 2 ^ 22 + fld 22 12 w1 * 2 ^ 11 + fld 33 23 w1
      State.rptrWalk r goal k (d + n) (Tbl.set 0 acc key (Tbl.get 0 acc key + n)) s

/-- A reader writes a new RPTR: space is freed and credit returned, or the write is ignored and BADWR set (R257). -/
def State.writeRptr (s : State) (t new : Nat) : State :=
  let r := s.ring t
  let goal := (new + 2 ^ 32 - r.rptr) % 2 ^ 32
  let most := (r.wptr + 2 ^ 32 - r.rptr) % 2 ^ 32
  match (if goal > most then (none, s) else State.rptrWalk r goal (goal + 1) 0 [] s) with
  | (none, s) => s.setRgStat 6
  | (some srcs, s) =>
    let s := s.setRptr t new
    let s := srcs.foldl (fun s c => s.sendCredit t r.epoch (c.1 / 2 ^ 22) (c.1 / 2 ^ 11 % 2 ^ 11) (c.1 % 2 ^ 11) c.2) s
    s.autoClose t

/-- The bits of the descriptor a write may change in its ring's state, RPTR of an open PLAIN ring apart (R242). -/
def Ring.writable (r : Ring) : Nat :=
  if r.state = RingState.closed then
    (2 ^ 256 - 1) - (3 <<< 50) - (0xFFFF <<< 64) - (0xFFFFFFFF <<< 96) - (0xFF <<< 224)
  else 0

/-- Replace `n` bytes at byte offset `o` of a number by `v`, where `mask` has a bit set. -/
def mergeBits (old o n v mask : Nat) : Nat :=
  let span := ((2 ^ (8 * n) - 1) <<< (8 * o)) &&& mask
  (old - (old &&& span)) + ((v <<< (8 * o)) &&& span)

/-- A write of `n` bytes at offset `o` of ring `t`'s descriptor, field by field (R242). -/
def State.writeDescriptor (s : State) (t o n v : Nat) : State :=
  let r := s.ring t
  let old := s.rings.store.readLE (32 * t) 32
  let rptr := r.type = RingType.plain && r.state != RingState.closed && r.state != 3 && decide (o ≤ 16)
    && decide (20 ≤ o + n)
  let full := mergeBits old o n v (2 ^ 256 - 1)
  let now := mergeBits old o n v r.writable
  let ignored := if rptr then full - (full &&& (0xFFFFFFFF <<< 128)) != now - (now &&& (0xFFFFFFFF <<< 128))
    else full != now
  let s := { s with rings := { s.rings with store := s.rings.store.writeLE (32 * t) 32 now } }
  let s := if ignored then s.setRgStat 6 else s
  if rptr then s.writeRptr t (fld 159 128 full) else s

/-- The bits of a credit entry a store may change: STALE and PARKED are the hardware's (R252). -/
def creditWritable : Nat :=
  0xFFF + (0x7FF <<< 16) + (0x1FFF <<< 32) + (0xFFFFFFFF <<< 48) + (0x1D <<< 80) + (0xFF <<< 88)

/-- A write of `n` bytes at offset `o` of credit entry `e`: it takes effect at once, a write to EPOCH clears STALE,
and the sends parked on the entry are judged again (R252). -/
def State.writeCredit (s : State) (e o n v : Nat) : State :=
  let old := s.rings.credit.readLE (16 * e) 16
  let epoch := decide (o < 8) && decide (6 < o + n)
  let now := mergeBits old o n v creditWritable
  let now := if epoch then now - (now &&& (1 <<< 81)) else now
  { s with rings := { s.rings with credit := s.rings.credit.writeLE (16 * e) 16 now } }.releaseParked

/-- `n` bytes at offset `o` of credit entry `e` as they read, PARKED among them (R252). -/
def State.readCredit (s : State) (e o n : Nat) : Nat :=
  let v := s.rings.credit.readLE (16 * e) 16 + (s.rings.parkedOn e <<< 96)
  (v >>> (8 * o)) % 2 ^ (8 * n)

/-! Inbound messages. -/

/-- The check of R247 that a DATA or GATHER message fails first: its place in the order, its code, and its RG_STAT bit. -/
def State.inboundCheck (s : State) (m : Message) : Option (Nat × Half × Nat) :=
  let t := Msg.tag m
  let r := s.ring t
  if r.state != RingState.opened then some (1, Code.ringClosed, 1)
  else if Msg.epoch m != r.epoch then some (2, Code.staleCredit, 2)
  else if Msg.domain m != r.domain || !s.may (0x10 + Msg.domain m) .ring true then some (3, Code.accessDenied, 3)
  else if r.type = RingType.plain then
    if Msg.kind m != Kind.data then some (4, Code.badParam, 5)
    else
      let q := r.wptr + ((s.rings.writes.filter fun w => w.tag == t).map (·.n)).foldl (· + ·) 0
      if (q + 2 ^ 32 - r.rptr) % 2 ^ 32 + granules (Msg.len m) > r.size then some (5, Code.creditOverrun, 4) else none
  else
    let w := if r.gmode = 0 then 4 else if r.gmode = 1 then 2 else 8
    if Msg.kind m != Kind.gather || !decide (Msg.slot m < r.nslot) || Msg.gmode m != r.gmode || Msg.sx m != r.sx
        || Msg.len m * 16 != r.elem * w then some (4, Code.badParam, 5)
    else none

/-- Discard a message: RG_DISC, the sticky bit, RG_DFIRST, and the report of an overrun (R247). -/
def State.discard (s : State) (t : Nat) (code : Half) (statBit : Nat) : State :=
  let s := ({ s with rings := { s.rings with disc := satAdd s.rings.disc 1 } }.setRgStat statBit).raise 9 0x80C 15
  let s := if s.rings.dValid then s
    else { s with rings := { s.rings with dValid := true, dCode := code, dTag := BitVec.ofNat 13 t } }
  if code = Code.creditOverrun then s.post Code.creditOverrun Source.router [t] else s

/-- Accept a DATA message: it is written at the ring's write position Q (R248). -/
def State.acceptData (s : State) (m : Message) (stamp : DWord) : State :=
  let t := Msg.tag m
  let q := (s.ring t).wptr + ((s.rings.writes.filter fun w => w.tag == t).map (·.n)).foldl (· + ·) 0
  { s with rings := { s.rings with
      rx := s.rings.rx + 1#64
      writes := s.rings.writes ++ [{ tag := t, pos := BitVec.ofNat 32 q, n := granules (Msg.len m), msg := m,
                                     stamp := stamp }] } }

/-- Cut bytes into numbers of `w` bytes each. -/
def words (w : Nat) : Nat → List Byte → List Nat
  | 0, _ => []
  | k + 1, bs => ofLE (bs.take w) :: words w k (bs.drop w)

/-- A signed 64-bit sum and whether it left the range (R260). -/
def sat64 (x : Int) : Int × Bool :=
  if x > 2 ^ 63 - 1 then (2 ^ 63 - 1, true) else if x < -(2 ^ 63) then (-(2 ^ 63), true) else (x, false)

/-- 64 bits of a signed number. -/
def bits64 (x : Int) : Nat := (BitVec.ofInt 64 x).toNat

/-- The data area of a slot after a message's elements are added, and whether a sum saturated (R260). -/
def gatherAdd (r : Ring) (area : List Byte) (m : Message) : List Byte × Bool :=
  if r.gmode = 2 then
    let sums := (words 8 r.elem area).zipWith (fun a b => sat64 (sext 64 a + sext 64 b)) (words 8 r.elem m.payload)
    (sums.flatMap fun x => leBytes 8 (bits64 x.1), sums.any (·.2))
  else
    let w := if r.gmode = 0 then 4 else 2
    let adds := (words w r.elem m.payload).map fun x => if r.gmode = 0 then x else x * 2 ^ 16
    (((words 4 r.elem area).zipWith Fmt.fp32.fadd adds).flatMap (leBytes 4), false)

/-- The data area of a slot that becomes DONE, whether NAN is set, and the largest bit index of its sums
(R261, R263). -/
def gatherDone (r : Ring) (area : List Byte) (nonfin : Bool) : List Byte × Nat :=
  let high := if r.gmode = 2 then
      ((words 8 r.elem area).map fun x => (sext 64 x).natAbs.log2).foldl max 0 else 0
  let size := r.slotBytes - 64
  let values := if nonfin then List.replicate r.elem 0x7FC00000
    else if r.gmode = 2 then (words 8 r.elem area).map fun x =>
      Fmt.fp32.encode (Fmt.fp32.rnd (Val.scale (sext 8 r.sx) (Val.ofInt (sext 64 x))))
    else words 4 r.elem area
  (padTo size (values.flatMap (leBytes 4)), high)

/-- A slot that reached EXPECT is finalised and advances WPTR; an UPDATE ring's slot also passes to Marver
(R241, R261, R263). -/
def State.slotDone (s : State) (t slot : Nat) : State :=
  let r := s.ring t
  let a := r.slotAddr slot
  let (head, s) := s.lreadOn Source.router a 8
  let flags := leAt head 7 1
  let (old, s) := s.lreadOn Source.router (a + 64) (r.slotBytes - 64)
  let (area, high) := gatherDone r old (bit 1 flags)
  let s := s.lwrite a (head.take 6 ++ [2#8] ++ leBytes 1 (flags ||| flag 2 (bit 1 flags)) ++ List.replicate 56 0#8 ++ area)
  let s := if r.gmode = 2 && high > r.high then s.setRing t 28 1 high else s
  let s := if bit 0 flags then s.setRgStat 8 else s
  let s := if bit 1 flags then s.setRgStat 9 else s
  let s := s.setWptr t ((r.wptr + 1) % 2 ^ 32)
  if r.type = RingType.update then
    { s with marver := { s.marver with slots := s.marver.slots ++ [(t, slot)] } }
  else s

/-- An excess contribution to a slot with these FLAGS (R259). -/
def State.excess (s : State) (a flags : Nat) : State :=
  let s := s.lwrite (a + 7) (leBytes 1 (flags ||| 8))
  { s with rings := { s.rings with disc := satAdd s.rings.disc 1 } }.setRgStat 7

/-- A GATHER message that passed the checks meets its slot (R259-R261). -/
def State.acceptGather (s : State) (m : Message) (stamp : DWord) : State :=
  let t := Msg.tag m
  let r := s.ring t
  let slot := Msg.slot m
  let a := r.slotAddr slot
  let (head, s) := s.lreadOn Source.router a 8
  let st := leAt head 6 1
  let same := leAt head 4 2 == Msg.cid m
  let count := leAt head 0 4
  if st = 2 then (if same then s.excess a (leAt head 7 1) else s.discard t Code.badParam 5)
  else if st = 1 && !same then s.discard t Code.badParam 5
  else if count + Msg.ncont m > r.expect then
    s.excess a (leAt head 7 1)
  else
    let (old, s) := s.lreadOn Source.router (a + 64) (r.slotBytes - 64)
    let (area, full) := gatherAdd r old m
    let flags := leAt head 7 1 ||| flag 0 (full || Msg.ovf m) ||| flag 1 (Msg.nf m)
    let s := s.lwrite a (leBytes 4 (count + Msg.ncont m) ++ leBytes 2 (Msg.cid m) ++ [1#8] ++ leBytes 1 flags)
    let s := s.lwrite (a + 64) area
    let s := { s with rings := { s.rings with rx := s.rings.rx + 1#64 } }
    let s := if count + Msg.ncont m = r.expect then s.slotDone t slot else s
    s.countWindow (Msg.lane m) t (Msg.ncont m) stamp

/-- Deliver a DATA or GATHER message through the checks of R247. -/
def State.deliver (s : State) (m : Message) (stamp : DWord) : State :=
  match s.inboundCheck m with
  | some (_, code, b) => s.discard (Msg.tag m) code b
  | none => if Msg.kind m = Kind.data then s.acceptData m stamp else s.acceptGather m stamp

/-- A command packet arrives on ring 1, held in the Gaffer's private memory: it is checked for its domain (R247 check 3), and 8
packets fit (R432). The ring has no descriptor in the ring store, so checks 1 and 2 have nothing to compare (log 23). -/
def State.deliverRing1 (s : State) (m : Message) : State :=
  let waiting := (s.gaffer.inq.filter fun p => match p.input with
    | .ring1 _ _ _ => true
    | _ => false).length
  if Msg.domain m != s.gaffer.domain.toNat || !s.may (0x10 + Msg.domain m) .ring true then s.discard 1 Code.accessDenied 3
  else if waiting ≥ 8 then s.discard 1 Code.creditOverrun 4
  else { s with gaffer := { s.gaffer with inq := s.gaffer.inq ++ [{
      input := .ring1 (BitVec.ofNat 6 (Msg.domain m)) (BitVec.ofNat 12 (Msg.schip m)) (BitVec.ofNat 11 (Msg.slcid m))
      bytes := padTo (16 * Msg.len m) m.payload }] } }

/-- The first message of a kind at the local output, and the inbox without it. -/
def Router.pick (r : Router) (p : Message → Bool) : Option (Inbound × List Inbound) :=
  (r.inbox.find? fun i => p i.msg).map fun i => (i, r.inbox.erase i)

/-- Keep the inbox as `l`. -/
def State.setInbox (s : State) (l : List Inbound) : State := { s with router := { s.router with inbox := l } }

/-- Mark the first entry equal to `i` as journalled: the freeze holds it where it is (R400). -/
def markJournalled (i : Inbound) (l : List Inbound) : List Inbound :=
  match l with
  | [] => []
  | x :: t => if x = i then { i with journalled := true } :: t else x :: markJournalled i t

/-- The CREDIT acts on its entry: VALID, not STALE, of the same epoch (R257). -/
def State.creditApplies (s : State) (m : Message) : Bool :=
  let c := s.entryOf (Msg.creditSent m)
  c.valid && !c.stale && c.epoch == Msg.epoch m

/-- The record of an inbound message: a DATA or GATHER message whole, a CREDIT that acts, a REVOKE, a RELEASE (R406). -/
def State.jinbound (s : State) (i : Inbound) : State :=
  let kind := Msg.kind i.msg
  if i.journalled then s
  else if kind = Kind.credit then (if s.creditApplies i.msg then s.jmessage JKind.credit i.msg i.stamp i.port else s)
  else if kind = Kind.revoke then s.jmessage JKind.revoke i.msg i.stamp i.port
  else if kind = Kind.sync then s.jmessage JKind.release i.msg i.stamp i.port
  else s.jmessage JKind.msg i.msg i.stamp i.port

/-- The message of a kind that the local output handles next, and the inbox without it: the oldest one, which in a freeze is
the oldest that is to be delivered or is not yet journalled (R399, R400). A message that the journal has no room for waits
(R409). -/
def State.nextInbound (s : State) (kind : Nat) : Option (Inbound × List Inbound) :=
  match s.router.inbox.find? fun i => Msg.kind i.msg == kind && (!s.journal.freeze || i.marked || !i.journalled) with
  | some i => if i.journalled || s.jroom i.msg then some (i, s.router.inbox.erase i) else none
  | none => none

/-- The freeze holds a message once it is journalled, but for one journalled before the MARK (R399, R400). -/
def State.held (s : State) (i : Inbound) : Bool := s.journal.freeze && !i.marked

/-- A DATA or GATHER message at the local output is journalled, then delivered, held or only journalled
(R246, R400, R421). -/
def State.inbound (s : State) (kind : Nat) : State :=
  if s.journal.rstate == .tail then s
  else match s.nextInbound kind with
    | none => s
    | some (i, rest) =>
        let s := s.jinbound i
        if !s.inRun then s.setInbox rest
        else if s.held i then s.setInbox (markJournalled i s.router.inbox)
        else
          let s := s.setInbox rest
          if Msg.tag i.msg = 1 && kind = Kind.data then s.deliverRing1 i.msg else s.deliver i.msg i.stamp

/-- INBOUND_DATA_MESSAGE (R246-R249, R432). -/
def execInboundDataMessage (s : State) : Answer :=
  if !s.pins.alive then .next s else .next (s.inbound Kind.data)

/-- INBOUND_GATHER_MESSAGE (R246, R247, R259-R261). -/
def execInboundGatherMessage (s : State) : Answer :=
  if !s.pins.alive then .next s else .next (s.inbound Kind.gather)

/-- WPTR_ADVANCE: the oldest accepted message has been written, and its ring's WPTR advances (R248, R249). -/
def execWptrAdvance (s : State) : Answer :=
  if !s.pins.alive then .next s else
  match s.rings.writes with
  | [] => .next s
  | w :: rest =>
    .next (({ s with rings := { s.rings with writes := rest } }.writeMessage w).advance w)

/-- Add a CREDIT's granules, saturating, and let parked sends go (R255, R257). -/
def State.applyCredit (s : State) (m : Message) : State :=
  if s.creditApplies m then
    let e := Msg.creditSent m
    (s.setCredit e 8 2 (min 65535 ((s.entryOf e).credit + Msg.gran m))).releaseParked
  else s

/-- CREDIT_RECEIVE: recorded when it applies (R257, R406), held during the freeze and in state TAIL (R400, R421). -/
def execCreditReceive (s : State) : Answer :=
  if !s.pins.alive then .next s else
  if s.journal.rstate == .tail then .next s
  else match s.nextInbound Kind.credit with
    | none => .next s
    | some (i, rest) =>
      let s := s.jinbound i
      if s.held i then .next (s.setInbox (markJournalled i s.router.inbox))
      else .next ((s.setInbox rest).applyCredit i.msg)

/-- A REVOKE marks the matching entries: credit 0, STALE; sends parked on them complete unsent (R267). -/
def State.applyRevoke (s : State) (m : Message) : State :=
  let hit := fun (s : State) (e : Nat) =>
    let c := s.entryOf e
    c.valid && c.dchip == Msg.rchip m && c.dlcid == Msg.rlcid m && c.dtag == Msg.rtag m && c.epoch != Msg.epoch m
  let s := (List.range 2048).foldl (fun s e =>
    if hit s e then (s.setCredit e 8 2 0).setCredit e 10 1 (s.creditFld e 10 1 ||| 2) else s) s
  s.releaseParked

/-- REVOKE_RECEIVE: recorded and applied (R267, R406); a live one is ignored in REPLAY and TAIL (R420), and held during
the freeze (R400). -/
def execRevokeReceive (s : State) : Answer :=
  if !s.pins.alive then .next s else
  match s.nextInbound Kind.revoke with
  | none => .next s
  | some (i, rest) =>
    if s.journal.replaying then .next (s.setInbox rest)
    else
      let s := s.jinbound i
      if s.held i then .next (s.setInbox (markJournalled i s.router.inbox))
      else .next ((s.setInbox rest).applyRevoke i.msg)

end Sys2Proof.Machine
end

