-- ==== Sys2Proof/Machine/Tasks.lean ====
section
/-! DEFINITION. Tasks and queues as every family sees them: halting a task, the end of a program, clearing and restarting
a queue (R28, R31, R61, R63, R66). -/

namespace Sys2Proof.Machine

def State.task (s : State) (t : Nat) : Task := Vec.at s.core.tasks t

def State.onTask (s : State) (t : Nat) (f : Task → Task) : State :=
  { s with core := { s.core with tasks := Vec.upd s.core.tasks t f } }

/-- A task starts (R51): a store buffer that the number's former program left keeps draining (log 99). -/
def Task.spawned (old : Task) (pc : Nat) (arg : DWord) : Task :=
  { Task.fresh with
    state := .ready, pc := pc, stores := old.stores
    regs := Vec.upd Task.fresh.regs 1 fun _ => arg }

/-- The SPAWN that task `t` waits for is performed: a FREE task starts, any other does not (R51). -/
def State.performSpawn (s : State) (t : Nat) : State :=
  match (s.task t).cause with
  | .spawn u pc arg rd n =>
    if (s.task u).state == .free then
      (s.onTask u fun old => old.spawned pc arg).onTask t fun k => { k with cause := .spawned 0#64 rd n }
    else s.onTask t fun k => { k with cause := .spawned 1#64 rd n }
  | _ => s

/-- Every SPAWN that waits to be performed is performed, in the N-cycle after its word (R51). -/
def State.performSpawns (s : State) : State := (List.range 32).foldl State.performSpawn s

/-- A task that nothing holds any more is READY (R28). -/
def Task.wake (k : Task) : Task :=
  if k.state == .waiting && k.cause == .none && k.memWait == .none then { k with state := .ready } else k

/-- The spawner goes on with its result: from the second N-cycle after its word on, or at the next word that issues where no
N-cycle has passed since (R51, log 16). -/
def Task.spawnEnds (k : Task) (nc : Nat) : Task :=
  match k.cause with
  | .spawned v rd n =>
    if nc = n + 1 then k
    else Task.wake { k with cause := .none, results := k.results ++ [⟨k.cycle, .reg rd, v⟩] }
  | _ => k

/-- Every spawner whose SPAWN has been performed and whose N-cycle of waiting is over goes on. -/
def State.wakeSpawners (s : State) : State :=
  { s with core := { s.core with tasks := s.core.tasks.map fun k => k.spawnEnds s.nc } }

/-- PROGRAM_COMPLETION: when every task is FREE or HALTED the program ends, and completion is reported with the count of
HALTED tasks (R31, R446). -/
def State.endCheck (s : State) : State :=
  if s.core.running && s.core.tasks.toList.all fun t => t.state == .free || t.state == .halted then
    let n := (s.core.tasks.toList.filter fun t => t.state == .halted).length
    { s with core := { s.core with running := false } }.post Code.ok Source.core [n]
  else s

/-- TASK_HALT: a task halts on a fault; the first fault is recorded and every halt is reported (R37, R63). The report of
an uncorrectable word carries the DETAIL of its kiln record (R446). -/
def State.haltTask (s : State) (t : Nat) (code : Half) (slot pc : Nat) (detail : List Nat) : State :=
  let s := s.onTask t fun x => { x with state := .halted, cause := .none, memWait := .none }
  let c := s.core
  let s := if c.faultValid then s else { s with core := { c with
    faultValid := true
    faultCode := code
    faultSlot := BitVec.ofNat 2 slot
    faultTask := BitVec.ofNat 5 t
    faultPc := BitVec.ofNat 16 pc } }
  ((s.raise 1 0x008 15).post code Source.core detail).endCheck

/-- A faulting command counts as completed. -/
def finishFaulted (o : Word × CmdProgress) : Word × CmdProgress := if o.2 == .faulted then (o.1, .done) else o

/-- CLEAR of a queue: the commands not taken are discarded and counted as completed, as is a faulting command
(R61, R66). Where a command in execution stands before them, the count passes them when that one completes (log 106).
A held XSEND goes with them. -/
def EngineQueue.clear (x : EngineQueue) : EngineQueue :=
  let settled := x.outstanding.map finishFaulted
  let cut := x.entries.map fun (c : QueueCmd) => (c.seq, CmdProgress.done)
  EngineQueue.settle { x with entries := [], stopped := false, fcode := 0#16, outstanding := settled ++ cut }

def State.clearQueue (s : State) (q : Nat) : State :=
  let s := s.onQueue q EngineQueue.clear
  if q = 7 then { s with sched := { s.sched with held := none } } else s

/-- RESTART of a stopped queue: execution goes on after the faulting command, which counts as completed (R61). -/
def EngineQueue.restart (x : EngineQueue) : EngineQueue :=
  if x.stopped then
    EngineQueue.settle { x with stopped := false, fcode := 0#16, outstanding := x.outstanding.map finishFaulted }
  else x

def State.restartQueue (s : State) (q : Nat) : State := s.onQueue q EngineQueue.restart

end Sys2Proof.Machine
end

