-- ==== Sys2Proof/Machine/Replies.lean ====
section
/-! DEFINITION. Registers that replies carry, replies and events as packets, the output of the management port
and the mismatch of a replay (R18, R64, R424, R430, R434-R436, R439, R446, R447, R457, R464). -/

namespace Sys2Proof.Machine

/-! Registers of the identity and mode block. -/

def kfeat0 : Nat := 0x20209C10
def kfeat1 : Nat := 0x0040FFFC
def kfeat2 : Nat := 0x20000C00
/-- KFEAT3 with the running firmware's version (R64). -/
def State.kfeat3 (s : State) : Nat :=
  let v := s.gaffer.fw.toNat
  fld 15 12 v * 2 ^ 28 + fld 11 8 v * 2 ^ 24 + fld 7 0 v * 2 ^ 16 + 0x802B

/-- KCR_TIER (R18). -/
def State.kcrTier (s : State) : Nat := s.tier.cause.toNat * 256 + s.tier.state.code.toNat

/-- KCR_MODE (R383). -/
def State.kcrMode (s : State) : Nat := flag 1 s.tier.detNext + flag 0 s.tier.det

/-- A mould is being stored. -/
def Gaffer.mouldStoring (g : Gaffer) : Bool :=
  match g.mouldAct with
  | some (.store _ _ _) => true
  | _ => false

/-- An MRAM store is running (R455). -/
def Gaffer.storing (g : Gaffer) : Bool := g.kilnBusy || g.mouldStoring

/-- KCR_BOOT (R457). -/
def State.kcrBoot (s : State) : Nat :=
  flag 9 s.gaffer.storing + flag 8 s.gaffer.fail + s.gaffer.step.toNat

/-- KCR_MOULD (R457). -/
def State.kcrMould (s : State) : Nat :=
  let g := s.gaffer
  flag 13 g.evten + flag 12 g.torn + flag 8 g.ovr + g.sel.toNat * 16 + g.pins.toNat

/-- JN_RSTAT.STATE codes (R430). -/
def ReplayState.code : ReplayState → Nat
  | .none => 0
  | .restored => 1
  | .replay => 2
  | .tail => 3
  | .failed => 4

/-- JN_RSTAT (R430). -/
def State.jnRstat (s : State) : Nat :=
  let j := s.journal
  flag 31 j.fvalid + j.flcid.toNat * 2 ^ 17 + j.cause.toNat * 256 + j.rstate.code

/-! Packets. -/

/-- The 32-bit words of a reply as bytes. -/
def wordBytes (ws : List Nat) : List Byte := ws.flatMap (leBytes 4)

/-- A CP2 packet (R434). -/
def cp2 (opc tag src flags status : Nat) (ws : List Nat) : List Byte :=
  let head := leBytes 1 2 ++ leBytes 1 opc ++ leBytes 2 tag ++ leBytes 1 src ++ leBytes 1 flags
    ++ leBytes 2 ws.length ++ leBytes 2 status ++ leBytes 2 0
  head ++ leBytes 4 (crc32c (head ++ wordBytes ws)).toNat ++ wordBytes ws

/-- A CP1 reply (R435). -/
def cp1Reply (opc tag src status : Nat) (ws : List Nat) : List Byte :=
  let head := leBytes 1 1 ++ leBytes 1 opc ++ leBytes 1 tag ++ leBytes 1 src ++ leBytes 2 status
    ++ leBytes 1 ws.length ++ leBytes 1 0
  head ++ leBytes 4 (crc32c (head ++ wordBytes ws)).toNat ++ wordBytes ws

/-- The packet of a reply (R434, R435): the opcode with bit 7 set, and FINAL for a second reply. -/
def ReplyTo.packet (r : ReplyTo) (status : Half) (final : Bool) (ws : List Nat) : List Byte :=
  let opc := r.opc.toNat % 128 + 128
  if r.cp1 then cp1Reply opc r.tag.toNat r.src.toNat status.toNat ws
  else cp2 opc r.tag.toNat r.src.toNat (flag 1 final) status.toNat ws

/-- Send a reply on the input its command came from (R436). A reply on the mailbox sets DONE, and ends BUSY unless a
FINAL reply is still to come (R457, R458); one on ring 1 goes to tag 1 of the sender (R432; its lane and epoch, log 36). -/
def State.reply (s : State) (r : ReplyTo) (status : Half) (final : Bool) (ws : List Nat) : State :=
  let bytes := r.packet status final ws
  match r.input with
  | .port => { s with gaffer := { s.gaffer with outq := s.gaffer.outq ++ [.reply bytes false] } }
  | .mailbox _ =>
    { s with gaffer := { s.gaffer with
        mbRep := s.gaffer.mbRep.writeBytes 0 bytes
        mbDone := true
        mbBusy := s.gaffer.mbBusy && status == Code.pending && !final } }.raise 14 0 1
  | .ring1 _ chip lcid =>
    let len := (bytes.length + 15) / 16
    s.transmit {
      w0 := headWord Lane.bulk Kind.data 0 s.gaffer.domain.toNat 1 lcid.toNat chip.toNat
      w1 := BitVec.ofNat 64 (len * 2 ^ 40 + s.ownLcid * 2 ^ 12 + s.router.chip.toNat)
      payload := padTo (16 * len) bytes } false

/-- The FINAL reply of an action (R439). -/
def State.final (s : State) (r : ReplyTo) (status : Half) (ws : List Nat) : State := s.reply r status true ws

/-- A REPLAY that is under way ends with its FINAL reply (R439, R443). -/
def State.endReplay (s : State) (status : Half) : State :=
  match s.gaffer.action with
  | some (.replayRun r _) => { s with gaffer := { s.gaffer with action := none } }.final r status [s.jnRstat]
  | _ => s

/-- REPLAY_MISMATCH: every task halts, every queue stops, STATE becomes FAILED, and the event and its kiln record carry
the CAUSE and the record's JSEQ (R424, R428). -/
def State.replayMismatch (s : State) (cause : Nat) (jseq : Word) : State :=
  let s := { s with
    core := { s.core with
      tasks := s.core.tasks.map fun (t : Task) =>
        if t.state == TaskState.free then t else { t with state := TaskState.halted, cause := .none, memWait := .none }
      queues := s.core.queues.map fun (q : EngineQueue) =>
        { q with stopped := true, fcode := if q.stopped then q.fcode else Code.replayMismatch } }
    journal := { s.journal with rstate := .failed, cause := BitVec.ofNat 8 cause } }
  let s := ((s.setJnStat 5).postKiln Code.replayMismatch Source.journal [cause, jseq.toNat]).endCheck
  s.endReplay Code.replayMismatch

/-- The words of an event's packet (R446), with LOST as it stands when the event is sent. -/
def Event.words (e : Event) (lost : Nat) : List Nat :=
  [e.source.toNat + e.tier.toNat * 256 + lost * 65536, (loWord e.lc).toNat, (hiWord e.lc).toNat, e.pos.toNat]
    ++ ((e.detail.map BitVec.toNat ++ List.replicate 8 0).take 8)

/-- An event as a packet (R446). -/
def Event.packet (e : Event) (lost : Nat) : List Byte := cp2 0x80 0 1 1 e.code.toNat (e.words lost)

/-- OUTBOUND_PACKET: the oldest reply or event crosses the management port whole; an event carries LOST, which then counts
anew; the reply of a RESET_CLUSTER sets off the reset (R443, R447, R464). -/
def execOutboundPacket (s : State) : Answer :=
  let g := s.gaffer
  if !s.pins.alive then .next s
  else match g.outq with
    | [] => .next s
    | .event e :: rest =>
      .next { s with gaffer := { g with outq := rest, lost := 0#16, sent := e.packet g.lost.toNat } }
    | .reply bytes reset :: rest =>
      .next { s with gaffer := { g with outq := rest, sent := bytes, resetGo := g.resetGo || reset } }

/-- EVT[0] and EVT[1] (R447): low while EVTEN is clear, when the pins are inputs. -/
def State.evt (s : State) : Bool × Bool :=
  if s.gaffer.evten then (decide (s.gaffer.eventCount > 0), s.gaffer.step == 0xA#4 && !s.inRun) else (false, false)

end Sys2Proof.Machine
end

