-- ==== Sys2Proof/Machine/Streams.lean ====
section
/-! DEFINITION. The stream engine: contexts, blocks, transfers, translation, halts and its commands (R207-R237). -/

namespace Sys2Proof.Machine

/-! Addresses (R207, R208). -/

/-- A system address. -/
def isSys (a : Nat) : Bool := a / 2 ^ 57 == 8

/-- A local address. -/
def isLoc (a : Nat) : Bool := decide (a < Config.localSize)

/-- A stream endpoint (R207). -/
def isEndpoint (a : Nat) : Bool := isSys a || isLoc a

/-- System address bits [56:0] of an endpoint. -/
def sysBits (a : Nat) : Nat := a % 2 ^ 57

/-- `n` bytes from an endpoint lie in its space: local memory, or one chip's byte address space (R213). -/
def inSpace (a n : Nat) : Bool :=
  if isSys a then decide (a % 2 ^ 45 + n ≤ 2 ^ 45) else isLoc a && inLocal a n

/-- The region that governs a far access: JOURNAL for the journal region, the snapshot area and the trace region (R449). -/
def State.farRegion (s : State) (addr : Nat) : Region :=
  let j := s.journal
  let within := fun (b n : Nat) => decide (b ≤ addr) && decide (addr < b + n)
  if within j.base.toNat j.region || (j.snapBase != 0#64 && within j.snapBase.toNat 0x500000)
      || within j.tbase.toNat (65536 * j.tsize.toNat) then .journal
  else .far

/-- Master `m` may make a far access of `n` bytes: every transfer of it, which crosses no 256-byte boundary, is judged by the
region that it falls in (R449, R463). -/
def State.farMay (s : State) (m p n : Nat) (write : Bool) : Bool :=
  (List.range ((p + n - 1) / 256 + 1 - p / 256)).all fun k =>
    s.may m (s.farRegion (if k = 0 then p else 256 * (p / 256 + k))) write

/-- The master a stream acts as: 0x50 for a firmware context, 0x52 for a program context (R215). -/
def streamMaster (id : Nat) : Nat := if id < 64 then 0x50 else 0x52

/-! Contexts. -/

def State.ctx (s : State) (id : Nat) : StreamCtx := Tbl.get StreamCtx.idle s.se.ctxs id

def State.onCtx (s : State) (id : Nat) (f : StreamCtx → StreamCtx) : State :=
  { s with se := { s.se with ctxs := Tbl.set StreamCtx.idle s.se.ctxs id (f (s.ctx id)) } }

/-- Outstanding transfers of a context (R216). -/
def StreamEngine.outOf (e : StreamEngine) (id : Nat) : List Xfer := e.xfers.filter fun x => x.ctx == id

/-- The 64 bytes of a context as the window shows them (R209). The transfers of the firmware stream that copies a snapshot are
counted apart (R399). -/
def State.ctxBytes (s : State) (id : Nat) : List Byte :=
  let c := s.ctx id
  let st := match c.state with
    | .idle => 0
    | .running => 1
    | .done => 2
    | .pageHalt => 3
    | .fault => 4
    | .paused => 5
  leBytes 8 c.list.toNat ++ leBytes 8 c.sbase.toNat ++ leBytes 8 c.dbase.toNat ++ leBytes 4 c.delivered.toNat
    ++ leBytes 2 c.nblk ++ leBytes 2 c.cur ++ leBytes 4 c.offset ++ leBytes 1 st ++ leBytes 1 c.limit
    ++ leBytes 1 (flag 0 c.pers + flag 1 c.fw) ++ leBytes 1 0 ++ leBytes 2 c.fcode.toNat ++ leBytes 2 0
    ++ leBytes 1 (if c.fw then s.journal.snapOut else (s.se.outOf id).length) ++ leBytes 3 0 ++ leBytes 8 c.faddr.toNat ++ leBytes 8 0

/-! Translation (R221-R224). -/

/-- A TLB entry covers a far address. -/
def TlbEntry.covers (e : TlbEntry) (a : Nat) : Bool :=
  if e.big then a / 2 ^ 21 == e.page / 2 ^ 21 else a / 2 ^ 16 == e.page / 2 ^ 16

/-- The system address a TLB entry gives. -/
def TlbEntry.apply (e : TlbEntry) (a : Nat) : Nat := e.addr + (if e.big then a % 2 ^ 21 else a % 2 ^ 16)

/-- What the translation of a system address answers. -/
inductive Xlat where
  /-- the system address, and the bytes of the translated page that the access lies in (0: not translated) -/
  | at_ (addr page : Nat)
  | miss
  | readOnly
  deriving DecidableEq, Repr, Inhabited

/-- Translate bits [56:0] for a context (R208, R224). -/
def State.translate (s : State) (id addr : Nat) (write : Bool) : Xlat :=
  if id < 64 || !s.se.xlatEn then .at_ addr 0
  else match s.se.tlb.find? fun e => e.covers addr with
    | none => .miss
    | some e => if write && !e.writable then .readOnly else .at_ (e.apply addr) (if e.big then 2 ^ 21 else 2 ^ 16)

/-- Ask for a walk, once for a context (R224). -/
def State.askWalk (s : State) (id addr : Nat) (write : Bool) : State :=
  if s.se.walks.any fun w => w.ctx == id then s
  else
    let c := s.ctx id
    { s with se := { s.se with walks := s.se.walks ++ [{ ctx := id, addr := addr, write := write, blk := c.iblk,
                                                          off := c.ioff }] } }

/-- What a walk ends in. -/
inductive WalkEnd where
  | leaf (e : TlbEntry)
  | notValid
  /-- the entry at this address could not be read -/
  | failed (code : Half) (entry : Nat)
  deriving DecidableEq, Repr, Inhabited

/-- An entry is well formed at its level: V, no reserved bit, the LEAF rule, and an aligned ADDR (R222). -/
def pteValid (level e : Nat) : Bool :=
  let leaf := bit 62 e
  let addr := fld 56 8 e * 256
  bit 63 e && fld 60 57 e == 0 && fld 7 0 e == 0
    && (if level < 3 then !leaf else if level = 4 then leaf else true)
    && addr % (if leaf then (if level = 3 then 2 ^ 21 else 2 ^ 16) else if level < 3 then 4096 else 256) == 0

/-- Walk the tables from level `level`: every entry is read as master 0x52, by the right of the region it lies in (R221, R222,
R449). -/
def State.walkTable (s : State) (far : FarReply) (addr : Nat) : Nat → Nat → Nat → WalkEnd
  | 0, _, _ => .notValid
  | k + 1, level, table =>
    let idx := match level with
      | 0 => fld 56 48 addr
      | 1 => fld 47 39 addr
      | 2 => fld 38 30 addr
      | 3 => fld 29 21 addr
      | _ => fld 20 16 addr
    let entry := table + 8 * idx
    let e := ofLE (replyBytes far entry 8)
    if !s.farMay 0x52 entry 8 false then .failed Code.accessDenied entry
    else match farCode (farErrIn far entry 8) with
    | some code => .failed code entry
    | none =>
    if !pteValid level e then .notValid
    else if bit 62 e then
      .leaf { page := if level = 3 then addr / 2 ^ 21 * 2 ^ 21 else addr / 2 ^ 16 * 2 ^ 16, big := level == 3
              addr := fld 56 8 e * 256, writable := bit 61 e }
    else s.walkTable far addr k (level + 1) (fld 56 8 e * 256)

/-! Halts (R215, R225, R227). -/

/-- Note a halt at a position: the first failure gives the code and FADDR, a fault overrides a page halt, and the lowest
position counts (log 35). -/
def State.failCtx (s : State) (id : Nat) (h : HaltInfo) : State :=
  s.onCtx id fun c =>
    { c with halt := match c.halt with
        | none => some h
        | some o =>
          let lower := h.blk < o.blk || (h.blk == o.blk && h.off < o.off)
          let base := if o.page && !h.page then h else o
          some { base with blk := if lower then h.blk else o.blk, off := if lower then h.off else o.off } }

/-- Advance DELIVERED over the blocks that are complete, in order (R214). -/
def advanceBlocks (xs : List Xfer) : Nat → StreamCtx → StreamCtx
  | 0, c => c
  | k + 1, c =>
    let stop := match c.halt with
      | some h => min c.iblk h.blk
      | none => c.iblk
    if c.cur < stop && !xs.any fun x => x.blk == c.cur then
      advanceBlocks xs k { c with cur := c.cur + 1, offset := 0, delivered := c.delivered + 1#32 }
    else c

/-- Report a halted context: SE_FAULT and SE_FADDR for the first, the event for every one, the kiln record of an
uncorrectable error (R215, R225, R428). -/
def State.reportHalt (s : State) (id : Nat) (code : Half) (faddr : DWord) : State :=
  let e := s.se
  let s := if e.fValid then s
    else { s with se := { e with fValid := true, fCode := code, fCtx := BitVec.ofNat 12 id, fAddr := faddr } }
  let s := s.raise 7 0x004 15
  if code = Code.eccUncorrected then
    s.postKiln code Source.stream [Source.stream.toNat, (loWord faddr).toNat, (hiWord faddr).toNat]
  else s.post code Source.stream [id, (loWord faddr).toNat, (hiWord faddr).toNat]

/-- Settle a context whose transfers have all ended: it halts, pauses, or is delivered (R210, R225, R235). -/
def State.settleCtx (s : State) (id : Nat) : State :=
  let xs := s.se.outOf id
  let s := s.onCtx id fun c => advanceBlocks xs (c.iblk + 1) c
  let c := s.ctx id
  if !xs.isEmpty || c.state != .running then s
  else match c.halt with
    | some h =>
      let s := s.onCtx id fun c =>
        { c with state := if h.page then .pageHalt else .fault, fcode := h.code, faddr := h.faddr, cur := h.blk,
                 offset := h.off, iblk := h.blk, ioff := h.off, desc := none, halt := none }
      s.reportHalt id h.code h.faddr
    | none =>
      if c.iblk ≥ c.nblk then s.onCtx id fun c => { c with state := if c.pers then .done else .idle, desc := none }
      else if c.pauseAt = some c.iblk && c.ioff = 0 then
        s.onCtx id fun c => { c with state := .paused, cur := c.iblk, offset := 0, desc := none, pauseAt := none }
      else s

/-- Arm a context from its first block (R212). -/
def StreamCtx.arm (c : StreamCtx) : StreamCtx :=
  { c with cur := 0, offset := 0, state := .running, iblk := 0, ioff := 0, desc := none, halt := none, pauseAt := none }

/-- An SSTOP whose transfers have ended: IDLE, CUR and OFFSET at the lowest incomplete position (R212). -/
def State.stopCtx (s : State) (id : Nat) : State :=
  { s with se := { s.se with walks := s.se.walks.filter fun w => w.ctx != id } }.onCtx id fun c =>
    let (b, o) := match c.state with
      | .running => match c.halt with
        | some h => (h.blk, h.off)
        | none => (c.iblk, c.ioff)
      | _ => (c.cur, c.offset)
    { c with state := .idle, cur := b, offset := o, desc := none, halt := none, pauseAt := none }

/-- Judge a REARM or SSTOP that waits in the engine (R212). -/
def State.settleWait (s : State) : State :=
  match s.se.wait with
  | none => s
  | some (.rearm id sbase dbase seq) =>
    let c := s.ctx id
    if c.state == .done then
      let s := s.onCtx id fun c => { c.arm with sbase := sbase, dbase := dbase }
      ({ s with se := { s.se with wait := none } }).completeIf 5 seq
    else if c.state == .fault then
      ({ s with se := { s.se with wait := none } }).stopIf 5 Code.badCommand 0x61 (seq.getD 0#32) seq.isNone
    else s
  | some (.sstop id seq) =>
    if (s.se.outOf id).isEmpty then ({ s.stopCtx id with se := { (s.stopCtx id).se with wait := none } }).completeIf 5 seq
    else s

/-- Settle a context and whatever waits for it. -/
def State.settleStream (s : State) (id : Nat) : State := (s.settleCtx id).settleWait

/-! Reading descriptors, lists and slots. -/

/-- What a read the engine makes for itself answers. -/
inductive SeRead where
  | data (bs : List Byte)
  /-- the read failed, at this address -/
  | bad (code : Half) (at_ : Nat)
  | miss
  deriving DecidableEq, Repr, Inhabited

/-- Read `n` bytes at an endpoint for a context; an address that names nothing cannot be read (R207, R208, R213, R215, R477,
R479). -/
def State.seRead (s : State) (id : Nat) (far : FarReply) (a n : Nat) : SeRead × State :=
  let m := streamMaster id
  if isLoc a then
    if !s.may m .loc false || !inLocal a n then (.bad Code.accessDenied a, s)
    else
      let (bs, bad, s) := s.lread a n
      match bad with
      | some w => (.bad Code.eccUncorrected (max a w), s.eccAddr w)
      | none => (.data bs, s)
  else if !isSys a then (.bad Code.accessDenied a, s)
  else match s.translate id (sysBits a) false with
    | .miss => (.miss, s.askWalk id (sysBits a) false)
    | .readOnly => (.bad Code.accessDenied a, s)
    | .at_ p _ =>
      if !s.farMay m p n false then (.bad Code.accessDenied a, s)
      else match farCode (farErrIn far p n) with
        | none => (.data (replyBytes far p n), s)
        | some code => (.bad code a, s)

/-- Every row of a COPY ends where its endpoints' spaces allow (R213). -/
def rowsOk (src dst rowlen rows ss ds : Nat) (zero : Bool) : Bool :=
  (List.range rows).all fun r =>
    let a := (src + r * ss) % 2 ^ 64
    let b := (dst + r * ds) % 2 ^ 64
    isEndpoint b && inSpace b rowlen && (zero || (isEndpoint a && inSpace a rowlen))
      && !(isSys a && isSys b && !zero)

/-- Take apart a block descriptor and check it (R213, R229): none when it breaks a rule. The slots of a KVGATHER are
still to be read. -/
def parseBlock (c : StreamCtx) (bs : List Byte) : Option BlockDesc :=
  let rowlen := leAt bs 16 3
  let f := leAt bs 19 1
  let rows := leAt bs 20 2 + 1
  let tpp := leAt bs 22 2
  let ss := leAt bs 24 4
  let ds := leAt bs 28 4
  let zero := bit 2 f
  let kv := fld 5 4 f == 1
  let src := (leAt bs 0 8 + (if bit 0 f then c.sbase.toNat else 0)) % 2 ^ 64
  let dst := (leAt bs 8 8 + (if bit 1 f then c.dbase.toNat else 0)) % 2 ^ 64
  let common := decide (16 ≤ rowlen) && rowlen % 16 == 0 && !bit 3 f && fld 7 6 f == 0 && decide (fld 5 4 f ≤ 1)
    && ss % 16 == 0 && ds % 16 == 0 && dst % 16 == 0 && isEndpoint dst
  let own :=
    if kv then !zero && isLoc src && src % 16 == 0 && decide (rows ≤ 512) && inLocal src (2 * rows)
      && decide (1 ≤ tpp) && decide (tpp ≤ 4096)
    else tpp == 0 && (rows != 1 || (ss == 0 && ds == 0))
      && (if zero then leAt bs 0 8 == 0 else src % 16 == 0) && rowsOk src dst rowlen rows ss ds zero
  if common && own then
    some { src := BitVec.ofNat 64 src, dst := BitVec.ofNat 64 dst, rowlen := rowlen, zero := zero, kv := kv, rows := rows
           tpp := tpp, sstride := ss, dstride := ds, slots := [], bad := none }
  else none

/-- Read the slots that a KVGATHER block names, up to the first failing one; `off` is where the next slot begins (R231). -/
def State.readSlots (s : State) (d : BlockDesc) : List (Nat × Nat) → Nat → List KvSlot × Option (Nat × DWord × Half)
  | [], _ => ([], none)
  | (i, n) :: rest, off =>
    let sys := fun (o : Nat) => BitVec.ofNat 64 (0x3800000 + 32 * n + o)
    if n ≥ 512 then ([], some (off, d.src + BitVec.ofNat 64 (2 * i), Code.badCommand))
    else
      let w := s.se.seqTable.readBytes (32 * n) 32
      let flags := leAt w 14 1
      let len := leAt w 8 4
      let npg := leAt w 12 2
      if !bit 0 flags then s.readSlots d rest off
      else if flags / 2 ≠ 0 || !allZero (w.drop 15) || npg = 0 || len > npg * d.tpp || !isEndpoint (leAt w 0 8)
          || !inSpace ((d.dst.toNat + i * d.dstride) % 2 ^ 64) (len * d.rowlen) then
        ([], some (off, sys 0, Code.badCommand))
      else
        let (ks, bad) := s.readSlots d rest (off + len * d.rowlen)
        ({ i := i, plist := BitVec.ofNat 64 (leAt w 0 8), len := len, npg := npg } :: ks, bad)

/-- The begin of a block: its descriptor, and a KVGATHER's slots (R213, R229, R231). A slot list that cannot be read names
its first entry that fails (R227). -/
def State.beginBlock (s : State) (id : Nat) (far : FarReply) : SeRead × State :=
  let c := s.ctx id
  let a := (c.list.toNat + 32 * c.iblk) % 2 ^ 64
  let fail := fun (s : State) (code : Half) (faddr : DWord) =>
    s.failCtx id { page := false, code := code, faddr := faddr, blk := c.iblk, off := 0 }
  match s.seRead id far a 32 with
  | (.miss, s) => (.miss, s)
  | (.bad code x, s) => (.bad code x, fail s code (BitVec.ofNat 64 a))
  | (.data bs, s) =>
    match parseBlock c bs with
    | none => (.bad Code.badCommand a, fail s Code.badCommand (BitVec.ofNat 64 a))
    | some d =>
      if !d.kv then (.data bs, s.onCtx id fun c => { c with desc := some d })
      else match s.seRead id far d.src.toNat (2 * d.rows) with
        | (.miss, s) => (.miss, s)
        | (.bad code x, s) => (.bad code x, fail s code (BitVec.ofNat 64 x))
        | (.data list, s) =>
          let nums := (List.range d.rows).map fun i => (i, leAt list (2 * i) 2)
          let (ks, bad) := s.readSlots d nums 0
          (.data bs, s.onCtx id fun c => { c with desc := some { d with slots := ks, bad := bad } })

/-- Bytes of a block. -/
def BlockDesc.total (d : BlockDesc) : Nat :=
  if d.kv then (d.slots.map fun k => k.len * d.rowlen).foldl (· + ·) 0 else d.rows * d.rowlen

/-- The slot an offset lies in, with the offset at which it begins. -/
def slotAt (rowlen : Nat) : List KvSlot → Nat → Nat → Option (KvSlot × Nat)
  | [], _, _ => none
  | k :: ks, base, off => if off < base + k.len * rowlen then some (k, base) else slotAt rowlen ks (base + k.len * rowlen) off

/-- The next piece of a block: source, destination, and bytes left in the row. -/
inductive Piece where
  | at_ (src dst left : Nat)
  | wait
  | bad (code : Half) (faddr off : Nat)
  deriving DecidableEq, Repr, Inhabited

/-- Where the transfer at offset `off` of a block begins (R213, R230). -/
def State.piece (s : State) (id : Nat) (far : FarReply) (d : BlockDesc) (off : Nat) : Piece × State :=
  if !d.kv then
    let r := off / d.rowlen
    let k := off % d.rowlen
    (.at_ ((d.src.toNat + r * d.sstride + k) % 2 ^ 64) ((d.dst.toNat + r * d.dstride + k) % 2 ^ 64) (d.rowlen - k), s)
  else match slotAt d.rowlen d.slots 0 off with
    | none => (.wait, s)
    | some (k, base) =>
      let t := (off - base) / d.rowlen
      let o := (off - base) % d.rowlen
      let ea := (k.plist.toNat + 8 * (t / d.tpp)) % 2 ^ 64
      match s.seRead id far ea 8 with
      | (.miss, s) => (.wait, s)
      | (.bad code _, s) => (.bad code ea off, s)
      | (.data bs, s) =>
        let plane := (ofLE bs + d.sstride) % 2 ^ 64
        let src := plane + t % d.tpp * d.rowlen
        let dst := (d.dst.toNat + k.i * d.dstride + t * d.rowlen) % 2 ^ 64
        let page := match s.translate id (sysBits plane) false with
          | .at_ _ n => n
          | _ => 0
        let one := page = 0 || plane % page + d.tpp * d.rowlen ≤ page
        if !isEndpoint plane || plane % 16 ≠ 0 || !inSpace plane (d.tpp * d.rowlen) || (isSys plane && !one)
            || (isSys plane && isSys dst) then (.bad Code.badCommand ea base, s)
        else (.at_ (src + o) (dst + o) (d.rowlen - o), s)

/-- 256-byte units two ranges share (R217). -/
def sharesUnit (a n b m : Nat) : Bool := decide (a / 256 ≤ (b + m - 1) / 256) && decide (b / 256 ≤ (a + n - 1) / 256)

/-- The transfer is clear of the context's earlier ones (R217). -/
def clearOf (xs : List Xfer) (src dst len : Nat) (zero : Bool) : Bool :=
  xs.all fun x => !sharesUnit dst len x.dst.toNat x.len && (zero || !sharesUnit src len x.dst.toNat x.len)

/-- The regulator class of a far access: own-chip read 0, own-chip write 1, remote 2 (R208, R218). -/
def State.tokenClass (s : State) (addr : Nat) (write : Bool) : Nat :=
  if addr / 2 ^ 45 ≠ s.router.chip.toNat then 2 else if write then 1 else 0

/-- The share of a class is zero: it issues nothing (R219). -/
def StreamEngine.shareZero (e : StreamEngine) (cls : Nat) : Bool :=
  (if cls = 0 then e.shareRead else if cls = 1 then e.shareWrite else e.shareRemote) == 0#8

/-- A context's attempt to issue: it did something, it has nothing to do, or it waits for tokens. -/
inductive Tried where
  | did (s : State)
  | idle (s : State)
  | tokens (s : State)
  deriving Inhabited

/-- The state that an attempt leaves. -/
def Tried.state : Tried → State
  | .did s => s
  | .idle s => s
  | .tokens s => s

/-- Step the position over an issued transfer (R214). -/
def State.stepPos (s : State) (id len total : Nat) : State :=
  s.onCtx id fun c =>
    if c.ioff + len ≥ total then { c with iblk := c.iblk + 1, ioff := 0, desc := none } else { c with ioff := c.ioff + len }

/-- Hold a transfer as outstanding. -/
def State.addXfer (s : State) (x : Xfer) : State := { s with se := { s.se with xfers := s.se.xfers ++ [x] } }

/-- What a volatile read finds that the journal of a replay may serve (R418, R424). -/
inductive Served where
  /-- its READ record -/
  | data (bs : List Byte) (s : State)
  /-- it waits for the read cursor -/
  | wait
  /-- a record of another address or length, or END without the record: the replay fails -/
  | mismatch (s : State)
  /-- no replay serves it -/
  | live
  deriving Inhabited

/-- The volatile read `ord` of source `src`: a READ record that is waiting serves it; without one it waits for the read cursor
while a replay goes on, and fails the replay once that has met END (R418, R424; log 124). -/
def State.serveRead (s : State) (src ord faddr len : Nat) : Served :=
  match s.journal.waiting.find? fun r => r.src == src && r.ord == ord with
  | none => if !s.journal.replaying then .live else if s.journal.readEnd then .mismatch (s.replayMismatch 2 s.journal.curRead) else .wait
  | some r =>
    let s := { s with journal := { s.journal with
      waiting := s.journal.waiting.filter fun q => !(q.src == src && q.ord == ord) } }
    if r.faddr.toNat = faddr && r.data.length = len then .data r.data s else .mismatch (s.replayMismatch 2 r.jseq)

/-- A transfer ends well: its data is in local memory or acknowledged (R214). -/
def State.xferDone (s : State) (x : Xfer) : State :=
  ({ s with se := { s.se with xfers := s.se.xfers.erase x } }).settleStream x.ctx

/-- A transfer fails: FADDR names the source of a read, the destination of a write with bit 0 set (R215, R227). -/
def State.xferFail (s : State) (x : Xfer) (code : Half) (write : Bool) : State :=
  let faddr := if write then x.dst ||| 1#64 else x.src &&& ~~~1#64
  let s := s.failCtx x.ctx { page := false, code := code, faddr := faddr, blk := x.blk, off := x.off }
  ({ s with se := { s.se with xfers := s.se.xfers.erase x } }).settleStream x.ctx

/-- Issue the transfer of a context at its present position, when nothing holds it back (R214-R220, R224, R407). -/
def State.tryPiece (s : State) (id : Nat) (d : BlockDesc) (src dst left : Nat) : Tried :=
  let c := s.ctx id
  let m := streamMaster id
  let xs := s.se.outOf id
  let far := !d.zero && isSys src
  let farW := isSys dst
  let key := if far then src else dst
  let len := min left (256 - key % 256)
  let x : Xfer := { ctx := id, blk := c.iblk, off := c.ioff, len := len, src := BitVec.ofNat 64 src
                    dst := BitVec.ofNat 64 dst, zero := d.zero, tag := none, volat := false, ord := 0, faddr := 0, data := [] }
  let fail := fun (s : State) (code : Half) (write : Bool) => Tried.did (s.xferFail x code write)
  if xs.length ≥ c.limit || s.se.xfers.length ≥ Config.xferLimit || !clearOf xs src dst len d.zero then .idle s
  else
    let sys := if far then s.translate id (sysBits src) false
      else if farW then s.translate id (sysBits dst) true else .at_ 0 0
    match sys with
    | .miss => .idle (s.askWalk id (sysBits key) farW)
    | .readOnly => fail s Code.accessDenied true
    | .at_ p _ =>
      let cls := s.tokenClass p farW
      let metered := far || farW
      let readOk := d.zero || (if far then s.farMay m p len false else s.may m .loc false)
      let writeOk := if farW then s.farMay m p len true else s.may m .loc true
      if !readOk then fail s Code.accessDenied false
      else if !writeOk then fail s Code.accessDenied true
      else if metered && s.se.shareZero cls then .idle s
      else if metered && decide (Vec.at s.se.buckets cls < 100 * len) then .tokens s
      else
        let volat := far && decide (64 ≤ id) && s.isVolatile p
        if volat && s.journal.bpress then .idle s
        else
          let ord := c.ord
          let take := fun (s : State) =>
            let s := if metered then
                { s with se := { s.se with buckets := Vec.upd s.se.buckets cls fun b => b - 100 * len } } else s
            let s := { s with se := { s.se with last := if id < 64 then s.se.last else id } }
            s.onCtx id fun c => { c with ord := if volat then c.ord + 1 else c.ord }
          let v := { x with volat := true, ord := ord, faddr := p }
          let on := fun (s : State) => ((take s).stepPos id len d.total).addXfer v
          match (if volat then s.serveRead id ord p len else .live) with
          | .data data s => .did (((on s).lwrite dst data).xferDone v)
          | .wait => .did (on s)
          | .mismatch s => .did s
          | .live =>
          if far then
            match (take s).farIssue false p len (BitVec.ofNat 7 m) .stream [] with
            | none => .idle s
            | some (t, s) => .did ((s.addXfer { x with tag := some t, volat := volat, ord := ord, faddr := p }).stepPos id len d.total)
          else
            let (bs, bad, s1) := if d.zero then (List.replicate len 0#8, none, s) else s.lread src len
            match bad with
            | some w => fail (s1.eccAddr w) Code.eccUncorrected false
            | none =>
              if farW then
                match (take s1).farIssue true p len (BitVec.ofNat 7 m) .stream bs with
                | none => .idle s
                | some (t, s) => .did ((s.addXfer { x with tag := some t, faddr := p }).stepPos id len d.total)
              else .did (((take s1).addXfer { x with data := bs }).stepPos id len d.total)

/-! The firmware stream of a snapshot (R399, R402, R403). -/

/-- Post SNAPSHOT_REFUSED with its RCAUSE (R398, R402). -/
def State.snapRefused (s : State) (cause : Nat) (statBit : Nat) : State :=
  ({ s with journal := { s.journal with rcause := BitVec.ofNat 8 cause } }.setJnStat statBit).post
    Code.snapshotRefused Source.journal [cause]

/-- SNAPSHOT_ABANDON: the freeze ends, the bank's dirty bits are all set, and the writes that are out come back unseen (R402). -/
def State.snapAbandon (s : State) : State :=
  match s.journal.snapNow with
  | none => s
  | some (_, bank, _, _, _) =>
    let s := { s with journal := { s.journal with
      snapNow := none
      snapMark := none
      snapBusy := false
      snapPhase := .idle
      snapPage := []
      snapTodo := []
      snapOut := 0
      freeze := false
      dirty0 := if bank then s.journal.dirty0 else BitVec.allOnes 512
      dirty1 := if bank then BitVec.allOnes 512 else s.journal.dirty1 } }
    let s := s.onCtx 0 fun c => if c.state == .running then { c with state := .idle } else c
    (s.forgetFar FarUse.ofSnapshot).snapRefused 0x10 4

/-- A transfer of the copy fails: context 0 halts in FAULT and is reported (R215), and the snapshot, which it leaves without
its copy, is abandoned (log 118). -/
def State.snapFail (s : State) (code : Half) (faddr : DWord) : State :=
  ((s.onCtx 0 fun c => { c with state := .fault, fcode := code, faddr := faddr }).reportHalt 0 code faddr).snapAbandon

/-- Where a piece is written. -/
def SnapPiece.addr : SnapPiece → Nat
  | .bytes a _ => a
  | .region a _ _ => a

/-- The dirty bit that is clear once a piece has been read: that of the region it ends (R399). -/
def SnapPiece.cleans : SnapPiece → BitVec 512
  | .bytes _ _ => 0#512
  | .region _ r k => if k = 15 then BitVec.ofNat 512 (2 ^ r) else 0#512

/-- The bytes of a piece: a region's are read from local memory as it is issued. -/
def State.snapRead (s : State) : SnapPiece → List Byte × Option Nat × State
  | .bytes _ bs => (bs, none, s)
  | .region _ r k => s.lread (4096 * r + 256 * k) 256

/-- The next transfer of the copy is issued as firmware stream 0, within its limit of 64 and the regulator's tokens; after the
last one the freeze ends (R216, R218, R219, R399). -/
def State.snapIssue (s : State) : Tried :=
  match s.journal.snapTodo with
  | [] => .idle s
  | p :: rest =>
    let cls := s.tokenClass p.addr true
    let (bs, bad, t) := s.snapRead p
    if s.journal.snapOut ≥ 64 || s.se.xfers.length + s.journal.snapOut ≥ Config.xferLimit || s.se.shareZero cls then .idle s
    else if Vec.at s.se.buckets cls < 100 * bs.length then .tokens s
    else match bad with
      | some w => .did ((t.eccAddr w).snapFail Code.eccUncorrected (BitVec.ofNat 64 (w / 256 * 256)))
      | none => match t.farIssue true p.addr bs.length 0x50#7 .snapshot bs with
        | none => .idle s
        | some (_, t) =>
          let bank := (t.journal.snapNow.map (·.2.1)).getD false
          .did { t with
            se := { t.se with buckets := Vec.upd t.se.buckets cls fun b => b - 100 * bs.length }
            journal := { t.journal with
              snapTodo := rest
              snapOut := t.journal.snapOut + 1
              dirty0 := if bank then t.journal.dirty0 else t.journal.dirty0 &&& ~~~p.cleans
              dirty1 := if bank then t.journal.dirty1 &&& ~~~p.cleans else t.journal.dirty1
              snapPhase := if rest.isEmpty then .copied else t.journal.snapPhase
              freeze := if rest.isEmpty then false else t.journal.freeze } }

/-- One context's turn. Context 0 copies a snapshot. -/
def State.tryCtx (s : State) (id : Nat) (far : FarReply) : Tried :=
  let c := s.ctx id
  if id = 0 then (if s.journal.snapPhase == .copying then s.snapIssue else .idle s) else
  let stopping := match s.se.wait with
    | some (.sstop i _) => i == id
    | _ => false
  if c.state != .running || c.halt.isSome || stopping || decide (c.nblk ≤ c.iblk)
      || (c.pauseAt == some c.iblk && c.ioff == 0) || (decide (64 ≤ id) && s.journal.freeze)
      || s.se.walks.any (fun w => w.ctx == id) then .idle s
  else
    let (r, s) := match c.desc with
      | some _ => (SeRead.data [], s)
      | none => s.beginBlock id far
    match r with
    | .miss => .idle s
    | .bad _ _ => .did (s.settleStream id)
    | .data _ =>
      let c := s.ctx id
      match c.desc with
      | none => .idle s
      | some d =>
        let badHere := match d.bad with
          | some (o, faddr, code) => if o = c.ioff then some (faddr, code) else none
          | none => none
        match badHere with
        | some (faddr, code) =>
          .did ((s.failCtx id { page := false, code := code, faddr := faddr, blk := c.iblk, off := c.ioff }).settleStream id)
        | none =>
          if d.total ≤ c.ioff then .did ((s.stepPos id 0 0).settleStream id)
          else match s.piece id far d c.ioff with
            | (.wait, s) => .idle s
            | (.bad code faddr off, s) =>
              .did ((s.failCtx id { page := false, code := code, faddr := BitVec.ofNat 64 faddr, blk := c.iblk
                                    off := off }).settleStream id)
            | (.at_ src dst left, s) => s.tryPiece id d src dst left

/-- The first context of a list that does something does it. -/
def State.tryAll (far : FarReply) : List Nat → State → State
  | [], s => s
  | id :: ids, s => match s.tryCtx id far with
    | .did s => s
    | .idle s => s.tryAll far ids
    | .tokens s => s.tryAll far ids

/-- The order in which contexts are served: firmware contexts, then the others in rotation (R216). -/
def StreamEngine.order (e : StreamEngine) : List Nat :=
  let run := (e.ctxs.filter fun c => c.2.state == .running).map (·.1)
  run.filter (· < 64) ++ run.filter (fun i => 64 ≤ i && e.last < i) ++ run.filter (fun i => 64 ≤ i && i ≤ e.last)

/-- The next transfer of a context is ready but for tokens. A context whose descriptor or page list has to be read from far
memory first is not judged (log 119). -/
def State.waitsTokens (s : State) (id : Nat) : Bool :=
  match s.tryCtx id { cells := [], errs := [] } with
  | .tokens _ => true
  | _ => false

/-- SE_THROT counts the beat once a transfer that was ready has waited for tokens in it (R220). -/
def State.noteThrottle (s : State) : State :=
  if !s.se.throttled && s.se.order.any s.waitsTokens then
    { s with se := { s.se with throttled := true, throt := satAdd s.se.throt 1 } }
  else s

/-- STREAM_TRANSFER_ISSUE: the engine issues one ready transfer, or makes the next context's block begin, end or halt;
`far` holds what far memory answers to the engine's own reads (R213-R220). -/
def execStreamTransferIssue (far : FarReply) (s : State) : Answer :=
  if !s.pins.alive then .next s else
  .next (State.tryAll far s.se.order s).noteThrottle

/-- A system address as an endpoint. -/
def sysAddr (a : Nat) : DWord := BitVec.ofNat 64 (2 ^ 60 + a)

/-- PAGE_TABLE_WALK: the oldest walk ends. A valid leaf enters the TLB and its transfer goes on; an entry that is not
valid is a page halt; a write through a read-only leaf, or an error of the walk's reads, is a fault (R221-R225, R227). -/
def execPageTableWalk (far : FarReply) (s : State) : Answer :=
  if !s.pins.alive then .next s else
  match s.se.walks with
  | [] => .next s
  | w :: rest =>
    let s := { s with se := { s.se with walks := rest } }
    match s.walkTable far w.addr 5 0 s.se.ptroot.toNat with
    | .failed code entry =>
      .next ((s.failCtx w.ctx { page := false, code := code, faddr := sysAddr entry, blk := w.blk
                                off := w.off }).settleStream w.ctx)
    | .leaf e =>
      let s := { s with se := { s.se with tlb := (e :: s.se.tlb).take Config.tlbSize } }
      if w.write && !e.writable then
        .next ((s.failCtx w.ctx { page := false, code := Code.accessDenied, faddr := sysAddr w.addr ||| 1#64
                                  blk := w.blk, off := w.off }).settleStream w.ctx)
      else .next s
    | .notValid =>
      let faddr := BitVec.ofNat 64 (2 ^ 60 + w.addr / 2 ^ 16 * 2 ^ 16 + flag 0 w.write)
      .next ((s.failCtx w.ctx { page := true, code := Code.pageHalt, faddr := faddr, blk := w.blk
                                off := w.off }).settleStream w.ctx)

/-- LOCAL_TRANSFER_COMPLETE: the oldest local-to-local or ZERO transfer has been written into local memory (R214). -/
def execLocalTransferComplete (s : State) : Answer :=
  if !s.pins.alive then .next s else
  match s.se.xfers.find? fun x => x.tag.isNone && !x.volat with
  | none => .next s
  | some x => .next ((s.lwrite x.dst.toNat x.data).xferDone x)

/-! Commands (R211, R212). -/

/-- The command at the head of queue 5 that the engine may take: none waits before it. -/
def State.head5 (s : State) : Option QueueCmd := if s.se.wait.isNone then s.head 5 else none

/-- Act on the head of queue 5 when its opcode is `opc`; an opcode the queue does not have is BAD_COMMAND (log 8). -/
def State.on5 (s : State) (opc : Nat) (f : QueueCmd → State) : State :=
  match s.head5 with
  | none => s
  | some c => if c.opc = opc then f c
      else if decide (0x60 ≤ c.opc) && decide (c.opc ≤ 0x62) then s else s.takeFault 5 c Code.badCommand

/-- CTX of a command. -/
def cmdCtx (c : QueueCmd) : Nat := fld 19 8 (c.reg 0)

/-- SARM (R211, R212). -/
def execSarm (s : State) : Answer :=
  .next (s.on5 0x60 fun c =>
    let r := c.reg 0
    let id := cmdCtx c
    let st := (s.ctx id).state
    if decide (c.regs.length < 2) || decide (id ≥ Config.numContexts) || fld 40 20 r != 0 || fld 63 48 r == 0
        || c.reg 1 % 32 != 0 || !isEndpoint (c.reg 1) then s.takeFault 5 c Code.badCommand
    else if id < 64 then s.takeFault 5 c Code.accessDenied
    else if st == .running || st == .pageHalt || st == .paused then s.takeFault 5 c Code.badCommand
    else
      let s := (s.take 5 c).onCtx id fun x =>
        { x.arm with
          list := BitVec.ofNat 64 (c.reg 1)
          sbase := BitVec.ofNat 64 (c.reg 2)
          dbase := BitVec.ofNat 64 (c.reg 3)
          nblk := fld 63 48 r
          limit := fld 47 42 r + 1
          pers := bit 41 r
          delivered := 0#32
          fcode := 0#16 }
      s.complete 5 c.seq)

/-- REARM (R211, R212): it waits in the engine while the context runs. -/
def execRearm (s : State) : Answer :=
  .next (s.on5 0x61 fun c =>
    let id := cmdCtx c
    let x := s.ctx id
    if c.regs.length != 3 || decide (id ≥ Config.numContexts) || fld 63 20 (c.reg 0) != 0 then
      s.takeFault 5 c Code.badCommand
    else if id < 64 then s.takeFault 5 c Code.accessDenied
    else if !x.pers || x.state == .idle || x.state == .fault || x.state == .paused then
      s.takeFault 5 c Code.badCommand
    else
      let s := s.take 5 c
      { s with se := { s.se with
        wait := some (.rearm id (BitVec.ofNat 64 (c.reg 1)) (BitVec.ofNat 64 (c.reg 2)) (some c.seq)) } }.settleWait)

/-- SSTOP (R211, R212). -/
def execSstop (s : State) : Answer :=
  .next (s.on5 0x62 fun c =>
    let id := cmdCtx c
    let st := (s.ctx id).state
    if c.regs.length != 1 || decide (id ≥ Config.numContexts) || fld 63 20 (c.reg 0) != 0 then
      s.takeFault 5 c Code.badCommand
    else if id < 64 then s.takeFault 5 c Code.accessDenied
    else if st == .idle || st == .paused then (s.take 5 c).complete 5 c.seq
    else { s.take 5 c with se := { s.se with wait := some (.sstop id (some c.seq)) } }.settleWait)

/-! Outside state RUN (R235). -/

/-- A command that waits in the engine and counts in no queue any more. -/
def SeWait.stale : SeWait → SeWait
  | .rearm c a b _ => .rearm c a b none
  | .sstop c _ => .sstop c none

/-- The tier leaves RUN: RUNNING program contexts finish the block in progress. A REARM or SSTOP that the engine has taken
has crossed the tier interface and goes on, outside the counts of its queue (R22, R212, R235; log 117). -/
def State.streamsLeaveRun (s : State) : State :=
  let s := { s with se := { s.se with wait := s.se.wait.map SeWait.stale } }
  (s.se.ctxs.map (·.1)).foldl (fun s id =>
    if 64 ≤ id then
      (s.onCtx id fun c => { c with pauseAt := if c.state == .running then some (if c.ioff = 0 then c.iblk else c.iblk + 1)
                                               else c.pauseAt }).settleCtx id
    else s) s

/-- A program context on entry into RUN: IDLE with DELIVERED 0; its other fields keep their values (R235, R482). -/
def StreamCtx.enterRun (c : StreamCtx) : StreamCtx :=
  { c with state := .idle, delivered := 0#32, desc := none, halt := none, pauseAt := none }

/-- The tier enters RUN: every program context is IDLE with DELIVERED 0, and transfers still out complete unseen (R235). A
command that waited in the engine has nothing left to act on (log 117). -/
def State.streamsEnterRun (s : State) : State :=
  { s with se := { s.se with
    ctxs := (s.se.ctxs.map (·.1)).foldl (fun t id =>
      if 64 ≤ id then Tbl.set StreamCtx.idle t id (Tbl.get StreamCtx.idle t id).enterRun else t) s.se.ctxs
    xfers := s.se.xfers.filter fun x => decide (x.ctx < 64)
    walks := s.se.walks.filter fun w => decide (w.ctx < 64)
    wait := none } }

/-- RESUME of a context in PAGE_HALT (R226, R235). -/
def State.resumeCtx (s : State) (id : Nat) : State :=
  s.onCtx id fun c =>
    { c with state := .running, iblk := c.cur, ioff := c.offset, desc := none, halt := none
             pauseAt := if s.inRun || id < 64 then none else some (c.cur + 1) }

/-- TLB_INVALIDATE in itself (R223). -/
def State.tlbClear (s : State) : State := { s with se := { s.se with tlb := [] } }

/-- PATROL_SCRUB: every 256 N-cycles the scrubber reads the next bank row of 64 bytes, rewriting words with a single-bit
error; every uncorrectable word is recorded and reported (R204, R205, R236). -/
def execPatrolScrub (s : State) : Answer :=
  if !s.pins.alive then .next s else
  if s.mem.scrubNc + 256 ≤ s.nc then
    let a := 64 * s.mem.scrubRow
    let bad := (List.range 8).filter fun k => s.mem.bad.contains (a / 8 + k)
    let (_, _, s) := s.lread a 64
    let s := { s with mem := { s.mem with
      scrubRow := (s.mem.scrubRow + 1) % 32768
      scrubNc := s.nc
      single := s.mem.single.filter fun w => !(decide (a ≤ 8 * w) && decide (8 * w < a + 64)) } }
    .next (bad.foldl (fun (s : State) k =>
      (s.eccAddr (a + 8 * k)).postKiln Code.eccUncorrected Source.stream [Source.stream.toNat, a + 8 * k]) s)
  else .next s

end Sys2Proof.Machine
end

