-- ==== Sys2Proof/Machine/Snapshot.lean ====
section
/-! DEFINITION. Snapshots: the point, the check at a barrier pass, the copy and its completion (R397-R405). -/

namespace Sys2Proof.Machine

/-- A snapshot point: it counts in state RUN with no replay, and sets PEND (R397). -/
def State.snapPoint (s : State) : State :=
  if s.inRun && s.journal.rstate == .none && !s.journal.snapPend then
    { s with journal := { s.journal with snapPend := true, snapPendAt := s.lehr.lc } }
  else s

/-- The first condition that refuses a snapshot, 0 for none (R398). -/
def State.snapCause (s : State) : Nat :=
  let queueBusy := fun q => let x := s.queue q; !x.entries.isEmpty || x.issued != x.completed
  if s.journal.snapBase = 0#64 || s.journal.size = 0#16 then 1
  else if (List.range 7).any queueBusy then 2
  else if !(s.queue 7).entries.isEmpty then 3
  else if s.engines.toList.any fun m => m.valid.toList.any (· != 0#32) then 4
  else if s.se.ctxs.any fun c => decide (64 ≤ c.1) && (c.2.state == .running || c.2.state == .pageHalt) then 5
  else if s.marver.shards.any fun x => x.2.state != .empty && x.2.state != .idle then 6
  else if !s.rings.parked.isEmpty then 7
  else 0

/-- The messages at the local output that were stamped before the pass beat are journalled before its MARK (R399), and are
delivered in the freeze. -/
def State.journalInbox (s : State) : State :=
  let due := fun (i : Inbound) => !i.journalled && decide (i.stamp.toNat < s.lehr.lc.toNat)
    && (Msg.kind i.msg != Kind.sync || Msg.sop i.msg == 2)
  let t := (s.router.inbox.filter due).foldl State.jinbound s
  t.setInbox (s.router.inbox.map fun i =>
    if due i then { i with journalled := true, marked := true } else { i with marked := i.journalled })

/-- SNAPSHOT_TAKE: a pending point is checked at a pass and refused, or started with a MARK and the freeze (R397-R399).
A point stays pending while an earlier snapshot's writes are still out (log 28). -/
def State.snapTake (s : State) (bid : Nat) (gen : Half) : State :=
  if !s.journal.snapPend || s.journal.snapBusy || !s.lehr.due s.journal.snapPendAt then s
  else
    let cause := s.snapCause
    let s := { s with journal := { s.journal with snapPend := false } }
    if cause ≠ 0 then s.snapRefused cause 3
    else
      let seq := s.journal.snapSeq + 1#32
      let bank := s.journal.snapValid && !s.journal.snapBank
      let (s, m) := s.journalInbox.zeroOrds.jmark seq (flag 0 bank) bid gen s.lehr.lc
      { s with journal := { s.journal with
          snapSeq := seq
          snapBusy := true
          snapPhase := .marked
          freeze := true
          snapMark := m
          snapNow := some (s.lehr.lc, bank, bid, gen, (m.map (·.jseq)).getD 0#32) } }

/-! The snapshot area (R403, R404). -/

/-- Where bank `b` lies. -/
def Journal.bankBase (j : Journal) (bank : Bool) : Nat := j.snapBase.toNat + (if bank then 0x280000 else 0)

/-- A barrier entry as its registers read, then whether its ARRIVE has left, 32 bytes (R304, R403, R412; log 29). -/
def Barrier.bytes (b : Barrier) : List Byte :=
  padTo 32 (leBytes 4 (b.rootLcid.toNat * 2 ^ 12 + b.rootChip.toNat) ++ leBytes 4 b.expect.toNat
    ++ leBytes 4 (b.gen.toNat * 2 ^ 16 + b.margin.toNat) ++ leBytes 4 (b.rgen.toNat * 2 ^ 16 + flag 0 b.pend)
    ++ leBytes 4 b.rcnt.toNat ++ leBytes 1 (flag 0 b.arrived))

/-- Ring tags that are not CLOSED, rising. -/
def State.liveRings (s : State) : List Nat := (List.range 8192).filter fun t => (s.ring t).state != RingState.closed

/-- Eight bits as a byte, bit k from place k. -/
def packBits (f : Nat → Bool) (n : Nat) : List Byte :=
  (List.range n).map fun i => BitVec.ofNat 8 ((List.range 8).foldl (fun a k => a + flag k (f (8 * i + k))) 0)

/-- The header page of a bank (R404). -/
def State.snapHeader (s : State) (complete : Bool) : List Byte :=
  let (id, bank, bid, gen, jseq) := s.journal.snapNow.getD (0#64, false, 0, 0#16, 0#32)
  let body := leBytes 4 0x20000 ++ leBytes 4 s.journal.snapSeq.toNat ++ leBytes 8 id.toNat
    ++ leBytes 2 s.router.chip.toNat ++ leBytes 2 s.ownLcid ++ leBytes 1 s.gaffer.domain.toNat
    ++ leBytes 1 (flag 0 bank) ++ leBytes 1 (flag 0 complete + flag 1 s.tier.det) ++ leBytes 1 bid
    ++ leBytes 2 gen.toNat ++ leBytes 2 s.liveRings.length ++ leBytes 4 jseq.toNat
    ++ leBytes 64 s.journal.live.toNat ++ List.replicate 28 0#8
  padTo 4096 (body ++ leBytes 4 (crc32c body).toNat)

/-- The control state area (R403). -/
def State.snapControl (s : State) : List Byte :=
  let bars := padTo 0x200 (s.lehr.bars.toList.flatMap Barrier.bytes)
  let dg := (List.range 64).flatMap fun d =>
    leBytes 8 (Tbl.get 0#64 s.digests.val d).toNat ++ leBytes 4 (Tbl.get 0#32 s.digests.cnt d).toNat ++ leBytes 4 0
  let vol := (List.range 16).flatMap fun v => leBytes 8 (Vec.at s.journal.volB v).toNat
    ++ leBytes 4 (flag 31 (s.journal.volV.getLsbD v) + (Vec.at s.journal.volS v).toNat) ++ leBytes 4 0
  let front := padTo 0x600 (bars ++ dg) ++ leBytes 64 s.journal.live.toNat ++ vol
    ++ leBytes 4 s.journal.resume.toNat ++ leBytes 4 (flag 0 s.tier.det)
  let live := s.liveRings
  padTo 4096 (padTo 0x800 front ++ packBits (fun t => live.contains t) 1024)

/-- A shard as the snapshot holds it: the descriptor, STEPN, ENDN and state (R403; log 29). -/
def Shard.bytes (x : Shard) : List Byte :=
  leBytes 128 x.desc.toNat ++ padTo 32 (leBytes 4 x.stepn.toNat ++ leBytes 4 x.endn.toNat
    ++ leBytes 1 (if x.state == .empty then 0 else 1))

/-- The state areas of a bank after its header: offset and bytes (R403; the layouts inside the counter areas are
those of a FENCE record's entries, log 29). -/
def State.snapAreas (s : State) : List (Nat × List Byte) :=
  [(0x1000, s.snapControl),
   (0x2000, s.rings.credit.readBytes 0 0x8000),
   (0xA000, s.se.seqTable.readBytes 0 0x4000),
   (0xE000, (List.range 256).flatMap fun i => (Tbl.get Shard.none s.marver.shards i).bytes),
   (0x18000, (List.range 2048).flatMap fun e => leBytes 4 (Tbl.get 0#32 s.rings.sendCount e).toNat),
   (0x1A000, (List.range 8192).flatMap fun t => leBytes 2 0 ++ leBytes 2 (Tbl.get 0#16 s.rings.revokeCount t).toNat
      ++ leBytes 4 (Tbl.get 0#32 s.rings.creditCount t).toNat),
   (0x2A000, padTo 0x40000 (s.liveRings.flatMap fun t => s.rings.store.readBytes (32 * t) 32))]

/-- The live regions that the bank's dirty bits name, rising (R399, R401). -/
def Journal.dirtyLive (j : Journal) (bank : Bool) : List Nat :=
  let d := if bank then j.dirty1 else j.dirty0
  (List.range 512).filter fun r => j.live.getLsbD r && d.getLsbD r

/-- Every message journalled before the MARK has been delivered or discarded (R399 step 3). -/
def State.snapSettled (s : State) : Bool := s.rings.writes.isEmpty && !s.router.inbox.any (·.marked)

/-- Issue the writes of a header page while tags are free: firmware makes them itself, unmetered (R399). -/
def State.snapPump (s : State) (use : FarUse) : List SnapPiece → State
  | .bytes a bs :: rest =>
    match s.farIssue true a bs.length 0x50#7 use bs with
    | none => { s with journal := { s.journal with snapTodo := .bytes a bs :: rest } }
    | some (_, s) => { s with journal := { s.journal with snapOut := s.journal.snapOut + 1 } }.snapPump use rest
  | todo => { s with journal := { s.journal with snapTodo := todo } }

/-- Bytes at a system address as pieces of at most 256 bytes. -/
def snapPieces (addr : Nat) (bs : List Byte) : List SnapPiece :=
  (pieces addr (bs.length / 16 + 1) bs).map fun x => .bytes x.1 x.2

/-- Firmware stream context 0 starts to copy the state areas and then, in rising order, the dirty live regions (R399). -/
def State.snapStart (s : State) (bank : Bool) : State :=
  let at0 := s.journal.bankBase bank
  let areas := s.snapAreas.flatMap fun x => snapPieces (at0 + x.1) x.2
  let regions := (s.journal.dirtyLive bank).flatMap fun r =>
    (List.range 16).map fun k => SnapPiece.region (at0 + 0x80000 + 4096 * r + 256 * k) r k
  let s := s.onCtx 0 fun c => { c with state := .running, fw := true, limit := 64, fcode := 0#16 }
  { s with journal := { s.journal with snapPhase := .copying, snapPage := s.snapHeader true, snapTodo := areas ++ regions } }

/-- SNAPSHOT_COPY: once the messages before the MARK have settled, the bank's header is written with COMPLETE clear;
once that is acknowledged, context 0 copies the state areas and the dirty live regions, transfer by transfer, and the freeze
ends (R399). -/
def execSnapshotCopy (s : State) : Answer :=
  if !s.pins.alive then .next s else
  match s.journal.snapNow with
  | none => .next s
  | some (_, bank, _, _, _) =>
    if s.journal.snapPhase == .marked && s.snapSettled then
      .next ({ s with journal := { s.journal with snapPhase := .header } }.snapPump (.snapHeader false)
        (snapPieces (s.journal.bankBase bank) (s.snapHeader false)))
    else if s.journal.snapPhase == .headerDone then .next (s.snapStart bank).snapIssue.state
    else if s.journal.snapPhase == .copying then .next s.snapIssue.state
    else .next s

/-- A leave of RUN abandons a snapshot whose freeze is still on (R23, R402), also one whose copying has not begun: neither rule
names that time (log 116). -/
def State.snapLeaveRun (s : State) : State := if s.journal.freeze then s.snapAbandon else s

/-- A snapshot write is acknowledged without an error: more of a header page goes out, and the last write of a step ends it;
after the last one of the copy its context is IDLE (R210, R399). -/
def State.snapAck (s : State) : State :=
  let s := { s with journal := { s.journal with snapOut := s.journal.snapOut - 1 } }
  let s := match s.journal.snapPhase with
    | .header => s.snapPump (.snapHeader false) s.journal.snapTodo
    | .final => s.snapPump (.snapHeader true) s.journal.snapTodo
    | _ => s
  if s.journal.snapOut ≠ 0 then s
  else match s.journal.snapPhase with
    | .header => { s with journal := { s.journal with snapPhase := .headerDone } }
    | .copied => s.onCtx 0 fun c => { c with state := .idle }
    | .final => { s with journal := { s.journal with snapPhase := .finalDone } }
    | _ => s

/-- SNAPSHOT_COMPLETE: with every write acknowledged the header is written with COMPLETE set; once that is acknowledged
the snapshot is complete, and the retention point moves to its MARK (R399, R411). -/
def execSnapshotComplete (s : State) : Answer :=
  if !s.pins.alive then .next s else
  match s.journal.snapNow with
  | none => .next s
  | some (id, bank, _, _, _) =>
    if s.journal.snapPhase == .copied && s.journal.snapOut == 0 && s.journal.snapTodo.isEmpty then
      .next ({ s with journal := { s.journal with snapPhase := .final } }.snapPump (.snapHeader true)
        (snapPieces (s.journal.bankBase bank) s.journal.snapPage))
    else if s.journal.snapPhase == .finalDone then
      .next { s with journal := { s.journal with
        snapNow := none
        snapMark := none
        snapBusy := false
        snapPhase := .idle
        snapPage := []
        snapValid := true
        snapBank := bank
        snapCount := s.journal.snapCount + 1#16
        snapId := id
        retain := s.journal.snapMark.or s.journal.retain
        stopped := false } }
    else .next s

end Sys2Proof.Machine
end

