-- ==== Sys2Proof/Machine/Remap.lean ====
section
/-! DEFINITION. The remap table: the check on arming, the application of the staged bank, and what gaining or losing a
logical ID does (R291, R319-R322, R414, R421, R422). -/

namespace Sys2Proof.Machine

/-- Change a port. -/
def State.onPort (s : State) (p : Nat) (f : Port → Port) : State :=
  { s with router := { s.router with ports := Vec.upd s.router.ports p f } }

def State.port (s : State) (p : Nat) : Port := Vec.at s.router.ports p

/-- An edge frame (R326): its slots with their SIDE bytes, and the CRC. -/
def edgeFrame (seq ack : Half) (type lcred : Nat) (slots : List (List Byte × Byte)) : List Byte :=
  let body := leBytes 2 seq.toNat ++ leBytes 2 ack.toNat ++ leBytes 1 type ++ [0#8] ++ leBytes 2 lcred
    ++ padTo 256 (slots.flatMap (·.1)) ++ padTo 4 (slots.map (·.2))
  body ++ leBytes 4 (crc32c body).toNat

/-- Link credits that the next frame returns, at most 15 a lane (R326). -/
def Port.returned (x : Port) (lane : Nat) : Nat := min 15 (Vec.at x.owed lane)

/-- LCRED of the next frame (R326). -/
def Port.lcred (x : Port) : Nat := ((List.range 4).map fun l => x.returned l * 16 ^ l).foldl (· + ·) 0

/-- The edge port sends a frame: SEQ and ACK as given, the credits it returns, and the slots (R326). -/
def State.sendFrame (s : State) (seq ack : Half) (type : Nat) (slots : List (List Byte × Byte)) : State :=
  s.onPort 4 fun x => { x with
    sent := edgeFrame seq ack type x.lcred slots
    owed := #v[Vec.at x.owed 0 - x.returned 0, Vec.at x.owed 1 - x.returned 1, Vec.at x.owed 2 - x.returned 2,
      Vec.at x.owed 3 - x.returned 3]
    txNc := s.nc }

/-- The HELLO record of this cluster on port `p` (R329): M2 is its highest mesh protocol (R306). -/
def State.helloRecord (s : State) : List Byte :=
  let r := s.router
  padTo 64 (leBytes 2 r.chip.toNat ++ leBytes 2 r.pid.toNat ++ leBytes 2 (flag 15 r.lvalid + r.lcid.toNat)
    ++ leBytes 1 s.gaffer.domain.toNat ++ leBytes 1 (32 + r.link.cap.toNat) ++ leBytes 1 hwVersion
    ++ leBytes 3 (s.gaffer.fw.toNat * 256))

/-- A HELLO leaves a port as one flit, or as one frame (R325, R326, R329). -/
def State.sendHello (s : State) (p : Nat) : State :=
  if p < 4 then
    s.onPort p fun x => { x with ctlSent := x.ctlSent + 1, txNc := s.nc, fwd := x.fwd + 1#64, sent := s.helloRecord }
  else
    (s.sendFrame s.router.link.txSeq s.router.link.rxSeq 4 [(s.helloRecord, 0x80#8)]).onPort p fun x =>
      { x with ctlSent := x.ctlSent + 1 }

/-- An idle flit leaves a mesh port (R325); the spec gives it no contents. -/
def State.sendIdle (s : State) (p : Nat) : State :=
  s.onPort p fun x => { x with ctlSent := x.ctlSent + 1, txNc := s.nc, fwd := x.fwd + 1#64, sent := [] }

/-- HELLO again on every port that has sent one: LCID, LVALID, DOMAIN or the firmware version changed (R329). -/
def State.helloAgain (s : State) : State :=
  (List.range 5).foldl (fun s p =>
    if (s.port p).helloSent && ((s.port p).state == .up || (s.port p).state == .hello) then s.sendHello p else s) s

/-- VALID of a remap or exit entry. -/
def entryValid (e : BitVec 12) : Bool := e.getLsbD 11

/-- PID of a remap or exit entry. -/
def entryPid (e : BitVec 12) : Nat := e.toNat % 2 ^ 11

/-- The valid entries of a bank. -/
def validEntries (l : List (Nat × BitVec 12)) : List (Nat × BitVec 12) := l.filter fun e => entryValid e.2

/-- No two valid entries share a PID (R319). -/
def distinctPids : List (Nat × BitVec 12) → List Nat → Bool
  | [], _ => true
  | e :: t, seen => !seen.contains (entryPid e.2) && distinctPids t (entryPid e.2 :: seen)

/-- A bank keeps the rules for arming: no shared PID, entry 0x7FF not valid (R319). -/
def remapOk (l : List (Nat × BitVec 12)) : Bool :=
  distinctPids (validEntries l) [] && !entryValid (Tbl.get 0#12 l 0x7FF)

/-- The logical ID of a physical ID in a bank. -/
def lcidOf (l : List (Nat × BitVec 12)) (pid : Nat) : Option Nat :=
  ((validEntries l).find? fun e => decide (e.1 < 0x7FF) && entryPid e.2 == pid).map (·.1)

/-- A cluster gains logical ID `id`: barrier entries whose ROOT names it count from their GEN (R422), and in state
REPLAY the restored ID starts TAIL (R421). -/
def State.gainId (s : State) (id : Nat) : State :=
  let bars := s.lehr.bars.map fun b =>
    if b.rootLcid.toNat = id && b.rootChip = s.router.chip then { b with rgen := b.gen, rcnt := 0#24 } else b
  let s := { s with lehr := { s.lehr with bars := bars } }
  if s.journal.rstate == .replay && s.journal.restFor == BitVec.ofNat 11 id then
    { s with journal := { s.journal with rstate := .tail } }
  else s

/-- The cluster has another logical ID, or none: the registers show it from the next beat (R319). -/
def State.newId (s : State) (valid : Bool) (id : BitVec 11) : State :=
  { s with router := { s.router with lvalid := valid, lcid := id, shown := some s.router.shownId } }

/-- The beat after a change of the logical ID: the registers show it, and no longer the LCID of a snapshot restored before it
(R174, R319). -/
def State.showId (s : State) : State :=
  { s with
    router := { s.router with shown := none }
    journal := { s.journal with restLcid := if s.router.shown.isSome then none else s.journal.restLcid } }

/-- Take the logical ID that the active bank gives this cluster, with what losing or gaining one does. -/
def State.updateId (s : State) (epoch : Half) : State :=
  let old := if s.router.lvalid then some s.router.lcid.toNat else none
  let new := lcidOf s.router.active s.router.pid.toNat
  if old = new then s
  else
    let s := if old.isSome then s.jend epoch else s
    match new with
    | none => (s.newId false 0#11).helloAgain
    | some id => ((s.newId true (BitVec.ofNat 11 id)).helloAgain).gainId id

/-- REMAP_APPLY: the staged bank is copied whole into the active bank and the epoch takes ARG (R319). -/
def State.remapApply (s : State) (arg : Word) : State :=
  let epoch : Half := arg.setWidth 16
  ({ s with router := { s.router with active := s.router.staged, epoch := epoch } }).updateId epoch

/-- Change a timed action entry. -/
def State.onAct (s : State) (a : Nat) (f : TimedAction → TimedAction) : State :=
  { s with lehr := { s.lehr with acts := Vec.upd s.lehr.acts a f } }

/-- A timed action of this kind is armed. -/
def State.armed (s : State) (kind : BitVec 4) : Bool := s.lehr.acts.toList.any fun a => a.armed && a.kind == kind

/-- Change a barrier entry. -/
def State.onBar (s : State) (b : Nat) (f : Barrier → Barrier) : State :=
  { s with lehr := { s.lehr with bars := Vec.upd s.lehr.bars b f } }

/-- An armed entry fires: ARMED clears, FIRED is set (R281). -/
def TimedAction.fire (x : TimedAction) : TimedAction := { x with armed := false, fired := true }

/-- An armed entry fires without effect (R281). -/
def TimedAction.miss (x : TimedAction) : TimedAction := { x with armed := false, missed := true }

/-- An entry fires. -/
def State.fireAct (s : State) (a : Nat) : State := (s.onAct a TimedAction.fire).raise 10 (0x108 + 0x10 * a) 30

/-- A REMAP entry fires and applies. -/
def State.fireRemap (s : State) (a : Nat) : State :=
  (s.fireAct a).remapApply (Vec.at s.lehr.acts a).arg

/-- Every armed REMAP entry with TARGET at or below the pass beat fires, in entry order (R281, R288, R291). -/
def State.passRemaps (s : State) (pass : DWord) : State :=
  (List.range 8).foldl (fun s a =>
    let x := Vec.at s.lehr.acts a
    if x.armed && x.kind == 3#4 && decide (x.target.toNat ≤ pass.toNat) then s.fireRemap a else s) s

/-- A RELEASE that no pending BAR matches: each armed REMAP with TARGET at or below PASS applies at PASS, or in the beat
after a stamp at or past PASS (R320). -/
def State.releaseRemaps (s : State) (pass stamp : DWord) : State :=
  let at0 := if stamp.toNat < pass.toNat then pass else stamp + 1#64
  let new := (List.range 8).filter fun a =>
    let x := Vec.at s.lehr.acts a
    x.armed && x.kind == 3#4 && decide (x.target.toNat ≤ pass.toNat) && !s.lehr.remapAt.any fun p => p.1 == a
  { s with lehr := { s.lehr with remapAt := s.lehr.remapAt ++ new.map fun a => (a, at0) } }

/-- The REMAP entries that a RELEASE has set apply when their beat comes (R278, R320). -/
def State.dueRemaps (s : State) : State :=
  let due := s.lehr.remapAt.filter fun p => s.lehr.due p.2
  let s := { s with lehr := { s.lehr with remapAt := s.lehr.remapAt.filter fun p => !s.lehr.due p.2 } }
  due.foldl (fun s p => if (Vec.at s.lehr.acts p.1).armed then s.fireRemap p.1 else s) s

end Sys2Proof.Machine
end

