-- ==== Sys2Proof/Machine/Moulds.lean ====
section
/-! DEFINITION. Moulds: their layout, when one is valid, and what loading and switching apply (R451-R453). -/

namespace Sys2Proof.Machine

/-- Bits of an access table entry that hold a right (R457). -/
def accessMask : Nat := 0x003F7337

/-- The image of mould `m` in MRAM (R454). -/
def Gaffer.mould (g : Gaffer) (m : Nat) : List Byte := g.mram.readBytes (0x2000 * m) 8192

/-- EXIT entry `k` (R451). -/
def mouldExit (b : List Byte) (k : Nat) : Nat := leAt b (512 + 4 * k) 4

/-- The exit table that a mould loads. -/
def mouldExits (b : List Byte) : List (Nat × BitVec 12) :=
  (List.range (leAt b 94 2)).foldl (fun t k =>
    let e := mouldExit b k
    if bit 31 e then Tbl.set 0#12 t (fld 27 16 e) (BitVec.ofNat 12 (2048 + fld 10 0 e)) else t) []

/-- The remap bank that a mould loads. -/
def mouldRemap (b : List Byte) : List (Nat × BitVec 12) :=
  (List.range 2048).filterMap fun i =>
    let e := leAt b (2048 + 2 * i) 2
    if bit 15 e then some (i, BitVec.ofNat 12 (2048 + fld 10 0 e)) else none

/-- Every bit of a mould that is reserved is zero (R451). -/
def mouldReserved (b : List Byte) : Bool :=
  let zeroAt := fun (o n : Nat) => allZero ((b.drop o).take n)
  zeroAt 8 8 && zeroAt 96 32 && zeroAt 6144 2044
    && decide (leAt b 16 1 < 4) && decide (leAt b 17 1 < 8) && decide (leAt b 18 1 < 16) && decide (leAt b 19 1 < 16)
    && decide (leAt b 93 1 < 64)
    && (List.range 96).all (fun m => (leAt b (128 + 4 * m) 4) &&& accessMask == leAt b (128 + 4 * m) 4)
    && (List.range (leAt b 94 2)).all (fun k => fld 30 28 (mouldExit b k) == 0 && fld 15 11 (mouldExit b k) == 0)
    && (List.range 2048).all (fun i => fld 14 11 (leAt b (2048 + 2 * i) 2) == 0)

/-- Every field of a mould lies in its range (R451). -/
def mouldRanges (b : List Byte) : Bool :=
  let tper := leAt b 92 1
  decide (leAt b 20 1 + leAt b 21 1 + leAt b 22 1 ≤ 100) && decide (leAt b 23 1 ≤ 30)
    && (tper == 0 || (decide (10 ≤ tper) && decide (tper ≤ 24))) && decide (leAt b 94 2 ≤ 384)

/-- A mould image is valid (R451). -/
def mouldValid (b : List Byte) : Bool :=
  b.length == 8192 && leAt b 0 4 == 0x20000 && leAt b 8188 4 == (crc32c (b.take 8188)).toNat
    && mouldRanges b && mouldReserved b && remapOk (mouldRemap b)

/-- Mould `m` as it stands in MRAM is valid; one that a torn store left is not (R455). -/
def Gaffer.validMould (g : Gaffer) (m : Nat) : Bool := !g.tornMould.getLsbD m && mouldValid (g.mould m)

/-- The mould whose fields apply now: the one in force, when it is valid (R452, R453; log 38). -/
def Gaffer.inForce (g : Gaffer) : Option (List Byte) :=
  if g.mouldOk && g.validMould g.sel.toNat then some (g.mould g.sel.toNat) else none

/-- A mould field, or the register's reset value when no mould applies (R453). -/
def mouldFld (m : Option (List Byte)) (o n reset : Nat) : Nat :=
  match m with
  | some b => leAt b o n
  | none => reset

/-- The Switch fields (R451): SFLAGS, SNAPINT, TSIZE and TPER. -/
def State.applySwitch (s : State) (m : Option (List Byte)) : State :=
  let f := mouldFld m 18 1 1
  { s with
    router := { s.router with comb := bit 0 f, adapt := bit 1 f, mcout := bit 2 f }
    journal := { s.journal with
      ten := bit 3 f, tsize := BitVec.ofNat 16 (mouldFld m 90 2 0), tper := BitVec.ofNat 5 (mouldFld m 92 1 0) }
    lehr := { s.lehr with snapInt := BitVec.ofNat 32 (mouldFld m 28 4 0) } }

/-- Bits [56:k] of an address, the bits a base register holds (R430). -/
def baseBits (k x : Nat) : DWord := BitVec.ofNat 64 (fld 56 k x * 2 ^ k)

/-- The Load fields (R451), the Switch fields among them. -/
def State.applyLoad (s : State) (m : Option (List Byte)) : State :=
  let f := mouldFld m 17 1 2
  let remap := (m.map mouldRemap).getD []
  let access := (m.map fun b => (List.range 96).foldl (fun t i =>
    Tbl.set 0#32 t i (BitVec.ofNat 32 (leAt b (128 + 4 * i) 4))) []).getD []
  let s := s.applySwitch m
  let s := { s with
    se := { s.se with xlatEn := bit 0 f }
    journal := { s.journal with
      en := bit 1 f, base := baseBits 16 (mouldFld m 64 8 0), snapBase := baseBits 20 (mouldFld m 72 8 0)
      tbase := baseBits 16 (mouldFld m 80 8 0), size := BitVec.ofNat 16 (mouldFld m 88 2 0) }
    gaffer := { s.gaffer with
      evten := bit 2 f, domain := BitVec.ofNat 6 (mouldFld m 93 1 0), access := access }
    router := { s.router with active := remap, staged := remap, exits := (m.map mouldExits).getD [] } }
  s.updateId s.router.epoch

/-- Start-up steps 3-5: the boot ROM takes SEL and applies the selected mould; one that is not valid is not used, sets
TORN and leaves the reset values and a kiln record. Step 6 follows (R428, R453, R456). -/
def State.loadMould (s : State) : State :=
  let m := s.gaffer.sel.toNat
  let ok := s.gaffer.validMould m
  let s := { s with gaffer := { s.gaffer with torn := !ok, mouldOk := ok, step := 6#4 } }
  if ok then (s.applyLoad (some (s.gaffer.mould m))).kilnRecord Code.ok Source.firmware [m, hwVersion]
  else ((s.applyLoad none).kilnRecord Code.nvTorn Source.firmware [m]).kilnRecord Code.ok Source.firmware [m, hwVersion]

/-- A switch to mould `m` (R452): none when the mould is not valid, which changes nothing but posts NV_TORN. -/
def State.switchMould (s : State) (m : Nat) : State × Bool :=
  if s.gaffer.validMould m then
    let s := { s with gaffer := { s.gaffer with sel := BitVec.ofNat 2 m, ovr := true, mouldOk := true } }
    (s.applySwitch (some (s.gaffer.mould m)), true)
  else (s.post Code.nvTorn Source.firmware [m], false)

end Sys2Proof.Machine
end

