-- ==== Sys2Proof/Machine/Tiers.lean ====
section
/-! DEFINITION. The compute tier: entering and leaving RUN, fences, power, the anneal and discovery (R18-R23, R70, R235,
R305, R374, R414, R426, R451, R456, R473). -/

namespace Sys2Proof.Machine

/-- The compute tier's registers of the schedule unit as they stand on entry into RUN (R305); PEND clears (R292). -/
def Lehr.enterRun (l : Lehr) (m : Option (List Byte)) : Lehr :=
  { l with
    slipSticky := false, lateSticky := false, blateSticky := false, btmoSticky := false, unwinSticky := false
    guard := BitVec.ofNat 4 (mouldFld m 19 1 2), sfValid := false, sfLate := 0#16
    tfValid := false, tfWin := 0#6, tfTag := 0#13, btmo := BitVec.ofNat 32 (mouldFld m 24 4 0)
    slip := 0#32, late := 0#32, early := 0#32, unwin := 0#32, blate := 0#32 }

/-- A barrier loses its pending BAR; an ARRIVE already sent stays counted (R292). -/
def Barrier.drop (b : Barrier) : Barrier := { b with pend := false, passAt := none, timedOut := false }

/-- A register address whose register lies in the compute tier: what a master's latch or a waiting lower word of it held
goes with it (R140, R174, R200, R271, R305). -/
def tierLatch (key : Nat) : Bool :=
  let o := key % 2 ^ 16
  (decide (0x2000 ≤ o) && decide (o < 0x6000)) || o == 0x6018 || o == 0x9820 || o == 0xA040 || o == 0xA048 || o == 0xD008

/-- Everything the compute tier holds is lost (R22, R32, R95, R140, R269, R292, R301, R374): the core, the engines, the
vector engine, the schedule unit, the parking, a command that Marver holds, and latched and waiting words of its 64-bit
registers. Instruction memory, of whose contents the spec says nothing, keeps them (log 111). -/
def State.dropCompute (s : State) : State :=
  { s with
    core := Core.fresh s.core.imem s.core.imemBad
    engines := Vector.replicate 4 MatrixEngine.fresh
    ve := VectorEngine.fresh
    stats := TensorStats.fresh 0#64
    latches := s.latches.filter fun p => !tierLatch p.1
    lowers := s.lowers.filter fun p => !tierLatch p.1
    sched := Sched.fresh
    rings := { s.rings with parked := [], tx := 0#64 }
    lehr := { s.lehr with bars := s.lehr.bars.map Barrier.drop }
    marver := { s.marver with wait := none, pubs := [] }
    journal := { s.journal with tprev := #v[0#64, 0#64, Vec.at s.journal.tprev 2, 0#64] } }

/-- A barrier whose RELEASE has matched and that the tier will not pass applies its remaps by the RELEASE (R320). -/
def State.unpassed (s : State) : State :=
  s.lehr.bars.toList.foldl (fun s b => match b.passAt with
    | some (at0, _) => s.releaseRemaps at0 s.lehr.lc
    | none => s) s

/-- LEAVE_RUN: the tier leaves RUN; the snapshot being copied is abandoned, streams run to their block boundaries, and
the compute tier's state is lost (R22, R23, R235). -/
def State.leaveRun (s : State) : State := (s.unpassed.snapLeaveRun.streamsLeaveRun).dropCompute

/-- ENTER_RUN: the tier enters RUN with the Run fields of the mould in force (R70, R235, R305, R374, R384, R401, R451). -/
def State.enterRun (s : State) : State :=
  let m := s.gaffer.inForce
  let f := mouldFld m 16 1 2
  let w := fun (o : Nat) => BitVec.ofNat 32 (mouldFld m o 4 0)
  let s := s.dropCompute.streamsEnterRun.forgetFar (FarUse.ofMarver none)
  { s with
    tier := { s.tier with state := .run, det := false, detNext := bit 0 f, skipped := false }
    gaffer := { s.gaffer with runNc := s.nc }
    stats := TensorStats.fresh (BitVec.ofNat 64 (mouldFld m 32 8 0))
    lehr := s.lehr.enterRun m
    se := { s.se with
      shareRead := BitVec.ofNat 8 (mouldFld m 20 1 0x32)
      shareWrite := BitVec.ofNat 8 (mouldFld m 21 1 0x1E)
      shareRemote := BitVec.ofNat 8 (mouldFld m 22 1 0x14) }
    marver := { s.marver with
      shards := [], chunk := none
      slots := ((s.marver.chunk.bind Prod.snd).map fun x => [x]).getD [] ++ s.marver.slots
      mode := bit 1 f, lrmax := w 48, lrmin := w 52, warm := w 56, period := w 60
      seed := BitVec.ofNat 64 (mouldFld m 40 8 0) }
    journal := { s.journal with dirty0 := BitVec.allOnes 512, dirty1 := BitVec.allOnes 512 } }

/-- The tier enters FENCED or FENCED_OFF (R19): from RUN the FENCE record is appended first (R414); the former ID is kept
(R426, R430); the kiln record carries CAUSE, the FENCE record's JSEQ and the former ID, and so does the event of a fence
that no FENCE command caused (R20, R428). -/
def State.fenceTo (s : State) (next : TierState) (cause : Byte) (report : Bool) : State :=
  let id := if s.router.lvalid then s.router.lcid else 0x7FF#11
  let (s, jseq) := if s.inRun then s.jfence cause else (s, 0#32)
  let s := if s.inRun then s.leaveRun else s
  let s := if s.router.lvalid then
      { s with journal := { s.journal with fvalid := true, flcid := s.router.lcid } } else s
  let off := next == .fencedOff
  let s := { s with tier := { s.tier with
    state := next, cause := cause, vctOn := s.tier.vctOn && !off, powerGood := s.tier.powerGood && !off
    trained := s.tier.trained && !off } }
  let detail := [cause.toNat, jseq.toNat, id.toNat]
  if report then s.postKiln Code.fenced Source.tier detail else s.kilnRecord Code.fenced Source.tier detail

/-- FENCE with or without power-off (R19, R456). -/
def State.fence (s : State) (off : Bool) : State :=
  match s.tier.state with
  | .off => s.fenceTo .fencedOff 1#8 false
  | .starting =>
    let s := s.fenceTo .fencedOff 1#8 false
    { s with tier := { s.tier with skipped := true }, gaffer := { s.gaffer with step := 9#4 } }
  | .run => s.fenceTo (if off then .fencedOff else .fenced) 1#8 false
  | .fenced => if off then s.fenceTo .fencedOff s.tier.cause false else s
  | .fencedOff => s
  | .anneal => s

/-- An automatic fence in RUN (R20). -/
def State.autoFence (s : State) (cause : Byte) : State := s.fenceTo .fenced cause true

/-- The action under way in the Tier and program group ends with a FINAL reply, when it is an ANNEAL (R426, R439). -/
def State.finalAnneal (s : State) (status : Half) : State :=
  match s.gaffer.action with
  | some (.anneal r) => { s with gaffer := { s.gaffer with action := none } }.final r status [s.kcrTier]
  | _ => s

/-- An ANNEAL ends in FENCED_OFF (R19, R20, R426). -/
def State.annealFail (s : State) (cause : Byte) : State :=
  (s.fenceTo .fencedOff cause true).finalAnneal Code.fenced

/-- Close the switches: the Power-up field applies and the interface is to train afresh (R20, R451, R473). -/
def State.supplyRequest (s : State) : State :=
  { s with tier := { s.tier with vctReq := BitVec.ofNat 5 (mouldFld s.gaffer.inForce 23 1 0) } }

/-- Start-up step 8: the tier enters STARTING, or step 8 is skipped because a FENCE has kept it off (R19, R456). -/
def State.powerUp (s : State) : State :=
  if s.tier.state == .off then
    let s := s.supplyRequest
    { s with
      tier := { s.tier with state := .starting, sinceNc := s.nc, trained := false, powerGood := false }
      gaffer := { s.gaffer with step := 8#4 } }
  else { s with tier := { s.tier with skipped := true }, gaffer := { s.gaffer with step := 9#4 } }

/-- ANNEAL begins: the switches close if they are open, and the interface trains afresh unless it still stands (R19, R20,
R426; log 43). -/
def State.annealStart (s : State) : State :=
  let s := if s.tier.vctOn then s else s.supplyRequest
  { s with tier := { s.tier with
    state := .anneal, vctOn := true, sinceNc := s.nc, trained := s.tier.trained && s.tier.vctOn } }

/-- SWITCH_CLOSE: 50 µs after the entry into STARTING the switches close in stages over 16 µs and VCT_ON rises (R473). -/
def execSwitchClose (s : State) : Answer :=
  if !s.pins.alive then .next s else
  if s.tier.state == .starting && !s.tier.vctOn && decide (s.tier.sinceNc + 66 * Config.ncPerUs ≤ s.nc) then
    .next { s with tier := { s.tier with vctOn := true, trained := false } }
  else .next s

/-- COMPUTE_TIER_POWER_GOOD: the tier reports power good, or its interface has trained; with both, STARTING ends in RUN
(R19, R456 steps 8-9). -/
def execComputeTierPowerGood (trained : Bool) (s : State) : Answer :=
  if !s.tier.vctOn || !s.pins.alive then .next s
  else
    let s := { s with tier := { s.tier with
      powerGood := s.tier.powerGood || !trained, trained := s.tier.trained || trained } }
    if s.tier.state == .starting && s.tier.powerGood && s.tier.trained then
      let s := s.enterRun
      .next { s with gaffer := { s.gaffer with step := 9#4 } }
    else .next s

/-- TIER_START_TIMEOUT: power good or training not reached within 100 µs (R19). Of an ANNEAL that has reached neither, both
rows of R19 hold, and the model takes CAUSE 0x02 (log 110). -/
def execTierStartTimeout (s : State) : Answer :=
  if !s.pins.alive then .next s else
  if !decide (s.tier.sinceNc + 100 * Config.ncPerUs ≤ s.nc) then .next s
  else match s.tier.state with
    | .starting =>
      let s := s.fenceTo .fencedOff 3#8 true
      .next { s with tier := { s.tier with skipped := true }, gaffer := { s.gaffer with step := 9#4 } }
    | .anneal =>
      if !s.tier.powerGood then .next (s.annealFail 2#8)
      else if !s.tier.trained then .next (s.annealFail 3#8)
      else .next s
    | _ => .next s

/-- POWER_GOOD_LOSS (R19, R20). -/
def execPowerGoodLoss (s : State) : Answer :=
  if !s.pins.alive then .next s else
  let had := s.tier.powerGood
  let s := { s with tier := { s.tier with powerGood := false } }
  match s.tier.state with
  | .run => .next (s.autoFence 2#8)
  | .anneal => .next (if had then s.annealFail 2#8 else s)
  | _ => .next s

/-- The tier interface is lost (R19, R20). -/
def State.interfaceLost (s : State) : State :=
  let had := s.tier.trained
  let s := { s with tier := { s.tier with trained := false } }
  match s.tier.state with
  | .run => s.autoFence 3#8
  | .anneal => if had then s.annealFail 3#8 else s
  | _ => s

/-- TIER_INTERFACE_ERROR: an uncorrectable transfer error (R20). -/
def execTierInterfaceError (s : State) : Answer :=
  if !s.pins.alive then .next s else .next s.interfaceLost

/-- TIER_INTERFACE_TIMEOUT: no response for 1,024 consecutive N-cycles (R20). -/
def execTierInterfaceTimeout (s : State) : Answer :=
  if !s.pins.alive then .next s else .next s.interfaceLost

/-- ANNEAL_SELF_TEST_COMPLETE: steps 1 and 2 end; with power good and the interface trained the tier enters RUN (R426). -/
def execAnnealSelfTestComplete (pass : Bool) (s : State) : Answer :=
  if !s.pins.alive then .next s else
  if s.tier.state != .anneal then .next s
  else if !pass then .next (s.annealFail 4#8)
  else if s.tier.powerGood && s.tier.trained then
    let s := s.helloAgain.enterRun
    .next ((s.kilnRecord Code.ok Source.firmware [s.gaffer.sel.toNat, hwVersion]).finalAnneal Code.ok)
  else .next s

/-- A port no longer keeps start-up step 9 waiting (R330). -/
def Port.settled (p : Port) : Bool := p.state == .tied || p.state == .up || p.state == .mismatch

/-- DISCOVERY_COMPLETE: step 9 ends when every port has settled or 100 µs have passed, and the READY event is posted
(R330, R446, R456 step 10). -/
def execDiscoveryComplete (s : State) : Answer :=
  if !s.pins.alive then .next s else
  let since := if s.tier.skipped then s.gaffer.startedNc else s.gaffer.runNc
  if s.gaffer.step == 9#4 && s.gaffer.started
      && (s.router.ports.toList.all Port.settled || decide (since + 100 * Config.ncPerUs ≤ s.nc)) then
    .next ({ s with gaffer := { s.gaffer with step := 0xA#4 } }.post Code.ok Source.firmware [0x0A])
  else .next s

end Sys2Proof.Machine
end

