-- ==== Sys2Proof/Machine/Actions.lean ====
section
/-! DEFINITION. The Lehr count and the timed actions: pulses, missed pulses, LAUNCH, SNAPSHOT and PROFILE entries, the
snapshot timer and the arming of an entry (R272-R282, R302, R397, R417, R426, R452). -/

namespace Sys2Proof.Machine

/-! The count. -/

/-- LH_LFAULT as a word (R304). -/
def Lehr.lfaultWord (l : Lehr) : Nat := l.lfDiff.toNat * 65536 + flag 15 l.lfValid + l.lfCause.toNat

/-- A LEHR_FAULT is recorded and reported (R274, R275, R428). -/
def State.lehrFault (s : State) (cause : BitVec 2) (diff : Half) : State :=
  let l := { s.lehr with lfault := true }
  let s := { s with lehr := if l.lfValid then l else { l with lfValid := true, lfDiff := diff, lfCause := cause } }
  ((s.raise 10 0x000 0).raise 10 0x010 15).postKiln Code.lehrFault Source.lehr [s.lehr.lfaultWord]

/-- LC − LEHR_LOAD as signed 16-bit, saturated (R304). -/
def lehrDiff (lc load : DWord) : Half :=
  let d : Int := (lc.toNat : Int) - load.toNat
  BitVec.ofInt 16 (if d > 32767 then 32767 else if d < -32768 then -32768 else d)

/-- LEHR_SYNC_PULSE: a pulse with 64 samples behind it loads the count, a later one checks it (R273, R274, R277). -/
def execLehrSyncPulse (value : DWord) (s : State) : Answer :=
  if s.pins.testMode || !s.pins.alive then .next s
  else
    let l := s.lehr
    if !l.synced then
      if l.samples ≥ 64 then
        .next { s with lehr := { l with lc := value, evLc := value, synced := true, watch := true, sincePulse := 0 } }
      else .next s
    else
      let s := { s with lehr := { l with watch := true, sincePulse := 0 } }
      if l.lc = value then .next s
      else .next (State.lehrFault { s with lehr := { s.lehr with
          lc := value, evLc := if value.toNat < l.evLc.toNat then value else l.evLc } } 1#2 (lehrDiff l.lc value))

/-- MISSED_PULSE: no pulse within 65,600 beats of the previous one (R275). -/
def execMissedPulse (s : State) : Answer :=
  if !s.pins.alive then .next s else
  if s.lehr.watch && s.lehr.synced && decide (65600 ≤ s.lehr.sincePulse) && !s.pins.testMode then
    .next ({ s with lehr := { s.lehr with watch := false } }.lehrFault 2#2 0#16)
  else .next s

/-! Arming (R280, R319, R426). -/

/-- Arming the staged bank would give this cluster again the ID it held at its last fence (R24, R426); a fenced cluster
that still holds that ID is not given it. -/
def State.givesFormerId (s : State) : Bool :=
  s.journal.fvalid && !(s.router.lvalid && s.router.lcid == s.journal.flcid)
    && lcidOf s.router.staged s.router.pid.toNat == some s.journal.flcid.toNat

/-- The arm of an entry of this KIND and TARGET is performed (R280, R319, R426). -/
def State.armOk (s : State) (kind : BitVec 4) (target : DWord) : Bool :=
  decide (1 ≤ kind.toNat) && decide (kind.toNat ≤ 4) && s.lehr.synced && decide (s.lehr.lc.toNat < target.toNat)
    && (kind != 3#4 || (remapOk s.router.staged && !s.givesFormerId))

/-- Set an entry and arm it, by firmware (R280). -/
def State.armEntry (s : State) (a : Nat) (kind : BitVec 4) (target : DWord) (arg : Word) (replay : Bool) : State :=
  s.onAct a fun x => { x with target := target, armed := true, kind := kind, arg := arg, replay := replay }

/-- The lowest entry that is not armed; none when all eight are (R280). -/
def State.freeAct (s : State) : Option Nat := (List.range 8).find? fun a => !(Vec.at s.lehr.acts a).armed

/-! Firing. -/

/-- An entry of this kind is due; none below it is due in the same beat, REMAP entries apart, which fire at barrier
passes (R278, R281, R291). -/
def State.dueAct (s : State) (a : Nat) (kind : BitVec 4) : Bool :=
  let due := fun (i : Nat) => let x := Vec.at s.lehr.acts i
    x.armed && s.lehr.due x.target
  due a && (Vec.at s.lehr.acts a).kind == kind && (List.range a).all fun i => !due i || (Vec.at s.lehr.acts i).kind == 3#4

/-- A LAUNCH or SNAPSHOT entry fires while the tier is not in RUN, or a SNAPSHOT entry during a replay (R281, R397). -/
def State.missAct (s : State) (a : Nat) : State :=
  let x := Vec.at s.lehr.acts a
  let s := (s.onAct a TimedAction.miss).raise 10 (0x108 + 0x10 * a) 29
  ({ s with lehr := { s.lehr with actMiss := true } }.raise 10 0x000 4).post Code.actionMissed Source.lehr
    [a, x.kind.toNat, (loWord x.target).toNat, (hiWord x.target).toNat, x.arg.toNat]

/-- A command in flight that a LAUNCH has taken out of its queue's counts (R302). -/
def InFlight.stale (x : InFlight) : InFlight := { x with old := true }
def VeCmd.stale (x : VeCmd) : VeCmd := { x with old := true }
def MvWait.stale : MvWait → MvWait
  | .shgo i k _ => .shgo i k none
  | .shsync i t _ => .shsync i t none

/-- Commands taken before a LAUNCH run to completion outside the new counts; those still queued, a held XSEND, a pending
BAR and the parked sends are discarded (R302). -/
def State.launchQueues (s : State) : State :=
  { s with
    engines := s.engines.map fun (m : MatrixEngine) => { m with inflight := m.inflight.map InFlight.stale }
    ve := { s.ve with inflight := s.ve.inflight.map VeCmd.stale }
    se := { s.se with wait := s.se.wait.map SeWait.stale }
    marver := { s.marver with wait := s.marver.wait.map MvWait.stale }
    sched := { Sched.fresh with
      sends := s.sched.sends.map fun (d : Send) => { d with seq := none }, freeBeat := s.sched.freeBeat, portNc := s.sched.portNc }
    rings := { s.rings with parked := [] } }

/-- The control core as R29 sets it up, with task 0 at `entry` and its s1, which issues from the next beat on (R302); no cache line is held (R343). The fault record
and the queue owners are registers that R29 does not name. -/
def Core.launch (c : Core) (beat entry : Nat) (s1 : DWord) : Core :=
  let t : Task := { Task.fresh with state := .ready, pc := entry, regs := Vec.upd Task.fresh.regs 1 fun _ => s1 }
  { Core.fresh c.imem c.imemBad with
    tasks := (Vector.replicate 32 Task.fresh).set 0 t
    running := true
    startBeat := beat + 1
    faultCode := c.faultCode, faultValid := c.faultValid, faultSlot := c.faultSlot, faultTask := c.faultTask
    faultPc := c.faultPc, owners := c.owners }

/-- A barrier entry at a LAUNCH: PEND clears, and GEN, RGEN and RCNT are zeroed except by REPLAY's LAUNCH (R302). -/
def Barrier.launch (b : Barrier) (replay : Bool) : Barrier :=
  let b := b.drop
  if replay then b else { b with gen := 0#16, rgen := 0#16, rcnt := 0#24, arrived := false }

/-- What a firing LAUNCH does in RUN (R29, R301, R302, R343, R384, R390, R406, R417). -/
def State.launchAt (s : State) (entry : Nat) (replay : Bool) : State :=
  let s := s.launchMark.unpassed.launchQueues
  let s := { s with
    core := s.core.launch s.beat entry (if replay then s.journal.restId else 0#64)
    lehr := { s.lehr with
      bars := s.lehr.bars.map fun (b : Barrier) => b.launch replay
      slip := 0#32, late := 0#32, early := 0#32, unwin := 0#32 }
    tier := { s.tier with det := s.tier.detNext } }
  if replay then
    if s.journal.rstate == .restored then { s with journal := { s.journal with rstate := .none } } else s
  else { s with digests := { s.digests with val := [], cnt := [] }, journal := { s.journal with waiting := [] } }

/-- A REPLAY in no-journal mode ends when its entry fires: STATE has become NONE and the FINAL reply is sent (R417, R443). -/
def State.finalReplay (s : State) (a : TimedAction) : State :=
  if a.replay && s.journal.rstate == .none then s.endReplay Code.ok else s

/-- LAUNCH: a due LAUNCH entry fires, or is missed while the tier is not in RUN (R281, R302). -/
def execLaunch (a : Fin 8) (s : State) : Answer :=
  if !s.pins.alive then .next s else
  if !s.dueAct a 1#4 then .next s
  else if !s.inRun then .next (s.missAct a)
  else
    let x := Vec.at s.lehr.acts a
    .next (((s.fireAct a).launchAt (x.arg.toNat % 65536) x.replay).finalReplay x)

/-- A SNAPSHOT entry fires: a snapshot point, missed while the tier is not in RUN or a replay is under way (R281, R397). -/
def State.fireSnapshot (s : State) (a : Nat) : State :=
  if s.inRun && s.journal.rstate == .none then (s.fireAct a).snapPoint else s.missAct a

/-- SNAPSHOT_ACTION_FIRE: a due SNAPSHOT entry sets a snapshot point, or is missed (R281, R397). -/
def execSnapshotActionFire (a : Fin 8) (s : State) : Answer :=
  if !s.pins.alive then .next s else
  if !s.dueAct a 2#4 then .next s
  else .next (s.fireSnapshot a)

/-- PROFILE: a due PROFILE entry switches to the mould it names, in every state of the tier; a mould that is not valid
changes nothing but posts NV_TORN (R279, R452). -/
def execProfile (a : Fin 8) (s : State) : Answer :=
  if !s.pins.alive then .next s else
  if !s.dueAct a 4#4 then .next s
  else .next ((s.fireAct a).switchMould ((Vec.at s.lehr.acts a).arg.toNat % 4)).1

/-- LC has reached LH_SNAPNEXT with an interval set: a snapshot point, and LH_SNAPNEXT moves past LC (R282). -/
def State.timerPoint (s : State) : State :=
  let l := s.lehr
  let lc := l.lc.toNat
  let next := l.snapNext.toNat
  let int := l.snapInt.toNat
  if int = 0 || !l.due l.snapNext then s
  else
    let s := s.snapPoint
    { s with lehr := { s.lehr with snapNext := BitVec.ofNat 64 (next + ((lc - next) / int + 1) * int) } }

/-- SNAPSHOT_TIMER: the snapshot timer fires (R282). -/
def execSnapshotTimer (s : State) : Answer :=
  if !s.pins.alive then .next s else .next s.timerPoint

/-- The points that are due in the present beat count before its pass (R397). -/
def State.duePoints (s : State) : State :=
  ((List.range 8).foldl (fun s a => if s.dueAct a 2#4 then s.fireSnapshot a else s) s).timerPoint

end Sys2Proof.Machine
end

