-- ==== Sys2Proof/Machine/Sends.lean ====
section
/-! DEFINITION. The schedule unit's sends and windows: MSEND, XSEND, RWIN, the release of a held XSEND and the
completion of a send (R253-R256, R293-R298, R419, R420). -/

namespace Sys2Proof.Machine

/-- The command at the head of queue 7 that the schedule unit may take: no barrier waits, no XSEND is held, the parking
has room, the send port is free (R255, R283, R294, R295). -/
def State.head7 (s : State) : Option QueueCmd :=
  if s.sched.bar.isNone && s.sched.held.isNone && decide (s.rings.parked.length < Config.parkDepth)
      && decide (s.sched.freeBeat ≤ s.beat) then s.head 7 else none

/-- Take a command of queue 7: at most one a beat (R294). -/
def State.take7 (s : State) (c : QueueCmd) : State :=
  let s := s.take 7 c
  { s with sched := { s.sched with freeBeat := max s.sched.freeBeat (s.beat + 1) } }

def State.fault7 (s : State) (c : QueueCmd) (code : Half) : State := (s.take7 c).stopQueue 7 code c.opc c.seq

/-- Act on the command at the head of queue 7 when its opcode is `opc`; an opcode the queue does not have faults with
BAD_COMMAND (log 8). -/
def State.on7 (s : State) (opc : Nat) (f : QueueCmd → State) : State :=
  match s.head7 with
  | none => s
  | some c => if c.opc = opc then f c
      else if decide (0x70 ≤ c.opc) && decide (c.opc ≤ 0x73) then s else s.fault7 c Code.badCommand

/-- The bytes of local memory a send reads (R253). -/
def sendBytes (c : Credit) (len : Nat) : Nat := if c.gather && c.gmode = 2 then 8 * len else 16 * len

/-- A send as an MSEND or XSEND names it, its header still to be built (R253). -/
def sendOf (c : QueueCmd) (e : Credit) : Send :=
  let r := c.reg 0
  let len := fld 28 20 r
  { seq := some c.seq, opc := BitVec.ofNat 8 c.opc, entry := fld 18 8 r
    lane := if bit 19 r then Lane.bulk else Lane.exch
    len := len, slot := fld 40 29 r, cid := fld 52 41 r, w0 := 0#64, w1 := 0#64
    src := .memory (fld 31 0 (c.reg 1)) (sendBytes e len), exact := none, n := granules len }

/-- A send of `n` granules through entry `e` goes at once, so that its payload is read: it is not completed as stale, and not
parked (R255). -/
def State.leavesAtOnce (s : State) (e n : Nat) : Bool :=
  let c := s.entryOf e
  !c.stale && (c.gather || (s.rings.parkedOn e == 0 && decide (n ≤ c.credit)))

/-- The checks of R254, and that an XSEND's LANE is 0 (R293): the code of the fault, if any. -/
def State.sendFault (s : State) (c : QueueCmd) (timed : Bool) : Option Half :=
  let r := c.reg 0
  let e := s.entryOf (fld 18 8 r)
  let len := fld 28 20 r
  let paddr := fld 31 0 (c.reg 1)
  let bytes := sendBytes e len
  if c.regs.length != (if timed then 3 else 2) || fld 63 53 r != 0 || fld 63 32 (c.reg 1) != 0 || !e.valid || decide (e.dtag < 32) || decide (len > 256)
      || (e.gather && len == 0) || (!e.gather && (fld 40 29 r != 0 || fld 52 41 r != 0))
      || paddr % 16 != 0 || !inLocal paddr bytes
      || (e.gather && decide (e.gmode < 2) && s.tier.det) || (timed && bit 19 r) then some Code.badCommand
  else if bytes > 0 && !s.may 0x51 .loc false && s.leavesAtOnce (fld 18 8 r) (granules len) then some Code.accessDenied
  else none

/-- A send meets its credit entry: STALE completes unsent, GATHER and a charged DATA send are released, any other DATA
send is parked (R255). -/
def State.startSend (s : State) (d : Send) : State :=
  let c := s.entryOf d.entry
  if c.stale then (s.noteStale d.entry).completeSend d.seq
  else if c.gather then s.releaseSend d
  else if s.rings.parkedOn d.entry = 0 && decide (d.n ≤ c.credit) then (s.charge d.entry d.n).releaseSend d
  else { s with rings := { s.rings with parked := s.rings.parked ++ [d] } }

/-- MSEND (R253-R255). -/
def execMsend (s : State) : Answer :=
  .next (s.on7 0x70 fun c =>
    match s.sendFault c false with
    | some code => s.fault7 c code
    | none => (s.take7 c).startSend (sendOf c (s.entryOf (fld 18 8 (c.reg 0)))))

/-- SCHED_SLIP: the XSEND is not sent and queue 7 stops (R296). -/
def State.schedSlip (s : State) (c : QueueCmd) (d : Nat) : State :=
  let s := s.take7 c
  let l := { s.lehr with slipSticky := true }
  let s := { s with lehr := if l.sfValid then l else { l with sfValid := true, sfLate := BitVec.ofNat 16 (min d 65535) } }
  ((s.raise 10 0x000 2).raise 10 0x014 15).stopQueue 7 Code.schedSlip c.opc c.seq

/-- XSEND (R293-R296): early, it is held at the head of the queue; late within the guard, it is released and counted;
later, it slips. In REPLAY and TAIL it is released when taken (R420). -/
def execXsend (s : State) : Answer :=
  .next (s.on7 0x71 fun c =>
    match s.sendFault c true with
    | some code => s.fault7 c code
    | none =>
      let send := sendOf c (s.entryOf (fld 18 8 (c.reg 0)))
      let target := c.reg 2
      let lc := s.lehr.evLc.toNat
      if s.journal.replaying || lc = target then (s.take7 c).startSend send
      else if lc < target then { s with sched := { s.sched with held := some (send, BitVec.ofNat 64 target) } }
      else if lc - target ≤ s.lehr.guard.toNat then
        let s := s.take7 c
        { s with lehr := { s.lehr with slip := satAdd s.lehr.slip 1 } }.startSend send
      else s.schedSlip c (lc - target))

/-- XSEND_RELEASE: a held XSEND is released in the first beat in which LC has reached its target (R278, R294). -/
def execXsendRelease (s : State) : Answer :=
  match s.sched.held, s.head 7 with
  | some (d, target), some c =>
    if s.lehr.due target then
      let s := { s with sched := { s.sched with held := none } }
      .next ((s.take7 c).startSend d)
    else .next s
  | _, _ => .next s

/-- One FP32 element of an EXACT send: the 64-bit term, and whether it overflowed or was non-finite (R260). -/
def exactTerm (sx : Int) (x : Nat) : Nat × Bool × Bool :=
  match Fmt.fp32.decode x with
  | .fin neg m e =>
    let k := e - sx
    let t : Nat := if k ≥ 0 then m * 2 ^ k.toNat else m / 2 ^ (-k).toNat
    let big := decide (t ≥ 2 ^ 63)
    let t := if big then 2 ^ 63 - 1 else t
    (bits64 (if neg then -(t : Int) else t), big, false)
  | _ => (0, false, true)

/-- The payload of an EXACT send, and its OVF and NF (R260). -/
def exactPayload (sx : Int) (bs : List Byte) : List Byte × Bool × Bool :=
  let ts := (words 4 (bs.length / 4) bs).map (exactTerm sx)
  (ts.flatMap fun t => leBytes 8 t.1, ts.any (·.2.1), ts.any (·.2.2))

/-- A send through entry `e` has left: the counts of R412 and RG_TX. -/
def State.countSend (s : State) (e : Nat) : State :=
  { s with rings := { s.rings with
      tx := s.rings.tx + 1#64
      sendCount := Tbl.set 0#32 s.rings.sendCount e (Tbl.get 0#32 s.rings.sendCount e + 1#32) } }

/-- A send whose payload has been read leaves, unless REPLAY suppresses it, and completes (R256, R412, R419). -/
def State.finishSend (s : State) (d : Send) (payload : List Byte) : State :=
  let (payload, ovf, nf) := match d.exact with
    | some sx => exactPayload sx payload
    | none => (payload, false, false)
  let w1 := d.w1 ||| BitVec.ofNat 64 (flag 51 ovf + flag 52 nf)
  let (stop, s) := s.suppressSend d.entry
  let s := if stop then s else s.transmit { w0 := d.w0, w1 := w1, payload := payload } false
  (s.countSend d.entry).completeSend d.seq

/-- SEND_COMPLETION: the oldest released send has read its payload and leaves. A read that the access table denies, or an
uncorrectable word, stops queue 7 with nothing sent and the credit kept (R254, R256). -/
def execSendCompletion (s : State) : Answer :=
  if !s.pins.alive then .next s else
  match s.sched.sends with
  | [] => .next s
  | d :: rest =>
    let s := { s with sched := { s.sched with sends := rest } }
    match d.src with
    | .bytes payload => .next (s.finishSend d payload)
    | .memory paddr len =>
      if len > 0 && !s.may 0x51 .loc false then
        .next (s.stopIf 7 Code.accessDenied d.opc.toNat (d.seq.getD 0#32) d.seq.isNone)
      else
      let (bs, bad, s) := s.lread paddr len
      match bad, d.seq with
      | some a, some q =>
        .next ((s.noteEcc Source.lehr a).stopQueue 7 Code.eccUncorrected d.opc.toNat q (some [Source.lehr.toNat, a]))
      | some a, none => .next (s.noteEcc Source.lehr a)
      | none, _ => .next (s.finishSend d bs)

/-- RWIN (R298). -/
def execRwin (s : State) : Answer :=
  .next (s.on7 0x72 fun c =>
    let r := c.reg 0
    let win := fld 29 24 r
    let tag := fld 20 8 r
    let expect := fld 63 48 r
    if c.regs.length != 3 || fld 47 30 r != 0 || fld 23 21 r != 0 || expect == 0 || decide (tag < 32)
        || decide (c.reg 2 ≤ c.reg 1) || (Vec.at s.sched.windows win).active then s.fault7 c Code.badCommand
    else
      let s := s.take7 c
      let w : Window := { active := true, done := false, tag := tag, expect := expect, opens := BitVec.ofNat 64 (c.reg 1)
                          closes := BitVec.ofNat 64 (c.reg 2), count := 0, order := s.sched.armed }
      let s := { s with sched := { s.sched with
        windows := Vec.upd s.sched.windows win fun _ => w
        armed := s.sched.armed + 1 } }
      s.complete 7 c.seq)

end Sys2Proof.Machine
end

