-- ==== Sys2Proof/Machine/Barriers.lean ====
section
/-! DEFINITION. Barriers: BAR, the ARRIVE, the root, the RELEASE, the pass and the timeout (R283-R292). -/

namespace Sys2Proof.Machine

def State.barrier (s : State) (b : Nat) : Barrier := Vec.at s.lehr.bars b

/-- BAR (R284, R285). -/
def execBar (s : State) : Answer :=
  .next (s.on7 0x73 fun c =>
    let b := fld 11 8 (c.reg 0)
    if c.regs.length != 1 || fld 63 12 (c.reg 0) != 0 || decide (b > 13) || (s.barrier b).expect == 0#24 then
      s.fault7 c Code.badCommand
    else
      let s := (s.take7 c).onBar b fun x =>
        { x with pend := true, passAt := none, takenBeat := s.beat, timedOut := false }
      { s with sched := { s.sched with bar := some (b, c.seq), barReady := false } })

/-- Every command of queue 7 before the BAR has completed, parked sends included (R285). -/
def State.earlierDone (s : State) (seq : Word) : Bool :=
  match (s.queue 7).outstanding with
  | (q, _) :: _ => q == seq
  | [] => true

/-- The GEN of `b` lies below the FENCE record's, or equals it with ARRIVED set: F has sent its ARRIVE (R419). -/
def State.arriveRepeats (s : State) (b : Nat) : Bool :=
  match s.journal.fenceBars[b]? with
  | none => false
  | some (g, arrived) =>
    let d := (g - (s.barrier b).gen).toNat
    (decide (0 < d) && decide (d < 2 ^ 15)) || (d == 0 && arrived)

/-- An ARRIVE on `b` is suppressed in REPLAY (R419). -/
def State.arriveSuppressed (s : State) (b : Nat) : Bool := s.journal.rstate == .replay && s.arriveRepeats b

/-- The ARRIVE of barrier `b` (R285, R289). -/
def State.arriveMessage (s : State) (b : Nat) : Message :=
  let x := s.barrier b
  { w0 := headWord Lane.sync Kind.sync 0 s.gaffer.domain.toNat (2 + b) x.rootLcid.toNat x.rootChip.toNat
    w1 := BitVec.ofNat 64 (1 * 2 ^ 62 + b * 2 ^ 58 + x.gen.toNat * 2 ^ 42 + 1), payload := [] }

/-- What the ARRIVE of the BAR that is pending waits for holds: earlier commands have completed and every window is satisfied
(R285). -/
def State.arriveReady (s : State) : Bool :=
  match s.sched.bar with
  | none => false
  | some (_, seq) => s.earlierDone seq && !s.sched.windows.toList.any (·.active)

/-- ARRIVE_SEND: the ARRIVE leaves in the beat after both conditions first hold (R285). -/
def execArriveSend (s : State) : Answer :=
  if !s.pins.alive then .next s else
  match s.sched.bar with
  | none => .next s
  | some (b, _) =>
    if s.inRun && !(s.barrier b).arrived && s.sched.barReady then
      let m := s.arriveMessage b
      let stop := s.arriveSuppressed b
      let s := s.onBar b fun x => { x with arrived := true }
      .next (if stop then s else s.transmit m false)
    else .next s

/-- A discarded ARRIVE (R286). -/
def State.syncDiscard (s : State) : State :=
  { s with lehr := { s.lehr with syncdisc := satAdd s.lehr.syncdisc 1, sdisc := true } }.raise 10 0x000 5

/-- The RELEASE of barrier `b` for generation `g` with its pass beat (R286, R289). -/
def State.releaseMessage (s : State) (b g pass : Nat) : Message :=
  { w0 := headWord Lane.sync Kind.sync 0 s.gaffer.domain.toNat (2 + b) 0x7FF s.router.chip.toNat
    w1 := BitVec.ofNat 64 (2 * 2 ^ 62 + b * 2 ^ 58 + g * 2 ^ 42 + pass % 2 ^ 40), payload := [] }

/-- The beat in which a SYNC message counts: that of its stamp, or the beat after it leaves for one that the cluster sent itself
(R286). -/
def Inbound.counts (i : Inbound) : Nat := i.stamp.toNat + (if i.port = 5 then 1 else 0)

/-- A message that the cluster sent itself does not count before the beat after it left (R286). -/
def State.mayCount (s : State) (i : Inbound) : Bool := i.port != 5 || decide (i.beat < s.beat)

/-- ARRIVE_RECEIVE: the root counts an ARRIVE, or discards it; reaching EXPECT fixes PASS and multicasts the RELEASE
(R286). Messages of a reserved SOP are discarded here too (R289). -/
def execArriveReceive (s : State) : Answer :=
  if !s.pins.alive then .next s else
  match s.router.pick fun m => Msg.kind m == Kind.sync && Msg.sop m != 2 with
  | none => .next s
  | some (i, rest) =>
    if !s.mayCount i then .next s else
    let s := s.setInbox rest
    let m := i.msg
    let b := Msg.bid m
    let x := s.barrier b
    if Msg.sop m ≠ 1 || b > 13 || x.expect = 0#24 || Msg.domain m ≠ s.gaffer.domain.toNat || Msg.gen m ≠ x.rgen.toNat then
      .next s.syncDiscard
    else if x.rcnt.toNat + Msg.count m < x.expect.toNat then
      .next (s.onBar b fun x => { x with rcnt := x.rcnt + BitVec.ofNat 24 (Msg.count m) })
    else
      let pass := i.counts + x.margin.toNat
      let out := s.releaseMessage b x.rgen.toNat pass
      .next ((s.onBar b fun x => { x with rcnt := 0#24, rgen := x.rgen + 1#16 }).transmit out true)

/-- The value congruent to `p` modulo 2^40 that lies nearest `lc` (R287). -/
def nearest40 (p lc : Nat) : Nat :=
  let low := lc / 2 ^ 40 * 2 ^ 40 + p
  if low + 2 ^ 39 < lc then low + 2 ^ 40
  else if lc + 2 ^ 39 < low && low ≥ 2 ^ 40 then low - 2 ^ 40
  else low

/-- A RELEASE acts: a pending BAR of its GEN passes at PASS, or in the beat after a stamp at or past PASS; without one
it only moves REMAP entries (R287, R320). -/
def State.applyRelease (s : State) (m : Message) (stamp : DWord) : State :=
  let b := Msg.bid m
  let x := s.barrier b
  let pass := BitVec.ofNat 64 (nearest40 (Msg.pass40 m) s.lehr.lc.toNat)
  if s.inRun && x.pend && x.passAt.isNone && decide (b ≤ 13) && x.gen.toNat == Msg.gen m then
    if stamp.toNat < pass.toNat then s.onBar b fun x => { x with passAt := some (pass, false) }
    else
      let s := s.onBar b fun x => { x with passAt := some (stamp + 1#64, false) }
      if s.journal.replaying then s
      else { s with lehr := { s.lehr with blate := satAdd s.lehr.blate 1, blateSticky := true } }.raise 10 0x000 6
  else s.releaseRemaps pass stamp

/-- RELEASE_RECEIVE: recorded, then applied (R287, R320, R406). -/
def execReleaseReceive (s : State) : Answer :=
  if !s.pins.alive then .next s else
  match s.router.pick fun m => Msg.kind m == Kind.sync && Msg.sop m == 2 with
  | none => .next s
  | some (i, rest) =>
    .next (((s.setInbox rest).jinbound i).applyRelease i.msg i.stamp)

/-- BARRIER_PASS: PEND clears, GEN rises, the BAR completes, armed REMAP entries fire, and then a pending snapshot point
is taken, points of the same beat first (R288, R291, R397). A pass that a replay takes from a record moves no REMAP entry of a
cluster without a logical ID: its entries wait for a RELEASE that it receives (R320, R421). -/
def execBarrierPass (b : Fin 14) (s : State) : Answer :=
  if !s.pins.alive then .next s else
  let x := s.barrier b
  match x.passAt with
  | none => .next s
  | some (pass, replayed) =>
    if s.inRun && x.pend && s.lehr.due pass then
      let gen := x.gen + 1#16
      let s := s.onBar b fun x => { x with pend := false, gen := gen, passAt := none, arrived := false }
      let s := match s.sched.bar with
        | some (c, seq) =>
          if c = b.val then
            ({ s with sched := { s.sched with bar := none, barReady := false, freeBeat := max s.sched.freeBeat (s.beat + 1) } }).complete 7 seq
          else s
        | none => s
      let s := if replayed && !s.router.lvalid then s else s.passRemaps s.lehr.lc
      .next (s.duePoints.snapTake b gen)
    else .next s

/-- BARRIER_TIMEOUT: a BAR pending for LH_BTMO beats is reported once (R290). -/
def execBarrierTimeout (b : Fin 14) (s : State) : Answer :=
  if !s.pins.alive then .next s else
  let x := s.barrier b
  if s.inRun && s.lehr.btmo != 0#32 && x.pend && !x.timedOut && decide (s.lehr.btmo.toNat ≤ s.beat - x.takenBeat) then
    let s := s.onBar b fun x => { x with timedOut := true }
    .next (({ s with lehr := { s.lehr with btmoSticky := true } }.raise 10 0x000 7).post Code.barrierTimeout Source.lehr [b])
  else .next s

end Sys2Proof.Machine
end

