-- ==== Sys2Proof/Machine/Free.lean ====
section
/-! DEFINITION. What a scan shift leaves (R475): a state of which nothing is known but that its memories are in
canonical form. -/

namespace Sys2Proof

/-- The state after the n-th scan shift, which R475 calls undefined. -/
opaque Config.freeState : Nat → Machine.State

namespace Machine

/-- Bring a table to canonical form. -/
def Tbl.tidy {α : Type} [DecidableEq α] (d : α) (t : List (Nat × α)) : List (Nat × α) :=
  t.foldr (fun c m => Tbl.set d m c.1 c.2) []

/-- Bring the rows of a stationary set to canonical form. -/
def StationarySet.tidy (x : StationarySet) : StationarySet := { x with rows := Tbl.tidy [] x.rows }

/-- Bring every memory of a state to canonical form. -/
def State.tidy (s : State) : State :=
  { s with
    core := { s.core with imem := Tbl.tidy 0#8 s.core.imem }
    engines := s.engines.map fun (m : MatrixEngine) =>
      { m with pool := Tbl.tidy 0#8 m.pool, acc := Tbl.tidy 0#8 m.acc, active := m.active.tidy, shadow := m.shadow.tidy }
    ve := { s.ve with vregs := Tbl.tidy 0#32 s.ve.vregs, progs := Tbl.tidy 0#8 s.ve.progs }
    digests := { s.digests with val := Tbl.tidy 0#64 s.digests.val, cnt := Tbl.tidy 0#32 s.digests.cnt }
    mem := { s.mem with mem := Tbl.tidy 0#8 s.mem.mem }
    se := { s.se with ctxs := Tbl.tidy StreamCtx.idle s.se.ctxs, seqTable := Tbl.tidy 0#8 s.se.seqTable }
    rings := { s.rings with
      store := Tbl.tidy 0#8 s.rings.store, credit := Tbl.tidy 0#8 s.rings.credit
      sendCount := Tbl.tidy 0#32 s.rings.sendCount, creditCount := Tbl.tidy 0#32 s.rings.creditCount
      revokeCount := Tbl.tidy 0#16 s.rings.revokeCount }
    router := { s.router with
      active := Tbl.tidy 0#12 s.router.active, staged := Tbl.tidy 0#12 s.router.staged
      exits := Tbl.tidy 0#12 s.router.exits }
    marver := { s.marver with shards := Tbl.tidy Shard.none s.marver.shards }
    gaffer := { s.gaffer with
      access := Tbl.tidy 0#32 s.gaffer.access, mram := Tbl.tidy 0#8 s.gaffer.mram
      mbReq := Tbl.tidy 0#8 s.gaffer.mbReq, mbRep := Tbl.tidy 0#8 s.gaffer.mbRep } }

end Machine

end Sys2Proof
end

