-- ==== Sys2Proof/Machine/Tiles.lean ====
section
/-! DEFINITION. Tile descriptors, tile rows, the consistency check of TCFG, and element values
(R68-R73, R75, R81, R144, R145, R147, R148). -/

namespace Sys2Proof.Machine

/-- A tile's shape, read from its descriptor (R71-R73). -/
structure TileShape where
  ty : Nat
  /-- L: element bytes of a row -/
  len : Nat
  /-- T: trailer bytes of a row -/
  trailer : Nat
  rows : Nat
  base : Nat
  deriving DecidableEq, Repr, Inhabited

/-- Trailer bytes of a type (R72). -/
def typeTrailer (ty : Nat) : Nat := if 6 ≤ ty ∧ ty ≤ 8 then 16 else if ty = 9 then 32 else 0

/-- Bits of an element of a type (R72). -/
def typeBits (ty : Nat) : Nat :=
  match ty with
  | 0 => 16
  | 1 => 16
  | 2 => 32
  | 9 => 4
  | 10 => 4
  | 11 => 64
  | _ => 8

/-- MX types (R144). -/
def isMx (ty : Nat) : Bool := decide (6 ≤ ty) && decide (ty ≤ 8)

def TileShape.of (d : Nat) : TileShape where
  ty := fld 27 24 d
  len := 16 * (fld 23 20 d + 1)
  trailer := typeTrailer (fld 27 24 d)
  rows := fld 17 13 d + 1
  base := fld 7 0 d * 512

def TileShape.stride (t : TileShape) : Nat := t.len + t.trailer

/-- One past the footprint (R73). -/
def TileShape.stop (t : TileShape) : Nat := t.base + t.rows * t.stride

/-- The shape of a configured tile; none when it is unconfigured. -/
def MatrixEngine.shape (m : MatrixEngine) (tile : Nat) : Option TileShape :=
  let d := (Vec.at m.desc tile).toNat
  if d.testBit 31 then some (TileShape.of d) else none

/-! R75: the cases of an inconsistent configuration, and the lowest tile of the first failed case. -/

/-- Case 1: reserved type or field, or an unconfigured descriptor with another field set. -/
def descReserved (d : Nat) : Bool :=
  if d.testBit 31 then decide (fld 27 24 d ≥ 12) || fld 30 28 d != 0 || fld 19 18 d != 0 || fld 12 8 d != 0
  else d != 0

/-- Case 2: the row is not a whole number of elements. -/
def descPartial (d : Nat) : Bool :=
  d.testBit 31 && ((TileShape.of d).len * 8) % typeBits (TileShape.of d).ty != 0

/-- Case 3: an MX row is not a whole number of blocks. -/
def descMx (d : Nat) : Bool := d.testBit 31 && isMx (TileShape.of d).ty && (TileShape.of d).len % 32 != 0

/-- Case 4: the footprint passes the end of the pool. -/
def descPast (d : Nat) : Bool := d.testBit 31 && decide ((TileShape.of d).stop > Config.poolSize)

/-- Case 5: two configured tiles share a byte. -/
def descShare (d e : Nat) : Bool :=
  d.testBit 31 && e.testBit 31 &&
    decide ((TileShape.of d).base < (TileShape.of e).stop) && decide ((TileShape.of e).base < (TileShape.of d).stop)

/-- The lowest tile of the first failed case of R75 for a new configuration, `mask` naming the used descriptors. -/
def configError (mask : Nat) (new : List Nat) : Option Nat :=
  let at' := fun t => new.getD t 0
  let tiles := List.range 32
  let used := tiles.filter fun t => mask.testBit t
  let firstOf := fun (l : List Nat) (p : Nat → Bool) => l.find? fun t => p (at' t)
  match firstOf used descReserved with
  | some t => some t
  | none => match firstOf used descPartial with
    | some t => some t
    | none => match firstOf used descMx with
      | some t => some t
      | none => match firstOf tiles descPast with
        | some t => some t
        | none => tiles.find? fun t => tiles.any fun u => u != t && descShare (at' t) (at' u)

/-! Tile rows. -/

def MatrixEngine.rowValid (m : MatrixEngine) (tile row : Nat) : Bool := (Vec.at m.valid tile).getLsbD row

/-- First uncorrectable pool bank row that `[a, a+n)` touches (R69). -/
def MatrixEngine.poolError (m : MatrixEngine) (a n : Nat) : Option Nat :=
  (m.poolBad.find? fun b => decide (16 * b < a + n) && decide (a < 16 * b + 16)).map (16 * ·)

/-- The bytes of a tile row, elements and trailer; a row that is not valid reads as zeros (R81). -/
def MatrixEngine.rowBytes (m : MatrixEngine) (t : TileShape) (tile row : Nat) : List Byte :=
  if m.rowValid tile row then m.pool.readBytes (t.base + row * t.stride) t.stride
  else List.replicate t.stride 0#8

/-- The pool address of an uncorrectable error in the parts of a row, each an offset and a length, that are read (R69); a row
that is not valid is not read. -/
def MatrixEngine.rowError (m : MatrixEngine) (t : TileShape) (tile row : Nat) (parts : List (Nat × Nat)) : Option Nat :=
  if m.rowValid tile row then parts.findSome? fun p => m.poolError (t.base + row * t.stride + p.1) p.2 else none

/-- The whole of a row. -/
def TileShape.whole (t : TileShape) : List (Nat × Nat) := [(0, t.stride)]

/-- A slice of `n` bytes at `off` in a row, with the part of the trailer that it uses: block scales (R144), or scale and zero
point pairs (R147). -/
def TileShape.slice (t : TileShape) (off n : Nat) : List (Nat × Nat) :=
  (off, n) ::
    (if isMx t.ty then [(t.len + off / 32, (n + 31) / 32)]
     else if t.ty = 9 then [(t.len + 2 * (off / 16), 2 * ((n + 15) / 16))] else [])

/-- The TILE_EMPTY warning if the row is not valid (R81). -/
def MatrixEngine.warnRow (m : MatrixEngine) (tile row : Nat) : MatrixEngine :=
  if m.rowValid tile row then m else m.warnEmpty tile

/-- Write pool bytes; whole bank rows get new check bits, and a part of one with an uncorrectable error leaves the error (R69;
log 127). -/
def MatrixEngine.poolWrite (m : MatrixEngine) (a : Nat) (bs : List Byte) : MatrixEngine :=
  { m with
    pool := m.pool.writeBytes a bs
    poolBad := m.poolBad.filter fun b => !(decide (a ≤ 16 * b) && decide (16 * b + 16 ≤ a + bs.length)) }

/-- Write a whole tile row and set its valid bit (R80). -/
def MatrixEngine.writeRow (m : MatrixEngine) (t : TileShape) (tile row : Nat) (bs : List Byte) : MatrixEngine :=
  let m := m.poolWrite (t.base + row * t.stride) (padTo t.stride bs)
  { m with valid := Vec.upd m.valid tile fun v => v ||| BitVec.ofNat 32 (2 ^ row) }

/-- Clear the valid bits of the tiles in MASK that `p` admits. -/
def MatrixEngine.clearValid (m : MatrixEngine) (mask : Word) (p : Nat → Bool) : MatrixEngine :=
  { m with valid := Vector.ofFn fun i : Fin 32 => if mask.getLsbD i && p i then 0#32 else m.valid[i] }

/-! Element values. -/

/-- The value of an unscaled element of a type (R141, R144); 4-bit types are not elements of an input. -/
def elemRaw (ty x : Nat) : FVal :=
  match ty with
  | 0 => Fmt.bf16.decode x
  | 1 => Fmt.fp16.decode x
  | 2 => Fmt.fp32.decode x
  | 3 => Fmt.e4m3.decode x
  | 4 => Fmt.e5m2.decode x
  | 5 => Val.ofInt (sext 8 x)
  | 6 => Fmt.e4m3.decode x
  | 7 => Fmt.e5m2.decode x
  | 8 => Val.scale (-6) (Val.ofInt (sext 8 x))
  | 11 => Fmt.fp64.decode x
  | _ => .nan

/-- Apply an E8M0 block scale (R144). -/
def mxScale (e : Byte) (v : FVal) : FVal := if e = 0xFF#8 then .nan else Val.scale (e.toNat - 127) v

/-- Element `i` of a slice: its bytes start at the slice's start; block scales are given for the slice. -/
def sliceElem (ty : Nat) (bs scales : List Byte) (i : Nat) : FVal :=
  let n := typeBits ty / 8
  let v := elemRaw ty (leAt bs (i * n) n)
  if isMx ty then mxScale (scales.getD (i / 32) 0#8) v else v

/-- All elements of a slice. -/
def sliceElems (ty : Nat) (bs scales : List Byte) : List FVal :=
  (List.range (bs.length * 8 / typeBits ty)).map (sliceElem ty bs scales)

/-- The 4-bit element `i` of packed bytes (R147, R148). -/
def nibble (bs : List Byte) (i : Nat) : Nat :=
  let b := (bs.getD (i / 2) 0#8).toNat
  if i % 2 = 0 then b % 16 else b / 16

/-- The format an expansion targets (R101). -/
def expandFmt (xf : Nat) : Fmt :=
  match xf with
  | 0 => .bf16
  | 1 => .fp16
  | 2 => .e4m3
  | _ => .e5m2

/-- An INT4 weight with block scale and zero point, rounded to the target and kept within its finite range (R147). -/
def expandInt4 (f : Fmt) (q : Nat) (s z : Byte) : FVal :=
  match Val.mul (Val.ofInt (sext 4 q - sext 8 z.toNat)) (Fmt.e4m3.decode s.toNat) with
  | .fin neg m e =>
    let (n, w) := f.roundMag .rne 0 m e
    if f.over n w then f.maxVal neg else .fin neg n w
  | v => v

/-- Elements of a stationary slice of `n` bytes at `off` in a tile row, expanded if its type asks (R102, R147-R149). -/
def weightElems (ty xf : Nat) (table : List FVal) (len : Nat) (row : List Byte) (off n : Nat) : List FVal :=
  let trailer := row.drop len
  if ty = 9 then
    (List.range (2 * n)).map fun i =>
      let p := (2 * off + i) / 32
      expandInt4 (expandFmt xf) (nibble row (2 * off + i)) (trailer.getD (2 * p) 0#8) (trailer.getD (2 * p + 1) 0#8)
  else if ty = 10 then (List.range (2 * n)).map fun i => table.getD (nibble row (2 * off + i)) .nan
  else sliceElems ty ((row.drop off).take n) (trailer.drop (off / 32))

end Sys2Proof.Machine
end

