-- ==== Sys2Proof/Machine/Convert.lean ====
section
/-! DEFINITION. Output conversion: the descriptor (R161, R162), the conversion of one element, row and group
(R163-R168), and what the statistics count (R170). -/

namespace Sys2Proof.Machine

/-- The floating-point format of an output type; none for the integer types. -/
def outFmt (ty : Nat) : Option Fmt :=
  match ty with
  | 0 => some .bf16
  | 1 => some .fp16
  | 2 => some .fp32
  | 3 => some .e4m3
  | 4 => some .e5m2
  | 6 => some .e4m3
  | 7 => some .e5m2
  | 11 => some .fp64
  | _ => none

/-- Output types that OTYPE may name (R161). -/
def outTypeOk (ty : Nat) : Bool := decide (ty ≤ 8) || ty == 11

/-- Bytes of a converted row of `n` outputs (R163). -/
def convertedLen (ty n : Nat) : Nat := n * (typeBits ty / 8) + (if isMx ty then 16 else 0)

/-- RMODE as a rounding mode (R165). -/
def roundMode (r : Nat) : RMode := if r = 0 then .rne else if r = 1 then .rtz else .stoch

/-- A special or saturated value in a floating-point target (R168). -/
def outOver (f : Fmt) (ieee rtz neg : Bool) : FVal :=
  if !ieee || rtz then f.maxVal neg else if f.inf then .inf neg else .nan

/-- An infinity in a floating-point target (R168). -/
def outInf (f : Fmt) (ieee neg : Bool) : FVal := outOver f ieee false neg

/-- Smallest representable value not below a bound (R164 step 6). -/
def ceilRep (f : Fmt) : FVal → FVal
  | .fin neg m e =>
    let (n, q) := f.roundMag (if neg then .rtz else .away) 0 m e
    if f.over n q then f.maxVal neg else .fin neg n q
  | .inf neg => f.maxVal neg
  | .nan => .nan

/-- Largest representable value not above a bound (R164 step 6). -/
def floorRep (f : Fmt) : FVal → FVal
  | .fin neg m e =>
    let (n, q) := f.roundMag (if neg then .away else .rtz) 0 m e
    if f.over n q then f.maxVal neg else .fin neg n q
  | .inf neg => f.maxVal neg
  | .nan => .nan

/-- What the conversion of one element gives. -/
structure Converted where
  /-- the encoding written -/
  code : Nat
  /-- the written value is zero -/
  zero : Bool
  /-- the value was zero before clipping -/
  zeroBefore : Bool
  /-- it saturated (R167) -/
  sat : Bool
  deriving DecidableEq, Repr, Inhabited

/-- Steps 4-6 of R164 for a floating-point target at block exponent `x`. -/
def convertFloat (f : Fmt) (o : OcdCmd) (flushes : Bool) (x : Int) (u : Nat) (v : FVal) : Converted :=
  let (r, sat) := match Val.scale (-x) v with
    | .nan => (FVal.nan, false)
    | .inf neg => (outInf f o.ieee neg, false)
    | .fin neg m e =>
      let (n, q) := f.roundMag (roundMode o.rmode) u m e
      if f.over n q then (outOver f o.ieee (o.rmode == 1) neg, true)
      else
        let w := FVal.fin neg n q
        (if flushes then f.flush w else w, false)
  let lo := Val.scale (-x) (Fmt.fp32.decode o.lo.toNat)
  let hi := Val.scale (-x) (Fmt.fp32.decode o.hi.toNat)
  let c := if !o.clip then r else if Val.lt r lo then ceilRep f lo else if Val.lt hi r then floorRep f hi else r
  { code := f.encode c, zero := Val.isZero c, zeroBefore := Val.isZero r, sat := sat }

/-- A bound of the clip as an integer, rounded towards the inside and kept within the range. -/
def clipInt (lo hi : Int) (up : Bool) : FVal → Int
  | .fin neg m e =>
    let n := roundInt (if neg == up then .rtz else .away) 0 m e 0
    max lo (min hi (if neg then -(n : Int) else n))
  | .inf neg => if neg then lo else hi
  | .nan => 0

/-- Steps 4-6 of R164 for an integer target of range `[lo, hi]`, after scaling by `2^x`. -/
def convertInt (lo hi : Int) (o : OcdCmd) (x : Int) (u : Nat) (v : FVal) : Converted :=
  match Val.scale x v with
  | .nan => { code := 0, zero := true, zeroBefore := true, sat := false }
  | w =>
    let (r, sat) := match w with
      | .fin neg m e =>
        let n := roundInt (roundMode o.rmode) u m e 0
        let i : Int := if neg then -(n : Int) else n
        (max lo (min hi i), decide (i < lo) || decide (i > hi))
      | .inf neg => (if neg then lo else hi, false)
      | .nan => (0, false)
    let bl := Val.scale x (Fmt.fp32.decode o.lo.toNat)
    let bh := Val.scale x (Fmt.fp32.decode o.hi.toNat)
    let c := if !o.clip then r
      else if Val.lt (Val.ofInt r) bl then clipInt lo hi true bl
      else if Val.lt bh (Val.ofInt r) then clipInt lo hi false bh else r
    { code := (c % 4294967296).toNat, zero := c == 0, zeroBefore := r == 0, sat := sat }

/-- Steps 1 and 2 of R164: the scaled and biased value of an output, without the halvings. -/
def scaled (o : OcdCmd) (h : Nat) (j : Nat) (a : FVal) : FVal :=
  match a with
  | .fin _ _ _ =>
    let s := Val.scale (-(if isMx o.otype then 0 else (h : Int))) (Val.mul a (Fmt.fp32.decode o.scale.toNat))
    let b := match o.bias with
      | none => Val.zero
      | some l => Fmt.fp32.decode (l.getD j 0#32).toNat
    Val.add s b
  | v => v

/-- Largest exponent of the finite non-zero values. -/
def maxLead (vs : List FVal) : Option Int :=
  vs.foldl (fun acc v => match v with
    | .fin _ m e => if m = 0 then acc else some (match acc with
        | none => lead m e
        | some x => max x (lead m e))
    | _ => acc) none

/-- emax_elem of an MX type (R164 step 3). -/
def emaxElem (ty : Nat) : Int := if ty = 6 then 8 else if ty = 7 then 15 else 0

/-- The block exponent X of R164 step 3. -/
def blockExp (ty h : Nat) (vs : List FVal) : Int :=
  match maxLead vs with
  | none => h
  | some l => max (-127) (min 127 (l - emaxElem ty + h))

/-- One element of a block at block exponent `x`, counted as element `e` of the command. -/
def convertElem (o : OcdCmd) (x : Int) (e : Nat) (v : FVal) : Converted :=
  let u := if o.rmode = 2 then randomU o.seed o.step o.hid o.osid (e % 2 ^ 32) else 0
  match outFmt o.otype with
  | some f => convertFloat f o ((o.otype == 2 || o.otype == 11) && !o.keep && !o.strict) x u v
  | none => if o.otype = 8 then convertInt (-127) 127 o (6 - x) u v else convertInt (-128) 127 o 0 u v

/-- The counts of one element (R170). -/
def countElem (v : FVal) (c : Converted) (lost : Bool) : Counts where
  zero := if c.zero then 1 else 0
  sat := if c.sat then 1 else 0
  nonfin := if Val.isFinite v then 0 else 1
  flush := if Val.isFinite v && !Val.isZero v && c.zero && c.zeroBefore && !lost then 1 else 0
  maxexp := maxLead [v]

/-- A block (or, for a type without blocks, a run) of values: its encodings, its scale and its counts. -/
def convertBlock (o : OcdCmd) (h e0 : Nat) (vs : List FVal) : List Nat × Byte × Counts :=
  let mx := isMx o.otype
  let x := if mx then blockExp o.otype h vs else 0
  let dead := o.otype == 8 && vs.any fun v => !Val.isFinite v
  let cs := (vs.zip (List.range vs.length)).map fun p =>
    let c := convertElem o x (e0 + p.2) p.1
    if dead then (p.1, { c with code := 0, zero := true, zeroBefore := true }) else (p.1, c)
  (cs.map fun p => p.2.code,
    if dead then 0xFF#8 else BitVec.ofInt 8 (x + 127),
    cs.foldl (fun acc p => acc.plus (countElem p.1 p.2 dead)) Counts.none)

/-- A list in runs of `n`. -/
def runs {α : Type} (n : Nat) : Nat → List α → List (List α)
  | 0, _ => []
  | k + 1, l => l.take n :: runs n k (l.drop n)

/-- Convert one row of outputs, row index `m` of the command (R163, R164). -/
def convertRow (o : OcdCmd) (h m : Nat) (as : List FVal) : List Byte × Counts :=
  let vs := (as.zip (List.range as.length)).map fun p => scaled o h p.2 p.1
  let w := if isMx o.otype then 32 else as.length
  let blocks := (runs w (as.length / w) vs).zip (List.range (as.length / w))
  let rs := blocks.map fun p => convertBlock o h (m * as.length + p.2 * w) p.1
  let elems := rs.flatMap fun r => r.1.flatMap (leBytes (typeBits o.otype / 8))
  let trailer := if isMx o.otype then padTo 16 (rs.map fun r => r.2.1) else []
  (elems ++ trailer, rs.foldl (fun acc r => acc.plus r.2.2) Counts.none)

/-- Convert the rows of a group, the first having row index `m0` (R164, R170). -/
def convertGroup (o : OcdCmd) (h m0 : Nat) (rows : List (List FVal)) : List (List Byte) × Counts :=
  let rs := (rows.zip (List.range rows.length)).map fun p => convertRow o h (m0 + p.2) p.1
  (rs.map (·.1), rs.foldl (fun acc r => acc.plus r.2) Counts.none)

/-! The descriptor. -/

/-- The descriptor in 32 bytes (R161), before the bias vector, with what R162 reads beside it. -/
def ocdOf (bs : List Byte) (osid : Nat) (strict : Bool) (seed : DWord) (step hid : Word) : OcdCmd :=
  let b := leAt bs 1 1
  { otype := leAt bs 0 1, retry := fld 7 6 b, tsen := bit 5 b, clip := bit 4 b, keep := bit 3 b, ieee := bit 2 b,
    rmode := fld 1 0 b, tset := leAt bs 2 1 % 16, scale := BitVec.ofNat 32 (leAt bs 4 4), bias := none,
    lo := BitVec.ofNat 32 (leAt bs 12 4), hi := BitVec.ofNat 32 (leAt bs 16 4), sthr := leAt bs 20 2,
    adj := leAt bs 24 4, osid := osid, seed := seed, step := step, hid := hid, strict := strict }

/-- BADDR of the descriptor. -/
def ocdBias (bs : List Byte) : Nat := leAt bs 8 4

/-- A reserved field or code of the descriptor (R162, first case). -/
def ocdReserved (bs : List Byte) : Bool :=
  !outTypeOk (leAt bs 0 1) || fld 7 6 (leAt bs 1 1) == 3 || fld 1 0 (leAt bs 1 1) == 3 || fld 7 4 (leAt bs 2 1) != 0
    || leAt bs 3 1 != 0 || leAt bs 22 2 != 0 || leAt bs 28 4 != 0

/-- The other checks of R162: `n` outputs per row, `groups` groups. -/
def ocdBad (bs : List Byte) (o : OcdCmd) (n groups : Nat) : Bool :=
  let lo := Fmt.fp32.decode o.lo.toNat
  let hi := Fmt.fp32.decode o.hi.toNat
  !Val.isFinite (Fmt.fp32.decode o.scale.toNat)
    || (o.clip && (Val.isNan lo || Val.isNan hi || Val.lt hi lo))
    || (isMx o.otype && n % 32 != 0)
    || (decide (o.retry > 0) && !isMx o.otype && o.adj == 0)
    || (ocdBias bs != 0 && (ocdBias bs % 16 != 0 || !inLocal (ocdBias bs) (4 * n)))
    || (o.adj != 0 && !inLocal o.adj groups)

end Sys2Proof.Machine
end

