-- ==== Sys2Proof/Machine/Marver.lean ====
section
/-! DEFINITION. Marver: shard descriptors, the commands of queue 6, steps that are skipped, faulted or ended
(R353-R360, R363, R372, R373). -/

namespace Sys2Proof.Machine

/-! Descriptors (R355-R357). -/

def State.shard (s : State) (i : Nat) : Shard := Tbl.get Shard.none s.marver.shards i

def State.onShard (s : State) (i : Nat) (f : Shard → Shard) : State :=
  { s with marver := { s.marver with shards := Tbl.set Shard.none s.marver.shards i (f (s.shard i)) } }

/-- `n` bytes of the descriptor at offset `o`. -/
def Shard.part (x : Shard) (o n : Nat) : Nat := (x.desc.toNat / 2 ^ (8 * o)) % 2 ^ (8 * n)

namespace Shard
def wbase (x : Shard) : Nat := x.part 0 8
def gst (x : Shard) : Nat := x.part 8 8
def raddr (x : Shard) : Nat := x.part 16 8
def caddr (x : Shard) : Nat := x.part 24 8
def fmask (x : Shard) : Nat := x.part 32 8
def scr (x : Shard) : Nat := x.part 40 4
def rows (x : Shard) : Nat := x.part 44 2
def cols (x : Shard) : Nat := x.part 46 2
def flags (x : Shard) : Nat := x.part 48 1
/-- BF16 master weights -/
def bf16 (x : Shard) : Bool := bit 0 x.flags
def mom (x : Shard) : Bool := bit 1 x.flags
/-- the TYPE of R72 of the moment elements -/
def momType (x : Shard) : Nat := if bit 2 x.flags then 7 else 6
def hold (x : Shard) : Bool := bit 3 x.flags
def pub (x : Shard) : Bool := bit 4 x.flags
/-- the TYPE of R72 of the published elements -/
def pubType (x : Shard) : Nat := if bit 5 x.flags then 7 else 6
def qx (x : Shard) : Int := sext 8 (x.part 49 1)
def rtag (x : Shard) : Nat := x.part 50 2
def cid0 (x : Shard) : Nat := x.part 52 2
def nchunk (x : Shard) : Nat := x.part 54 2
def step0 (x : Shard) : Nat := x.part 56 4
def b1 (x : Shard) : Nat := x.part 64 4
def b2 (x : Shard) : Nat := x.part 68 4
def eps1 (x : Shard) : Nat := x.part 72 4
def eps (x : Shard) : Nat := x.part 76 4
def clip (x : Shard) : Nat := x.part 80 4
def lam (x : Shard) : Nat := x.part 84 4
def lrmul (x : Shard) : Nat := x.part 88 4
/-- PCENT entry `k` -/
def pcent (x : Shard) (k : Nat) : Nat := x.part (96 + 2 * k) 2

/-- Elements, and blocks of 32. -/
def elems (x : Shard) : Nat := x.rows * x.cols
def blocks (x : Shard) : Nat := x.elems / 32
/-- Record length (R356). -/
def recLen (x : Shard) : Nat := (if x.bf16 then 64 else 128) + (if x.mom then 48 else 0)
/-- Bytes of the arrival bitmap, of the scratch area and of the freeze mask (R357). -/
def bitmapLen (x : Shard) : Nat := (x.nchunk + 127) / 128 * 16
def scrLen (x : Shard) : Nat := x.bitmapLen + 8 * (x.rows + x.cols)
def maskLen (x : Shard) : Nat := (x.blocks + 7) / 8
/-- Local addresses of ACCR[i] and ACCC[j]. -/
def accr (x : Shard) (i : Nat) : Nat := x.scr + x.bitmapLen + 8 * i
def accc (x : Shard) (j : Nat) : Nat := x.accr x.rows + 8 * j
/-- The shard takes chunks of this ring and combine ID. -/
def takes (x : Shard) (tag cid : Nat) : Bool :=
  x.state != .empty && x.rtag == tag && decide (x.cid0 ≤ cid) && decide (cid < x.cid0 + x.nchunk)
end Shard

/-- A constant of the descriptor is finite and from 0 to 1, or finite and not negative. -/
def decayOk (v : Nat) : Bool :=
  let f := Fmt.fp32.decode v
  Val.isFinite f && Val.le Val.zero f && Val.le f (.fin false 1 0)
def nonNegative (v : Nat) : Bool :=
  let f := Fmt.fp32.decode v
  Val.isFinite f && Val.le Val.zero f

/-- An area at an endpoint, aligned (R358). -/
def placeOk (a align : Nat) : Bool := a % align == 0 && isEndpoint a

/-- An area of R357, which lies inside local memory if it is local (R358). -/
def areaOk (a align n : Nat) : Bool := placeOk a align && (isSys a || inLocal a n)

/-- The descriptor breaks no rule of R358, other shards apart. -/
def Shard.valid (x : Shard) : Bool :=
  fld 7 6 x.flags == 0 && x.part 60 4 == 0 && x.part 92 4 == 0 && x.part 112 16 == 0
    && (List.range 8).all (fun k => fld 14 11 (x.pcent k) == 0 && (x.pub || !bit 15 (x.pcent k)))
    && decide (1 ≤ x.rows) && decide (32 ≤ x.cols) && decide (x.cols ≤ 65504) && x.cols % 32 == 0
    && decide (1 ≤ x.nchunk) && decide (x.nchunk ≤ 4096) && decide (32 ≤ x.rtag) && decide (x.rtag ≤ 1055)
    && decide (x.cid0 + x.nchunk ≤ 4096)
    && placeOk x.wbase 16 && areaOk x.gst 16 (4 * x.elems) && placeOk x.raddr 16 && placeOk x.caddr 16 && (x.fmask == 0 || areaOk x.fmask 16 x.maskLen)
    && x.scr % 64 == 0 && inLocal x.scr x.scrLen
    && decayOk x.b1 && decayOk x.b2 && nonNegative x.eps1 && nonNegative x.eps && nonNegative x.clip
    && nonNegative x.lam && Val.isFinite (Fmt.fp32.decode x.lrmul)

/-- Another defined shard claims one of its combine IDs (R358). -/
def State.cidClash (s : State) (i : Nat) (x : Shard) : Bool :=
  s.marver.shards.any fun p => p.1 != i && p.2.state != .empty && p.2.rtag == x.rtag
    && decide (p.2.cid0 < x.cid0 + x.nchunk) && decide (x.cid0 < p.2.cid0 + p.2.nchunk)

/-! Steps. -/

/-- Set a sticky bit of MV_STAT (R377). -/
def State.setMvStat (s : State) (i : Nat) : State :=
  { s with marver := { s.marver with stat := s.marver.stat ||| BitVec.ofNat 7 (2 ^ i) } }.raise 8 0x000 i

/-- A step faults: the shard enters FAULT, the first one is recorded, and every one is reported (R373, R428). -/
def State.mvFault (s : State) (i : Nat) (code : Half) (addr : DWord) : State :=
  let s := s.onShard i fun x => { x with state := .fault, ending := false }
  let s := { s with marver := { s.marver with chunk := s.marver.chunk.filter fun (e : Nat × Option (Nat × Nat)) => e.1 != i } }
  let m := s.marver
  let s := if m.fValid then s
    else { s with marver := { m with fValid := true, fCode := code, fShard := BitVec.ofNat 8 i } }
  let s := s.raise 8 0x004 15
  if code = Code.eccUncorrected then
    s.postKiln code Source.marver [Source.marver.toNat, (loWord addr).toNat, (hiWord addr).toNat]
  else s.post code Source.marver [i]

/-- A step is skipped (R363). -/
def State.mvSkip (s : State) (i : Nat) (bad : Bool) : State :=
  let s := s.onShard i fun x => { x with state := .idle, endn := x.endn + 1#32 }
  if bad then (s.setMvStat 4).post Code.nonfiniteSeen Source.marver [i] else s

/-- A collected shard goes on: to STATS, or its step is skipped (R360, R363). -/
def State.mvGo (s : State) (i : Nat) (skip : Bool) : State :=
  let x := s.shard i
  if skip then s.mvSkip i false
  else if x.bad then s.mvSkip i true
  else s.onShard i fun x => { x with state := .stats }

/-- Judge the command that waits in Marver (R360). -/
def State.mvSettle (s : State) : State :=
  let done := fun (s : State) (seq : Option Word) => ({ s with marver := { s.marver with wait := none } }).completeIf 6 seq
  match s.marver.wait with
  | none => s
  | some (.shgo i skip seq) => if (s.shard i).state == .ready then done (s.mvGo i skip) seq else s
  | some (.shsync i target seq) =>
    let x := s.shard i
    if x.state == .fault || decide (0 ≤ (x.endn - target).toInt) then done s seq else s

/-- Release a slot that a chunk has used (R361, R362). -/
def State.mvRelease (s : State) : Option (Nat × Nat) → State
  | some (t, slot) =>
    let s := s.releaseSlot t slot
    { s with marver := { s.marver with slots := s.marver.slots.erase (t, slot) } }
  | none => s

/-- A chunk ends once its stage writes have completed: its slot is released, and the collection is complete with the last one
(R362, R363). -/
def State.mvChunkEnd (s : State) (i : Nat) (slot : Option (Nat × Nat)) : State :=
  let s := { s with marver := { s.marver with chunk := none } }.mvRelease slot
  let x := s.shard i
  if x.arr = x.nchunk then
    if x.hold then (s.onShard i fun x => { x with state := .ready }).mvSettle else (s.mvGo i false).mvSettle
  else s

/-- What has waited for the last far write of shard `i` to be acknowledged ends: a chunk (R362), or a step whose last block is
written (R365, R372). -/
def State.mvEnd (s : State) (i : Nat) : State :=
  let x := s.shard i
  if x.farOut = 0 && x.state == .armed then
    match s.marver.chunk with
    | some (j, slot) => if j = i then s.mvChunkEnd i slot else s
    | none => s
  else if x.ending && x.farOut = 0 && x.state == .update then
    (s.onShard i fun x => { x with state := .idle, ending := false, stepn := x.stepn + 1#32, endn := x.endn + 1#32 }).mvSettle
  else s

/-- The slot's shard, if any (R361). -/
def State.slotShard (s : State) (t slot : Nat) : Option Nat :=
  let cid := s.mem.mem.readLE ((s.ring t).slotAddr slot + 4) 2
  (s.marver.shards.find? fun p => p.2.takes t cid).map (·.1)

/-- Release an orphan slot (R361). -/
def State.mvOrphan (s : State) (t slot : Nat) : State :=
  let s := s.releaseSlot t slot
  ({ s with marver := { s.marver with
      slots := s.marver.slots.erase (t, slot)
      orphan := satAdd s.marver.orphan 1 } }).setMvStat 1

/-! The commands (R358-R360). -/

/-- The command at the head of queue 6 that Marver may take: none waits before it. -/
def State.head6 (s : State) : Option QueueCmd := if s.marver.wait.isNone then s.head 6 else none

/-- Act on the head of queue 6 when its opcode is `opc`; an opcode the queue does not have is BAD_COMMAND (log 8). -/
def State.on6 (s : State) (opc : Nat) (f : QueueCmd → State) : State :=
  match s.head6 with
  | none => s
  | some c => if c.opc = opc then f c
      else if decide (0x50 ≤ c.opc) && decide (c.opc ≤ 0x54) then s else s.takeFault 6 c Code.badCommand

/-- SHARD of a command. -/
def cmdShard (c : QueueCmd) : Nat := fld 15 8 (c.reg 0)

/-- SHDEF (R358, R360). -/
def execShdef (s : State) : Answer :=
  .next (s.on6 0x50 fun c =>
    let i := cmdShard c
    let a := c.reg 1
    let st := (s.shard i).state
    if c.regs.length != 2 || fld 63 16 (c.reg 0) != 0 || fld 63 32 a != 0 || a % 128 != 0 || !inLocal a 128
        || !(st == .empty || st == .idle || st == .fault) then s.takeFault 6 c Code.badCommand
    else if !s.may 0x52 .loc false then s.takeFault 6 c Code.accessDenied
    else
      let (bs, bad, s) := s.lread a 128
      match bad with
      | some w => ((s.noteEcc Source.marver w).take 6 c).stopQueue 6 Code.eccUncorrected c.opc c.seq
          (some [Source.marver.toNat, w])
      | none =>
        let x := { Shard.none with state := .idle, desc := BitVec.ofNat 1024 (ofLE bs), ord := (s.shard i).ord }
        let x := { x with stepn := BitVec.ofNat 32 x.step0 }
        if !x.valid || s.cidClash i x then s.takeFault 6 c Code.badCommand
        else (((s.take 6 c).forgetFar (FarUse.ofMarver (some i))).onShard i fun _ => x).complete 6 c.seq)

/-- The ring of a shard lets it collect (R360). -/
def State.ringFits (s : State) (x : Shard) : Bool :=
  let r := s.ring x.rtag
  r.state == RingState.opened && r.type == RingType.update && r.elem % 32 == 0
    && decide ((x.nchunk - 1) * r.elem < x.elems) && decide (x.elems ≤ x.nchunk * r.elem)

/-- SHARM (R360): the scratch area is zeroed; when the write is denied the shard faults (R373). -/
def execSharm (s : State) : Answer :=
  .next (s.on6 0x51 fun c =>
    let i := cmdShard c
    let x := s.shard i
    if c.regs.length != 1 || fld 63 16 (c.reg 0) != 0 || x.state != .idle || !s.ringFits x then
      s.takeFault 6 c Code.badCommand
    else
      let s := s.take 6 c
      let s := if s.may 0x52 .loc true then
          (s.lzero x.scr x.scrLen).onShard i fun x => { x with state := .armed, arr := 0, bad := false, pubSkip := 0#8 }
        else s.mvFault i Code.accessDenied (BitVec.ofNat 64 x.scr)
      s.complete 6 c.seq)

/-- SHGO (R360). -/
def execShgo (s : State) : Answer :=
  .next (s.on6 0x52 fun c =>
    let i := cmdShard c
    let st := (s.shard i).state
    if c.regs.length != 1 || fld 63 17 (c.reg 0) != 0 || !(st == .ready || st == .armed) then
      s.takeFault 6 c Code.badCommand
    else
      let s := s.take 6 c
      { s with marver := { s.marver with wait := some (.shgo i (bit 16 (c.reg 0)) (some c.seq)) } }.mvSettle)

/-- SHSYNC (R360). -/
def execShsync (s : State) : Answer :=
  .next (s.on6 0x53 fun c =>
    let i := cmdShard c
    if c.regs.length != 1 || fld 31 16 (c.reg 0) != 0 || (s.shard i).state == .empty then
      s.takeFault 6 c Code.badCommand
    else
      let s := s.take 6 c
      { s with marver := { s.marver with
        wait := some (.shsync i (BitVec.ofNat 32 (fld 63 32 (c.reg 0))) (some c.seq)) } }.mvSettle)

/-- SHDROP (R360): the held slots of the shard are released as orphans. -/
def execShdrop (s : State) : Answer :=
  .next (s.on6 0x54 fun c =>
    let i := cmdShard c
    let st := (s.shard i).state
    if c.regs.length != 1 || fld 63 16 (c.reg 0) != 0 || !(st == .idle || st == .fault) then
      s.takeFault 6 c Code.badCommand
    else
      let mine := s.marver.slots.filter fun p => s.slotShard p.1 p.2 == some i
      let s := ((s.take 6 c).forgetFar (FarUse.ofMarver (some i))).onShard i fun x => { Shard.none with ord := x.ord }
      (mine.foldl (fun s p => s.mvOrphan p.1 p.2) s).complete 6 c.seq)

end Sys2Proof.Machine
end

