-- ==== Sys2Proof/Machine/ArrayArith.lean ====
section
/-! DEFINITION. The arithmetic of the matrix arrays: classes (R97), the fast window and the strict sequence
(R151-R155), split pieces (R157-R160) and zero gating (R136, R137). -/

namespace Sys2Proof.Machine

/-- Tag codes (R97). -/
def ClassTag.code : ClassTag → Nat
  | .none => 0
  | .h => 1
  | .f8 => 2
  | .i8 => 3
  | .s32 => 4
  | .w64 => 5

/-- A full-load class (R105). -/
def ClassTag.full (c : ClassTag) : Bool := c == .s32 || c == .w64

/-- Classes with two products in a cell (R99). -/
def ClassTag.narrow (c : ClassTag) : Bool := c == .f8 || c == .i8

/-- The class of an input type; NONE for a type that no array command takes (R97, R98). -/
def inputClass (ty : Nat) : ClassTag :=
  match ty with
  | 0 => .h
  | 1 => .h
  | 2 => .s32
  | 3 => .f8
  | 4 => .f8
  | 5 => .i8
  | 6 => .f8
  | 7 => .f8
  | 8 => .i8
  | 11 => .w64
  | _ => .none

/-- The class of a stationary source with its expansion (R97). -/
def weightClass (ty xf : Nat) : ClassTag := if ty = 9 ∨ ty = 10 then (if xf < 2 then .h else .f8) else inputClass ty

/-- Weight rows K and columns N (R97). -/
def ClassTag.k : ClassTag → Nat
  | .f8 => 64
  | .i8 => 64
  | .w64 => 16
  | _ => 32

def ClassTag.n : ClassTag → Nat
  | .w64 => 16
  | _ => 32

/-- Bytes of an input slice (R97). -/
def ClassTag.inSlice (c : ClassTag) (trans : Bool) : Nat :=
  match c with
  | .s32 => 128
  | .w64 => 128
  | .h => 64
  | _ => if trans then 32 else 64

/-- Bytes of the slice that LDW reads of a tile row (R97). -/
def ClassTag.loadSlice (c : ClassTag) (ty : Nat) : Nat :=
  if ty = 9 ∨ ty = 10 then (if c == .h then 16 else 32) else if c.full then 128 else 64

/-- Outputs of a row (R97). -/
def ClassTag.outs (c : ClassTag) (trans : Bool) : Nat := if trans then c.k else c.n

/-- Input elements of a row (R110, R111). -/
def ClassTag.ins (c : ClassTag) (trans : Bool) : Nat := if trans then c.n else c.k

/-- The accumulator's format (R113). -/
def ClassTag.accFmt (c : ClassTag) : Fmt := if c == .w64 then .fp64 else .fp32

/-- The window width W of R152. -/
def ClassTag.window (c : ClassTag) : Nat := if c == .w64 then 160 else 48

/-- Passes of an input row (R97). -/
def ClassTag.passes (c : ClassTag) (spl : Bool) : Nat :=
  match c with
  | .s32 => if spl then 4 else 3
  | .w64 => if spl then 9 else 6
  | _ => 1

/-- A weight of a stationary set; a row or column that is absent holds zero (R100). -/
def StationarySet.weight (w : StationarySet) (k n : Nat) : FVal := (Tbl.get [] w.rows k).getD n Val.zero

/-! Groups. -/

/-- The special value of a group's products, if it has one (R151). -/
def groupSpecial (ps : List FVal) : Option FVal :=
  let pos := ps.any fun p => p == .inf false
  let neg := ps.any fun p => p == .inf true
  if ps.any Val.isNan || (pos && neg) then some .nan
  else if pos then some (.inf false) else if neg then some (.inf true) else none

/-- The truncated sum of a group of finite products in its window (R152). -/
def windowSum (w : Nat) (ps : List FVal) : FVal :=
  match maxLead ps with
  | none => .fin (ps.all Val.sign) 0 0
  | some l =>
    let q := l - w + 1
    let s := ps.foldl (fun (acc : Int) p => match p with
      | .fin neg m e => let t : Int := shiftTo m e q; if neg then acc - t else acc + t
      | _ => acc) 0
    .fin (decide (s < 0)) s.natAbs q

/-- Add a group to an accumulator value in fast arithmetic mode (R152, R154). -/
def fastAdd (f : Fmt) (w : Nat) (acc : FVal) (ps : List FVal) (special : Option FVal) : FVal :=
  match special with
  | some v => Val.add acc v
  | none => f.flush (f.rnd (Val.add acc (windowSum w ps)))

/-- The strict sequence of fused multiply-adds (R155). -/
def strictSum (f : Fmt) (acc : FVal) (ps : List FVal) : FVal := ps.foldl (fun a p => f.rnd (Val.add p a)) acc

/-! Pieces (R157, R159): an infinity or NaN stays whole. -/

def pieceHi : FVal → FVal
  | .fin n m e => .fin n (m >>> 12) (e + 12)
  | v => v

def pieceLo : FVal → FVal
  | .fin n m e => .fin n (m % 2 ^ 12) e
  | v => v

def pieceA : FVal → FVal
  | .fin n m e => .fin n (m >>> 35) (e + 35)
  | v => v

def pieceB : FVal → FVal
  | .fin n m e => .fin n ((m >>> 17) % 2 ^ 18) (e + 17)
  | v => v

def pieceC : FVal → FVal
  | .fin n m e => .fin n (m % 2 ^ 17) e
  | v => v

/-- The passes of a class in their order: what each makes of the input and of the weight (R158, R159). -/
def ClassTag.passList (c : ClassTag) (spl : Bool) : List ((FVal → FVal) × (FVal → FVal)) :=
  match c with
  | .s32 =>
    if spl then [(pieceLo, pieceLo), (pieceHi, pieceLo), (pieceLo, pieceHi), (pieceHi, pieceHi)]
    else [(pieceHi, pieceLo), (pieceLo, pieceHi), (pieceHi, pieceHi)]
  | .w64 =>
    if spl then [(pieceC, pieceC), (pieceB, pieceC), (pieceC, pieceB), (pieceC, pieceA), (pieceB, pieceB),
      (pieceA, pieceC), (pieceB, pieceA), (pieceA, pieceB), (pieceA, pieceA)]
    else [(pieceC, pieceA), (pieceB, pieceB), (pieceA, pieceC), (pieceB, pieceA), (pieceA, pieceB), (pieceA, pieceA)]
  | _ => [(id, id)]

/-- An operand as the mode takes it: fast mode takes subnormal FP32 and FP64 operands as zeros (R157, R159). -/
def operand (c : ClassTag) (strict : Bool) (v : FVal) : FVal := if c.full && !strict then c.accFmt.flush v else v

/-- A position is gated: one operand is zero and the other finite (R136). -/
def gatedPair (x w : FVal) : Bool := (Val.isZero x && Val.isFinite w) || (Val.isZero w && Val.isFinite x)

/-- How an array command computes (R110, R111, R116, R125). -/
structure ArrayMode where
  cls : ClassTag
  spl : Bool
  strict : Bool
  trans : Bool
  deriving DecidableEq, Repr, Inhabited

/-- The operand pairs of output `j` (R110, R111). -/
def outPairs (md : ArrayMode) (w : StationarySet) (x : List FVal) (j : Nat) : List (FVal × FVal) :=
  (List.range (md.cls.ins md.trans)).map fun i =>
    (operand md.cls md.strict (x.getD i Val.zero),
      operand md.cls md.strict (if md.trans then w.weight j i else w.weight i j))

/-- One output from its initial value (R152, R155, R158-R160). -/
def outValue (md : ArrayMode) (pairs : List (FVal × FVal)) (init : FVal) : FVal :=
  let f := md.cls.accFmt
  let whole := pairs.map fun p => Val.mul p.1 p.2
  if md.strict then strictSum f init whole
  else
    let special := groupSpecial whole
    (md.cls.passList md.spl).foldl (fun acc pw =>
      fastAdd f md.cls.window acc (pairs.map fun p => Val.mul (pw.1 p.1) (pw.2 p.2)) special) (f.flush init)

/-- Gated positions of an output over all passes (R137). -/
def outGated (md : ArrayMode) (pairs : List (FVal × FVal)) : Nat :=
  (md.cls.passList md.spl).foldl (fun n pw => n + (pairs.filter fun p => gatedPair (pw.1 p.1) (pw.2 p.2)).length) 0

/-- The outputs of an input row, and its gated positions. -/
def rowOutputs (md : ArrayMode) (w : StationarySet) (x init : List FVal) : List FVal × Nat :=
  let ps := (List.range (md.cls.outs md.trans)).map fun j => (outPairs md w x j, init.getD j Val.zero)
  (ps.map fun p => outValue md p.1 p.2, ps.foldl (fun n p => n + outGated md p.1) 0)

/-! Accumulators (R113). -/

def accAddr (a row : Nat) : Nat := a * 4096 + row * 128

/-- An accumulator row as values of a format. -/
def MatrixEngine.accRow (m : MatrixEngine) (f : Fmt) (a row : Nat) : List FVal :=
  (List.range (128 / f.bytes)).map fun j => f.decode (m.acc.readLE (accAddr a row + j * f.bytes) f.bytes)

/-- Write values into an accumulator row. -/
def MatrixEngine.setAccRow (m : MatrixEngine) (f : Fmt) (a row : Nat) (vs : List FVal) : MatrixEngine :=
  { m with acc := m.acc.writeBytes (accAddr a row) (vs.flatMap fun v => leBytes f.bytes (f.encode v)) }

/-- Zero a whole accumulator, or some of its rows. -/
def MatrixEngine.zeroAcc (m : MatrixEngine) (a row n : Nat) : MatrixEngine :=
  { m with acc := m.acc.zero (accAddr a row) (128 * n) }

/-- The outputs of a row into an accumulator, and beyond 32 into the next one (R116, R126). -/
def MatrixEngine.setOutputs (m : MatrixEngine) (f : Fmt) (a row : Nat) (vs : List FVal) : MatrixEngine :=
  let n := 128 / f.bytes
  let m := m.setAccRow f a row (vs.take n)
  if vs.length > n then m.setAccRow f (a + 1) row (vs.drop n) else m

/-- The row of outputs as they stand, over one accumulator or two. -/
def MatrixEngine.getOutputs (m : MatrixEngine) (f : Fmt) (a row : Nat) (two : Bool) : List FVal :=
  m.accRow f a row ++ (if two then m.accRow f (a + 1) row else [])

end Sys2Proof.Machine
end

