-- ==== Sys2Proof/Machine/VectorArith.lean ====
section
/-! DEFINITION. The vector engine's types, operations, element programs and reductions (R179-R195). -/

namespace Sys2Proof.Machine

/-- TY codes (R179), and the CVT targets in terms of them (R181). -/
inductive VType where
  | fp32 | bf16 | int32 | int16 | int8 | fp16 | e4m3 | e5m2
  deriving DecidableEq, Repr, Inhabited

def VType.of : Nat → VType
  | 0 => .fp32
  | 1 => .bf16
  | 2 => .int32
  | 3 => .int16
  | 4 => .int8
  | 5 => .fp16
  | 6 => .e4m3
  | _ => .e5m2

/-- The target of CVT code `n`, in the order of FUNC (R181, R188). -/
def VType.target : Nat → VType
  | 0 => .fp32
  | 1 => .bf16
  | 2 => .fp16
  | 3 => .e4m3
  | 4 => .e5m2
  | 5 => .int32
  | 6 => .int16
  | _ => .int8

def VType.size : VType → Nat
  | .fp32 => 4
  | .int32 => 4
  | .bf16 => 2
  | .int16 => 2
  | .fp16 => 2
  | _ => 1

def VType.width (t : VType) : Nat := 8 * t.size

/-- Lane width W (R175, R179). -/
def VType.lanes (t : VType) : Nat := if t.size = 4 then 128 else if t.size = 2 then 256 else 512

def VType.fmt : VType → Option Fmt
  | .fp32 => some .fp32
  | .bf16 => some .bf16
  | .fp16 => some .fp16
  | .e4m3 => some .e4m3
  | .e5m2 => some .e5m2
  | _ => none

def VType.isInt (t : VType) : Bool := t == .int32 || t == .int16 || t == .int8

/-- FP32 and BF16 (R181). -/
def VType.isFloat (t : VType) : Bool := t == .fp32 || t == .bf16

/-- "Any arithmetic" of R181. -/
def VType.isArith (t : VType) : Bool := t.isInt || t.isFloat

/-- The value of an element. -/
def VType.value (t : VType) (x : Nat) : FVal :=
  match t.fmt with
  | some f => f.decode x
  | none => Val.ofInt (sext t.width x)

/-- Which sources an operation uses. -/
def funcArity (f : Nat) : Nat :=
  if f = 0x13 || f = 0x23 then 3
  else if (decide (0x01 ≤ f) && decide (f ≤ 0x0B)) || (decide (0x10 ≤ f) && decide (f ≤ 0x12))
      || (decide (0x20 ≤ f) && decide (f ≤ 0x25)) || f = 0x39 || f = 0x3A then 2
  else if f = 0x3B then 0 else 1

/-- FUNC is defined and allows the type (R181). -/
def funcAllows (f : Nat) (t : VType) : Bool :=
  if decide (0x01 ≤ f) && decide (f ≤ 0x0B) then t.isInt
  else if decide (0x10 ≤ f) && decide (f ≤ 0x13) then t.isArith
  else if (decide (0x20 ≤ f) && decide (f ≤ 0x25)) || (decide (0x28 ≤ f) && decide (f ≤ 0x2B)) then t.isFloat
  else if decide (0x30 ≤ f) && decide (f ≤ 0x3A) then true
  else f == 0x3B && t == .int32

/-- FUNC takes SAT (R182). -/
def funcSat (f : Nat) : Bool := (decide (0x01 ≤ f) && decide (f ≤ 0x03)) || (decide (0x30 ≤ f) && decide (f ≤ 0x37))

/-- A result with the warnings it raises: a clamp (ISAT) and a NaN from operands that are not NaN (INV). -/
structure VRes where
  bits : Nat
  isat : Bool
  inv : Bool
  deriving DecidableEq, Repr, Inhabited

def VRes.of (b : Nat) : VRes := ⟨b, false, false⟩

/-- An integer result: wrapped, or clamped to the type (R182). -/
def intRes (w : Nat) (sat : Bool) (i : Int) : VRes :=
  let hi : Int := 2 ^ (w - 1) - 1
  let lo : Int := -(2 ^ (w - 1))
  if sat && (decide (i > hi) || decide (i < lo)) then ⟨((if i > hi then hi else lo) % (2 ^ w : Nat)).toNat, true, false⟩
  else VRes.of (i % (2 ^ w : Nat)).toNat

/-- Integer operations 0x01-0x0B on `w`-bit operands (R181, R182). -/
def intOp (w f : Nat) (sat : Bool) (a b : Nat) : VRes :=
  let sa := sext w a
  let sb := sext w b
  match f with
  | 0x01 => intRes w sat (sa + sb)
  | 0x02 => intRes w sat (sa - sb)
  | 0x03 => intRes w sat (sa * sb)
  | 0x04 => VRes.of ((a <<< (b % w)) % 2 ^ w)
  | 0x05 => VRes.of (a >>> (b % w))
  | 0x06 => intRes w false (sa / (2 ^ (b % w) : Nat))
  | 0x07 => VRes.of (a &&& b)
  | 0x08 => VRes.of (a ||| b)
  | 0x09 => VRes.of (a ^^^ b)
  | 0x0A => VRes.of (if sa ≤ sb then a else b)
  | _ => VRes.of (if sa ≤ sb then b else a)

/-- Floating operations 0x20-0x2B: the exact or approximated value before the final rounding (R183, R184). -/
def floatOp (f : Nat) (a b c : FVal) : FVal :=
  match f with
  | 0x20 => Val.add a b
  | 0x21 => Val.add a (Val.neg b)
  | 0x22 => Val.mul a b
  | 0x23 => Val.add (Val.mul a b) c
  | 0x24 => Val.min2 a b
  | 0x25 => Val.max2 a b
  | 0x28 => Approx.round16 (Approx.exp2 a)
  | 0x29 => Approx.round16 (Approx.log2 a)
  | 0x2A => Approx.round16 (Approx.rcp a)
  | _ => Approx.round16 (Approx.rsq a)

/-- Comparisons 0x10-0x12 (R181, R183). -/
def compare (t : VType) (f : Nat) (a b : FVal) : Bool :=
  if t.isInt then (match f with
    | 0x10 => Val.cmp a b == 0
    | 0x11 => decide (Val.cmp a b < 0)
    | _ => decide (Val.cmp a b ≤ 0))
  else (match f with
    | 0x10 => Val.eq a b
    | 0x11 => Val.lt a b
    | _ => Val.le a b)

/-- A floating operation 0x20-0x2B rounded to `f`, with the INV warning (R183, R184). -/
def floatRes (f : Fmt) (func : Nat) (a b c : FVal) : VRes :=
  let arity := funcArity func
  let nanIn := Val.isNan a || (decide (arity ≥ 2) && Val.isNan b) || (decide (arity ≥ 3) && Val.isNan c)
  let r := floatOp func a b c
  ⟨f.encode (if func ≥ 0x28 then Approx.round f r else f.rnd r), false, Val.isNan r && !nanIn⟩

/-- An element-wise operation 0x01-0x2B on elements of a type (R181-R184). -/
def elemOp (t : VType) (f : Nat) (sat : Bool) (a b c : Nat) : VRes :=
  if f ≤ 0x0B then intOp t.width f sat a b
  else if f ≤ 0x12 then VRes.of (if compare t f (t.value a) (t.value b) then 2 ^ t.width - 1 else 0)
  else if f = 0x13 then VRes.of (if a != 0 then b else c)
  else
    floatRes (t.fmt.getD .fp32) f (t.value a) (t.value b) (t.value c)

/-- A conversion (R185), `u` the random value of R166; a NaN from a value that is none sets INV (R183). -/
def convert (dst : VType) (rm : Nat) (sat : Bool) (u : Nat) (v : FVal) : VRes :=
  let o : OcdCmd := { (default : OcdCmd) with ieee := !sat, rmode := rm, clip := false }
  match dst.fmt with
  | some f =>
    let r := (convertFloat f o false 0 u v).code
    ⟨r, false, Val.isNan (f.decode r) && !Val.isNan v⟩
  | none => VRes.of ((convertInt (-(2 ^ (dst.width - 1))) (2 ^ (dst.width - 1) - 1) o 0 u v).code % 2 ^ dst.width)

/-! Element programs. -/

/-- Operation word `k` of a program image (R188, R189). -/
def progWord (img : List Byte) (k : Nat) : Nat := leWord img k

/-- TY of an operation word (R189). -/
def progType (w : Nat) : VType := if fld 10 9 w = 0 then .fp32 else if fld 10 9 w = 1 then .bf16 else .int32

/-- The types and arity an operation word must respect (R189, R182). -/
def progWordBad (w : Nat) : Bool :=
  let f := fld 31 26 w
  let n := funcArity f
  decide (f > 0x2B) || f == 0 || fld 10 9 w == 3 || !funcAllows f (progType w) || fld 7 0 w != 0
    || (bit 8 w && !funcSat f)
    || (decide (n < 2) && fld 18 15 w != 0) || (decide (n < 3) && fld 14 11 w != 0)

/-- An image breaks R188 or R189. -/
def progBad (img : List Byte) : Bool :=
  let nops := leAt img 76 1
  nops == 0 || decide (nops > 16) || decide (leAt img 77 1 > 7) || decide (leAt img 75 1 > 7)
    || decide (leAt img 72 1 > 7) || decide (leAt img 73 1 > 7) || decide (leAt img 74 1 > 7)
    || decide (leAt img 78 1 > 7) || fld 2 1 (leAt img 78 1) == 3 || !allZero (img.drop 79)
    || (List.range 16).any fun k => if k < nops then progWordBad (progWord img k) else progWord img k != 0

/-- A program uses source code `code` somewhere. -/
def progUses (img : List Byte) (code : Nat) : Bool :=
  (List.range (leAt img 76 1)).any fun k =>
    let w := progWord img k
    let n := funcArity (fld 31 26 w)
    (decide (n ≥ 1) && fld 22 19 w == code) || (decide (n ≥ 2) && fld 18 15 w == code) || (decide (n ≥ 3) && fld 14 11 w == code)

/-- The type of the value a program writes out: that of the last operation that writes x[OUTX]; FP32 when none does
(log 11: R190 does not say whether a scratch value is read as FP32 or INT32). -/
def progOutType (img : List Byte) : VType :=
  (List.range (leAt img 76 1)).foldl (fun t k =>
    let w := progWord img k
    if fld 25 23 w = leAt img 77 1 then (if fld 10 9 w = 2 then .int32 else .fp32) else t) .fp32

/-- An input converted to its scratch form: FP32, or INT32 sign-extended (R190 step 2). -/
def scratchIn (t : VType) (x : Nat) : Nat :=
  match t.fmt with
  | some f => Fmt.fp32.encode (f.decode x)
  | none => (sext t.width x % (2 ^ 32 : Nat)).toNat

/-- One operation on scratch values: operands are FP32 or INT32 patterns, a BF16 operation rounds to BF16 and stores
the equal FP32 value (R190 step 3). -/
def scratchOp (w a b c : Nat) : VRes :=
  let f := fld 31 26 w
  let t := progType w
  if t == .bf16 && decide (f ≥ 0x20) then
    let r := floatRes .bf16 f (Fmt.fp32.decode a) (Fmt.fp32.decode b) (Fmt.fp32.decode c)
    { r with bits := Fmt.fp32.encode (Fmt.bf16.decode r.bits) }
  else elemOp (if t == .int32 then .int32 else .fp32) f (bit 8 w) a b c

/-- A source of an operation word (R189). -/
def scratchSrc (img : List Byte) (xs ins : List Nat) (i k0 k1 code : Nat) : Nat :=
  if code < 8 then xs.getD code 0
  else if code < 11 then ins.getD (code - 8) 0
  else match code with
    | 11 => i % 2 ^ 32
    | 12 => leAt img 64 4
    | 13 => leAt img 68 4
    | 14 => k0
    | _ => k1

/-- Run operations `k` onwards for one element; the result is the scratch values and the warnings. -/
def progRun (img : List Byte) (ins : List Nat) (i k0 k1 : Nat) : Nat → Nat → List Nat → Bool → Bool →
    List Nat × Bool × Bool
  | 0, _, xs, isat, inv => (xs, isat, inv)
  | n + 1, k, xs, isat, inv =>
    let w := progWord img k
    let src := scratchSrc img xs ins i k0 k1
    let r := scratchOp w (src (fld 22 19 w)) (src (fld 18 15 w)) (src (fld 14 11 w))
    progRun img ins i k0 k1 n (k + 1) (xs.set (fld 25 23 w) r.bits) (isat || r.isat) (inv || r.inv)

/-! Reductions. -/

/-- fadd32 of two partial sums, with the INV warnings raised on the way (R183). -/
def fadd32 (a b : VRes) : VRes :=
  let r := floatRes .fp32 0x20 (Fmt.fp32.decode a.bits) (Fmt.fp32.decode b.bits) .nan
  { r with inv := r.inv || a.inv || b.inv }

/-- One halving of the partial sums (R193). -/
def pairSums : List VRes → List VRes
  | a :: b :: rest => fadd32 a b :: pairSums rest
  | l => l

/-- SUM of a floating-point segment in the fixed order of R193, elements as FP32 patterns. -/
def sum32 (xs : List Nat) : VRes :=
  let p := (List.range 128).map fun l =>
    ((xs.zip (List.range xs.length)).filter fun q => q.2 % 128 == l).foldl (fun acc q => fadd32 acc (VRes.of q.1))
      (VRes.of 0x80000000)
  (Nat.repeat pairSums 7 p).headD (VRes.of 0)

/-- The integer a term of XSUM contributes (R194). -/
def xterm (sx : Int) (v : FVal) : Int :=
  match v with
  | .fin neg m e =>
    let n : Int := roundInt .rtz 0 m (e - sx) 0
    if neg then -n else n
  | _ => 0

/-- A result record (R192). -/
structure RedRecord where
  isum : Int
  value : Nat
  index : Nat
  ovf : Bool
  nonfin : Bool
  nan : Bool
  deriving DecidableEq, Repr, Inhabited

def RedRecord.bytes (r : RedRecord) : List Byte :=
  leBytes 8 (r.isum % (2 ^ 64 : Nat)).toNat ++ leBytes 4 r.value ++ leBytes 2 r.index
    ++ [BitVec.ofNat 8 (flag 0 r.ovf + flag 1 r.nonfin + flag 2 r.nan), 0#8]

/-- XSUM (R194): ISUM is the sum clamped to the signed 64-bit range, also when only a term reaches 2^63 (log 64). -/
def xsum (sx : Int) (vs : List FVal) : RedRecord :=
  match groupSpecial vs with
  | some v => { isum := 0, value := Fmt.fp32.encode v, index := 0, ovf := false, nonfin := true, nan := Val.isNan v }
  | none =>
    let ts := vs.map (xterm sx)
    let sum := ts.foldl (· + ·) 0
    let hi : Int := 2 ^ 63 - 1
    let lo : Int := -(2 ^ 63)
    let ovf := decide (sum > hi) || decide (sum < lo) || ts.any fun t => decide (t.natAbs ≥ 2 ^ 63)
    let isum := if sum > hi then hi else if sum < lo then lo else sum
    { isum := isum, value := Fmt.fp32.encode (Fmt.fp32.rnd (Val.scale sx (Val.ofInt isum))), index := 0, ovf := ovf,
      nonfin := false, nan := false }

/-- The extreme of a segment by an order, with its lowest index (R195). -/
def extreme (better : FVal → FVal → Bool) : List FVal → Nat → FVal × Nat → FVal × Nat
  | [], _, best => best
  | v :: rest, j, best => extreme better rest (j + 1) (if better v best.1 then (v, j) else best)

/-- `a` above `b` with -0 below +0 (R183, R195). -/
def above (a b : FVal) : Bool :=
  decide (Val.cmp a b > 0) || (Val.cmp a b == 0 && !Val.sign a && Val.sign b && Val.isZero a)

/-- A value as VALUE holds it: FP32, or saturated INT32 (R192). -/
def redValue (t : VType) (v : FVal) : Nat :=
  if t.isInt then
    match v with
    | .fin neg m e =>
      let i : Int := if neg then -(shiftTo m e 0 : Int) else shiftTo m e 0
      (max (-(2 ^ 31)) (min (2 ^ 31 - 1) i) % (2 ^ 32 : Nat)).toNat
    | _ => 0
  else Fmt.fp32.encode v

/-- Reduce one segment (R191-R195). -/
def reduce (t : VType) (func : Nat) (sx : Int) (vs : List FVal) : RedRecord :=
  let nonfin := vs.any fun v => !Val.isFinite v
  match func with
  | 0 =>
    if t.isInt then
      let s := (vs.map (Val.toInt 0)).foldl (· + ·) 0
      { isum := s, value := redValue t (Val.ofInt s), index := 0, ovf := false, nonfin := false, nan := false }
    else
      let v := (sum32 (vs.map Fmt.fp32.encode)).bits
      { isum := 0, value := v, index := 0, ovf := false, nonfin := nonfin, nan := Val.isNan (Fmt.fp32.decode v) }
  | 1 => xsum sx vs
  | _ =>
    let nan := vs.findIdx? Val.isNan
    let better := if func = 3 then fun a b => above b a else above
    let best := extreme better (vs.drop 1) 1 (vs.headD Val.zero, 0)
    match nan with
    | some j => { isum := 0, value := Fmt.fp32.nan, index := if func = 4 then j else 0, ovf := false, nonfin := false, nan := true }
    | none => { isum := 0, value := redValue t best.1, index := if func = 4 then best.2 else 0, ovf := false, nonfin := false,
                nan := false }

/-- A reduction makes a NaN of operands that are none (R183; log 125): an addition of a SUM, or an XSUM of infinities of both
signs. -/
def reduceInv (t : VType) (func : Nat) (vs : List FVal) : Bool :=
  !t.isInt && match func with
    | 0 => (sum32 (vs.map Fmt.fp32.encode)).inv
    | 1 => !vs.any Val.isNan && vs.any (fun v => Val.isInf v && Val.sign v) && vs.any fun v => Val.isInf v && !Val.sign v
    | _ => false

end Sys2Proof.Machine
end

