-- ==== Sys2Proof/Machine/MarverRun.lean ====
section
/-! DEFINITION. Marver's work: chunks, the statistics phase, the update pass and publication (R361-R372, R376). -/

namespace Sys2Proof.Machine

/-! Binary32 on encodings (R183). -/
namespace F32
def dec (a : Nat) : FVal := Fmt.fp32.decode a
def enc (v : FVal) : Nat := Fmt.fp32.encode (Fmt.fp32.rnd v)
def add (a b : Nat) : Nat := enc (Val.add (dec a) (dec b))
def sub (a b : Nat) : Nat := enc (Val.add (dec a) (Val.neg (dec b)))
def mul (a b : Nat) : Nat := enc (Val.mul (dec a) (dec b))
def div (a b : Nat) : Nat := enc (Val.div (dec a) (dec b))
/-- `a * b + c`, rounded once -/
def fma (a b c : Nat) : Nat := enc (Val.add (Val.mul (dec a) (dec b)) (dec c))
def sqrt (a : Nat) : Nat := enc (Val.sqrt (dec a))
/-- fscale -/
def scale (a : Nat) (x : Int) : Nat := enc (Val.scale x (dec a))
/-- fcvt of an unsigned integer -/
def cvt (n : Nat) : Nat := enc (.fin false n 0)
def one : Nat := 0x3F800000
def finite (a : Nat) : Bool := Val.isFinite (dec a)
end F32

/-! Reads and writes as master 0x52 (R353, R407, R418). -/

/-- What a read answers: bytes; a wait for a READ record of a replay; a fault; or a replay that failed. -/
inductive MvGot where
  | ok (bs : List Byte) (s : State)
  | wait
  | bad (code : Half) (addr : DWord) (s : State)
  | stop (s : State)
  deriving Inhabited

/-- The source number of a shard's volatile reads (R408). -/
def shardSrc (i : Nat) : Nat := 0x1000 + i

/-- One piece of a far read: a volatile one is journalled, or served from its READ record in a replay. -/
def State.mvPiece (s : State) (i : Nat) (far : FarReply) (p n : Nat) : MvGot :=
  if !s.isVolatile p then .ok (replyBytes far p n) s
  else
    let ord := (s.shard i).ord
    let next := fun (s : State) => s.onShard i fun x => { x with ord := x.ord + 1 }
    match s.serveRead (shardSrc i) ord p n with
    | .live => let bs := replyBytes far p n; .ok bs ((next s).jread (shardSrc i) ord p bs)
    | .wait => .wait
    | .data bs s => .ok bs (next s)
    | .mismatch s => .stop s

/-- A far read in pieces that cross no 256-byte boundary (R407, R463). -/
def State.mvFar (i : Nat) (far : FarReply) : Nat → Nat → Nat → List Byte → State → MvGot
  | 0, _, _, acc, s => .ok acc s
  | k + 1, p, n, acc, s =>
    if n = 0 then .ok acc s
    else
      let m := min n (256 - p % 256)
      match s.mvPiece i far p m with
      | .ok bs s => s.mvFar i far k (p + m) (n - m) (acc ++ bs)
      | r => r

/-- Master 0x52 may access `n` bytes at an address: in local memory, or far memory by the region each transfer falls in; no
other address names anything (R353, R449, R479). -/
def State.mvMay (s : State) (a n : Nat) (write : Bool) : Bool :=
  if isLoc a then inLocal a n && s.may 0x52 .loc write else isSys a && s.farMay 0x52 (sysBits a) n write

/-- Read `n` bytes at an endpoint for shard `i`. -/
def State.mvRead (s : State) (i : Nat) (far : FarReply) (a n : Nat) : MvGot :=
  if !s.mvMay a n false then .bad Code.accessDenied (BitVec.ofNat 64 a) s
  else if isLoc a then
    let (bs, bad, s) := s.lread a n
    match bad with
    | some w => .bad Code.eccUncorrected (BitVec.ofNat 64 w) (s.eccAddr w)
    | none => .ok bs s
  else
    let p := sysBits a
    match farCode (farErrIn far p n) with
    | none => s.mvFar i far (n / 16 + 2) p n []
    | some code => .bad code (BitVec.ofNat 64 a) s

/-- Issue a shard's far writes; none when tags run out (R463). -/
def State.mvIssue (i : Nat) : List (Nat × List Byte) → State → Option State
  | [], s => some s
  | (p, bs) :: rest, s =>
    match s.farIssue true p bs.length 0x52#7 (.marver i) bs with
    | none => none
    | some (_, s) => (s.onShard i fun x => { x with farOut := x.farOut + 1 }).mvIssue i rest

/-- Write bytes at an endpoint for shard `i`. -/
def State.mvWrite (s : State) (i : Nat) (a : Nat) (bs : List Byte) : Option State :=
  if isLoc a then some (s.lwrite a bs) else s.mvIssue i (pieces (sysBits a) (bs.length / 16 + 2) bs)

/-- Write several runs of bytes. -/
def State.mvWrites (i : Nat) : List (Nat × List Byte) → State → Option State
  | [], s => some s
  | (a, bs) :: rest, s => (s.mvWrite i a bs).bind (State.mvWrites i rest)

/-- Read the freeze mask bytes of blocks `q0` to `q1`, in 16-byte units (R357, R463). -/
def State.mvMask (s : State) (i : Nat) (far : FarReply) (x : Shard) (q0 q1 : Nat) : MvGot :=
  if x.fmask = 0 then .ok [] s
  else if isLoc x.fmask then s.mvRead i far (x.fmask + q0 / 8) (q1 / 8 + 1 - q0 / 8)
  else s.mvRead i far (x.fmask + q0 / 128 * 16) (16 * (q1 / 128 + 1 - q0 / 128))

/-- Block `q` is frozen, by the mask bytes read from block `q0` on. -/
def maskBit (x : Shard) (bs : List Byte) (q0 q : Nat) : Bool :=
  if x.fmask = 0 then false
  else
    let base := if isLoc x.fmask then q0 / 8 else q0 / 128 * 16
    (bs.getD (q / 8 - base) 0#8).getLsbD (q % 8)

/-! The arrival phase (R361, R362). -/

/-- The term of a gradient: `trunc(g * g * 2^-QX)`, at most 2^64 - 1. -/
def squareTerm (qx : Int) (g : Nat) : Nat :=
  match F32.dec g with
  | .fin _ m e =>
    let k := 2 * e - qx
    min (if 0 ≤ k then m * m <<< (min k.toNat 2000) else (m * m) >>> (-k).toNat) (2 ^ 64 - 1)
  | _ => 2 ^ 64 - 1

/-- Add a term to a sum, and whether it saturated. -/
def addSum (acc : Nat × Bool) (x : Nat) : Nat × Bool :=
  (min (acc.1 + x) (2 ^ 64 - 1), acc.2 || decide (acc.1 + x > 2 ^ 64 - 1))

/-- The sums after the block of gradients that begins at element `e` is added, with the bytes of ACCR of its row and of ACCC of
its 32 columns before, and whether one saturated (R362). -/
def blockSums (x : Shard) (gs : List Nat) (row cols : List Byte) : List Byte × List Byte × Bool :=
  let terms := gs.map (squareTerm x.qx)
  let r := terms.foldl addSum (ofLE row, false)
  let cs := (words 8 32 cols).zipWith (fun c t => addSum (c, false) t) terms
  (leBytes 8 r.1, cs.flatMap fun c => leBytes 8 c.1, r.2 || cs.any (·.2))

/-- Read local memory for a shard, or the fault that an uncorrectable word is (R373). -/
def State.mvLocal (s : State) (a n : Nat) : MvGot :=
  let (bs, bad, s) := s.lread a n
  match bad with
  | some w => .bad Code.eccUncorrected (BitVec.ofNat 64 w) (s.eccAddr w)
  | none => .ok bs s

/-- Read one after the other; what they answer stands in one list. -/
def State.mvLocals : List (Nat × Nat) → List (List Byte) → State → Except (State × DWord) (List (List Byte) × State)
  | [], acc, s => .ok (acc, s)
  | (a, n) :: rest, acc, s => match s.mvLocal a n with
    | .ok bs s => State.mvLocals rest (acc ++ [bs]) s
    | .bad _ addr s => .error (s, addr)
    | _ => .error (s, 0#64)

/-- Add a chunk's blocks to the sums, each block's first element with its data (R362). -/
def State.mvAdd (x : Shard) : List (Nat × List Byte) → State → State
  | [], s => s
  | (e, data) :: rest, s =>
    let ra := x.accr (e / x.cols)
    let ca := x.accc (e % x.cols)
    let (r, c, sat) := blockSums x (words 4 32 data) (s.mem.mem.readBytes ra 8) (s.mem.mem.readBytes ca 256)
    let s := (s.lwrite ra r).lwrite ca c
    State.mvAdd x rest (if sat then s.setMvStat 3 else s)

/-- What the sums of these blocks lie in: ACCR of the row and ACCC of the columns of each. -/
def Shard.sumAreas (x : Shard) (es : List Nat) : List (Nat × Nat) :=
  es.flatMap fun e => [(x.accr (e / x.cols), 8), (x.accc (e % x.cols), 256)]

/-- Process the slot of a chunk for an ARMED shard (R362): its bitmap bit, its FLAGS, the freeze mask, the data of its blocks and
their sums are read first, and an access that is denied or meets an uncorrectable word is a fault of the step (R373). With stage
writes in far memory the chunk waits for their acknowledgements. -/
def State.mvChunk (s : State) (i t slot : Nat) (far : FarReply) : State :=
  let s0 := s
  let r := s.ring t
  let a := r.slotAddr slot
  let x := s.shard i
  let fault := fun (p : State × DWord) => p.1.mvFault i Code.eccUncorrected p.2
  if !s.may 0x52 .loc false || !s.may 0x52 .loc true then s.mvFault i Code.accessDenied (BitVec.ofNat 64 a)
  else match State.mvLocals [(a, 8)] [] s with
  | .error e => fault e
  | .ok (head, s) =>
    let head := head.flatten
    let k := leAt head 4 2 - x.cid0
    let mark := x.scr + k / 8
    match State.mvLocals [(mark, 1)] [] s with
    | .error e => fault e
    | .ok (bit_, s) =>
      let old := ofLE bit_.flatten
      if old.testBit (k % 8) then
        let s := s.mvRelease (some (t, slot))
        ({ s with marver := { s.marver with dup := satAdd s.marver.dup 1 } }).setMvStat 2
      else
        let e0 := k * r.elem
        let n := min r.elem (x.elems - e0)
        match s.mvMask i far x (e0 / 32) ((e0 + n - 1) / 32) with
        | .wait => s0
        | .stop s => s
        | .bad code addr s => s.mvFault i code addr
        | .ok mask s =>
          let live := (List.range (n / 32)).filter fun b => !maskBit x mask (e0 / 32) (e0 / 32 + b)
          match State.mvLocals (live.map fun b => (a + 64 + 128 * b, 128)) [] s with
          | .error e => fault e
          | .ok (data, s) =>
            let es := live.map fun b => e0 + 32 * b
            match State.mvLocals (x.sumAreas es) [] s with
            | .error e => fault e
            | .ok (_, s) =>
              let stage := (es.map fun e => x.gst + 4 * e).zip data
              match stage.find? fun g => !s.mvMay g.1 128 true with
              | some g => s.mvFault i Code.accessDenied (BitVec.ofNat 64 g.1)
              | none => match s.mvWrites i stage with
                | none => s0
                | some s =>
                  let s := s.mvAdd x (es.zip data)
                  let s := s.lwrite mark (leBytes 1 (old ||| 2 ^ (k % 8)))
                  let s := s.onShard i fun x => { x with arr := x.arr + 1, bad := x.bad || decide (fld 2 0 (leAt head 7 1) ≠ 0) }
                  { s with marver := { s.marver with chunk := some (i, some (t, slot)) } }.mvEnd i

/-- Marver may work: the tier runs and the program goes on (R353, R400, R416). -/
def State.mvAwake (s : State) : Bool := s.inRun && !s.resting

/-- Marver may start a piece of work: it does one at a time (R376), and a chunk is one until its stage writes have completed
(R362). -/
def State.mvIdle (s : State) : Bool := s.mvAwake && s.marver.chunk.isNone

/-- The first DONE slot that is not held: an orphan, or a chunk of an ARMED shard (R361). -/
def State.mvNextSlot (s : State) : Option (Nat × Nat) :=
  s.marver.slots.find? fun p => match s.slotShard p.1 p.2 with
    | none => true
    | some i => (s.shard i).state == .armed

/-- MARVER_SLOT: the oldest slot that is not held is processed, or released as an orphan (R361, R362, R376). -/
def execMarverSlot (far : FarReply) (s : State) : Answer :=
  if !s.mvIdle then .next s
  else match s.mvNextSlot with
    | none => .next s
    | some (t, slot) =>
      match s.slotShard t slot with
      | none => .next (s.mvOrphan t slot)
      | some i =>
        let s := s.mvChunk i t slot far
        .next s.mvSettle

/-! The statistics phase (R364) and the step size (R368). -/

/-- The step size of a step that enters UPDATE (R368). -/
def Marver.stepSize (m : Marver) (n : Nat) : Nat :=
  let warm := m.warm.toNat
  let period := m.period.toNat
  let top := m.lrmax.toNat
  if !m.mode then m.lr.toNat
  else if n < warm then F32.mul top (F32.div (F32.cvt (n + 1)) (F32.cvt warm))
  else if period = 0 then top
  else
    let k := (n - warm) % period
    F32.fma (F32.sub m.lrmin.toNat top) (F32.div (F32.cvt k) (F32.cvt period)) top

/-- One new statistic (R364). -/
def newStat (x : Shard) (sum old count : Nat) : Nat :=
  let ms := F32.div (F32.scale (F32.cvt sum) x.qx) (F32.cvt count)
  F32.fma x.b2 old (F32.mul (F32.sub F32.one x.b2) (F32.add ms x.eps1))

/-- Bytes for a write that a far port takes in 16-byte units: beyond the new bytes, those just read (R463). -/
def wholeUnits (a : Nat) (new old : List Byte) : List Byte := if isLoc a then new else new ++ old.drop new.length

/-- MARVER_STATISTICS: the lowest-numbered shard in STATS, when no slot is ready (R364, R368, R376). -/
def execMarverStatistics (far : FarReply) (s : State) : Answer :=
  if !s.mvIdle || s.mvNextSlot.isSome then .next s
  else match s.marver.shards.find? fun p => p.2.state == .stats with
    | none => .next s
    | some (i, x) =>
      let unit := fun (a n : Nat) => if isLoc a then n else (n + 15) / 16 * 16
      match s.mvRead i far x.scr x.scrLen with
      | .wait => .next s
      | .stop s => .next s
      | .bad code addr s => .next (s.mvFault i code addr).mvSettle
      | .ok scr s1 =>
        match s1.mvRead i far x.raddr (unit x.raddr (4 * x.rows)) with
        | .wait => .next s
        | .stop s => .next s
        | .bad code addr s => .next (s.mvFault i code addr).mvSettle
        | .ok rs s2 =>
          match s2.mvRead i far x.caddr (4 * x.cols) with
          | .wait => .next s
          | .stop s => .next s
          | .bad code addr s => .next (s.mvFault i code addr).mvSettle
          | .ok cs s3 =>
            let sum := fun (k : Nat) => leAt scr (x.bitmapLen + 8 * k) 8
            let r := (List.range x.rows).map fun k => newStat x (sum k) (leAt rs (4 * k) 4) x.cols
            let total := r.foldl F32.add 0
            let rinv := if Val.isZero (F32.dec total) then 0 else F32.div (F32.cvt x.rows) total
            let c := (List.range x.cols).map fun k => newStat x (sum (x.rows + k)) (leAt cs (4 * k) 4) x.rows
            if !s3.mvMay x.raddr (unit x.raddr (4 * x.rows)) true || !s3.mvMay x.caddr (4 * x.cols) true then
              .next (s3.mvFault i Code.accessDenied (BitVec.ofNat 64 x.raddr)).mvSettle
            else match s3.mvWrites i [(x.raddr, wholeUnits x.raddr (r.flatMap (leBytes 4)) rs),
                (x.caddr, c.flatMap (leBytes 4))] with
              | none => .next s
              | some s4 =>
                .next (s4.onShard i fun x =>
                  { x with
                    state := .update, block := 0, rinv := BitVec.ofNat 32 rinv
                    rstat := r.map (BitVec.ofNat 32), cstat := c.map (BitVec.ofNat 32)
                    lrsrc := BitVec.ofNat 32 (s4.marver.stepSize x.stepn.toNat)
                    pubFirst := 0, pubBlocks := [], pubSkip := 0#8 })

/-! The update pass (R365, R366, R369, R370). -/

/-- The converter setting of an MX block of R366: nearest-even, SAT, no clip. -/
def mxCmd (ty : Nat) : OcdCmd where
  otype := ty
  retry := 0
  tsen := false
  clip := false
  keep := false
  ieee := false
  rmode := 0
  tset := 0
  scale := 0x3F800000#32
  bias := none
  lo := 0#32
  hi := 0#32
  sthr := 0
  adj := 0
  osid := 0
  seed := 0#64
  step := 0#32
  hid := 0#32
  strict := false

/-- A block as MXFP8: the scale and 32 element bytes (R366). -/
def mxEncode (ty : Nat) (ws : List Nat) : Byte × List Byte :=
  let (codes, scale, _) := convertBlock (mxCmd ty) 0 0 (ws.map F32.dec)
  (scale, codes.map (BitVec.ofNat 8))

/-- A stored moment block as FP32 patterns (R144, R356). -/
def mxDecode (ty : Nat) (scale : Nat) (bs : List Byte) : List Nat :=
  let f := if ty = 7 then Fmt.e5m2 else Fmt.e4m3
  bs.map fun b =>
    F32.enc (if scale = 0xFF then .nan else Val.scale ((scale : Int) - 127) (f.decode b.toNat))

/-- A weight as BF16, rounded stochastically (R369). What overflow and an infinity give there is left open: the
converter's choice is free, and the same for a weight in every run (R367). -/
def bf16Weight (m : Marver) (hid step : Word) (i e : Nat) (w : Nat) : Nat :=
  let o := { mxCmd 0 with rmode := 2, ieee := Config.freeBf16 w }
  let u := randomU m.seed step hid (0xF00 + i) (e % 2 ^ 32)
  (convertFloat Fmt.bf16 o false 0 u (F32.dec w)).code

/-- The new weights and moments of one block (R365). -/
def updateBlock (x : Shard) (q : Nat) (w m g : List Nat) : List Nat × List Nat :=
  let i := 32 * q / x.cols
  let j0 := 32 * q % x.cols
  let r := (x.rstat.getD i 0#32).toNat
  let at_ := fun (l : List Nat) (k : Nat) => l.getD k 0
  let u := (List.range 32).map fun k =>
    let v := F32.mul (F32.mul r (x.cstat.getD (j0 + k) 0#32).toNat) x.rinv.toNat
    F32.div (at_ g k) (F32.add (F32.sqrt v) x.eps)
  let ss := u.foldl (fun acc a => F32.fma a a acc) 0
  let rms := F32.sqrt (F32.mul ss 0x3D000000)
  let f := if Val.lt Val.zero (F32.dec x.clip) && Val.lt (F32.dec x.clip) (F32.dec rms) then F32.div x.clip rms else F32.one
  let lr := F32.mul x.lrsrc.toNat x.lrmul
  let omb1 := F32.sub F32.one x.b1
  let d := (List.range 32).map fun k =>
    let uk := F32.mul (at_ u k) f
    if x.mom then F32.fma x.b1 (at_ m k) (F32.mul omb1 uk) else uk
  (((List.range 32).map fun k => F32.sub (at_ w k) (F32.mul lr (F32.fma x.lam (at_ w k) (at_ d k)))), d)

/-- The weights of a record as FP32 patterns (R356). -/
def recWeights (x : Shard) (bs : List Byte) : List Nat :=
  (List.range 32).map fun k => if x.bf16 then leAt bs (2 * k) 2 * 65536 else leAt bs (4 * k) 4

/-- A record with new weights and moments (R356, R366, R369), and whether any of them is not finite. -/
def newRecord (x : Shard) (m : Marver) (hid : Word) (i q : Nat) (w d : List Nat) : List Byte × Bool :=
  let ws := if x.bf16 then
      (w.zip (List.range 32)).map fun p => bf16Weight m hid x.stepn i (32 * q + p.2) p.1
    else w
  let bad := if x.bf16 then ws.any fun v => !Val.isFinite (Fmt.bf16.decode v) else ws.any fun v => !F32.finite v
  let front := ws.flatMap (leBytes (if x.bf16 then 2 else 4))
  if x.mom then
    let (scale, es) := mxEncode x.momType d
    let f := if x.momType = 7 then Fmt.e5m2 else Fmt.e4m3
    (front ++ es ++ [scale] ++ List.replicate 15 0#8, bad || es.any fun b => !Val.isFinite (f.decode b.toNat))
  else (front, bad)

/-- The payload of a publication message (R370). -/
def pubPayload (i : Nat) (step : Word) (first ty : Nat) (bs : List (Byte × List Byte)) : List Byte :=
  let n := bs.length
  leBytes 2 i ++ leBytes 2 0 ++ leBytes 4 (step + 1#32).toNat ++ leBytes 4 first ++ leBytes 2 n ++ leBytes 1 ty ++ leBytes 1 0
    ++ padTo ((n + 15) / 16 * 16) (bs.map (·.1)) ++ bs.flatMap (·.2)

/-- Pack a block for publication; a message that holds 120 blocks, or the last one, takes a buffer (R370, R371). -/
def State.mvPublish (s : State) (i q : Nat) (ws : List Nat) : State :=
  let x := s.shard i
  let first := if x.pubBlocks.isEmpty then q else x.pubFirst
  let bs := x.pubBlocks ++ [mxEncode x.pubType ws]
  if bs.length = 120 || q + 1 = x.blocks then
    let todo := ((List.range 8).filter fun k => bit 15 (x.pcent k) && !x.pubSkip.getLsbD k).map fun k =>
      (k, x.pcent k % 2 ^ 11)
    let s := s.onShard i fun x => { x with pubBlocks := [] }
    if todo.isEmpty then s
    else { s with marver := { s.marver with
      pubs := s.marver.pubs ++ [{ shard := i, payload := pubPayload i x.stepn first x.pubType bs, todo := todo }] } }
  else s.onShard i fun x => { x with pubFirst := first, pubBlocks := bs }

/-- The pass has done block `q`: it goes on, or ends the step (R365, R372). -/
def State.mvNextBlock (s : State) (i q : Nat) : State :=
  let s := s.onShard i fun x =>
    if q + 1 ≥ x.blocks then { x with block := q + 1, ending := true } else { x with block := q + 1 }
  s.mvEnd i

/-- A shard in UPDATE that does not wait for publication; with all four buffers waiting none advances (R371, R376). -/
def State.mvReady (s : State) (i : Nat) (x : Shard) : Bool :=
  x.state == .update && !x.ending && !(s.marver.pubs.any fun p => p.shard == i) && decide (s.marver.pubs.length < 4)

/-- MARVER_UPDATE_BLOCK: one block of the lowest-numbered shard in UPDATE that is not waiting for publication, when
neither a slot nor a statistics phase is ready (R365, R370, R376). -/
def execMarverUpdateBlock (far : FarReply) (s : State) : Answer :=
  if !s.mvIdle || s.mvNextSlot.isSome || s.marver.shards.any (fun p => p.2.state == .stats) then .next s
  else match s.marver.shards.find? fun p => s.mvReady p.1 p.2 with
    | none => .next s
    | some (i, x) =>
      let q := x.block
      match s.mvMask i far x q q with
      | .wait => .next s
      | .stop s => .next s
      | .bad code addr s => .next (s.mvFault i code addr).mvSettle
      | .ok mask s1 =>
        let frozen := maskBit x mask q q
        if frozen && !x.pub then .next (s1.mvNextBlock i q)
        else
          let a := x.wbase + q * x.recLen
          match s1.mvRead i far a x.recLen with
          | .wait => .next s
          | .stop s => .next s
          | .bad code addr s => .next (s.mvFault i code addr).mvSettle
          | .ok rec s2 =>
            if frozen then .next ((s2.mvPublish i q (recWeights x rec)).mvNextBlock i q)
            else match s2.mvRead i far (x.gst + 128 * q) 128 with
              | .wait => .next s
              | .stop s => .next s
              | .bad code addr s => .next (s.mvFault i code addr).mvSettle
              | .ok g s3 =>
                let front := if x.bf16 then 64 else 128
                let m := mxDecode x.momType (leAt rec (front + 32) 1) ((rec.drop front).take 32)
                let (w, d) := updateBlock x q (recWeights x rec) m
                  ((List.range 32).map fun k => leAt g (4 * k) 4)
                let (bs, nonfin) := newRecord x s3.marver s3.hid i q w d
                if !s3.mvMay a x.recLen true then .next (s3.mvFault i Code.accessDenied (BitVec.ofNat 64 a)).mvSettle
                else match s3.mvWrite i a bs with
                  | none => .next s
                  | some s4 =>
                    let s4 := { s4 with marver := { s4.marver with blocks := s4.marver.blocks + 1#64 } }
                    let s4 := if nonfin then s4.setMvStat 5 else s4
                    let s4 := if x.pub then s4.mvPublish i q w else s4
                    .next (s4.mvNextBlock i q)

/-! Publication (R371). -/

/-- Send a message through its destinations in order until one lacks credit: what is left to do. A STALE entry is noted as an
MSEND's is (R255). -/
def State.mvSend (payload : List Byte) (i : Nat) : List (Nat × Nat) → State → List (Nat × Nat) × State
  | [], s => ([], s)
  | (k, e) :: rest, s =>
    let c := s.entryOf e
    let len := payload.length / 16
    let n := granules len
    if c.stale || !c.valid || c.gather then
      (((if c.stale then s.noteStale e else s).onShard i fun x => { x with pubSkip := x.pubSkip ||| BitVec.ofNat 8 (2 ^ k) }).setMvStat 6).mvSend payload i rest
    else if s.rings.parkedOn e = 0 && decide (n ≤ c.credit) then
      ((s.charge e n).releaseSend {
        seq := none, opc := 0#8, entry := e, lane := Lane.bulk, len := len, slot := 0, cid := 0, w0 := 0#64, w1 := 0#64
        src := .bytes payload, exact := none, n := n }).mvSend payload i rest
    else ((k, e) :: rest, s)

/-- Every waiting buffer sends what its destinations' credit allows; a message sent through all of them leaves its
buffer. -/
def State.mvPump : List PubMsg → State → List PubMsg × State
  | [], s => ([], s)
  | p :: ps, s =>
    let (left, s) := s.mvSend p.payload p.shard p.todo
    let (rest, s) := s.mvPump ps
    (if left.isEmpty then rest else { p with todo := left } :: rest, s)

/-- PUBLICATION_SEND (R371): the schedule unit takes the messages only in RUN, outside a freeze. -/
def execPublicationSend (s : State) : Answer :=
  if !s.mvAwake then .next s
  else
    let (rest, s) := s.mvPump s.marver.pubs
    .next { s with marver := { s.marver with pubs := rest } }

end Sys2Proof.Machine
end

