-- ==== Sys2Proof/Machine/FarPort.lean ====
section
/-! DEFINITION. Responses of the far port: read data and write acknowledgements by tag (R214, R215, R372, R407, R430,
R463). -/

namespace Sys2Proof.Machine

/-- The request outstanding under a tag, and whether it is a write. -/
def State.farFind (s : State) (tag : Nat) (write : Bool) : Option FarReq :=
  s.far.find? fun r => r.tag == tag && r.write == write

/-- The request is answered: its tag is free again. -/
def State.farDrop (s : State) (tag : Nat) : State := { s with far := s.far.filter fun r => r.tag != tag }

/-- An error on any beat is an error of the transfer; the first one counts (R463). -/
def worstErr : FarErr → FarErr → FarErr
  | .ok, e => e
  | e, _ => e

/-- The transfer that a stream request serves. -/
def State.farXfer (s : State) (tag : Nat) : Option Xfer := s.se.xfers.find? fun x => x.tag == some tag

/-- A stream's read has arrived whole: it is written at its destination, a volatile one journalled, or it fails. A
transfer that no context holds any more arrives unseen (R214, R215, R235, R407). -/
def State.streamRead (s : State) (r : FarReq) (data : List Byte) (err : FarErr) : State :=
  match s.farXfer r.tag with
  | none => s
  | some x =>
    match farCode err with
    | some code => s.xferFail x code false
    | none =>
      let s := if x.volat then s.jread x.ctx x.ord r.addr data else s
      (s.lwrite x.dst.toNat data).xferDone x

/-- FAR_READ_DATA: a beat of read data; the last one ends the transfer. A tag that no read has outstanding breaks R463. -/
def execFarReadData (tag : BitVec 11) (data : List Byte) (last : Bool) (err : FarErr) (s : State) : Answer :=
  if !s.pins.alive then .next s else
  match s.farFind tag.toNat false with
  | none => .fault (.farTagNotOutstanding tag.toNat)
  | some r =>
    let data := r.data ++ data
    let err := worstErr r.err err
    if last then .next ((s.farDrop tag.toNat).streamRead r (padTo r.len data) err)
    else .next { s with far := s.far.map fun q =>
      if q.tag = tag.toNat then { q with data := data, err := err } else q }

/-- A stream's write is acknowledged (R214, R215). -/
def State.streamAck (s : State) (r : FarReq) (err : FarErr) : State :=
  match s.farXfer r.tag with
  | none => s
  | some x => match farCode err with
    | some code => s.xferFail x code true
    | none => s.xferDone x

/-- A Marver write is acknowledged: an error is a fault of the step, and the last one may end it (R372, R373). -/
def State.mvAck (s : State) (i : Nat) (r : FarReq) (err : FarErr) : State :=
  if (s.shard i).farOut = 0 then s
  else
    let s := s.onShard i fun x => { x with farOut := x.farOut - 1 }
    match farCode err with
    | some code => match (s.shard i).state with
      | .empty | .idle | .fault => s
      | _ => (s.mvFault i code (sysAddr r.addr)).mvSettle
    | none => s.mvEnd i

/-- FAR_WRITE_ACK: a write is acknowledged (R345, R463). A failed write of the journal or the trace has no report. -/
def execFarWriteAck (tag : BitVec 11) (err : FarErr) (s : State) : Answer :=
  if !s.pins.alive then .next s else
  match s.farFind tag.toNat true with
  | none => .fault (.farTagNotOutstanding tag.toNat)
  | some r =>
    let s := s.farDrop tag.toNat
    match r.use with
    | .stream => .next (s.streamAck r err)
    | .journal _ => .next s.journalAck
    | .trace => .next s
    | .snapshot => match farCode err with
      | none => .next s.snapAck
      | some code => .next (s.snapFail code (sysAddr r.addr ||| 1#64))
    | .snapHeader _ => .next (if err == .ok then s.snapAck else s.snapAbandon)
    | .marver i => .next (s.mvAck i r err)

end Sys2Proof.Machine
end

