-- ==== Sys2Proof/Machine/Replay.lean ====
section
/-! DEFINITION. Restore and replay: the load of a snapshot, the reading of the FENCE record, and the two cursors
(R403-R405, R412, R413, R416-R424). -/

namespace Sys2Proof.Machine

/-! Records as they stand in far memory (R408). -/

/-- LEN16, JSEQ and KIND of a record, and its CRC is good. -/
def recLength (b : List Byte) : Nat := 16 * leAt b 2 2
def recSeq (b : List Byte) : Nat := leAt b 4 4
def recKind (b : List Byte) : Nat := leAt b 0 1
def recGood (b : List Byte) : Bool :=
  decide (32 ≤ recLength b) && decide (recLength b ≤ b.length) &&
    let r := b.take (recLength b)
    leAt b 16 4 == (crc32c (r.take 16 ++ [0#8, 0#8, 0#8, 0#8] ++ r.drop 20)).toNat

/-- The record at an address of a reply. -/
def recAt (far : FarReply) (a : Nat) : List Byte := replyBytes far a (16 * ofLE (replyBytes far (a + 2) 2))

/-- The first good record of a region that `p` admits, by address. -/
def findRecord (far : FarReply) (base size : Nat) (p : List Byte → Bool) : Option (List Byte) :=
  let at0 := (far.cells.map (·.1)).filter fun a => a % 16 == 0 && decide (base ≤ a) && decide (a + 32 ≤ base + size)
  at0.findSome? fun a =>
    let head := replyBytes far a 64
    if p head then
      let r := recAt far a
      if recGood r then some r else none
    else none

/-! RESTORE (R416). -/

/-- A range of the named bank. -/
def bankBytes (far : FarReply) (bank o n : Nat) : List Byte := replyBytes far (bank + o) n

/-- A barrier entry from a snapshot (R304, R403, R412). -/
def Barrier.ofBytes (b : List Byte) : Barrier :=
  { Barrier.zero with
    rootLcid := BitVec.ofNat 11 (fld 22 12 (leAt b 0 4)), rootChip := BitVec.ofNat 12 (leAt b 0 4)
    expect := BitVec.ofNat 24 (leAt b 4 4), margin := BitVec.ofNat 16 (leAt b 8 2), gen := BitVec.ofNat 16 (leAt b 10 2)
    rgen := BitVec.ofNat 16 (leAt b 14 2), rcnt := BitVec.ofNat 24 (leAt b 16 4), arrived := bit 0 (leAt b 20 1) }

/-- A table from equal entries: entry `k` is `f` of the bytes at `k * n`. -/
def tableOf {α : Type} [DecidableEq α] (d : α) (count : Nat) (f : Nat → α) : List (Nat × α) :=
  (List.range count).foldl (fun t k => Tbl.set d t k (f k)) []

/-- The ring store from the packed descriptors and the bitmap of their tags (R403). -/
def storeOf (bitmap packed : List Byte) : Memory :=
  let tags := (List.range 8192).filter fun t => (bitmap.getD (t / 8) 0#8).getLsbD (t % 8)
  ((tags.zip (List.range tags.length)).foldl (fun m p => m.writeBytes (32 * p.1) ((packed.drop (32 * p.2)).take 32)) [])

/-- Local memory from the present regions; the others are zero (R416). -/
def localOf (far : FarReply) (bank : Nat) (rmap : List Byte) : Memory :=
  ((List.range 512).filter fun r => (rmap.getD (r / 8) 0#8).getLsbD (r % 8)).foldl
    (fun m r => m.writeBytes (4096 * r) (bankBytes far bank (0x80000 + 4096 * r) 4096)) []

/-- Shards as IDLE or EMPTY with their saved counts (R416). -/
def shardOf (b : List Byte) : Shard :=
  { Shard.none with
    state := if leAt b 136 1 = 0 then .empty else .idle, desc := BitVec.ofNat 1024 (leAt b 0 128)
    stepn := BitVec.ofNat 32 (leAt b 128 4), endn := BitVec.ofNat 32 (leAt b 132 4) }

/-- The DONE slots of the UPDATE rings, for Marver: the order in which they became DONE is not saved. -/
def State.doneSlots (s : State) : List (Nat × Nat) :=
  s.liveRings.flatMap fun t =>
    let r := s.ring t
    if r.type = RingType.update then
      ((List.range r.nslot).filter fun k => s.slotState r k = 2).map fun k => (t, k)
    else []

/-- The program ends as under R29, and what a snapshot does not hold stands as on entry into RUN (R405, R416). -/
def State.endProgram (s : State) : State :=
  let s := s.launchQueues.streamsEnterRun
  { s with
    core := { (Core.launch s.core s.beat 0 0#64) with tasks := Vector.replicate 32 Task.fresh, running := false }
    engines := Vector.replicate 4 MatrixEngine.fresh
    ve := VectorEngine.fresh
    stats := { s.stats with step := 0#32 }
    lehr := { s.lehr with bars := s.lehr.bars.map Barrier.drop } }

/-- Write the program image into instruction memory (R30, R416, R443). -/
def State.loadImage (s : State) (image : List Byte) : State :=
  { s with core := { s.core with
      imem := s.core.imem.writeBytes 0 image
      imemBad := s.core.imemBad.filter fun w => decide (image.length < 8 * w + 8) } }

/-- Everything R416 loads from the bank at `bank`. -/
def State.loadBank (s : State) (far : FarReply) (bank : Nat) : State :=
  let h := bankBytes far bank 0 128
  let c := bankBytes far bank 0x1000 4096
  let at_ := fun (o n : Nat) => (c.drop o).take n
  let send := bankBytes far bank 0x18000 0x2000
  let ring := bankBytes far bank 0x1A000 0x10000
  let shards := bankBytes far bank 0xE000 (256 * 160)
  let s := s.forgetFar (FarUse.ofMarver none)
  let s := { s with
    router := { s.router with shown := none }
    mem := { s.mem with mem := localOf far bank ((h.drop 32).take 64), bad := [], single := [] }
    rings := { s.rings with
      store := storeOf (at_ 0x800 1024) (bankBytes far bank 0x2A000 0x40000)
      credit := Memory.writeBytes [] 0 (bankBytes far bank 0x2000 0x8000)
      writes := []
      sendCount := tableOf 0#32 2048 fun e => BitVec.ofNat 32 (leAt send (4 * e) 4)
      creditCount := tableOf 0#32 8192 fun t => BitVec.ofNat 32 (leAt ring (8 * t + 4) 4)
      revokeCount := tableOf 0#16 8192 fun t => BitVec.ofNat 16 (leAt ring (8 * t + 2) 2) }
    se := { s.se with seqTable := Memory.writeBytes [] 0 (bankBytes far bank 0xA000 0x4000) }
    lehr := { s.lehr with bars := Vector.ofFn fun (b : Fin 14) => Barrier.ofBytes (at_ (32 * b.val) 32) }
    digests := { s.digests with
      val := tableOf 0#64 64 fun d => BitVec.ofNat 64 (leAt c (0x200 + 16 * d) 8)
      cnt := tableOf 0#32 64 fun d => BitVec.ofNat 32 (leAt c (0x208 + 16 * d) 4) }
    journal := { s.journal with
      live := BitVec.ofNat 512 (leAt c 0x600 64)
      volB := Vector.ofFn fun (v : Fin 16) => baseBits 16 (leAt c (0x640 + 16 * v.val) 8)
      volV := BitVec.ofNat 16 ((List.range 16).foldl (fun a v => a + flag v (bit 31 (leAt c (0x648 + 16 * v) 4))) 0)
      volS := Vector.ofFn fun (v : Fin 16) => BitVec.ofNat 16 (leAt c (0x648 + 16 * v.val) 2)
      resume := BitVec.ofNat 16 (leAt c 0x740 2)
      dirty0 := BitVec.allOnes 512, dirty1 := BitVec.allOnes 512
      waiting := [], rstate := .restored, cause := 0#8
      restLcid := some (BitVec.ofNat 11 (leAt h 18 2)), restFor := BitVec.ofNat 11 (leAt h 18 2), restId := BitVec.ofNat 64 (leAt h 8 8)
      restMark := BitVec.ofNat 32 (leAt h 28 4) }
    tier := { s.tier with detNext := bit 0 (leAt c 0x744 1) }
    marver := { s.marver with
      shards := tableOf Shard.none 256 fun i => shardOf ((shards.drop (160 * i)).take 160), wait := none, chunk := none
      pubs := [] } }
  { s with marver := { s.marver with slots := s.doneSlots } }

/-- A header that RESTORE accepts (R404, R416). -/
def State.headerOk (s : State) (h : List Byte) : Bool :=
  leAt h 0 4 == 0x20000 && leAt h 124 4 == (crc32c (h.take 124)).toNat && bit 0 (leAt h 22 1)
    && leAt h 16 2 == s.router.chip.toNat

/-- An image read as master 0x50: from local memory, or from what far memory answered (R416, R443). -/
def State.readImage (s : State) (far : FarReply) (src n : Nat) : Option Half × List Byte × State :=
  if isLoc src then
    if !inLocal src n then (some Code.accessDenied, [], s)
    else
      let (bs, bad, s) := s.lread src n
      match bad with
      | some w => (some Code.eccUncorrected, [], s.noteEcc Source.firmware w)
      | none => (none, bs, s)
  else if !isEndpoint src then (some Code.accessDenied, [], s)
  else
    let (err, s) := s.farChecked far (sysBits src) n
    (err, replyBytes far (sysBits src) n, s)

/-- RESTORE_LOAD_COMPLETE: the reads of a RESTORE are complete. A tier that has left RUN meanwhile, or a header that is not
acceptable, refuses it with nothing changed; a failed read leaves STATE NONE; otherwise everything is loaded (R416). -/
def execRestoreLoadComplete (far : FarReply) (s : State) : Answer :=
  if !s.pins.alive then .next s else
  match s.gaffer.action with
  | some (.restore r base bank src len) =>
    let s := { s with gaffer := { s.gaffer with action := none } }
    let a := sysBits base.toNat + (if bank then 0x280000 else 0)
    let none' := fun (s : State) => { s.endProgram with journal := { s.endProgram.journal with rstate := .none } }
    if !s.inRun then .next (s.final r Code.badParam [])
    else match s.farChecked far a 0x280000 with
    | (some code, s) => .next ((none' s).final r code [])
    | (none, s) =>
      if !s.headerOk (bankBytes far a 0 128) then .next (s.final r Code.badParam [])
      else
        match s.readImage far src.toNat len with
        | (some code, _, s) => .next ((none' s).final r code [])
        | (none, image, s) =>
          let s := (s.endProgram.loadImage image).loadBank far a
          .next (s.final r Code.ok [(loWord s.journal.restId).toNat, (hiWord s.journal.restId).toNat])
  | _ => .next s

/-! REPLAY (R417, R419). -/

/-- Suppressions of a table of counts: the FENCE count minus the restored one, where they differ. -/
def supOf (l : List (Nat × Nat)) (have_ : Nat → Nat) (w : Nat) : List (Nat × Word) :=
  l.filterMap fun p =>
    let d := (p.2 + 2 ^ w - have_ p.1) % 2 ^ w
    if d = 0 then none else some (p.1, BitVec.ofNat 32 d)

/-- What the FENCE record's body says is to be suppressed (R413, R419). -/
def State.takeFence (s : State) (f : List Byte) : State :=
  let body := f.drop 32
  let ne := leAt f 22 2
  let nr := leAt f 24 2
  let sends := (List.range ne).map fun k => (leAt body (64 + 8 * k) 2, leAt body (68 + 8 * k) 4)
  let at0 := 64 + 8 * ne
  let rings := (List.range nr).map fun k => (leAt body (at0 + 8 * k) 2, leAt body (at0 + 8 * k + 2) 2, leAt body (at0 + 8 * k + 4) 4)
  { s with journal := { s.journal with
      supSend := supOf sends (fun e => (Tbl.get 0#32 s.rings.sendCount e).toNat) 32
      supCredit := supOf (rings.map fun p => (p.1, p.2.2)) (fun t => (Tbl.get 0#32 s.rings.creditCount t).toNat) 32
      supRevoke := supOf (rings.map fun p => (p.1, p.2.1)) (fun t => (Tbl.get 0#16 s.rings.revokeCount t).toNat) 16
      fenceBars := (List.range 14).map fun b => (BitVec.ofNat 16 (leAt body (4 * b) 2), bit 0 (leAt body (4 * b + 2) 1))
      fenceSeq := BitVec.ofNat 32 (recSeq f) } }

/-- Arm REPLAY's LAUNCH entry (R417). -/
def State.armReplay (s : State) (a : Nat) (target : DWord) : State :=
  s.armEntry a 1#4 target (s.journal.resume.setWidth 32) true

/-- Local memory as a reply, for a JBASE that names it (R207). -/
def State.localReply (s : State) : FarReply where
  cells := s.mem.mem
  errs := s.mem.bad.map fun w => (8 * w, .data)

/-- FENCE_RECORD_READ: in journal-mode REPLAY the FENCE record and the MARK of the restored SNAPID have been read; the
LAUNCH entry is armed for the next beat and STATE becomes REPLAY, or the replay fails with CAUSE 0x06 (R417, R424). No LAUNCH
entry is armed while a program runs or another one is armed (R302, log 113). -/
def execFenceRecordRead (far : FarReply) (s : State) : Answer :=
  if !s.pins.alive then .next s else
  match s.gaffer.action with
  | some (.replayRead r base size jseq) =>
    let s := { s with gaffer := { s.gaffer with action := some (.replayRun r true) } }
    let at0 := sysBits base.toNat
    let far := if isLoc base.toNat then s.localReply else far
    let (err, s) := s.farChecked far at0 (65536 * size)
    let fence := findRecord far at0 (65536 * size) fun b => recKind b == JKind.fence && recSeq b == jseq.toNat
    let mark := findRecord far at0 (65536 * size) fun b =>
      recKind b == JKind.mark && leAt b 32 8 == s.journal.restId.toNat && leAt b 24 1 != 0xFF
    let stop := fun (code : Half) =>
      (State.final { s with gaffer := { s.gaffer with action := none } } r code [s.jnRstat] : State)
    match err, fence, mark with
    | none, some f, some m =>
      if !s.lehr.synced then .next (stop Code.badParam)
      else if s.core.running || s.armed 1#4 then .next (stop Code.busy) else
      match s.freeAct with
      | some a =>
        let s := s.takeFence f
        let s := { s with journal := { s.journal with
          rstate := .replay, curMsg := BitVec.ofNat 32 (recSeq m), curRead := BitVec.ofNat 32 (recSeq m), waiting := [], readEnd := false } }
        .next (s.armReplay a (s.lehr.lc + 1#64))
      | none => .next (stop Code.busy)
    | _, _, _ => .next (s.replayMismatch 6 jseq)
  | _ => .next s

/-! The cursors (R418, R421, R424). -/

/-- What a cursor makes of the bytes at its place: the record; a wait; or a mismatch. The records up to the FENCE record
have been written, so a bad one among them is a mismatch; after it, only one whose JSEQ skips is. -/
inductive Taken where
  | record (b : List Byte)
  | wait
  | mismatch
  deriving DecidableEq, Repr, Inhabited

def State.takeRecord (s : State) (cursor : Word) (b : List Byte) : Taken :=
  let written := decide (0 ≤ (s.journal.fenceSeq - cursor).toInt)
  if recGood b then
    let seq := BitVec.ofNat 32 (recSeq b)
    if seq = cursor then .record (b.take (recLength b))
    else if written || decide (0 < (seq - cursor).toInt) then .mismatch
    else .wait
  else if written then .mismatch else .wait

/-- The message a record holds. -/
def recMessage (b : List Byte) : Message :=
  let m : Message := { w0 := BitVec.ofNat 64 (leAt b 32 8), w1 := BitVec.ofNat 64 (leAt b 40 8), payload := [] }
  { m with payload := if recKind b = JKind.msg then (b.drop 48).take (16 * Msg.len m) else [] }

/-- Nothing is left to suppress: no send, CREDIT or REVOKE, and no ARRIVE of a generation in which F sent one (R419, R424). -/
def State.exhausted (s : State) : Bool :=
  let j := s.journal
  (j.supSend.all fun p => p.2 == 0#32) && (j.supCredit.all fun p => p.2 == 0#32) && (j.supRevoke.all fun p => p.2 == 0#32)
    && (List.range 14).all fun b => !s.arriveRepeats b || (s.barrier b).arrived

/-- A RELEASE record passes a matching pending BAR in the beat after it is taken (R418). -/
def State.replayRelease (s : State) (m : Message) : State :=
  let b := Msg.bid m
  let x := s.barrier b
  if decide (b ≤ 13) && x.pend && x.passAt.isNone && x.gen.toNat == Msg.gen m then
    s.onBar b fun x => { x with passAt := some (s.lehr.lc + 1#64, true) }
  else s

/-- A transfer that waits for its READ record (R418). -/
def State.readWaits (s : State) : List Xfer := s.se.xfers.filter fun x => x.volat && x.tag.isNone

/-- The message cursor's record acts: none when the cursor waits. At END it waits until the read cursor has taken every READ
record before it (R418, R421, R424; log 124). -/
def State.cursorActs (s : State) (b : List Byte) : Option State :=
  let m := recMessage b
  let stamp := BitVec.ofNat 64 (leAt b 8 8)
  let kind := recKind b
  if kind = JKind.msg then
    if Msg.tag m = 1 && Msg.kind m == Kind.data then some (s.deliverRing1 m)
    else match s.inboundCheck m with
      | some (5, _, _) => none
      | some (_, _, _) => some (s.replayMismatch 3 (BitVec.ofNat 32 (recSeq b)))
      | none => some (s.deliver m stamp)
  else if kind = JKind.credit then some (s.applyCredit m)
  else if kind = JKind.revoke then some (s.applyRevoke m)
  else if kind = JKind.release then some (s.replayRelease m)
  else if kind = JKind.end_ then
    if s.journal.curRead != s.journal.curMsg then none
    else if !s.readWaits.isEmpty then some (s.replayMismatch 2 (BitVec.ofNat 32 (recSeq b)))
    else if !s.exhausted then some (s.replayMismatch 4 (BitVec.ofNat 32 (recSeq b)))
    else if s.journal.rstate == .tail then
      some ({ s with journal := { s.journal with rstate := .none } }.endReplay Code.ok)
    else none
  else some s

/-- REPLAY_MESSAGE_CURSOR: the message cursor meets the next record of the journal, whose bytes are `record` (R418). -/
def execReplayMessageCursor (record : List Byte) (s : State) : Answer :=
  if !s.journal.replaying || !s.inRun || !s.pins.alive then .next s
  else match s.takeRecord s.journal.curMsg record with
    | .wait => .next s
    | .mismatch => .next (s.replayMismatch 1 s.journal.curMsg)
    | .record b => match s.cursorActs b with
      | none => .next s
      | some s => .next { s with journal := { s.journal with curMsg := s.journal.curMsg + 1#32 } }

/-- Bytes of a waiting READ record as the journal holds it (R408). -/
def ReadRecord.size (r : ReadRecord) : Nat := 48 + (r.data.length + 15) / 16 * 16

/-- The read cursor's record acts (R418, R424). -/
def State.readActs (s : State) (b : List Byte) : State :=
  let seq := BitVec.ofNat 32 (recSeq b)
  if recKind b = JKind.read then
    let n := leAt b 28 2
    let r : ReadRecord := { jseq := seq, src := leAt b 20 2, ord := leAt b 24 4, faddr := BitVec.ofNat 64 (leAt b 32 8)
                            data := (b.drop 48).take n }
    match s.readWaits.find? fun x => x.ctx == r.src && x.ord == r.ord with
    | some x =>
      if x.faddr = r.faddr.toNat && x.len = n then (s.lwrite x.dst.toNat r.data).xferDone x
      else s.replayMismatch 2 seq
    | none =>
      let all := s.journal.waiting ++ [r]
      if (all.map ReadRecord.size).foldl (· + ·) 0 > Config.stagingSize then s.replayMismatch 5 seq
      else { s with journal := { s.journal with waiting := all } }
  else if recKind b = JKind.end_ && !s.readWaits.isEmpty then s.replayMismatch 2 seq
  else s

/-- REPLAY_READ_CURSOR: the read cursor meets the next record of the journal (R418); it stays at END, where a read that no
record has served fails the replay (R424). -/
def execReplayReadCursor (record : List Byte) (s : State) : Answer :=
  if !s.journal.replaying || !s.inRun || !s.pins.alive then .next s
  else match s.takeRecord s.journal.curRead record with
    | .wait => .next s
    | .mismatch => .next (s.replayMismatch 1 s.journal.curRead)
    | .record b =>
      let s := s.readActs b
      if recKind b = JKind.end_ then .next { s with journal := { s.journal with readEnd := true } }
      else .next { s with journal := { s.journal with curRead := s.journal.curRead + 1#32 } }

end Sys2Proof.Machine
end

