-- ==== Sys2Proof/Machine/Resets.lean ====
section
/-! DEFINITION. Reset, start-up, power and test pins, and the stores of the MRAM (R24, R206, R273, R277, R427-R429, R443,
R451-R456, R462, R465-R468, R472, R474, R475). -/

namespace Sys2Proof.Machine

/-! The kiln record in MRAM (R427, R429, R454). -/

/-- MRAM offset of the kiln slot of a record SEQ. -/
def kilnSlot (seq : Nat) : Nat := 0x20000 + 64 * (seq % 2048)

/-- The bytes of the slot of a record SEQ. -/
def Gaffer.kilnAt (g : Gaffer) (seq : Nat) : List Byte := g.mram.readBytes (kilnSlot seq) 64

/-- The record in a slot passes its CRC; a torn store left one that does not (R427, R455). -/
def Gaffer.kilnGood (g : Gaffer) (seq : Nat) : Bool :=
  !g.tornKiln.contains (seq % 2048) && leAt (g.kilnAt seq) 60 4 == (crc32c ((g.kilnAt seq).take 60)).toNat

/-- The highest SEQ with a valid CRC; a slot of zeros has none (R429). -/
def Gaffer.newestKiln (g : Gaffer) : Option Nat :=
  let slots := (g.mram.filterMap fun c => if 0x20000 ≤ c.1 && c.1 < 0x40000 then some ((c.1 - 0x20000) / 64) else none).eraseDups
  slots.foldl (fun best k =>
    if g.kilnGood k then
      let seq := leAt (g.kilnAt k) 0 4
      match best with
      | some b => some (max b seq)
      | none => some seq
    else best) none

/-- Start-up reads all slots and goes on from the highest SEQ, or from zero (R429). -/
def Gaffer.scanKiln (g : Gaffer) : Gaffer :=
  match g.newestKiln with
  | some n => { g with kseq := BitVec.ofNat 32 n, kilnNext := BitVec.ofNat 32 (n + 1) }
  | none => { g with kseq := 0#32, kilnNext := 0#32 }

/-! Reset and start-up (R456, R468). -/

/-- The straps as they are latched (R452, R462). -/
def State.straps (s : State) : Straps where
  chipId := s.router.chip
  row := s.router.pid.extractLsb' 6 5
  col := s.router.pid.extractLsb' 0 6
  edge := s.router.edge
  mtie := s.router.mtie
  mouldSel := s.gaffer.pins

/-- Reset values with these straps, keeping what a reset does not touch: the queue of commands, the pins, MRAM and
instruction memory, for which no reset value is given (log 3). -/
def State.toReset (s : State) (p : Straps) (sel : BitVec 2) (ovr : Bool) : State :=
  let g := Gaffer.atReset s.gaffer.mram s.gaffer.tornMould s.gaffer.tornKiln p.mouldSel sel ovr
  let t := State.atReset p g.scanKiln s.pins s.free s.core.imem
  { t with
    pending := s.pending
    core := { t.core with imemBad := s.core.imemBad } }

/-- RST_N goes low, or the store that held it off ends: every unit is at its reset values until the release. -/
def State.assertReset (s : State) : State :=
  let t := s.toReset s.straps s.gaffer.pins false
  { t with pins := { t.pins with resetHeld := true, resetPending := false, release := none } }


/-- Reset is released: the straps are latched, the mesh ports begin training, and the boot ROM takes SEL and loads the
selected mould (start-up steps 2-5; R456, R462). -/
def State.releaseReset (s : State) (straps : Straps) : State :=
  let t := s.toReset straps straps.mouldSel false
  { t with pins := { t.pins with resetHeld := false, resetPending := false, release := none } }.loadMould

/-- RESET_RELEASE: RST_N rises (R456, R462, R468). The state after power-up, in which no mould has been loaded, can be
released as well. Where RST_N rises before the MRAM store that holds the reset off has ended, the straps are kept, and the
reset that follows the store is released at once (log 114). -/
def execResetRelease (straps : Straps) (s : State) : Answer :=
  if s.pins.dead then .next s
  else if s.pins.resetPending then .next { s with pins := { s.pins with release := some straps } }
  else if s.pins.resetHeld || s.gaffer.step == 2#4 then .next (s.releaseReset straps)
  else .next s

/-- A port as a RESET_CLUSTER leaves it: training anew, with the link-ready of its peer as it is (R325, R456). -/
def Port.reset (x : Port) (nc : Nat) : Port :=
  { Port.atReset (x.state == .tied) with peerReady := x.peerReady, rxNc := nc, txNc := nc, holdNc := nc }

/-- RESET_CLUSTER takes effect: as a reset release from step 3 on, with PINS, SEL and OVR kept (R452, R456). The N-cycle
count goes on; far requests still out are answered unseen. -/
def State.clusterReset (s : State) : State :=
  let t := s.toReset s.straps s.gaffer.sel s.gaffer.ovr
  let t := { t with
    nc := s.nc
    far := (s.forgetFar fun _ => true).far
    mem := { t.mem with scrubNc := s.nc }
    router := { t.router with
      ports := s.router.ports.map fun (x : Port) => x.reset s.nc
      link := { t.router.link with lock := s.router.link.lock, sinceNc := s.nc, ackNc := s.nc } } }
  t.loadMould

/-- CLUSTER_RESET: the reply of a RESET_CLUSTER has crossed the port, or 1 ms has passed since it was queued (R443). A
running MRAM store ends first (log 42). -/
def execClusterReset (s : State) : Answer :=
  if !s.pins.alive || s.gaffer.storing then .next s
  else match s.gaffer.resetAt with
    | some t0 => if s.gaffer.resetGo || decide (t0 + 1000 * Config.ncPerUs ≤ s.nc) then .next s.clusterReset else .next s
    | none => .next s

/-- BIST_COMPLETE: start-up step 6 ends. A pass leaves the tested memories zero, the credit table of the ring store (R242)
and an image that waits in Gaffer RAM among them, and leads to step 7, and
on to step 8 if START_FW has completed; a failure sets FAIL
and writes the kiln record, whose unit and address the spec leaves to the failure (R206, R456). -/
def execBistComplete (pass : Bool) (s : State) : Answer :=
  if !s.pins.alive || s.gaffer.step != 6#4 || s.gaffer.fail then .next s
  else if pass then
    let s := { s with
      mem := { s.mem with mem := [], bad := [], single := [] }
      rings := { s.rings with store := [], credit := [] }
      se := { s.se with ctxs := [], seqTable := [] }
      journal := { s.journal with staged := [], trace := [] }
      gaffer := { s.gaffer with step := 7#4, image := if s.gaffer.started then s.gaffer.image else none } }
    .next (if s.gaffer.started then s.powerUp else s)
  else
    let detail := [(Config.freeWord s.free 0).toNat, (Config.freeWord s.free 1).toNat]
    let s := { s with free := s.free + 1, gaffer := { s.gaffer with fail := true } }
    .next (s.kilnRecord Code.eccUncorrected Source.firmware detail)

/-- BASE_TIER_FAILURE: the cluster stops forwarding, journalling and answering (R24). -/
def execBaseTierFailure (s : State) : Answer := .next { s with pins := { s.pins with dead := true } }

/-! Stores of the MRAM (R429, R443, R455). -/

/-- A WRITE_MOULD that waits for PWR_STABLE or for another store starts its store when it may. -/
def State.startMouldStore (s : State) : State :=
  match s.gaffer.mouldAct with
  | some (.wait r m image _) =>
    if s.pins.pwrStable && !s.gaffer.kilnBusy then
      { s with gaffer := { s.gaffer with mouldAct := some (.store r m image), storeLost := false } }
    else s
  | _ => s

/-- The bytes that the n-th torn store of `k` bytes leaves. -/
def tornBytes (n k : Nat) : List Byte := (List.range k).map (Config.freeByte n)

/-- The store of the first queued kiln record ends; a torn one leaves a record that fails its CRC. -/
def State.kilnStored (s : State) (torn : Bool) : State :=
  match s.gaffer.kiln with
  | [] => { s with gaffer := { s.gaffer with kilnBusy := false } }
  | r :: rest =>
    let seq := leAt r 0 4
    let others := s.gaffer.tornKiln.filter fun k => k != seq % 2048
    { s with
      free := if torn then s.free + 1 else s.free
      gaffer := { s.gaffer with
        kiln := rest
        kilnBusy := false
        kseq := BitVec.ofNat 32 seq
        mram := s.gaffer.mram.writeBytes (kilnSlot seq) (if torn then tornBytes s.free 64 else r)
        tornKiln := if torn then seq % 2048 :: others else others } }

/-- The image as it is stored: SEQ counts the stores of this mould, and the CRC is over the bytes stored (R451). -/
def storedMould (old image : List Byte) : List Byte × Word :=
  let seq := BitVec.ofNat 32 (leAt old 4 4 + 1)
  let body := image.take 4 ++ leBytes 4 seq.toNat ++ (image.drop 8).take 8180
  (body ++ leBytes 4 (crc32c body).toNat, seq)

/-- The store of a mould ends, and with it the WRITE_MOULD: OK with the stored SEQ, or NV_TORN (R443, R455). -/
def State.mouldStored (s : State) (torn : Bool) (r : ReplyTo) (m : BitVec 2) (image : List Byte) : State :=
  let (bytes, seq) := storedMould (s.gaffer.mould m.toNat) image
  let bit0 := BitVec.ofNat 4 (2 ^ m.toNat)
  let s := { s with
    free := if torn then s.free + 1 else s.free
    gaffer := { s.gaffer with
      mouldAct := none
      mram := s.gaffer.mram.writeBytes (0x2000 * m.toNat) (if torn then tornBytes s.free 8192 else bytes)
      tornMould := if torn then s.gaffer.tornMould ||| bit0 else s.gaffer.tornMould &&& ~~~bit0 } }
  if torn then s.final r Code.nvTorn [] else s.final r Code.ok [seq.toNat]

/-- The running store ends. -/
def State.storeEnds (s : State) (torn : Bool) : State :=
  if s.gaffer.kilnBusy then s.kilnStored torn
  else match s.gaffer.mouldAct with
    | some (.store r m image) => s.mouldStored torn r m image
    | _ => s

/-- MRAM_STORE_COMPLETE: the running store ends, torn if PWR_STABLE was lost meanwhile; a reset that waited for it takes
effect, released at once if RST_N has risen again, and a WRITE_MOULD that waited starts its own (R455, R468). -/
def execMramStoreComplete (torn : Bool) (s : State) : Answer :=
  let torn := torn || s.gaffer.storeLost
  if s.pins.dead then .next s
  else
    let done := fun (s : State) =>
      if s.pins.resetPending then
        match s.pins.release with
        | some p => s.assertReset.releaseReset p
        | none => s.assertReset
      else s.startMouldStore
    .next (if s.gaffer.storing then done (s.storeEnds torn) else s)

/-- RESET_ASSERT: RST_N falls; while an MRAM store runs it takes effect when the store ends (R468). After a failure of the
base tier it is the reset of a wake-up, which follows the power-up of the rails (R472): the cluster works again, and a store
that ran when the rails were lost may be torn (R455, log 112). -/
def execResetAssert (s : State) : Answer :=
  if s.pins.dead then
    let s := if s.gaffer.storing then
        { s with free := s.free + 1 }.storeEnds (s.gaffer.storeLost || Config.freeFlag s.free) else s
    .next { s with pins := { s.pins with dead := false } }.assertReset
  else if s.pins.resetHeld then .next s
  else if s.gaffer.storing then .next { s with pins := { s.pins with resetPending := true, release := none } }
  else .next s.assertReset

/-- A WRITE_MOULD waits to store its image. -/
def Gaffer.mouldWaiting (g : Gaffer) : Bool :=
  match g.mouldAct with
  | some (.wait _ _ _ _) => true
  | _ => false

/-- KILN_RECORD_STORE: the store of the oldest queued record starts, while PWR_STABLE is asserted, no other store runs and
no mould store waits (R429, R455). -/
def execKilnRecordStore (s : State) : Answer :=
  if s.pins.alive && s.pins.pwrStable && !s.gaffer.storing && !s.gaffer.mouldWaiting && !s.gaffer.kiln.isEmpty
      && !s.pins.resetPending then
    .next { s with gaffer := { s.gaffer with kilnBusy := true, storeLost := false } }
  else .next s

/-- MOULD_IMAGE_READ: the image of a WRITE_MOULD has been read as master 0x50: a failed read or an invalid image refuses
it; otherwise its store starts, or waits for PWR_STABLE (R443, R451, R455). -/
def execMouldImageRead (far : FarReply) (s : State) : Answer :=
  match s.gaffer.mouldAct with
  | some (.read r m src) =>
    if !s.pins.alive then .next s
    else
      let (err, image, s) := s.readImage far src.toNat 8192
      let s := { s with gaffer := { s.gaffer with mouldAct := none } }
      match err with
      | some code => .next (s.final r code [])
      | none =>
        if !mouldValid image then .next (s.final r Code.badParam [])
        else .next { s with gaffer := { s.gaffer with mouldAct := some (.wait r m image s.nc) } }.startMouldStore
  | _ => .next s

/-- MOULD_STORE_WAIT_TIMEOUT: a WRITE_MOULD has waited 10 ms without starting its store (R455). -/
def execMouldStoreWaitTimeout (s : State) : Answer :=
  match s.gaffer.mouldAct with
  | some (.wait r _ _ since) =>
    if s.pins.alive && decide (since + 10000 * Config.ncPerUs ≤ s.nc) then
      .next ({ s with gaffer := { s.gaffer with mouldAct := none } }.final r Code.busy [])
    else .next s
  | _ => .next s

/-! Pins (R277, R455, R472, R474, R475). -/

/-- PWR_STABLE_CHANGE: a fall tears a running store; a rise lets a waiting one start. -/
def execPwrStableChange (level : Bool) (s : State) : Answer :=
  let s := { s with
    pins := { s.pins with pwrStable := level }
    gaffer := { s.gaffer with storeLost := s.gaffer.storeLost || (!level && s.gaffer.storing) } }
  .next (if level && s.pins.alive then s.startMouldStore else s)

/-- TEST_MODE_CHANGE: while it is asserted SYNCED is clear and LC holds; 64 samples must follow its deassertion before a
pulse synchronises the count again (R273, R277). -/
def execTestModeChange (level : Bool) (s : State) : Answer :=
  let l := s.lehr
  .next { s with
    pins := { s.pins with testMode := level }
    lehr := { l with synced := l.synced && !level, watch := l.watch && !level, samples := 0 } }

/-- SCAN_SHIFT: while TEST_MODE is asserted a shift leaves functional state undefined (R475): any state, but the queue of
commands, the pins and the contents of MRAM, which holds its bits without power. -/
def execScanShift (s : State) : Answer :=
  if !s.pins.testMode then .next s
  else
    let t := (Config.freeState s.free).tidy
    .next { t with
      pending := s.pending, pins := s.pins, free := s.free + 1
      gaffer := { t.gaffer with mram := s.gaffer.mram, tornMould := s.gaffer.tornMould, tornKiln := s.gaffer.tornKiln } }

/-- TEST_ACCESS_PORT: boundary scan and memory self-test leave functional state intact without a scan shift; the IEEE 1687
network alone writes the repair data area (R454, R475). -/
def execTestAccessPort (access : TestAccess) (s : State) : Answer :=
  match access with
  | .boundaryScan => .next s
  | .memorySelfTest => .next s
  | .repairWrite offset value =>
    .next { s with gaffer := { s.gaffer with mram := s.gaffer.mram.write (0x8000 + offset.toNat) value } }

end Sys2Proof.Machine
end

