-- ==== Sys2Proof/Machine/Registers.lean ====
section
/-! DEFINITION. Register space: what every register reads as, what reading it clears, and what writing it does, by access
code (R9, R18, R64-R67, R94, R95, R139, R140, R173, R174, R199, R200, R236, R237, R270, R271, R304, R305, R331-R333,
R377, R378, R383, R384, R393, R394, R430, R431, R457, R482, R483). -/

namespace Sys2Proof.Machine

/-! Codes of states. -/

/-- Task state codes (R28). -/
def TaskState.code : TaskState → Nat
  | .free => 0
  | .ready => 1
  | .waiting => 2
  | .halted => 3

/-- Shard state codes (R354). -/
def ShardState.code : ShardState → Nat
  | .empty => 0
  | .idle => 1
  | .armed => 2
  | .ready => 3
  | .stats => 4
  | .update => 5
  | .fault => 6

/-- Port state codes (R331). -/
def PortState.code : PortState → Nat
  | .down => 0
  | .training => 1
  | .hello => 2
  | .up => 3
  | .mismatch => 4
  | .tied => 5

/-! The 64-bit registers (R140, R174). -/

/-- `o` is `base + stride * i` for an index below `count`; answers the index. -/
def indexed (base stride count o : Nat) : Option Nat :=
  if base ≤ o && (o - base) % stride == 0 && decide ((o - base) / stride < count) then some ((o - base) / stride) else none

/-- The value of the 64-bit register whose lower word lies at offset `o` of register block `blk`; none where there is no
such register. Blocks of the compute tier read zero outside RUN (R140, R200, R304, R305, R174, R271). -/
def State.reg64 (s : State) (blk o : Nat) : Option DWord :=
  let run := fun (x : DWord) => if s.inRun then some x else some 0#64
  if 2 ≤ blk && blk ≤ 5 then
    match o with
    | 0x008 => run (s.me (blk - 2)).abusy
    | 0x010 => run (s.me (blk - 2)).gated
    | _ => none
  else match blk, o with
    | 6, 0x018 => run s.ve.busy
    | 7, 0x008 => some s.se.fAddr
    | 7, 0x018 => some s.se.ptroot
    | 8, 0x020 => some s.marver.seed
    | 8, 0x048 => some s.marver.blocks
    | 9, 0x820 => run s.rings.tx
    | 9, 0x828 => some s.rings.rx
    | 9, _ => (indexed 0x110 0x40 5 o).map fun p => (s.port p).fwd
    | 10, 0x008 => some s.lehr.lc
    | 10, 0x040 => run (BitVec.ofNat 64 ((List.range 64).foldl (fun a w => a + flag w (Vec.at s.sched.windows w).active) 0))
    | 10, 0x048 => run (BitVec.ofNat 64 ((List.range 64).foldl (fun a w => a + flag w (Vec.at s.sched.windows w).done) 0))
    | 10, 0x050 => some s.lehr.snapNext
    | 10, _ => (indexed 0x100 0x10 8 o).map fun a => (Vec.at s.lehr.acts a).target
    | 11, 0x008 => some s.journal.base
    | 11, 0x020 => some s.journal.snapBase
    | 11, 0x030 => some s.journal.snapId
    | 11, 0x040 => some s.journal.tbase
    | 11, _ => (indexed 0x100 0x10 16 o).map fun v => Vec.at s.journal.volB v
    | 13, 0x008 => run s.stats.seed
    | 13, _ => (indexed 0x800 0x10 64 o).map fun d => Tbl.get 0#64 s.digests.val d
    | _, _ => none

/-- Writing the 64-bit register at offset `o`, both words at once. -/
def State.setReg64 (s : State) (blk o : Nat) (v : DWord) : State :=
  match blk, o with
  | 7, 0x018 => { s with se := { s.se with ptroot := BitVec.ofNat 64 (fld 56 12 v.toNat * 2 ^ 12) } }.tlbClear
  | 8, 0x020 => { s with marver := { s.marver with seed := v } }
  | 10, 0x050 => { s with lehr := { s.lehr with snapNext := v } }
  | 10, _ => match indexed 0x100 0x10 8 o with
    | some a => s.onAct a fun x => { x with target := v }
    | none => s
  | 11, 0x008 => { s with journal := { s.journal with base := baseBits 16 v.toNat } }
  | 11, 0x020 => { s with journal := { s.journal with snapBase := baseBits 20 v.toNat } }
  | 11, 0x040 => { s with journal := { s.journal with tbase := baseBits 16 v.toNat } }
  | 11, _ => match indexed 0x100 0x10 16 o with
    | some i => { s with journal := { s.journal with volB := Vec.upd s.journal.volB i fun _ => baseBits 16 v.toNat } }
    | none => s
  | 13, 0x008 => { s with stats := { s.stats with seed := v } }
  | _, _ => s

/-- The 64-bit registers that a write changes; the others are read-only. -/
def writable64 (blk o : Nat) : Bool :=
  match blk, o with
  | 7, 0x018 => true
  | 8, 0x020 => true
  | 10, 0x050 => true
  | 10, _ => (indexed 0x100 0x10 8 o).isSome
  | 11, 0x008 => true
  | 11, 0x020 => true
  | 11, 0x040 => true
  | 11, _ => (indexed 0x100 0x10 16 o).isSome
  | 13, 0x008 => true
  | _, _ => false

/-! Reads (R9). -/

/-- States of sixteen tasks from task `k` (R65). -/
def Core.tstate (c : Core) (k : Nat) : Nat :=
  (List.range 16).foldl (fun a i => a + (Vec.at c.tasks (k + i)).state.code * 4 ^ i) 0

/-- Four owner fields from queue `k` (R65). -/
def Core.ownWord (c : Core) (k : Nat) : Nat :=
  (List.range 4).foldl (fun a i => a + (Vec.at c.owners (k + i)).toNat * 256 ^ i) 0

/-- CC_ registers (R65). -/
def State.viewCore (s : State) (o : Nat) : Nat :=
  let c := s.core
  if !s.inRun then 0
  else match o with
    | 0x000 => c.tstate 0
    | 0x004 => c.tstate 16
    | 0x008 => c.faultCode.toNat * 65536 + flag 15 c.faultValid + c.faultSlot.toNat * 8192 + c.faultTask.toNat * 256
    | 0x00C => c.faultPc.toNat / 2 * 2
    | 0x0A0 => c.ownWord 0
    | 0x0A4 => c.ownWord 4
    | _ => match indexed 0x020 4 8 o, indexed 0x060 4 8 o, indexed 0x080 4 8 o with
      | some q, _, _ => (s.queue q).fcode.toNat * 65536 + flag 15 (s.queue q).stopped + (s.queue q).entries.length
      | _, some q, _ => (s.queue q).completed.toNat
      | _, _, some q => (s.queue q).issued.toNat
      | _, _, _ => 0

/-- A tile descriptor's valid bits as ME_TVALID shows them: bits above ROWS read zero (R94). -/
def MatrixEngine.shownValid (m : MatrixEngine) : Nat :=
  match m.shape m.tsel.toNat with
  | some t => (Vec.at m.valid m.tsel.toNat).toNat % 2 ^ t.rows
  | none => 0

/-- Swap tokens in the array. -/
def MatrixEngine.tokens (m : MatrixEngine) : Nat := (m.inflight.filter fun x => match x.op with
  | .token _ => true
  | _ => false).length

/-- ME_STAT (R139): the sets as the last completed LDW or SWAP left them, so that a token in the array does not show yet, and
what the commands in flight do (log 73). -/
def MatrixEngine.statWord (m : MatrixEngine) : Nat :=
  let (act, sha) := if m.tokens % 2 = 0 then (m.active, m.shadow) else (m.shadow, m.active)
  let loading := m.inflight.any fun x => match x.op with
    | .ldw _ done => decide (0 < done)
    | _ => false
  let edge := m.inflight.any fun x => match x.op with
    | .mm _ _ _ => true
    | .mms c _ done _ _ _ _ => decide (done ≤ c.count)
    | _ => false
  let conv := m.inflight.any fun x => match x.op with
    | .mms _ _ done g _ _ _ => decide (32 * g < done)
    | .acvt _ _ _ _ => true
    | _ => false
  (if act.tag == .none then 0 else act.tile.toNat) * 2 ^ 27 + act.tag.code * 2 ^ 24
    + sha.tile.toNat * 2 ^ 19 + sha.tag.code * 2 ^ 16 + flag 15 loading + flag 14 (decide (0 < m.tokens))
    + flag 13 edge + flag 12 conv

/-- ME_ registers (R94, R139). -/
def State.viewMe (s : State) (e o : Nat) : Nat :=
  let m := s.me e
  if !s.inRun then 0
  else match o with
    | 0x000 => m.statWord
    | 0x004 => flag 0 m.wempty
    | 0x200 => m.tsel.toNat
    | 0x204 => (Vec.at m.desc m.tsel.toNat).toNat
    | 0x208 => m.shownValid
    | 0x20C => m.emptyTile.toNat * 16 + flag 0 m.empty
    | 0x210 => m.tbub.toNat
    | 0x214 => m.tfCode.toNat * 65536 + flag 15 m.tfValid + m.tfTile.toNat * 256 + m.tfOpc.toNat
    | 0x218 => m.tfSeq.toNat
    | _ => 0

/-- VE_ registers (R199). -/
def State.viewVe (s : State) (o : Nat) : Nat :=
  let v := s.ve
  if !s.inRun then 0
  else match o with
    | 0x000 => flag 2 v.oobSticky + flag 1 v.isat + flag 0 v.inv
    | 0x004 => v.fCode.toNat * 65536 + flag 15 v.fValid + v.fOpc.toNat
    | 0x008 => v.fSeq.toNat
    | 0x00C => v.pvalid.toNat
    | 0x010 => v.oob.toNat
    | 0x014 => v.lost.toNat
    | _ => 0

/-- SE_ registers (R236). -/
def State.viewSe (s : State) (o : Nat) : Nat :=
  match o with
  | 0x000 => (s.se.ctxs.filter fun c => c.2.state == .pageHalt).length
  | 0x004 => s.se.fCode.toNat * 65536 + flag 15 s.se.fValid + s.se.fCtx.toNat
  | 0x010 => s.se.shareRead.toNat * 65536 + s.se.shareWrite.toNat * 256 + s.se.shareRemote.toNat
  | 0x014 => flag 0 s.se.xlatEn
  | 0x024 => s.router.chip.toNat
  | 0x028 => s.se.throt.toNat
  | 0x02C => s.mem.eccCount.toNat
  | 0x030 => flag 31 s.mem.eccValid + s.mem.eccAddr.toNat / 8 * 8
  | _ => 0

/-- Slots that Marver holds: those of a defined shard that is not ARMED (R361). -/
def State.mvHeld (s : State) : Nat :=
  (s.marver.slots.filter fun p => match s.slotShard p.1 p.2 with
    | none => false
    | some i => (s.shard i).state != .armed).length

/-- MV_ registers (R377, R378). -/
def State.viewMv (s : State) (o : Nat) : Nat :=
  let m := s.marver
  let i := m.ssel.toNat
  match o with
  | 0x000 => m.stat.toNat
  | 0x004 => m.fCode.toNat * 65536 + flag 15 m.fValid + m.fShard.toNat
  | 0x008 => m.lr.toNat
  | 0x00C => flag 0 m.mode
  | 0x010 => m.lrmax.toNat
  | 0x014 => m.lrmin.toNat
  | 0x018 => m.warm.toNat
  | 0x01C => m.period.toNat
  | 0x028 => i
  | 0x02C => if s.inRun then
      flag 19 (m.pubs.any fun p => p.shard == i && s.pubWaits p) + flag 18 (s.shard i).bad + (s.shard i).arr % 4096 * 16
        + (s.shard i).state.code
    else 0
  | 0x030 => if s.inRun then (s.shard i).stepn.toNat else 0
  | 0x034 => if s.inRun then (s.shard i).endn.toNat else 0
  | 0x038 => m.orphan.toNat
  | 0x03C => m.dup.toNat
  | 0x040 => s.mvHeld % 8192
  | _ => 0

/-- A remap or exit entry as RT_MAPDATA and RT_XDATA show it (R331). -/
def entryWord (e : BitVec 12) : Nat := flag 31 (entryValid e) + entryPid e

/-- RT_PORT registers (R331). -/
def Port.view (x : Port) (o : Nat) : Nat :=
  match o with
  | 0x00 => x.state.code * 2 ^ 28 + x.gen.toNat * 2 ^ 24
  | 0x04 => flag 31 x.pvalid + x.chip.toNat * 65536 + x.pid.toNat
  | 0x08 => flag 31 x.lvalid + x.domain.toNat * 2 ^ 21 + x.lcid.toNat
  | 0x0C => x.gens.toNat * 2 ^ 24 + x.hw.toNat * 65536 + x.fw.toNat
  | 0x18 => x.drop.toNat
  | 0x1C => x.retry.toNat
  | 0x20 => x.crcerr.toNat
  | _ => 0

/-- RT_ and RG_ registers (R270, R271, R331). -/
def State.viewRt (s : State) (o : Nat) : Nat :=
  let r := s.router
  let g := s.rings
  match o with
  | 0x000 => flag 2 r.mcout + flag 1 r.adapt + flag 0 r.comb
  | 0x004 => r.stat.toNat
  | 0x008 => r.posWord.toNat
  | 0x00C => r.epoch.toNat
  | 0x010 => flag 31 r.mapBank + r.mapIdx.toNat
  | 0x014 => entryWord (Tbl.get 0#12 (if r.mapBank then r.staged else r.active) r.mapIdx.toNat)
  | 0x018 => r.xIdx.toNat
  | 0x01C => entryWord (Tbl.get 0#12 r.exits r.xIdx.toNat)
  | 0x020 => r.noroute.toNat
  | 0x024 => flag 31 r.nrValid + flag 30 r.nrMis + r.nrLcid.toNat * 4096 + r.nrChip.toNat
  | 0x804 => g.cCode.toNat * 65536 + flag 15 g.cBusy + g.cTag.toNat
  | 0x808 => g.stat.toNat
  | 0x80C => g.dCode.toNat * 65536 + flag 15 g.dValid + g.dTag.toNat
  | 0x810 => g.disc.toNat
  | 0x814 => flag 31 g.staleValid + g.staleEntry.toNat
  | 0x818 => if s.inRun then g.parked.length else 0
  | _ => if 0x100 ≤ o && o < 0x240 then (s.port ((o - 0x100) / 0x40)).view (o % 0x40) else 0

/-- LH_STAT: the base-tier bits in every state, the others in RUN (R304, R305). -/
def State.lhStat (s : State) : Nat :=
  let l := s.lehr
  flag 15 l.synced + flag 5 l.sdisc + flag 4 l.actMiss + flag 0 l.lfault
    + (if s.inRun then flag 8 l.unwinSticky + flag 7 l.btmoSticky + flag 6 l.blateSticky + flag 3 l.lateSticky
        + flag 2 l.slipSticky else 0)

/-- CTL of a timed action (R304). -/
def TimedAction.ctl (x : TimedAction) : Nat := flag 31 x.armed + flag 30 x.fired + flag 29 x.missed + x.kind.toNat

/-- LH_BAR registers (R304). -/
def Barrier.view (b : Barrier) (o : Nat) : Nat :=
  match o with
  | 0x00 => b.rootLcid.toNat * 4096 + b.rootChip.toNat
  | 0x04 => b.expect.toNat
  | 0x08 => b.gen.toNat * 65536 + b.margin.toNat
  | 0x0C => b.rgen.toNat * 65536 + flag 0 b.pend
  | 0x10 => b.rcnt.toNat
  | _ => 0

/-- LH_ registers (R304, R305). -/
def State.viewLh (s : State) (o : Nat) : Nat :=
  let l := s.lehr
  let run := fun (x : Nat) => if s.inRun then x else 0
  match o with
  | 0x000 => s.lhStat
  | 0x004 => run l.guard.toNat
  | 0x010 => l.lfaultWord
  | 0x014 => run (l.sfLate.toNat * 65536 + flag 15 l.sfValid)
  | 0x018 => run (flag 31 l.tfValid + l.tfWin.toNat * 2 ^ 24 + l.tfTag.toNat)
  | 0x01C => run l.btmo.toNat
  | 0x020 => run l.slip.toNat
  | 0x024 => run l.late.toNat
  | 0x028 => run l.early.toNat
  | 0x02C => run l.unwin.toNat
  | 0x030 => run l.blate.toNat
  | 0x034 => l.syncdisc.toNat
  | 0x038 => l.snapInt.toNat
  | _ => match indexed 0x108 0x10 8 o, indexed 0x10C 0x10 8 o with
    | some a, _ => (Vec.at l.acts a).ctl
    | _, some a => (Vec.at l.acts a).arg.toNat
    | _, _ => if 0x200 ≤ o && o < 0x3C0 then (Vec.at l.bars ((o - 0x200) / 0x20)).view (o % 0x20) else 0

/-- JN_SNAPSTAT (R430). -/
def Journal.snapStat (j : Journal) : Nat :=
  flag 31 j.snapValid + flag 30 j.snapBusy + flag 29 j.snapPend + flag 24 j.snapBank + j.rcause.toNat * 65536
    + j.snapCount.toNat

/-- JN_ registers (R430). -/
def State.viewJn (s : State) (o : Nat) : Nat :=
  let j := s.journal
  match o with
  | 0x000 => flag 1 j.ten + flag 0 j.en
  | 0x004 => j.stat.toNat
  | 0x010 => j.size.toNat
  | 0x014 => j.tfill / 16 % 65536 * 65536 + j.fill / 16 % 65536
  | 0x018 => j.wseq.toNat
  | 0x01C => s.jnRstat
  | 0x028 => j.snapStat
  | 0x02C => j.resume.toNat / 2 * 2
  | 0x038 => j.tsize.toNat * 65536 + j.tper.toNat
  | 0x048 => s.gaffer.kseq.toNat
  | _ => match indexed 0x080 4 16 o, indexed 0x108 0x10 16 o with
    | some i, _ => (j.live.extractLsb' (32 * i) 32).toNat
    | _, some v => flag 31 (j.volV.getLsbD v) + (Vec.at j.volS v).toNat
    | _, _ => 0

/-- A statistics counter of a set (R173). -/
def StatSet.view (t : StatSet) (o : Nat) : Nat :=
  match o with
  | 0x00 => t.zero.toNat
  | 0x04 => t.sat.toNat
  | 0x08 => t.nonfin.toNat
  | 0x0C => t.flush.toNat
  | 0x10 => t.maxexp.toNat
  | 0x14 => t.retry.toNat
  | 0x18 => t.exh.toNat
  | 0x1C => t.groups.toNat
  | _ => 0

/-- TS_ and DG_ registers (R173, R174, R393). -/
def State.viewTs (s : State) (o : Nat) : Nat :=
  let t := s.stats
  let g := s.digests
  let run := fun (x : Nat) => if s.inRun then x else 0
  match o with
  | 0x004 => run (flag 17 t.nonfin + flag 16 t.rsx + t.nfSet.toNat * 256 + t.rxSet.toNat)
  | 0x010 => run t.step.toNat
  | 0x014 => run s.hid.toNat
  | 0x400 => flag 0 g.log
  | 0x404 => flag 1 g.logErr + flag 0 g.logWrap
  | 0x408 => g.logBase.toNat / 16 * 16
  | 0x40C => g.logSize.toNat
  | 0x410 => g.logPtr.toNat
  | _ => if 0x100 ≤ o && o < 0x300 then run ((Vec.at t.sets ((o - 0x100) / 0x20)).view (o % 0x20))
    else match indexed 0x808 0x10 64 o with
      | some d => (Tbl.get 0#32 g.cnt d).toNat
      | none => 0

/-- The identity and mode block (R18, R64, R383, R457). -/
def State.viewId (s : State) (o : Nat) : Nat :=
  match o with
  | 0x010 => kfeat0
  | 0x014 => kfeat1
  | 0x018 => kfeat2
  | 0x01C => s.kfeat3
  | 0x030 => s.kcrMode
  | 0x040 => s.kcrTier
  | 0x044 => s.kcrBoot
  | 0x048 => s.kcrMould
  | _ => 0

/-- What the word at offset `o` of block `blk` reads as; an offset that holds no register reads zero (R479). -/
def State.regView (s : State) (blk o : Nat) : Nat :=
  match s.reg64 blk o with
  | some v => (loWord v).toNat
  | none =>
    match (if 4 ≤ o then s.reg64 blk (o - 4) else none) with
    | some v => (hiWord v).toNat
    | none =>
      if 2 ≤ blk && blk ≤ 5 then s.viewMe (blk - 2) o
      else match blk with
        | 0 => s.viewId o
        | 1 => s.viewCore o
        | 6 => s.viewVe o
        | 7 => s.viewSe o
        | 8 => s.viewMv o
        | 9 => s.viewRt o
        | 10 => s.viewLh o
        | 11 => s.viewJn o
        | 12 => if o < 0x180 && o % 4 = 0 then s.entry (o / 4) else 0
        | 13 => s.viewTs o
        | _ => 0

/-- A read clears RC fields (R9). -/
def State.regClear (s : State) (blk o : Nat) : State :=
  if 2 ≤ blk && blk ≤ 5 then
    if o = 0x210 && s.inRun then s.onMe (blk - 2) fun m => { m with tbub := 0#32 } else s
  else match blk, o with
    | 6, 0x010 => if s.inRun then { s with ve := { s.ve with oob := 0#32 } } else s
    | 6, 0x014 => if s.inRun then { s with ve := { s.ve with lost := 0#32 } } else s
    | 7, 0x028 => { s with se := { s.se with throt := 0#32 } }
    | 7, 0x02C => { s with mem := { s.mem with eccCount := 0#32 } }
    | 8, 0x038 => { s with marver := { s.marver with orphan := 0#32 } }
    | 8, 0x03C => { s with marver := { s.marver with dup := 0#32 } }
    | 9, 0x020 => { s with router := { s.router with noroute := 0#32 } }
    | 9, 0x810 => { s with rings := { s.rings with disc := 0#32 } }
    | 9, _ => match indexed 0x118 0x40 5 o, indexed 0x11C 0x40 5 o, indexed 0x120 0x40 5 o with
      | some p, _, _ => s.onPort p fun x => { x with drop := 0#32 }
      | _, some p, _ => s.onPort p fun x => { x with retry := 0#32 }
      | _, _, some p => s.onPort p fun x => { x with crcerr := 0#32 }
      | _, _, _ => s
    | 10, 0x020 => if s.inRun then { s with lehr := { s.lehr with slip := 0#32 } } else s
    | 10, 0x024 => if s.inRun then { s with lehr := { s.lehr with late := 0#32 } } else s
    | 10, 0x028 => if s.inRun then { s with lehr := { s.lehr with early := 0#32 } } else s
    | 10, 0x02C => if s.inRun then { s with lehr := { s.lehr with unwin := 0#32 } } else s
    | 10, 0x030 => if s.inRun then { s with lehr := { s.lehr with blate := 0#32 } } else s
    | 10, 0x034 => { s with lehr := { s.lehr with syncdisc := 0#32 } }
    | _, _ => s

/-! Upper-word latches (R140, R481). -/

/-- The latch of a master for the register whose lower word is at address `a`. -/
def latchKey (m a : Nat) : Nat := m * 2 ^ 32 + a

/-- An association list without key `k`. -/
def dropKey (k : Nat) (l : Latches) : Latches := l.filter fun p => p.1 != k

/-- The word held for key `k`. -/
def findKey (k : Nat) (l : Latches) : Option Word := (l.find? fun p => p.1 == k).map (·.2)

/-- A register read by master `m`: a lower word latches its upper word, an upper word returns and consumes the latch, an
RC field clears. Outside RUN a register of the compute tier reads zero and latches nothing (R140, log 115). -/
def State.regRead (s : State) (m blk o : Nat) : Nat × State :=
  let a := 0x04000000 + 0x1000 * blk + o
  if !s.inRun && (tierLatch a || (decide (4 ≤ o) && tierLatch (a - 4) && (s.reg64 blk (o - 4)).isSome)) then (0, s)
  else match s.reg64 blk o with
  | some v =>
    let k := latchKey m a
    ((loWord v).toNat, { s with latches := (k, hiWord v) :: dropKey k s.latches })
  | none =>
    match (if 4 ≤ o then s.reg64 blk (o - 4) else none) with
    | some v =>
      let k := latchKey m (a - 4)
      match findKey k s.latches with
      | some w => (w.toNat, { s with latches := dropKey k s.latches })
      | none => ((hiWord v).toNat, s)
    | none => (s.regView blk o, s.regClear blk o)

/-! Writes (R9). -/

/-- Registers whose writes from any master but 0x50 are denied (R305, R332, R378, R384, R431, R457). -/
def onlyGaffer (blk o : Nat) : Bool :=
  match blk with
  | 0 => o == 0x030
  | 8 => (decide (0x008 ≤ o) && decide (o ≤ 0x024))
  | 9 => o == 0x014 || o == 0x01C
  | 10 => o == 0x038 || o == 0x050 || o == 0x054 || (decide (0x100 ≤ o) && decide (o < 0x180))
      || ((decide (0x200 ≤ o) && decide (o < 0x3C0)) && decide (o % 0x20 ≤ 0x10))
  | 11 => o == 0x000 || o == 0x008 || o == 0x00C || o == 0x010 || o == 0x020 || o == 0x024 || o == 0x038
      || o == 0x040 || o == 0x044
  | 12 => decide (o < 0x180)
  | _ => false

/-- A write by master `m` is refused by a register's own rule. RT_MAPDATA takes writes of the staged bank alone (R332). -/
def State.regDenied (s : State) (m blk o : Nat) : Bool :=
  (onlyGaffer blk o && m != 0x50) || (blk == 9 && o == 0x014 && !s.router.mapBank)

/-- The queues of CC_QCTL: CLEAR and RESTART, the clear alone where both are set (R61, R66). -/
def State.queueControl (s : State) (v : Nat) : State :=
  (List.range 8).foldl (fun s q =>
    if bit (8 + q) v then s.clearQueue q else if bit q v then s.restartQueue q else s) s

/-- CC_ registers. -/
def State.putCore (s : State) (o v : Nat) : State :=
  if !s.inRun then s
  else match o with
    | 0x008 => if bit 15 v then { s with core := { s.core with faultValid := false } } else s
    | 0x040 => s.queueControl v
    | 0x0A0 => { s with core := { s.core with owners := (List.range 4).foldl (fun w i =>
        Vec.upd w i fun _ => BitVec.ofNat 5 (v >>> (8 * i))) s.core.owners } }
    | 0x0A4 => { s with core := { s.core with owners := (List.range 4).foldl (fun w i =>
        Vec.upd w (4 + i) fun _ => BitVec.ofNat 5 (v >>> (8 * i))) s.core.owners } }
    | _ => s

/-- ME_ registers. -/
def State.putMe (s : State) (e o v : Nat) : State :=
  if !s.inRun then s
  else match o with
    | 0x004 => s.onMe e fun m => { m with wempty := m.wempty && !bit 0 v }
    | 0x200 => s.onMe e fun m => { m with tsel := BitVec.ofNat 5 v }
    | 0x20C => s.onMe e fun m => { m with empty := m.empty && !bit 0 v }
    | 0x214 => s.onMe e fun m => { m with tfValid := m.tfValid && !bit 15 v }
    | _ => s

/-- VE_ registers. -/
def State.putVe (s : State) (o v : Nat) : State :=
  if !s.inRun then s
  else match o with
    | 0x000 => { s with ve := { s.ve with
        oobSticky := s.ve.oobSticky && !bit 2 v, isat := s.ve.isat && !bit 1 v, inv := s.ve.inv && !bit 0 v } }
    | 0x004 => { s with ve := { s.ve with fValid := s.ve.fValid && !bit 15 v } }
    | _ => s

/-- SE_ registers. -/
def State.putSe (s : State) (o v : Nat) : State :=
  match o with
  | 0x004 => { s with se := { s.se with fValid := s.se.fValid && !bit 15 v } }
  | 0x014 => { s with se := { s.se with xlatEn := bit 0 v } }
  | 0x020 => if bit 0 v then s.tlbClear else s
  | 0x030 => { s with mem := { s.mem with eccValid := s.mem.eccValid && !bit 31 v } }
  | _ => s

/-- MV_ registers. -/
def State.putMv (s : State) (o v : Nat) : State :=
  let w := BitVec.ofNat 32 v
  match o with
  | 0x000 => { s with marver := { s.marver with stat := s.marver.stat &&& ~~~(BitVec.ofNat 7 v) } }
  | 0x004 => { s with marver := { s.marver with fValid := s.marver.fValid && !bit 15 v } }
  | 0x008 => { s with marver := { s.marver with lr := w } }
  | 0x00C => { s with marver := { s.marver with mode := bit 0 v } }
  | 0x010 => { s with marver := { s.marver with lrmax := w } }
  | 0x014 => { s with marver := { s.marver with lrmin := w } }
  | 0x018 => { s with marver := { s.marver with warm := w } }
  | 0x01C => { s with marver := { s.marver with period := w } }
  | 0x028 => { s with marver := { s.marver with ssel := BitVec.ofNat 8 v } }
  | _ => s

/-- A remap or exit entry as it is written (R331). -/
def wordEntry (v : Nat) : BitVec 12 := BitVec.ofNat 12 (flag 11 (bit 31 v) + v % 2048)

/-- RT_ and RG_ registers, written by master `m`. -/
def State.putRt (s : State) (m o v : Nat) : State :=
  let r := s.router
  match o with
  | 0x000 => { s with router := { r with mcout := bit 2 v, adapt := bit 1 v, comb := bit 0 v } }
  | 0x004 => { s with router := { r with stat := r.stat &&& ~~~(BitVec.ofNat 6 v) } }
  | 0x010 => { s with router := { r with mapBank := bit 31 v, mapIdx := BitVec.ofNat 12 v } }
  | 0x014 => if r.mapIdx.toNat < 2048 then
      { s with router := { r with staged := Tbl.set 0#12 r.staged r.mapIdx.toNat (wordEntry v) } } else s
  | 0x018 => { s with router := { r with xIdx := BitVec.ofNat 12 v } }
  | 0x01C => { s with router := { r with exits := Tbl.set 0#12 r.exits r.xIdx.toNat (wordEntry v) } }
  | 0x024 => { s with router := { r with nrValid := r.nrValid && !bit 31 v } }
  | 0x800 => s.ringCommand m (fld 31 28 v) (fld 24 12 v) (fld 11 0 v)
  | 0x808 => { s with rings := { s.rings with stat := s.rings.stat &&& ~~~(BitVec.ofNat 11 v) } }
  | 0x80C => { s with rings := { s.rings with dValid := s.rings.dValid && !bit 15 v } }
  | 0x814 => { s with rings := { s.rings with staleValid := s.rings.staleValid && !bit 31 v } }
  | _ => s

/-- CTL of a timed action is written: with ARMED set the write arms the entry, or is not performed (R280); with ARMED
clear it takes KIND and disarms. Answers whether it was performed. -/
def State.putCtl (s : State) (a v : Nat) : State × Bool :=
  let x := Vec.at s.lehr.acts a
  let kind := BitVec.ofNat 4 v
  let x' := { x with armed := bit 31 v, fired := x.fired && !bit 30 v, missed := x.missed && !bit 29 v
                     kind := kind, replay := false }
  if bit 31 v && !s.armOk kind x.target then (s, false) else (s.onAct a fun _ => x', true)

/-- LH_BAR registers (R304). -/
def Barrier.put (b : Barrier) (o v : Nat) : Barrier :=
  match o with
  | 0x00 => { b with rootLcid := BitVec.ofNat 11 (v >>> 12), rootChip := BitVec.ofNat 12 v }
  | 0x04 => { b with expect := BitVec.ofNat 24 v }
  | 0x08 => { b with margin := BitVec.ofNat 16 v }
  | _ => b

/-- LH_ registers; those of the compute tier ignore writes outside RUN (R305). -/
def State.putLh (s : State) (o v : Nat) : State :=
  let l := s.lehr
  let run := s.inRun
  match o with
  | 0x000 =>
    let l := { l with sdisc := l.sdisc && !bit 5 v, actMiss := l.actMiss && !bit 4 v, lfault := l.lfault && !bit 0 v }
    { s with lehr := if run then { l with
        unwinSticky := l.unwinSticky && !bit 8 v, btmoSticky := l.btmoSticky && !bit 7 v
        blateSticky := l.blateSticky && !bit 6 v, lateSticky := l.lateSticky && !bit 3 v
        slipSticky := l.slipSticky && !bit 2 v } else l }
  | 0x004 => if run then { s with lehr := { l with guard := BitVec.ofNat 4 v } } else s
  | 0x010 => { s with lehr := { l with lfValid := l.lfValid && !bit 15 v } }
  | 0x014 => if run then { s with lehr := { l with sfValid := l.sfValid && !bit 15 v } } else s
  | 0x018 => if run then { s with lehr := { l with tfValid := l.tfValid && !bit 31 v } } else s
  | 0x01C => if run then { s with lehr := { l with btmo := BitVec.ofNat 32 v } } else s
  | 0x038 => { s with lehr := { l with snapInt := BitVec.ofNat 32 v } }
  | _ => match indexed 0x108 0x10 8 o, indexed 0x10C 0x10 8 o with
    | some a, _ => (s.putCtl a v).1
    | _, some a => s.onAct a fun x => { x with arg := BitVec.ofNat 32 v }
    | _, _ => if 0x200 ≤ o && o < 0x3C0 then s.onBar ((o - 0x200) / 0x20) fun b => b.put (o % 0x20) v else s

/-- JN_LIVE(i): a region that becomes live gets both dirty bits (R401). -/
def Journal.putLive (j : Journal) (i v : Nat) : Journal :=
  let span : BitVec 512 := BitVec.ofNat 512 (0xFFFFFFFF <<< (32 * i))
  let new : BitVec 512 := BitVec.ofNat 512 ((v % 2 ^ 32) <<< (32 * i))
  let gained := new &&& ~~~j.live
  { j with live := (j.live &&& ~~~span) ||| new, dirty0 := j.dirty0 ||| gained, dirty1 := j.dirty1 ||| gained }

/-- JN_ registers. -/
def State.putJn (s : State) (o v : Nat) : State :=
  let j := s.journal
  match o with
  | 0x000 => { s with journal := { j with ten := bit 1 v, en := bit 0 v } }
  | 0x004 => { s with journal := { j with
      stat := j.stat &&& ~~~(BitVec.ofNat 8 v), starvPosted := j.starvPosted && !bit 1 v } }
  | 0x010 => { s with journal := { j with size := BitVec.ofNat 16 v } }
  | 0x02C => { s with journal := { j with resume := BitVec.ofNat 16 (v / 2 * 2) } }
  | 0x038 => { s with journal := { j with tsize := BitVec.ofNat 16 (v >>> 16), tper := BitVec.ofNat 5 v } }
  | _ => match indexed 0x080 4 16 o, indexed 0x108 0x10 16 o with
    | some i, _ => { s with journal := j.putLive i v }
    | _, some i =>
      let b := BitVec.ofNat 16 (2 ^ i)
      { s with journal := { j with
          volV := if bit 31 v then j.volV ||| b else j.volV &&& ~~~b
          volS := Vec.upd j.volS i fun _ => BitVec.ofNat 16 v } }
    | _, _ => s

/-- AC_ENT(m); the fixed entries ignore writes (R450, R457). -/
def State.putAccess (s : State) (m v : Nat) : State :=
  if m < 0x60 && m != 0x00 && m != 0x01 && !(0x53 ≤ m) && m != 0x50 then
    let w := BitVec.ofNat 32 (v &&& accessMask)
    { s with gaffer := { s.gaffer with access := Tbl.set 0#32 s.gaffer.access m w } }
  else s

/-- TS_ and DG_ registers; the TS_ ones ignore writes outside RUN (R174). -/
def State.putTs (s : State) (o v : Nat) : State :=
  let t := s.stats
  let g := s.digests
  match o with
  | 0x000 => if s.inRun then { s with stats := { t with sets := (List.range 16).foldl (fun w i =>
      if bit i v then Vec.upd w i fun _ => StatSet.cleared else w) t.sets } } else s
  | 0x004 => if s.inRun then { s with stats := { t with nonfin := t.nonfin && !bit 17 v, rsx := t.rsx && !bit 16 v } } else s
  | 0x010 => if s.inRun then { s with stats := { t with step := BitVec.ofNat 32 v } } else s
  | 0x400 =>
    let g := { g with log := bit 0 v }
    { s with digests := if bit 31 v then { g with val := [], cnt := [], logPtr := 0#32 } else g }
  | 0x404 => { s with digests := { g with logErr := g.logErr && !bit 1 v, logWrap := g.logWrap && !bit 0 v } }
  | 0x408 => { s with digests := { g with logBase := BitVec.ofNat 21 (v / 16 * 16) } }
  | 0x40C => { s with digests := { g with logSize := BitVec.ofNat 16 v } }
  | _ => s

/-- The RW1C bits of the register at an offset (R483). -/
def stickyBits (blk o : Nat) : Nat :=
  if 2 ≤ blk && blk ≤ 5 then
    match o with
    | 0x004 => 1
    | 0x20C => 1
    | 0x214 => 0x8000
    | _ => 0
  else match blk, o with
    | 1, 0x008 => 0x8000
    | 6, 0x000 => 7
    | 6, 0x004 => 0x8000
    | 7, 0x004 => 0x8000
    | 7, 0x030 => 0x80000000
    | 8, 0x000 => 0x7E
    | 8, 0x004 => 0x8000
    | 9, 0x004 => 0x3F
    | 9, 0x024 => 0x80000000
    | 9, 0x808 => 0x7FE
    | 9, 0x80C => 0x8000
    | 9, 0x814 => 0x80000000
    | 10, 0x000 => 0x1FD
    | 10, 0x010 => 0x8000
    | 10, 0x014 => 0x8000
    | 10, 0x018 => 0x80000000
    | 11, 0x004 => 0xFE
    | 13, 0x004 => 0x30000
    | 13, 0x404 => 3
    | 10, _ => if (indexed 0x108 0x10 8 o).isSome then 0x60000000 else 0
    | _, _ => 0

/-- A write of a 32-bit register, permitted and not half of a writable 64-bit one. An RW1C bit that an event has set in the present
N-cycle stays set (R10). -/
def State.put32 (s : State) (m blk o value : Nat) : State :=
  let v := s.unraised blk o (stickyBits blk o) value
  if 2 ≤ blk && blk ≤ 5 then s.putMe (blk - 2) o v
  else match blk with
    | 0 => if o = 0x030 then { s with tier := { s.tier with detNext := bit 1 v } } else s
    | 1 => s.putCore o v
    | 6 => s.putVe o v
    | 7 => s.putSe o v
    | 8 => s.putMv o v
    | 9 => s.putRt m o v
    | 10 => s.putLh o v
    | 11 => s.putJn o v
    | 12 => if o < 0x180 && o % 4 = 0 then s.putAccess (o / 4) v else s
    | 13 => s.putTs o v
    | _ => s

/-- A permitted write: the lower word of a 64-bit register waits for the next write of its upper word, and both take
effect together; an upper word alone takes effect at once (R174). TS_SEED ignores writes outside RUN. -/
def State.put (s : State) (m blk o v : Nat) : State :=
  let key := 0x1000 * blk + o
  if blk = 13 && (o = 0x008 || o = 0x00C) && !s.inRun then s
  else if writable64 blk o then
    { s with lowers := (key, BitVec.ofNat 32 v) :: dropKey key s.lowers }
  else if 4 ≤ o && writable64 blk (o - 4) then
    let lower := (findKey (key - 4) s.lowers).getD (loWord ((s.reg64 blk (o - 4)).getD 0#64))
    { s with lowers := dropKey (key - 4) s.lowers }.setReg64 blk (o - 4) (ofWords (BitVec.ofNat 32 v) lower)
  else s.put32 m blk o v

/-- The status of a permitted write: BAD_PARAM where an arm is not performed (R280), OK otherwise. -/
def State.putStatus (s : State) (blk o v : Nat) : Half :=
  match (if blk = 10 then indexed 0x108 0x10 8 o else none) with
  | some a => if (s.putCtl a v).2 then Code.ok else Code.badParam
  | none => Code.ok

end Sys2Proof.Machine
end

