-- ==== Sys2Proof/Machine/Bus.lean ====
section
/-! DEFINITION. The local window: which structure an address lies in, who may reach it, what a read answers and what a
write does, and the rows that are accesses of a master (R8, R89, R209, R228, R242, R252, R400, R432, R449, R450, R457,
R477-R481). -/

namespace Sys2Proof.Machine

/-- The structures of the local window (R478), with the place inside each. -/
inductive Window.At where
  | loc (a : Nat)
  | tile (e off : Nat)
  | ring (t off : Nat)
  | credit (e off : Nat)
  | ctx (id off : Nat)
  | seq (off : Nat)
  | reg (blk off : Nat)
  | mbReq (off : Nat)
  | mbRep (off : Nat)
  | mbCtl (off : Nat)
  deriving DecidableEq, Repr, Inhabited

/-- The range of R478 that an address lies in; none outside every range (R479). -/
def windowAt (a : Nat) : Option Window.At :=
  if a < 0x200000 then some (.loc a)
  else if 0x2000000 ≤ a && a < 0x2080000 then some (.tile ((a - 0x2000000) / 0x20000) (a % 0x20000))
  else if 0x3000000 ≤ a && a < 0x3040000 then some (.ring ((a - 0x3000000) / 32) (a % 32))
  else if 0x3200000 ≤ a && a < 0x3208000 then some (.credit ((a - 0x3200000) / 16) (a % 16))
  else if 0x3400000 ≤ a && a < 0x3430000 then some (.ctx ((a - 0x3400000) / 64) (a % 64))
  else if 0x3800000 ≤ a && a < 0x3804000 then some (.seq (a - 0x3800000))
  else if 0x4000000 ≤ a && a < 0x400E000 then some (.reg ((a - 0x4000000) / 0x1000) (a % 0x1000))
  else if 0x5000000 ≤ a && a < 0x5000800 then some (.mbReq (a - 0x5000000))
  else if 0x5000800 ≤ a && a < 0x5000F00 then some (.mbRep (a - 0x5000800))
  else if 0x5000F00 ≤ a && a < 0x5001000 then some (.mbCtl (a - 0x5000F00))
  else none

/-- The sizes that R480 allows there. -/
def Window.At.sizeOk (w : Window.At) (n : Nat) : Bool :=
  match w with
  | .reg _ _ => n == 4
  | .mbReq _ => n == 4
  | .mbRep _ => n == 4
  | .mbCtl _ => n == 4
  | _ => n == 1 || n == 2 || n == 4 || n == 8

/-- The registers that take writes of master 0x51 whatever its access table entry says: JN_RESUME, JN_LIVE, JN_VOLB and
JN_VOLS (R431). -/
def openToCore (blk o : Nat) : Bool :=
  blk == 11 && (o == 0x02C || (decide (0x080 ≤ o) && decide (o < 0x0C0)) || (decide (0x100 ≤ o) && decide (o < 0x200) && decide (o % 16 < 12)))

/-- The right that the access table must grant (R449, R478): any command class opens the mailbox window. -/
def State.mayWindow (s : State) (m : Nat) (w : Window.At) (write : Bool) : Bool :=
  let mailbox := fld 19 16 (s.entry m) != 0
  match w with
  | .loc _ => s.may m .loc write
  | .ring _ _ => s.may m .ring write
  | .credit _ _ => s.may m .ring write
  | .mbReq _ => mailbox
  | .mbRep _ => mailbox
  | .mbCtl _ => mailbox
  | .reg blk o => s.may m .reg write || (write && m == 0x51 && openToCore blk o)
  | _ => s.may m .reg write

/-- The structure refuses the access by its own rule: a tile window outside RUN (R89), a write of a context (R209), a
register that takes writes from master 0x50 alone. -/
def State.windowDenied (s : State) (m : Nat) (w : Window.At) (write : Bool) : Bool :=
  match w with
  | .tile _ _ => !s.inRun
  | .ctx _ _ => write
  | .reg blk o => write && s.regDenied m blk o
  | _ => false

/-- The checks on an access of `n` bytes at `a` by master `m` (R8, R449, R478-R480): where it goes, or none when it is not
performed and reports ACCESS_DENIED. -/
def State.busCheck (s : State) (m a n : Nat) (write : Bool) : Option Window.At :=
  match windowAt a with
  | none => none
  | some w =>
    if n != 0 && a % n == 0 && w.sizeOk n && s.mayWindow m w write && !s.windowDenied m w write then some w else none

/-- A read that is performed: its status, its data and the state after it. -/
def State.busGet (s : State) (m n : Nat) (w : Window.At) : Half × Nat × State :=
  match w with
  | .loc a =>
    let (bs, bad, s) := s.lread a n
    match bad with
    | some x => (Code.eccUncorrected, 0, s.noteEcc (if m = 0x51 then Source.core else Source.stream) x)
    | none => (Code.ok, ofLE bs, s)
  | .tile e off =>
    match (s.me e).poolError off n with
    | some x => (Code.eccUncorrected, 0, s.kilnRecord Code.eccUncorrected (Source.matrix e) [(Source.matrix e).toNat, x])
    | none => (Code.ok, (s.me e).pool.readLE off n, s)
  | .ring t off => (Code.ok, s.ringFld t off n, s)
  | .credit e off => (Code.ok, s.readCredit e off n, s)
  | .ctx id off => (Code.ok, leAt (s.ctxBytes id) off n, s)
  | .seq off => (Code.ok, s.se.seqTable.readLE off n, s)
  | .reg blk o => let (v, s) := s.regRead m blk o; (Code.ok, v, s)
  | .mbReq off => (Code.ok, s.gaffer.mbReq.readLE off n, s)
  | .mbRep off => (Code.ok, s.gaffer.mbRep.readLE off n, s)
  | .mbCtl off => (Code.ok, if off = 0 then flag 2 s.gaffer.mbBusy + flag 1 s.gaffer.mbDone else 0, s)

/-- The packet in the mailbox request buffer: as long as its header says, at most the buffer (R432, R434, R435, R457). -/
def Gaffer.mailboxPacket (g : Gaffer) : List Byte :=
  let n := if g.mbReq.readLE 0 1 = 1 then 12 + 4 * g.mbReq.readLE 4 1 else 16 + 4 * g.mbReq.readLE 6 2
  g.mbReq.readBytes 0 (min n 0x800)

/-- MB_CTL is written: DONE clears by a 1, and GO submits the request buffer as a packet from the writing master, unless
BUSY (R457). -/
def State.putMailbox (s : State) (m v : Nat) : State :=
  let g := { s.gaffer with mbDone := s.gaffer.mbDone && !bit 1 (s.unraised 14 0 2 v) }
  if bit 0 v && !g.mbBusy then
    let p : InPacket := { input := .mailbox (BitVec.ofNat 7 m), bytes := g.mailboxPacket }
    { s with gaffer := { g with mbBusy := true, inq := g.inq ++ [p] } }
  else { s with gaffer := g }

/-- A write that is performed. -/
def State.busPut (s : State) (m n v : Nat) (w : Window.At) : Half × State :=
  match w with
  | .loc a => (Code.ok, s.lwrite a (leBytes n v))
  | .tile e off => (Code.ok, s.onMe e fun x => x.poolWrite off (leBytes n v))
  | .ring t off => (Code.ok, s.writeDescriptor t off n v)
  | .credit e off => (Code.ok, s.writeCredit e off n v)
  | .ctx _ _ => (Code.accessDenied, s)
  | .seq off => (Code.ok, { s with se := { s.se with seqTable := s.se.seqTable.writeLE off n v } })
  | .reg blk o => (s.putStatus blk o v, s.put m blk o v)
  | .mbReq off => (Code.ok, { s with gaffer := { s.gaffer with mbReq := s.gaffer.mbReq.writeLE off n v } })
  | .mbRep _ => (Code.ok, s)
  | .mbCtl off => (Code.ok, if off = 0 then s.putMailbox m v else s)

/-- A read by a master (R449, R479). -/
def State.busRead (s : State) (m a n : Nat) : Half × Nat × State :=
  match s.busCheck m a n false with
  | none => (Code.accessDenied, 0, s)
  | some w => s.busGet m n w

/-- A write by a master (R449, R479). -/
def State.busWrite (s : State) (m a n v : Nat) : Half × State :=
  match s.busCheck m a n true with
  | none => (Code.accessDenied, s)
  | some w => s.busPut m n v w

/-- The access's response to its master. -/
def State.respond (s : State) (m : Nat) (code : Half) (data : Nat) : State :=
  { s with resp := { master := BitVec.ofNat 7 m, status := code, data := BitVec.ofNat 64 data } }

/-- A master outside the cluster waits while the freeze is on, at local memory and at the ring store (R400). -/
def State.busHeld (s : State) (m a : Nat) : Bool :=
  s.journal.freeze && !(m == 0x50 || m == 0x51 || m == 0x52) && match windowAt a with
    | some (.loc _) => true
    | some (.ring _ _) => true
    | some (.credit _ _) => true
    | _ => false

/-- A master reads. -/
def State.masterRead (s : State) (m a n : Nat) : State :=
  if !s.pins.alive || s.busHeld m a then s
  else let (code, v, s) := s.busRead m a n; s.respond m code v

/-- A master writes. -/
def State.masterWrite (s : State) (m a n v : Nat) : State :=
  if !s.pins.alive || s.busHeld m a then s
  else let (code, s) := s.busWrite m a n v; s.respond m code 0

/-! The rows. -/

/-- EXTERNAL_MASTER_ACCESS (R449, R477-R480). -/
def execExternalMasterAccess (m : Master) (write : Bool) (addr : DWord) (size : Nat) (data : DWord) (s : State) : Answer :=
  if write then .next (s.masterWrite m.toNat addr.toNat size (data.toNat % 2 ^ (8 * size)))
  else .next (s.masterRead m.toNat addr.toNat size)

/-- REGISTER_WRITE (R8, R9). -/
def execRegisterWrite (m : Master) (addr value : Word) (s : State) : Answer :=
  .next (s.masterWrite m.toNat addr.toNat 4 value.toNat)

/-- READ_CLEAR: a read of a register with an RC field (R9, R10). -/
def execReadClear (m : Master) (addr : Word) (s : State) : Answer := .next (s.masterRead m.toNat addr.toNat 4)

/-- UPPER_WORD_LATCH_READ: a read of the lower word of a 64-bit register (R140, R481). -/
def execUpperWordLatchRead (m : Master) (addr : Word) (s : State) : Answer := .next (s.masterRead m.toNat addr.toNat 4)

/-- SPLIT_64BIT_WRITE: a write of the lower word of a 64-bit register (R174). -/
def execSplit64BitWrite (m : Master) (addr lower : Word) (s : State) : Answer :=
  .next (s.masterWrite m.toNat addr.toNat 4 lower.toNat)

/-- COUNTER_SET_CLEAR: TS_CTL.CLR (R172, R173). -/
def execCounterSetClear (m : Master) (mask : BitVec 16) (s : State) : Answer :=
  .next (s.masterWrite m.toNat 0x400D000 4 mask.toNat)

/-- DIGEST_CLEAR_ALL: DG_CTL.CLRALL, with LOG written as it stands (R390, R393). -/
def execDigestClearAll (m : Master) (s : State) : Answer :=
  .next (s.masterWrite m.toNat 0x400D400 4 (0x80000000 + flag 0 s.digests.log))

/-- JN_LIVE_WRITE: JN_LIVE(i) (R401, R431). -/
def execJnLiveWrite (m : Master) (i : BitVec 4) (value : Word) (s : State) : Answer :=
  .next (s.masterWrite m.toNat (0x400B080 + 4 * i.toNat) 4 value.toNat)

/-- QUEUE_CLEAR: CC_QCTL.CLEAR (R61, R66). -/
def execQueueClear (m : Master) (mask : BitVec 8) (s : State) : Answer :=
  .next (s.masterWrite m.toNat 0x4001040 4 (256 * mask.toNat))

/-- QUEUE_RESTART: CC_QCTL.RESTART (R61). -/
def execQueueRestart (m : Master) (mask : BitVec 8) (s : State) : Answer :=
  .next (s.masterWrite m.toNat 0x4001040 4 mask.toNat)

/-- TLB_INVALIDATE: SE_TLBINV.ALL (R223). -/
def execTlbInvalidate (m : Master) (s : State) : Answer := .next (s.masterWrite m.toNat 0x4007020 4 1)

/-- PTROOT_WRITE: the upper word of SE_PTROOT, with the lower word that waits for it (R223, R237). -/
def execPtrootWrite (m : Master) (upper : Word) (s : State) : Answer :=
  .next (s.masterWrite m.toNat 0x400701C 4 upper.toNat)

/-- RPTR_WRITE: a reader frees space of a PLAIN ring (R242, R257). -/
def execRptrWrite (m : Master) (tag : BitVec 13) (value : Word) (s : State) : Answer :=
  .next (s.masterWrite m.toNat (0x3000000 + 32 * tag.toNat + 16) 4 value.toNat)

/-- RING_DESCRIPTOR_WRITE (R242). -/
def execRingDescriptorWrite (m : Master) (offset : BitVec 18) (size : Nat) (data : DWord) (s : State) : Answer :=
  .next (s.masterWrite m.toNat (0x3000000 + offset.toNat) size (data.toNat % 2 ^ (8 * size)))

/-- CREDIT_ENTRY_WRITE (R252). -/
def execCreditEntryWrite (m : Master) (offset : BitVec 15) (size : Nat) (data : DWord) (s : State) : Answer :=
  .next (s.masterWrite m.toNat (0x3200000 + offset.toNat) size (data.toNat % 2 ^ (8 * size)))

/-- A ring command is written to RG_CMD (R244, R270). -/
def State.writeRgCmd (s : State) (m : Master) (op : Nat) (tag : BitVec 13) (slot : Nat) : State :=
  s.masterWrite m.toNat 0x4009800 4 (op * 2 ^ 28 + tag.toNat * 4096 + slot)

/-- OPEN (R244, R245). -/
def execRingOpen (m : Master) (tag : BitVec 13) (s : State) : Answer := .next (s.writeRgCmd m 1 tag 0)

/-- CLOSE (R244, R265-R267). -/
def execRingClose (m : Master) (tag : BitVec 13) (s : State) : Answer := .next (s.writeRgCmd m 2 tag 0)

/-- DRAIN (R244, R265-R267). -/
def execRingDrain (m : Master) (tag : BitVec 13) (s : State) : Answer := .next (s.writeRgCmd m 3 tag 0)

/-- RESET (R244, R265-R267). -/
def execRingReset (m : Master) (tag : BitVec 13) (s : State) : Answer := .next (s.writeRgCmd m 4 tag 0)

/-- GREL (R244, R262). -/
def execRingGrel (m : Master) (tag : BitVec 13) (slot : BitVec 12) (s : State) : Answer :=
  .next (s.writeRgCmd m 5 tag slot.toNat)

/-- ACTION_ARM: CTL of timed action `a` (R280, R305). -/
def execActionArm (m : Master) (a : Fin 8) (ctl : Word) (s : State) : Answer :=
  .next (s.masterWrite m.toNat (0x400A108 + 16 * a.val) 4 ctl.toNat)

/-- MAILBOX_GO: MB_CTL.GO (R432, R457). -/
def execMailboxGo (m : Master) (s : State) : Answer := .next (s.masterWrite m.toNat 0x5000F00 4 1)

end Sys2Proof.Machine
end

