-- ==== Sys2Proof/Machine/Cache.lean ====
section
/-! DEFINITION. The data cache and the loads and stores of the control core (R41, R47, R54, R63, R204, R343, R344, R484). -/

namespace Sys2Proof.Machine

/-- Put the low `n` bytes of `v` into a line at offset `off`. A whole 8-byte word is good again; a part of one leaves it
poisoned, as in local memory (R204). -/
def CacheLine.put (l : CacheLine) (off n : Nat) (v : DWord) : CacheLine :=
  let hole := BitVec.ofNat 512 (2 ^ (8 * n) - 1) <<< (8 * off)
  { l with
    data := (l.data &&& ~~~hole) ||| (BitVec.ofNat 512 (v.toNat % 2 ^ (8 * n)) <<< (8 * off))
    poison := if n = 8 then l.poison &&& ~~~(1#8 <<< (off / 8)) else l.poison }

/-- `n` bytes of a line at offset `off`. -/
def CacheLine.read (l : CacheLine) (off n : Nat) : Nat := l.data.toNat / 2 ^ (8 * off) % 2 ^ (8 * n)

/-- The line that holds address `a`, if it is present. A line whose storage holds an uncorrectable error is dropped and
refetched, so it counts as absent (R63). -/
def Core.line (c : Core) (a : Nat) : Option CacheLine := c.cache.find? fun l => l.line == a / 64 && !l.bad

/-- A load uses a line: it becomes the most recently used (R484). -/
def Core.touch (c : Core) (l : CacheLine) : Core :=
  { c with cache := l :: c.cache.filter fun x => x.line != l.line }

/-- Keep at most `n` lines of a set, the most recently used. -/
def keepWays (set : Nat) : Nat → List CacheLine → List CacheLine
  | _, [] => []
  | n, l :: ls =>
    if l.line % 128 = set then
      match n with
      | 0 => keepWays set 0 ls
      | n + 1 => l :: keepWays set n ls
    else l :: keepWays set n ls

/-- Allocate a line, in place of the least recently used one of its set of four ways (R484). -/
def Core.allocate (c : Core) (l : CacheLine) : Core :=
  { c with cache := l :: keepWays (l.line % 128) 3 (c.cache.filter fun x => x.line != l.line) }

/-- Drop the lines that `[base, base+len)` touches, or every line (R344). -/
def Core.dropLines (c : Core) (base len : Nat) (all : Bool) : Core :=
  { c with cache := if all then [] else
      c.cache.filter fun l => !(decide (64 * l.line < base + len) && decide (base < 64 * l.line + 64)) }

/-- Put a store among others in the order in which they were issued. -/
def insertStore (e : StoreEntry) : List StoreEntry → List StoreEntry
  | [] => [e]
  | x :: xs => if e.ord < x.ord then e :: x :: xs else x :: insertStore e xs

/-- The stores of all tasks that still wait for a line, in issue order (R344). -/
def Core.storesFor (c : Core) (line : Nat) : List StoreEntry :=
  let all := (c.tasks.toList.flatMap fun t => t.stores).filter fun e => e.addr / 64 == line
  all.foldl (fun l e => insertStore e l) []

/-- A line is filled from local memory: an uncorrectable word is recorded and marks its part of the line poisoned, and
stores still in a buffer are taken in (R63, R204, R344). -/
def State.fill (s : State) (line : Nat) : State :=
  let (bs, _, s) := s.lread (64 * line) 64
  let bad := (List.range 8).filter fun k => s.mem.bad.contains (8 * line + k)
  let s := bad.foldl (fun (s : State) k => s.noteEcc Source.core (64 * line + 8 * k)) s
  let l : CacheLine := {
    line := line
    data := BitVec.ofNat 512 (ofLE bs)
    poison := BitVec.ofNat 8 ((bad.map fun k => 2 ^ k).sum)
    bad := false }
  let l := (s.core.storesFor line).foldl (fun (l : CacheLine) e => l.put (e.addr % 64) e.size e.data) l
  { s with core := s.core.allocate l }

/-- The bytes of a load, read through the data cache or uncached, and its status. -/
def State.loadAccess (s : State) (a n : Nat) : Half × Nat × State :=
  match windowAt a with
  | none => (Code.accessDenied, 0, s)
  | some (.loc _) =>
    let s := if (s.core.line a).isSome then s else s.fill (a / 64)
    match s.core.line a with
    | none => (Code.ok, 0, s)
    | some l =>
      if l.poison.getLsbD (a % 64 / 8) then (Code.eccUncorrected, 0, s)
      else (Code.ok, l.read (a % 64) n, { s with core := s.core.touch l })
  | some w => s.busGet 0x51 n w

/-- The value of a load (R40). -/
def loadValue (n v : Nat) (signed : Bool) : DWord :=
  if signed then BitVec.ofInt 64 (sext (8 * n) v) else BitVec.ofNat 64 v

/-- DETAIL of an uncorrectable word that a load meets: unit and address (R428, R446). -/
def State.loadEcc (s : State) (a n : Nat) : List Nat :=
  match windowAt a with
  | some (.tile e off) => [(Source.matrix e).toNat, ((s.me e).poolError off n).getD off]
  | _ => [Source.core.toNat, a / 8 * 8]

/-- The checks on a load or a store in the task cycle in which it issues (R41), and, for a load, whether it would read an
uncorrectable word (R63): a fault's code and DETAIL, and the state after what the check has read. Of an access that is
both misaligned and denied the model reports the misalignment (log 105). -/
def State.accessCheck (s : State) (a n : Nat) (write : Bool) : Option (Half × List Nat) × State :=
  if a % n != 0 then (some (Code.badCommand, []), s)
  else match s.busCheck 0x51 a n write with
    | none => (some (Code.accessDenied, []), s)
    | some w =>
      if write then (none, s)
      else match w with
        | .loc _ =>
          let bad := match s.core.line a with
            | some l => l.poison.getLsbD (a % 64 / 8)
            | none => s.mem.bad.contains (a / 8) && (s.core.storesFor (a / 64)).all fun e => !(e.size == 8 && e.addr == a / 8 * 8)
          if bad then
            (some (Code.eccUncorrected, s.loadEcc a n), if (s.core.line a).isSome then s else s.fill (a / 64))
          else (none, s)
        | .tile e off =>
          match (s.me e).poolError off n with
          | some _ => (some (Code.eccUncorrected, s.loadEcc a n), (s.busGet 0x51 n w).2.2)
          | none => (none, s)
        | _ => (none, s)

/-- The load's data is in the cache: it need not wait (R47). -/
def State.loadHit (s : State) (a : Nat) : Bool := isLoc a && (s.core.line a).isSome

/-- A store enters the buffer of task `t`, and updates a present line (R54). -/
def State.pushStore (s : State) (t a n : Nat) (v : DWord) : State :=
  let e : StoreEntry := { addr := a, size := n, data := v, ord := s.core.storeCount }
  let s := s.onTask t fun k => { k with stores := k.stores ++ [e] }
  { s with core := { s.core with
      storeCount := s.core.storeCount + 1
      cache := if isLoc a then
          s.core.cache.map fun (l : CacheLine) => if l.line = a / 64 then l.put (a % 64) n v else l
        else s.core.cache } }

/-- A store that was issued before an uncached load and is still in a buffer: the load must see it, so its data has not
come yet (R54, R337). Loads through the cache see such stores in the line. -/
def Core.storeAhead (c : Core) (l : LoadWait) : Bool :=
  !isLoc l.addr && c.tasks.toList.any fun t => t.stores.any fun e => decide (e.ord < l.ord) && !isLoc e.addr

/-- The result of a load takes its place in issue order among the task's results (R36, R48). -/
def Task.arrived (k : Task) (l : LoadWait) (v : Nat) : Task :=
  let r : PendingResult := ⟨l.due, .reg l.rd, loadValue l.size v l.signed⟩
  Task.wake { k with memWait := .none, results := k.results.take l.place ++ [r] ++ k.results.drop l.place }

/-- LOAD_DATA_ARRIVAL: the data of a waiting load has come; its result falls due at the load's own task cycle (R46, R47).
A load of an uncorrectable word halts its task (R63), whose SPAWN of the same word has been performed by then (R51). -/
def execLoadDataArrival (task : Fin 32) (s : State) : Answer :=
  let t := task.val
  if !s.inRun then .next s
  else match (s.task t).memWait with
    | .load l =>
      if s.core.storeAhead l then .next s
      else
        let (code, v, s) := s.loadAccess l.addr l.size
        if code = Code.ok then .next (s.onTask t fun k => k.arrived l v)
        else .next ((s.performSpawn t).haltTask t code 1 l.pc (s.loadEcc l.addr l.size))
    | _ => .next s

/-- STORE_BUFFER_DRAIN: a task's oldest store leaves its buffer and is performed, without a further check (R41, R54). -/
def execStoreBufferDrain (task : Fin 32) (s : State) : Answer :=
  let t := task.val
  if !s.inRun then .next s
  else match (s.task t).stores with
    | [] => .next s
    | e :: es =>
      let s := s.onTask t fun k => { k with stores := es }
      match windowAt e.addr with
      | none => .next s
      | some w => .next (s.busPut 0x51 e.size (e.data.toNat % 2 ^ (8 * e.size)) w).2

/-- CACHE_DROP_COMPLETE: an ACQ or a CINVA has dropped its lines (R344). -/
def execCacheDropComplete (task : Fin 32) (s : State) : Answer :=
  let t := task.val
  if !s.inRun then .next s
  else match (s.task t).memWait with
    | .drop base len all =>
      let s := { s with core := s.core.dropLines base len all }
      .next (s.onTask t fun k => Task.wake { k with memWait := .none })
    | _ => .next s

end Sys2Proof.Machine
end

