-- ==== Sys2Proof/Machine/Packets.lean ====
section
/-! DEFINITION. Command packets and the checks on them: layout, version, source, opcode, class, parameters and conflicts
(R432-R438, R464). -/

namespace Sys2Proof.Machine

/-! Opcodes (R437). -/
namespace Opc
def identify : Nat := 0x01
def setMould : Nat := 0x02
def writeMould : Nat := 0x03
def loadFw : Nat := 0x04
def startFw : Nat := 0x05
def launchAt : Nat := 0x06
def fence : Nat := 0x07
def anneal : Nat := 0x08
def remap : Nat := 0x09
def snapshot : Nat := 0x0A
def restore : Nat := 0x0B
def replay : Nat := 0x0C
def resume : Nat := 0x0D
def readKiln : Nat := 0x0E
def setAccess : Nat := 0x0F
def stepParams : Nat := 0x10
def queryStats : Nat := 0x11
def digestRead : Nat := 0x12
def resetCluster : Nat := 0x13
def memRead : Nat := 0x14
def memWrite : Nat := 0x15
end Opc

/-- A packet taken apart (R434, R435). -/
structure Packet where
  input : PacketInput
  ver : Nat
  opc : Nat
  tag : Nat
  src : Nat
  /-- reserved header bytes and FLAGS are zero -/
  headZero : Bool
  /-- the length agrees with LEN and the CRC is correct (check 1) -/
  intact : Bool
  /-- parameter words -/
  ws : List Nat
  deriving DecidableEq, Repr, Inhabited

/-- Bytes as 32-bit words. -/
def wordsOf : Nat → List Byte → List Nat
  | 0, _ => []
  | n + 1, bs => ofLE (bs.take 4) :: wordsOf n (bs.drop 4)

/-- The packet's length agrees with LEN; a ring 1 message carries it padded to 16 bytes, and one from the port has at most
260 words (R432, R464). -/
def lengthAgrees (input : PacketInput) (have_ need : Nat) : Bool :=
  match input with
  | .ring1 _ _ _ => have_ == (need + 15) / 16 * 16
  | .port => have_ == need && decide (need ≤ 1040)
  | .mailbox _ => have_ == need

/-- Take a packet apart: as CP1 when its VER byte is 1, as CP2 otherwise (R434-R436). -/
def packetOf (p : InPacket) : Packet :=
  let b := p.bytes
  let cp1 := leAt b 0 1 == 1
  let head := if cp1 then 12 else 16
  let n := if cp1 then leAt b 4 1 else leAt b 6 2
  let crcAt := head - 4
  let body := (b.drop head).take (4 * n)
  { input := p.input, ver := leAt b 0 1, opc := leAt b 1 1
    tag := if cp1 then leAt b 2 1 else leAt b 2 2
    src := if cp1 then leAt b 3 1 else leAt b 4 1
    headZero := if cp1 then leAt b 5 3 == 0 else leAt b 5 1 == 0 && leAt b 8 4 == 0
    intact := lengthAgrees p.input b.length (head + 4 * n) && leAt b crcAt 4 == (crc32c (b.take crcAt ++ body)).toNat
    ws := wordsOf n body }

/-- What its reply needs (R436). -/
def Packet.reply (p : Packet) : ReplyTo where
  input := p.input
  cp1 := p.ver == 1
  opc := BitVec.ofNat 8 p.opc
  tag := BitVec.ofNat 16 p.tag
  src := BitVec.ofNat 8 p.src

/-- Parameter word `i`. -/
def Packet.w (p : Packet) (i : Nat) : Nat := p.ws.getD i 0

/-- A 64-bit parameter in words `i` and `i + 1`. -/
def Packet.w64 (p : Packet) (i : Nat) : Nat := p.w i + p.w (i + 1) * 2 ^ 32

/-- CLR of QUERY_STATS and DIGEST_READ. -/
def Packet.clr (p : Packet) : Bool :=
  (p.opc == Opc.queryStats && bit 8 (p.w 0)) || (p.opc == Opc.digestRead && bit 16 (p.w 0))

/-- Opcodes that R437 defines and does not mark for CP1. -/
def cp2Only (opc : Nat) : Bool :=
  opc == Opc.restore || opc == Opc.replay || opc == Opc.digestRead || opc == Opc.memRead || opc == Opc.memWrite

/-- Check 2 fails: VER, a CP1 packet with a CP2 opcode, or CP1 on the mailbox or ring 1. -/
def Packet.badVersion (p : Packet) : Bool :=
  !(p.ver == 1 || p.ver == 2) || (p.ver == 1 && (cp2Only p.opc || p.input != .port))

/-- Check 3: SRC fits the input (R432). -/
def Packet.srcFits (p : Packet) : Bool :=
  match p.input with
  | .port => decide (1 ≤ p.src) && decide (p.src ≤ 0x0F)
  | .mailbox m => p.src == 0x51 && m.toNat == 0x51
  | .ring1 domain _ _ => p.src == 0x10 + domain.toNat

/-- Check 4: the opcode is defined. -/
def Packet.defined (p : Packet) : Bool := decide (1 ≤ p.opc) && decide (p.opc ≤ 0x15)

/-- The class bit of the command, counted from AC_ENT.GCMD[0]: R 0, W 1, X 2, C 3 (R437, R449). -/
def Packet.classBit (p : Packet) : Nat :=
  if p.opc == Opc.identify || p.opc == Opc.readKiln || p.opc == Opc.memRead then 0
  else if p.opc == Opc.queryStats || p.opc == Opc.digestRead then (if p.clr then 1 else 0)
  else if p.opc == Opc.resume || p.opc == Opc.stepParams || p.opc == Opc.memWrite then 1
  else if p.opc == Opc.loadFw || p.opc == Opc.startFw || p.opc == Opc.launchAt then 2
  else 3

/-! Check 6 (R437, R441, R442). -/

/-- No bit of word `x` is set outside `mask`. -/
def onlyBits (x mask : Nat) : Bool := x &&& mask == x

/-- The three words of barrier entry `k` of a LAUNCH_AT. -/
def Packet.barEntry (p : Packet) (k : Nat) : Nat × Nat × Nat := (p.w (7 + 3 * k), p.w (8 + 3 * k), p.w (9 + 3 * k))

/-- A barrier list is well formed (R442). -/
def barListOk : List (Nat × Nat × Nat) → List Nat → Bool
  | [], _ => true
  | (a, b, c) :: t, seen =>
    let bid := a % 16
    onlyBits a 0xFFFF000F && onlyBits b 0x7FFFFF && decide (c < 2 ^ 24) && decide (bid ≤ 13) && !seen.contains bid
      && barListOk t (bid :: seen)

/-- A REMAP entry is well formed (R441). -/
def remapEntryOk (x : Nat) : Bool := onlyBits x 0xCFFF07FF && (bit 30 x || decide (fld 27 16 x ≤ 2046))

/-- A program image length: a multiple of 16 up to 64 KiB. -/
def imageLenOk (n : Nat) : Bool := n % 16 == 0 && decide (n ≤ 65536)

/-- LEN, reserved fields and parameter ranges agree with the command's row of R437. -/
def Packet.paramsOk (p : Packet) : Bool :=
  let n := p.ws.length
  let w := p.w
  p.headZero &&
  match p.opc with
  | 0x02 => onlyBits (w 0) 0x103 && n == (if bit 8 (w 0) then 3 else 1)
  | 0x03 => n == 3 && decide (w 0 < 4) && p.w64 1 % 64 == 0
  | 0x04 => n == 3 && p.w64 0 % 64 == 0 && decide (64 ≤ w 2) && decide (w 2 ≤ 98304) && w 2 % 16 == 0
  | 0x06 => n == 7 + 3 * (w 6) && onlyBits (w 2) 0x1FFFF && w 2 % 2 == 0 && p.w64 3 % 16 == 0 && imageLenOk (w 5)
      && decide (w 6 ≤ 14) && barListOk ((List.range (w 6)).map p.barEntry) []
  | 0x07 => n == 1 && decide (w 0 < 2)
  | 0x09 => n == 4 + w 3 && onlyBits (w 0) 0x1FFFF && decide (w 3 ≤ 240) && (p.ws.drop 4).all remapEntryOk
  | 0x0A => n == 4 && decide (w 0 < 2) && (w 0 == 1 || w 3 == 0)
  | 0x0B => n == 6 && isSys (p.w64 0) && p.w64 0 % 2 ^ 20 == 0 && decide (w 2 < 2) && p.w64 3 % 16 == 0
      && imageLenOk (w 5) && decide (16 ≤ w 5)
  | 0x0C => if w 0 = 0 then n == 5 && isEndpoint (p.w64 1) && p.w64 1 % 65536 == 0 else w 0 == 1 && n == 3
  | 0x0D => n == 1 && decide (64 ≤ w 0) && decide (w 0 ≤ 3071)
  | 0x0E => n == 2 && decide (1 ≤ w 1) && decide (w 1 ≤ 15)
  | 0x0F => n == 1 + fld 31 24 (w 0) && onlyBits (w 0) 0xFFFF013F && (p.ws.drop 1).all fun x => onlyBits x accessMask
  | 0x10 => n == 6 && decide (w 0 < 8)
  | 0x11 => n == 3 && onlyBits (w 0) 0x10F && decide (w 0 % 16 ≤ 13) && w 1 % 4 == 0 && decide (1 ≤ w 2)
      && decide (w 2 ≤ 254) && decide (w 1 + 4 * w 2 ≤ 0x1000)
  | 0x12 => n == 1 && onlyBits (w 0) 0x17F3F && decide (1 ≤ fld 14 8 (w 0))
      && decide (fld 5 0 (w 0) + fld 14 8 (w 0) ≤ 64)
  | 0x14 => n == 2 && w 0 % 4 == 0 && decide (1 ≤ w 1) && decide (w 1 ≤ 254)
  | 0x15 => n == 2 + w 1 && w 0 % 4 == 0 && decide (1 ≤ w 1) && decide (w 1 ≤ 254)
  | _ => n == 0

/-- The first of checks 1-6 that fails (R436). -/
def State.packetCheck (s : State) (p : Packet) : Option Half :=
  if !p.intact then some Code.badPacket
  else if p.badVersion then some Code.badVersion
  else if !p.srcFits then some Code.denied
  else if !p.defined then some Code.badOpcode
  else if !(s.entry p.src).testBit (16 + p.classBit) then some Code.denied
  else if !p.paramsOk then some Code.badParam
  else none

/-! Conflicts (R433, R438). -/

/-- The register that the word at an address of register space belongs to: the lower word of a 64-bit one. -/
def State.registerOf (s : State) (blk o : Nat) : Nat :=
  if 4 ≤ o && (s.reg64 blk (o - 4)).isSome then 0x1000 * blk + o - 4 else 0x1000 * blk + o

/-- The groups of R438 that a command falls in; two commands with a common key contradict each other. -/
def State.conflictKeys (s : State) (p : Packet) : List (Nat × Nat) :=
  let o := p.opc
  if o == Opc.fence || o == Opc.anneal || o == Opc.resetCluster || o == Opc.launchAt || o == Opc.restore
      || o == Opc.replay || o == Opc.loadFw || o == Opc.startFw || o == Opc.resume then [(0, 0)]
  else if o == Opc.setMould || o == Opc.writeMould then [(1, 0)]
  else if o == Opc.remap then [(2, 0)]
  else if o == Opc.setAccess then (if bit 8 (p.w 0) then [(2, 0), (3, 0)] else [(3, 0)])
  else if o == Opc.snapshot then [(4, 0)]
  else if o == Opc.stepParams then [(5, 0)]
  else if o == Opc.memWrite then (List.range (p.w 1)).map fun k => (6, p.w 0 + 4 * k)
  else if o == Opc.queryStats && p.clr then
    (List.range (p.w 2)).map fun k => (7, s.registerOf (p.w 0 % 16) (p.w 1 + 4 * k))
  else if o == Opc.digestRead && p.clr then
    (List.range (fld 14 8 (p.w 0))).flatMap fun k =>
      [(7, 0xD800 + 16 * (fld 5 0 (p.w 0) + k)), (7, 0xD808 + 16 * (fld 5 0 (p.w 0) + k))]
  else []

/-- Put a packet behind those of the same or higher source priority: the supervisor, host agents, domain traffic, the own
Gaffer and the own core, each in increasing master ID (R433), which is the order of their numbers. -/
def insertBySrc (p : Packet) : List Packet → List Packet
  | [] => [p]
  | q :: t => if p.src < q.src then p :: q :: t else q :: insertBySrc p t

/-- The packets of a round in order of source priority; those of one source keep their order of arrival. -/
def bySource (ps : List Packet) : List Packet := ps.foldl (fun l p => insertBySrc p l) []

/-- MANAGEMENT_PACKET: a packet crosses the management port into one of its four buffers; while all are full the sender
holds it (R432, R464). -/
def execManagementPacket (bytes : List Byte) (s : State) : Answer :=
  let waiting := (s.gaffer.inq.filter fun p => p.input == .port).length
  if !s.pins.alive || waiting ≥ 4 then .next s
  else
    let p : InPacket := { input := .port, bytes := bytes }
    .next { s with gaffer := { s.gaffer with inq := s.gaffer.inq ++ [p] } }

end Sys2Proof.Machine
end

