-- ==== Sys2Proof/Machine/Commands.lean ====
section
/-! DEFINITION. The commands of the Gaffer: rounds, what every command does, and the actions that outlast their round
(R433, R437-R445, with R19, R21, R226, R280, R391, R416, R417, R426, R451-R453). -/

namespace Sys2Proof.Machine

/-! Shared parts. -/

/-- The single reply of a command. -/
def State.say (s : State) (p : Packet) (status : Half) (ws : List Nat) : State := s.reply p.reply status false ws

/-- Reply PENDING and start an action of the Tier and program group (R439). -/
def State.start (s : State) (p : Packet) (a : GafferAction) : State :=
  let s := s.say p Code.pending []
  { s with gaffer := { s.gaffer with action := some a } }

/-- The requester holds the X right in the region of an image source (R449). A source that is no stream endpoint lies in no
region that has one. -/
def State.mayName (s : State) (src a : Nat) : Bool :=
  if isLoc a then s.mayX src .loc
  else isSys a && s.farRegion (sysBits a) == .far && s.mayX src .far

/-- Arm a timed action for a command: BUSY when all eight are armed, BAD_PARAM when the arm is not performed (R280). -/
def State.tryArm (s : State) (kind : BitVec 4) (target : Nat) (arg : Word) (replay : Bool) : Except Half State :=
  let t := BitVec.ofNat 64 target
  match s.freeAct with
  | none => .error Code.busy
  | some a => if s.armOk kind t then .ok (s.armEntry a kind t arg replay) else .error Code.badParam

/-- Reply with the outcome of an arm. -/
def State.sayArm (s : State) (p : Packet) : Except Half State → State
  | .ok t => t.say p Code.ok []
  | .error code => s.say p code []

/-! Identity, moulds, firmware (R443, R452). -/

/-- IDENTIFY. -/
def cmdIdentify (s : State) (p : Packet) : State :=
  s.say p Code.ok [kfeat0, kfeat1, kfeat2, s.kfeat3, s.router.posWord.toNat, s.kcrTier, s.kcrMould, s.jnRstat]

/-- SET_MOULD: a switch at once, or a PROFILE action. -/
def cmdSetMould (s : State) (p : Packet) : State :=
  let m := p.w 0 % 4
  if s.gaffer.mouldAct.isSome then s.say p Code.busy []
  else if bit 8 (p.w 0) then s.sayArm p (s.tryArm 4#4 (p.w64 1) (BitVec.ofNat 32 m) false)
  else
    let (s, ok) := s.switchMould m
    s.say p (if ok then Code.ok else Code.nvTorn) []

/-- WRITE_MOULD: the image is read, checked and stored. -/
def cmdWriteMould (s : State) (p : Packet) : State :=
  if s.gaffer.mouldAct.isSome then s.say p Code.busy []
  else if !s.mayName p.src (p.w64 1) then s.say p Code.accessDenied []
  else
    let s := s.say p Code.pending []
    let a : MouldAction := .read p.reply (BitVec.ofNat 2 (p.w 0)) (BitVec.ofNat 64 (p.w64 1))
    { s with gaffer := { s.gaffer with mouldAct := some a } }

/-- LOAD_FW. -/
def cmdLoadFw (s : State) (p : Packet) : State :=
  if s.gaffer.started then s.say p Code.busy []
  else if !s.mayName p.src (p.w64 0) then s.say p Code.accessDenied []
  else s.start p (.loadFw p.reply (BitVec.ofNat 64 (p.w64 0)) (p.w 2))

/-- START_FW: the firmware fields of KFEAT3 are set, HELLO carries them, and start-up goes on at step 8 if step 7 has
been reached; a self-test still running ends first, and one that has failed has stopped the sequence (R329, R443,
R456). -/
def cmdStartFw (s : State) (p : Packet) : State :=
  if s.gaffer.started then s.say p Code.busy []
  else match s.gaffer.image with
    | none => s.say p Code.badParam []
    | some v =>
      let g := { s.gaffer with fw := v.extractLsb' 16 16, started := true, startedNc := s.nc }
      let s := { s with gaffer := g }.helloAgain
      let s := if s.gaffer.step = 7#4 then s.powerUp else s
      s.say p Code.ok []

/-! Launching and the tier. -/

/-- LAUNCH_AT, up to its PENDING reply; an image of length 0 names no source. -/
def cmdLaunchAt (s : State) (p : Packet) : State :=
  let busy := s.core.running || s.armed 1#4 || s.journal.rstate != .none || s.freeAct.isNone
  if !s.inRun then s.say p Code.badParam []
  else if busy then s.say p Code.busy []
  else if p.w 5 != 0 && !s.mayName p.src (p.w64 3) then s.say p Code.accessDenied []
  else
    let bars := ((List.range (p.w 6)).map p.barEntry).map fun (a, b, c) =>
      (BitVec.ofNat 32 a, BitVec.ofNat 32 b, BitVec.ofNat 32 c)
    s.start p (.launchAt p.reply (BitVec.ofNat 64 (p.w64 0)) (p.w 2 % 65536) (bit 16 (p.w 2))
      (BitVec.ofNat 64 (p.w64 3)) (p.w 5) bars)

/-- FENCE (R19). -/
def cmdFence (s : State) (p : Packet) : State :=
  let s := s.fence (bit 0 (p.w 0))
  s.say p Code.ok [s.kcrTier]

/-- ANNEAL: judged under R21 and then R426. -/
def cmdAnneal (s : State) (p : Packet) : State :=
  if s.router.lvalid then s.say p Code.busy []
  else
    let s := s.start p (.anneal p.reply)
    s.annealStart

/-- A REMAP entry is written to the staged bank or the exit table (R441). -/
def State.writeRemap (s : State) (x : Nat) : State :=
  let e := wordEntry x
  if bit 30 x then { s with router := { s.router with exits := Tbl.set 0#12 s.router.exits (fld 27 16 x) e } }
  else { s with router := { s.router with staged := Tbl.set 0#12 s.router.staged (fld 27 16 x) e } }

/-- REMAP (R441). -/
def cmdRemap (s : State) (p : Packet) : State :=
  let es := p.ws.drop 4
  if s.armed 3#4 && es.any fun x => !bit 30 x then s.say p Code.busy []
  else
    let s := es.foldl State.writeRemap s
    if bit 16 (p.w 0) then s.sayArm p (s.tryArm 3#4 (p.w64 1) (BitVec.ofNat 32 (p.w 0 % 65536)) false)
    else s.say p Code.ok []

/-- SNAPSHOT. -/
def cmdSnapshot (s : State) (p : Packet) : State :=
  if p.w 0 = 0 then s.sayArm p (s.tryArm 2#4 (p.w64 1) 0#32 false)
  else
    let l := { s.lehr with snapNext := BitVec.ofNat 64 (p.w64 1), snapInt := BitVec.ofNat 32 (p.w 3) }
    { s with lehr := l }.say p Code.ok []

/-- RESTORE, up to its PENDING reply; the header is judged when it has been read (R416). -/
def cmdRestore (s : State) (p : Packet) : State :=
  if !s.inRun then s.say p Code.badParam []
  else if s.journal.replaying then s.say p Code.busy []
  else if !s.mayName p.src (p.w64 3) then s.say p Code.accessDenied []
  else s.start p (.restore p.reply (BitVec.ofNat 64 (p.w64 0)) (bit 0 (p.w 2)) (BitVec.ofNat 64 (p.w64 3)) (p.w 5))

/-- REPLAY (R417): in journal mode the FENCE record is read first; in no-journal mode the LAUNCH entry is armed. No LAUNCH
entry is armed while a program runs or another one is armed (R302, log 113). -/
def cmdReplay (s : State) (p : Packet) : State :=
  if s.journal.rstate != .restored then s.say p Code.badParam []
  else if s.core.running || s.armed 1#4 then s.say p Code.busy []
  else if p.w 0 = 0 then
    if !s.lehr.synced then s.say p Code.badParam []
    else s.start p (.replayRead p.reply (BitVec.ofNat 64 (p.w64 1)) (p.w 3) (BitVec.ofNat 32 (p.w 4)))
  else match s.tryArm 1#4 (p.w64 1) (s.journal.resume.setWidth 32) true with
    | .error code => s.say p code []
    | .ok t => t.start p (.replayRun p.reply false)

/-- RESUME (R226). -/
def cmdResume (s : State) (p : Packet) : State :=
  if (s.ctx (p.w 0)).state == .pageHalt then (s.resumeCtx (p.w 0)).say p Code.ok [] else s.say p Code.badParam []

/-! Records, access, step size. -/

/-- READ_KILN (R445). -/
def cmdReadKiln (s : State) (p : Packet) : State :=
  let seqs := (List.range (p.w 1)).map fun k => (k, (p.w 0 + k) % 2 ^ 32)
  let torn := seqs.foldl (fun a x => a + flag x.1 (!s.gaffer.kilnGood x.2)) 0
  let missing := fun (x : Nat × Nat) => leAt (s.gaffer.kilnAt x.2) 0 4 != x.2
  let miss := seqs.foldl (fun a x => a + flag x.1 (missing x)) 0
  let recs := seqs.flatMap fun x => if missing x then List.replicate 16 0 else wordsOf 16 (s.gaffer.kilnAt x.2)
  s.say p (if torn = 0 then Code.ok else Code.nvTorn) ([torn, miss] ++ recs)

/-- SET_ACCESS (R443, R450). -/
def cmdSetAccess (s : State) (p : Packet) : State :=
  let first := fld 23 16 (p.w 0)
  let n := fld 31 24 (p.w 0)
  let setdom := bit 8 (p.w 0)
  if first + n > 96 then s.say p Code.badParam []
  else if setdom && s.core.running then s.say p Code.busy []
  else
    let s := (List.range n).foldl (fun s k => s.putAccess (first + k) (p.w (1 + k))) s
    let dom := BitVec.ofNat 6 (p.w 0)
    let s := if setdom && s.gaffer.domain != dom then { s with gaffer := { s.gaffer with domain := dom } }.helloAgain else s
    s.say p Code.ok []

/-- STEP_PARAMS (R368, R443). -/
def cmdStepParams (s : State) (p : Packet) : State :=
  let w := fun (i : Nat) => BitVec.ofNat 32 (p.w i)
  let m := s.marver
  let m := if bit 0 (p.w 0) then { m with lr := w 1 } else m
  let m := if bit 1 (p.w 0) then
      { m with mode := bit 2 (p.w 0), lrmax := w 2, lrmin := w 3, warm := w 4, period := w 5 } else m
  { s with marver := m }.say p Code.ok []

/-! Reads and writes. -/

/-- Clear the RC and RW1C fields of the register at an offset, as QUERY_STATS does with CLR. -/
def State.regSweep (s : State) (blk o : Nat) : State :=
  let s := s.regClear blk o
  match (if blk = 10 then indexed 0x108 0x10 8 o else none) with
  | some a => s.onAct a fun x => { x with fired := false, missed := false }
  | none => if stickyBits blk o = 0 then s else s.put32 0x50 blk o (stickyBits blk o)

/-- QUERY_STATS (R443). -/
def cmdQueryStats (s : State) (p : Packet) : State :=
  let blk := p.w 0 % 16
  let offs := (List.range (p.w 2)).map fun k => p.w 1 + 4 * k
  let words := offs.map (s.regView blk)
  let s := if p.clr then offs.foldl (fun s o => s.regSweep blk o) s else s
  s.say p Code.ok words

/-- DIGEST_READ (R390, R391). -/
def cmdDigestRead (s : State) (p : Packet) : State :=
  let ds := (List.range (fld 14 8 (p.w 0))).map fun k => fld 5 0 (p.w 0) + k
  let words := ds.flatMap fun d =>
    let v := Tbl.get 0#64 s.digests.val d
    [(loWord v).toNat, (hiWord v).toNat, (Tbl.get 0#32 s.digests.cnt d).toNat]
  let s := if p.clr then
      { s with digests := ds.foldl (fun g d =>
          { g with val := Tbl.set 0#64 g.val d 0#64, cnt := Tbl.set 0#32 g.cnt d 0#32 }) s.digests }
    else s
  s.say p Code.ok words

/-- Read words in order as a master, up to the first that is not answered: its status and the words before it. -/
def State.readWords (m : Nat) : Nat → Nat → State → Half × List Nat × State
  | 0, _, s => (Code.ok, [], s)
  | n + 1, a, s =>
    let (code, v, s) := s.busRead m a 4
    if code != Code.ok then (code, [], s)
    else let (c, vs, s) := State.readWords m n (a + 4) s; (c, v :: vs, s)

/-- MEM_READ (R443). -/
def cmdMemRead (s : State) (p : Packet) : State :=
  let (code, vs, s) := State.readWords p.src (p.w 1) (p.w 0) s
  if code = Code.ok then s.say p Code.ok vs else s.say p code (vs.length :: vs)

/-- Write words in order as a master, up to the first that is not performed: its status and the number written. -/
def State.writeWords (m : Nat) : List Nat → Nat → State → Half × Nat × State
  | [], _, s => (Code.ok, 0, s)
  | v :: vs, a, s =>
    let (code, s) := s.busWrite m a 4 v
    if code != Code.ok then (code, 0, s)
    else let (c, n, s) := State.writeWords m vs (a + 4) s; (c, n + 1, s)

/-- MEM_WRITE (R443). -/
def cmdMemWrite (s : State) (p : Packet) : State :=
  let (code, n, s) := State.writeWords p.src (p.ws.drop 2) (p.w 0) s
  s.say p code [n]

/-- RESET_CLUSTER: its reply is queued behind everything for the management port, and the reset waits for it or for 1 ms
(R443). One that comes while another is pending is answered too and leaves that one's reset as it stands. -/
def cmdResetCluster (s : State) (p : Packet) : State :=
  let s := match p.input with
    | .port =>
      let r := OutPacket.reply (p.reply.packet Code.ok false []) true
      { s with gaffer := { s.gaffer with outq := s.gaffer.outq ++ [r] } }
    | _ => s.say p Code.ok []
  if s.gaffer.resetAt.isSome then s else { s with gaffer := { s.gaffer with resetAt := some s.nc, resetGo := false } }

/-! Rounds. -/

/-- Commands the boot ROM serves until START_FW completes (R440). -/
def bootServes (opc : Nat) : Bool :=
  opc == Opc.identify || opc == Opc.setMould || opc == Opc.writeMould || opc == Opc.loadFw || opc == Opc.startFw
    || opc == Opc.fence || opc == Opc.readKiln || opc == Opc.setAccess || opc == Opc.queryStats
    || opc == Opc.digestRead || opc == Opc.resetCluster || opc == Opc.memRead || opc == Opc.memWrite

/-- A command of the Tier and program group (R438). -/
def tierGroup (opc : Nat) : Bool :=
  opc == Opc.fence || opc == Opc.anneal || opc == Opc.resetCluster || opc == Opc.launchAt || opc == Opc.restore
    || opc == Opc.replay || opc == Opc.loadFw || opc == Opc.startFw || opc == Opc.resume

/-- A command that has passed checks 1-7 meets the state rules of check 8 and is executed (R436, R439, R440, R443). An
ANNEAL in another state than FENCED or FENCED_OFF is refused whatever else holds (R21, R426). -/
def State.runCommand (s : State) (p : Packet) : State :=
  if p.opc = Opc.anneal && !(s.tier.state == .fenced || s.tier.state == .fencedOff) then s.say p Code.badParam []
  else if !s.gaffer.started && !bootServes p.opc then s.say p Code.busy []
  else if tierGroup p.opc && s.gaffer.action.isSome then s.say p Code.busy []
  else match p.opc with
    | 0x01 => cmdIdentify s p
    | 0x02 => cmdSetMould s p
    | 0x03 => cmdWriteMould s p
    | 0x04 => cmdLoadFw s p
    | 0x05 => cmdStartFw s p
    | 0x06 => cmdLaunchAt s p
    | 0x07 => cmdFence s p
    | 0x08 => cmdAnneal s p
    | 0x09 => cmdRemap s p
    | 0x0A => cmdSnapshot s p
    | 0x0B => cmdRestore s p
    | 0x0C => cmdReplay s p
    | 0x0D => cmdResume s p
    | 0x0E => cmdReadKiln s p
    | 0x0F => cmdSetAccess s p
    | 0x10 => cmdStepParams s p
    | 0x11 => cmdQueryStats s p
    | 0x12 => cmdDigestRead s p
    | 0x13 => cmdResetCluster s p
    | 0x14 => cmdMemRead s p
    | 0x15 => cmdMemWrite s p
    | _ => s.say p Code.badOpcode []

/-- The packets of a round in order of priority: each is refused by the check it fails, loses to a command of higher
priority that shares a key with it, or is executed. `taken` holds the keys of the commands before it. -/
def State.runRound : List (Packet × Option Half × List (Nat × Nat)) → List (Nat × Nat) → State → State
  | [], _, s => s
  | (p, some code, _) :: rest, taken, s => State.runRound rest taken (s.say p code [])
  | (p, none, keys) :: rest, taken, s =>
    if keys.any taken.contains then State.runRound rest (keys ++ taken) (s.say p Code.conflict [])
    else State.runRound rest (keys ++ taken) (s.runCommand p)

/-- A round waits while the freeze is on if it would read or write memory for a master outside the cluster (R400). -/
def State.roundHeld (s : State) : Bool :=
  s.journal.freeze && s.gaffer.inq.any fun x =>
    let p := packetOf x
    p.opc == Opc.memRead || p.opc == Opc.memWrite

/-- The Gaffer serves commands: the boot ROM from step 3 on, and firmware once it runs (R440, R456). -/
def Gaffer.serving (g : Gaffer) : Bool := decide (3 ≤ g.step.toNat)

/-- GAFFER_ROUND: every packet waiting is taken, checked, and answered (R433, R436, R438). -/
def execGafferRound (s : State) : Answer :=
  if !s.pins.alive || !s.gaffer.serving || s.gaffer.inq.isEmpty || s.roundHeld then .next s
  else
    let ps := (bySource (s.gaffer.inq.map packetOf)).map fun p => (p, s.packetCheck p, s.conflictKeys p)
    .next (State.runRound ps [] { s with gaffer := { s.gaffer with inq := [] } })

/-! Actions that outlast their round (R439, R443, R444). -/

/-- A firmware image's refusal (R444). -/
def fwRefused (b : List Byte) (len : Nat) : Option Half :=
  let v := leAt b 4 4
  if leAt b 0 4 != 0x20000 || leAt b 8 4 != len || !allZero ((b.drop 16).take 44)
      || leAt b 60 4 != (crc32c (b.take 60 ++ List.replicate 4 0#8 ++ b.drop 64)).toNat then some Code.badParam
  else if fld 31 28 v != 2 || fld 27 24 v != 0 then some Code.badVersion
  else none

/-- FW_IMAGE_LOADED: the image of a LOAD_FW has been read and is checked (R443, R444). -/
def execFwImageLoaded (far : FarReply) (s : State) : Answer :=
  match s.gaffer.action with
  | some (.loadFw r src len) =>
    if !s.pins.alive then .next s
    else
      let (err, b, s) := s.readImage far src.toNat len
      let s := { s with gaffer := { s.gaffer with action := none } }
      match err with
      | some code => .next (s.final r code [])
      | none => match fwRefused b len with
        | some code => .next (s.final r code [])
        | none =>
          let v := leAt b 4 4
          .next ({ s with gaffer := { s.gaffer with image := some (BitVec.ofNat 32 v) } }.final r Code.ok [v])
  | _ => .next s

/-- Firmware writes a barrier entry of a LAUNCH_AT: ROOT, EXPECT and MARGIN (R283, R442). -/
def State.configureBar (s : State) (e : Word × Word × Word) : State :=
  s.onBar (e.1.toNat % 16) fun b => { b with
    margin := BitVec.ofNat 16 (e.1.toNat >>> 16)
    rootLcid := BitVec.ofNat 11 (e.2.1.toNat >>> 12), rootChip := BitVec.ofNat 12 e.2.1.toNat
    expect := BitVec.ofNat 24 e.2.2.toNat }

/-- The part of an image that a failed copy leaves in instruction memory: any part (R443). -/
def State.loadPart (s : State) (far : FarReply) (src len : Nat) : State :=
  let all := if isLoc src then s.mem.mem.readBytes src len else replyBytes far (sysBits src) len
  let k := (Config.freeWord s.free 0).toNat % (len + 1)
  { s with free := s.free + 1 }.loadImage (all.take k)

/-- LAUNCH_IMAGE_COPIED: the image of a LAUNCH_AT has been copied; if the arm can be made the barrier entries and DETNEXT
are written and the LAUNCH entry is armed with it (R280, R442, R443). -/
def execLaunchImageCopied (far : FarReply) (s : State) : Answer :=
  match s.gaffer.action with
  | some (.launchAt r target entry det src len bars) =>
    if !s.pins.alive then .next s
    else
      let s := { s with gaffer := { s.gaffer with action := none } }
      let (err, image, t) := if len = 0 then (none, [], s) else s.readImage far src.toNat len
      match err with
      | some code => .next ((t.loadPart far src.toNat len).final r code [])
      | none =>
        let t := if len = 0 then t else t.loadImage image
        match t.tryArm 1#4 target.toNat (BitVec.ofNat 32 entry) false with
        | .error code => .next (t.final r code [])
        | .ok u =>
          let u := bars.foldl State.configureBar u
          .next ({ u with tier := { u.tier with detNext := det } }.final r Code.ok [])
  | _ => .next s

end Sys2Proof.Machine
end

