-- ==== Sys2Proof/Machine/Words.lean ====
section
/-! DEFINITION. The long word: its header and slots as instruction memory holds them, the fields of the slot formats, and the
faults of a word's encoding (R33-R44, R53, R55, R258). -/

namespace Sys2Proof.Machine

/-! Fields of a slot (R38). -/

def Slot.op (x : Nat) : Nat := fld 31 26 x
def Slot.pn (x : Nat) : Bool := bit 25 x
def Slot.pr (x : Nat) : Nat := fld 24 22 x
def Slot.rd (x : Nat) : Nat := fld 21 17 x
def Slot.ra (x : Nat) : Nat := fld 16 12 x
def Slot.imm (x : Nat) : Bool := bit 11 x
def Slot.rb (x : Nat) : Nat := fld 4 0 x
def Slot.imm11 (x : Nat) : Int := sext 11 (fld 10 0 x)
def Slot.imm16 (x : Nat) : Nat := fld 15 0 x
def Slot.pd (x : Nat) : Nat := fld 19 17 x
def Slot.off22 (x : Nat) : Int := sext 22 (fld 21 0 x)
def Slot.body (x : Nat) : Nat := fld 21 11 x
def Slot.loopImm (x : Nat) : Bool := bit 10 x
def Slot.kind (x : Nat) : Nat := fld 21 18 x
def Slot.wra (x : Nat) : Nat := fld 17 13 x
def Slot.wrb (x : Nat) : Nat := fld 12 8 x
def Slot.wrd (x : Nat) : Nat := fld 7 3 x
def Slot.enqN (x : Nat) : Nat := fld 11 10 x + 1
def Slot.enqQ (x : Nat) : Nat := fld 9 7 x

/-! Opcodes (R39, R40, R42, R43). -/

def Op.isAlu (o : Nat) : Bool := decide (0x01 ≤ o) && decide (o ≤ 0x0C)
def Op.isCmp (o : Nat) : Bool := decide (0x10 ≤ o) && decide (o ≤ 0x15)
def Op.isPred (o : Nat) : Bool := decide (0x18 ≤ o) && decide (o ≤ 0x1B)
def Op.isMov (o : Nat) : Bool := decide (0x20 ≤ o) && decide (o ≤ 0x27)
def Op.isMul (o : Nat) : Bool := decide (0x30 ≤ o) && decide (o ≤ 0x32)
def Op.isStore (o : Nat) : Bool := decide (0x34 ≤ o) && decide (o ≤ 0x37)
def Op.isLoad (o : Nat) : Bool := decide (0x38 ≤ o) && decide (o ≤ 0x3E)
def Op.mfloop : Nat := 0x28
def Op.mflc : Nat := 0x29
def Op.acq : Nat := 0x2E
def Op.cinva : Nat := 0x2F
def Op.br : Nat := 1
def Op.brr : Nat := 2
def Op.call : Nat := 3
def Op.loop : Nat := 4
def Op.loopx : Nat := 5
def Op.wait : Nat := 6
def Op.rsel : Nat := 7
def Op.spawn : Nat := 8
def Op.halt : Nat := 9
def Op.enq : Nat := 1

/-- Bytes a store or a load moves (R40). -/
def Op.size (o : Nat) : Nat :=
  if Op.isStore o then 2 ^ (o - 0x34) else 2 ^ ((o - 0x38) / 2)

/-- The load sign-extends (R40). -/
def Op.signed (o : Nat) : Bool := o == 0x39 || o == 0x3B || o == 0x3D

/-! Headers (R33, R34). -/

/-- Slots that a header says are present. -/
def Header.count (h : Nat) : Nat := flag 0 (bit 12 h) + flag 0 (bit 13 h) + flag 0 (bit 14 h) + flag 0 (bit 15 h)

/-- Bytes of the word. -/
def Header.len (h : Nat) : Nat := 2 + 4 * Header.count h

/-- The slots of a word at their addresses, in the order S0 to S3: number and bits. -/
def slotsFrom (m : Memory) (h a : Nat) : List Nat → List (Nat × Nat)
  | [] => []
  | i :: is => if bit (12 + i) h then (i, m.readLE a 4) :: slotsFrom m h (a + 4) is else slotsFrom m h a is

/-- Walk `n` words on from the word at `a`: the address of the last of them and the address after it; none when they
extend past the end of instruction memory (R55). -/
def bodySpan (m : Memory) : Nat → Nat → Nat → Option (Nat × Nat)
  | 0, last, a => some (last, a)
  | n + 1, _, a =>
    if a + 2 > Config.imemSize then none
    else
      let e := a + Header.len (m.readLE a 2)
      if e > Config.imemSize then none else bodySpan m n a e

/-- A word that a task has fetched. -/
structure LongWord where
  pc : Nat
  len : Nat
  yld : Bool
  dly : Nat
  slots : List (Nat × Nat)
  deriving DecidableEq, Repr, Inhabited

/-- The address of the next word (R34). -/
def LongWord.next (w : LongWord) : Nat := w.pc + w.len

/-- Format A: the reserved field (R38). -/
def Slot.badA (x : Nat) : Bool := !Slot.imm x && fld 10 5 x != 0

/-- An S0 or S1 slot whose encoding R35 forbids (R38-R40). -/
def Slot.badScalar (s1 : Bool) (x : Nat) : Bool :=
  let o := Slot.op x
  if Op.isAlu o then Slot.badA x
  else if Op.isCmp o || Op.isPred o then Slot.badA x || fld 21 20 x != 0
  else if Op.isMov o then bit 16 x
  else if s1 then
    if Op.isStore o || Op.isLoad o then !Slot.imm x
    else if o = Op.acq then Slot.imm x || Slot.badA x || Slot.rd x != 0
    else if o = Op.cinva then fld 21 0 x != 0
    else true
  else if o = Op.mfloop || o = Op.mflc || Op.isMul o then Slot.badA x
  else true

/-- An S2 slot whose encoding R35 forbids; `next` is the address after its word (R42, R53, R55, R258). -/
def Slot.badControl (m : Memory) (next x : Nat) : Bool :=
  let o := Slot.op x
  let low := fld 2 0 x != 0
  if o = Op.br || o = Op.call then false
  else if o = Op.loop then
    (!Slot.loopImm x && fld 9 5 x != 0) || Slot.body x == 0 || (bodySpan m (Slot.body x) next next).isNone
  else if o = Op.wait then low || decide (Slot.kind x > 4)
  else if o = Op.rsel then low || decide (Slot.kind x > 2)
  else if o = Op.brr || o = Op.loopx || o = Op.spawn || o = Op.halt then low || Slot.kind x != 0
  else true

/-- An S3 slot whose encoding R35 forbids (R43, R44). -/
def Slot.badEnq (x : Nat) : Bool :=
  Slot.op x != Op.enq || fld 6 0 x != 0 || decide (Slot.ra x + Slot.enqN x > 32)

def Slot.bad (m : Memory) (next : Nat) (p : Nat × Nat) : Bool :=
  if p.1 = 0 then Slot.badScalar false p.2
  else if p.1 = 1 then Slot.badScalar true p.2
  else if p.1 = 2 then Slot.badControl m next p.2
  else Slot.badEnq p.2

/-- What a fetch gives: a word, a fault of its encoding in a slot, or an uncorrectable 8-byte word of instruction memory. -/
inductive Fetched where
  | word (w : LongWord)
  | bad (slot : Nat)
  | ecc (addr : Nat)
  deriving DecidableEq, Repr, Inhabited

/-- The first uncorrectable 8-byte word of instruction memory in `[a, a+n)` (R30). -/
def Core.imemError (c : Core) (a n : Nat) : Option Nat :=
  (c.imemBad.find? fun w => decide (8 * w < a + n) && decide (a < 8 * w + 8)).map (8 * ·)

/-- Fetch the word at `pc` (R30, R33-R35). A fault of the header counts as one of slot 0. -/
def Core.fetch (c : Core) (pc : Nat) : Fetched :=
  if pc + 2 > Config.imemSize then .bad 0
  else match c.imemError pc 2 with
    | some a => .ecc a
    | none =>
      let h := c.imem.readLE pc 2
      let len := Header.len h
      if fld 7 0 h != 0 || decide (pc + len > Config.imemSize) then .bad 0
      else match c.imemError pc len with
        | some a => .ecc a
        | none =>
          let slots := slotsFrom c.imem h (pc + 2) [0, 1, 2, 3]
          match slots.find? (Slot.bad c.imem (pc + len)) with
          | some p => .bad p.1
          | none => .word { pc := pc, len := len, yld := bit 11 h, dly := fld 10 8 h, slots := slots }

/-! Registers as a word reads them (R27, R46, R48). -/

/-- Put a result after those due no later: results in the order in which they take effect (R48). -/
def insertDue (r : PendingResult) : List PendingResult → List PendingResult
  | [] => [r]
  | x :: xs => if r.due < x.due then r :: x :: xs else x :: insertDue r xs

/-- One result is written; s0 and p0 discard it (R27). -/
def Task.take (t : Task) (r : PendingResult) : Task :=
  match r.dest with
  | .reg n => if n = 0#5 then t else { t with regs := Vec.upd t.regs n.toNat fun _ => r.value }
  | .pred p =>
    if p = 0#3 then t
    else
      let b := 1#8 <<< p.toNat
      { t with preds := if r.value = 0#64 then t.preds &&& ~~~b else t.preds ||| b }

/-- The results due by the present task cycle are written (R46, R48). Results of one word that fall due in different task
cycles are each written in their own, whatever their slots (log 107). -/
def Task.commit (t : Task) : Task :=
  let due := t.results.filter fun r => decide (r.due ≤ t.cycle)
  let t' := (due.foldl (fun l r => insertDue r l) []).foldl Task.take t
  { t' with results := t.results.filter fun r => !decide (r.due ≤ t.cycle) }

/-- A scalar register: s0 reads zero (R27). -/
def Task.reg (t : Task) (n : Nat) : DWord := if n = 0 then 0#64 else Vec.at t.regs n

/-- A predicate: p0 reads true (R27). -/
def Task.pred (t : Task) (n : Nat) : Bool := n == 0 || t.preds.getLsbD n

/-- The slot's guard is true (R38). -/
def Task.guard (t : Task) (x : Nat) : Bool := t.pred (Slot.pr x) != Slot.pn x

/-- Slot `i` of a word, if it is present and its guard is true. -/
def LongWord.active (w : LongWord) (t : Task) (i : Nat) : Option Nat :=
  (w.slots.find? fun p => p.1 == i && t.guard p.2).map (·.2)

/-- The second operand of formats A and C. -/
def Task.second (t : Task) (x : Nat) : DWord :=
  if Slot.imm x then BitVec.ofInt 64 (Slot.imm11 x) else t.reg (Slot.rb x)

/-- The address of a load or a store: ra + IMM11 (R40). -/
def Task.address (t : Task) (x : Nat) : Nat := (t.reg (Slot.ra x) + BitVec.ofInt 64 (Slot.imm11 x)).toNat

/-! Arithmetic of S0 and S1 (R39). -/

def aluValue (o : Nat) (a b : DWord) : DWord :=
  let n := b.toNat % 64
  if o = 0x01 then a + b
  else if o = 0x02 then a - b
  else if o = 0x03 then a &&& b
  else if o = 0x04 then a ||| b
  else if o = 0x05 then a ^^^ b
  else if o = 0x06 then a <<< n
  else if o = 0x07 then a >>> n
  else if o = 0x08 then a.sshiftRight n
  else if o = 0x09 then (if a.slt b then a else b)
  else if o = 0x0A then (if a.slt b then b else a)
  else if o = 0x0B then (if a.ult b then a else b)
  else if a.ult b then b else a

def cmpValue (o : Nat) (a b : DWord) : Bool :=
  if o = 0x10 then a == b
  else if o = 0x11 then a != b
  else if o = 0x12 then a.slt b
  else if o = 0x13 then a.ult b
  else if o = 0x14 then a.sle b
  else a.ule b

def predValue (o : Nat) (a b : Bool) : Bool :=
  if o = 0x18 then a && b
  else if o = 0x19 then a || b
  else if o = 0x1A then a != b
  else a && !b

/-- MOVZ.h and MOVK.h. -/
def movValue (o : Nat) (old : DWord) (imm : Nat) : DWord :=
  let h := o % 4
  let v := BitVec.ofNat 64 imm <<< (16 * h)
  if o < 0x24 then v else (old &&& ~~~(0xFFFF#64 <<< (16 * h))) ||| v

/-- MUL, MULHU and MULH. -/
def mulValue (o : Nat) (a b : DWord) : DWord :=
  if o = 0x30 then a * b
  else if o = 0x31 then BitVec.ofNat 64 (a.toNat * b.toNat / 2 ^ 64)
  else BitVec.ofInt 64 (a.toInt * b.toInt / (2 ^ 64 : Int))

def boolWord (b : Bool) : DWord := if b then 1#64 else 0#64

/-- Remaining iterations of loop level `k`, 0 innermost; 0 when it is not active (R39). -/
def Task.level (t : Task) (k : Nat) : DWord := ((t.loops[k]?).map fun (l : LoopLevel) => l.rem.setWidth 64).getD 0#64

/-- The result of an ALU, compare, predicate, move or multiply slot, with its latency (R39, R46); none for any other.
A predicate operation takes its second predicate from bits [2:0] whatever its I bit (log 108). -/
def Task.scalar (t : Task) (lc : DWord) (x : Nat) : Option PendingResult :=
  let o := Slot.op x
  let rd := Dest.reg (BitVec.ofNat 5 (Slot.rd x))
  let pd := Dest.pred (BitVec.ofNat 3 (Slot.pd x))
  let a := t.reg (Slot.ra x)
  let b := t.second x
  if Op.isAlu o then some ⟨t.cycle + 1, rd, aluValue o a b⟩
  else if Op.isCmp o then some ⟨t.cycle + 1, pd, boolWord (cmpValue o a b)⟩
  else if Op.isPred o then
    some ⟨t.cycle + 1, pd, boolWord (predValue o (t.pred (Slot.ra x % 8)) (t.pred (Slot.rb x % 8)))⟩
  else if Op.isMov o then some ⟨t.cycle + 1, rd, movValue o (t.reg (Slot.rd x)) (Slot.imm16 x)⟩
  else if o = Op.mfloop then some ⟨t.cycle + 1, rd, t.level (fld 1 0 x)⟩
  else if o = Op.mflc then some ⟨t.cycle + 1, rd, lc⟩
  else if Op.isMul o then some ⟨t.cycle + 3, rd, mulValue o a b⟩
  else none

end Sys2Proof.Machine
end

