-- ==== Sys2Proof/Machine/Issue.lean ====
section
/-! DEFINITION. LONG_WORD_ISSUE and TASK_WAKE: switching, waiting, operand faults and the effects of a long word
(R28, R31, R36, R37, R41-R63, R258, R344). -/

namespace Sys2Proof.Machine

/-! RSEL (R258). -/

/-- Unread granules or unreleased completed slots of a ready ring; none when it is not ready. -/
def State.ringReady (s : State) (tag : Nat) : Option Nat :=
  let r := s.ring tag
  if (r.state = RingState.opened || r.state = RingState.draining) && r.rptr != r.wptr then
    some ((r.wptr + 2 ^ 32 - r.rptr) % 2 ^ 32)
  else none

/-- The first list position of these whose ring is ready. -/
def State.firstReady (s : State) (tags : List Nat) : List Nat → Option (Nat × Nat)
  | [] => none
  | i :: is =>
    match s.ringReady (tags.getD i 0) with
    | some n => some (i, n)
    | none => s.firstReady tags is

/-- The ready ring of highest PRIO among these positions, the earliest among equals. -/
def State.highestReady (s : State) (tags : List Nat) (best : Option (Nat × Nat)) : List Nat → Option (Nat × Nat)
  | [] => best
  | i :: is =>
    match s.ringReady (tags.getD i 0), best with
    | none, _ => s.highestReady tags best is
    | some n, none => s.highestReady tags (some (i, n)) is
    | some n, some b =>
      if (s.ring (tags.getD i 0)).prio > (s.ring (tags.getD b.1 0)).prio then s.highestReady tags (some (i, n)) is
      else s.highestReady tags (some b) is

/-- The position that the mode selects, with its count; none while it selects no ready ring. -/
def State.select (s : State) (tags : List Nat) (mode last : Nat) : Option (Nat × Nat) :=
  let n := tags.length
  let start := if last + 1 < n then last + 1 else 0
  if mode = 0 then s.highestReady tags none (List.range n)
  else if mode = 1 then s.firstReady tags ((List.range n).map fun k => (start + k) % n)
  else s.firstReady tags [start]

/-- What RSEL writes to rd. -/
def rselValue (tags : List Nat) (p : Nat × Nat) : DWord :=
  BitVec.ofNat 64 (tags.getD p.1 0 + p.1 * 2 ^ 13 + p.2 * 2 ^ 32)

/-- The result of an RSEL falls due for the next word, and ROT and SEQ keep their position. -/
def Task.selected (k : Task) (due : Nat) (tags : List Nat) (mode : Nat) (rd : BitVec 5) (p : Nat × Nat) : Task :=
  { k with
    results := k.results ++ [⟨due, .reg rd, rselValue tags p⟩]
    rselPos := if mode = 0 then k.rselPos else p.1 }

/-! Conditions (R53). -/

/-- A count has reached a mark, compared modulo 2^32. -/
def reached (count mark : Word) : Bool := !(count - mark).msb

/-- What the task waits for holds. -/
def State.holds (s : State) (t : Nat) (c : WaitCause) : Bool :=
  match c with
  | .queueDone q seq => reached (s.queue q.toNat).completed seq
  | .stream id n => reached (s.ctx id).delivered n
  | .lehr target => s.lehr.due target
  | .storeEmpty => (s.task t).stores.isEmpty
  | .queueFree q n => decide ((s.queue q.toNat).entries.length + n ≤ Config.queueDepth)
  | .rsel tags mode _ => (s.select tags mode (s.task t).rselPos).isSome
  | .storeFull => decide ((s.task t).stores.length < Config.storeDepth)
  | .queueStopped q => !(s.queue q).stopped
  | _ => false

/-- The condition of a WAIT slot. -/
def waitCause (k : Task) (x : Nat) : WaitCause :=
  let a := k.reg (Slot.wra x)
  let b := k.reg (Slot.wrb x)
  if Slot.kind x = 0 then .queueDone (a.setWidth 3) (b.setWidth 32)
  else if Slot.kind x = 1 then .stream a.toNat (b.setWidth 32)
  else if Slot.kind x = 2 then .lehr b
  else if Slot.kind x = 3 then .storeEmpty
  else .queueFree (a.setWidth 3) b.toNat

/-- TASK_WAKE: what a waiting task waits for holds, and it is READY unless a load or a drop still holds it (R28, R53). -/
def execTaskWake (task : Fin 32) (s : State) : Answer :=
  let t := task.val
  let k := s.task t
  if !(s.inRun && k.state == .waiting && s.holds t k.cause) then .next s
  else
    let k' := match k.cause with
      | .rsel tags mode rd =>
        match s.select tags mode k.rselPos with
        | some p => k.selected k.cycle tags mode rd p
        | none => k
      | _ => k
    .next (s.onTask t fun _ => Task.wake { k' with cause := .none })

/-! Which task issues (R52). -/

/-- The first word after a LAUNCH issues in the beat after that of the firing (R302). -/
def Core.mayIssue (c : Core) (beat : Nat) : Bool := decide (c.startBeat ≤ beat)

/-- The first READY task among these. -/
def Core.firstReadyTask (c : Core) (l : List Nat) : Option Nat :=
  l.find? fun t => (Vec.at c.tasks t).state == .ready

/-- The task whose word issues next: the present one while it is READY and need not give way, else the next READY one in
increasing number after it, wrapping, else the present one. -/
def Core.pick (c : Core) : Option Nat :=
  let others := (List.range 31).map fun i => (c.cur + 1 + i) % 32
  if c.mustSwitch then c.firstReadyTask (others ++ [c.cur]) else c.firstReadyTask (c.cur :: others)

/-! Words that do not issue (R54, R60, R61). -/

/-- Why a word does not issue: its task waits, or the core stalls. -/
inductive Hold where
  | wait (c : WaitCause)
  | stall
  deriving DecidableEq, Repr

/-- The slot holds a store. -/
def Slot.isStore (x : Nat) : Bool := Op.isStore (Slot.op x)

def State.hold (s : State) (k : Task) (w : LongWord) : Option Hold :=
  let full := match w.active k 1 with
    | some x => Slot.isStore x && decide (k.stores.length ≥ Config.storeDepth)
    | none => false
  if full then some (.wait .storeFull)
  else match w.active k 3 with
    | none => none
    | some x =>
      let q := s.queue (Slot.enqQ x)
      if q.stopped then some (.wait (.queueStopped (Slot.enqQ x)))
      else if q.entries.length ≥ Config.queueDepth then some .stall
      else none

/-! Operand faults (R37). -/

/-- A fault's code and DETAIL if there is one, the tags of an RSEL, and the state after what the checks have read. -/
structure Judged where
  fault : Option (Half × List Nat)
  tags : List Nat
  st : State

/-- Not a valid word address (R42, R51). -/
def badTarget (a : Int) : Bool := decide (a < 0) || a % 2 != 0 || decide (a ≥ Config.imemSize)

/-- The target of a taken BR, CALL or BRR. -/
def branchTarget (k : Task) (w : LongWord) (x : Nat) : Int :=
  if Slot.op x = Op.brr then ((k.reg (Slot.wra x)).toNat : Int) else (w.pc : Int) + 2 * Slot.off22 x

/-- A tag list that RSEL refuses: an entry outside 32 to 8,191 or an UPDATE ring, or a mode that DET does not allow over
rings of several sources (R258). -/
def State.badTags (s : State) (tags : List Nat) (mode : Nat) : Bool :=
  tags.any fun t =>
    decide (t < 32) || decide (t > 8191) || (s.ring t).type == RingType.update
      || (s.tier.det && decide (mode < 2) && (s.ring t).msrc)

/-- RSEL reads its tag list, once, at issue (R258). -/
def State.readTags (s : State) (k : Task) (x : Nat) : Judged :=
  let a := (k.reg (Slot.wra x)).toNat
  let n := (k.reg (Slot.wrb x)).toNat
  if n = 0 || n > 64 || a % 128 != 0 then ⟨some (Code.badCommand, []), [], s⟩
  else if !inLocal a (2 * n) || !s.may 0x51 .loc false then ⟨some (Code.accessDenied, []), [], s⟩
  else
    let (bs, bad, s) := s.lread a (2 * n)
    match bad with
    | some b => ⟨some (Code.eccUncorrected, [Source.core.toNat, b]), [], s.noteEcc Source.core b⟩
    | none =>
      let tags := (List.range n).map fun i => leAt bs (2 * i) 2
      ⟨if s.badTags tags (Slot.kind x) then some (Code.badCommand, []) else none, tags, s⟩

def State.judgeMemory (s : State) (k : Task) (x : Nat) : Judged :=
  let o := Slot.op x
  if Op.isStore o || Op.isLoad o then
    let (f, s) := s.accessCheck (k.address x) (Op.size o) (Op.isStore o)
    ⟨f, [], s⟩
  else if o = Op.acq then
    let a := (k.reg (Slot.ra x)).toNat
    let n := (k.reg (Slot.rb x)).toNat
    ⟨if n != 0 && decide (a + n > 2 ^ 32) then some (Code.badCommand, []) else none, [], s⟩
  else ⟨none, [], s⟩

def State.judgeControl (s : State) (k : Task) (w : LongWord) (x : Nat) : Judged :=
  let o := Slot.op x
  let bad := fun b => (⟨if b then some (Code.badCommand, []) else none, [], s⟩ : Judged)
  if o = Op.br || o = Op.call || o = Op.brr then bad (badTarget (branchTarget k w x))
  else if o = Op.loop then bad (decide (k.loops.length ≥ Config.loopDepth))
  else if o = Op.loopx then bad k.loops.isEmpty
  else if o = Op.wait then
    bad ((Slot.kind x == 1 && decide ((k.reg (Slot.wra x)).toNat ≥ Config.numContexts))
      || (Slot.kind x == 4 && decide ((k.reg (Slot.wrb x)).toNat > Config.queueDepth)))
  else if o = Op.rsel then s.readTags k x
  else if o = Op.spawn then bad (badTarget ((k.reg (Slot.wra x)).toNat : Int))
  else bad false

/-- An ENQ from a task that does not own the queue in DET mode (R62). -/
def State.judgeEnq (s : State) (t : Nat) (x : Nat) : Judged :=
  ⟨if s.tier.det && Vec.at s.core.owners (Slot.enqQ x) != BitVec.ofNat 5 t then some (Code.badCommand, []) else none, [], s⟩

def State.judgeSlot (s : State) (t : Nat) (k : Task) (w : LongWord) (i : Nat) : Judged :=
  match w.active k i with
  | none => ⟨none, [], s⟩
  | some x =>
    if i = 1 then s.judgeMemory k x else if i = 2 then s.judgeControl k w x else if i = 3 then s.judgeEnq t x
    else ⟨none, [], s⟩

/-- The slots judged in order: the lowest faulting one with its code and DETAIL, the tags of an RSEL, the state after the
reads of the checks. -/
def State.judge (s : State) (t : Nat) (k : Task) (w : LongWord) : Option (Nat × Half × List Nat) × List Nat × State :=
  let j1 := s.judgeSlot t k w 1
  match j1.fault with
  | some f => (some (1, f), [], j1.st)
  | none =>
    let j2 := j1.st.judgeSlot t k w 2
    match j2.fault with
    | some f => (some (2, f), [], j2.st)
    | none =>
      let j3 := j2.st.judgeSlot t k w 3
      (j3.fault.map fun f => (3, f), j2.tags, j3.st)

/-! Effects. -/

/-- End-of-body steps of the word at `pc`, inner levels first; `after` is the next word's address (R56, R58). -/
def endBody (pc after : Nat) : List LoopLevel → Nat × List LoopLevel
  | [] => (after, [])
  | l :: ls =>
    if l.last = pc then
      if l.rem - 1#32 = 0#32 then endBody pc after ls else (l.first, { l with rem := l.rem - 1#32 } :: ls)
    else (after, l :: ls)

/-- The iteration count that LOOP latches (R55). -/
def loopCount (k : Task) (x : Nat) : Word :=
  if Slot.loopImm x then BitVec.ofNat 32 (fld 9 0 x) else (k.reg (Slot.rb x)).setWidth 32

/-- The next word's address and the loop levels after a word (R42, R55-R58). -/
def flow (m : Memory) (k : Task) (w : LongWord) : Nat × List LoopLevel :=
  match w.active k 2 with
  | none => endBody w.pc w.next k.loops
  | some x =>
    let o := Slot.op x
    if o = Op.br || o = Op.call || o = Op.brr then
      let a := (branchTarget k w x).toNat
      (a, k.loops.dropWhile fun l => !(decide (l.first ≤ a) && decide (a ≤ l.last)))
    else if o = Op.loopx then
      match k.loops with
      | [] => (w.next, [])
      | l :: ls => (l.last + Header.len (m.readLE l.last 2), ls)
    else if o = Op.loop then
      match bodySpan m (Slot.body x) w.next w.next with
      | none => (w.next, k.loops)
      | some (last, after) =>
        if loopCount k x = 0#32 then endBody w.pc after k.loops
        else (w.next, { first := w.next, last := last, rem := loopCount k x } :: k.loops)
    else if o = Op.halt then (w.next, k.loops)
    else endBody w.pc w.next k.loops

/-- The opcode of the active S2 slot, if any. -/
def LongWord.control (w : LongWord) (k : Task) : Nat := ((w.active k 2).map Slot.op).getD 0

/-- S1's memory operation: its wait, if the task must wait for it, a result, and the state. -/
def State.runMemory (s : State) (t : Nat) (k : Task) (w : LongWord) (x : Nat) : WaitCause × List PendingResult × State :=
  let o := Slot.op x
  let a := k.address x
  let n := Op.size o
  let halts := w.control k == Op.halt
  if Op.isStore o then (.none, [], s.pushStore t a n (k.reg (Slot.rd x)))
  else if Op.isLoad o then
    let rd := BitVec.ofNat 5 (Slot.rd x)
    if halts || s.loadHit a then
      let (_, v, s) := s.loadAccess a n
      (.none, [⟨k.cycle + 4, .reg rd, loadValue n v (Op.signed o)⟩], s)
    else
      let place := k.results.length + ((w.active k 0).bind fun y => k.scalar 0#64 y).toList.length
      (.load { addr := a, size := n, signed := Op.signed o, rd := rd, due := k.cycle + 4, pc := w.pc, place := place,
               ord := s.core.storeCount }, [], s)
  else
    let base := (k.reg (Slot.ra x)).toNat
    let len := (k.reg (Slot.rb x)).toNat
    let all := o == Op.cinva || decide ((base + len - 1) / 64 + 1 - base / 64 > 512)
    if o = Op.acq && len = 0 then (.none, [], s)
    else if o = Op.acq || o = Op.cinva then
      if halts then (.none, [], { s with core := s.core.dropLines base len all })
      else (.drop base len all, [], s)
    else (.none, [], s)

/-- S3: a command enters its queue (R43, R44). -/
def State.runEnq (s : State) (k : Task) (x : Nat) : List PendingResult × State :=
  let q := Slot.enqQ x
  let seq := (s.queue q).issued + 1#32
  let c : QueueCmd := { regs := (List.range (Slot.enqN x)).map fun i => k.reg (Slot.ra x + i), seq := seq }
  ([⟨k.cycle + 1, .reg (BitVec.ofNat 5 (Slot.rd x)), seq.setWidth 64⟩],
    s.onQueue q fun y => { y with entries := y.entries ++ [c], issued := seq })

/-- The result of a CALL falls due with the next word (R42, R46). -/
def callResult (k : Task) (w : LongWord) : List PendingResult :=
  match w.active k 2 with
  | none => []
  | some x => if Slot.op x = Op.call then [⟨k.cycle + 1, .reg 31#5, BitVec.ofNat 64 w.next⟩] else []

/-- Where a result of RSEL or SPAWN goes: nowhere when an ENQ of the word writes the same register (R36). -/
def rselDest (k : Task) (w : LongWord) (x : Nat) : BitVec 5 :=
  match w.active k 3 with
  | some y => if Slot.rd y = Slot.wrd x then 0#5 else BitVec.ofNat 5 (Slot.wrd x)
  | none => BitVec.ofNat 5 (Slot.wrd x)

/-- What a WAIT, an RSEL or a SPAWN of the word, issued in N-cycle `nc`, waits for. -/
def waitsFor (nc : Nat) (k : Task) (w : LongWord) (tags : List Nat) : WaitCause :=
  match w.active k 2 with
  | none => .none
  | some x =>
    if Slot.op x = Op.wait then waitCause k x
    else if Slot.op x = Op.rsel then .rsel tags (Slot.kind x) (rselDest k w x)
    else if Slot.op x = Op.spawn then
      .spawn ((k.reg (Slot.wrb x)).toNat % 32) (k.reg (Slot.wra x)).toNat (k.reg (Slot.wrd x)) (rselDest k w x) nc
    else .none

/-- A WAIT whose condition holds lets the task go on; an RSEL that selects at once gives its result to the next word. -/
def State.waitNow (s : State) (t : Nat) (c : WaitCause) : State :=
  if c == .none then s
  else if s.holds t c then
    match c with
    | .rsel tags mode rd => s.onTask t fun k => match s.select tags mode k.rselPos with
      | some p => k.selected k.cycle tags mode rd p
      | none => k
    | _ => s
  else s.onTask t fun k => { k with cause := c, state := .waiting }

/-- The results of S0 and S1 that the register file gives. -/
def scalarResults (k : Task) (w : LongWord) (lc : DWord) : List PendingResult :=
  [0, 1].filterMap fun i => (w.active k i).bind fun x => k.scalar lc x

/-- All slots of a word take effect together (R36), and the task goes on, waits or ends. -/
def State.effects (s : State) (t : Nat) (k : Task) (w : LongWord) (tags : List Nat) : State :=
  let scalars := scalarResults k w s.lehr.lc
  let (mw, loads, s) := match w.active k 1 with
    | none => (WaitCause.none, [], s)
    | some x => s.runMemory t k w x
  let (enq, s) := match w.active k 3 with
    | none => ([], s)
    | some x => s.runEnq k x
  let (pc, loops) := flow s.core.imem k w
  let idle := w.dly + (if w.control k = Op.brr then 1 else 0)
  let s := s.onTask t fun x => { x with
    results := x.results ++ scalars ++ loads ++ callResult k w ++ enq
    cycle := x.cycle + 1 + idle
    pc := pc
    loops := loops
    memWait := mw
    state := if mw = .none then .ready else .waiting }
  let s := s.waitNow t (waitsFor s.nc k w tags)
  let away := w.yld || w.dly != 0 || (s.task t).state == .waiting
  let s := { s with core := { s.core with mustSwitch := away } }
  if w.control k = Op.halt then (s.onTask t fun x => { x with state := .free }).endCheck else s

/-- A word whose encoding is good: it waits, faults or takes effect. -/
def State.runWord (s : State) (t : Nat) (k : Task) (w : LongWord) : State :=
  match s.hold k w with
  | some .stall => s
  | some (.wait c) =>
    let s := s.onTask t fun x => { x with cause := c, state := .waiting }
    { s with core := { s.core with mustSwitch := true } }
  | none =>
    match s.judge t k w with
    | (some (slot, code, detail), _, s) => s.haltTask t code slot w.pc detail
    | (none, tags, s) => s.effects t k w tags

/-- The word at the task's pc (R30, R35). -/
def State.runTask (s : State) (t : Nat) : State :=
  let s := s.onTask t Task.commit
  let k := s.task t
  match s.core.fetch k.pc with
  | .bad slot => s.haltTask t Code.badCommand slot k.pc []
  | .ecc a =>
    let d := [Source.core.toNat, a]
    (s.kilnRecord Code.eccUncorrected Source.core d).haltTask t Code.eccUncorrected 0 k.pc d
  | .word w => s.runWord t k w

/-- LONG_WORD_ISSUE: one word of the task whose turn it is (R52). The core issues one word per N-cycle, so SPAWNs of earlier
words have been performed (R51, log 16). Task 0 of a program that a LAUNCH has started issues from the beat after that of
the LAUNCH on (R302). -/
def execLongWordIssue (s : State) : Answer :=
  if !(s.inRun && !s.resting && s.core.mayIssue s.beat) then .next s
  else
    let s := s.wakeSpawners.performSpawns
    match s.core.pick with
    | none => .next s
    | some t => .next (State.runTask { s with core := { s.core with cur := t, mustSwitch := false } } t)

end Sys2Proof.Machine
end

