-- ==== Sys2Proof/Machine/Router.lean ====
section
/-! DEFINITION. The router: what a message is routed by, outputs with their link credits, combining, multicast and
ROUTER_FORWARD (R306-R324). -/

namespace Sys2Proof.Machine

/-- Flits of a message: 64 bytes each, header included (R240, R307). -/
def Msg.flits (m : Message) : Nat := (16 + m.payload.length + 63) / 64

/-- Set a sticky bit of RT_STAT. -/
def State.setRtStat (s : State) (i : Nat) : State :=
  { s with router := { s.router with stat := s.router.stat ||| BitVec.ofNat 6 (2 ^ i) } }.raise 9 0x004 i

/-- RT_NRFIRST (R331). -/
def Router.nrFirst (r : Router) : Nat :=
  flag 31 r.nrValid + flag 30 r.nrMis + r.nrLcid.toNat * 2 ^ 12 + r.nrChip.toNat

/-- NO_ROUTE: a message is discarded and counted; the first since the last clear is reported (R318). -/
def State.noRoute (s : State) (m : Message) (mis : Bool) : State :=
  let s := { s with router := { s.router with noroute := satAdd s.router.noroute 1 } }.setRtStat (if mis then 1 else 0)
  let s := s.raise 9 0x024 31
  if s.router.nrValid then s
  else
    let s := { s with router := { s.router with
      nrValid := true
      nrMis := mis
      nrLcid := BitVec.ofNat 11 (Msg.dlcid m)
      nrChip := BitVec.ofNat 12 (Msg.dchip m) } }
    s.post Code.noRoute Source.router [s.router.nrFirst]

/-! Inputs (R309). -/

/-- Flits of a lane that an input holds (R309). -/
def laneDepth (lane : Nat) : Nat := if lane = 0 then 4 else 16

/-- The messages of an input and lane that stand in its buffer, over all outputs. -/
def Router.heldOf (r : Router) (input lane : Nat) : List OutMsg :=
  r.ports.toList.flatMap fun x => x.outq.filter fun o => o.held && o.input == input && Msg.lane o.msg == lane

/-- Flits of an input and lane that no output has sent: more than the buffer holds are still on their way. -/
def Router.heldFlits (r : Router) (input lane : Nat) : Nat := ((r.heldOf input lane).map OutMsg.left).foldl (· + ·) 0

/-- The input has room for the head of another message of this lane (R309). -/
def State.laneFree (s : State) (input lane : Nat) : Bool := decide (s.router.heldFlits input lane < laneDepth lane)

/-- `n` flits leave the buffer of an input: their link credits go back to the neighbour (R309). -/
def State.freeInput (s : State) (input lane n : Nat) : State :=
  if input < 4 then s.onPort input fun x => { x with owed := Vec.upd x.owed lane fun k => k + n } else s

/-! Outputs. -/

/-- The message of a lane that sends next: the one in progress, else the oldest of the first input in rotation after the one
served last (R310). -/
def Port.nextOf (p : Port) (lane : Nat) : Option Nat :=
  (p.outq.findIdx? fun o => Msg.lane o.msg == lane && decide (o.left < Msg.flits o.msg)).orElse fun _ =>
    (List.range 6).findSome? fun k =>
      p.outq.findIdx? fun o => Msg.lane o.msg == lane && o.input == (Vec.at p.served lane + 1 + k) % 6

/-- The place in the output queue of the message whose flit goes next: of the highest-ranked lane that has a flit and a credit
(R309). -/
def Port.nextFlit (p : Port) : Option Nat :=
  (List.range 4).findSome? fun lane => if 0 < Vec.at p.credits lane then p.nextOf lane else none

/-- Bytes of flit `k` of a message. -/
def Msg.flit (m : Message) (k : Nat) : List Byte := padTo 64 ((headerBytes m ++ m.payload).drop (64 * k))

/-- Port `p` sends one flit of the message at place `i` of its queue, and the flit leaves its input. -/
def State.sendFlit (s : State) (p i : Nat) : State :=
  match (s.port p).outq[i]? with
  | none => s
  | some o =>
    let lane := Msg.lane o.msg
    let s := s.onPort p fun x => { x with
      fwd := x.fwd + 1#64
      txNc := s.nc
      sent := Msg.flit o.msg (Msg.flits o.msg - o.left)
      credits := Vec.upd x.credits lane fun c => c - 1
      served := Vec.upd x.served lane fun _ => o.input
      outq := if o.left ≤ 1 then x.outq.eraseIdx i else x.outq.set i { o with left := o.left - 1 } }
    if o.held then s.freeInput o.input lane 1 else s

/-- A mesh output sends flits while it has one with a credit. -/
def State.pumpMesh (p : Nat) : Nat → State → State
  | 0, s => s
  | k + 1, s => match (s.port p).nextFlit with
    | none => s
    | some i => State.pumpMesh p k (s.sendFlit p i)

/-- The SIDE byte of an edge frame's slot (R326). -/
def sideByte (o : OutMsg) : Byte :=
  let n := (Msg.flits o.msg)
  BitVec.ofNat 8 (128 + Msg.lane o.msg * 32 + flag 4 (decide (o.left = n)) + flag 3 (decide (o.left = 1))
    + flag 2 o.side.mc + flag 1 o.side.rr)

/-- Up to `k` flits of the edge output, as slots with their SIDE bytes. -/
def edgeSlots : Nat → State → List (List Byte × Byte) × State
  | 0, s => ([], s)
  | k + 1, s => match (s.port 4).nextFlit with
    | none => ([], s)
    | some i =>
      match (s.port 4).outq[i]? with
      | none => ([], s)
      | some o =>
        let (rest, t) := edgeSlots k (s.sendFlit 4 i)
        ((Msg.flit o.msg ((Msg.flits o.msg) - o.left), sideByte o) :: rest, t)

/-- The edge output packs flits into DATA frames while fewer than 240 are unacknowledged (R326, R327). -/
def edgePump : Nat → State → State
  | 0, s => s
  | k + 1, s =>
    let l := s.router.link
    if l.unacked.length ≥ Config.retryFrames then s
    else
      let (fs, t) := edgeSlots 4 s
      if fs.isEmpty then s
      else
        let seq := l.txSeq + 1#16
        let t := { t with router := { t.router with link := { t.router.link with
          txSeq := seq, ackNc := if l.unacked.isEmpty then s.nc else l.ackNc, unacked := l.unacked ++ [(seq, fs)] } } }
        edgePump k (t.sendFrame seq l.rxSeq 1 fs)

/-- Send what port `p` can send. -/
def State.pumpPort (s : State) (p : Nat) : State :=
  let x := s.port p
  if x.state != .up then s
  else
    let n := (x.outq.map OutMsg.left).foldl (· + ·) 0
    if p < 4 then State.pumpMesh p n s else edgePump n s

/-! Combining (R264, R323). -/

/-- The element-wise sum of two payloads in a gather mode, and whether an EXACT sum saturated (R260, R264; a BF16 sum is
rounded once to BF16 under R183, log 31). -/
def sumPayload (gmode : Nat) (a b : List Byte) : List Byte × Bool :=
  if gmode = 2 then
    let n := a.length / 8
    let t := (words 8 n a).zipWith (fun x y => sat64 (sext 64 x + sext 64 y)) (words 8 n b)
    (t.flatMap fun x => leBytes 8 (bits64 x.1), t.any (·.2))
  else if gmode = 0 then
    (((words 4 (a.length / 4) a).zipWith Fmt.fp32.fadd (words 4 (a.length / 4) b)).flatMap (leBytes 4), false)
  else
    (((words 2 (a.length / 2) a).zipWith Fmt.bf16.fadd (words 2 (a.length / 2) b)).flatMap (leBytes 2), false)

/-- Two messages that one may replace, and the message that does (R264, R286, R323). -/
def combine (a b : Message) : Option Message :=
  if Msg.kind a = Kind.gather && Msg.kind b = Kind.gather && Msg.lane a = Msg.lane b && a.w0 == b.w0
      && Msg.slot a = Msg.slot b && Msg.cid a = Msg.cid b && Msg.gmode a = Msg.gmode b && Msg.gmode a != 3
      && Msg.sx a = Msg.sx b && Msg.len a = Msg.len b && decide (Msg.ncont a + Msg.ncont b ≤ 65535) then
    let (pay, full) := sumPayload (Msg.gmode a) a.payload b.payload
    let flags := flag 51 (full || Msg.ovf a || Msg.ovf b) + flag 52 (Msg.nf a || Msg.nf b)
    some { w0 := a.w0
           w1 := BitVec.ofNat 64 (fld 63 53 a.w1.toNat * 2 ^ 53 + flags + fld 50 16 a.w1.toNat * 2 ^ 16
             + Msg.ncont a + Msg.ncont b)
           payload := pay }
  else if Msg.kind a = Kind.sync && Msg.kind b = Kind.sync && Msg.sop a = 1 && Msg.sop b = 1 && a.w0 == b.w0
      && Msg.bid a = Msg.bid b && Msg.gen a = Msg.gen b && decide (Msg.count a + Msg.count b ≤ 16777215) then
    some { w0 := a.w0, w1 := BitVec.ofNat 64 (fld 63 24 a.w1.toNat * 2 ^ 24 + Msg.count a + Msg.count b), payload := [] }
  else none

/-- The output queue with a message combined into the first waiting whole message it may join (R323; the model combines
wherever it may, log 32). -/
def joined (o : OutMsg) : List OutMsg → Option (List OutMsg)
  | [] => none
  | x :: t =>
    let here := if x.left = Msg.flits x.msg && decide (x.left ≤ 16) && x.side == o.side then combine x.msg o.msg else none
    match here with
    | some m => some ({ x with msg := m } :: t)
    | none => (joined o t).map (x :: ·)

/-- A message is discarded at port `p`, which is not UP (R318, R331). -/
def State.dropAt (s : State) (p : Nat) (m : Message) : State :=
  (s.onPort p fun x => { x with drop := satAdd x.drop 1 }).noRoute m false

/-- Send a message that came by `input` out of port `p`, if it is UP (R318); `held` says that its flits stand in that input until
they are sent. -/
def State.outPort (s : State) (p input : Nat) (held : Bool) (m : Message) (side : Sideband) : State :=
  let free := fun (s : State) => if held then s.freeInput input (Msg.lane m) (Msg.flits m) else s
  if (s.port p).state != .up then free (s.dropAt p m)
  else
    let o : OutMsg := { msg := m, side := side, input := input, held := held, left := Msg.flits m }
    match if s.router.comb then joined o (s.port p).outq else none with
    | some q => free (s.onPort p fun x => { x with outq := q })
    | none => (s.onPort p fun x => { x with outq := x.outq ++ [o] }).pumpPort p

/-! Routing (R313-R317). -/

/-- The output of XY routing toward another physical ID (R314). -/
def xyPort (own dst : Nat) : Nat :=
  let row := own / 64
  let col := own % 64
  if col < dst % 64 then 1 else if dst % 64 < col then 3 else if dst / 64 < row then 0 else 2

/-- The output of adaptive routing: every W hop first, then the productive direction with more free credits, E on a tie
(R315). -/
def State.adaptivePort (s : State) (own dst lane : Nat) : Nat :=
  if dst % 64 ≤ own % 64 then xyPort own dst
  else if dst / 64 = own / 64 then 1
  else
    let v := if dst / 64 < own / 64 then 0 else 2
    if Vec.at (s.port v).credits lane > Vec.at (s.port 1).credits lane then v else 1

/-- The message is routed adaptively here (R315). -/
def State.adapts (s : State) (m : Message) : Bool :=
  !s.tier.det && s.router.adapt && (Msg.kind m == Kind.credit || (Msg.kind m == Kind.gather && decide (Msg.gmode m < 2)))

/-- A message for this cluster waits at the local output with its stamp (R300) and the input it came by (R411). Messages of a
reserved KIND have no handler and are dropped (log 26). -/
def State.deliverLocal (s : State) (input : Nat) (m : Message) : State :=
  if Msg.kind m > 4 then s
  else { s with router := { s.router with
    inbox := s.router.inbox ++
      [{ msg := m, stamp := s.lehr.lc, beat := s.beat, port := input, journalled := false, marked := false }] } }

/-- Move a message with its TPID one router on: out a port, to the edge, or to the local output, re-routed or discarded
there (R313, R317). -/
def State.route (s : State) (input : Nat) (m : Message) (side : Sideband) : State :=
  let own := s.router.pid.toNat
  let out := fun (side : Sideband) =>
    let dst := side.tpid.toNat
    s.outPort (if s.adapts m then s.adaptivePort own dst (Msg.lane m) else xyPort own dst) input true m side
  let free := fun (s : State) => s.freeInput input (Msg.lane m) (Msg.flits m)
  if side.tpid.toNat ≠ own then out side
  else if Msg.dchip m ≠ s.router.chip.toNat then s.outPort 4 input true m side
  else if s.router.lvalid && Msg.dlcid m == s.router.lcid.toNat then free (s.deliverLocal input m)
  else
    let e := Tbl.get 0#12 s.router.active (Msg.dlcid m)
    if entryValid e && entryPid e != own && !side.rr then out { side with tpid := BitVec.ofNat 11 (entryPid e), rr := true }
    else free (s.noRoute m true)

/-- TPID of a message that enters the chip here (R313). -/
def State.entryTpid (s : State) (m : Message) : Option (BitVec 11) :=
  let e := if Msg.dchip m ≠ s.router.chip.toNat then Tbl.get 0#12 s.router.exits (Msg.dchip m)
    else Tbl.get 0#12 s.router.active (Msg.dlcid m)
  if entryValid e then some (BitVec.ofNat 11 (entryPid e)) else none

/-- A message is a kind that a domain multicast may have: REVOKE, or a RELEASE (R322). -/
def multicastKind (m : Message) : Bool := Msg.kind m == Kind.revoke || (Msg.kind m == Kind.sync && Msg.sop m == 2)

/-- The domain of a multicast is this cluster's, so that it is delivered here too (R322). -/
def State.ownDomain (s : State) (m : Message) : Bool := Msg.domain m == s.gaffer.domain.toNat

/-- Spread a multicast: the ports it goes out of, and local delivery in its domain (R322). A port that is not UP cuts off
what lies beyond it. -/
def State.spread (s : State) (input : Nat) (m : Message) (ports : List Nat) : State :=
  let ports := if s.router.edge && s.router.mcout && input != 4 then ports ++ [4] else ports
  let s := ports.foldl (fun s p =>
    if (s.port p).state == .up then s.outPort p input false m { tpid := 0#11, rr := false, mc := true } else s) s
  (if s.ownDomain m then s.deliverLocal input m else s).freeInput input (Msg.lane m) (Msg.flits m)

/-- A message enters the chip at this cluster, from its own send path or from the edge (R313, R322). -/
def State.inject (s : State) (input : Nat) (m : Message) (rr : Bool) : State :=
  if Msg.dlcid m = 0x7FF then
    if multicastKind m then s.spread input m [1, 3, 0, 2] else s.noRoute m false
  else match s.entryTpid m with
    | none => s.noRoute m false
    | some t => s.route input m { tpid := t, rr := rr, mc := false }

/-- The local port takes this message now: not an EXCH or BULK one during back-pressure, and none that the staging
buffer has no room for (R409). -/
def State.localAccepts (s : State) (m : Message) : Bool :=
  let room := s.journal.fill + 48 + m.payload.length ≤ Config.stagingSize || !s.journalOn
  (room && !(s.journal.bpress && decide (Msg.lane m ≥ 2)))

/-- The message would be delivered here. -/
def State.headsHere (s : State) (m : Message) (tpid : BitVec 11) : Bool :=
  tpid == s.router.pid && Msg.dchip m == s.router.chip.toNat && s.router.lvalid && Msg.dlcid m == s.router.lcid.toNat

/-- A message that enters the chip here would be delivered here (R313, R322). -/
def State.staysHere (s : State) (m : Message) : Bool :=
  if Msg.dlcid m = 0x7FF then multicastKind m && s.ownDomain m else ((s.entryTpid m).map (s.headsHere m)).getD false

/-- The router takes a message of this input now: the input has room for it, and the local port accepts it if it would be
delivered here (R309, R409). -/
def State.mayTake (s : State) (input : Nat) (m : Message) (here : Bool) : Bool :=
  s.laneFree input (Msg.lane m) && (!here || s.localAccepts m)

/-- The oldest element of a list that may be taken, none overtaking an earlier one of its own lane. -/
def takeFirst {α : Type} (lane : α → Nat) (ok : α → Bool) : List Nat → List α → Option (α × List α)
  | _, [] => none
  | held, x :: t =>
    if !held.contains (lane x) && ok x then some (x, t)
    else (takeFirst lane ok (lane x :: held) t).map fun r => (r.1, x :: r.2)

/-- ROUTER_FORWARD: the router takes one message from a mesh port, from the edge link or from the own send path, and
forwards, delivers, re-routes, combines or discards it (R309, R313-R324). -/
def execRouterForward (src : RouterInput) (s : State) : Answer :=
  if !s.pins.alive then .next s else
  match src with
  | .mesh p m side =>
    let here := if side.mc then multicastKind m && s.ownDomain m else s.headsHere m side.tpid
    if (s.port p.toNat).state != .up || !s.mayTake p.toNat m here then .next s
    else
      let s := s.onPort p.toNat fun x => { x with rxNc := s.nc }
      if side.mc then
        if !multicastKind m then .next ((s.noRoute m false).freeInput p.toNat (Msg.lane m) (Msg.flits m))
        else .next (s.spread p.toNat m
          (if p = 0#2 then [2] else if p = 2#2 then [0] else if p = 1#2 then [3, 0, 2] else [1, 0, 2]))
      else .next (s.route p.toNat m side)
  | .edge =>
    let own := fun (m : Message) => Msg.dchip m == s.router.chip.toNat
    match takeFirst (fun x => Msg.lane x.1) (fun x => (x.2.1 && own x.1) || s.mayTake 4 x.1 (s.staysHere x.1)) []
        s.router.link.rxq with
    | none => .next s
    | some ((m, mc, rr), rest) =>
      let s := { s with router := { s.router with link := { s.router.link with rxq := rest } } }
      let s := s.onPort 4 fun x => { x with owed := Vec.upd x.owed (Msg.lane m) fun k => k + 1 }
      if mc then
        if own m then .next s
        else if multicastKind m then .next (s.spread 4 m [1, 3, 0, 2]) else .next (s.noRoute m false)
      else match s.entryTpid m with
        | none => .next (s.noRoute m false)
        | some t => .next (s.route 4 m { tpid := t, rr := rr, mc := false })
  | .own =>
    match takeFirst (fun x => Msg.lane x.1) (fun x => s.mayTake 5 x.1 (s.staysHere x.1)) [] s.router.txq with
    | none => .next s
    | some ((m, _), rest) => .next ({ s with router := { s.router with txq := rest } }.inject 5 m false)

/-- LINK_CREDIT_RETURN: a link credit of a lane returns, and waiting flits go (R309, R461). -/
def execLinkCreditReturn (port : Fin 5) (lane : BitVec 2) (s : State) : Answer :=
  if !s.pins.alive then .next s else
  .next ((s.onPort port fun x =>
    { x with credits := Vec.upd x.credits lane.toNat fun c => min (laneDepth lane.toNat) (c + 1) }).pumpPort port)

end Sys2Proof.Machine
end

