-- ==== Sys2Proof/Machine/Links.lean ====
section
/-! DEFINITION. Port states, discovery and the edge link: R325-R330. -/

namespace Sys2Proof.Machine

def State.onLink (s : State) (f : EdgeLink → EdgeLink) : State :=
  { s with router := { s.router with link := f s.router.link } }

/-- A port that its link brings flits and frames (R325). -/
def Port.linked (x : Port) : Bool := x.state == .up || x.state == .hello || x.state == .mismatch

/-- The message of an input and lane that is still being received: its last one, when more of its flits are waited for than the
buffer of the input holds (R309, R325; log 60). -/
def Router.receiving (r : Router) (input lane : Nat) : Option OutMsg :=
  if r.heldFlits input lane > laneDepth lane then (r.heldOf input lane).getLast? else none

/-- The message that an input is receiving on a lane is truncated: it leaves its output (R325). -/
def State.cutInput (s : State) (input lane : Nat) : State :=
  match s.router.receiving input lane with
  | none => s
  | some o => { s with router := { s.router with
      ports := s.router.ports.map fun (x : Port) => { x with outq := x.outq.erase o } } }

/-- Messages that a port truncates when it carries no more traffic: those partly sent and those partly received (R325). -/
def State.truncated (s : State) (p : Nat) : Nat :=
  ((s.port p).outq.filter fun o => decide (o.left < Msg.flits o.msg)).length
    + (if p = 4 then s.router.link.partials.length
       else ((List.range 4).filter fun l => (s.router.receiving p l).isSome).length)

/-- What goes with a link: its output queue and link credits, and on the edge port the frames and flits under way. What other
outputs hold of this input has been received whole. The edge PHY stops training until the port trains again (R325, R327). -/
def State.clearLink (s : State) (p : Nat) : State :=
  let s := { s with router := { s.router with ports := s.router.ports.map fun (x : Port) =>
    { x with outq := x.outq.map fun (o : OutMsg) => if o.input = p then { o with held := false } else o } } }
  let s := s.onPort p fun x =>
    { x with outq := [], credits := #v[4, 16, 16, 16], owed := #v[0, 0, 0, 0], helloSent := false, helloRecv := false,
             pvalid := false }
  if p = 4 then s.onLink fun l => { l with unacked := [], partials := [], resends := 0, train := false } else s

/-- A port that was UP carries no more traffic: messages in progress are truncated, and those that wait need a port that is not
UP (R318, R325, R330, R331). -/
def State.dropTraffic (s : State) (p : Nat) : State :=
  let q := (s.port p).outq
  let cut := s.truncated p
  let waiting := q.filter fun o => decide (o.left = Msg.flits o.msg)
  let s := if p < 4 then (List.range 4).foldl (fun s l => s.cutInput p l) s else s
  let s := q.foldl (fun s o => if o.held then s.freeInput o.input (Msg.lane o.msg) o.left else s) s
  let s := (s.clearLink p).onPort p fun x => { x with drop := satAdd x.drop cut }
  let s := if cut > 0 then s.setRtStat 2 else s
  waiting.foldl (fun s o => s.dropAt p o.msg) s

/-- LINK_DOWN: a port enters DOWN, and one that was UP is reported (R318, R325, R330, R331). -/
def State.portDown (s : State) (p : Nat) (peer : Bool) : State :=
  let x := s.port p
  if x.state == .tied then s
  else
    let s := (s.dropTraffic p).onPort p fun y =>
      { y with
        state := .down
        ownReady := peer && y.ownReady
        holdNc := if peer then y.holdNc else s.nc }
    let s := if x.state == .down then s else s.setRtStat 3
    if x.state == .up then s.postKiln Code.linkDown Source.router [p, x.chip.toNat, x.pid.toNat] else s

/-- A port starts training; on the edge the PHY trains from E1, and the generation is negotiated from the highest again (R325,
R328). -/
def State.startTraining (s : State) (p : Nat) : State :=
  let s := s.onPort p fun x => { x with state := .training, rxNc := s.nc, txNc := s.nc, gen := if p < 4 then 0#4 else 1#4 }
  if p = 4 then s.onLink fun l =>
      { l with train := true, gen := 1#2, lock := false, sinceNc := s.nc, failed := false, cap := 3#2, txSeq := 0#16, rxSeq := 0#16 }
  else s

/-- The pins that were latched tie the port off, or it is an edge port that is absent (R306, R462, R466). -/
def Router.tiedOff (r : Router) (p : Nat) : Bool := if p < 4 then r.mtie.getLsbD p else !r.edge

/-- Ports that the pins tie off are TIED; ports that are DOWN with both link-ready signals high start training: after reset
release, without firmware (R325, R466). The edge port waits for its retry after E1 has failed (R328). -/
def State.trainPorts (s : State) : State :=
  (List.range 5).foldl (fun s p =>
    let x := s.port p
    if s.router.tiedOff p then s.onPort p fun x => { x with state := .tied }
    else if x.state == .down && x.ownReady && x.peerReady && !(p == 4 && s.router.link.failed) then s.startTraining p else s) s

/-- LINK_READY_DROP: the peer's link-ready falls (R325). -/
def execLinkReadyDrop (port : Fin 5) (s : State) : Answer :=
  if !s.pins.alive then .next s else
  if (s.port port).peerReady && (s.port port).state != .tied then
    .next ((s.onPort port fun x => { x with peerReady := false }).portDown port true)
  else .next s

/-- LINK_READY_RISE: the peer's link-ready is high again, and a port that waits for it starts training (R325). -/
def execLinkReadyRise (port : Fin 5) (s : State) : Answer :=
  if !s.pins.alive then .next s else
  if !(s.port port).peerReady && (s.port port).state != .tied then
    let s := s.onPort port fun x => { x with peerReady := true }
    .next (if (s.port port).state == .down && (s.port port).ownReady then s.startTraining port else s)
  else .next s

/-- LINK_READY_HOLD_END: 64 N-cycles after a port dropped its own link-ready it starts training (R325). -/
def execLinkReadyHoldEnd (port : Fin 5) (s : State) : Answer :=
  if !s.pins.alive then .next s else
  let x := s.port port
  if x.state == .down && !x.ownReady && decide (x.holdNc + 64 ≤ s.nc) then
    .next ((s.onPort port fun x => { x with ownReady := true }).startTraining port)
  else .next s

/-- FLIT_TIMEOUT: no flit for 2,048 N-cycles (R325). -/
def execFlitTimeout (port : Fin 5) (s : State) : Answer :=
  if !s.pins.alive then .next s else
  let x := s.port port
  if x.linked && decide (x.rxNc + 2048 ≤ s.nc) then
    .next (s.portDown port false)
  else .next s

/-- One link credit a lane returns to the neighbour of each mesh port in an N-cycle; on the edge every frame returns some, and a
frame that carries nothing else is IDLE and repeats the last SEQ (R309, R326, R461). -/
def State.returnCredits (s : State) : State :=
  let s := { s with router := { s.router with ports := s.router.ports.mapFinIdx fun i (x : Port) _ =>
    if i < 4 then { x with owed := x.owed.map (· - 1) } else x } }
  let l := s.router.link
  let x := s.port 4
  if l.lock && (x.state == .up || x.state == .hello || x.state == .mismatch) && x.txNc != s.nc then
    s.sendFrame l.txSeq l.rxSeq 2 []
  else s

/-- IDLE_FLIT: a mesh port with no traffic for 1,024 N-cycles sends an idle flit; one of its peer is a flit that it receives
(R325). -/
def execIdleFlit (flit : IdleFlit) (s : State) : Answer :=
  if !s.pins.alive then .next s else
  match flit with
  | .sent port =>
    let x := s.port port
    if decide (port.val < 4) && x.linked && decide (x.txNc + 1024 ≤ s.nc) then .next (s.sendIdle port) else .next s
  | .received port =>
    if decide (port.val < 4) && (s.port port).linked then .next (s.onPort port fun x => { x with rxNc := s.nc })
    else .next s

/-- TRAINING_COMPLETE: a mesh port has trained at M1 and sends HELLO (R325, R329). -/
def execTrainingComplete (port : Fin 5) (s : State) : Answer :=
  if !s.pins.alive then .next s else
  if decide (port.val < 4) && (s.port port).state == .training then
    let s := s.onPort port fun x => { x with state := .hello, gen := 1#4, helloSent := true, rxNc := s.nc }
    .next (s.sendHello port)
  else .next s

/-- A HELLO names a generation or hardware that the cluster cannot work with (R330). -/
def helloBad (r : List Byte) : Bool :=
  let g := leAt r 7 1
  let hw := leAt r 8 1 / 16
  decide (g / 16 = 0) || decide (g / 16 > 2) || decide (g % 16 = 0) || decide (g % 16 > 3) || (hw != 1 && hw != 2)

/-- The partner entry takes what a HELLO says (R329, R330). -/
def Port.learn (x : Port) (r : List Byte) : Port :=
  let l := leAt r 4 2
  let fw := leAt r 9 3
  { x with
    chip := BitVec.ofNat 12 (leAt r 0 2)
    pid := BitVec.ofNat 11 (leAt r 2 2)
    lvalid := bit 15 l
    lcid := BitVec.ofNat 11 l
    domain := BitVec.ofNat 6 (leAt r 6 1)
    gens := BitVec.ofNat 8 (leAt r 7 1)
    hw := BitVec.ofNat 8 (leAt r 8 1)
    fw := BitVec.ofNat 16 (fld 23 8 fw)
    hadPartner := true
    helloRecv := true }

/-- Report the new partner of a port (R330). -/
def State.partnerChanged (s : State) (p : Nat) : State :=
  if (s.port p).changed then (s.onPort p fun x => { x with changed := false }).post Code.partnerChanged Source.router [p] else s

/-- A port becomes UP at a generation, and says so; a new partner is reported after it (R329, R330). -/
def State.portUp (s : State) (p gen : Nat) : State :=
  (((s.onPort p fun x => { x with state := .up, pvalid := true, gen := BitVec.ofNat 4 gen }).setRtStat 3).post
    Code.ok Source.router [p]).partnerChanged p

/-- A port that has sent and received HELLO: a mesh port is UP at once, at M2 when both sides name it; the edge port is UP
at E1, or retrains at the lower of the two generations (R325, R328, R329). -/
def State.helloDone (s : State) (p : Nat) (r : List Byte) : State :=
  if p < 4 then s.portUp p (if leAt r 7 1 / 16 = 2 then 2 else 1)
  else
    let g := min s.router.link.cap.toNat (leAt r 7 1 % 16)
    if g ≤ 1 then s.portUp 4 1
    else s.onLink fun l => { l with gen := BitVec.ofNat 2 g, lock := false, sinceNc := s.nc }

/-- A HELLO arrives (R329, R330). A new partner is reported at once on a port that is UP or in MISMATCH, and else after the
link-up event. -/
def State.hello (s : State) (p : Nat) (r : List Byte) : State :=
  let x := s.port p
  if !x.linked then s
  else
    let changed := x.hadPartner && (x.chip != BitVec.ofNat 12 (leAt r 0 2) || x.pid != BitVec.ofNat 11 (leAt r 2 2)
      || x.hw != BitVec.ofNat 8 (leAt r 8 1))
    let s := s.onPort p fun x => { x.learn r with rxNc := s.nc, changed := x.changed || changed }
    if x.state == .mismatch then s.partnerChanged p
    else if helloBad r then
      let s := if x.state == .up then
          (((s.dropTraffic p).onPort p fun y => { y with helloRecv := true }).setRtStat 3).postKiln Code.linkDown Source.router
            [p, x.chip.toNat, x.pid.toNat]
        else s
      (((s.onPort p fun x => { x with state := .mismatch, pvalid := false }).setRtStat 4).postKiln Code.genMismatch
        Source.router [p, leAt r 0 2 % 2 ^ 12, leAt r 2 2 % 2 ^ 11]).partnerChanged p
    else if x.state == .up then s.partnerChanged p
    else if x.helloSent && !(p == 4 && x.helloRecv) then s.helloDone p r
    else s

/-- HELLO_RECEIVE (R329, R330). -/
def execHelloReceive (port : Fin 5) (record : List Byte) (s : State) : Answer :=
  if !s.pins.alive then .next s else .next (s.hello port record)

/-! The edge link (R326-R328). -/

/-- Frames of the retry buffer that an ACK covers leave it (R327). -/
def EdgeLink.ack (l : EdgeLink) (ack : Half) (nc : Nat) : EdgeLink :=
  match l.unacked.findIdx? fun f => f.1 == ack with
  | none => l
  | some i => { l with unacked := l.unacked.drop (i + 1), ackNc := nc, resends := 0 }

/-- Resend every frame from the first unacknowledged one on, with the present ACK and credits; after 8 resends without progress
the port goes DOWN (R327). -/
def State.resend (s : State) : State :=
  if s.router.link.unacked.isEmpty then s
  else if s.router.link.resends ≥ 8 then s.portDown 4 false
  else
    let s := (s.onLink fun l => { l with resends := l.resends + 1, ackNc := s.nc }).onPort 4 fun x =>
      { x with retry := satAdd x.retry 1 }
    s.router.link.unacked.foldl (fun s f => s.sendFrame f.1 s.router.link.rxSeq 1 f.2) s

/-- One flit slot of a frame joins the message of its lane; a TAIL completes it (R307, R326). -/
def EdgeLink.slot (l : EdgeLink) (slot : List Byte) (side : Byte) : EdgeLink :=
  let v := side.toNat
  let lane := fld 6 5 v
  if !bit 7 v then l
  else
    let old := if bit 4 v then none else l.partials.find? fun p => p.1 == lane
    let others := l.partials.filter fun p => p.1 != lane
    let (bits, bytes) := match old with
      | some (_, b, bs) => (b, bs)
      | none => ((bit 2 v, bit 1 v), [])
    let bytes := bytes ++ slot
    if bit 3 v then
      let w1 := leAt bytes 8 8
      let kind := fld 60 58 (leAt bytes 0 8)
      let len := if kind ≤ 1 then fld 48 40 w1 else 0
      let m : Message := { w0 := BitVec.ofNat 64 (leAt bytes 0 8), w1 := BitVec.ofNat 64 w1
                           payload := padTo (16 * len) (bytes.drop 16) }
      { l with partials := others, rxq := l.rxq ++ [(m, bits.1, bits.2)] }
    else { l with partials := others ++ [(lane, bits, bytes)] }

/-- The link credit of a flit that a frame brings: it goes back at once, but that of a TAIL when the router takes the message
(R309, R326; log 52). -/
def Port.takeFlit (x : Port) (side : Byte) : Port :=
  if bit 7 side.toNat && !bit 3 side.toNat then { x with owed := Vec.upd x.owed (fld 6 5 side.toNat) fun k => k + 1 } else x

/-- The four slots of a DATA frame. -/
def State.frameSlots (s : State) (f : List Byte) : State :=
  (List.range 4).foldl (fun s k =>
    let side := (f.drop (264 + k)).headD 0#8
    (s.onLink fun l => l.slot ((f.drop (8 + 64 * k)).take 64) side).onPort 4 fun x => x.takeFlit side) s

/-- A frame is discarded and a NAK goes back, with the next expected SEQ in ACK (R327). -/
def State.dropFrame (s : State) : State :=
  let s := (s.onPort 4 fun x => { x with crcerr := satAdd x.crcerr 1 }).onLink fun l => { l with naks := l.naks + 1 }
  s.sendFrame s.router.link.txSeq (s.router.link.rxSeq + 1#16) 3 []

/-- What a frame that is not discarded acknowledges and the link credits it returns (R326, R327). -/
def State.frameCredits (s : State) (ack : Half) (lcred : Nat) : State :=
  ((s.onLink fun l => l.ack ack s.nc).onPort 4 fun x =>
    { x with credits := #v[min 4 (Vec.at x.credits 0 + lcred % 16),
      min 16 (Vec.at x.credits 1 + lcred / 16 % 16), min 16 (Vec.at x.credits 2 + lcred / 256 % 16),
      min 16 (Vec.at x.credits 3 + lcred / 4096 % 16)] }).pumpPort 4

/-- EDGE_FRAME_RECEIVE: a frame is checked by CRC and SEQ, delivered, or discarded with a NAK, a discarded one acknowledging and
returning nothing; a NAK makes the sender resend; DATA crosses only while the port is UP (R325-R328, R330). -/
def execEdgeFrameReceive (frame : List Byte) (s : State) : Answer :=
  if !s.pins.alive then .next s else
  let f := padTo 272 frame
  let st := (s.port 4).state
  if st == .tied || st == .down || !s.router.link.lock then .next s
  else if leAt f 268 4 ≠ (crc32c (f.take 268)).toNat then .next (s.dropFrame.setRtStat 5)
  else
    let s := s.onPort 4 fun x => { x with rxNc := s.nc }
    let seq : Half := BitVec.ofNat 16 (leAt f 0 2)
    let ack : Half := BitVec.ofNat 16 (leAt f 2 2)
    let lcred := leAt f 6 2
    match leAt f 4 1 with
    | 1 =>
      if st != .up then .next s
      else if seq ≠ s.router.link.rxSeq + 1#16 then .next s.dropFrame
      else .next (((s.onLink fun l => { l with rxSeq := seq }).frameSlots f).frameCredits ack lcred)
    | 2 => .next (s.frameCredits ack lcred)
    | 3 => .next (s.frameCredits (ack - 1#16) lcred).resend
    | 4 => .next ((s.frameCredits ack lcred).hello 4 ((f.drop 8).take 64))
    | _ => .next s

/-- EDGE_RETRY_TIMEOUT: 4,096 N-cycles without progress of ACK (R327). -/
def execEdgeRetryTimeout (s : State) : Answer :=
  if !s.pins.alive then .next s else
  if !s.router.link.unacked.isEmpty && decide (s.router.link.ackNc + 4096 ≤ s.nc) then .next s.resend else .next s

/-- EDGE_TRAIN_TIMEOUT: the PHY has not trained within 100 microseconds: one generation lower, or E1 has failed (R328). -/
def execEdgeTrainTimeout (s : State) : Answer :=
  if !s.pins.alive then .next s else
  let l := s.router.link
  if l.train && !l.lock && decide (l.sinceNc + 100 * Config.ncPerUs ≤ s.nc) then
    if l.gen.toNat ≤ 1 then
      .next ((s.portDown 4 true).onLink fun l => { l with train := false, failed := true, sinceNc := s.nc })
    else
      .next ((((s.clearLink 4).startTraining 4)).onLink fun x => { x with cap := l.gen - 1#2 })
  else .next s

/-- EDGE_TRAIN_RETRY: 10 ms after E1 failed the port trains again (R328). -/
def execEdgeTrainRetry (s : State) : Answer :=
  if !s.pins.alive then .next s else
  if s.router.link.failed && decide (s.router.link.sinceNc + 10000 * Config.ncPerUs ≤ s.nc) then .next (s.startTraining 4)
  else .next s

/-- ELOCK_CHANGE: the PHY raises ELOCK (HELLO frames at E1, or UP at the agreed generation), or loses lock and the port
goes DOWN (R328, R465). -/
def execElockChange (lock : Bool) (s : State) : Answer :=
  if !s.pins.alive then .next s else
  let x := s.port 4
  if x.state == .tied || s.router.link.lock == lock then .next s
  else
    let s := s.onLink fun l => { l with lock := lock }
    if lock then
      if x.state == .training then
        .next ((s.onPort 4 fun x => { x with state := .hello, helloSent := true, rxNc := s.nc }).sendHello 4)
      else if x.state == .hello && x.helloRecv then .next (s.portUp 4 s.router.link.gen.toNat)
      else .next s
    else if x.state == .up || x.state == .mismatch then .next (s.portDown 4 true)
    else .next s

end Sys2Proof.Machine
end

