-- ==== Sys2Proof/Machine/Operands.lean ====
section
/-! DEFINITION. The operand layouts of the engine commands, read from their registers, with the checks that depend
on the registers alone: the matrix engines (R74, R82, R84, R101, R107, R116, R125, R127, R133). -/

namespace Sys2Proof.Machine

/-- A failed check: its group of R138 (1 BAD_COMMAND for a reserved field, code or N; 2 TILE_SHAPE; 3 BAD_COMMAND
for any other check; 4 ACCESS_DENIED) and whether it failed. -/
abbrev Checks := List (Nat × Bool)

/-- The code of the first group that holds a failed check (R138). -/
def Checks.verdict (cs : Checks) : Option Half :=
  let failed := fun g => cs.any fun c => c.1 == g && c.2
  if failed 1 then some Code.badCommand
  else if failed 2 then some Code.tileShape
  else if failed 3 then some Code.badCommand
  else if failed 4 then some Code.accessDenied
  else none

/-- TLD and TST (R84). -/
def tileMoveOf (c : QueueCmd) : TileMove where
  count := fld 23 19 (c.reg 0)
  row := fld 18 14 (c.reg 0)
  tile := fld 12 8 (c.reg 0)
  stride := fld 63 32 (c.reg 1)
  addr := fld 31 0 (c.reg 1)

def tileMoveReserved (c : QueueCmd) : Bool :=
  c.regs.length != 2 || fld 63 24 (c.reg 0) != 0 || bit 13 (c.reg 0)

/-- LDW (R101); the table is filled in when it has been read. -/
def ldwOf (c : QueueCmd) (tag : ClassTag) (clears : Bool) : LdwCmd where
  xf := fld 28 27 (c.reg 0)
  off := fld 26 23 (c.reg 0)
  count := fld 22 18 (c.reg 0)
  row := fld 17 13 (c.reg 0)
  tile := fld 12 8 (c.reg 0)
  tag := tag
  table := []
  clears := clears

/-- MM (R116). -/
def mmOf (c : QueueCmd) : MmCmd where
  spl := bit 37 (c.reg 0)
  strict := bit 36 (c.reg 0)
  zero := bit 35 (c.reg 0)
  trans := bit 34 (c.reg 0)
  arow := fld 33 29 (c.reg 0)
  acc := fld 28 27 (c.reg 0)
  off := fld 26 23 (c.reg 0)
  count := fld 22 18 (c.reg 0)
  row := fld 17 13 (c.reg 0)
  tile := fld 12 8 (c.reg 0)

/-- The address generator descriptor (R127). -/
def agdOf (b : List Byte) : AgdCmd where
  base := leAt b 0 4
  mode := leAt b 4 1
  fmt := leAt b 5 1
  lstride := leAt b 8 4
  ih := leAt b 12 2
  iw := leAt b 14 2
  c := leAt b 16 2
  c0 := leAt b 18 2
  cg := leAt b 20 1
  wh := leAt b 21 1
  ww := leAt b 22 1
  t0 := leAt b 23 1
  sy := leAt b 24 1
  sx := leAt b 25 1
  dy := leAt b 26 1
  dx := leAt b 27 1
  pt := leAt b 28 1
  pl := leAt b 29 1
  ow := leAt b 30 2
  p0 := leAt b 32 4
  tile := leAt b 36 1
  row0 := leAt b 37 1
  off := leAt b 38 1

/-- A reserved byte of the descriptor, a reserved MODE or FMT, or a field that the mode does not use is non-zero
(R127, R129). -/
def agdReserved (b : List Byte) : Bool :=
  let mode := leAt b 4 1
  let zeroAt := fun (o n : Nat) => leAt b o n == 0
  !(zeroAt 6 2 && zeroAt 39 25) || decide (mode > 2) || decide (leAt b 5 1 > 11)
    || (mode == 0 && !(zeroAt 12 27))
    || (mode == 1 && !(zeroAt 8 4 && zeroAt 36 3))
    || (mode == 2 && !(zeroAt 0 4 && zeroAt 8 28))

/-- The range limits that R127 gives the fields of convolution mode. -/
def agdConvBad (a : AgdCmd) (k : Nat) : Bool :=
  let z := fun x => decide (x = 0) || decide (x > 16)
  isMx a.fmt || a.fmt == 9 || a.fmt == 10 || a.cg == 0 || decide (a.cg > k) || decide (a.c0 + a.cg > a.c)
    || z a.wh || z a.ww || z a.sy || z a.sx || z a.dy || z a.dx || a.ow == 0
    || decide (a.pt > 15) || decide (a.pl > 15) || decide (a.t0 ≥ a.wh * a.ww)

end Sys2Proof.Machine
end

