-- ==== Sys2Proof/Machine/Matrix.lean ====
section
/-! DEFINITION. Commands taken by the matrix engines from queues 0-3: TCFG, TREL, TLD, TST, LDW, SWAP, MM, MMS, ACVT,
with every check made as they are taken (R60, R76, R85, R103, R109, R117, R129, R134, R138). -/

namespace Sys2Proof.Machine

/-! What commands in flight touch, so that each behaves as if the one before it had completed
(R78, R86, R104-R108, R115, R123, R135). -/

structure Touch where
  tileR : Nat := 0
  tileW : Nat := 0
  accR : Nat := 0
  accW : Nat := 0
  actR : Bool := false
  actW : Bool := false
  shW : Bool := false
  /-- an array command that has not completed, and a load that waits for every such one (R105, R106) -/
  array : Bool := false
  alone : Bool := false
  /-- a swap token in the array, and a load, whose rows wait for it to have passed (R104) -/
  token : Bool := false
  load : Bool := false
  memR : Bool := false
  memW : Bool := false
  conv : Bool := false
  deriving DecidableEq, Repr, Inhabited

/-- The accumulators an MM writes, an MMS stages in, or an ACVT reads, as a mask. -/
def mmAccs (c : MmCmd) (cls : ClassTag) : Nat :=
  2 ^ c.acc + (if c.trans && cls.narrow then 2 ^ (c.acc + 1) else 0)

def mmsAccs (c : MmsCmd) (cls : ClassTag) : Nat :=
  if c.trans && cls.narrow then 15 else if c.accp then 12 else 3

/-- An ACVT writes its attempt's byte at ADJ (R171). -/
def OcdCmd.adjusts (o : OcdCmd) : Bool := !isMx o.otype && o.adj != 0

def MeOp.touch : MeOp → Touch
  | .tcfgWait mask _ => { tileW := mask.toNat, memR := true }
  | .tcfg mask _ => { tileW := mask.toNat }
  | .trel mask => { tileW := mask.toNat }
  | .tld c _ => { tileW := 2 ^ c.tile, memR := true }
  | .tst c => { tileR := 2 ^ c.tile, memW := true }
  | .ldw c _ => { tileR := 2 ^ c.tile, shW := true, actW := c.tag.full || c.clears, alone := c.tag.full || c.clears,
                  load := true, memR := c.xtab.isSome }
  | .swap => { actW := true, shW := true }
  | .token _ => { token := true }
  | .mm c cls _ => { tileR := 2 ^ c.tile, accR := mmAccs c cls, accW := mmAccs c cls, actR := true, array := true }
  | .mms c cls done _ _ _ _ =>
    { tileR := if c.agd.mode = 2 then 2 ^ c.agd.tile else 0, accR := mmsAccs c cls, accW := mmsAccs c cls,
      actR := decide (done ≤ c.count), array := true, memR := true, memW := true, conv := true }
  | .acvtWait regs _ _ _ =>
    let r0 := (regs.getD 0 0#64).toNat
    let a := 2 ^ fld 9 8 r0 + (if bit 44 r0 then 2 ^ (fld 9 8 r0 + 1) else 0)
    { accR := a, accW := if bit 43 r0 then a else 0, tileW := if bit 32 r0 then 2 ^ fld 37 33 r0 else 0,
      memR := true, memW := true, conv := true }
  | .acvt c _ rows _ =>
    let a := 2 ^ c.acc + (if c.wide then 2 ^ (c.acc + 1) else 0)
    { accR := a, accW := if c.clr then a else 0, tileW := if c.toTile then 2 ^ c.dtile else 0,
      memW := rows.isNone && (!c.toTile || c.ocd.adjusts), conv := true }

/-- A later command waits for an earlier one that writes what it reads or writes, or reads what it writes. -/
def Touch.clash (a b : Touch) : Bool :=
  (a.tileW &&& (b.tileR ||| b.tileW)) != 0 || (a.tileR &&& b.tileW) != 0
    || (a.accW &&& (b.accR ||| b.accW)) != 0 || (a.accR &&& b.accW) != 0
    || (a.actW && (b.actR || b.actW)) || (a.actR && b.actW)
    || (a.shW && b.shW) || (a.array && b.alone) || (a.token && b.load)
    || (a.memW && (b.memR || b.memW)) || (a.memR && b.memW)
    || (a.conv && b.conv)

/-- The oldest command in flight that `k` admits, with its place, if no earlier one makes it wait. -/
def MatrixEngine.current (m : MatrixEngine) (k : MeOp → Bool) : Option (Nat × InFlight) :=
  match m.inflight.findIdx? fun x => k x.op with
  | none => none
  | some i => match m.inflight[i]? with
    | none => none
    | some x => if (m.inflight.take i).any fun y => y.op.touch.clash x.op.touch then none else some (i, x)

/-- Every earlier command that touches the tiles of MASK has completed (R78, R82). -/
def MatrixEngine.drained (m : MatrixEngine) (mask : Nat) : Bool :=
  !(m.inflight.any fun y => y.op.touch.clash { tileW := mask })

/-- No command in flight writes local memory, so that a read sees every write before it (R123). -/
def MatrixEngine.memSettled (m : MatrixEngine) : Bool := !(m.inflight.any fun y => y.op.touch.memW)

/-- Put a command in flight. -/
def MatrixEngine.start (m : MatrixEngine) (c : QueueCmd) (op : MeOp) : MatrixEngine :=
  { m with inflight := m.inflight ++ [{ seq := c.seq, opc := BitVec.ofNat 8 c.opc, op := op, old := false }] }

/-- The opcodes of queues 0-3 (R43, R74, R82, R84, R101, R107, R116, R125, R133). -/
def isMeOpcode (o : Nat) : Bool := (decide (0x10 ≤ o) && decide (o ≤ 0x14)) || (decide (0x20 ≤ o) && decide (o ≤ 0x23))

/-- A TCFG, its table read or still to be read. -/
def MeOp.isTcfg : MeOp → Bool
  | .tcfg _ _ => true
  | .tcfgWait _ _ => true
  | _ => false

/-- Engine `e` takes the command at the head of its queue when it is one of opcode `opc`. A TCFG in flight lets no
later command be taken (R78); an opcode that no chapter defines is BAD_COMMAND whichever take finds it (R138). -/
def meTake (s : State) (e : Fin 4) (opc : Nat) (f : QueueCmd → State) : State :=
  match s.head e with
  | none => s
  | some c =>
    if (s.me e).inflight.any fun x => x.op.isTcfg then s
    else if c.opc = opc then f c
    else if isMeOpcode c.opc then s
    else s.takeFault e c Code.badCommand

/-- Take a command and start it. -/
def meStart (s : State) (e : Fin 4) (c : QueueCmd) (op : MeOp) (f : MatrixEngine → MatrixEngine := id) : State :=
  (s.take e c).onMe e fun m => (f m).start c op

/-- What the event of a fault that names a tile carries: the queue, the opcode and the sequence number of R61, and the tile of
R87 (log 128). -/
def tileDetail (e : Fin 4) (opc : Nat) (seq : Word) (tile : Nat) : List Nat := [e, opc, seq.toNat, tile]

/-- A tile command, or a check that names a tile, faults as it is taken: also recorded in ME_TFAULT and reported with the tile
(R87, R94). -/
def meTileFault (s : State) (e : Fin 4) (c : QueueCmd) (code : Half) (tile : Nat) : State :=
  ((s.onMe e fun m => m.tileFault code tile c.opc c.seq).raise (2 + e) 0x214 15).takeFault e c code
    (some (tileDetail e c.opc c.seq tile))

/-- A command that is no tile command faults: ME_TFAULT records it only for TILE_SHAPE (R94, R138). -/
def meFault (s : State) (e : Fin 4) (c : QueueCmd) (code : Half) (tile : Nat) : State :=
  if code = Code.tileShape then meTileFault s e c code tile else s.takeFault e c code

/-- A read of a descriptor or table made as a command is taken, as master 0x51 (R74, R102, R162): its bytes, or the
code of a fault; an uncorrectable word is noted. The range has been checked. -/
def takeRead (s : State) (unit : Byte) (a n : Nat) : Option Half × List Byte × State :=
  if !s.may 0x51 .loc false then (some Code.accessDenied, [], s)
  else
    match s.lread a n with
    | (bs, none, s) => (none, bs, s)
    | (_, some w, s) => (some Code.eccUncorrected, [], s.noteEcc unit w)

/-! Tile commands. -/

/-- The table that TCFG reads (R74). -/
def tableWords (bs : List Byte) : List Word := (List.range 32).map fun i => BitVec.ofNat 32 (leWord bs i)

/-- A TCFG is taken at once; its table is read when every earlier write of the engine to local memory has been made (R119,
R123). A fault that names no tile shows tile 0 (log 129). -/
def takeTcfg (s : State) (e : Fin 4) (c : QueueCmd) : State :=
  let mask := BitVec.ofNat 32 (fld 63 32 (c.reg 0))
  let table := fld 31 0 (c.reg 1)
  if c.regs.length != 2 || fld 31 8 (c.reg 0) != 0 || fld 63 32 (c.reg 1) != 0 || table % 128 != 0 || !inLocal table 128
  then meTileFault s e c Code.badCommand 0
  else if !(s.me e).memSettled then meStart s e c (.tcfgWait mask table)
  else
    match takeRead s (Source.matrix e) table 128 with
    | (some code, _, s) => meTileFault s e c code 0
    | (none, bs, s) => meStart s e c (.tcfg mask (tableWords bs))

/-- TCFG: the table is read as the command is taken (R74, R76). -/
def execTcfg (e : Fin 4) (s : State) : Answer := .next (meTake s e 0x20 (takeTcfg s e))

/-- The configured tiles of a mask become empty (R82). -/
def MatrixEngine.release (m : MatrixEngine) (mask : Word) : MatrixEngine :=
  m.clearValid mask fun t => (Vec.at m.desc t).getLsbD 31

def takeTrel (s : State) (e : Fin 4) (c : QueueCmd) : State :=
  let mask := fld 63 32 (c.reg 0)
  if c.regs.length != 1 || fld 31 8 (c.reg 0) != 0 then meTileFault s e c Code.badCommand 0
  else if !(s.me e).drained mask then meStart s e c (.trel (BitVec.ofNat 32 mask))
  else ((s.take e c).onMe e fun m => m.release (BitVec.ofNat 32 mask)).complete e c.seq

/-- TREL is taken at once: when the tiles of MASK are drained their rows become not valid and the command completes; else it
waits in the engine for the beat after the drain (R82, R119). -/
def execTrel (e : Fin 4) (s : State) : Answer := .next (meTake s e 0x21 (takeTrel s e))

/-- The checks of TLD and TST (R85). -/
def tileMoveChecks (s : State) (e : Fin 4) (c : QueueCmd) (store : Bool) : Checks :=
  let v := tileMoveOf c
  let shape := (s.me e).shape v.tile
  let width := (shape.map TileShape.stride).getD 0
  [ (1, tileMoveReserved c),
    (2, match shape with
      | none => true
      | some t => decide (v.row + v.count ≥ t.rows)),
    (3, v.addr % 16 != 0 || v.stride % 16 != 0 ||
      (List.range (v.count + 1)).any fun i => !inLocal (v.addr + i * v.stride) width),
    (4, !s.may 0x51 .loc store) ]

def takeTileMove (s : State) (e : Fin 4) (c : QueueCmd) (store : Bool) : State :=
  match (tileMoveChecks s e c store).verdict with
  | some code => meTileFault s e c code (tileMoveOf c).tile
  | none => meStart s e c (if store then .tst (tileMoveOf c) else .tld (tileMoveOf c) 0)

/-- TLD (R84, R85). -/
def execTld (e : Fin 4) (s : State) : Answer := .next (meTake s e 0x22 fun c => takeTileMove s e c false)

/-- TST (R84, R85). -/
def execTst (e : Fin 4) (s : State) : Answer := .next (meTake s e 0x23 fun c => takeTileMove s e c true)

/-! LDW and SWAP. -/

/-- The checks of LDW (R103). -/
def ldwChecks (s : State) (e : Fin 4) (c : QueueCmd) : Checks :=
  let v := ldwOf c .none false
  let xtab := fld 31 0 (c.reg 1)
  match (s.me e).shape v.tile with
  | none => [(1, c.regs.length == 0 || decide (c.regs.length > 2) || fld 63 29 (c.reg 0) != 0 || fld 63 32 (c.reg 1) != 0), (2, true)]
  | some t =>
    let cls := weightClass t.ty v.xf
    let expands := t.ty == 9 || t.ty == 10
    [ (1, c.regs.length == 0 || decide (c.regs.length > 2) || fld 63 29 (c.reg 0) != 0 || fld 63 32 (c.reg 1) != 0
        || (t.ty == 10 && c.regs.length != 2)),
      (2, cls == .none || decide (v.row + v.count ≥ t.rows) || (cls == .w64 && decide (v.count + 1 > 16))
        || decide (v.off * 16 + cls.loadSlice t.ty > t.len) || (isMx t.ty && v.off % 2 != 0)),
      (3, (!expands && v.xf != 0) || (t.ty != 10 && xtab != 0)
        || (t.ty == 10 && (xtab % 32 != 0 || !inLocal xtab (if v.xf < 2 then 32 else 16)))),
      (4, t.ty == 10 && !s.may 0x51 .loc false) ]

/-- The tags as checks of later commands see them after an LDW of a class (R102, R105, R106). -/
def tagsAfterLoad (q : (ClassTag × BitVec 5) × (ClassTag × BitVec 5)) (cls : ClassTag) (tile : BitVec 5) :
    (ClassTag × BitVec 5) × (ClassTag × BitVec 5) :=
  if cls.full then ((cls, tile), (cls, tile))
  else if q.1.1.full then ((.none, 0#5), (cls, tile))
  else (q.1, (cls, tile))

/-- Bytes and values of the expansion table of an LDW (R102). -/
def tableSize (xf : Nat) : Nat := 16 * (if xf < 2 then 2 else 1)
def tableVals (xf : Nat) (bs : List Byte) : List FVal :=
  let w := if xf < 2 then 2 else 1
  (List.range 16).map fun i => (expandFmt xf).decode (leAt bs (i * w) w)

/-- An LDW is taken at once; its expansion table is read when every earlier write of the engine to local memory has been made
(R119, R123). -/
def takeLdw (s : State) (e : Fin 4) (c : QueueCmd) : State :=
  let tile := fld 12 8 (c.reg 0)
  match (ldwChecks s e c).verdict, (s.me e).shape tile with
  | some code, _ => meFault s e c code tile
  | none, none => s
  | none, some t =>
    let xf := fld 28 27 (c.reg 0)
    let cls := weightClass t.ty xf
    let cmd := ldwOf c cls (!cls.full && (s.me e).queueTags.1.1.full)
    let go := fun (cmd : LdwCmd) (s : State) =>
      meStart s e c (.ldw cmd 0)
        fun m => { m with queueTags := tagsAfterLoad m.queueTags cls (BitVec.ofNat 5 tile) }
    if t.ty = 10 then
      if !(s.me e).memSettled then go { cmd with xtab := some (fld 31 0 (c.reg 1)) } s
      else
        match takeRead s (Source.matrix e) (fld 31 0 (c.reg 1)) (tableSize xf) with
        | (some code, _, s) => meFault s e c code tile
        | (none, bs, s) => go { cmd with table := tableVals xf bs } s
    else go cmd s

/-- LDW (R101-R106). -/
def execLdw (e : Fin 4) (s : State) : Answer := .next (meTake s e 0x11 (takeLdw s e))

def takeSwap (s : State) (e : Fin 4) (c : QueueCmd) : State :=
  let q := (s.me e).queueTags
  if c.regs.length != 1 || fld 63 8 (c.reg 0) != 0 then s.takeFault e c Code.badCommand
  else if q.1.1.full && q.2.1.full then (s.take e c).complete e c.seq
  else meStart s e c .swap fun m => { m with queueTags := (m.queueTags.2, m.queueTags.1) }

/-- SWAP: the tags are exchanged in queue order; with two full-load sets it has no effect (R107, R109). -/
def execSwap (e : Fin 4) (s : State) : Answer := .next (meTake s e 0x12 (takeSwap s e))

/-! MM. -/

/-- The class an array command runs in: the active set's, or its input's when that is NONE (R97, R118). -/
def runClass (m : MatrixEngine) (ty : Nat) : ClassTag :=
  if m.queueTags.1.1 = .none then inputClass ty else m.queueTags.1.1

/-- A tile does not serve as the input of an array command (R117). -/
def inputTileBad (m : MatrixEngine) (cls : ClassTag) (trans : Bool) (t : TileShape) (row count off : Nat) : Bool :=
  inputClass t.ty == .none || inputClass t.ty != runClass m t.ty || decide (row + count ≥ t.rows)
    || decide (off * 16 + cls.inSlice trans > t.len) || (isMx t.ty && off % 2 != 0)

/-- The split and strict flags do not fit the class (R117, R156). -/
def splitBad (cls : ClassTag) (spl strict : Bool) : Bool := (spl && !cls.full) || (cls.full && strict && !spl)

def mmChecks (m : MatrixEngine) (c : QueueCmd) : Checks :=
  let v := mmOf c
  let bad1 := c.regs.length != 1 || fld 63 38 (c.reg 0) != 0
  match m.shape v.tile with
  | none => [(1, bad1), (2, true)]
  | some t =>
    let cls := runClass m t.ty
    [ (1, bad1),
      (2, inputTileBad m cls v.trans t v.row v.count v.off),
      (3, decide (v.arow + v.count > 31) || (cls.narrow && v.trans && v.acc % 2 != 0) || splitBad cls v.spl v.strict) ]

/-- The warning of R118. -/
def MatrixEngine.warnWeights (m : MatrixEngine) : MatrixEngine :=
  if m.queueTags.1.1 = .none then { m with wempty := true } else m

/-- An array command that needs weights is taken (R118). -/
def meStartArray (s : State) (e : Fin 4) (c : QueueCmd) (op : MeOp) : State :=
  (meStart s e c op MatrixEngine.warnWeights).raiseIf ((s.me e).queueTags.1.1 == .none) (2 + e) 0x004 0

def takeMm (s : State) (e : Fin 4) (c : QueueCmd) : State :=
  let v := mmOf c
  match (mmChecks (s.me e) c).verdict, (s.me e).shape v.tile with
  | some code, _ => meFault s e c code v.tile
  | none, none => s
  | none, some t => meStartArray s e c (.mm v (runClass (s.me e) t.ty) 0)

/-- MM (R116-R118). -/
def execMm (e : Fin 4) (s : State) : Answer := .next (meTake s e 0x10 (takeMm s e))

/-! MMS and ACVT. -/

/-- The bias vector of a descriptor, read as the command is taken (R162). -/
def readBias (s : State) (unit : Byte) (ocd : List Byte) (n : Nat) : Option Half × Option (List Word) × State :=
  if ocdBias ocd = 0 then (none, none, s)
  else
    match takeRead s unit (ocdBias ocd) (4 * n) with
    | (some code, _, s) => (some code, none, s)
    | (none, bs, s) => (none, some ((List.range n).map fun i => BitVec.ofNat 32 (leWord bs i)), s)

/-- Bytes of a descriptor for the checks; zeros where it lies outside local memory. -/
def peek (s : State) (a n : Nat) : List Byte := if inLocal a n then s.mem.mem.readBytes a n else List.replicate n 0#8

/-- The checks of MMS made before any effect (R117, R125, R127, R129, R138, R156, R162). In tile mode an FMT other than the
tile's TYPE is a tile that misfits (log 130). -/
def mmsChecks (s : State) (e : Fin 4) (c : QueueCmd) (ad od : List Byte) : Checks :=
  let m := s.me e
  let r0 := c.reg 0
  let ocd := fld 63 32 (c.reg 1)
  let agd := fld 31 0 (c.reg 1)
  let a := agdOf ad
  let cls := if a.mode = 2 then (match m.shape a.tile with
    | some t => runClass m t.ty
    | none => runClass m a.fmt) else runClass m a.fmt
  let trans := bit 32 r0
  let count := fld 19 8 r0
  let strict := bit 33 r0
  let o := ocdOf od (fld 31 20 r0) strict 0#64 0#32 0#32
  let adOk := agd % 64 == 0 && inLocal agd 64
  let odOk := ocd % 32 == 0 && inLocal ocd 32
  [ (1, (c.regs.length != 3 && c.regs.length != 4) || fld 63 36 r0 != 0 || (adOk && agdReserved ad) || (odOk && ocdReserved od)),
    (2, adOk && a.mode == 2 && (match m.shape a.tile with
      | none => true
      | some t => inputTileBad m cls trans t a.row0 count a.off || t.ty != a.fmt)),
    (3, !adOk || !odOk || splitBad cls (bit 34 r0) strict || (cls.narrow && trans && bit 35 r0)
      || inputClass a.fmt == .none || inputClass a.fmt != cls
      || (a.mode == 0 && a.lstride % 16 != 0) || (a.mode == 1 && agdConvBad a cls.k)
      || fld 63 32 (c.reg 2) % 16 != 0 || fld 31 0 (c.reg 2) % 16 != 0
      || fld 63 32 (c.reg 3) % 16 != 0 || fld 31 0 (c.reg 3) % 16 != 0
      || ocdBad od o (cls.outs trans) (count / 32 + 1)),
    (4, !s.may 0x51 .loc false) ]

/-- The first bytes of a command's digest (R388). -/
def digestHead (e osid rows : Nat) : DWord :=
  crc64 0#64 (leBytes 1 e ++ leBytes 2 osid ++ leBytes 1 0 ++ leBytes 4 rows)

def takeMms (s : State) (e : Fin 4) (c : QueueCmd) : State :=
  let r0 := c.reg 0
  let ocd := fld 63 32 (c.reg 1)
  let agd := fld 31 0 (c.reg 1)
  if !(s.me e).memSettled then s
  else
    let ad := peek s agd 64
    let od := peek s ocd 32
    let a := agdOf ad
    match (mmsChecks s e c ad od).verdict with
    | some code => meFault s e c code a.tile
    | none =>
      let cls := runClass (s.me e) a.fmt
      let trans := bit 32 r0
      let n := cls.outs trans
      match takeRead s (Source.matrix e) agd 64 with
      | (some code, _, s) => s.takeFault e c code
      | (none, _, s) => match takeRead s (Source.matrix e) ocd 32 with
        | (some code, _, s) => s.takeFault e c code
        | (none, _, s) => match readBias s (Source.matrix e) od n with
          | (some code, _, s) => s.takeFault e c code
          | (none, bias, s) =>
            let osid := fld 31 20 r0
            let o := { ocdOf od osid (bit 33 r0) s.stats.seed s.stats.step s.hid with bias := bias }
            let cmd : MmsCmd := {
              accp := bit 35 r0, spl := bit 34 r0, strict := bit 33 r0, trans := trans, count := fld 19 8 r0,
              agd := a, ocd := o, dst := fld 31 0 (c.reg 2), dstride := fld 63 32 (c.reg 2),
              psum := if c.regs.length = 4 then some (fld 31 0 (c.reg 3), fld 63 32 (c.reg 3)) else none }
            meStartArray s e c (.mms cmd cls 0 0 0 (digestHead e osid (cmd.count + 1)) [])

/-- MMS: descriptors, bias, seed and step are read as it is taken (R125, R129, R162). -/
def execMms (e : Fin 4) (s : State) : Answer := .next (meTake s e 0x13 (takeMms s e))

/-- Outputs per row of an ACVT (R162). -/
def acvtOuts (f64 wide : Bool) : Nat := if f64 then 16 else if wide then 64 else 32

/-- The checks of ACVT made before any effect (R133, R134, R138, R162). -/
def acvtChecks (s : State) (e : Fin 4) (c : QueueCmd) (od : List Byte) : Checks :=
  let r0 := c.reg 0
  let ocd := fld 31 0 (c.reg 1)
  let f64 := bit 45 r0
  let wide := bit 44 r0
  let toTile := bit 32 r0
  let count := fld 19 15 r0
  let n := acvtOuts f64 wide
  let odOk := ocd % 32 == 0 && inLocal ocd 32
  let o := ocdOf od (fld 31 20 r0) false 0#64 0#32 0#32
  let len := convertedLen o.otype n
  let dst := fld 31 0 (c.reg 2)
  let stride := fld 63 32 (c.reg 2)
  [ (1, c.regs.length != (if toTile then 2 else 3) || fld 63 46 r0 != 0 || fld 63 32 (c.reg 1) != 0 || (odOk && ocdReserved od)),
    (2, toTile && (match (s.me e).shape (fld 37 33 r0) with
      | none => true
      | some t => decide (fld 42 38 r0 + count ≥ t.rows) || (odOk && (t.ty != o.otype || t.stride != len)))),
    (3, (f64 && wide) || (wide && fld 9 8 r0 % 2 != 0) || decide (fld 14 10 r0 + count > 31) || !odOk || ocdBad od o n 1
      || (!toTile && (dst % 16 != 0 || stride % 16 != 0 ||
          (List.range (count + 1)).any fun i => !inLocal (dst + i * stride) len))),
    (4, !s.may 0x51 .loc false || ((!toTile || (o.adj != 0 && !isMx o.otype)) && !s.may 0x51 .loc true)) ]

/-- An ACVT from its registers, with the descriptor bytes, the bias and what R162 reads as it is taken. -/
def acvtOf (c : QueueCmd) (od : List Byte) (bias : Option (List Word)) (seed : DWord) (step hid : Word) : AcvtCmd :=
  let r0 := c.reg 0
  { f64 := bit 45 r0, wide := bit 44 r0, clr := bit 43 r0, drow := fld 42 38 r0, dtile := fld 37 33 r0,
    toTile := bit 32 r0, count := fld 19 15 r0, arow := fld 14 10 r0, acc := fld 9 8 r0,
    ocd := { ocdOf od (fld 31 20 r0) false seed step hid with bias := bias },
    dst := fld 31 0 (c.reg 2), dstride := fld 63 32 (c.reg 2) }

/-- Read and check the descriptor of an ACVT: the command with the first bytes of its digest, or the code of its fault, which
names the tile only when a check found it. -/
def acvtRead (s : State) (e : Fin 4) (c : QueueCmd) (seed : DWord) (step hid : Word) :
    Except (Half × Bool) (AcvtCmd × DWord) × State :=
  let r0 := c.reg 0
  let ocd := fld 31 0 (c.reg 1)
  let od := peek s ocd 32
  match (acvtChecks s e c od).verdict with
  | some code => (.error (code, code = Code.tileShape), s)
  | none =>
    match takeRead s (Source.matrix e) ocd 32 with
    | (some code, _, s) => (.error (code, false), s)
    | (none, _, s) => match readBias s (Source.matrix e) od (acvtOuts (bit 45 r0) (bit 44 r0)) with
      | (some code, _, s) => (.error (code, false), s)
      | (none, bias, s) =>
        let cmd := acvtOf c od bias seed step hid
        (.ok (cmd, digestHead e cmd.ocd.osid (cmd.count + 1)), s)

/-- An ACVT is taken at once; its descriptor is read when every earlier write of the engine to local memory has been made
(R119, R123), with the seed, step and identity of the beat in which it is taken (R162). -/
def takeAcvt (s : State) (e : Fin 4) (c : QueueCmd) : State :=
  if !(s.me e).memSettled then meStart s e c (.acvtWait c.regs s.stats.seed s.stats.step s.hid)
  else
    match acvtRead s e c s.stats.seed s.stats.step s.hid with
    | (.error (code, tile), s) =>
      if tile then meTileFault s e c code (fld 37 33 (c.reg 0)) else s.takeFault e c code
    | (.ok (cmd, crc), s) => meStart s e c (.acvt cmd 0 none crc)

/-- ACVT: descriptor, bias, seed and step are read as it is taken (R133, R134, R162). -/
def execAcvt (e : Fin 4) (s : State) : Answer := .next (meTake s e 0x14 (takeAcvt s e))

end Sys2Proof.Machine
end

