-- ==== Sys2Proof/Machine/MatrixRun.lean ====
section
/-! DEFINITION. The matrix engines at work: what each progress step of a command in flight does and when the command
completes (R75-R86, R102-R108, R121-R137, R164-R172, R388, R389). Of the commands in flight, a step acts on the
oldest of its kind, and does nothing while an earlier command makes that one wait. -/

namespace Sys2Proof.Machine

/-- Replace the command in flight at place `i`. -/
def MatrixEngine.setOp (m : MatrixEngine) (i : Nat) (op : MeOp) : MatrixEngine :=
  { m with inflight := m.inflight.mapIdx fun j x => if j = i then { x with op := op } else x }

def MatrixEngine.dropOp (m : MatrixEngine) (i : Nat) : MatrixEngine :=
  { m with inflight := m.inflight.eraseIdx i }

/-- The command at place `i` completes. -/
def meComplete (s : State) (e : Fin 4) (i : Nat) (x : InFlight) : State :=
  (s.onMe e fun m => m.dropOp i).completeIf e (if x.old then none else some x.seq)

/-- The command at place `i` stops the queue; `tile` is recorded in ME_TFAULT when the fault comes from a tile
command or a tile (R69, R94). -/
def meStop (s : State) (e : Fin 4) (i : Nat) (x : InFlight) (code : Half) (tile : Option Nat)
    (detail : Option (List Nat)) : State :=
  let s := s.onMe e fun m =>
    let m := m.dropOp i
    match tile with
    | none => m
    | some t => m.tileFault code t x.opc.toNat x.seq
  (s.raiseIf tile.isSome (2 + e) 0x214 15).stopIf e code x.opc.toNat x.seq x.old (detail.orElse fun _ => tile.map (tileDetail e x.opc.toNat x.seq))

/-- The tags and source tiles that the commands in flight will leave: what checks of later commands see (R109). -/
def MatrixEngine.tagsAhead (m : MatrixEngine) : (ClassTag × BitVec 5) × (ClassTag × BitVec 5) :=
  m.inflight.foldl (fun q x => match x.op with
    | .ldw c _ => tagsAfterLoad q c.tag (BitVec.ofNat 5 c.tile)
    | .swap => (q.2, q.1)
    | _ => q) ((m.active.tag, m.active.tile), (m.shadow.tag, m.shadow.tile))

/-- The set that array commands read: a set tagged NONE holds zeros (R97, R118). -/
def MatrixEngine.weights (m : MatrixEngine) : StationarySet :=
  if m.active.tag = .none then StationarySet.empty else m.active

/-- An uncorrectable tile error at a pool address (R69): noted with a kiln record, and the queue stops. -/
def mePoolStop (s : State) (e : Fin 4) (i : Nat) (x : InFlight) (tile addr : Nat) : State :=
  let unit := Source.matrix e
  let a := 0x02000000 + 0x20000 * e.val + addr
  meStop (s.kilnRecord Code.eccUncorrected unit [unit.toNat, a]) e i x Code.eccUncorrected (some tile)
    (some [unit.toNat, a])

/-- A row of a tile that is not valid is used: the warning of R81. -/
def meWarnRow (s : State) (e : Fin 4) (tile row : Nat) : State :=
  (s.onMe e fun m => m.warnRow tile row).raiseIf (!(s.me e).rowValid tile row) (2 + e) 0x20C 0

/-- Run a progress step on engine `e`: only while the compute tier runs. -/
def meRun (s : State) (e : Fin 4) (k : MeOp → Bool) (f : Nat → InFlight → State) : State :=
  if !s.inRun then s
  else
    match (s.me e).current k with
    | none => s
    | some (i, x) => f i x

/-- Beats that an input or weight row loses to an empty collector or feeder: ME_TBUB counts them, and their number is a free
value (R92, R94, R120; log 15). -/
def State.meLost (s : State) (e : Fin 4) : State :=
  { s.onMe e fun m => { m with tbub := satAdd m.tbub (Config.freeWord s.free 0).toNat } with free := s.free + 1 }

/-! TCFG_APPLY. -/

/-- The new configuration of R75: table entries for the tiles of MASK, present descriptors for the others. -/
def newConfig (m : MatrixEngine) (mask : Word) (table : List Word) : List Nat :=
  (List.range 32).map fun t => if mask.getLsbD t then (table.getD t 0#32).toNat else (Vec.at m.desc t).toNat

/-- A TCFG whose table is read: an inconsistent configuration faults at once with TILE_CFG (R76); a consistent one applies when
the tiles of MASK are drained, and they become empty (R77, R78). -/
def tcfgCheck (s : State) (e : Fin 4) (i : Nat) (x : InFlight) (mask : Word) (table : List Word) : State :=
  let m := s.me e
  let new := newConfig m mask table
  match configError mask.toNat new with
  | some t => meStop s e i x Code.tileCfg (some t) none
  | none =>
    if (m.current MeOp.isTcfg).isNone then s
    else
      let s := s.onMe e fun m =>
        { m.clearValid mask fun _ => true with
          desc := Vector.ofFn fun j : Fin 32 => BitVec.ofNat 32 (new.getD j 0) }
      meComplete s e i x

/-- TCFG_APPLY: a table that is still to be read is read when every earlier write of the engine to local memory has been made
(R123); then the configuration is checked and applied (R76-R78). -/
def execTcfgApply (e : Fin 4) (s : State) : Answer :=
  let m := s.me e
  .next <|
    if !s.inRun then s
    else
      match m.inflight.findIdx? fun x => x.op.isTcfg with
      | none => s
      | some i => match m.inflight[i]? with
        | some ⟨seq, opc, .tcfg mask table, old⟩ => tcfgCheck s e i ⟨seq, opc, .tcfg mask table, old⟩ mask table
        | some ⟨seq, opc, .tcfgWait mask addr, old⟩ =>
          if (m.inflight.take i).any fun y => y.op.touch.memW then s
          else
            match takeRead s (Source.matrix e) addr 128 with
            | (some code, _, s) => meStop s e i ⟨seq, opc, .tcfgWait mask addr, old⟩ code (some 0) none
            | (none, bs, s) =>
              let op := MeOp.tcfg mask (tableWords bs)
              tcfgCheck (s.onMe e fun m => m.setOp i op) e i ⟨seq, opc, op, old⟩ mask (tableWords bs)
        | _ => s

/-! Tile rows: TLD, and ACVT to a tile. -/

def tldRow (s : State) (e : Fin 4) (i : Nat) (x : InFlight) (c : TileMove) (done : Nat) : State :=
  match (s.me e).shape c.tile with
  | none => s
  | some t =>
    match s.lread (c.addr + done * c.stride) t.stride with
    | (_, some w, s) =>
      let unit := Source.matrix e
      meStop (s.noteEcc unit w) e i x Code.eccUncorrected (some c.tile) (some [unit.toNat, w])
    | (bs, none, s) =>
      let s := s.onMe e fun m => (m.writeRow t c.tile (c.row + done) bs).setOp i (.tld c (done + 1))
      if done ≥ c.count then meComplete s e i x else s

/-- Fold a completed command's digest (R389). -/
def meFold (s : State) (e : Fin 4) (osid : Nat) (crc : DWord) (x : InFlight) : State := s.foldDigest e osid crc x.seq

def acvtRow (s : State) (e : Fin 4) (i : Nat) (x : InFlight) (c : AcvtCmd) (h : Nat) (rows : List (List Byte)) (row : Nat)
    (crc : DWord) : State :=
  match rows, (s.me e).shape c.dtile with
  | bs :: rest, some t =>
    let s := s.onMe e fun m => (m.writeRow t c.dtile row bs).setOp i (.acvt c h (some (rest, row + 1)) crc)
    if rest.isEmpty then meComplete (meFold s e c.ocd.osid crc x) e i x else s
  | _, _ => s

/-- TILE_ROW_WRITE_COMPLETE: the next row of the oldest TLD, or of an ACVT that has been converted for a tile, is
written and becomes valid (R80, R84, R134). -/
def execTileRowWriteComplete (e : Fin 4) (s : State) : Answer :=
  .next <| meRun s e (fun op => match op with
      | .tld _ _ => true
      | .acvt _ _ (some _) _ => true
      | _ => false) fun i x =>
    match x.op with
    | .tld c done => tldRow s e i x c done
    | .acvt c h (some (rows, row)) crc => acvtRow s e i x c h rows row crc
    | _ => s

/-! TST_COMPLETE. -/

/-- Store the rows from `k` on of a TST: rows that are not valid are skipped with the warning; the address of an
uncorrectable pool error ends the command (R69, R83). -/
def tstRows (s : State) (e : Fin 4) (c : TileMove) (t : TileShape) : Nat → Nat → State × Option Nat
  | 0, _ => (s, none)
  | n + 1, k =>
    let m := s.me e
    let row := c.row + k
    if !m.rowValid c.tile row then tstRows (meWarnRow s e c.tile row) e c t n (k + 1)
    else
      match m.rowError t c.tile row t.whole with
      | some a => (s, some a)
      | none => tstRows (s.lwrite (c.addr + k * c.stride) (m.rowBytes t c.tile row)) e c t n (k + 1)

/-- TST_COMPLETE (R83, R84). -/
def execTstComplete (e : Fin 4) (s : State) : Answer :=
  .next <| meRun s e (fun op => match op with
      | .tst _ => true
      | _ => false) fun i x =>
    match x.op with
    | .tst c =>
      match (s.me e).shape c.tile with
      | none => s
      | some t =>
        match tstRows s e c t (c.count + 1) 0 with
        | (s, none) => meComplete s e i x
        | (s, some a) => mePoolStop s e i x c.tile a
    | _ => s

/-! Stationary rows and the swap token. -/

/-- Write weight rows into a set. -/
def StationarySet.put (w : StationarySet) (rows : List (Nat × List FVal)) : StationarySet :=
  { w with rows := rows.foldl (fun t r => Tbl.set [] t r.1 r.2) w.rows }

/-- The weight rows that array row `i` of an LDW holds: rows `2i` and `2i + 1` in the narrow classes (R99, R102);
zeros where no tile row supplies them. -/
def ldwRows (m : MatrixEngine) (t : TileShape) (c : LdwCmd) (i : Nat) : List (Nat × List FVal) :=
  let vs := if i ≤ c.count
    then weightElems t.ty c.xf c.table t.len (m.rowBytes t c.tile (c.row + i)) (c.off * 16) (c.tag.loadSlice t.ty)
    else []
  if c.tag.narrow then [(2 * i, vs.take 32), (2 * i + 1, vs.drop 32)] else [(i, vs)]

/-- Array rows that an LDW writes (R104, R105). -/
def ldwTotal (c : LdwCmd) : Nat := if c.tag == .w64 then 16 else 32

/-- Weights that a load which failed midway leaves in a set of another class: the spec does not say what an array command
computes with them (log 131). -/
def freeRows (draw : Nat) (cls : ClassTag) : List (Nat × List FVal) :=
  (List.range 64).map fun k => (k, (List.range 32).map fun n =>
    let w := fun j => (Config.freeWord draw (64 * (32 * k + n) + j)).toNat
    if cls == .w64 then Fmt.fp64.decode (w 0 + 2 ^ 32 * w 1) else Fmt.fp32.decode (w 0))

/-- A set with rows of class `cls` in it and the tag that it had before (R138). -/
def StationarySet.spoil (w : StationarySet) (draw : Nat) (cls : ClassTag) : StationarySet :=
  if w.tag == .none || w.tag == cls then w else { w with rows := freeRows draw w.tag }

/-- An LDW stops at an uncorrectable word (R69, R138): the rows written stay written, neither stationary tag changes, and checks
of later commands see the tags as they stand. -/
def ldwFail (s : State) (e : Fin 4) (c : LdwCmd) (done : Nat) : State :=
  if done = 0 then s.onMe e fun m => { m with queueTags := m.tagsAhead }
  else
    { s.onMe e fun m =>
        let m := { m with shadow := m.shadow.spoil s.free c.tag }
        let m := if c.tag.full || c.clears then { m with active := m.active.spoil (s.free + 1) c.tag } else m
        { m with queueTags := m.tagsAhead } with
      free := s.free + 2 }

/-- The next array row of an LDW; with the last one the tags are set, the active set of a full load that a half load follows is
zeroed, and the command completes (R102, R104-R106). -/
def ldwRow (s : State) (e : Fin 4) (i : Nat) (x : InFlight) (c : LdwCmd) (done : Nat) : State :=
  match (s.me e).shape c.tile with
  | none => s
  | some t =>
    let m := s.me e
    let row := c.row + done
    match (if done ≤ c.count then m.rowError t c.tile row (t.slice (c.off * 16) (c.tag.loadSlice t.ty)) else none) with
    | some a => ldwFail (mePoolStop s e i x c.tile a) e c done
    | none =>
      let rows := ldwRows m t c done
      let s := s.onMe e fun m =>
        let m := { m with shadow := m.shadow.put rows }
        let m := if c.tag.full then { m with active := m.active.put rows } else m
        m.setOp i (.ldw c (done + 1))
      let s := if done ≤ c.count then (meWarnRow s e c.tile row).meLost e else s
      if done + 1 < ldwTotal c then s
      else
        let tile := BitVec.ofNat 5 c.tile
        let s := s.onMe e fun m =>
          let m := { m with shadow := { m.shadow with tag := c.tag, tile := tile } }
          let m := if c.tag.full then { m with active := { m.active with tag := c.tag, tile := tile } } else m
          if c.clears then { m with active := StationarySet.empty } else m
        meComplete s e i x

/-- Read the expansion table of an LDW that has waited for it, and go on with its first row (R102, R123). -/
def ldwStart (s : State) (e : Fin 4) (i : Nat) (x : InFlight) (c : LdwCmd) (addr done : Nat) : State :=
  match takeRead s (Source.matrix e) addr (tableSize c.xf) with
  | (some code, _, s) => (meStop s e i x code none none).onMe e fun m => { m with queueTags := m.tagsAhead }
  | (none, bs, s) =>
    let c := { c with table := tableVals c.xf bs, xtab := none }
    ldwRow (s.onMe e fun m => m.setOp i (.ldw c done)) e i { x with op := .ldw c done } c done

/-- STATIONARY_ROW_WRITE: the next array row of the oldest LDW (R102, R104-R106). -/
def execStationaryRowWrite (e : Fin 4) (s : State) : Answer :=
  .next <| meRun s e (fun op => match op with
      | .ldw _ _ => true
      | _ => false) fun i x =>
    match x.op with
    | .ldw c done => match c.xtab with
      | some addr => ldwStart s e i x c addr done
      | none => ldwRow s e i x c done
    | _ => s

/-- SWAP_TOKEN_ENTRY: behind the rows of earlier array commands and the last earlier LDW the token enters, and rows that enter
from then on meet the exchanged sets; the SWAP completes 63 beats later (R107, R108). -/
def execSwapTokenEntry (e : Fin 4) (s : State) : Answer :=
  .next <| meRun s e (fun op => match op with
      | .swap => true
      | _ => false) fun i _ =>
    s.onMe e fun m => { m.setOp i (.token s.beat) with active := m.shadow, shadow := m.active }

/-- The place of a SWAP whose token has passed the array by beat `b` (R108), or of a TREL whose tiles are drained (R82). -/
def MatrixEngine.passed (m : MatrixEngine) (b : Nat) : Option (Nat × InFlight) :=
  (List.range m.inflight.length).findSome? fun i => match m.inflight[i]? with
    | some x => match x.op with
      | .token b0 => if b ≥ b0 + 63 then some (i, x) else none
      | .trel mask => if (m.inflight.take i).any fun y => y.op.touch.clash { tileW := mask.toNat } then none else some (i, x)
      | _ => none
    | none => none

/-- Complete up to `n` such commands of an engine. -/
def mePass (e : Fin 4) : Nat → State → State
  | 0, s => s
  | n + 1, s => match (s.me e).passed s.beat with
    | none => s
    | some (i, x) =>
      let s := match x.op with
        | .trel mask => s.onMe e fun m => m.release mask
        | _ => s
      mePass e n (meComplete s e i x)

/-- At the start of a beat: SWAPs whose token has passed, and TRELs whose tiles have drained, complete (R82, R108). -/
def State.passTokens (s : State) : State :=
  (List.finRange 4).foldl (fun s e => mePass e (s.me e).inflight.length s) s

/-! Input rows. -/

/-- A value, or the code of a fault with the event detail of an uncorrectable error. -/
abbrev Got (α : Type) := Except (Half × Option (List Nat)) α

/-- A local memory read of an engine while it streams, as master 0x51 (R129, R187). -/
def streamRead (s : State) (unit : Byte) (a n : Nat) : Got (List Byte) × State :=
  if !inLocal a n then (.error (Code.badCommand, none), s)
  else if !s.may 0x51 .loc false then (.error (Code.accessDenied, none), s)
  else
    match s.lread a n with
    | (bs, none, s) => (.ok bs, s)
    | (_, some w, s) => (.error (Code.eccUncorrected, some [unit.toNat, w]), s.noteEcc unit w)

/-- A write of an engine while it streams, as master 0x51: the code it stops with, if it may not be made. -/
def streamWriteBad (s : State) (a n : Nat) : Option Half :=
  if !inLocal a n then some Code.badCommand
  else if !s.may 0x51 .loc true then some Code.accessDenied else none

/-- The address of element `k` of convolution row `m`; none for padding and tail (R128). -/
def convAddr (a : AgdCmd) (kk m k : Nat) : Option Nat :=
  let p := a.p0 + m
  let oy := p / a.ow
  let ox := p % a.ow
  let j := k / a.cg
  let c := a.c0 + k % a.cg
  let t := a.t0 + j
  if j ≥ kk / a.cg || t ≥ a.wh * a.ww then none
  else
    let iy : Int := oy * a.sy + (t / a.ww) * a.dy - (a.pt : Int)
    let ix : Int := ox * a.sx + (t % a.ww) * a.dx - (a.pl : Int)
    if iy < 0 || iy ≥ a.ih || ix < 0 || ix ≥ a.iw then none
    else some (a.base + ((iy.toNat * a.iw + ix.toNat) * a.c + c) * (typeBits a.fmt / 8))

/-- Read elements one by one; padding and tail elements are zeros. -/
def readElems (s : State) (unit : Byte) (ty : Nat) : List (Option Nat) → Got (List FVal) × State
  | [] => (.ok [], s)
  | none :: rest =>
    match readElems s unit ty rest with
    | (.ok vs, s) => (.ok (Val.zero :: vs), s)
    | r => r
  | some a :: rest =>
    match streamRead s unit a (typeBits ty / 8) with
    | (.error x, s) => (.error x, s)
    | (.ok bs, s) =>
      match readElems s unit ty rest with
      | (.ok vs, s) => (.ok (elemRaw ty (ofLE bs) :: vs), s)
      | r => r

/-- A slice of a tile row as input (R81, R102, R145): an uncorrectable pool error is an error of the row. -/
def tileInput (s : State) (e : Fin 4) (cls : ClassTag) (trans : Bool) (tile row off : Nat) :
    Except Nat (List FVal) × State :=
  let m := s.me e
  match m.shape tile with
  | none => (.ok [], s)
  | some t =>
    match m.rowError t tile row (t.slice (off * 16) (cls.inSlice trans)) with
    | some a => (.error a, s)
    | none =>
      let bs := m.rowBytes t tile row
      (.ok (sliceElems t.ty ((bs.drop (off * 16)).take (cls.inSlice trans)) (bs.drop (t.len + off / 2))),
        meWarnRow s e tile row)

/-- Input row `m` of an MMS from local memory (R127, R128). -/
def memInput (s : State) (unit : Byte) (a : AgdCmd) (cls : ClassTag) (trans : Bool) (m : Nat) : Got (List FVal) × State :=
  if a.mode = 0 then
    let addr := a.base + m * a.lstride
    let n := cls.inSlice trans
    match streamRead s unit addr n with
    | (.error x, s) => (.error x, s)
    | (.ok bs, s) =>
      if isMx a.fmt then
        match streamRead s unit (addr + 64) 2 with
        | (.error x, s) => (.error x, s)
        | (.ok sc, s) => (.ok (sliceElems a.fmt bs sc), s)
      else (.ok (sliceElems a.fmt bs []), s)
  else readElems s unit a.fmt ((List.range (cls.ins trans)).map (convAddr a cls.k m))

/-! MM and MMS rows. -/

def mmRow (s : State) (e : Fin 4) (i : Nat) (x : InFlight) (c : MmCmd) (cls : ClassTag) (done : Nat) : State :=
  match tileInput s e cls c.trans c.tile (c.row + done) c.off with
  | (.error a, s) => mePoolStop s e i x c.tile a
  | (.ok xs, s) =>
    let f := cls.accFmt
    let m := s.me e
    let two := c.trans && cls.narrow
    let init := if c.zero then [] else m.getOutputs f c.acc (c.arow + done) two
    let (out, gated) := rowOutputs ⟨cls, c.spl, c.strict, c.trans⟩ m.weights xs init
    let s := s.onMe e fun m =>
      { m.setOutputs f c.acc (c.arow + done) out with
        abusy := m.abusy + BitVec.ofNat 64 (cls.passes c.spl)
        gated := m.gated + BitVec.ofNat 64 gated
        inflight := (m.setOp i (.mm c cls (done + 1))).inflight }
    let s := s.meLost e
    if done ≥ c.count then meComplete s e i x else s

/-- Rows of group `g` (R126). -/
def mmsGroupRows (c : MmsCmd) (g : Nat) : Nat := min 32 (c.count + 1 - 32 * g)

/-- The accumulator that group `g` is staged in (R126). -/
def mmsStage (c : MmsCmd) (cls : ClassTag) (g : Nat) : Nat :=
  if c.trans && cls.narrow then (if g % 2 = 0 then 0 else 2)
  else (if c.accp then 2 else 0) + g % 2

/-- Zero every staging accumulator of the command (R126, R129). -/
def mmsZero (m : MatrixEngine) (c : MmsCmd) (cls : ClassTag) : MatrixEngine :=
  (List.range 4).foldl (fun m a => if (mmsAccs c cls).testBit a then m.zeroAcc a 0 32 else m) m

/-- A fault while streaming: both staging accumulators are zeroed and the queue stops (R129). -/
def mmsStop (s : State) (e : Fin 4) (i : Nat) (x : InFlight) (c : MmsCmd) (cls : ClassTag) (code : Half)
    (detail : Option (List Nat)) : State :=
  meStop (s.onMe e fun m => mmsZero m c cls) e i x code none detail

/-- The initial values of output row `m` (R114, R126). -/
def mmsInit (s : State) (e : Fin 4) (c : MmsCmd) (cls : ClassTag) (m : Nat) : Got (List FVal) × State :=
  match c.psum with
  | none => (.ok [], s)
  | some (a, stride) =>
    let f := cls.accFmt
    let n := cls.outs c.trans
    match streamRead s (Source.matrix e) (a + m * stride) (n * f.bytes) with
    | (.error x, s) => (.error x, s)
    | (.ok bs, s) => (.ok ((List.range n).map fun j => f.decode (leAt bs (j * f.bytes) f.bytes)), s)

/-- Input row `k` of an MMS (R127, R128). -/
def mmsInput (s : State) (e : Fin 4) (c : MmsCmd) (cls : ClassTag) (k : Nat) : Except (Half × Option (List Nat) ⊕ Nat) (List FVal) × State :=
  if c.agd.mode = 2 then
    match tileInput s e cls c.trans c.agd.tile (c.agd.row0 + k) c.agd.off with
    | (.error a, s) => (.error (.inr a), s)
    | (.ok xs, s) => (.ok xs, s)
  else
    match memInput s (Source.matrix e) c.agd cls c.trans k with
    | (.error x, s) => (.error (.inl x), s)
    | (.ok xs, s) => (.ok xs, s)

/-- How many rows beyond the one being staged have been read: a row enters 63 beats before its sums reach the staging row
(R131), and each pass of a row holds the input edge for the beats of R122 (log 132). -/
def mmsDepth (c : MmsCmd) (cls : ClassTag) : Nat := 63 / ((if c.strict then 16 else 1) * cls.passes c.spl)

/-- Read `n` further input rows from row `k` on, behind those read already; the first fault ends it. -/
def mmsFetch (s : State) (e : Fin 4) (c : MmsCmd) (cls : ClassTag) : Nat → Nat → List (List FVal) →
    Except (Half × Option (List Nat) ⊕ Nat) (List (List FVal)) × State
  | 0, _, rows => (.ok rows, s)
  | n + 1, k, rows =>
    match mmsInput s e c cls k with
    | (.error x, s) => (.error x, s)
    | (.ok xs, s) => mmsFetch (s.meLost e) e c cls n (k + 1) (rows ++ [xs])

/-- Stage the sums of input row `done` of group `done / 32` (R126). -/
def mmsPut (s : State) (e : Fin 4) (i : Nat) (c : MmsCmd) (cls : ClassTag) (done g h : Nat) (crc : DWord)
    (xs init : List FVal) (rest : List (List FVal)) : State :=
  s.onMe e fun m =>
    let m := if done = 0 then mmsZero m c cls else m
    let stage := mmsStage c cls (done / 32)
    let two := c.trans && cls.narrow
    let m := if done % 32 = 0 then (let m := m.zeroAcc stage 0 32; if two then m.zeroAcc (stage + 1) 0 32 else m) else m
    let (out, gated) := rowOutputs ⟨cls, c.spl, c.strict, c.trans⟩ m.weights xs init
    { m.setOutputs cls.accFmt stage (done % 32) out with
      abusy := m.abusy + BitVec.ofNat 64 (cls.passes c.spl)
      gated := m.gated + BitVec.ofNat 64 gated
      inflight := (m.setOp i (.mms c cls (done + 1) g h crc rest)).inflight }

/-- The next row of an MMS: the rows that have entered by then are read, and the first of them is staged. A fault of a read
stops the command: over local memory the staging accumulators are zeroed (R129), in the tile pool the results stay (R69). -/
def mmsRow (s : State) (e : Fin 4) (i : Nat) (x : InFlight) (c : MmsCmd) (cls : ClassTag) (done g h : Nat) (crc : DWord)
    (ahead : List (List FVal)) : State :=
  let upTo := min (done + mmsDepth c cls) c.count
  match mmsFetch s e c cls (upTo + 1 - (done + ahead.length)) (done + ahead.length) ahead with
  | (.error (.inr a), s) => mePoolStop s e i x c.agd.tile a
  | (.error (.inl (code, d)), s) => mmsStop s e i x c cls code d
  | (.ok rows, s) =>
    match mmsInit s e c cls done with
    | (.error (code, d), s) => mmsStop s e i x c cls code d
    | (.ok init, s) => mmsPut s e i c cls done g h crc (rows.headD []) init rows.tail

/-- Rows that an MMS may have staged while group `g` waits for its check: those of group g and of the group after it, which the
other staging accumulator takes (R126, R131). -/
def mmsMayStage (c : MmsCmd) (done g : Nat) : Bool := decide (done ≤ c.count) && decide (done < 32 * (g + 2))

/-- ACCUMULATOR_ROW_WRITE: the next input row of the oldest MM, or of an MMS that has a staging row for it
(R114, R116, R121, R126, R131, R150-R160). -/
def execAccumulatorRowWrite (e : Fin 4) (s : State) : Answer :=
  .next <| meRun s e (fun op => match op with
      | .mm _ _ _ => true
      | .mms c _ done g _ _ _ => mmsMayStage c done g
      | _ => false) fun i x =>
    match x.op with
    | .mm c cls done => mmRow s e i x c cls done
    | .mms c cls done g h crc ahead => mmsRow s e i x c cls done g h crc ahead
    | _ => s

/-! The group check. -/

/-- Write byte lists at a stride. -/
def writeRows (s : State) (dst stride : Nat) : List (List Byte) → Nat → State
  | [], _ => s
  | r :: rs, k => writeRows (s.lwrite (dst + k * stride) r) dst stride rs (k + 1)

/-- The code of the first row that may not be written. -/
def rowsBad (s : State) (dst stride : Nat) (rows : List (List Byte)) (k0 : Nat) : Option Half :=
  (rows.zip (List.range rows.length)).findSome? fun p => streamWriteBad s (dst + (k0 + p.2) * stride) p.1.length

/-- The CRC of a group's rows and its attempt number (R388). -/
def crcGroup (crc : DWord) (rows : List (List Byte)) (h : Nat) : DWord :=
  crc64 (rows.foldl crc64 crc) [BitVec.ofNat 8 h]

/-- The group needs another attempt with one more halving (R171). -/
def retries (o : OcdCmd) (c : Counts) (h : Nat) : Bool := decide (c.sat > o.sthr) && decide (h < o.retry)

/-- The bytes written at ADJ for group `g` (R171). -/
def adjWrite (s : State) (o : OcdCmd) (g h : Nat) : State :=
  if o.adjusts then s.lwrite (o.adj + g) [BitVec.ofNat 8 h] else s

/-- The warnings and counters of a group (R171, R172). -/
def groupStats (s : State) (o : OcdCmd) (c : Counts) (h : Nat) : State :=
  ({ s with stats := s.stats.group o.tsen o.tset c h (decide (c.sat > o.sthr)) }.raiseIf (c.sat > o.sthr) 13 0x004 16).raiseIf
    (c.nonfin > 0) 13 0x004 17

def mmsCheck (s : State) (e : Fin 4) (i : Nat) (x : InFlight) (c : MmsCmd) (cls : ClassTag) (done g h : Nat) (crc : DWord)
    (ahead : List (List FVal)) : State :=
  let m := s.me e
  let n := mmsGroupRows c g
  let rows := (List.range n).map fun r =>
    m.getOutputs cls.accFmt (mmsStage c cls g) r (c.trans && cls.narrow)
  let (out, counts) := convertGroup c.ocd h (32 * g) rows
  if retries c.ocd counts h then s.onMe e fun m => m.setOp i (.mms c cls done g (h + 1) crc ahead)
  else
    let adjBad := if c.ocd.adjusts then streamWriteBad s (c.ocd.adj + g) 1 else none
    match (rowsBad s c.dst c.dstride out (32 * g)).orElse fun _ => adjBad with
    | some code => mmsStop s e i x c cls code none
    | none =>
      let s := groupStats (adjWrite (writeRows s c.dst c.dstride out (32 * g)) c.ocd g h) c.ocd counts h
      let crc := crcGroup crc out h
      if 32 * (g + 1) > c.count then meComplete (meFold s e c.ocd.osid crc x) e i x
      else s.onMe e fun m => m.setOp i (.mms c cls done (g + 1) 0 crc ahead)

def acvtCheck (s : State) (e : Fin 4) (i : Nat) (x : InFlight) (c : AcvtCmd) (h : Nat) (crc : DWord) : State :=
  let m := s.me e
  let f : Fmt := if c.f64 then .fp64 else .fp32
  let rows := (List.range (c.count + 1)).map fun r => m.getOutputs f c.acc (c.arow + r) c.wide
  let (out, counts) := convertGroup c.ocd h 0 rows
  if retries c.ocd counts h then s.onMe e fun m => m.setOp i (.acvt c (h + 1) none crc)
  else
    let s := s.onMe e fun m =>
      if c.clr then
        let m := m.zeroAcc c.acc c.arow (c.count + 1)
        if c.wide then m.zeroAcc (c.acc + 1) c.arow (c.count + 1) else m
      else m
    let s := groupStats (adjWrite s c.ocd 0 h) c.ocd counts h
    let crc := crcGroup crc out h
    if c.toTile then s.onMe e fun m => m.setOp i (.acvt c h (some (out, c.drow)) crc)
    else meComplete (meFold (writeRows s c.dst c.dstride out 0) e c.ocd.osid crc x) e i x

/-- Read the descriptor of an ACVT that has waited for it, and go on with its first attempt (R123, R134, R162). -/
def acvtStart (s : State) (e : Fin 4) (i : Nat) (x : InFlight) (regs : List DWord) (seed : DWord) (step hid : Word) : State :=
  let c : QueueCmd := { regs := regs, seq := x.seq }
  match acvtRead s e c seed step hid with
  | (.error (code, tile), s) => meStop s e i x code (if tile then some (fld 37 33 (c.reg 0)) else none) none
  | (.ok (cmd, crc), s) => acvtCheck s e i x cmd 0 crc

/-- SATURATION_CHECK: the staged group of the oldest MMS, or the rows of the oldest ACVT, are converted and checked;
another attempt follows, or the group is written and counted (R126, R134, R164, R171). -/
def execSaturationCheck (e : Fin 4) (s : State) : Answer :=
  .next <| meRun s e (fun op => match op with
      | .mms c _ done g _ _ _ => decide (done ≥ 32 * g + mmsGroupRows c g)
      | .acvt _ _ none _ => true
      | .acvtWait _ _ _ _ => true
      | _ => false) fun i x =>
    match x.op with
    | .mms c cls done g h crc ahead => mmsCheck s e i x c cls done g h crc ahead
    | .acvtWait regs seed step hid => acvtStart s e i x regs seed step hid
    | .acvt c h none crc => acvtCheck s e i x c h crc
    | _ => s

end Sys2Proof.Machine
end

