-- ==== Sys2Proof/Machine/Vector.lean ====
section
/-! DEFINITION. The vector engine: commands taken from queue 4 and their completion (R180-R198). The engine takes a
command once the one before has completed (R196: commands behave so; only timing differs, log 7). -/

namespace Sys2Proof.Machine

/-- An operand of a vector command: a register, a memory stream, the scalar, or none (R180). -/
inductive VOperand where
  | reg (v : Nat)
  | mem (addr size : Nat)
  | scalar (x : Nat)
  | none
  deriving DecidableEq, Repr, Inhabited

/-- The range of a memory operand of `n` elements. -/
def VOperand.range (n : Nat) : VOperand → Option (Nat × Nat × Nat)
  | .mem a size => some (a, size, n * size)
  | _ => Option.none

/-- A memory operand is aligned and inside local memory (R178, R187). -/
def VOperand.bad (n : Nat) : VOperand → Bool
  | .mem a size => a % size != 0 || !inLocal a (n * size)
  | _ => false

def VOperand.isReg : VOperand → Bool
  | .reg _ => true
  | _ => false

def VOperand.isMem : VOperand → Bool
  | .mem _ _ => true
  | _ => false

/-- Two ranges share a byte, other than by being one stream worked on in place (R187). -/
def partOverlap (d r : Option (Nat × Nat × Nat)) : Bool :=
  match d, r with
  | some (a, sz, n), some (b, sz', m) => decide (a < b + m) && decide (b < a + n) && !(a == b && sz == sz')
  | _, _ => false

/-- The decoded form of a VOP, VEP or VRED, enough to check and to run it. -/
structure VCmd where
  count : Nat
  /-- sources A, B, C -/
  srcs : List VOperand
  dst : VOperand
  /-- the table of a GATHER or SCATTER: address, element size, elements; and whether it is the destination -/
  table : Option (Nat × Nat × Nat) := Option.none
  tableIsDst : Bool := false
  deriving DecidableEq, Repr, Inhabited

/-- A source selector (R180). -/
def vSource (sel addr size k : Nat) : VOperand :=
  if sel < 8 then .reg sel else if sel = 8 then .mem addr size else if sel = 9 then .scalar k else .none

/-- The checks of R187 that do not depend on rights. -/
def VCmd.bad (c : VCmd) : Bool :=
  let regs := c.dst.isReg || c.srcs.any VOperand.isReg
  c.count == 0 || (regs && decide (c.count > 2048))
    || c.srcs.any (VOperand.bad c.count) || c.dst.bad c.count
    || (match c.table with
        | some (a, sz, k) => a % sz != 0 || !inLocal a (k * sz)
        | Option.none => false)
    || (let d := c.dst.range c.count
        c.srcs.any fun x => partOverlap d (x.range c.count))
    || (let t := c.table.map fun p => (p.1, p.2.1, p.2.2 * p.2.1)
        if c.tableIsDst then c.srcs.any fun x => partOverlap t (x.range c.count)
        else partOverlap (c.dst.range c.count) t)

/-- The rights of R187. -/
def VCmd.denied (s : State) (c : VCmd) : Bool :=
  ((c.srcs.any VOperand.isMem || (c.table.isSome && !c.tableIsDst)) && !s.may 0x51 .loc false)
    || ((c.dst.isMem || (c.table.isSome && c.tableIsDst)) && !s.may 0x51 .loc true)

/-! VOP. -/

structure VopFields where
  count : Nat
  func : Nat
  ty : VType
  tyCode : Nat
  sat : Bool
  rm : Nat
  d : Nat
  a : Nat
  b : Nat
  c : Nat
  osid : Nat
  baddr : Nat
  aaddr : Nat
  daddr : Nat
  caddr : Nat
  k : Nat
  k1 : Nat
  n : Nat
  deriving DecidableEq, Repr, Inhabited

/-- The fields of R180. -/
def vopFields (regs : List DWord) : VopFields :=
  let r := fun i => (regs.getD i 0#64).toNat
  { count := fld 63 48 (r 0), func := fld 47 42 (r 0), ty := VType.of (fld 41 39 (r 0)), tyCode := fld 41 39 (r 0),
    sat := bit 38 (r 0), rm := fld 37 36 (r 0), d := fld 35 32 (r 0), a := fld 31 28 (r 0), b := fld 27 24 (r 0),
    c := fld 23 20 (r 0), osid := fld 19 8 (r 0), baddr := fld 63 32 (r 1), aaddr := fld 31 0 (r 1),
    daddr := fld 63 32 (r 2), caddr := fld 31 0 (r 2), k := fld 31 0 (r 3), k1 := fld 63 32 (r 3), n := regs.length }

def VopFields.gather (v : VopFields) : Bool := v.func == 0x39
def VopFields.scatter (v : VopFields) : Bool := v.func == 0x3A
def VopFields.isCvt (v : VopFields) : Bool := decide (0x30 ≤ v.func) && decide (v.func ≤ 0x37)

/-- The type of the results. -/
def VopFields.outTy (v : VopFields) : VType := if v.isCvt then VType.target (v.func - 0x30) else v.ty

/-- Sources used: A, B, C. -/
def VopFields.arity (v : VopFields) : Nat := funcArity v.func

def VopFields.usesK (v : VopFields) : Bool :=
  v.gather || v.scatter || v.func == 0x3B
    || (decide (v.arity ≥ 1) && v.a == 9) || (decide (v.arity ≥ 2) && v.b == 9) || (decide (v.arity ≥ 3) && v.c == 9)

def vopCmd (v : VopFields) : VCmd :=
  let sz := v.ty.size
  let k := v.k % 2 ^ (8 * sz)
  let bsz := if v.gather || v.scatter then 4 else sz
  let bk := if v.gather || v.scatter then v.k else k
  { count := v.count
    srcs := [ if v.arity ≥ 1 && !v.gather then vSource v.a v.aaddr sz k else .none,
              if v.arity ≥ 2 then vSource v.b v.baddr bsz bk else .none,
              if v.arity ≥ 3 then vSource v.c v.caddr sz k else .none ]
    dst := if v.scatter then .none else if v.d < 8 then .reg v.d else .mem v.daddr v.outTy.size
    table := if v.gather then some (v.aaddr, sz, v.k) else if v.scatter then some (v.daddr, sz, v.k) else Option.none
    tableIsDst := v.scatter }

/-- A selector of a source that is used, or of one that is not (R180). -/
def selBad (used : Bool) (sel : Nat) : Bool := if used then decide (sel > 9) else sel != 15

/-- A field, selector or address breaks R180-R182, R185, R186. -/
def vopFieldsBad (v : VopFields) : Bool :=
  let n := v.arity
  let memA := decide (n ≥ 1) && v.a == 8
  let memB := decide (n ≥ 2) && v.b == 8
  let memC := decide (n ≥ 3) && v.c == 8
  let memD := v.d == 8
  !funcAllows v.func v.ty || (v.sat && !funcSat v.func) || v.rm == 3 || (v.rm == 2 && !v.isCvt)
    || (v.isCvt && v.outTy == v.ty)
    || decide (v.d > 8) || selBad (n ≥ 1) v.a || selBad (n ≥ 2) v.b || selBad (n ≥ 3) v.c
    || (v.gather && v.a != 8) || (v.scatter && v.d != 8)
    || (!memA && v.aaddr != 0) || (!memB && v.baddr != 0) || (!memC && v.caddr != 0) || (!memD && v.daddr != 0)
    || (!v.usesK && v.k != 0) || v.k1 != 0
    || decide (v.n < 1) || decide (v.n > 4)
    || ((memA || memB) && decide (v.n < 2)) || ((memC || memD) && decide (v.n < 3)) || (v.usesK && decide (v.n < 4))

/-! Taking commands. -/

def State.onVe (s : State) (f : VectorEngine → VectorEngine) : State := { s with ve := f s.ve }

def isVeOpcode (o : Nat) : Bool := decide (0x40 ≤ o) && decide (o ≤ 0x43)

/-- A vector command faults as it is taken (R198). -/
def veFault (s : State) (c : QueueCmd) (code : Half) : State :=
  ((s.onVe fun v => v.fault code c.opc c.seq).raise 6 0x004 15).takeFault 4 c code

/-- The engine takes the command at the head of queue 4 when it has opcode `opc` and no command is in progress. -/
def veTake (s : State) (opc : Nat) (f : QueueCmd → State) : State :=
  match s.head 4 with
  | none => s
  | some c =>
    if !s.ve.inflight.isEmpty then s
    else if c.opc = opc then f c
    else if isVeOpcode c.opc then s
    else veFault s c Code.badCommand

def veStart (s : State) (c : QueueCmd) : State :=
  (s.take 4 c).onVe fun v => { v with inflight := v.inflight ++
    [{ regs := c.regs, seq := c.seq, seed := s.stats.seed, step := s.stats.step, hid := s.hid, old := false }] }

/-- Check a decoded command and start it: BAD_COMMAND before ACCESS_DENIED, before any effect (R187). -/
def veCheck (s : State) (c : QueueCmd) (fieldsBad : Bool) (v : VCmd) : State :=
  if fieldsBad || v.bad then veFault s c Code.badCommand
  else if v.denied s then veFault s c Code.accessDenied
  else veStart s c

/-- VOP (R180-R187). -/
def execVop (s : State) : Answer :=
  .next <| veTake s 0x40 fun c =>
    let v := vopFields c.regs
    veCheck s c (vopFieldsBad v) (vopCmd v)

/-- VPLOAD: the image is read and checked as the command is taken (R188, R189). -/
def execVpload (s : State) : Answer :=
  .next <| veTake s 0x41 fun c =>
    let addr := fld 63 32 (c.reg 0)
    if c.regs.length != 1 || fld 31 11 (c.reg 0) != 0 || addr % 128 != 0 || !inLocal addr 128 then veFault s c Code.badCommand
    else if !s.may 0x51 .loc false then veFault s c Code.accessDenied
    else veStart s c

/-- The program image of a slot (R188). -/
def VectorEngine.image (v : VectorEngine) (slot : Nat) : List Byte := v.progs.readBytes (128 * slot) 128

/-- The operands of a VEP: in0-in2 are A-C, each used by the program or none; the output has type OTY (R190). -/
def vepCmd (img : List Byte) (v : VopFields) : VCmd :=
  let src := fun (i sel addr : Nat) =>
    if progUses img (8 + i) then vSource sel addr (VType.of (leAt img (72 + i) 1)).size 0 else VOperand.none
  { count := v.count, srcs := [src 0 v.a v.aaddr, src 1 v.b v.baddr, src 2 v.c v.caddr],
    dst := if v.d < 8 then .reg v.d else .mem v.daddr (VType.target (leAt img 75 1)).size }

/-- A field, selector or address of a VEP breaks R180 or R190; the scalar selector names nothing here, and OSID serves
stochastic output rounding alone. -/
def vepFieldsBad (ve : VectorEngine) (img : List Byte) (v : VopFields) : Bool :=
  let slot := v.func % 8
  let use := fun i => progUses img (8 + i)
  let mem := fun i sel => use i && sel == 8
  let sel := fun i x => if use i then decide (x > 8) else x != 15
  !ve.pvalid.getLsbD slot || v.func / 8 != 0 || v.tyCode != 0 || v.sat || v.rm != 0
    || (v.osid != 0 && fld 2 1 (leAt img 78 1) != 2)
    || decide (v.d > 8) || sel 0 v.a || sel 1 v.b || sel 2 v.c
    || (!mem 0 v.a && v.aaddr != 0) || (!mem 1 v.b && v.baddr != 0) || (!mem 2 v.c && v.caddr != 0)
    || (v.d != 8 && v.daddr != 0)
    || (!progUses img 14 && v.k != 0) || (!progUses img 15 && v.k1 != 0)
    || decide (v.n < 1) || decide (v.n > 4)
    || ((mem 0 v.a || mem 1 v.b) && decide (v.n < 2)) || ((mem 2 v.c || v.d == 8) && decide (v.n < 3))
    || ((progUses img 14 || progUses img 15) && decide (v.n < 4))

/-- VEP (R190). -/
def execVep (s : State) : Answer :=
  .next <| veTake s 0x42 fun c =>
    let v := vopFields c.regs
    let img := s.ve.image (v.func % 8)
    veCheck s c (vepFieldsBad s.ve img v) (vepCmd img v)

/-- VRED's fields (R191). -/
structure VredFields where
  count : Nat
  seg : Nat
  a : Nat
  ty : VType
  tyCode : Nat
  func : Nat
  sx : Int
  raddr : Nat
  aaddr : Nat
  deriving DecidableEq, Repr, Inhabited

def vredFields (regs : List DWord) : VredFields :=
  let r := fun i => (regs.getD i 0#64).toNat
  let count := fld 63 48 (r 0)
  let seg := fld 47 32 (r 0)
  { count := count, seg := if seg = 0 then count else seg, a := fld 31 28 (r 0), ty := VType.of (fld 27 25 (r 0)),
    tyCode := fld 27 25 (r 0), func := fld 24 22 (r 0), sx := sext 8 (fld 21 14 (r 0)),
    raddr := fld 63 32 (r 1), aaddr := fld 31 0 (r 1) }

def vredCmd (v : VredFields) : VCmd :=
  { count := v.count, srcs := [vSource v.a v.aaddr v.ty.size 0], dst := .none }

/-- Segments of a VRED. -/
def VredFields.segments (v : VredFields) : Nat := if v.seg = 0 then 0 else v.count / v.seg

def vredBad (c : QueueCmd) (v : VredFields) : Bool :=
  let recs := some (v.raddr, 16, 16 * v.segments)
  c.regs.length != 2 || decide (v.a > 8) || decide (v.tyCode > 4) || decide (v.func > 4) || fld 13 8 (c.reg 0) != 0
    || (v.a != 8 && v.aaddr != 0) || v.seg == 0 || v.count % v.seg != 0
    || (v.func == 1 && v.ty.isInt) || (v.func != 1 && v.sx != 0)
    || v.raddr % 16 != 0 || !inLocal v.raddr (16 * v.segments)
    || (vredCmd v).srcs.any fun x => partOverlap recs (x.range v.count)

/-- VRED (R191). -/
def execVred (s : State) : Answer :=
  .next <| veTake s 0x43 fun c =>
    let v := vredFields c.regs
    if vredBad c v || (vredCmd v).bad then veFault s c Code.badCommand
    else if (vredCmd v).denied s || !s.may 0x51 .loc true then veFault s c Code.accessDenied
    else veStart s c

/-! Completion. -/

/-- Element `i` of a source. -/
def veElem (s : State) (o : VOperand) (size i : Nat) : Nat :=
  match o with
  | .reg v => (Tbl.get 0#32 s.ve.vregs (v * 2048 + i)).toNat % 2 ^ (8 * size)
  | .mem a sz => s.mem.mem.readLE (a + i * sz) sz
  | .scalar x => x
  | .none => 0

/-- The first element whose read of a source touches an uncorrectable word, with the word's address (R187). -/
def veBadElem (s : State) (c : VCmd) : Option (Nat × Nat) :=
  let hits := c.srcs.filterMap fun o => match o with
    | .mem a sz => (s.mem.badIn a (c.count * sz)).map fun w => ((w - a) / sz, w)
    | _ => Option.none
  hits.foldl (fun acc h => match acc with
    | Option.none => some h
    | some b => if h.1 < b.1 then some h else some b) Option.none

/-- Write the results of elements `0 .. n-1`. -/
def veWrite (s : State) (dst : VOperand) (xs : List Nat) : State :=
  match dst with
  | .reg v => s.onVe fun e => { e with
      vregs := (xs.zip (List.range xs.length)).foldl (fun t p => Tbl.set 0#32 t (v * 2048 + p.2) (BitVec.ofNat 32 p.1)) e.vregs }
  | .mem a sz => s.lwrite a (xs.flatMap (leBytes sz))
  | _ => s

/-- Count the single-bit errors of the first `n` elements of the memory sources (R204). -/
def veCountSingles (s : State) (c : VCmd) (n : Nat) : State :=
  c.srcs.foldl (fun s o => match o with
    | .mem a sz => (s.lread a (n * sz)).2.2
    | _ => s) s

/-- Beats of R197: the greatest of the compute figure and the two memory figures. -/
def occupancy (lanes perBeat count rd wr moved : Nat) : Nat :=
  let up := fun a b => (a + b - 1) / b
  max (max (up count lanes * perBeat) (up moved 64)) (max (up rd 1024) (up wr 512))

/-- Bytes that `n` elements of the memory sources take. -/
def memBytes (c : VCmd) (n : Nat) : Nat := (c.srcs.map fun o => match o with
  | .mem _ sz => n * sz
  | _ => 0).foldl (· + ·) 0

/-- The command reads or writes local memory. -/
def VCmd.usesMem (c : VCmd) : Bool := c.srcs.any VOperand.isMem || c.dst.isMem || c.table.isSome

/-- Beats lost to the arbitration of local memory: R197 counts them, and their number is a free value (log 15). -/
def State.veLost (s : State) : State :=
  { s.onVe fun v => { v with lost := satAdd v.lost (Config.freeWord s.free 0).toNat } with free := s.free + 1 }

/-- The engine is done with its command. -/
def veDone (s : State) (x : VeCmd) : State := (s.onVe fun v => { v with inflight := v.inflight.tail }).completeIf 4 (if x.old then none else some x.seq)

/-- The command stops queue 4 on an uncorrectable word (R187, R198). -/
def veEccStop (s : State) (x : VeCmd) (w : Nat) : State :=
  let opc := (x.regs.getD 0 0#64).toNat % 256
  let s := (s.noteEcc Source.vector w).onVe fun v =>
    { v.fault Code.eccUncorrected opc x.seq with inflight := v.inflight.tail }
  (s.raise 6 0x004 15).stopIf 4 Code.eccUncorrected opc x.seq x.old (some [Source.vector.toNat, w])

/-- Raise the sticky warnings (R182, R183, R199) and count the beats in which elements entered (R199). -/
def veWarn (s : State) (isat inv : Bool) (beats : Nat) : State :=
  ((s.onVe fun v => { v with
    isat := v.isat || isat, inv := v.inv || inv, busy := v.busy + BitVec.ofNat 64 beats }).raiseIf isat 6 0 1).raiseIf inv 6 0 0

/-- Finish an element-wise command of `c.count` elements whose results are `rs`: those up to the element on which `stop`
ends it are written and warn, and the queue stops there on its word; `beats` is the occupancy of that many elements. -/
def veEnd (s : State) (x : VeCmd) (c : VCmd) (rs : List VRes) (stop : Option Nat) (beats : Nat → Nat) : State :=
  let n := rs.length
  let s := if c.usesMem then (veCountSingles s c n).veLost else s
  let s := veWrite (veWarn s (rs.any (·.isat)) (rs.any (·.inv)) (if n = 0 then 0 else beats n)) c.dst (rs.map (·.bits))
  match stop with
  | Option.none => veDone s x
  | some w => veEccStop s x w

/-- Finish a command whose element `i` has the result `f i`, up to the first uncorrectable element. -/
def veFinish (s : State) (x : VeCmd) (c : VCmd) (f : Nat → VRes) (beats : Nat → Nat) : State :=
  let stop := veBadElem s c
  veEnd s x c ((List.range (stop.elim c.count (·.1))).map f) (stop.map (·.2)) beats

/-- The stochastic rounding value of element `i` (R185). -/
def veU (x : VeCmd) (rm osid i : Nat) : Nat := if rm = 2 then randomU x.seed x.step x.hid osid i else 0

/-- Result of a VOP for element `i`, other than GATHER and SCATTER (R181-R185). -/
def vopElem (s : State) (x : VeCmd) (v : VopFields) (c : VCmd) (i : Nat) : VRes :=
  let sz := v.ty.size
  let src := fun j => veElem s (c.srcs.getD j .none) sz i
  if v.isCvt then convert v.outTy v.rm v.sat (veU x v.rm v.osid i) (v.ty.value (src 0))
  else if v.func = 0x38 then VRes.of (src 0)
  else if v.func = 0x3B then VRes.of ((i + v.k) % 2 ^ 32)
  else elemOp v.ty v.func v.sat (src 0) (src 1) (src 2)

/-- Count indices at or above K (R186). -/
def State.veOob (s : State) (missed : Nat) : State :=
  (s.onVe fun e => { e with oob := satAdd e.oob missed, oobSticky := e.oobSticky || decide (missed > 0) }).raiseIf
    (missed > 0) 6 0 2

/-- GATHER: elements of the table by index, read before any is written; an index at or above K writes zero and is counted
(R186). The first element whose index or table element touches an uncorrectable word ends it (R187; log 125). -/
def runGather (s : State) (x : VeCmd) (v : VopFields) (c : VCmd) (beats : Nat → Nat) : State :=
  let sz := v.ty.size
  let bad := fun (j : Nat) => if j < v.k then s.mem.badIn (v.aaddr + j * sz) sz else Option.none
  let stopB := veBadElem s c
  let idx := (List.range (stopB.elim v.count (·.1))).map fun i => veElem s (c.srcs.getD 1 .none) 4 i
  let good := idx.takeWhile fun j => (bad j).isNone
  let stop := match idx.drop good.length with
    | j :: _ => bad j
    | [] => stopB.map (·.2)
  let inside := good.filter fun j => decide (j < v.k)
  let rs := good.map fun j => VRes.of (if j < v.k then s.mem.mem.readLE (v.aaddr + j * sz) sz else 0)
  let s := inside.foldl (fun s j => (s.lread (v.aaddr + j * sz) sz).2.2) s
  veEnd (s.veOob (good.length - inside.length)) x c rs stop beats

/-- SCATTER: elements written in index order, so that the highest index wins; an index at or above K writes nothing
and is counted (R186). -/
def runScatter (s : State) (x : VeCmd) (v : VopFields) (c : VCmd) (beats : Nat → Nat) : State :=
  let sz := v.ty.size
  let stop := veBadElem s c
  let pairs := (List.range (stop.elim v.count (·.1))).map fun i =>
    (veElem s (c.srcs.getD 1 .none) 4 i, veElem s (c.srcs.getD 0 .none) sz i)
  let missed := (pairs.filter fun p => !decide (p.1 < v.k)).length
  let s1 := veCountSingles s c pairs.length
  let s1 := pairs.foldl (fun s p => if p.1 < v.k then s.lwrite (v.daddr + p.1 * sz) (leBytes sz p.2) else s) s1
  let s1 := (veWarn (s1.veOob missed) false false (if pairs.length = 0 then 0 else beats pairs.length)).veLost
  match stop with
  | Option.none => veDone s1 x
  | some (_, w) => veEccStop s1 x w

/-- The occupancy of `n` elements of a VOP (R197). -/
def vopBeats (v : VopFields) (c : VCmd) (n : Nat) : Nat :=
  let slow := decide (0x28 ≤ v.func) && decide (v.func ≤ 0x2B)
  occupancy v.ty.lanes (if slow then 4 else 1) n (memBytes c n + (if v.gather then n * v.ty.size else 0))
    (if v.d = 8 then n * v.outTy.size else 0) (if v.gather || v.scatter then n else 0)

/-- A VOP at work. -/
def runVop (s : State) (x : VeCmd) : State :=
  let v := vopFields x.regs
  let c := vopCmd v
  if v.gather then runGather s x v c (vopBeats v c)
  else if v.scatter then runScatter s x v c (vopBeats v c)
  else veFinish s x c (vopElem s x v c) (vopBeats v c)

/-- A VPLOAD at work: a bad image faults and leaves the slot; an image read that hits an uncorrectable word stops the
queue (R189). -/
def runVpload (s : State) (x : VeCmd) : State :=
  let r := (x.regs.getD 0 0#64).toNat
  let slot := fld 10 8 r
  match s.lread (fld 63 32 r) 128 with
  | (_, some w, s) => veEccStop s x w
  | (img, Option.none, s) =>
    if progBad img then
      ((s.onVe fun v => { v.fault Code.badCommand 0x41 x.seq with inflight := v.inflight.tail }).raise 6 0x004 15).stopIf 4
        Code.badCommand 0x41 x.seq x.old
    else
      veDone (s.onVe fun v => { v with
        progs := v.progs.writeBytes (128 * slot) img, pvalid := v.pvalid ||| BitVec.ofNat 8 (2 ^ slot) }) x

/-- Beats one group of lanes spends on a program (R197). -/
def progBeats (img : List Byte) : Nat :=
  ((List.range (leAt img 76 1)).map fun k =>
    let f := fld 31 26 (progWord img k)
    if 0x28 ≤ f ∧ f ≤ 0x2B then 4 else 1).foldl (· + ·) 0

/-- One element of a VEP (R190). -/
def vepElem (s : State) (x : VeCmd) (img : List Byte) (v : VopFields) (c : VCmd) (i : Nat) : VRes :=
  let ins := (List.range 3).map fun j =>
    let t := VType.of (leAt img (72 + j) 1)
    scratchIn t (veElem s (c.srcs.getD j .none) t.size i)
  let (xs, isat, inv) := progRun img ins i v.k v.k1 (leAt img 76 1) 0 (List.replicate 8 0) false false
  let om := leAt img 78 1
  let rm := fld 2 1 om
  let t := progOutType img
  let r := convert (VType.target (leAt img 75 1)) rm (bit 0 om) (veU x rm v.osid i) (t.value (xs.getD (leAt img 77 1) 0))
  ⟨r.bits, isat, inv || r.inv⟩

def runVep (s : State) (x : VeCmd) : State :=
  let v := vopFields x.regs
  let img := s.ve.image (v.func % 8)
  let c := vepCmd img v
  veFinish s x c (vepElem s x img v c) fun n =>
    occupancy 128 (progBeats img) n (memBytes c n) (if v.d = 8 then n * (VType.target (leAt img 75 1)).size else 0) 0

/-- Records of the segments from `k` on; a segment that touches an uncorrectable word ends it (R187, R191). -/
def vredSegs (s : State) (v : VredFields) (o : VOperand) : Nat → Nat → State × Option Nat
  | 0, _ => (s, Option.none)
  | n + 1, k =>
    let first := k * v.seg
    let err := match o with
      | .mem a sz => s.mem.badIn (a + first * sz) (v.seg * sz)
      | _ => Option.none
    match err with
    | some w => (s, some w)
    | Option.none =>
      let vs := (List.range v.seg).map fun j => v.ty.value (veElem s o v.ty.size (first + j))
      let s := veWarn (match o with
        | .mem a sz => (s.lread (a + first * sz) (v.seg * sz)).2.2
        | _ => s) false (reduceInv v.ty v.func vs) 0
      vredSegs (s.lwrite (v.raddr + 16 * k) (reduce v.ty v.func v.sx vs).bytes) v o n (k + 1)

def runVred (s : State) (x : VeCmd) : State :=
  let v := vredFields x.regs
  let c := vredCmd v
  match vredSegs s.veLost v (c.srcs.headD .none) v.segments 0 with
  | (s, Option.none) => veDone s x
  | (s, some w) => veEccStop s x w

/-- VE_COMPLETION: the command in progress writes its results and completes, or stops the queue (R190, R192, R197). -/
def execVeCompletion (s : State) : Answer :=
  .next <|
    if !s.inRun then s
    else
      match s.ve.inflight with
      | [] => s
      | x :: _ =>
        match (x.regs.getD 0 0#64).toNat % 256 with
        | 0x40 => runVop s x
        | 0x41 => runVpload s x
        | 0x42 => runVep s x
        | _ => runVred s x

end Sys2Proof.Machine
end

