-- ==== Sys2Proof/Machine/Dispatch.lean ====
section
/-! DEFINITION. One arm per command: a direct call of its meaning. -/

namespace Sys2Proof.Machine

def exec (i : Instr) (s : State) : Host.Outcome State Fault Refusal :=
  match i with
  | .longWordIssue => Sys2Proof.Machine.execLongWordIssue s
  | .loadDataArrival task => Sys2Proof.Machine.execLoadDataArrival task s
  | .storeBufferDrain task => Sys2Proof.Machine.execStoreBufferDrain task s
  | .cacheDropComplete task => Sys2Proof.Machine.execCacheDropComplete task s
  | .taskWake task => Sys2Proof.Machine.execTaskWake task s
  | .queueClear m mask => Sys2Proof.Machine.execQueueClear m mask s
  | .queueRestart m mask => Sys2Proof.Machine.execQueueRestart m mask s
  | .tcfg e => Sys2Proof.Machine.execTcfg e s
  | .tcfgApply e => Sys2Proof.Machine.execTcfgApply e s
  | .trel e => Sys2Proof.Machine.execTrel e s
  | .tld e => Sys2Proof.Machine.execTld e s
  | .tst e => Sys2Proof.Machine.execTst e s
  | .tileRowWriteComplete e => Sys2Proof.Machine.execTileRowWriteComplete e s
  | .ldw e => Sys2Proof.Machine.execLdw e s
  | .stationaryRowWrite e => Sys2Proof.Machine.execStationaryRowWrite e s
  | .swap e => Sys2Proof.Machine.execSwap e s
  | .swapTokenEntry e => Sys2Proof.Machine.execSwapTokenEntry e s
  | .mm e => Sys2Proof.Machine.execMm e s
  | .mms e => Sys2Proof.Machine.execMms e s
  | .acvt e => Sys2Proof.Machine.execAcvt e s
  | .accumulatorRowWrite e => Sys2Proof.Machine.execAccumulatorRowWrite e s
  | .saturationCheck e => Sys2Proof.Machine.execSaturationCheck e s
  | .vop => Sys2Proof.Machine.execVop s
  | .vpload => Sys2Proof.Machine.execVpload s
  | .vep => Sys2Proof.Machine.execVep s
  | .vred => Sys2Proof.Machine.execVred s
  | .veCompletion => Sys2Proof.Machine.execVeCompletion s
  | .sarm => Sys2Proof.Machine.execSarm s
  | .rearm => Sys2Proof.Machine.execRearm s
  | .sstop => Sys2Proof.Machine.execSstop s
  | .streamTransferIssue far => Sys2Proof.Machine.execStreamTransferIssue far s
  | .pageTableWalk far => Sys2Proof.Machine.execPageTableWalk far s
  | .farReadData tag data last err => Sys2Proof.Machine.execFarReadData tag data last err s
  | .farWriteAck tag err => Sys2Proof.Machine.execFarWriteAck tag err s
  | .tlbInvalidate m => Sys2Proof.Machine.execTlbInvalidate m s
  | .ptrootWrite m upper => Sys2Proof.Machine.execPtrootWrite m upper s
  | .patrolScrub => Sys2Proof.Machine.execPatrolScrub s
  | .msend => Sys2Proof.Machine.execMsend s
  | .xsend => Sys2Proof.Machine.execXsend s
  | .xsendRelease => Sys2Proof.Machine.execXsendRelease s
  | .sendCompletion => Sys2Proof.Machine.execSendCompletion s
  | .bar => Sys2Proof.Machine.execBar s
  | .arriveSend => Sys2Proof.Machine.execArriveSend s
  | .rwin => Sys2Proof.Machine.execRwin s
  | .barrierPass b => Sys2Proof.Machine.execBarrierPass b s
  | .barrierTimeout b => Sys2Proof.Machine.execBarrierTimeout b s
  | .inboundDataMessage => Sys2Proof.Machine.execInboundDataMessage s
  | .inboundGatherMessage => Sys2Proof.Machine.execInboundGatherMessage s
  | .wptrAdvance => Sys2Proof.Machine.execWptrAdvance s
  | .creditReceive => Sys2Proof.Machine.execCreditReceive s
  | .revokeReceive => Sys2Proof.Machine.execRevokeReceive s
  | .arriveReceive => Sys2Proof.Machine.execArriveReceive s
  | .releaseReceive => Sys2Proof.Machine.execReleaseReceive s
  | .rptrWrite m tag value => Sys2Proof.Machine.execRptrWrite m tag value s
  | .ringDescriptorWrite m offset size data => Sys2Proof.Machine.execRingDescriptorWrite m offset size data s
  | .creditEntryWrite m offset size data => Sys2Proof.Machine.execCreditEntryWrite m offset size data s
  | .ringOpen m tag => Sys2Proof.Machine.execRingOpen m tag s
  | .ringClose m tag => Sys2Proof.Machine.execRingClose m tag s
  | .ringDrain m tag => Sys2Proof.Machine.execRingDrain m tag s
  | .ringReset m tag => Sys2Proof.Machine.execRingReset m tag s
  | .ringGrel m tag slot => Sys2Proof.Machine.execRingGrel m tag slot s
  | .routerForward src => Sys2Proof.Machine.execRouterForward src s
  | .linkCreditReturn port lane => Sys2Proof.Machine.execLinkCreditReturn port lane s
  | .idleFlit flit => Sys2Proof.Machine.execIdleFlit flit s
  | .linkReadyDrop port => Sys2Proof.Machine.execLinkReadyDrop port s
  | .flitTimeout port => Sys2Proof.Machine.execFlitTimeout port s
  | .linkReadyRise port => Sys2Proof.Machine.execLinkReadyRise port s
  | .linkReadyHoldEnd port => Sys2Proof.Machine.execLinkReadyHoldEnd port s
  | .trainingComplete port => Sys2Proof.Machine.execTrainingComplete port s
  | .helloReceive port record => Sys2Proof.Machine.execHelloReceive port record s
  | .edgeFrameReceive frame => Sys2Proof.Machine.execEdgeFrameReceive frame s
  | .edgeRetryTimeout => Sys2Proof.Machine.execEdgeRetryTimeout s
  | .edgeTrainTimeout => Sys2Proof.Machine.execEdgeTrainTimeout s
  | .edgeTrainRetry => Sys2Proof.Machine.execEdgeTrainRetry s
  | .elockChange lock => Sys2Proof.Machine.execElockChange lock s
  | .lehrSyncPulse value => Sys2Proof.Machine.execLehrSyncPulse value s
  | .missedPulse => Sys2Proof.Machine.execMissedPulse s
  | .actionArm m a ctl => Sys2Proof.Machine.execActionArm m a ctl s
  | .launch a => Sys2Proof.Machine.execLaunch a s
  | .snapshotActionFire a => Sys2Proof.Machine.execSnapshotActionFire a s
  | .profile a => Sys2Proof.Machine.execProfile a s
  | .snapshotTimer => Sys2Proof.Machine.execSnapshotTimer s
  | .snapshotCopy => Sys2Proof.Machine.execSnapshotCopy s
  | .snapshotComplete => Sys2Proof.Machine.execSnapshotComplete s
  | .journalWrite => Sys2Proof.Machine.execJournalWrite s
  | .traceSample => Sys2Proof.Machine.execTraceSample s
  | .replayMessageCursor record => Sys2Proof.Machine.execReplayMessageCursor record s
  | .replayReadCursor record => Sys2Proof.Machine.execReplayReadCursor record s
  | .shdef => Sys2Proof.Machine.execShdef s
  | .sharm => Sys2Proof.Machine.execSharm s
  | .shgo => Sys2Proof.Machine.execShgo s
  | .shsync => Sys2Proof.Machine.execShsync s
  | .shdrop => Sys2Proof.Machine.execShdrop s
  | .marverSlot far => Sys2Proof.Machine.execMarverSlot far s
  | .marverStatistics far => Sys2Proof.Machine.execMarverStatistics far s
  | .marverUpdateBlock far => Sys2Proof.Machine.execMarverUpdateBlock far s
  | .publicationSend => Sys2Proof.Machine.execPublicationSend s
  | .managementPacket bytes => Sys2Proof.Machine.execManagementPacket bytes s
  | .mailboxGo m => Sys2Proof.Machine.execMailboxGo m s
  | .gafferRound => Sys2Proof.Machine.execGafferRound s
  | .fwImageLoaded far => Sys2Proof.Machine.execFwImageLoaded far s
  | .launchImageCopied far => Sys2Proof.Machine.execLaunchImageCopied far s
  | .restoreLoadComplete far => Sys2Proof.Machine.execRestoreLoadComplete far s
  | .mramStoreComplete torn => Sys2Proof.Machine.execMramStoreComplete torn s
  | .kilnRecordStore => Sys2Proof.Machine.execKilnRecordStore s
  | .clusterReset => Sys2Proof.Machine.execClusterReset s
  | .outboundPacket => Sys2Proof.Machine.execOutboundPacket s
  | .resetRelease straps => Sys2Proof.Machine.execResetRelease straps s
  | .resetAssert => Sys2Proof.Machine.execResetAssert s
  | .bistComplete pass => Sys2Proof.Machine.execBistComplete pass s
  | .switchClose => Sys2Proof.Machine.execSwitchClose s
  | .computeTierPowerGood trained => Sys2Proof.Machine.execComputeTierPowerGood trained s
  | .tierStartTimeout => Sys2Proof.Machine.execTierStartTimeout s
  | .powerGoodLoss => Sys2Proof.Machine.execPowerGoodLoss s
  | .tierInterfaceError => Sys2Proof.Machine.execTierInterfaceError s
  | .tierInterfaceTimeout => Sys2Proof.Machine.execTierInterfaceTimeout s
  | .annealSelfTestComplete pass => Sys2Proof.Machine.execAnnealSelfTestComplete pass s
  | .discoveryComplete => Sys2Proof.Machine.execDiscoveryComplete s
  | .pwrStableChange level => Sys2Proof.Machine.execPwrStableChange level s
  | .testModeChange level => Sys2Proof.Machine.execTestModeChange level s
  | .scanShift => Sys2Proof.Machine.execScanShift s
  | .counterSetClear m mask => Sys2Proof.Machine.execCounterSetClear m mask s
  | .digestClearAll m => Sys2Proof.Machine.execDigestClearAll m s
  | .jnLiveWrite m k value => Sys2Proof.Machine.execJnLiveWrite m k value s
  | .upperWordLatchRead m addr => Sys2Proof.Machine.execUpperWordLatchRead m addr s
  | .split64BitWrite m addr lower => Sys2Proof.Machine.execSplit64BitWrite m addr lower s
  | .readClear m addr => Sys2Proof.Machine.execReadClear m addr s
  | .registerWrite m addr value => Sys2Proof.Machine.execRegisterWrite m addr value s
  | .externalMasterAccess m write addr size data => Sys2Proof.Machine.execExternalMasterAccess m write addr size data s
  | .tstComplete e => Sys2Proof.Machine.execTstComplete e s
  | .localTransferComplete => Sys2Proof.Machine.execLocalTransferComplete s
  | .mouldImageRead far => Sys2Proof.Machine.execMouldImageRead far s
  | .mouldStoreWaitTimeout => Sys2Proof.Machine.execMouldStoreWaitTimeout s
  | .fenceRecordRead far => Sys2Proof.Machine.execFenceRecordRead far s
  | .baseTierFailure => Sys2Proof.Machine.execBaseTierFailure s
  | .testAccessPort access => Sys2Proof.Machine.execTestAccessPort access s

end Sys2Proof.Machine
end

