-- ==== Sys2Proof/Machine/Tick.lean ====
section
/-! DEFINITION. What the passing of one N-cycle does by itself: the step of the block when no command waits (log 5). -/

namespace Sys2Proof.Machine

/-- A regulator bucket after one beat: its share, a percentage, of 128 bytes more, at most 4,096 bytes (R218). -/
def refill (share : Byte) (tokens : Nat) : Nat := min Config.bucketFull (tokens + share.toNat * 128)

/-- The start of a beat: the count advances while it is synchronised (R272, R277), LEHR_LOAD is sampled (R273),
the beats since the last pulse are counted (R275), what a pending ARRIVE waits for is looked at (R285), the regulator buckets
refill and a transfer that waits for tokens is counted (R218, R220), swap tokens that have passed the array and TRELs that have
drained complete (R82, R108), and REMAP entries that a RELEASE has set apply in their beat (R320). -/
def State.beatStart (s : State) : State :=
  let l := s.lehr
  let lc := if l.synced && !s.pins.testMode then l.lc + 1#64 else l.lc
  let s := { s with
    lehr := { l with
      lc := lc
      evLc := lc
      samples := if s.pins.testMode then 0 else min 64 (l.samples + 1)
      sincePulse := l.sincePulse + 1 }
    se := { s.se with
      buckets := #v[refill s.se.shareRead (Vec.at s.se.buckets 0), refill s.se.shareWrite (Vec.at s.se.buckets 1),
        refill s.se.shareRemote (Vec.at s.se.buckets 2)]
      throttled := false }
    sched := { s.sched with barReady := s.arriveReady } }.showId
  s.passTokens.dueRemaps.noteThrottle

/-- One N-cycle passes: ports that wait for it train (R325); link credits go back (R309); the ring controller's command is done
(R244); SPAWNs are performed (R51); every second one starts a beat (R14). While RST_N is low or the base tier has failed nothing
runs (R24, R468). -/
def State.tick (s : State) : State :=
  if !s.pins.alive then s
  else
    let s := { s with nc := s.nc + 1, raised := [] }.trainPorts.returnCredits.ringIdle
    let s := if s.inRun && !s.resting then s.wakeSpawners.performSpawns else s
    if s.nc % 2 = 0 then s.beatStart else s

end Sys2Proof.Machine
end

