-- ==== Sys2Proof/Safety.lean ====
section
/-! DEFINITION. What a safe run is: no step ends in a fault or a refusal. -/

namespace Sys2Proof.Machine

/-- A step that goes on. -/
def Proceeds (s : State) : Prop := ∃ t, step s = .next t

/-- A run of `k` steps from `s` that never stops. -/
def Safe : Nat → State → Prop
  | 0, _ => True
  | k + 1, s => ∃ t, step s = .next t ∧ Safe k t

/-- The far response a command carries answers a request that is outstanding (R463). -/
def FarContract (s : State) : Instr → Bool
  | .farReadData tag _ _ _ => s.far.any fun r => r.tag == tag.toNat && !r.write
  | .farWriteAck tag _ => s.far.any fun r => r.tag == tag.toNat && r.write
  | _ => true

/-! Terms of the statements. -/

/-- The task waits for a SPAWN or its result. -/
def Task.spawning (k : Task) : Bool :=
  match k.cause with
  | .spawn _ _ _ _ _ => true
  | .spawned _ _ _ => true
  | _ => false

/-- Task `t` issues the word `w` next: the compute tier runs, the program goes on, no SPAWN is under way, and the word's fetch
is good (R18, R30, R51, R52). -/
def Issues (s : State) (t : Nat) (w : LongWord) : Prop :=
  s.inRun = true ∧ s.resting = false ∧ s.core.startBeat ≤ s.beat ∧ (∀ k ∈ s.core.tasks.toList, k.spawning = false) ∧
    s.core.pick = some t ∧ s.core.fetch ((s.task t).commit).pc = .word w

/-- The core, when task `t` has issued the word `w` and goes on: only the tasks, the present task and the duty to switch may have
changed, and of the tasks only `t` (R52). -/
def WordIssued (s : State) (t : Nat) (w : LongWord) (u : State) : Prop :=
  u.core = { s.core with
    cur := t, mustSwitch := w.yld || w.dly != 0, tasks := u.core.tasks, cache := u.core.cache, queues := u.core.queues
    storeCount := u.core.storeCount } ∧ ∀ r, r ≠ t → u.task r = s.task r

/-- Task `k`, its results written, after the word `w` and with these results more and this store buffer: the task cycle has
advanced by one and DLY, the next word is that of the loop levels, and the task is READY (R45, R55, R56). -/
def Task.after (k : Task) (w : LongWord) (more : List PendingResult) (stores : List StoreEntry) : Task :=
  { k with
    results := k.results ++ more, stores := stores, cycle := k.cycle + 1 + w.dly
    pc := (endBody w.pc w.next k.loops).1, loops := (endBody w.pc w.next k.loops).2
    state := .ready, memWait := .none }

/-- The result that R39 and R46 give an S0 or S1 slot of the word that task `k` issues while the Lehr count is `lc`. -/
def ScalarMeaning (k : Task) (lc : DWord) (x : Nat) (r : PendingResult) : Prop :=
  let o := fld 31 26 x
  let a := k.reg (fld 16 12 x)
  let b := if bit 11 x then BitVec.ofInt 64 (sext 11 (fld 10 0 x)) else k.reg (fld 4 0 x)
  let d := k.reg (fld 21 17 x)
  let n := fld 5 0 b.toNat
  let p := k.pred (fld 14 12 x) = true
  let q := k.pred (fld 2 0 x) = true
  let rd := fun (v : DWord) => r = ⟨k.cycle + 1, .reg (BitVec.ofNat 5 (fld 21 17 x)), v⟩
  let mul := fun (v : DWord) => r = ⟨k.cycle + 3, .reg (BitVec.ofNat 5 (fld 21 17 x)), v⟩
  let pd := fun (c : Prop) =>
    (c → r = ⟨k.cycle + 1, .pred (BitVec.ofNat 3 (fld 19 17 x)), 1#64⟩) ∧
    (¬ c → r = ⟨k.cycle + 1, .pred (BitVec.ofNat 3 (fld 19 17 x)), 0#64⟩)
  (o = 0x01 → rd (BitVec.ofNat 64 (a.toNat + b.toNat))) ∧
  (o = 0x02 → rd (BitVec.ofInt 64 ((a.toNat : Int) - b.toNat))) ∧
  (o = 0x03 → rd (a &&& b)) ∧ (o = 0x04 → rd (a ||| b)) ∧ (o = 0x05 → rd (a ^^^ b)) ∧
  (o = 0x06 → rd (BitVec.ofNat 64 (a.toNat * 2 ^ n))) ∧
  (o = 0x07 → rd (BitVec.ofNat 64 (a.toNat / 2 ^ n))) ∧
  (o = 0x08 → rd (BitVec.ofInt 64 (a.toInt / 2 ^ n))) ∧
  (o = 0x09 → rd (BitVec.ofInt 64 (min a.toInt b.toInt))) ∧ (o = 0x0A → rd (BitVec.ofInt 64 (max a.toInt b.toInt))) ∧
  (o = 0x0B → rd (BitVec.ofNat 64 (min a.toNat b.toNat))) ∧ (o = 0x0C → rd (BitVec.ofNat 64 (max a.toNat b.toNat))) ∧
  (o = 0x10 → pd (a = b)) ∧ (o = 0x11 → pd (a ≠ b)) ∧
  (o = 0x12 → pd (a.toInt < b.toInt)) ∧ (o = 0x13 → pd (a.toNat < b.toNat)) ∧
  (o = 0x14 → pd (a.toInt ≤ b.toInt)) ∧ (o = 0x15 → pd (a.toNat ≤ b.toNat)) ∧
  (o = 0x18 → pd (p ∧ q)) ∧ (o = 0x19 → pd (p ∨ q)) ∧ (o = 0x1A → pd (¬ (p ↔ q))) ∧ (o = 0x1B → pd (p ∧ ¬ q)) ∧
  (0x20 ≤ o → o < 0x24 → rd (BitVec.ofNat 64 (fld 15 0 x * 2 ^ (16 * (o - 0x20))))) ∧
  (0x24 ≤ o → o < 0x28 → rd (BitVec.ofNat 64
    (d.toNat - fld (16 * (o - 0x24) + 15) (16 * (o - 0x24)) d.toNat * 2 ^ (16 * (o - 0x24))
      + fld 15 0 x * 2 ^ (16 * (o - 0x24))))) ∧
  (o = 0x28 → (∀ l, k.loops[fld 1 0 x]? = some l → rd (BitVec.ofNat 64 l.rem.toNat)) ∧
    (k.loops.length ≤ fld 1 0 x → rd 0#64)) ∧
  (o = 0x29 → rd lc) ∧
  (o = 0x30 → mul (BitVec.ofNat 64 (a.toNat * b.toNat))) ∧
  (o = 0x31 → mul (BitVec.ofNat 64 (a.toNat * b.toNat / 2 ^ 64))) ∧
  (o = 0x32 → mul (BitVec.ofInt 64 (a.toInt * b.toInt / 2 ^ 64)))

/-- RSEL of `tags` in this mode selects list position `i`, `last` being the task's last position (R258). -/
def Selects (s : State) (tags : List Nat) (mode last i : Nat) : Prop :=
  let ready := fun j => ((s.ring (tags.getD j 0)).state = RingState.opened ∨ (s.ring (tags.getD j 0)).state = RingState.draining) ∧
    (s.ring (tags.getD j 0)).rptr ≠ (s.ring (tags.getD j 0)).wptr
  let start := if last + 1 < tags.length then last + 1 else 0
  let place := fun j => (j + tags.length - start) % tags.length
  i < tags.length ∧ ready i ∧
  (mode = 0 → ∀ j, j < tags.length → ready j →
    (s.ring (tags.getD j 0)).prio ≤ (s.ring (tags.getD i 0)).prio ∧
    (j < i → (s.ring (tags.getD j 0)).prio < (s.ring (tags.getD i 0)).prio)) ∧
  (mode = 1 → ∀ j, j < tags.length → ready j → place i ≤ place j) ∧ (2 ≤ mode → i = start)

/-- What a WAITING task waits for holds (R53, R54, R61, R258). -/
def WaitOver (s : State) (k : Task) : Prop :=
  match k.cause with
  | .queueDone q seq => 0 ≤ ((s.queue q.toNat).completed - seq).toInt
  | .stream ctx n => 0 ≤ ((s.ctx ctx).delivered - n).toInt
  | .lehr target => target.toNat ≤ s.lehr.evLc.toNat
  | .storeEmpty => k.stores = []
  | .queueFree q n => n + (s.queue q.toNat).entries.length ≤ 64
  | .storeFull => k.stores.length < 16
  | .queueStopped q => (s.queue q).stopped = false
  | .rsel tags mode _ => ∃ i, Selects s tags mode k.rselPos i
  | _ => False

/-- Engine `e` may take the command `c`, of opcode `opc`, at the head of its queue: no TCFG is in flight (R60, R78). -/
def MeReady (s : State) (e : Fin 4) (opc : Nat) (c : QueueCmd) : Prop :=
  s.head e.val = some c ∧ c.opc = opc ∧ ∀ x ∈ (s.me e.val).inflight, x.op.isTcfg = false

/-- Queue `q` has given up its head command `c`, which is outstanding; every other queue is as it was (R59). -/
def QueueTook (s u : State) (q : Nat) (c : QueueCmd) : Prop :=
  u.queue q = { s.queue q with
    entries := (s.queue q).entries.tail, outstanding := (s.queue q).outstanding ++ [(c.seq, .run)] } ∧
  ∀ r, r ≠ q → u.queue r = s.queue r

/-- Engine `e` has taken `c` and `op` is in flight; its pool, descriptors, stationary sets and accumulators, the other engines
and local memory are as they were. -/
def MeStarted (s u : State) (e : Fin 4) (c : QueueCmd) (op : MeOp) : Prop :=
  QueueTook s u e.val c ∧
  (u.me e.val).inflight =
    (s.me e.val).inflight ++ [{ seq := c.seq, opc := BitVec.ofNat 8 c.opc, op := op, old := false }] ∧
  (u.me e.val).pool = (s.me e.val).pool ∧ (u.me e.val).desc = (s.me e.val).desc ∧ (u.me e.val).valid = (s.me e.val).valid ∧
  (u.me e.val).active = (s.me e.val).active ∧ (u.me e.val).shadow = (s.me e.val).shadow ∧
  (u.me e.val).acc = (s.me e.val).acc ∧ (∀ j, j ≠ e.val → u.me j = s.me j) ∧ u.mem.mem = s.mem.mem ∧
  u.core.tasks = s.core.tasks

/-- A configuration is consistent: `d` gives the new descriptor of each tile and `mask` the tiles it is new for (R71-R73, R75). -/
def ConfigConsistent (mask : Word) (d : Nat → Nat) : Prop :=
  let len := fun t => 16 * (fld 23 20 (d t) + 1)
  let base := fun t => 512 * fld 7 0 (d t)
  let stop := fun t => base t + (fld 17 13 (d t) + 1) * (len t + typeTrailer (fld 27 24 (d t)))
  (∀ t, t < 32 → mask.getLsbD t = true → (d t).testBit 31 = false → d t = 0) ∧
  (∀ t, t < 32 → mask.getLsbD t = true → (d t).testBit 31 = true →
    fld 30 28 (d t) = 0 ∧ fld 19 18 (d t) = 0 ∧ fld 12 8 (d t) = 0 ∧ fld 27 24 (d t) < 12 ∧
      8 * len t % typeBits (fld 27 24 (d t)) = 0 ∧ (6 ≤ fld 27 24 (d t) → fld 27 24 (d t) ≤ 8 → len t % 32 = 0)) ∧
  (∀ t, t < 32 → (d t).testBit 31 = true → stop t ≤ 0x20000) ∧
  (∀ t u, t < 32 → u < 32 → t ≠ u → (d t).testBit 31 = true → (d u).testBit 31 = true → stop t ≤ base u ∨ stop u ≤ base t)

/-- The descriptors of engine `m` with those of the table for the tiles of the mask (R74, R75). -/
def newDescriptors (m : MatrixEngine) (mask : Word) (table : List Word) (t : Nat) : Nat :=
  if mask.getLsbD t then (table.getD t 0#32).toNat else (Vec.at m.desc t).toNat

/-- The tiles of `mask` have their entries of `table` and no valid row, and the other tiles of engine `m` are as they were (R77). -/
def Configured (m u : MatrixEngine) (mask : Word) (table : List Word) : Prop :=
  (∀ t, t < 32 → mask.getLsbD t = true → Vec.at u.desc t = table.getD t 0#32 ∧ Vec.at u.valid t = 0#32) ∧
  (∀ t, t < 32 → mask.getLsbD t = false → Vec.at u.desc t = Vec.at m.desc t ∧ Vec.at u.valid t = Vec.at m.valid t)

/-- The configured tiles of `mask` have no valid row; nothing else of the tiles of engine `m` has changed (R82). -/
def Released (m u : MatrixEngine) (mask : Nat) : Prop :=
  (∀ t, t < 32 → Vec.at u.valid t =
    (if mask.testBit t && (Vec.at m.desc t).getLsbD 31 then 0#32 else Vec.at m.valid t)) ∧ u.desc = m.desc ∧ u.pool = m.pool

/-- The address generator descriptor at `a` (R127). -/
def AgdHeld (m : Memory) (a : Nat) (d : AgdCmd) : Prop :=
  d.base = m.readLE a 4 ∧ d.mode = m.readLE (a + 4) 1 ∧ d.fmt = m.readLE (a + 5) 1 ∧ d.lstride = m.readLE (a + 8) 4 ∧
  d.ih = m.readLE (a + 12) 2 ∧ d.iw = m.readLE (a + 14) 2 ∧ d.c = m.readLE (a + 16) 2 ∧ d.c0 = m.readLE (a + 18) 2 ∧
  d.cg = m.readLE (a + 20) 1 ∧ d.wh = m.readLE (a + 21) 1 ∧ d.ww = m.readLE (a + 22) 1 ∧ d.t0 = m.readLE (a + 23) 1 ∧
  d.sy = m.readLE (a + 24) 1 ∧ d.sx = m.readLE (a + 25) 1 ∧ d.dy = m.readLE (a + 26) 1 ∧ d.dx = m.readLE (a + 27) 1 ∧
  d.pt = m.readLE (a + 28) 1 ∧ d.pl = m.readLE (a + 29) 1 ∧ d.ow = m.readLE (a + 30) 2 ∧ d.p0 = m.readLE (a + 32) 4 ∧
  d.tile = m.readLE (a + 36) 1 ∧ d.row0 = m.readLE (a + 37) 1 ∧ d.off = m.readLE (a + 38) 1

/-- The output conversion descriptor at `a`, with its bias vector of `n` values and the seed and the step (R161, R162, R166). -/
def OcdHeld (s : State) (a n : Nat) (d : OcdCmd) : Prop :=
  let m := s.mem.mem
  d.otype = m.readLE a 1 ∧ d.retry = fld 7 6 (m.readLE (a + 1) 1) ∧ d.tsen = bit 5 (m.readLE (a + 1) 1) ∧
  d.clip = bit 4 (m.readLE (a + 1) 1) ∧ d.keep = bit 3 (m.readLE (a + 1) 1) ∧ d.ieee = bit 2 (m.readLE (a + 1) 1) ∧
  d.rmode = fld 1 0 (m.readLE (a + 1) 1) ∧ d.tset = fld 3 0 (m.readLE (a + 2) 1) ∧
  d.scale = BitVec.ofNat 32 (m.readLE (a + 4) 4) ∧ d.lo = BitVec.ofNat 32 (m.readLE (a + 12) 4) ∧
  d.hi = BitVec.ofNat 32 (m.readLE (a + 16) 4) ∧ d.sthr = m.readLE (a + 20) 2 ∧ d.adj = m.readLE (a + 24) 4 ∧
  (m.readLE (a + 8) 4 = 0 → d.bias = none) ∧
  (m.readLE (a + 8) 4 ≠ 0 → d.bias = some ((List.range n).map fun i =>
    BitVec.ofNat 32 (m.readLE (m.readLE (a + 8) 4 + 4 * i) 4))) ∧
  d.seed = s.stats.seed ∧ d.step = s.stats.step ∧ d.hid = s.hid

/-- `rows` lie in memory from `dst` at a stride, and the byte of `extra` at its address; every other byte is as in `m`. -/
def RowsWritten (m u : Memory) (dst stride : Nat) (rows : List (List Byte)) (extra : Option (Nat × Byte)) : Prop :=
  (∀ r row, rows[r]? = some row → ∀ j, j < row.length → u.read (dst + r * stride + j) = row.getD j 0#8) ∧
  (∀ p, extra = some p → u.read p.1 = p.2) ∧
  ∀ a, (∀ r row, rows[r]? = some row → a < dst + r * stride ∨ dst + r * stride + row.length ≤ a) →
    (∀ p, extra = some p → a ≠ p.1) → u.read a = m.read a

/-- Rows at a stride do not meet, nor do they meet the byte of `extra`. -/
def RowsApart (dst stride : Nat) (rows : List (List Byte)) (extra : Option (Nat × Byte)) : Prop :=
  ∀ r row, rows[r]? = some row → row.length ≤ stride ∧
    ∀ p, extra = some p → p.1 < dst + r * stride ∨ dst + r * stride + row.length ≤ p.1

/-- The digest of a command with output stream `osid` has been added to its table entry, which counts one more; the other
entries are as they were (R389). -/
def Folded (d u : Digests) (osid : Nat) (digest : DWord) : Prop :=
  Tbl.get 0#64 u.val (osid % 64) = Tbl.get 0#64 d.val (osid % 64) + digest ∧
  Tbl.get 0#32 u.cnt (osid % 64) = Tbl.get 0#32 d.cnt (osid % 64) + 1#32 ∧
  ∀ k, k ≠ osid % 64 → Tbl.get 0#64 u.val k = Tbl.get 0#64 d.val k ∧ Tbl.get 0#32 u.cnt k = Tbl.get 0#32 d.cnt k

/-- The command with sequence number `seq` has completed in queue `q`; the other queues are as they were (R59). -/
def QueueCompleted (s u : State) (q : Nat) (seq : Word) : Prop :=
  u.queue q = ((s.queue q).mark seq .done).settle ∧ ∀ r, r ≠ q → u.queue r = s.queue r

/-- Queue `q` has stopped on `c` with `code`, and an event reports it if there is room for one; the other queues are as they were
(R61). -/
def QueueFaulted (s u : State) (q : Nat) (c : QueueCmd) (code : Half) : Prop :=
  (u.queue q).stopped = true ∧ (u.queue q).fcode = code ∧ (u.queue q).entries = (s.queue q).entries.tail ∧
  (∀ r, r ≠ q → u.queue r = s.queue r) ∧
  (s.gaffer.eventCount < 64 → ∃ v, u.gaffer = { s.gaffer with outq := s.gaffer.outq ++ [.event v] } ∧ v.code = code ∧
    v.detail = [BitVec.ofNat 32 q, BitVec.ofNat 32 c.opc, c.seq])

/-- The vector engine has taken `c`; nothing but its list of commands and its queue has changed. -/
def VeStarted (s u : State) (c : QueueCmd) : Prop :=
  QueueTook s u 4 c ∧
  u.ve = { s.ve with
    inflight := [{ regs := c.regs, seq := c.seq, seed := s.stats.seed, step := s.stats.step, hid := s.hid, old := false }] } ∧
  u = { s with core := u.core, ve := u.ve } ∧ u.core.tasks = s.core.tasks

/-- The vector engine has refused `c` with `code`, which VE_FAULT and VE_FSEQ record unless they hold an earlier fault; the
command has no effect (R187, R198). -/
def VeRefused (s u : State) (c : QueueCmd) (code : Half) : Prop :=
  QueueFaulted s u 4 c code ∧
  (s.ve.fValid = false →
    u.ve = { s.ve with fValid := true, fCode := code, fOpc := BitVec.ofNat 8 c.opc, fSeq := c.seq }) ∧
  (s.ve.fValid = true → u.ve = s.ve) ∧ u.mem = s.mem ∧ u.engines = s.engines

/-- Element `i` of a vector operand: of a register, of a memory stream, or the scalar `k` (R176, R177, R180). -/
def vecOperand (s : State) (sel addr size k i : Nat) : Nat :=
  if sel < 8 then (Tbl.get 0#32 s.ve.vregs (sel * 2048 + i)).toNat % 2 ^ (8 * size)
  else if sel = 8 then s.mem.mem.readLE (addr + i * size) size else k % 2 ^ (8 * size)

/-- The exact result of ADD, SUB and MUL; 0 for the other operations (R181). -/
def exactInt (v : VopFields) (a b : Nat) : Int :=
  if v.func = 0x01 then sext v.ty.width a + sext v.ty.width b
  else if v.func = 0x02 then sext v.ty.width a - sext v.ty.width b
  else if v.func = 0x03 then sext v.ty.width a * sext v.ty.width b else 0

/-- An integer clamped to the `w`-bit signed range. -/
def clampTo (w : Nat) (n : Int) : Int := max (-(2 ^ (w - 1) : Int)) (min (2 ^ (w - 1) - 1) n)

/-- The result that R181-R185 give element `i` of a VOP whose operands there are `a`, `b` and `c`. -/
def VopMeaning (x : VeCmd) (v : VopFields) (i a b c r : Nat) : Prop :=
  let w := v.ty.width
  let truth := fun (p : Prop) => (p → r = 2 ^ w - 1) ∧ (¬ p → r = 0)
  let float := fun (n : FVal) => ∀ f, v.ty.fmt = some f → r = f.encode (f.rnd n)
  let approx := fun (n : FVal) => ∀ f, v.ty.fmt = some f → r = f.encode (Approx.round f (Approx.round16 n))
  let p := v.ty.value a
  let q := v.ty.value b
  (v.func < 0x04 → r < 2 ^ w ∧ (v.sat = false → (r : Int) = exactInt v a b % 2 ^ w) ∧
    (v.sat = true → sext w r = clampTo w (exactInt v a b))) ∧
  (v.func = 0x04 → r = a * 2 ^ (b % w) % 2 ^ w) ∧ (v.func = 0x05 → r = a / 2 ^ (b % w)) ∧
  (v.func = 0x06 → (r : Int) = sext w a / 2 ^ (b % w) % 2 ^ w) ∧
  (v.func = 0x07 → r = a &&& b) ∧ (v.func = 0x08 → r = a ||| b) ∧ (v.func = 0x09 → r = a ^^^ b) ∧
  (v.func = 0x0A → r < 2 ^ w ∧ sext w r = min (sext w a) (sext w b)) ∧
  (v.func = 0x0B → r < 2 ^ w ∧ sext w r = max (sext w a) (sext w b)) ∧
  (v.func = 0x10 → (v.ty.isInt = true → truth (sext w a = sext w b)) ∧
    (v.ty.isInt = false → truth (Val.eq p q = true))) ∧
  (v.func = 0x11 → (v.ty.isInt = true → truth (sext w a < sext w b)) ∧
    (v.ty.isInt = false → truth (Val.lt p q = true))) ∧
  (v.func = 0x12 → (v.ty.isInt = true → truth (sext w a ≤ sext w b)) ∧
    (v.ty.isInt = false → truth (Val.le p q = true))) ∧
  (v.func = 0x13 → r = if a = 0 then c else b) ∧
  (v.func = 0x20 → float (Val.add p q)) ∧ (v.func = 0x21 → float (Val.add p (Val.neg q))) ∧
  (v.func = 0x22 → float (Val.mul p q)) ∧ (v.func = 0x23 → float (Val.add (Val.mul p q) (v.ty.value c))) ∧
  (v.func = 0x24 → float (Val.min2 p q)) ∧ (v.func = 0x25 → float (Val.max2 p q)) ∧
  (v.func = 0x28 → approx (Approx.exp2 p)) ∧ (v.func = 0x29 → approx (Approx.log2 p)) ∧
  (v.func = 0x2A → approx (Approx.rcp p)) ∧ (v.func = 0x2B → approx (Approx.rsq p)) ∧
  (0x30 ≤ v.func → v.func < 0x38 →
    r = (convert (VType.target (v.func - 0x30)) v.rm v.sat
      (if v.rm = 2 then randomU x.seed x.step x.hid v.osid i else 0) p).bits) ∧
  (v.func = 0x38 → r = a) ∧ (v.func = 0x3B → r = (i + v.k) % 2 ^ 32)

/-- The value that R190 gives element `i` of a VEP whose operands there are `ins`: scratch values start at zero, the operations of the
image `img` follow one another, and the value of OUTX is converted to OTY. -/
def VepMeaning (x : VeCmd) (v : VopFields) (img : List Byte) (i : Nat) (ins : Nat → Nat) (r : Nat) : Prop :=
  let scratch := fun j => scratchIn (VType.of (leAt img (72 + j) 1)) (ins j)
  let src := fun (xs : List Nat) code => scratchSrc img xs [scratch 0, scratch 1, scratch 2] i v.k v.k1 code
  let rm := fld 2 1 (leAt img 78 1)
  ∃ xs : Nat → List Nat, xs 0 = List.replicate 8 0 ∧
    (∀ k, k < leAt img 76 1 → let w := progWord img k
      xs (k + 1) = (xs k).set (fld 25 23 w)
        (scratchOp w (src (xs k) (fld 22 19 w)) (src (xs k) (fld 18 15 w)) (src (xs k) (fld 14 11 w))).bits) ∧
    r = (convert (VType.target (leAt img 75 1)) rm (bit 0 (leAt img 78 1))
      (if rm = 2 then randomU x.seed x.step x.hid v.osid i else 0)
      ((progOutType img).value ((xs (leAt img 76 1)).getD (leAt img 77 1) 0))).bits

/-- The record that R192-R195 give a segment of values `vs`, `func` being SUM, XSUM, MAX, MIN or ARGMAX. -/
def RedMeaning (t : VType) (func : Nat) (sx : Int) (vs : List FVal) (r : RedRecord) : Prop :=
  let sum := (vs.map (Val.toInt 0)).foldl (· + ·) 0
  (func = 0 → t.isInt = true → r = { isum := sum, value := (clampTo 32 sum % (2 ^ 32 : Nat)).toNat, index := 0
                                     ovf := false, nonfin := false, nan := false }) ∧
  (func = 0 → t.isInt = false → r.isum = 0 ∧ r.index = 0 ∧ r.ovf = false ∧
    r.value = (sum32 (vs.map Fmt.fp32.encode)).bits ∧ (r.nonfin = true ↔ ∃ x ∈ vs, Val.isFinite x = false) ∧
    r.nan = Val.isNan (Fmt.fp32.decode r.value)) ∧
  (func = 1 → r = xsum sx vs) ∧
  (2 ≤ func → r.isum = 0 ∧ r.ovf = false ∧ r.nonfin = false ∧ (func ≠ 4 → r.index = 0) ∧
    ((∀ x ∈ vs, Val.isNan x = false) → r.nan = false ∧ ∃ j b, vs[j]? = some b ∧ r.value = redValue t b ∧
      (func = 4 → r.index = j) ∧
      ∀ k x, vs[k]? = some x → (if func = 3 then above b x else above x b) = false ∧
        (k < j → (if func = 3 then above x b else above b x) = true)) ∧
    (∀ j, vs[j]? = some FVal.nan → (∀ k x, k < j → vs[k]? = some x → Val.isNan x = false) →
      r.nan = true ∧ r.value = 0x7FC00000 ∧ (func = 4 → r.index = j)))

/-- Elements `0 .. n-1` of the destination (a register, or `size` bytes each in memory) hold results `res` allows, and the rest of
the registers and of memory is as it was (R176, R178, R180). -/
def ElementsWritten (s u : State) (d addr size n : Nat) (res : Nat → Nat → Prop) : Prop :=
  (d < 8 → (∀ i, i < n → ∃ r, Tbl.get 0#32 u.ve.vregs (d * 2048 + i) = BitVec.ofNat 32 r ∧ res i r) ∧
    (∀ k, k < d * 2048 ∨ d * 2048 + n ≤ k → Tbl.get 0#32 u.ve.vregs k = Tbl.get 0#32 s.ve.vregs k) ∧
    u.mem.mem = s.mem.mem) ∧
  (d = 8 → (∀ i, i < n → res i (u.mem.mem.readLE (addr + i * size) size)) ∧
    (∀ a, a < addr ∨ addr + n * size ≤ a → u.mem.mem.read a = s.mem.mem.read a) ∧ u.ve.vregs = s.ve.vregs)

/-- The vector engine is done with the command `x`, which has completed; its programs are as they were. -/
def VeEnded (s u : State) (x : VeCmd) (rest : List VeCmd) : Prop :=
  u.ve.inflight = rest ∧ QueueCompleted s u 4 x.seq ∧ u.ve.progs = s.ve.progs ∧ u.ve.pvalid = s.ve.pvalid ∧
  u.engines = s.engines

/-- The context `i` may have changed; every other stream context is as it was. -/
def ContextsKept (s u : State) (i : Nat) : Prop := ∀ j, j ≠ i → u.ctx j = s.ctx j

/-- Context `id` is served next, and only the transfer at its position is still to be judged: it is RUNNING in a good block
`d`, has outstanding transfers to spare, and nothing holds it (R210, R213, R216, R224, R225, R235). -/
def StreamServed (s : State) (id : Nat) (d : BlockDesc) : Prop :=
  s.pins.alive = true ∧ (∃ rest, s.se.order = id :: rest) ∧ 64 ≤ id ∧ (s.ctx id).state = .running ∧ (s.ctx id).halt = none ∧
  (s.ctx id).desc = some d ∧ d.bad = none ∧ (s.ctx id).iblk < (s.ctx id).nblk ∧ (s.ctx id).pauseAt = none ∧
  s.journal.freeze = false ∧ s.se.wait = none ∧ (∀ w ∈ s.se.walks, w.ctx ≠ id) ∧ (s.ctx id).ioff < d.total ∧
  (s.se.outOf id).length < (s.ctx id).limit ∧ s.se.xfers.length < Config.xferLimit

/-- At offset `off` of block `d` the bytes `src`, of which `left` remain in the row, go to `dst`: of a COPY or a ZERO by its
strides, of a KVGATHER by the page that its page list, in local memory, names there (R213, R228-R230). -/
def PieceAt (s : State) (id : Nat) (d : BlockDesc) (off src dst left : Nat) : Prop :=
  (d.kv = false ∧ src = (d.src.toNat + off / d.rowlen * d.sstride + off % d.rowlen) % 2 ^ 64 ∧
    dst = (d.dst.toNat + off / d.rowlen * d.dstride + off % d.rowlen) % 2 ^ 64 ∧ left = d.rowlen - off % d.rowlen) ∨
  (d.kv = true ∧ ∃ k base tok entry page, slotAt d.rowlen d.slots 0 off = some (k, base) ∧ tok = (off - base) / d.rowlen ∧
    entry = (k.plist.toNat + 8 * (tok / d.tpp)) % 2 ^ 64 ∧ entry + 8 ≤ 0x200000 ∧
    s.may (streamMaster id) .loc false = true ∧ s.mem.badIn entry 8 = none ∧
    page = (s.mem.mem.readLE entry 8 + d.sstride) % 2 ^ 64 ∧ page % 16 = 0 ∧ page + d.tpp * d.rowlen ≤ 0x200000 ∧
    page < 0x200000 ∧ src = page + tok % d.tpp * d.rowlen + (off - base) % d.rowlen ∧
    dst = (d.dst.toNat + k.i * d.dstride + tok * d.rowlen) % 2 ^ 64 + (off - base) % d.rowlen ∧
    left = d.rowlen - (off - base) % d.rowlen)

/-- The engine has issued the transfer `x`, the far request `req` with it if there is one, and the position of its context is
past it; local memory and the core are as they were (R214). -/
def StreamIssued (s u : State) (d : BlockDesc) (x : Xfer) (req : List FarReq) : Prop :=
  u.se.xfers = s.se.xfers ++ [x] ∧ u.far = s.far ++ req ∧ u.mem.mem = s.mem.mem ∧ u.core = s.core ∧
  (x.off + x.len < d.total → (u.ctx x.ctx).iblk = x.blk ∧ (u.ctx x.ctx).ioff = x.off + x.len) ∧
  (d.total ≤ x.off + x.len → (u.ctx x.ctx).iblk = x.blk + 1 ∧ (u.ctx x.ctx).ioff = 0) ∧
  (u.ctx x.ctx).state = .running ∧ (u.ctx x.ctx).delivered = (s.ctx x.ctx).delivered ∧ ContextsKept s u x.ctx

/-- The transfer `x` has ended well. If it was the last of the lowest incomplete block, the block is delivered; while another of
that block is out, DELIVERED stays (R214). -/
def TransferDone (s u : State) (x : Xfer) : Prop :=
  let c := s.ctx x.ctx
  u.se.xfers = s.se.xfers.erase x ∧
  (s.se.wait = none → ContextsKept s u x.ctx ∧
    (c.halt = none → c.cur = x.blk → c.iblk = x.blk + 1 → s.se.outOf x.ctx = [x] →
      (u.ctx x.ctx).delivered = c.delivered + 1#32 ∧ (u.ctx x.ctx).cur = x.blk + 1) ∧
    ((∃ y ∈ (s.se.outOf x.ctx).erase x, y.blk = c.cur) →
      (u.ctx x.ctx).delivered = c.delivered ∧ (u.ctx x.ctx).cur = c.cur))

/-- The transfer `x`, the only one its context has out, has failed: the context stops there in FAULT with `code` and this address,
and is reported; the other contexts and local memory are as they were (R215, R227). -/
def TransferFailed (s u : State) (x : Xfer) (code : Half) (faddr : DWord) : Prop :=
  u.se.xfers = s.se.xfers.erase x ∧ u.mem.mem = s.mem.mem ∧
  (s.se.wait = none → (s.ctx x.ctx).state = .running → (s.ctx x.ctx).halt = none → s.se.outOf x.ctx = [x] →
    (s.ctx x.ctx).cur = x.blk →
    (u.ctx x.ctx).state = .fault ∧ (u.ctx x.ctx).fcode = code ∧ (u.ctx x.ctx).faddr = faddr ∧
    (u.ctx x.ctx).cur = x.blk ∧ (u.ctx x.ctx).offset = x.off ∧ (u.ctx x.ctx).delivered = (s.ctx x.ctx).delivered ∧
    ContextsKept s u x.ctx ∧ u.se.fValid = true ∧ (s.se.fValid = false → u.se.fCode = code ∧ u.se.fAddr = faddr))

/-- The walk of `addr` through the page tables of `s` reads the entry `e` at address `entry` on its level `n`: every entry
before it is valid and no leaf, and all of them can be read by master 0x52 (R221, R222, R449). -/
def WalkReads (s : State) (far : FarReply) (addr n entry e : Nat) : Prop :=
  let idx := fun k => match k with
    | 0 => fld 56 48 addr
    | 1 => fld 47 39 addr
    | 2 => fld 38 30 addr
    | 3 => fld 29 21 addr
    | _ => fld 20 16 addr
  ∃ (es : Nat → Nat) (at_ : Nat → Nat), at_ 0 = s.se.ptroot.toNat + 8 * idx 0 ∧
    (∀ k, k < n → at_ (k + 1) = fld 56 8 (es k) * 256 + 8 * idx (k + 1) ∧ pteValid k (es k) = true ∧
      bit 62 (es k) = false ∧ es k = ofLE (replyBytes far (at_ k) 8) ∧ s.farMay 0x52 (at_ k) 8 false = true ∧
      farErrIn far (at_ k) 8 = .ok) ∧
    n < 5 ∧ entry = at_ n ∧ e = ofLE (replyBytes far entry 8)

/-- The context of walk `w`, with no transfer out, has halted in `st` with `code` at the walk's place; the other contexts, the TLB
and local memory are as they were (R225, R227). -/
def WalkHalted (s u : State) (w : Walk) (st : CtxState) (code : Half) (faddr : Nat) : Prop :=
  (u.ctx w.ctx).state = st ∧ (u.ctx w.ctx).fcode = code ∧ (u.ctx w.ctx).faddr = BitVec.ofNat 64 faddr ∧
  (u.ctx w.ctx).cur = w.blk ∧ (u.ctx w.ctx).offset = w.off ∧ ContextsKept s u w.ctx ∧ u.mem = s.mem

/-- The send `d`, taken as the command `c` of queue 7, has met its credit entry: a STALE one completes it unsent and is recorded;
through a GATHER entry, or a DATA entry with credit for it and nothing parked, it is released with its header, the DATA entry
being charged, and holds the send port for its flits; else it is parked (R240, R253, R255, R295). -/
def SendMet (s u : State) (c : QueueCmd) (d : Send) : Prop :=
  let e := s.entryOf d.entry
  let gone := fun (w1 : DWord) (exact : Option Int) =>
    u.sched.sends = s.sched.sends ++ [{ d with
      w0 := headWord d.lane (if e.gather then Kind.gather else Kind.data) e.epoch s.gaffer.domain.toNat e.dtag e.dlcid e.dchip
      w1 := w1, exact := exact }] ∧
    u.sched.portNc = max (2 * s.beat) s.sched.portNc + d.n ∧ u.rings.parked = s.rings.parked ∧
    u.queue 7 = (s.take 7 c).queue 7
  (e.stale = true → u.sched.sends = s.sched.sends ∧ u.rings.parked = s.rings.parked ∧ u.rings.credit = s.rings.credit ∧
    u.rings.stat.getLsbD 10 = true ∧ u.rings.staleValid = true ∧
    (s.rings.staleValid = false → u.rings.staleEntry = BitVec.ofNat 11 d.entry) ∧
    u.queue 7 = ((s.take 7 c).complete 7 c.seq).queue 7) ∧
  (e.stale = false → e.gather = true → u.rings.credit = s.rings.credit ∧
    (e.gmode ≠ 2 → gone (BitVec.ofNat 64 (e.gmode * 2 ^ 49 + d.len * 2 ^ 40 + d.cid * 2 ^ 28 + d.slot * 2 ^ 16 + 1)) none) ∧
    (e.gmode = 2 → gone (BitVec.ofNat 64
      (e.sx * 2 ^ 53 + 2 * 2 ^ 49 + d.len * 2 ^ 40 + d.cid * 2 ^ 28 + d.slot * 2 ^ 16 + 1)) (some (sext 8 e.sx)))) ∧
  (e.stale = false → e.gather = false → s.rings.parkedOn d.entry = 0 → d.n ≤ e.credit →
    gone (BitVec.ofNat 64 (d.len * 2 ^ 40 + d.entry * 2 ^ 23 + s.ownLcid * 2 ^ 12 + s.router.chip.toNat)) none ∧
    u.entryOf d.entry = { e with credit := e.credit - d.n } ∧ ∀ k, k ≠ d.entry → k < 2048 → u.entryOf k = s.entryOf k) ∧
  (e.stale = false → e.gather = false → (s.rings.parkedOn d.entry ≠ 0 ∨ e.credit < d.n) →
    u.rings.parked = s.rings.parked ++ [d] ∧ u.rings.credit = s.rings.credit ∧ u.sched.sends = s.sched.sends ∧
    u.queue 7 = (s.take 7 c).queue 7) ∧
  (∀ q, q ≠ 7 → u.queue q = s.queue q) ∧ u.mem = s.mem ∧ u.rings.store = s.rings.store ∧ u.sched.held = none ∧
  u.sched.windows = s.sched.windows

/-- The send that an MSEND or XSEND names, its header still to be built (R253). -/
def sendNamed (c : QueueCmd) (e : Credit) : Send :=
  { seq := some c.seq, opc := BitVec.ofNat 8 c.opc, entry := fld 18 8 (c.reg 0)
    lane := if bit 19 (c.reg 0) then Lane.bulk else Lane.exch
    len := fld 28 20 (c.reg 0), slot := fld 40 29 (c.reg 0), cid := fld 52 41 (c.reg 0), w0 := 0#64, w1 := 0#64
    src := .memory (fld 31 0 (c.reg 1)) (fld 28 20 (c.reg 0) * (if e.gather && e.gmode = 2 then 8 else 16)), exact := none
    n := (fld 28 20 (c.reg 0) + 4) / 4 }

/-- The REVOKE of ring `t` with epoch `e` (R240, R267). -/
def revokeMessage (s : State) (t e : Nat) : Message :=
  { w0 := headWord Lane.ctrl Kind.revoke e s.gaffer.domain.toNat 0 0x7FF s.router.chip.toNat
    w1 := BitVec.ofNat 64 (t * 2 ^ 23 + s.ownLcid * 2 ^ 12 + s.router.chip.toNat), payload := [] }

/-- The CREDIT of `n` granules that a ring of epoch `e` returns to the source `key`: its SCHIP, SLCID and SENT (R240, R257). -/
def creditMessage (s : State) (e key n : Nat) : Message :=
  { w0 := headWord Lane.ctrl Kind.credit e s.gaffer.domain.toNat 0 (key / 2 ^ 11 % 2 ^ 11) (key / 2 ^ 22)
    w1 := BitVec.ofNat 64 (n * 2 ^ 11 + key % 2 ^ 11), payload := [] }

/-- The source of a stored DATA message, from bytes 8-15 of its header. -/
def sourceKey (w1 : Nat) : Nat := fld 11 0 w1 * 2 ^ 22 + fld 22 12 w1 * 2 ^ 11 + fld 33 23 w1

/-- The unread messages of ring `r` from distance `d` to distance `goal` past RPTR have these bytes 8-15 in their headers
(R248, R257). -/
def UnreadHeaders (s : State) (r : Ring) (goal : Nat) : Nat → List Nat → Prop
  | d, [] => d = goal
  | d, w :: ws => d < goal ∧ w = s.mem.mem.readLE (r.base + 64 * ((r.rptr + d) % r.size) + 8) 8 ∧
      UnreadHeaders s r goal (d + (fld 48 40 w + 4) / 4) ws

/-- What the checks of R247 say of message `m` at ring `t`, in their order: the code of the first that fails and its bit of
RG_STAT, or none. -/
def RingVerdict (s : State) (m : Message) (t : Nat) (v : Option (Half × Nat)) : Prop :=
  let r := s.ring t
  let waiting := ((s.rings.writes.filter fun w => w.tag == t).map (·.n)).foldl (· + ·) 0
  let word := if r.gmode = 0 then 4 else if r.gmode = 1 then 2 else 8
  let fits := Msg.kind m = Kind.gather ∧ Msg.slot m < r.nslot ∧ Msg.gmode m = r.gmode ∧ Msg.sx m = r.sx ∧
    Msg.len m * 16 = r.elem * word
  let room := (r.wptr + waiting + 2 ^ 32 - r.rptr) % 2 ^ 32 + (Msg.len m + 4) / 4 ≤ r.size
  if r.state ≠ RingState.opened then v = some (Code.ringClosed, 1)
  else if Msg.epoch m ≠ r.epoch then v = some (Code.staleCredit, 2)
  else if Msg.domain m ≠ r.domain ∨ s.may (0x10 + Msg.domain m) .ring true = false then v = some (Code.accessDenied, 3)
  else if r.type = RingType.plain then
    (Msg.kind m ≠ Kind.data → v = some (Code.badParam, 5)) ∧
    (Msg.kind m = Kind.data → ¬ room → v = some (Code.creditOverrun, 4)) ∧ (Msg.kind m = Kind.data → room → v = none)
  else (fits → v = none) ∧ (¬ fits → v = some (Code.badParam, 5))

/-- The message has been discarded for ring `t` (R247). -/
def MessageDiscarded (s u : State) (t : Nat) (code : Half) (statBit : Nat) : Prop :=
  u.rings.disc = satAdd s.rings.disc 1 ∧ u.rings.stat.getLsbD statBit = true ∧ u.rings.dValid = true ∧
  (s.rings.dValid = false → u.rings.dCode = code ∧ u.rings.dTag = BitVec.ofNat 13 t) ∧
  u.rings.writes = s.rings.writes ∧ u.rings.store = s.rings.store ∧ u.rings.rx = s.rings.rx ∧ u.mem = s.mem

/-- The next message of a kind at the local output is `i`, `rest` staying, and nothing holds it: no freeze, and room in the
journal (R400, R409). -/
def NextMessage (s : State) (kind : Nat) (i : Inbound) (rest : List Inbound) : Prop :=
  s.pins.alive = true ∧ s.journal.freeze = false ∧ s.jroom i.msg = true ∧
    s.router.pick (fun m => Msg.kind m == kind) = some (i, rest)

/-- XY routing at router `own` toward another router `dst` uses output `o`: E or W until the column fits, then N or S (R306,
R314). -/
def XyOutput (own dst o : Nat) : Prop :=
  (own % 64 < dst % 64 ∧ o = 1) ∨ (dst % 64 < own % 64 ∧ o = 3) ∨
  (own % 64 = dst % 64 ∧ dst / 64 < own / 64 ∧ o = 0) ∨ (own % 64 = dst % 64 ∧ own / 64 < dst / 64 ∧ o = 2)

/-- The message `m` that came by `input` waits at the local output with the stamp of this beat; its flits have left a mesh input,
whose credits for them go back (R300, R309). -/
def ReachedHere (s u : State) (input : Nat) (m : Message) : Prop :=
  u.router.inbox = s.router.inbox ++
    [{ msg := m, stamp := s.lehr.lc, beat := s.beat, port := input, journalled := false, marked := false }] ∧
  (input < 4 → Vec.at (u.port input).owed (Msg.lane m) = Vec.at (s.port input).owed (Msg.lane m) + Msg.flits m) ∧
  (∀ k, (u.port k).outq = (s.port k).outq) ∧ u = { s with router := u.router }

/-- The message `m` is discarded and counted as NO_ROUTE, or as a misroute; the first since the last clear is recorded and reported
(R318). -/
def DiscardCounted (s u : State) (m : Message) (mis : Bool) : Prop :=
  u.router.noroute = satAdd s.router.noroute 1 ∧ u.router.stat.getLsbD (if mis then 1 else 0) = true ∧
  u.router.nrValid = true ∧
  (s.router.nrValid = true → u.router.nrMis = s.router.nrMis ∧ u.router.nrLcid = s.router.nrLcid ∧
    u.router.nrChip = s.router.nrChip ∧ u.gaffer = s.gaffer) ∧
  (s.router.nrValid = false → u.router.nrMis = mis ∧ u.router.nrLcid.toNat = Msg.dlcid m ∧ u.router.nrChip.toNat = Msg.dchip m ∧
    (s.gaffer.eventCount < Config.eventDepth → ∃ e, u.gaffer = { s.gaffer with outq := s.gaffer.outq ++ [.event e] } ∧
      e.code = 0x0404#16 ∧
      e.detail = [BitVec.ofNat 32 (2 ^ 31 + (if mis then 2 ^ 30 else 0) + Msg.dlcid m * 2 ^ 12 + Msg.dchip m)])) ∧
  u.router.inbox = s.router.inbox ∧ (∀ k, (u.port k).outq = (s.port k).outq) ∧
  u = { s with router := u.router, raised := u.raised, gaffer := u.gaffer }

/-- The message `m` of the `input` joins the flits that wait at output `o`, still held by that input if `held`. -/
def QueuedAt (s u : State) (o input : Nat) (held : Bool) (m : Message) (side : Sideband) : Prop :=
  (u.port o).outq = (s.port o).outq ++ [{ msg := m, side := side, input := input, held := held, left := Msg.flits m }]

/-- The edge port has sent this frame, its CRC over the rest (R326). -/
def FrameSent (u : State) (seq ack : Half) (type : Nat) (slots : List (List Byte × Byte)) : Prop :=
  let f := (u.port 4).sent
  f.length = 272 ∧ leAt f 0 2 = seq.toNat ∧ leAt f 2 2 = ack.toNat ∧ leAt f 4 1 = type ∧
  (∀ k x, slots[k]? = some x → (f.drop (8 + 64 * k)).take 64 = x.1 ∧ f[264 + k]? = some x.2) ∧
  (∀ k, slots.length ≤ k → k < 4 → f[264 + k]? = some 0#8) ∧ leAt f 268 4 = (crc32c (f.take 268)).toNat

/-- LCRED of a frame that port `x` sends: the credits it owes, at most 15 a lane (R326). -/
def LcredIs (f : List Byte) (x : Port) : Prop :=
  ∀ l, l < 4 → leAt f 6 2 / 16 ^ l % 16 = min 15 (Vec.at x.owed l)

/-- The HELLO record of this cluster (R329). -/
def HelloIs (s : State) (r : List Byte) : Prop :=
  r.length = 64 ∧ leAt r 0 2 = s.router.chip.toNat ∧ leAt r 2 2 = s.router.pid.toNat ∧
  leAt r 4 2 = (if s.router.lvalid then 2 ^ 15 else 0) + s.router.lcid.toNat ∧ leAt r 6 1 = s.gaffer.domain.toNat ∧
  leAt r 7 1 = 2 * 16 + s.router.link.cap.toNat ∧ leAt r 8 1 = hwVersion ∧ leAt r 10 2 = s.gaffer.fw.toNat

/-- The partner that a HELLO names can work with this cluster: mesh M1 or M2, edge E1 to E3, hardware 1 or 2 (R330). -/
def HelloFits (r : List Byte) : Prop :=
  (leAt r 7 1 / 16 = 1 ∨ leAt r 7 1 / 16 = 2) ∧ 1 ≤ leAt r 7 1 % 16 ∧ leAt r 7 1 % 16 ≤ 3 ∧
  (leAt r 8 1 / 16 = 1 ∨ leAt r 8 1 / 16 = 2)

/-- The partner entry of a port shows what the HELLO record says (R329, R331). -/
def PartnerIs (y : Port) (r : List Byte) : Prop :=
  y.chip = BitVec.ofNat 12 (leAt r 0 2) ∧ y.pid = BitVec.ofNat 11 (leAt r 2 2) ∧ y.lvalid = (leAt r 4 2).testBit 15 ∧
  y.lcid = BitVec.ofNat 11 (leAt r 4 2) ∧ y.domain = BitVec.ofNat 6 (leAt r 6 1) ∧ y.gens = BitVec.ofNat 8 (leAt r 7 1) ∧
  y.hw = BitVec.ofNat 8 (leAt r 8 1) ∧ y.fw.toNat = leAt r 10 2

/-- The HELLO names another partner than the one port `x` had (R330). -/
def NewPartner (x : Port) (r : List Byte) : Prop :=
  x.changed = true ∨ (x.hadPartner = true ∧
    (x.chip ≠ BitVec.ofNat 12 (leAt r 0 2) ∨ x.pid ≠ BitVec.ofNat 11 (leAt r 2 2) ∨ x.hw ≠ BitVec.ofNat 8 (leAt r 8 1)))

/-- These events follow those that wait; each carries its code and its first detail word, the port. -/
def PortEvents (s u : State) (p : Nat) (codes : List Half) : Prop :=
  s.gaffer.eventCount + codes.length ≤ Config.eventDepth →
    ∃ es : List Event, u.gaffer.outq = s.gaffer.outq ++ es.map .event ∧ es.map (·.code) = codes ∧
      ∀ e ∈ es, e.detail.head? = some (BitVec.ofNat 32 p)

/-- Port `p`, none of whose messages was being received, has left the link: it sends and owes nothing, the messages partly sent are
truncated, those that waited need a port that is not UP, and both are counted (R318, R325, R331). -/
def PortFell (s u : State) (p : Nat) : Prop :=
  let x := s.port p
  let y := u.port p
  let cut := (x.outq.filter fun o => decide (o.left < Msg.flits o.msg)).length
  let waiting := (x.outq.filter fun o => decide (o.left = Msg.flits o.msg)).length
  y.outq = [] ∧ y.pvalid = false ∧ y.helloSent = false ∧ y.credits = #v[4, 16, 16, 16] ∧ y.owed = #v[0, 0, 0, 0] ∧
  y.drop.toNat = min 0xFFFFFFFF (x.drop.toNat + cut + waiting) ∧
  u.router.noroute.toNat = min 0xFFFFFFFF (s.router.noroute.toNat + waiting) ∧
  (0 < cut → u.router.stat.getLsbD 2 = true) ∧ (0 < waiting → u.router.stat.getLsbD 0 = true) ∧
  u.router.inbox = s.router.inbox ∧ u.router.txq = s.router.txq ∧
  (∀ k, k ≠ p → (u.port k).state = (s.port k).state ∧ (u.port k).credits = (s.port k).credits ∧
    (u.port k).outq.map OutMsg.msg = (s.port k).outq.map OutMsg.msg) ∧
  u.journal = { s.journal with stat := u.journal.stat } ∧
  u = { s with router := u.router, raised := u.raised, gaffer := u.gaffer, journal := u.journal }

/-- A LEHR_FAULT of this cause has been recorded, if none was, with the difference saturated to 16 bits, reported and written to the
kiln (R274, R275, R304). -/
def LehrFaulted (s u : State) (cause : BitVec 2) (diff : Int) : Prop :=
  ∃ e k, u.lehr.lfault = true ∧ u.lehr.lfValid = true ∧
    (s.lehr.lfValid = false → u.lehr.lfCause = cause ∧ u.lehr.lfDiff.toInt = max (-32768) (min 32767 diff)) ∧
    (s.lehr.lfValid = true → u.lehr.lfCause = s.lehr.lfCause ∧ u.lehr.lfDiff = s.lehr.lfDiff) ∧
    u.gaffer.outq = s.gaffer.outq ++ [.event e] ∧ e.code = 0x0303#16 ∧
    u.gaffer.kiln = s.gaffer.kiln ++ [k] ∧ leAt k 12 2 = 0x0303 ∧
    u = { s with lehr := u.lehr, gaffer := u.gaffer, raised := u.raised }

/-- Nothing is being received on port `p`: a mesh input holds every flit of its messages, no edge message is incomplete. -/
def NothingArriving (s : State) (p : Nat) : Prop :=
  (p < 4 → ∀ l, l < 4 → s.router.receiving p l = none) ∧ (p = 4 → s.router.link.partials = [])

/-- Every far request of `u` that `s` does not have writes a piece of `page` at `addr` as master 0x50, and every piece of at most
256 bytes is such a request or waits in the snapshot's list (R399, R463). -/
def PageGoesOut (s u : State) (addr : Nat) (page : List Byte) : Prop :=
  (∀ r ∈ u.far, r ∈ s.far ∨
    (r.write = true ∧ r.mid = 0x50#7 ∧ (r.addr, r.data) ∈ pieces addr (page.length / 16 + 1) page)) ∧
  ∀ x ∈ pieces addr (page.length / 16 + 1) page,
    .bytes x.1 x.2 ∈ u.journal.snapTodo ∨ ∃ r ∈ u.far, r.write = true ∧ (r.addr, r.data) = x

/-- The far writes `rs` carry the bytes `bs` to `addr` on, in order, none across a 256-byte boundary (R463). -/
def WritesOut (rs : List FarReq) (mid : Master) (addr : Nat) (bs : List Byte) : Prop :=
  rs.flatMap FarReq.data = bs ∧
  ∀ k q, rs[k]? = some q → q.write = true ∧ q.mid = mid ∧ q.len = q.data.length ∧
    q.addr = addr + ((rs.take k).flatMap FarReq.data).length ∧ q.addr % 256 + q.len ≤ 256

/-- The header page of the snapshot that is being taken, with COMPLETE as given (R404). -/
def HeaderPage (s : State) (complete : Bool) (page : List Byte) : Prop :=
  ∀ id bank bid gen jseq, s.journal.snapNow = some (id, bank, bid, gen, jseq) →
    page.length = 4096 ∧ leAt page 0 4 = 0x20000 ∧ leAt page 4 4 = s.journal.snapSeq.toNat ∧ leAt page 8 8 = id.toNat ∧
    leAt page 16 2 = s.router.chip.toNat ∧ leAt page 18 2 = s.ownLcid ∧ leAt page 20 1 = s.gaffer.domain.toNat ∧
    leAt page 21 1 = (if bank then 1 else 0) ∧
    leAt page 22 1 = (if complete then 1 else 0) + (if s.tier.det then 2 else 0) ∧ leAt page 23 1 = bid % 256 ∧
    leAt page 24 2 = gen.toNat ∧
    leAt page 26 2 = ((List.range 8192).filter fun t => decide ((s.ring t).state ≠ RingState.closed)).length ∧
    leAt page 28 4 = jseq.toNat ∧ leAt page 32 64 = s.journal.live.toNat ∧ (∀ k, 96 ≤ k → k < 124 → page[k]? = some 0#8) ∧
    leAt page 124 4 = (crc32c (page.take 124)).toNat ∧ ∀ k, 128 ≤ k → k < 4096 → page[k]? = some 0#8

/-- The first condition of R398 that fails, 0 for none. -/
def SnapRefusal (s : State) (cause : Nat) : Prop :=
  let c1 := s.journal.snapBase = 0#64 ∨ s.journal.size = 0#16
  let c2 := ∃ q, q < 7 ∧ ((s.queue q).entries ≠ [] ∨ (s.queue q).issued ≠ (s.queue q).completed)
  let c3 := (s.queue 7).entries ≠ []
  let c4 := ∃ e t, e < 4 ∧ t < 32 ∧ Vec.at (s.me e).valid t ≠ 0#32
  let c5 := ∃ p ∈ s.se.ctxs, 64 ≤ p.1 ∧ (p.2.state = .running ∨ p.2.state = .pageHalt)
  let c6 := ∃ p ∈ s.marver.shards, p.2.state ≠ .empty ∧ p.2.state ≠ .idle
  let c7 := s.rings.parked ≠ []
  (c1 ∧ cause = 1) ∨ (¬ c1 ∧ c2 ∧ cause = 2) ∨ (¬ c1 ∧ ¬ c2 ∧ c3 ∧ cause = 3) ∨ (¬ c1 ∧ ¬ c2 ∧ ¬ c3 ∧ c4 ∧ cause = 4) ∨
  (¬ c1 ∧ ¬ c2 ∧ ¬ c3 ∧ ¬ c4 ∧ c5 ∧ cause = 5) ∨ (¬ c1 ∧ ¬ c2 ∧ ¬ c3 ∧ ¬ c4 ∧ ¬ c5 ∧ c6 ∧ cause = 6) ∨
  (¬ c1 ∧ ¬ c2 ∧ ¬ c3 ∧ ¬ c4 ∧ ¬ c5 ∧ ¬ c6 ∧ c7 ∧ cause = 7) ∨
  (¬ c1 ∧ ¬ c2 ∧ ¬ c3 ∧ ¬ c4 ∧ ¬ c5 ∧ ¬ c6 ∧ ¬ c7 ∧ cause = 0)

/-- A snapshot that was being taken into `bank` is abandoned: no freeze, its bank all dirty, SABN and its event (R402). -/
def SnapAbandoned (s u : State) (bank : Bool) : Prop :=
  u.journal.snapNow = none ∧ u.journal.snapBusy = false ∧ u.journal.freeze = false ∧
  (bank = false → u.journal.dirty0 = BitVec.allOnes 512 ∧ u.journal.dirty1 = s.journal.dirty1) ∧
  (bank = true → u.journal.dirty1 = BitVec.allOnes 512 ∧ u.journal.dirty0 = s.journal.dirty0) ∧
  u.journal.stat.getLsbD 4 = true ∧ u.journal.rcause = 0x10#8 ∧ u.journal.snapValid = s.journal.snapValid ∧
  u.journal.snapId = s.journal.snapId ∧ u.journal.retain = s.journal.retain ∧
  (s.gaffer.eventCount < Config.eventDepth → ∃ e, u.gaffer.outq = s.gaffer.outq ++ [.event e] ∧ e.code = 0x0704#16) ∧
  u.core = s.core ∧ u.mem = s.mem ∧ u.rings = s.rings

/-- A replay has failed with this cause: every task that was not FREE is HALTED, every queue stopped, STATE FAILED, RMIS, the event
and the kiln record (R424). -/
def ReplayFailed (s u : State) (cause : Nat) : Prop :=
  u.journal.rstate = .failed ∧ u.journal.cause.toNat = cause ∧ u.journal.stat.getLsbD 5 = true ∧
  (∀ t, t < 32 → (u.task t).state = if (s.task t).state = .free then .free else .halted) ∧
  (∀ q, q < 8 → (u.queue q).stopped = true) ∧
  (s.gaffer.eventCount < Config.eventDepth → ∃ e, .event e ∈ u.gaffer.outq ∧ e.code = 0x0702#16 ∧
    e.detail.head? = some (BitVec.ofNat 32 cause)) ∧
  (s.gaffer.kiln.length < Config.kilnDepth → ∃ k, u.gaffer.kiln = s.gaffer.kiln ++ [k] ∧ leAt k 12 2 = 0x0702) ∧
  u.mem = s.mem ∧ u.rings = s.rings

/-- No transfer of the far read of `[a, a+n)` has failed (R463). -/
def FarGood (far : FarReply) (a n : Nat) : Prop := ∀ e ∈ far.errs, a ≤ e.1 → e.1 < a + n → e.2 = .ok

/-- `p` is the packet that the bytes `b` spell: CP1 with VER 1, CP2 otherwise (R434, R435). -/
def PacketIs (b : List Byte) (p : Packet) : Prop :=
  p.ver = leAt b 0 1 ∧ p.opc = leAt b 1 1 ∧
  (p.ver = 1 → p.tag = leAt b 2 1 ∧ p.src = leAt b 3 1 ∧ p.ws.length = leAt b 4 1 ∧
    (∀ i, i < p.ws.length → p.w i = leAt b (12 + 4 * i) 4) ∧ (p.headZero = true ↔ leAt b 5 3 = 0)) ∧
  (p.ver ≠ 1 → p.tag = leAt b 2 2 ∧ p.src = leAt b 4 1 ∧ p.ws.length = leAt b 6 2 ∧
    (∀ i, i < p.ws.length → p.w i = leAt b (16 + 4 * i) 4) ∧ (p.headZero = true ↔ leAt b 5 1 = 0 ∧ leAt b 8 4 = 0))

/-- The length of the bytes `b` of the port's packet `p` agrees with LEN, at most 260 words in all, and its CRC is right (R434-R436,
R464). -/
def PacketIntact (b : List Byte) (p : Packet) : Prop :=
  b.length ≤ 1040 ∧
  (p.ver = 1 → b.length = 12 + 4 * p.ws.length ∧ leAt b 8 4 = (crc32c (b.take 8 ++ b.drop 12)).toNat) ∧
  (p.ver ≠ 1 → b.length = 16 + 4 * p.ws.length ∧ leAt b 12 4 = (crc32c (b.take 12 ++ b.drop 16)).toNat)

/-- The class bit of an opcode (R437, R449): 0 for R, 1 for W, 2 for X, 3 for C. -/
def ClassBit (p : Packet) (k : Nat) : Prop :=
  let clr := (p.opc = 0x11 ∧ (p.w 0).testBit 8 = true) ∨ (p.opc = 0x12 ∧ (p.w 0).testBit 16 = true)
  (k = 0 ∧ (p.opc ∈ [0x01, 0x0E, 0x14] ∨ (p.opc ∈ [0x11, 0x12] ∧ ¬ clr))) ∨
  (k = 1 ∧ (p.opc ∈ [0x0D, 0x10, 0x15] ∨ clr)) ∨ (k = 2 ∧ p.opc ∈ [0x04, 0x05, 0x06]) ∨
  (k = 3 ∧ p.opc ∈ [0x02, 0x03, 0x07, 0x08, 0x09, 0x0A, 0x0B, 0x0C, 0x0F, 0x13])

/-- What checks 1-6 say of the port's packet `p` of the bytes `b`: the code of the first that fails, 0 for none (R432, R436). -/
def PacketVerdict (s : State) (b : List Byte) (p : Packet) (code : Half) : Prop :=
  let c1 := ¬ PacketIntact b p
  let c2 := (p.ver ≠ 1 ∧ p.ver ≠ 2) ∨ (p.ver = 1 ∧ p.opc ∈ [0x0B, 0x0C, 0x12, 0x14, 0x15])
  let c3 := p.src = 0 ∨ 0x0F < p.src
  let c4 := p.opc = 0 ∨ 0x15 < p.opc
  let c5 := ∀ k, ClassBit p k → (s.entry p.src).testBit (16 + k) = false
  let c6 := p.paramsOk = false
  (c1 ∧ code = 0x0108#16) ∨ (¬ c1 ∧ c2 ∧ code = 0x0106#16) ∨ (¬ c1 ∧ ¬ c2 ∧ c3 ∧ code = 0x0104#16) ∨
  (¬ c1 ∧ ¬ c2 ∧ ¬ c3 ∧ c4 ∧ code = 0x0101#16) ∨ (¬ c1 ∧ ¬ c2 ∧ ¬ c3 ∧ ¬ c4 ∧ c5 ∧ code = 0x0104#16) ∨
  (¬ c1 ∧ ¬ c2 ∧ ¬ c3 ∧ ¬ c4 ∧ ¬ c5 ∧ c6 ∧ code = 0x0102#16) ∨
  (¬ c1 ∧ ¬ c2 ∧ ¬ c3 ∧ ¬ c4 ∧ ¬ c5 ∧ ¬ c6 ∧ code = 0x0000#16)

/-- The reply of these bytes: CP1 or CP2, the opcode with bit 7 set, TAG and SRC echoed, FINAL in CP2 as given, STATUS, the result words
and the CRC (R434-R436). -/
def ReplyIs (b : List Byte) (r : ReplyTo) (final : Bool) (status : Half) (ws : List Nat) : Prop :=
  leAt b 1 1 = r.opc.toNat % 128 + 128 ∧
  (r.cp1 = true → b.length = 12 + 4 * ws.length ∧ leAt b 0 1 = 1 ∧ leAt b 2 1 = r.tag.toNat % 256 ∧ leAt b 3 1 = r.src.toNat ∧
    leAt b 4 2 = status.toNat ∧ leAt b 6 1 = ws.length ∧ leAt b 7 1 = 0 ∧
    (∀ i, i < ws.length → leAt b (12 + 4 * i) 4 = ws.getD i 0) ∧ leAt b 8 4 = (crc32c (b.take 8 ++ b.drop 12)).toNat) ∧
  (r.cp1 = false → b.length = 16 + 4 * ws.length ∧ leAt b 0 1 = 2 ∧ leAt b 2 2 = r.tag.toNat ∧ leAt b 4 1 = r.src.toNat ∧
    leAt b 5 1 = (if final then 2 else 0) ∧ leAt b 6 2 = ws.length ∧ leAt b 8 2 = status.toNat ∧ leAt b 10 2 = 0 ∧
    (∀ i, i < ws.length → leAt b (16 + 4 * i) 4 = ws.getD i 0) ∧ leAt b 12 4 = (crc32c (b.take 12 ++ b.drop 16)).toNat)

/-- The packet `p` of the port has been answered, behind what waits there, with this status and these words. -/
def Replied (s u : State) (p : Packet) (status : Half) (ws : List Nat) : Prop :=
  ∃ b, u.gaffer.outq = s.gaffer.outq ++ [.reply b false] ∧
    ReplyIs b ⟨.port, p.ver == 1, BitVec.ofNat 8 p.opc, BitVec.ofNat 16 p.tag, BitVec.ofNat 8 p.src⟩ false status ws

/-- The FINAL reply of an action that a packet of the port has started follows what waits there (R439). -/
def FinalReply (s u : State) (r : ReplyTo) (status : Half) (ws : List Nat) : Prop :=
  r.input = .port → ∃ b, u.gaffer.outq = s.gaffer.outq ++ [.reply b false] ∧ ReplyIs b r true status ws

/-- A firmware image of `len` bytes has its FORMAT, LEN, zero bytes and CRC (R444). -/
def FirmwareWhole (b : List Byte) (len : Nat) : Prop :=
  leAt b 0 4 = 0x20000 ∧ leAt b 8 4 = len ∧ (∀ k, 16 ≤ k → k < 60 → b.getD k 0#8 = 0#8) ∧
  leAt b 60 4 = (crc32c (b.take 60 ++ [0#8, 0#8, 0#8, 0#8] ++ b.drop 64)).toNat

/-- The access of `n` bytes at `a` by master `m` is performed: it lies in a range of the window, is aligned and of a size that the
range takes, the access table grants the right, and the structure takes it (R8, R89, R209, R431, R449, R478-R480). -/
def Permitted (s : State) (m a n : Nat) (write : Bool) : Prop :=
  let bytes := n = 1 ∨ n = 2 ∨ n = 4 ∨ n = 8
  let o := a % 0x1000
  n ≠ 0 ∧ a % n = 0 ∧
  ((a < 0x200000 ∧ bytes ∧ s.may m .loc write = true) ∨
   (0x2000000 ≤ a ∧ a < 0x2080000 ∧ bytes ∧ s.inRun = true ∧ s.may m .reg write = true) ∨
   (0x3000000 ≤ a ∧ a < 0x3040000 ∧ bytes ∧ s.may m .ring write = true) ∨
   (0x3200000 ≤ a ∧ a < 0x3208000 ∧ bytes ∧ s.may m .ring write = true) ∨
   (0x3400000 ≤ a ∧ a < 0x3430000 ∧ bytes ∧ write = false ∧ s.may m .reg write = true) ∨
   (0x3800000 ≤ a ∧ a < 0x3804000 ∧ bytes ∧ s.may m .reg write = true) ∨
   (0x4000000 ≤ a ∧ a < 0x400E000 ∧ n = 4 ∧ (write = true → s.regDenied m ((a - 0x4000000) / 0x1000) o = false) ∧
     (s.may m .reg write = true ∨ (write = true ∧ m = 0x51 ∧ (a - 0x4000000) / 0x1000 = 11 ∧
       (o = 0x02C ∨ (0x080 ≤ o ∧ o < 0x0C0) ∨ (0x100 ≤ o ∧ o < 0x200 ∧ o % 16 < 12))))) ∨
   (0x5000000 ≤ a ∧ a < 0x5001000 ∧ n = 4 ∧ fld 19 16 (s.entry m) ≠ 0))

/-- The access waits for the end of the freeze: local memory, the ring store and the credit table are held from a master outside the
cluster (R400). -/
def Held (s : State) (m a : Nat) : Prop :=
  s.journal.freeze = true ∧ m ≠ 0x50 ∧ m ≠ 0x51 ∧ m ≠ 0x52 ∧
    (a < 0x200000 ∨ (0x3000000 ≤ a ∧ a < 0x3040000) ∨ (0x3200000 ≤ a ∧ a < 0x3208000))

/-- The tier has left RUN for `state`: the core holds only its instruction memory and runs nothing, and the former logical ID is kept,
as is the present one (R19, R22, R426, R430). -/
def LeftRun (s u : State) (state : TierState) (cause : Byte) : Prop :=
  u.tier.state = state ∧ u.tier.cause = cause ∧ u.core.running = false ∧ (∀ t, t < 32 → (u.task t).state = .free) ∧
  (∀ q, q < 8 → (u.queue q).entries = []) ∧ (∀ e, e < 4 → (u.me e).pool = [] ∧ (u.me e).acc = []) ∧
  u.core.imem = s.core.imem ∧ u.mem = s.mem ∧ u.rings.store = s.rings.store ∧ u.router.lvalid = s.router.lvalid ∧
  u.router.lcid = s.router.lcid ∧ u.router.active = s.router.active ∧
  (s.router.lvalid = true → u.journal.fvalid = true ∧ u.journal.flcid = s.router.lcid)

/-- The tier has entered RUN: every task FREE, pools and accumulators empty, program contexts IDLE, no shard, DET clear, every dirty
bit set (R19, R235, R374, R384, R401). -/
def EnteredRun (s u : State) : Prop :=
  u.tier.state = .run ∧ u.tier.det = false ∧ u.core.running = false ∧ (∀ t, t < 32 → (u.task t).state = .free) ∧
  (∀ e, e < 4 → (u.me e).pool = [] ∧ (u.me e).acc = []) ∧
  (Tbl.wf StreamCtx.idle s.se.ctxs = true → ∀ i, 64 ≤ i → (u.ctx i).state = .idle ∧ (u.ctx i).delivered = 0#32) ∧
  u.marver.shards = [] ∧
  u.journal.dirty0 = BitVec.allOnes 512 ∧ u.journal.dirty1 = BitVec.allOnes 512 ∧ u.core.imem = s.core.imem ∧ u.mem = s.mem

/-- Queue 6 has given up `c`, which has completed; nothing else of the control core has changed (R59, R360). -/
def MvCompleted (s u : State) (c : QueueCmd) : Prop := u.core = ((s.take 6 c).complete 6 c.seq).core

/-- Master `m` may use the register at offset `o` of block `blk`, as a write or as a read; JN_RESUME, JN_LIVE, JN_VOLB and JN_VOLS
take writes of master 0x51 without the right (R8, R431, R449, R479). -/
def RegOpen (s : State) (m : Master) (blk o : Nat) (write : Bool) : Prop :=
  s.pins.alive = true ∧ blk < 14 ∧ o < 0x1000 ∧ o % 4 = 0 ∧ (write = true → s.regDenied m.toNat blk o = false) ∧
    (s.may m.toNat .reg write = true ∨ (write = true ∧ m = 0x51#7 ∧ blk = 11 ∧
      (o = 0x02C ∨ (0x080 ≤ o ∧ o < 0x0C0) ∨ (0x100 ≤ o ∧ o < 0x200 ∧ o % 16 < 12))))

/-- The address of a register (R478). -/
def regAddr (blk o : Nat) : Word := BitVec.ofNat 32 (0x04000000 + 0x1000 * blk + o)

/-- The response of an access: OK with this data. -/
def Answered (u : State) (m : Master) (data : Nat) : Prop :=
  u.resp = { master := m, status := Code.ok, data := BitVec.ofNat 64 data }

/-- The ring command that master `m` gave for ring `t` has acted: it is answered, RG_CSTAT shows it OK and BUSY, and no other ring
has changed (R244). -/
def RingDone (s u : State) (m : Master) (t : Nat) : Prop :=
  Answered u m 0 ∧ u.rings.cCode = Code.ok ∧ u.rings.cTag = BitVec.ofNat 13 t ∧ u.rings.cBusy = true ∧
  (∀ k, k ≠ t → k < 8192 → u.ring k = s.ring k) ∧ u.rings.credit = s.rings.credit ∧ u.core = s.core

/-- The ring command that master `m` gave for ring `t` has changed nothing but RG_CSTAT (R244). -/
def RingRefused (s u : State) (m : Master) (t : Nat) (code : Half) (busy : Bool) : Prop :=
  Answered u m 0 ∧ u = { s with
    rings := { s.rings with cCode := code, cTag := BitVec.ofNat 13 t, cBusy := busy }, resp := u.resp }

/-- The slots of the gather ring `r` are zero, and the rest of local memory is as it was; a PLAIN ring has none (R244, R259). -/
def SlotsZero (s u : State) (r : Ring) : Prop :=
  ∀ a, (r.type ≠ RingType.plain ∧ r.base ≤ a ∧ a < r.base + r.nslot * r.slotBytes → u.mem.mem.read a = 0#8) ∧
    (r.type = RingType.plain ∨ a < r.base ∨ r.base + r.nslot * r.slotBytes ≤ a → u.mem.mem.read a = s.mem.mem.read a)

/-! The canonical form of every memory and table. -/

/-- The pool, the accumulators and both stationary sets of an engine are canonical. -/
def MatrixEngine.canonical (m : MatrixEngine) : Bool :=
  Memory.wf m.pool && Memory.wf m.acc && Tbl.wf [] m.active.rows && Tbl.wf [] m.shadow.rows

/-- Every memory and every table of the state lists its keys rising and no entry equal to what an unlisted key reads as. -/
def State.canonical (s : State) : Bool :=
  Memory.wf s.core.imem && s.engines.toList.all MatrixEngine.canonical &&
  Tbl.wf 0#32 s.ve.vregs && Memory.wf s.ve.progs &&
  Tbl.wf 0#64 s.digests.val && Tbl.wf 0#32 s.digests.cnt &&
  Memory.wf s.mem.mem && Tbl.wf StreamCtx.idle s.se.ctxs && Memory.wf s.se.seqTable &&
  Memory.wf s.rings.store && Memory.wf s.rings.credit &&
  Tbl.wf 0#32 s.rings.sendCount && Tbl.wf 0#32 s.rings.creditCount && Tbl.wf 0#16 s.rings.revokeCount &&
  Tbl.wf 0#12 s.router.active && Tbl.wf 0#12 s.router.staged && Tbl.wf 0#12 s.router.exits &&
  Tbl.wf Shard.none s.marver.shards && Tbl.wf 0#32 s.gaffer.access &&
  Memory.wf s.gaffer.mram && Memory.wf s.gaffer.mbReq && Memory.wf s.gaffer.mbRep

end Sys2Proof.Machine
end

