-- ==== Sys2Proof/Certificates/Slice0/Obligations.lean ====
section
/-! DEFINITION. The statements for the provers. -/

section

open Sys2Proof Sys2Proof.Machine

/-! Steps, reset and the passing of time. -/

/-- The front command runs on the state with the queue's rest. -/
def Obligations.StepRunsFrontCommand : Prop :=
  ∀ (s : State) (c : Instr) (rest : List Instr),
    s.pending = c :: rest → step s = exec c { s with pending := rest }

/-- With nothing waiting, one N-cycle passes; every second one starts a beat, in which a synchronised count goes up by one
(R14, R272, R277). That time passes on an empty queue is the model's choice (log 5). -/
def Obligations.EmptyQueuePassesTime : Prop :=
  ∀ s : State, s.pending = [] → s.pins.alive = true →
    ∃ t, step s = .next t ∧ t.nc = s.nc + 1 ∧ t.pending = [] ∧ t.mem = s.mem ∧
      t.lehr.lc = (if (s.nc + 1) % 2 = 0 ∧ s.lehr.synced ∧ s.pins.testMode = false then s.lehr.lc + 1#64 else s.lehr.lc)

/-- What the state after reset release holds where the spec gives the value (R18, R70, R201, R206, R236, R272, R304, R319,
R331, R430, R457). -/
def Obligations.ResetValues : Prop :=
  State.reset.pending = [] ∧ State.reset.tier.state = .off ∧ State.reset.lehr.lc = 0#64 ∧ State.reset.lehr.synced = false ∧
    State.reset.lehr.guard = 2#4 ∧
    (∀ a, State.reset.mem.mem.read a = 0#8) ∧
    (∀ t, t < 8192 → (State.reset.ring t).state = RingState.closed) ∧
    (∀ c, c < 3072 → (State.reset.ctx c).state = .idle) ∧
    State.reset.se.shareRead = 0x32#8 ∧ State.reset.se.shareWrite = 0x1E#8 ∧ State.reset.se.shareRemote = 0x14#8 ∧
    State.reset.se.xlatEn = false ∧
    State.reset.router.comb = true ∧ State.reset.router.mcout = false ∧ State.reset.router.adapt = false ∧
    (∀ p ∈ State.reset.router.ports.toList, p.state = .down ∧ p.pvalid = false) ∧
    (∀ i, i < 2048 → entryValid (Tbl.get 0#12 State.reset.router.active i) = false) ∧
    State.reset.journal.en = true ∧ State.reset.journal.ten = false ∧ State.reset.journal.live = BitVec.allOnes 512 ∧
    State.reset.gaffer.step = 2#4 ∧ State.reset.marver.mode = true ∧ State.reset.far = []

/-! The control core. -/

/-- A word of ALU, compare, predicate, move and multiply slots: each executed slot's result, by its operation, joins those not yet
due with its latency, S0's before S1's; the task goes on, at the next word where no loop body ends and at the body's first word
while iterations remain; nothing else changes. A word reads a register as the last-issued result among those of the latest cycle
due left it (R36, R38, R39, R45, R46, R48, R55, R56). -/
def Obligations.ScalarWordIssues : Prop :=
  (∀ (s : State) (t : Nat) (w : LongWord) (k : Task), Issues s t w → k = (s.task t).commit →
    (∀ p ∈ w.slots, p.1 = 0 ∨ (p.1 = 1 ∧
      (Op.isAlu (Slot.op p.2) || Op.isCmp (Slot.op p.2) || Op.isPred (Slot.op p.2) || Op.isMov (Slot.op p.2)) = true)) →
    ∃ u r0 r1, exec .longWordIssue s = .next u ∧
      (∀ x, w.active k 0 = some x → ScalarMeaning k s.lehr.lc x r0) ∧
      (∀ x, w.active k 1 = some x → ScalarMeaning k s.lehr.lc x r1) ∧
      u.task t = k.after w (((w.active k 0).toList.map fun _ => r0) ++ ((w.active k 1).toList.map fun _ => r1)) k.stores ∧
      ((∀ l ∈ k.loops, l.last ≠ w.pc) → (u.task t).pc = w.pc + w.len ∧ (u.task t).loops = k.loops) ∧
      (∀ l ls, k.loops = l :: ls → l.last = w.pc → l.rem ≠ 1#32 →
        (u.task t).pc = l.first ∧ (u.task t).loops = { l with rem := l.rem - 1#32 } :: ls) ∧
      WordIssued s t w u ∧ u.core.cache = s.core.cache ∧ u.core.queues = s.core.queues ∧
      u.core.storeCount = s.core.storeCount ∧ u = { s with core := u.core }) ∧
  (∀ (k : Task) (n : BitVec 5), n ≠ 0#5 →
    (∀ (pre post : List PendingResult) (due : Nat) (v : DWord), k.results = pre ++ ⟨due, .reg n, v⟩ :: post → due ≤ k.cycle →
      (∀ r ∈ pre, r.dest = .reg n → r.due ≤ due ∨ k.cycle < r.due) →
      (∀ r ∈ post, r.dest = .reg n → r.due < due ∨ k.cycle < r.due) → k.commit.reg n.toNat = v) ∧
    ((∀ r ∈ k.results, r.dest = .reg n → k.cycle < r.due) → k.commit.reg n.toNat = k.reg n.toNat))

/-- A word that is one guarded ENQ: the command enters its queue with the next sequence number, which rd reads from the next
word on, while the queue is neither stopped nor full and the task may use it; nothing else changes (R43, R44, R46, R59, R60,
R62). -/
def Obligations.EnqWordQueuesCommand : Prop :=
  ∀ (s : State) (t : Nat) (w : LongWord) (x : Nat) (k : Task) (q : Nat) (seq : Word), Issues s t w → k = (s.task t).commit →
    w.slots = [(3, x)] → k.guard x = true → q = fld 9 7 x → seq = (s.queue q).issued + 1#32 →
    (s.queue q).stopped = false → (s.queue q).entries.length < 64 →
    (s.tier.det = true → Vec.at s.core.owners q = BitVec.ofNat 5 t) →
    ∃ u, exec .longWordIssue s = .next u ∧
      u.queue q = { s.queue q with
        issued := seq
        entries := (s.queue q).entries ++
          [{ regs := (List.range (fld 11 10 x + 1)).map fun i => k.reg (fld 16 12 x + i), seq := seq }] } ∧
      (∀ r, r ≠ q → u.queue r = s.queue r) ∧
      u.task t = k.after w [⟨k.cycle + 1, .reg (BitVec.ofNat 5 (fld 21 17 x)), seq.setWidth 64⟩] k.stores ∧
      WordIssued s t w u ∧ u.core.cache = s.core.cache ∧ u.core.storeCount = s.core.storeCount ∧ u = { s with core := u.core }

/-- A word that is one guarded store that may be performed: the store goes to the end of its task's buffer, after every earlier
store of the core; a present line takes its bytes and keeps the others; local memory and everything else stay (R41, R54). -/
def Obligations.StoreWordBuffers : Prop :=
  ∀ (s : State) (t : Nat) (w : LongWord) (x : Nat) (k : Task) (a n : Nat), Issues s t w → k = (s.task t).commit →
    w.slots = [(1, x)] → k.guard x = true → Op.isStore (Slot.op x) = true → (s.task t).stores.length < 16 →
    a = k.address x → n = Op.size (Slot.op x) → a % n = 0 → (s.busCheck 0x51 a n true).isSome = true →
    ∃ u, exec .longWordIssue s = .next u ∧
      u.task t = k.after w [] (k.stores ++
        [{ addr := a, size := n, data := k.reg (Slot.rd x), ord := s.core.storeCount }]) ∧
      u.core.storeCount = s.core.storeCount + 1 ∧
      u.core.cache.map (fun l => (l.line, l.bad)) = s.core.cache.map (fun l => (l.line, l.bad)) ∧
      (∀ l ∈ u.core.cache, (l ∈ s.core.cache ∧ (l.line ≠ a / 64 ∨ 0x200000 ≤ a)) ∨
        (l.line = a / 64 ∧ l.read (a % 64) n = (k.reg (Slot.rd x)).toNat % 2 ^ (8 * n) ∧
          ∃ l0 ∈ s.core.cache, l0.line = l.line ∧
            ∀ o, o < 64 → (o < a % 64 ∨ a % 64 + n ≤ o) → l.read o 1 = l0.read o 1)) ∧
      WordIssued s t w u ∧ u.core.queues = s.core.queues ∧ u = { s with core := u.core }

/-- A word that R35 forbids halts its task with BAD_COMMAND, recorded if no fault is and reported; its slots take no effect and the
task keeps its registers; other tasks, queues and memory stay. A header's reserved bits, the end of instruction memory, an
undefined opcode, a reserved field or KIND, and the operands of ENQ and LOOP are such faults (R28, R35, R37, R63). -/
def Obligations.ForbiddenWordHaltsTask : Prop :=
  (∀ (s : State) (t slot : Nat),
    s.inRun = true → s.resting = false → s.core.startBeat ≤ s.beat → (∀ k ∈ s.core.tasks.toList, k.spawning = false) →
    s.core.pick = some t → s.core.fetch ((s.task t).commit).pc = .bad slot →
    (∃ r, r ≠ t ∧ ((s.task r).state = .ready ∨ (s.task r).state = .waiting)) → s.gaffer.eventCount < 64 →
    ∃ u e, exec .longWordIssue s = .next u ∧
      u.task t = { (s.task t).commit with state := .halted, cause := .none, memWait := .none } ∧
      (∀ r, r ≠ t → u.task r = s.task r) ∧ u.core.queues = s.core.queues ∧ u.core.cache = s.core.cache ∧
      (s.core.faultValid = true → u.core.faultValid = true ∧ u.core.faultCode = s.core.faultCode ∧
        u.core.faultPc = s.core.faultPc ∧ u.core.faultTask = s.core.faultTask ∧ u.core.faultSlot = s.core.faultSlot) ∧
      (s.core.faultValid = false → u.core.faultValid = true ∧ u.core.faultCode = 0x0204#16 ∧
        u.core.faultTask = BitVec.ofNat 5 t ∧ u.core.faultSlot = BitVec.ofNat 2 slot ∧
        u.core.faultPc = BitVec.ofNat 16 (s.task t).pc) ∧
      u.gaffer = { s.gaffer with outq := s.gaffer.outq ++ [.event e] } ∧ e.code = 0x0204#16 ∧ e.source = 1#8 ∧
      u = { s with core := u.core, gaffer := u.gaffer, raised := u.raised }) ∧
  (∀ (c : Core) (pc : Nat), c.imemBad = [] →
    (0x10000 < pc + 2 → c.fetch pc = .bad 0) ∧
    (pc + 2 ≤ 0x10000 → fld 7 0 (c.imem.readLE pc 2) ≠ 0 → c.fetch pc = .bad 0)) ∧
  (∀ (m : Memory) (next x : Nat),
    ((Slot.op x = 0 ∨ Slot.op x = 0x0D ∨ 0x3F ≤ Slot.op x) → Slot.bad m next (0, x) = true ∧ Slot.bad m next (1, x) = true) ∧
    (Slot.op x = 0x01 → bit 11 x = false → fld 10 5 x ≠ 0 → Slot.bad m next (0, x) = true) ∧
    (Slot.op x = 0x34 → bit 11 x = false → Slot.bad m next (1, x) = true) ∧
    ((Slot.op x = 0 ∨ 10 ≤ Slot.op x) → Slot.bad m next (2, x) = true) ∧
    (Slot.op x = 6 → 4 < fld 21 18 x → Slot.bad m next (2, x) = true) ∧
    (Slot.op x = 4 → fld 21 11 x = 0 → Slot.bad m next (2, x) = true) ∧
    ((Slot.op x ≠ 1 ∨ 31 < fld 16 12 x + fld 11 10 x) → Slot.bad m next (3, x) = true))

/-- The data of a load that missed: the bytes of local memory, extended as the load says, fall due at the load's cycle in its
place among the task's results, the line is present, and the task that nothing else holds is READY; no byte of memory, no other
task and no queue changes (R28, R40, R46-R48, R484). -/
def Obligations.LoadArrivalReadsMemory : Prop :=
  ∀ (s : State) (task : Fin 32) (k : Task) (l : LoadWait),
    s.inRun = true → k = s.task task.val → k.memWait = .load l → k.state = .waiting → k.cause = .none →
    l.size ∈ [1, 2, 4, 8] → l.addr % l.size = 0 → l.addr < 0x200000 → s.core.line l.addr = none →
    (∀ x ∈ s.core.tasks.toList, ∀ e ∈ x.stores, e.addr / 64 ≠ l.addr / 64) →
    (∀ i < 8, 8 * (l.addr / 64) + i ∉ s.mem.bad) →
    ∃ u v, exec (.loadDataArrival task) s = .next u ∧
      (l.signed = false → v = BitVec.ofNat 64 (s.mem.mem.readLE l.addr l.size)) ∧
      (l.signed = true → v = BitVec.ofInt 64 (sext (8 * l.size) (s.mem.mem.readLE l.addr l.size))) ∧
      u.task task.val = { k with
        results := k.results.take l.place ++ ⟨l.due, .reg l.rd, v⟩ :: k.results.drop l.place
        memWait := .none, state := .ready } ∧
      (∀ r, r ≠ task.val → u.task r = s.task r) ∧ (u.core.line l.addr).isSome = true ∧
      u.core = { s.core with tasks := u.core.tasks, cache := u.core.cache } ∧
      u.mem = { s.mem with eccCount := u.mem.eccCount } ∧ u = { s with core := u.core, mem := u.mem }

/-- The oldest store of a task reaches local memory: its bytes are written, every other byte stays, and nothing else but check
bits and the dirty bits of its region changes (R7, R54, R204, R401). -/
def Obligations.StoreDrainWritesMemory : Prop :=
  ∀ (s : State) (task : Fin 32) (e : StoreEntry) (es : List StoreEntry),
    s.inRun = true → (s.task task.val).stores = e :: es → e.addr < 0x200000 → e.size ≤ 8 →
    Memory.wf s.mem.mem = true →
    ∃ u, exec (.storeBufferDrain task) s = .next u ∧ u.task task.val = { s.task task.val with stores := es } ∧
      (∀ r, r ≠ task.val → u.task r = s.task r) ∧
      (∀ i < e.size, u.mem.mem.read (e.addr + i) = e.data.extractLsb' (8 * i) 8) ∧
      (∀ a, a < e.addr ∨ e.addr + e.size ≤ a → u.mem.mem.read a = s.mem.mem.read a) ∧
      u.core = { s.core with tasks := u.core.tasks } ∧
      u.mem = { s.mem with mem := u.mem.mem, bad := u.mem.bad, single := u.mem.single } ∧
      u.journal = { s.journal with dirty0 := u.journal.dirty0, dirty1 := u.journal.dirty1 } ∧
      u = { s with core := u.core, mem := u.mem, journal := u.journal }

/-- An ACQ or a CINVA completes: no line that touches its range is left, every other line stays, and the task that nothing
else holds is READY; nothing else changes (R28, R344). -/
def Obligations.CacheDropCompletes : Prop :=
  ∀ (s : State) (task : Fin 32) (base len : Nat) (all : Bool),
    s.inRun = true → (s.task task.val).memWait = .drop base len all → (s.task task.val).state = .waiting →
    (s.task task.val).cause = .none →
    ∃ u, exec (.cacheDropComplete task) s = .next u ∧
      u.task task.val = { s.task task.val with state := .ready, memWait := .none } ∧
      (∀ l ∈ u.core.cache, l ∈ s.core.cache ∧ all = false ∧ (base + len ≤ 64 * l.line ∨ 64 * l.line + 64 ≤ base)) ∧
      (∀ l ∈ s.core.cache, all = false → (base + len ≤ 64 * l.line ∨ 64 * l.line + 64 ≤ base) → l ∈ u.core.cache) ∧
      (∀ r, r ≠ task.val → u.task r = s.task r) ∧
      u.core = { s.core with tasks := u.core.tasks, cache := u.core.cache } ∧ u = { s with core := u.core }

/-- A waiting task whose condition holds becomes READY unless its memory operation still holds it; an RSEL gives its tag, place and
count to the next word and ROT and SEQ keep the place; otherwise the task waits on. Nothing else changes (R28, R46, R53, R54,
R61, R258). -/
def Obligations.TaskWakes : Prop :=
  ∀ (s : State) (task : Fin 32) (k : Task), s.inRun = true → k = s.task task.val → k.state = .waiting →
    (WaitOver s k →
      ∃ u, exec (.taskWake task) s = .next u ∧
        ((∀ tags mode rd, k.cause ≠ .rsel tags mode rd) →
          u.task task.val = { k with cause := .none, state := if k.memWait = .none then .ready else .waiting }) ∧
        (∀ tags mode rd i, k.cause = .rsel tags mode rd → Selects s tags mode k.rselPos i →
          u.task task.val = { k with
            cause := .none, state := if k.memWait = .none then .ready else .waiting
            rselPos := if mode = 0 then k.rselPos else i
            results := k.results ++ [⟨k.cycle, .reg rd, BitVec.ofNat 64 (tags.getD i 0 + i * 2 ^ 13 +
              ((s.ring (tags.getD i 0)).wptr + 2 ^ 32 - (s.ring (tags.getD i 0)).rptr) % 2 ^ 32 * 2 ^ 32)⟩] }) ∧
        (∀ r, r ≠ task.val → u.task r = s.task r) ∧
        u.core = { s.core with tasks := u.core.tasks } ∧ u = { s with core := u.core }) ∧
    (¬ WaitOver s k → (∀ mode rd, k.cause ≠ .rsel [] mode rd) → exec (.taskWake task) s = .next s)

/-- QUEUE_CLEAR empties and restarts every queue of its mask and counts what it discards as completed; QUEUE_RESTART lets every
stopped queue of its mask go on after the faulting command, which counts as completed. Queues outside the mask, tasks and
local memory stay. A write of CC_QCTL that sets both bits of a queue clears it, and a clear leaves the commands in execution to
complete (R61, R66). -/
def Obligations.QueuesClearAndRestart : Prop :=
  ∀ (s : State) (m : Master) (mask : BitVec 8),
    s.inRun = true → s.may m.toNat .reg true = true →
    (∃ u, exec (.queueClear m mask) s = .next u ∧ Answered u m 0 ∧
      (∀ q, q < 8 → mask.getLsbD q = true →
        (u.queue q).entries = [] ∧ (u.queue q).stopped = false ∧ (u.queue q).fcode = 0#16 ∧
        (u.queue q).issued = (s.queue q).issued ∧
        ((s.queue q).outstanding = [] →
          (u.queue q).completed = (s.queue q).completed + BitVec.ofNat 32 (s.queue q).entries.length)) ∧
      (∀ q, q < 8 → mask.getLsbD q = false → u.queue q = s.queue q) ∧
      u.core.tasks = s.core.tasks ∧ u.mem = s.mem) ∧
    (∃ u, exec (.queueRestart m mask) s = .next u ∧ Answered u m 0 ∧
      (∀ q, q < 8 → mask.getLsbD q = true → (s.queue q).stopped = true →
        (u.queue q).entries = (s.queue q).entries ∧ (u.queue q).stopped = false ∧ (u.queue q).fcode = 0#16 ∧
        (∀ seq, (s.queue q).outstanding = [(seq, .faulted)] →
          (u.queue q).completed = (s.queue q).completed + 1#32 ∧ (u.queue q).outstanding = [])) ∧
      (∀ q, q < 8 → mask.getLsbD q = false ∨ (s.queue q).stopped = false → u.queue q = s.queue q) ∧
      u.core.tasks = s.core.tasks ∧ u.mem = s.mem) ∧
    (∀ value : Word, RegOpen s m 1 0x040 true →
      ∃ u, exec (.registerWrite m (regAddr 1 0x040) value) s = .next u ∧ Answered u m 0 ∧
        ∀ q, q < 8 → value.getLsbD (8 + q) = true →
          u.queue q = (s.queue q).clear ∧ (u.queue q).entries = [] ∧
          ∀ seq, (seq, CmdProgress.run) ∈ (s.queue q).outstanding → (seq, CmdProgress.run) ∈ (u.queue q).outstanding)

/-! Tiles and matrix engines. -/

/-- TLD and TST that pass the checks of R85 are taken, and change nothing yet; one of a tile that is not configured, or of rows it
lacks, stops its queue with TILE_SHAPE, is recorded and reported with its tile, and takes no effect (R59, R61, R84, R85, R87,
R138). -/
def Obligations.TileMovesTakenOrFault : Prop :=
  ∀ (s : State) (e : Fin 4) (c : QueueCmd) (store : Bool), MeReady s e (if store then 0x23 else 0x22) c →
    (∀ t : TileShape, c.regs.length = 2 → tileMoveReserved c = false →
      (s.me e.val).shape (tileMoveOf c).tile = some t → (tileMoveOf c).row + (tileMoveOf c).count < t.rows →
      (tileMoveOf c).addr % 16 = 0 → (tileMoveOf c).stride % 16 = 0 →
      (∀ i ≤ (tileMoveOf c).count, inLocal ((tileMoveOf c).addr + i * (tileMoveOf c).stride) t.stride = true) →
      s.may 0x51 .loc store = true →
      ∃ u, exec (if store then .tst e else .tld e) s = .next u ∧
        MeStarted s u e c (if store then .tst (tileMoveOf c) else .tld (tileMoveOf c) 0)) ∧
    (tileMoveReserved c = false →
      (∀ t, (s.me e.val).shape (tileMoveOf c).tile = some t → t.rows ≤ (tileMoveOf c).row + (tileMoveOf c).count) →
      s.gaffer.eventCount < 64 →
      ∃ u v, exec (if store then .tst e else .tld e) s = .next u ∧
        (u.queue e.val).stopped = true ∧ (u.queue e.val).fcode = Code.tileShape ∧
        (u.queue e.val).entries = (s.queue e.val).entries.tail ∧ (∀ q, q ≠ e.val → u.queue q = s.queue q) ∧
        (u.me e.val).tfValid = true ∧
        ((s.me e.val).tfValid = false → (u.me e.val).tfCode = Code.tileShape ∧ (u.me e.val).tfSeq = c.seq ∧
          (u.me e.val).tfTile = BitVec.ofNat 5 (tileMoveOf c).tile ∧ (u.me e.val).tfOpc = BitVec.ofNat 8 c.opc) ∧
        u.gaffer = { s.gaffer with outq := s.gaffer.outq ++ [.event v] } ∧ v.code = Code.tileShape ∧
        v.detail = [BitVec.ofNat 32 e.val, BitVec.ofNat 32 c.opc, c.seq, BitVec.ofNat 32 (tileMoveOf c).tile] ∧
        (u.me e.val).inflight = (s.me e.val).inflight ∧ (u.me e.val).pool = (s.me e.val).pool ∧
        (u.me e.val).valid = (s.me e.val).valid ∧ (∀ j, j ≠ e.val → u.me j = s.me j) ∧ u.mem = s.mem)

/-- A row of a TLD: the bytes of local memory are the row's bytes, the row is valid, every other pool byte and all of local
memory stay; the last row completes the command (R59, R80, R84). -/
def Obligations.TileLoadWritesRow : Prop :=
  ∀ (s : State) (e : Fin 4) (seq : Word) (opc : Byte) (c : TileMove) (done : Nat) (rest : List InFlight) (t : TileShape),
    s.inRun = true → (s.me e.val).inflight = ⟨seq, opc, .tld c done, false⟩ :: rest →
    (s.me e.val).shape c.tile = some t → c.tile < 32 → c.row + done < 32 → done ≤ c.count →
    s.mem.badIn (c.addr + done * c.stride) t.stride = none → Memory.wf (s.me e.val).pool = true →
    ∃ u, exec (.tileRowWriteComplete e) s = .next u ∧
      (∀ j < t.stride, (u.me e.val).pool.read (t.base + (c.row + done) * t.stride + j) =
        s.mem.mem.read (c.addr + done * c.stride + j)) ∧
      (∀ a, a < t.base + (c.row + done) * t.stride ∨ t.base + (c.row + done) * t.stride + t.stride ≤ a →
        (u.me e.val).pool.read a = (s.me e.val).pool.read a) ∧
      (u.me e.val).rowValid c.tile (c.row + done) = true ∧
      (∀ j r, (j ≠ c.tile ∨ r ≠ c.row + done) → (u.me e.val).rowValid j r = (s.me e.val).rowValid j r) ∧
      (done < c.count → (u.me e.val).inflight = ⟨seq, opc, .tld c (done + 1), false⟩ :: rest ∧ u.core = s.core) ∧
      (done = c.count → (u.me e.val).inflight = rest ∧ QueueCompleted s u e.val seq) ∧
      (∀ j, j ≠ e.val → u.me j = s.me j) ∧ u.mem.mem = s.mem.mem ∧ (u.me e.val).acc = (s.me e.val).acc

/-- TST of valid rows whose places in memory do not meet: every row's bytes reach local memory, every byte outside the rows
stays, the pool stays, and the command completes (R83, R84). -/
def Obligations.TileStoreWritesRows : Prop :=
  ∀ (s : State) (e : Fin 4) (seq : Word) (opc : Byte) (c : TileMove) (rest : List InFlight) (t : TileShape),
    s.inRun = true → (s.me e.val).inflight = ⟨seq, opc, .tst c, false⟩ :: rest →
    (s.me e.val).shape c.tile = some t → t.stride ≤ c.stride → Memory.wf s.mem.mem = true →
    (∀ k ≤ c.count, (s.me e.val).rowValid c.tile (c.row + k) = true ∧
      (s.me e.val).poolError (t.base + (c.row + k) * t.stride) t.stride = none) →
    ∃ u, exec (.tstComplete e) s = .next u ∧
      (∀ k ≤ c.count, ∀ j < t.stride, u.mem.mem.read (c.addr + k * c.stride + j) =
        (s.me e.val).pool.read (t.base + (c.row + k) * t.stride + j)) ∧
      (∀ a, (∀ k ≤ c.count, a < c.addr + k * c.stride ∨ c.addr + k * c.stride + t.stride ≤ a) →
        u.mem.mem.read a = s.mem.mem.read a) ∧
      (u.me e.val).pool = (s.me e.val).pool ∧ (u.me e.val).valid = (s.me e.val).valid ∧
      (u.me e.val).inflight = rest ∧ QueueCompleted s u e.val seq

/-- TCFG is taken with the table it names, or to read it once the engine's earlier writes to local memory are made; a consistent
configuration applies, the tiles of MASK then having their table entries and no valid row and the others staying; an inconsistent
one changes nothing and stops the queue with TILE_CFG. TREL: the configured tiles of MASK lose their valid rows and keep their bytes,
the others stay, at once or at the start of the beat after the drain (R61, R74-R78, R82, R119, R123). -/
def Obligations.TileConfiguration : Prop :=
  (∀ (s : State) (e : Fin 4) (c : QueueCmd) (mask : Word) (table : Nat),
    MeReady s e 0x20 c → mask = BitVec.ofNat 32 (fld 63 32 (c.reg 0)) → table = fld 31 0 (c.reg 1) → c.regs.length = 2 →
    fld 31 8 (c.reg 0) = 0 → fld 63 32 (c.reg 1) = 0 → table % 128 = 0 → table + 128 ≤ 0x200000 →
    ((s.me e.val).memSettled = false → ∃ u, exec (.tcfg e) s = .next u ∧ MeStarted s u e c (.tcfgWait mask table)) ∧
    ((s.me e.val).memSettled = true → s.may 0x51 .loc false = true → s.mem.badIn table 128 = none →
      ∃ u, exec (.tcfg e) s = .next u ∧
        MeStarted s u e c (.tcfg mask ((List.range 32).map fun i => BitVec.ofNat 32 (s.mem.mem.readLE (table + 4 * i) 4))))) ∧
  (∀ (s : State) (e : Fin 4) (seq mask : Word) (opc : Byte) (op : MeOp) (table : List Word) (rest : List InFlight),
    s.inRun = true → (s.me e.val).inflight = ⟨seq, opc, op, false⟩ :: rest →
    (op = .tcfg mask table ∨ ∃ addr, op = .tcfgWait mask addr ∧ s.may 0x51 .loc false = true ∧ s.mem.badIn addr 128 = none ∧
      table = (List.range 32).map fun i => BitVec.ofNat 32 (s.mem.mem.readLE (addr + 4 * i) 4)) →
    (ConfigConsistent mask (newDescriptors (s.me e.val) mask table) →
      ∃ u, exec (.tcfgApply e) s = .next u ∧ Configured (s.me e.val) (u.me e.val) mask table ∧
        (u.me e.val).pool = (s.me e.val).pool ∧ (u.me e.val).inflight = rest ∧ QueueCompleted s u e.val seq ∧
        u.mem.mem = s.mem.mem) ∧
    (¬ ConfigConsistent mask (newDescriptors (s.me e.val) mask table) →
      ∃ u, exec (.tcfgApply e) s = .next u ∧ (u.queue e.val).stopped = true ∧
        ((s.queue e.val).stopped = false → (u.queue e.val).fcode = 0x0202#16) ∧ (u.me e.val).desc = (s.me e.val).desc ∧
        (u.me e.val).valid = (s.me e.val).valid ∧ (u.me e.val).pool = (s.me e.val).pool ∧ (u.me e.val).tfValid = true ∧
        ((s.me e.val).tfValid = false → (u.me e.val).tfCode = 0x0202#16 ∧ (u.me e.val).tfSeq = seq) ∧
        u.mem.mem = s.mem.mem)) ∧
  (∀ (s : State) (e : Fin 4) (c : QueueCmd), MeReady s e 0x21 c → c.regs.length = 1 → fld 31 8 (c.reg 0) = 0 →
    ((s.me e.val).drained (fld 63 32 (c.reg 0)) = true →
      ∃ u, exec (.trel e) s = .next u ∧ Released (s.me e.val) (u.me e.val) (fld 63 32 (c.reg 0)) ∧
        (u.me e.val).inflight = (s.me e.val).inflight ∧ u.core = ((s.take e.val c).complete e.val c.seq).core ∧
        u = { s with core := u.core, engines := u.engines } ∧ ∀ j, j ≠ e.val → u.me j = s.me j) ∧
    ((s.me e.val).drained (fld 63 32 (c.reg 0)) = false →
      ∃ u, exec (.trel e) s = .next u ∧ MeStarted s u e c (.trel (BitVec.ofNat 32 (fld 63 32 (c.reg 0)))))) ∧
  (∀ (s : State) (e : Fin 4) (seq mask : Word) (opc : Byte),
    s.pending = [] → s.pins.alive = true → (s.nc + 1) % 2 = 0 → (s.me e.val).inflight = [⟨seq, opc, .trel mask, false⟩] →
    (∀ j, j ≠ e.val → (s.me j).inflight = []) →
    ∃ u, step s = .next u ∧ Released (s.me e.val) (u.me e.val) mask.toNat ∧ (u.me e.val).inflight = [] ∧
      QueueCompleted s u e.val seq ∧ u.mem = s.mem)

/-- LDW and SWAP that pass their checks are taken in queue order: the tags that later checks see change at once, the sets
themselves do not. An expansion table is read as LDW is taken, or later if an earlier command of the engine still writes local
memory. A SWAP between two full-load sets completes and has no other effect (R59, R97, R101-R103, R105-R107, R109, R119, R123). -/
def Obligations.WeightCommandsTaken : Prop :=
  (∀ (s : State) (e : Fin 4) (c : QueueCmd) (t : TileShape) (cls : ClassTag) (table : List FVal) (xtab : Option Nat) (w x : Nat),
    MeReady s e 0x11 c → (ldwChecks s e c).verdict = none → (s.me e.val).shape (fld 12 8 (c.reg 0)) = some t →
    cls = (if t.ty = 9 ∨ t.ty = 10 then (if fld 28 27 (c.reg 0) < 2 then .h else .f8) else inputClass t.ty) →
    w = (if fld 28 27 (c.reg 0) < 2 then 2 else 1) → x = fld 31 0 (c.reg 1) →
    (t.ty ≠ 10 → table = [] ∧ xtab = none) →
    (t.ty = 10 → (s.me e.val).memSettled = false → table = [] ∧ xtab = some x) →
    (t.ty = 10 → (s.me e.val).memSettled = true → s.mem.badIn x (16 * w) = none ∧ xtab = none ∧
      table = (List.range 16).map fun i => (expandFmt (fld 28 27 (c.reg 0))).decode (s.mem.mem.readLE (x + i * w) w)) →
    ∃ u, exec (.ldw e) s = .next u ∧
      MeStarted s u e c (.ldw {
        xf := fld 28 27 (c.reg 0), off := fld 26 23 (c.reg 0), count := fld 22 18 (c.reg 0), row := fld 17 13 (c.reg 0)
        tile := fld 12 8 (c.reg 0), tag := cls, table := table, xtab := xtab
        clears := !cls.full && (s.me e.val).queueTags.1.1.full } 0) ∧
      (u.me e.val).queueTags.2 = (cls, BitVec.ofNat 5 (fld 12 8 (c.reg 0))) ∧
      (cls.full = true → (u.me e.val).queueTags.1 = (cls, BitVec.ofNat 5 (fld 12 8 (c.reg 0)))) ∧
      (cls.full = false → (s.me e.val).queueTags.1.1.full = true → (u.me e.val).queueTags.1 = (.none, 0#5)) ∧
      (cls.full = false → (s.me e.val).queueTags.1.1.full = false →
        (u.me e.val).queueTags.1 = (s.me e.val).queueTags.1)) ∧
  (∀ (s : State) (e : Fin 4) (c : QueueCmd),
    MeReady s e 0x12 c → c.regs.length = 1 → fld 63 8 (c.reg 0) = 0 →
    (¬ ((s.me e.val).queueTags.1.1.full = true ∧ (s.me e.val).queueTags.2.1.full = true) →
      ∃ u, exec (.swap e) s = .next u ∧ MeStarted s u e c .swap ∧
        (u.me e.val).queueTags = ((s.me e.val).queueTags.2, (s.me e.val).queueTags.1)) ∧
    ((s.me e.val).queueTags.1.1.full = true → (s.me e.val).queueTags.2.1.full = true →
      ∃ u, exec (.swap e) s = .next u ∧ u.core = ((s.take e.val c).complete e.val c.seq).core ∧
        u = { s with core := u.core }))

/-- An array row of an LDW reaches the shadow set, and for a full load both sets: the slice of its tile row, expanded, as one weight
row or, in the narrow classes, two; zeros beyond the last tile row. The last row sets the tags and the command completes; a half
load after a full load then leaves the active set zero and NONE. A swap token exchanges the sets as it enters and its SWAP
completes 63 beats later (R59, R99, R102, R104-R108, R123). -/
def Obligations.WeightSetsChange : Prop :=
  (∀ (s : State) (e : Fin 4) (seq : Word) (opc : Byte) (c : LdwCmd) (done : Nat) (rest : List InFlight) (t : TileShape)
      (table : List FVal) (vs : List FVal) (rows : List (Nat × List FVal)) (total w : Nat),
    s.inRun = true → (s.me e.val).inflight = ⟨seq, opc, .ldw c done, false⟩ :: rest →
    (s.me e.val).shape c.tile = some t →
    (done ≤ c.count →
      (s.me e.val).rowError t c.tile (c.row + done) (t.slice (c.off * 16) (c.tag.loadSlice t.ty)) = none) →
    Tbl.wf [] (s.me e.val).shadow.rows = true → Tbl.wf [] (s.me e.val).active.rows = true →
    w = (if c.xf < 2 then 2 else 1) → (c.xtab = none → table = c.table) →
    (∀ a, c.xtab = some a → s.may 0x51 .loc false = true ∧ s.mem.badIn a (16 * w) = none ∧
      table = (List.range 16).map fun i => (expandFmt c.xf).decode (s.mem.mem.readLE (a + i * w) w)) →
    (done ≤ c.count → vs = weightElems t.ty c.xf table t.len ((s.me e.val).rowBytes t c.tile (c.row + done)) (c.off * 16)
      (c.tag.loadSlice t.ty)) → (c.count < done → vs = []) →
    rows = (if c.tag = .f8 ∨ c.tag = .i8 then [(2 * done, vs.take 32), (2 * done + 1, vs.drop 32)] else [(done, vs)]) →
    total = (if c.tag = .w64 then 16 else 32) →
    ∃ u, exec (.stationaryRowWrite e) s = .next u ∧
      (∀ r ∈ rows, Tbl.get [] (u.me e.val).shadow.rows r.1 = r.2) ∧
      (∀ k, (∀ r ∈ rows, r.1 ≠ k) → Tbl.get [] (u.me e.val).shadow.rows k = Tbl.get [] (s.me e.val).shadow.rows k) ∧
      (c.tag.full = true → c.clears = false →
        (∀ r ∈ rows, Tbl.get [] (u.me e.val).active.rows r.1 = r.2) ∧
        ∀ k, (∀ r ∈ rows, r.1 ≠ k) → Tbl.get [] (u.me e.val).active.rows k = Tbl.get [] (s.me e.val).active.rows k) ∧
      (c.tag.full = false → (c.clears = false ∨ done + 1 < total) → (u.me e.val).active = (s.me e.val).active) ∧
      (c.clears = true → total ≤ done + 1 → (u.me e.val).active = { tag := .none, tile := 0#5, rows := [] }) ∧
      (done + 1 < total → (u.me e.val).shadow.tag = (s.me e.val).shadow.tag ∧
        (u.me e.val).active.tag = (s.me e.val).active.tag ∧
        (u.me e.val).inflight = ⟨seq, opc, .ldw { c with table := table, xtab := none } (done + 1), false⟩ :: rest ∧
        u.core = s.core) ∧
      (total ≤ done + 1 → (u.me e.val).shadow.tag = c.tag ∧ (u.me e.val).shadow.tile = BitVec.ofNat 5 c.tile ∧
        (c.tag.full = true → c.clears = false →
          (u.me e.val).active.tag = c.tag ∧ (u.me e.val).active.tile = BitVec.ofNat 5 c.tile) ∧
        (u.me e.val).inflight = rest ∧ QueueCompleted s u e.val seq) ∧
      (u.me e.val).pool = (s.me e.val).pool ∧ (u.me e.val).acc = (s.me e.val).acc ∧
      (∀ j, j ≠ e.val → u.me j = s.me j) ∧ u.mem.mem = s.mem.mem) ∧
  (∀ (s : State) (e : Fin 4) (seq : Word) (opc : Byte) (rest : List InFlight),
    s.inRun = true → (s.me e.val).inflight = ⟨seq, opc, .swap, false⟩ :: rest →
    ∃ u, exec (.swapTokenEntry e) s = .next u ∧
      u.me e.val = { s.me e.val with
        active := (s.me e.val).shadow, shadow := (s.me e.val).active
        inflight := ⟨seq, opc, .token (s.nc / 2), false⟩ :: rest } ∧
      (∀ j, j ≠ e.val → u.me j = s.me j) ∧ u = { s with engines := u.engines }) ∧
  (∀ (s : State) (e : Fin 4) (seq : Word) (opc : Byte) (entered : Nat) (rest : List InFlight),
    s.pending = [] → s.pins.alive = true → (s.nc + 1) % 2 = 0 → entered + 63 ≤ (s.nc + 1) / 2 →
    (s.me e.val).inflight = ⟨seq, opc, .token entered, false⟩ :: rest →
    (∀ x ∈ rest, ∀ b m, x.op ≠ .token b ∧ x.op ≠ .trel m) → (∀ j, j ≠ e.val → (s.me j).inflight = []) →
    ∃ u, step s = .next u ∧ u.me e.val = { s.me e.val with inflight := rest } ∧ QueueCompleted s u e.val seq ∧ u.mem = s.mem)

/-- MM, MMS and ACVT that pass their checks are taken with the fields of their registers, in the class of the active set or of
their input; MMS and ACVT with the descriptors and the bias vector that local memory then holds, and with the seed and the step; an
ACVT behind a command that still writes local memory is taken and reads them later. With no weights WEMPTY is set (R59, R97, R116,
R118, R119, R125, R127, R133, R161, R162, R388). -/
def Obligations.ArrayCommandsTaken : Prop :=
  (∀ (s : State) (e : Fin 4) (c : QueueCmd) (t : TileShape) (tag : ClassTag),
    MeReady s e 0x10 c → (mmChecks (s.me e.val) c).verdict = none → (s.me e.val).shape (fld 12 8 (c.reg 0)) = some t →
    tag = (s.me e.val).queueTags.1.1 →
    ∃ u, exec (.mm e) s = .next u ∧
      MeStarted s u e c (.mm {
        spl := bit 37 (c.reg 0), strict := bit 36 (c.reg 0), zero := bit 35 (c.reg 0), trans := bit 34 (c.reg 0)
        arow := fld 33 29 (c.reg 0), acc := fld 28 27 (c.reg 0), off := fld 26 23 (c.reg 0), count := fld 22 18 (c.reg 0)
        row := fld 17 13 (c.reg 0), tile := fld 12 8 (c.reg 0) } (if tag = .none then inputClass t.ty else tag) 0) ∧
      (u.me e.val).wempty = ((s.me e.val).wempty || tag == .none)) ∧
  (∀ (s : State) (e : Fin 4) (c : QueueCmd) (tag cls : ClassTag),
    MeReady s e 0x13 c → (s.me e.val).memSettled = true → s.mem.bad = [] →
    (mmsChecks s e c (s.mem.mem.readBytes (fld 31 0 (c.reg 1)) 64)
      (s.mem.mem.readBytes (fld 63 32 (c.reg 1)) 32)).verdict = none →
    fld 31 0 (c.reg 1) + 64 ≤ 0x200000 → fld 63 32 (c.reg 1) + 32 ≤ 0x200000 → tag = (s.me e.val).queueTags.1.1 →
    cls = (if tag = .none then inputClass (s.mem.mem.readLE (fld 31 0 (c.reg 1) + 5) 1) else tag) →
    ∃ u cmd, exec (.mms e) s = .next u ∧
      MeStarted s u e c (.mms cmd cls 0 0 0 (crc64 0#64 (BitVec.ofNat 8 e.val :: leBytes 2 (fld 31 20 (c.reg 0)) ++ 0#8 ::
        leBytes 4 (fld 19 8 (c.reg 0) + 1))) []) ∧
      AgdHeld s.mem.mem (fld 31 0 (c.reg 1)) cmd.agd ∧
      OcdHeld s (fld 63 32 (c.reg 1)) (cls.outs (bit 32 (c.reg 0))) cmd.ocd ∧
      cmd.ocd.osid = fld 31 20 (c.reg 0) ∧ cmd.ocd.strict = bit 33 (c.reg 0) ∧
      cmd.accp = bit 35 (c.reg 0) ∧ cmd.spl = bit 34 (c.reg 0) ∧ cmd.strict = bit 33 (c.reg 0) ∧
      cmd.trans = bit 32 (c.reg 0) ∧ cmd.count = fld 19 8 (c.reg 0) ∧ cmd.dst = fld 31 0 (c.reg 2) ∧
      cmd.dstride = fld 63 32 (c.reg 2) ∧
      cmd.psum = (if c.regs.length = 4 then some (fld 31 0 (c.reg 3), fld 63 32 (c.reg 3)) else none) ∧
      (u.me e.val).wempty = ((s.me e.val).wempty || tag == .none)) ∧
  (∀ (s : State) (e : Fin 4) (c : QueueCmd), MeReady s e 0x14 c →
    ((s.me e.val).memSettled = false →
      ∃ u, exec (.acvt e) s = .next u ∧ MeStarted s u e c (.acvtWait c.regs s.stats.seed s.stats.step s.hid)) ∧
    ((s.me e.val).memSettled = true → s.mem.bad = [] → fld 31 0 (c.reg 1) + 32 ≤ 0x200000 →
      (acvtChecks s e c (s.mem.mem.readBytes (fld 31 0 (c.reg 1)) 32)).verdict = none →
      ∃ u cmd, exec (.acvt e) s = .next u ∧
        MeStarted s u e c (.acvt cmd 0 none (crc64 0#64 (BitVec.ofNat 8 e.val :: leBytes 2 (fld 31 20 (c.reg 0)) ++ 0#8 ::
          leBytes 4 (fld 19 15 (c.reg 0) + 1)))) ∧
        OcdHeld s (fld 31 0 (c.reg 1)) (if bit 45 (c.reg 0) then 16 else if bit 44 (c.reg 0) then 64 else 32) cmd.ocd ∧
        cmd.ocd.osid = fld 31 20 (c.reg 0) ∧ cmd.ocd.strict = false ∧
        cmd.f64 = bit 45 (c.reg 0) ∧ cmd.wide = bit 44 (c.reg 0) ∧ cmd.clr = bit 43 (c.reg 0) ∧
        cmd.drow = fld 42 38 (c.reg 0) ∧ cmd.dtile = fld 37 33 (c.reg 0) ∧ cmd.toTile = bit 32 (c.reg 0) ∧
        cmd.count = fld 19 15 (c.reg 0) ∧ cmd.arow = fld 14 10 (c.reg 0) ∧ cmd.acc = fld 9 8 (c.reg 0) ∧
        cmd.dst = fld 31 0 (c.reg 2) ∧ cmd.dstride = fld 63 32 (c.reg 2)))

/-- An input row of an MM: its outputs go to the accumulator rows the command names, the busy and gated counters go up, every
other accumulator byte stays, and the last row completes the command (R113, R114, R116, R121, R137, R139). -/
def Obligations.MatrixRowAccumulates : Prop :=
  ∀ (s : State) (e : Fin 4) (seq : Word) (opc : Byte) (c : MmCmd) (cls : ClassTag) (done : Nat) (rest : List InFlight)
      (t : TileShape) (out : List FVal) (gated : Nat),
    s.inRun = true → (s.me e.val).inflight = ⟨seq, opc, .mm c cls done, false⟩ :: rest →
    (s.me e.val).shape c.tile = some t →
    (s.me e.val).rowError t c.tile (c.row + done) (t.slice (c.off * 16) (cls.inSlice c.trans)) = none →
    Memory.wf (s.me e.val).acc = true →
    rowOutputs ⟨cls, c.spl, c.strict, c.trans⟩ (s.me e.val).weights
        (sliceElems t.ty ((((s.me e.val).rowBytes t c.tile (c.row + done)).drop (c.off * 16)).take (cls.inSlice c.trans))
          (((s.me e.val).rowBytes t c.tile (c.row + done)).drop (t.len + c.off / 2)))
        (if c.zero then [] else (s.me e.val).getOutputs cls.accFmt c.acc (c.arow + done) (c.trans && cls.narrow)) =
      (out, gated) →
    ∃ u, exec (.accumulatorRowWrite e) s = .next u ∧
      (u.me e.val).acc = ((s.me e.val).setOutputs cls.accFmt c.acc (c.arow + done) out).acc ∧
      (∀ a, a < 128 * 32 * c.acc + 128 * (c.arow + done) ∨
          (128 * 32 * c.acc + 128 * (c.arow + done) + 128 ≤ a ∧
            (a < 128 * 32 * (c.acc + 1) + 128 * (c.arow + done) ∨ 128 * 32 * (c.acc + 1) + 128 * (c.arow + done) + 128 ≤ a)) →
        (u.me e.val).acc.read a = (s.me e.val).acc.read a) ∧
      (u.me e.val).abusy = (s.me e.val).abusy + BitVec.ofNat 64 (cls.passes c.spl) ∧
      (u.me e.val).gated = (s.me e.val).gated + BitVec.ofNat 64 gated ∧
      (done < c.count → (u.me e.val).inflight = ⟨seq, opc, .mm c cls (done + 1), false⟩ :: rest ∧ u.core = s.core) ∧
      (c.count ≤ done → (u.me e.val).inflight = rest ∧ QueueCompleted s u e.val seq) ∧
      (u.me e.val).active = (s.me e.val).active ∧ (u.me e.val).pool = (s.me e.val).pool ∧ u.mem = s.mem

/-- The check of a group: with more saturations than the threshold and a retry left, another attempt follows and nothing else
changes; otherwise the converted rows are written and the group is counted. An ACVT to local memory writes its rows at its stride,
then folds its digest and completes; one to a tile keeps them for the tile, whose row writes follow, the last of them folding the
digest and completing; an MMS writes group after group and folds and completes with the last. CLR zeroes the rows that were read
(R59, R80, R126, R134, R164, R171, R172, R388, R389). -/
def Obligations.ConversionWritesGroup : Prop :=
  (∀ (s : State) (e : Fin 4) (seq : Word) (opc : Byte) (c : AcvtCmd) (h : Nat) (crc crc' : DWord) (rest : List InFlight)
      (out : List (List Byte)) (counts : Counts) (extra : Option (Nat × Byte)),
    s.inRun = true → (s.me e.val).inflight = ⟨seq, opc, .acvt c h none crc, false⟩ :: rest →
    convertGroup c.ocd h 0 ((List.range (c.count + 1)).map fun r =>
      (s.me e.val).getOutputs (if c.f64 then .fp64 else .fp32) c.acc (c.arow + r) c.wide) = (out, counts) →
    extra = (if c.ocd.adj = 0 ∨ (6 ≤ c.ocd.otype ∧ c.ocd.otype ≤ 8) then none else some (c.ocd.adj, BitVec.ofNat 8 h)) →
    crc' = crc64 crc (out.flatten ++ [BitVec.ofNat 8 h]) →
    Tbl.wf 0#64 s.digests.val = true → Tbl.wf 0#32 s.digests.cnt = true → Memory.wf s.mem.mem = true →
    (c.ocd.sthr < counts.sat → h < c.ocd.retry →
      ∃ u, exec (.saturationCheck e) s = .next u ∧
        u.me e.val = { s.me e.val with inflight := ⟨seq, opc, .acvt c (h + 1) none crc, false⟩ :: rest } ∧
        (∀ j, j ≠ e.val → u.me j = s.me j) ∧ u = { s with engines := u.engines }) ∧
    (counts.sat ≤ c.ocd.sthr ∨ c.ocd.retry ≤ h →
      ∃ u, exec (.saturationCheck e) s = .next u ∧
        u.stats = s.stats.group c.ocd.tsen c.ocd.tset counts h (decide (c.ocd.sthr < counts.sat)) ∧
        (c.clr = false → (u.me e.val).acc = (s.me e.val).acc) ∧
        (c.clr = true → ∀ r, c.arow ≤ r → r ≤ c.arow + c.count → ∀ k, k < 128 →
          (u.me e.val).acc.read (4096 * c.acc + 128 * r + k) = 0#8 ∧
          (c.wide = true → (u.me e.val).acc.read (4096 * (c.acc + 1) + 128 * r + k) = 0#8)) ∧
        (c.toTile = false → (u.me e.val).inflight = rest ∧ QueueCompleted s u e.val seq ∧
          Folded s.digests u.digests c.ocd.osid crc' ∧
          (s.digests.log = false → RowsApart c.dst c.dstride out extra →
            RowsWritten s.mem.mem u.mem.mem c.dst c.dstride out extra)) ∧
        (c.toTile = true → (u.me e.val).inflight = ⟨seq, opc, .acvt c h (some (out, c.drow)) crc', false⟩ :: rest ∧
          (u.me e.val).pool = (s.me e.val).pool ∧ u.core = s.core ∧ u.digests = s.digests ∧
          RowsWritten s.mem.mem u.mem.mem 0 0 [] extra))) ∧
  (∀ (s : State) (e : Fin 4) (seq : Word) (opc : Byte) (c : AcvtCmd) (h row : Nat) (crc : DWord) (rest : List InFlight)
      (bs : List Byte) (rows : List (List Byte)) (t : TileShape),
    s.inRun = true → (s.me e.val).inflight = ⟨seq, opc, .acvt c h (some (bs :: rows, row)) crc, false⟩ :: rest →
    (s.me e.val).shape c.dtile = some t → bs.length = t.stride → c.dtile < 32 → row < 32 →
    Memory.wf (s.me e.val).pool = true → Tbl.wf 0#64 s.digests.val = true → Tbl.wf 0#32 s.digests.cnt = true →
    ∃ u, exec (.tileRowWriteComplete e) s = .next u ∧
      RowsWritten (s.me e.val).pool (u.me e.val).pool (t.base + row * t.stride) 0 [bs] none ∧
      (u.me e.val).rowValid c.dtile row = true ∧
      (∀ j r, (j ≠ c.dtile ∨ r ≠ row) → (u.me e.val).rowValid j r = (s.me e.val).rowValid j r) ∧
      (rows ≠ [] → (u.me e.val).inflight = ⟨seq, opc, .acvt c h (some (rows, row + 1)) crc, false⟩ :: rest ∧
        u.core = s.core ∧ u.digests = s.digests) ∧
      (rows = [] → (u.me e.val).inflight = rest ∧ QueueCompleted s u e.val seq ∧ Folded s.digests u.digests c.ocd.osid crc)) ∧
  (∀ (s : State) (e : Fin 4) (seq : Word) (opc : Byte) (c : MmsCmd) (cls : ClassTag) (done g h n : Nat) (crc crc' : DWord)
      (ahead : List (List FVal)) (rest : List InFlight) (out : List (List Byte)) (counts : Counts) (extra : Option (Nat × Byte)),
    s.inRun = true → (s.me e.val).inflight = ⟨seq, opc, .mms c cls done g h crc ahead, false⟩ :: rest →
    n = min 32 (c.count + 1 - 32 * g) → 32 * g + n ≤ done →
    convertGroup c.ocd h (32 * g) ((List.range n).map fun r =>
      (s.me e.val).getOutputs cls.accFmt (mmsStage c cls g) r (c.trans && cls.narrow)) = (out, counts) →
    extra = (if c.ocd.adj = 0 ∨ (6 ≤ c.ocd.otype ∧ c.ocd.otype ≤ 8) then none else some (c.ocd.adj + g, BitVec.ofNat 8 h)) →
    crc' = crc64 crc (out.flatten ++ [BitVec.ofNat 8 h]) →
    Tbl.wf 0#64 s.digests.val = true → Tbl.wf 0#32 s.digests.cnt = true → Memory.wf s.mem.mem = true →
    (c.ocd.sthr < counts.sat → h < c.ocd.retry →
      ∃ u, exec (.saturationCheck e) s = .next u ∧
        u.me e.val = { s.me e.val with inflight := ⟨seq, opc, .mms c cls done g (h + 1) crc ahead, false⟩ :: rest } ∧
        (∀ j, j ≠ e.val → u.me j = s.me j) ∧ u = { s with engines := u.engines }) ∧
    (counts.sat ≤ c.ocd.sthr ∨ c.ocd.retry ≤ h → s.may 0x51 .loc true = true →
      (∀ r row, out[r]? = some row → c.dst + (32 * g + r) * c.dstride + row.length ≤ 0x200000) →
      (∀ p, extra = some p → p.1 < 0x200000) →
      ∃ u, exec (.saturationCheck e) s = .next u ∧
        u.stats = s.stats.group c.ocd.tsen c.ocd.tset counts h (decide (c.ocd.sthr < counts.sat)) ∧
        (u.me e.val).acc = (s.me e.val).acc ∧ (u.me e.val).pool = (s.me e.val).pool ∧
        (s.digests.log = false → RowsApart (c.dst + 32 * g * c.dstride) c.dstride out extra →
          RowsWritten s.mem.mem u.mem.mem (c.dst + 32 * g * c.dstride) c.dstride out extra) ∧
        (32 * (g + 1) ≤ c.count → u.core = s.core ∧ u.digests = s.digests ∧
          (u.me e.val).inflight = ⟨seq, opc, .mms c cls done (g + 1) 0 crc' ahead, false⟩ :: rest) ∧
        (c.count < 32 * (g + 1) → (u.me e.val).inflight = rest ∧ QueueCompleted s u e.val seq ∧
          Folded s.digests u.digests c.ocd.osid crc')))

/-! The vector engine. -/

/-- VOP, VPLOAD, VEP and VRED that pass their checks are taken while no other command is in progress, and change nothing yet; one
that breaks a field rule stops its queue with BAD_COMMAND, and one whose access is not allowed with ACCESS_DENIED, recorded and
without effect (R59, R61, R180, R187, R188, R190, R191, R198; one at a time: log 7). -/
def Obligations.VectorCommandsTaken : Prop :=
  ∀ (s : State) (c : QueueCmd), s.head 4 = some c → s.ve.inflight = [] →
    (∀ (v : VopFields) (d : VCmd), v = vopFields c.regs → d = vopCmd v → c.opc = 0x40 →
      (vopFieldsBad v = false → d.bad = false → d.denied s = false → ∃ u, exec .vop s = .next u ∧ VeStarted s u c) ∧
      (vopFieldsBad v = true ∨ d.bad = true → ∃ u, exec .vop s = .next u ∧ VeRefused s u c Code.badCommand) ∧
      (vopFieldsBad v = false → d.bad = false → d.denied s = true →
        ∃ u, exec .vop s = .next u ∧ VeRefused s u c Code.accessDenied)) ∧
    (∀ a, a = fld 63 32 (c.reg 0) → c.opc = 0x41 →
      (c.regs.length = 1 → fld 31 11 (c.reg 0) = 0 → a % 128 = 0 → a + 128 ≤ 0x200000 → s.may 0x51 .loc false = true →
        ∃ u, exec .vpload s = .next u ∧ VeStarted s u c) ∧
      (c.regs.length ≠ 1 ∨ fld 31 11 (c.reg 0) ≠ 0 ∨ a % 128 ≠ 0 ∨ 0x200000 < a + 128 →
        ∃ u, exec .vpload s = .next u ∧ VeRefused s u c Code.badCommand) ∧
      (c.regs.length = 1 → fld 31 11 (c.reg 0) = 0 → a % 128 = 0 → a + 128 ≤ 0x200000 → s.may 0x51 .loc false = false →
        ∃ u, exec .vpload s = .next u ∧ VeRefused s u c Code.accessDenied)) ∧
    (∀ (v : VopFields) (img : List Byte) (d : VCmd), v = vopFields c.regs → img = s.ve.image (v.func % 8) → d = vepCmd img v →
      c.opc = 0x42 →
      (vepFieldsBad s.ve img v = false → d.bad = false → d.denied s = false →
        ∃ u, exec .vep s = .next u ∧ VeStarted s u c) ∧
      (vepFieldsBad s.ve img v = true ∨ d.bad = true → ∃ u, exec .vep s = .next u ∧ VeRefused s u c Code.badCommand) ∧
      (vepFieldsBad s.ve img v = false → d.bad = false → d.denied s = true →
        ∃ u, exec .vep s = .next u ∧ VeRefused s u c Code.accessDenied)) ∧
    (∀ (v : VredFields) (d : VCmd), v = vredFields c.regs → d = vredCmd v → c.opc = 0x43 →
      (vredBad c v = false → d.bad = false → d.denied s = false → s.may 0x51 .loc true = true →
        ∃ u, exec .vred s = .next u ∧ VeStarted s u c) ∧
      (vredBad c v = true ∨ d.bad = true → ∃ u, exec .vred s = .next u ∧ VeRefused s u c Code.badCommand) ∧
      (vredBad c v = false → d.bad = false → (d.denied s = true ∨ s.may 0x51 .loc true = false) →
        ∃ u, exec .vred s = .next u ∧ VeRefused s u c Code.accessDenied))

/-- The vector engine's command in progress, on words that can be read, has its effect and completes. VOP: element i of the
destination holds the result of its operation on the operands' elements i, and clamps set ISAT; GATHER takes the table's elements,
or zero; SCATTER writes them, the highest index winning; indices past the table are counted. VPLOAD fills its slot, or faults and
leaves it. VEP writes what its program gives each element. VRED writes the record of every segment. All else of the registers and
of memory stays (R176, R180-R183, R186, R188-R192, R195). -/
def Obligations.VectorResultsWritten : Prop :=
  ∀ (s : State) (x : VeCmd) (rest : List VeCmd) (op : Nat),
    s.inRun = true → s.ve.inflight = x :: rest → x.old = false → s.mem.bad = [] → op = (x.regs.getD 0 0#64).toNat % 256 →
    Tbl.wf 0#32 s.ve.vregs = true → Memory.wf s.mem.mem = true → Memory.wf s.ve.progs = true →
    (∀ (v : VopFields) (a b c idx : Nat → Nat), op = 0x40 → v = vopFields x.regs → vopFieldsBad v = false →
      (vopCmd v).bad = false →
      a = vecOperand s v.a v.aaddr v.ty.size v.k → b = vecOperand s v.b v.baddr v.ty.size v.k →
      c = vecOperand s v.c v.caddr v.ty.size v.k → idx = vecOperand s v.b v.baddr 4 v.k →
      (v.func ≠ 0x39 → v.func ≠ 0x3A → ∃ u, exec .veCompletion s = .next u ∧ VeEnded s u x rest ∧
        ElementsWritten s u v.d v.daddr v.outTy.size v.count (fun i r => VopMeaning x v i (a i) (b i) (c i) r) ∧
        (u.ve.isat = true ↔ s.ve.isat = true ∨ (v.sat = true ∧
          ∃ i < v.count, clampTo v.ty.width (exactInt v (a i) (b i)) ≠ exactInt v (a i) (b i)))) ∧
      (v.func = 0x39 → ∃ u, exec .veCompletion s = .next u ∧ VeEnded s u x rest ∧
        ElementsWritten s u v.d v.daddr v.ty.size v.count (fun i r =>
          (idx i < v.k → r = s.mem.mem.readLE (v.aaddr + idx i * v.ty.size) v.ty.size) ∧ (v.k ≤ idx i → r = 0)) ∧
        u.ve.oob = satAdd s.ve.oob ((List.range v.count).countP fun i => v.k ≤ idx i)) ∧
      (v.func = 0x3A → ∃ u, exec .veCompletion s = .next u ∧ VeEnded s u x rest ∧
        (∀ i, i < v.count → idx i < v.k → (∀ j, i < j → j < v.count → idx j ≠ idx i) →
          u.mem.mem.readLE (v.daddr + idx i * v.ty.size) v.ty.size = a i) ∧
        (∀ y, (∀ i, i < v.count → idx i < v.k →
            y < v.daddr + idx i * v.ty.size ∨ v.daddr + idx i * v.ty.size + v.ty.size ≤ y) →
          u.mem.mem.read y = s.mem.mem.read y) ∧ u.ve.vregs = s.ve.vregs ∧
        u.ve.oob = satAdd s.ve.oob ((List.range v.count).countP fun i => v.k ≤ idx i))) ∧
    (∀ (addr slot : Nat) (img : List Byte), op = 0x41 → addr = fld 63 32 (x.regs.getD 0 0#64).toNat →
      slot = fld 10 8 (x.regs.getD 0 0#64).toNat → img = s.mem.mem.readBytes addr 128 →
      (progBad img = false → ∃ u, exec .veCompletion s = .next u ∧ u.ve.inflight = rest ∧ QueueCompleted s u 4 x.seq ∧
        (∀ k, k < 128 → u.ve.progs.read (128 * slot + k) = s.mem.mem.read (addr + k)) ∧
        (∀ k, k < 128 * slot ∨ 128 * slot + 128 ≤ k → u.ve.progs.read k = s.ve.progs.read k) ∧
        (∀ k, k < 8 → u.ve.pvalid.getLsbD k = (s.ve.pvalid.getLsbD k || k == slot)) ∧
        u.ve.vregs = s.ve.vregs ∧ u.mem.mem = s.mem.mem) ∧
      (progBad img = true → ∃ u, exec .veCompletion s = .next u ∧ u.ve.inflight = rest ∧ (u.queue 4).stopped = true ∧
        ((s.queue 4).stopped = false → (u.queue 4).fcode = Code.badCommand) ∧ u.ve.fValid = true ∧
        u.ve.progs = s.ve.progs ∧ u.ve.pvalid = s.ve.pvalid ∧ u.ve.vregs = s.ve.vregs ∧ u.mem.mem = s.mem.mem)) ∧
    (∀ (v : VopFields) (img : List Byte) (ins : Nat → Nat → Nat), op = 0x42 → v = vopFields x.regs →
      img = s.ve.image (v.func % 8) → vepFieldsBad s.ve img v = false → (vepCmd img v).bad = false →
      ins = (fun i j => vecOperand s ([v.a, v.b, v.c].getD j 15) ([v.aaddr, v.baddr, v.caddr].getD j 0)
        (VType.of (leAt img (72 + j) 1)).size 0 i) →
      ∃ u, exec .veCompletion s = .next u ∧ VeEnded s u x rest ∧
        ElementsWritten s u v.d v.daddr (VType.target (leAt img 75 1)).size v.count
          (fun i r => VepMeaning x v img i (ins i) r)) ∧
    (∀ (v : VredFields) (c : QueueCmd), op = 0x43 → v = vredFields x.regs → c.regs = x.regs → vredBad c v = false →
      (vredCmd v).bad = false →
      ∃ u, exec .veCompletion s = .next u ∧ VeEnded s u x rest ∧ u.ve.vregs = s.ve.vregs ∧
        (∀ k, k < v.count / v.seg → ∃ r : RedRecord, u.mem.mem.readBytes (v.raddr + 16 * k) 16 = r.bytes ∧
          RedMeaning v.ty v.func v.sx ((List.range v.seg).map fun j =>
            v.ty.value (vecOperand s v.a v.aaddr v.ty.size 0 (k * v.seg + j))) r) ∧
        ∀ y, y < v.raddr ∨ v.raddr + 16 * (v.count / v.seg) ≤ y → u.mem.mem.read y = s.mem.mem.read y)

/-- Integer ADD, SUB and MUL of the vector engine wrap modulo the width; with SAT they give the nearest value the type holds
(R181, R182). -/
def Obligations.VectorIntegersWrapOrClamp : Prop :=
  ∀ (w a b : Nat), w ∈ [8, 16, 32] → a < 2 ^ w → b < 2 ^ w →
    (intOp w 0x01 false a b).bits = (a + b) % 2 ^ w ∧
    (intOp w 0x02 false a b).bits = (a + 2 ^ w - b) % 2 ^ w ∧
    (intOp w 0x03 false a b).bits = a * b % 2 ^ w ∧
    sext w (intOp w 0x01 true a b).bits = max (-(2 ^ (w - 1) : Int)) (min (2 ^ (w - 1) - 1) (sext w a + sext w b)) ∧
    sext w (intOp w 0x02 true a b).bits = max (-(2 ^ (w - 1) : Int)) (min (2 ^ (w - 1) - 1) (sext w a - sext w b)) ∧
    sext w (intOp w 0x03 true a b).bits = max (-(2 ^ (w - 1) : Int)) (min (2 ^ (w - 1) - 1) (sext w a * sext w b))

/-- The group sum of fast arithmetic depends only on the products of the group, not on the order in which they are met (R153). -/
def Obligations.GroupSumsIgnoreOrder : Prop :=
  ∀ (f : Fmt) (w : Nat) (acc : FVal) (ps qs : List FVal), ps.Perm qs →
    groupSpecial ps = groupSpecial qs ∧ windowSum w ps = windowSum w qs ∧
      fastAdd f w acc ps (groupSpecial ps) = fastAdd f w acc qs (groupSpecial qs)

/-- A finite element of each stored floating type is its own nearest value: decoding, rounding and encoding give it back
(R141, R142). -/
def Obligations.FiniteElementsRoundTrip : Prop :=
  ∀ (f : Fmt) (x : Nat), f ∈ [Fmt.bf16, Fmt.fp16, Fmt.fp32, Fmt.fp64, Fmt.e4m3, Fmt.e5m2] →
    x < 2 ^ (f.man + f.exp + 1) → Val.isFinite (f.decode x) = true → f.encode (f.rnd (f.decode x)) = x

/-! Streams and far memory. -/

/-- SARM starts an armable program context at its first block; REARM starts a DONE one again with new bases, keeping DELIVERED, and
waits in the engine while the context runs; SSTOP leaves a context with no transfer out IDLE at its lowest incomplete position, and
waits for the transfers of any other. A command that breaks a rule stops queue 5 and changes no context, nor does one context's
command change another context (R209-R212). -/
def Obligations.StreamCommandsActOnContext : Prop :=
  ∀ (s : State) (c : QueueCmd) (i : Nat) (x : StreamCtx), s.head5 = some c → i = cmdCtx c → x = s.ctx i →
    Tbl.wf StreamCtx.idle s.se.ctxs = true →
    (c.opc = 0x60 → ∀ bad : Prop,
      (bad ↔ (c.regs.length < 2 ∨ 3072 ≤ i ∨ fld 40 20 (c.reg 0) ≠ 0 ∨ fld 63 48 (c.reg 0) = 0 ∨ c.reg 1 % 32 ≠ 0 ∨
        isEndpoint (c.reg 1) = false)) →
      (¬ bad → 64 ≤ i → x.state ∈ [.idle, .done, .fault] →
        ∃ u, exec .sarm s = .next u ∧
          u.ctx i = { x with
            list := BitVec.ofNat 64 (c.reg 1), sbase := BitVec.ofNat 64 (c.reg 2), dbase := BitVec.ofNat 64 (c.reg 3)
            nblk := fld 63 48 (c.reg 0), limit := fld 47 42 (c.reg 0) + 1, pers := bit 41 (c.reg 0), state := .running
            delivered := 0#32, cur := 0, offset := 0, fcode := 0#16, iblk := 0, ioff := 0, desc := none, halt := none
            pauseAt := none } ∧
          ContextsKept s u i ∧ u.core = ((s.take 5 c).complete 5 c.seq).core ∧ u = { s with core := u.core, se := u.se }) ∧
      (bad → ∃ u, exec .sarm s = .next u ∧ QueueFaulted s u 5 c Code.badCommand ∧ u.se = s.se ∧ u.mem = s.mem) ∧
      (¬ bad → i < 64 → ∃ u, exec .sarm s = .next u ∧ QueueFaulted s u 5 c Code.accessDenied ∧ u.se = s.se ∧
        u.mem = s.mem) ∧
      (¬ bad → 64 ≤ i → x.state ∈ [.running, .pageHalt, .paused] →
        ∃ u, exec .sarm s = .next u ∧ QueueFaulted s u 5 c Code.badCommand ∧ u.se = s.se ∧ u.mem = s.mem)) ∧
    (c.opc = 0x61 → ∀ bad : Prop, (bad ↔ (c.regs.length ≠ 3 ∨ 3072 ≤ i ∨ fld 63 20 (c.reg 0) ≠ 0)) →
      (¬ bad → 64 ≤ i → x.pers = true → x.state = .done →
        ∃ u, exec .rearm s = .next u ∧
          u.ctx i = { x with
            sbase := BitVec.ofNat 64 (c.reg 1), dbase := BitVec.ofNat 64 (c.reg 2), state := .running, cur := 0, offset := 0
            iblk := 0, ioff := 0, desc := none, halt := none, pauseAt := none } ∧
          ContextsKept s u i ∧ u.core = ((s.take 5 c).complete 5 c.seq).core ∧ u.se.wait = none ∧
          u = { s with core := u.core, se := u.se }) ∧
      (¬ bad → 64 ≤ i → x.pers = true → x.state ∈ [.running, .pageHalt] →
        ∃ u, exec .rearm s = .next u ∧ QueueTook s u 5 c ∧ u.se = { s.se with
          wait := some (.rearm i (BitVec.ofNat 64 (c.reg 1)) (BitVec.ofNat 64 (c.reg 2)) (some c.seq)) } ∧ u.mem = s.mem) ∧
      (¬ bad → i < 64 → ∃ u, exec .rearm s = .next u ∧ QueueFaulted s u 5 c Code.accessDenied ∧ u.se = s.se ∧
        u.mem = s.mem) ∧
      (bad ∨ (64 ≤ i ∧ (x.pers = false ∨ x.state ∈ [.idle, .fault, .paused])) →
        ∃ u, exec .rearm s = .next u ∧ QueueFaulted s u 5 c Code.badCommand ∧ u.se = s.se ∧ u.mem = s.mem)) ∧
    (c.opc = 0x62 → ∀ bad : Prop, (bad ↔ (c.regs.length ≠ 1 ∨ 3072 ≤ i ∨ fld 63 20 (c.reg 0) ≠ 0)) →
      (¬ bad → 64 ≤ i → s.se.outOf i = [] → x.state ∉ [.idle, .paused] →
        ∃ u, exec .sstop s = .next u ∧ (u.ctx i).state = .idle ∧ (u.ctx i).delivered = x.delivered ∧
          (x.state = .running → x.halt = none → (u.ctx i).cur = x.iblk ∧ (u.ctx i).offset = x.ioff) ∧
          (x.state ≠ .running → (u.ctx i).cur = x.cur ∧ (u.ctx i).offset = x.offset) ∧
          ContextsKept s u i ∧ u.core = ((s.take 5 c).complete 5 c.seq).core ∧ u.se.wait = none ∧
          u = { s with core := u.core, se := u.se }) ∧
      (¬ bad → 64 ≤ i → s.se.outOf i ≠ [] → x.state ∉ [.idle, .paused] →
        ∃ u, exec .sstop s = .next u ∧ QueueTook s u 5 c ∧
          u.se = { s.se with wait := some (.sstop i (some c.seq)) } ∧ u.mem = s.mem) ∧
      (¬ bad → 64 ≤ i → x.state ∈ [.idle, .paused] →
        ∃ u, exec .sstop s = .next u ∧ u.core = ((s.take 5 c).complete 5 c.seq).core ∧ u = { s with core := u.core }) ∧
      (¬ bad → i < 64 → ∃ u, exec .sstop s = .next u ∧ QueueFaulted s u 5 c Code.accessDenied ∧ u.se = s.se ∧
        u.mem = s.mem) ∧
      (bad → ∃ u, exec .sstop s = .next u ∧ QueueFaulted s u 5 c Code.badCommand ∧ u.se = s.se ∧ u.mem = s.mem))

/-- The next piece of the context that is served goes out as one transfer, of at most 256 bytes within a 256-byte unit of its far
side, or of its destination: from local memory to local memory, and as zeros, with its bytes; from far memory as a read and to far
memory as a write with its bytes, each under a free tag and with its tokens taken. Local memory stays (R213, R214, R216-R218,
R228-R230, R463). -/
def Obligations.StreamIssuesLocalTransfer : Prop :=
  ∀ (s : State) (far : FarReply) (id : Nat) (d : BlockDesc) (off src dst left len : Nat) (x : Xfer),
    StreamServed s id d → off = (s.ctx id).ioff → PieceAt s id d off src dst left → s.mem.bad = [] →
    Tbl.wf StreamCtx.idle s.se.ctxs = true → clearOf (s.se.outOf id) src dst len d.zero = true →
    x = { ctx := id, blk := (s.ctx id).iblk, off := off, len := len, src := BitVec.ofNat 64 src, dst := BitVec.ofNat 64 dst
          zero := d.zero, tag := none, volat := false, ord := 0, faddr := 0, data := [] } →
    (isSys src = false → isSys dst = false → d.zero = false → len = min left (256 - dst % 256) →
      s.may 0x52 .loc false = true → s.may 0x52 .loc true = true →
      ∃ u, exec (.streamTransferIssue far) s = .next u ∧
        StreamIssued s u d { x with data := s.mem.mem.readBytes src len } []) ∧
    (isSys dst = false → d.zero = true → len = min left (256 - dst % 256) → s.may 0x52 .loc true = true →
      ∃ u, exec (.streamTransferIssue far) s = .next u ∧ StreamIssued s u d { x with data := List.replicate len 0#8 } []) ∧
    (∀ a page t, isSys src = true → isSys dst = false → d.zero = false → len = min left (256 - src % 256) →
      s.translate id (src % 2 ^ 57) false = .at_ a page → s.farMay 0x52 a len false = true → s.may 0x52 .loc true = true →
      s.se.shareZero (s.tokenClass a false) = false → 100 * len ≤ Vec.at s.se.buckets (s.tokenClass a false) →
      s.isVolatile a = false → s.freeTag = some t →
      ∃ u, exec (.streamTransferIssue far) s = .next u ∧
        StreamIssued s u d { x with tag := some t, ord := (s.ctx id).ord, faddr := a } [{
          tag := t, write := false, addr := a, len := len, mid := 0x52#7, use := .stream, data := [], err := .ok }] ∧
        Vec.at u.se.buckets (s.tokenClass a false) = Vec.at s.se.buckets (s.tokenClass a false) - 100 * len) ∧
    (∀ a page t data, isSys dst = true → (isSys src = false ∨ d.zero = true) → len = min left (256 - dst % 256) →
      s.translate id (dst % 2 ^ 57) true = .at_ a page → s.farMay 0x52 a len true = true →
      (d.zero = true ∨ s.may 0x52 .loc false = true) →
      data = (if d.zero then List.replicate len 0#8 else s.mem.mem.readBytes src len) →
      s.se.shareZero (s.tokenClass a true) = false → 100 * len ≤ Vec.at s.se.buckets (s.tokenClass a true) →
      s.freeTag = some t →
      ∃ u, exec (.streamTransferIssue far) s = .next u ∧
        StreamIssued s u d { x with tag := some t, faddr := a } [{
          tag := t, write := true, addr := a, len := len, mid := 0x52#7, use := .stream, data := data, err := .ok }] ∧
        Vec.at u.se.buckets (s.tokenClass a true) = Vec.at s.se.buckets (s.tokenClass a true) - 100 * len)

/-- The beats of a stream's far read are collected; with the last one its data is written at its destination and nowhere else, and
its tag is free; an acknowledged write, and a local transfer, end likewise. A block all of whose transfers have ended is delivered.
An error halts the context in FAULT with its code and address, and writes nothing. A response under a tag with no such request is
what R463 forbids, and stops the model (log 9) (R214, R215, R227, R463). -/
def Obligations.TransfersEnd : Prop :=
  (∀ (s : State) (tag : BitVec 11) (data : List Byte) (err : FarErr) (r : FarReq) (x : Xfer),
    s.pins.alive = true → s.farFind tag.toNat false = some r → s.farXfer r.tag = some x → Memory.wf s.mem.mem = true →
    Tbl.wf StreamCtx.idle s.se.ctxs = true →
    (∃ u, exec (.farReadData tag data false err) s = .next u ∧ u = { s with far := u.far } ∧
      u.far = s.far.map fun q => if q.tag = tag.toNat then
        { q with data := r.data ++ data, err := if r.err = .ok then err else r.err } else q) ∧
    (r.err = .ok → err = .ok →
      ∃ u, exec (.farReadData tag data true err) s = .next u ∧
        (∀ k, k < r.len → u.mem.mem.read (x.dst.toNat + k) = (r.data ++ data).getD k 0#8) ∧
        (∀ a, a < x.dst.toNat ∨ x.dst.toNat + r.len ≤ a → u.mem.mem.read a = s.mem.mem.read a) ∧
        u.far = s.far.filter (fun q => q.tag != tag.toNat) ∧ TransferDone s u x ∧ u.core.tasks = s.core.tasks) ∧
    (∀ e, e = (if r.err = .ok then err else r.err) → e ≠ .ok →
      ∃ u, exec (.farReadData tag data true err) s = .next u ∧ u.far = s.far.filter (fun q => q.tag != tag.toNat) ∧
        TransferFailed s u x (if e = .data then Code.eccUncorrected else Code.accessDenied) (x.src &&& ~~~1#64))) ∧
  (∀ (s : State) (tag : BitVec 11) (err : FarErr) (r : FarReq) (x : Xfer),
    s.pins.alive = true → s.farFind tag.toNat true = some r → r.use = .stream → s.farXfer r.tag = some x →
    Tbl.wf StreamCtx.idle s.se.ctxs = true →
    ∃ u, exec (.farWriteAck tag err) s = .next u ∧ u.far = s.far.filter (fun q => q.tag != tag.toNat) ∧
      (err = .ok → TransferDone s u x ∧ u.mem = s.mem) ∧
      (err ≠ .ok → TransferFailed s u x (if err = .data then Code.eccUncorrected else Code.accessDenied) (x.dst ||| 1#64))) ∧
  (∀ (s : State) (x : Xfer),
    s.pins.alive = true → s.se.xfers.find? (fun x => x.tag.isNone && !x.volat) = some x → Memory.wf s.mem.mem = true →
    Tbl.wf StreamCtx.idle s.se.ctxs = true →
    ∃ u, exec .localTransferComplete s = .next u ∧
      (∀ k, k < x.data.length → u.mem.mem.read (x.dst.toNat + k) = x.data.getD k 0#8) ∧
      (∀ a, a < x.dst.toNat ∨ x.dst.toNat + x.data.length ≤ a → u.mem.mem.read a = s.mem.mem.read a) ∧
      TransferDone s u x ∧ u.far = s.far) ∧
  (∀ (s : State) (tag : BitVec 11) (data : List Byte) (last : Bool) (err : FarErr),
    s.pins.alive = true →
    (s.farFind tag.toNat false = none → exec (.farReadData tag data last err) s = .fault (.farTagNotOutstanding tag.toNat)) ∧
    (s.farFind tag.toNat true = none → exec (.farWriteAck tag err) s = .fault (.farTagNotOutstanding tag.toNat)))

/-- A walk that ends in a valid leaf puts its page into the TLB and its context goes on; one that meets an entry that is not valid
halts a context with no transfer out in PAGE_HALT with the page's address, and one that meets an entry it cannot read, or a leaf
that forbids the write, in FAULT. A write of 1 to SE_TLBINV.ALL and a write of SE_PTROOT empty the TLB; SE_PTROOT keeps bits [56:12]
of the two words written (R221-R225, R227, R237). -/
def Obligations.TranslationChanges : Prop :=
  (∀ (s : State) (far : FarReply) (w : Walk) (rest : List Walk) (n entry e : Nat),
    s.pins.alive = true → s.se.walks = w :: rest → WalkReads s far w.addr n entry e → Tbl.wf StreamCtx.idle s.se.ctxs = true →
    (s.ctx w.ctx).state = .running → (s.ctx w.ctx).halt = none → s.se.outOf w.ctx = [] → s.se.wait = none →
    (s.ctx w.ctx).cur = w.blk → (s.ctx w.ctx).iblk = w.blk →
    (s.farMay 0x52 entry 8 false = true → farErrIn far entry 8 = .ok → pteValid n e = true → bit 62 e = true →
      ∃ u, exec (.pageTableWalk far) s = .next u ∧ u.se.walks = rest ∧
        u.se.tlb = ({ page := w.addr / (if n = 3 then 2 ^ 21 else 2 ^ 16) * (if n = 3 then 2 ^ 21 else 2 ^ 16), big := n == 3
                      addr := fld 56 8 e * 256, writable := bit 61 e } :: s.se.tlb).take 4096 ∧
        (w.write = false ∨ bit 61 e = true → u.se.ctxs = s.se.ctxs ∧ u = { s with se := u.se }) ∧
        (w.write = true → bit 61 e = false →
          WalkHalted s u w .fault Code.accessDenied ((2 ^ 60 + w.addr) ||| 1))) ∧
    (s.farMay 0x52 entry 8 false = true → farErrIn far entry 8 = .ok → pteValid n e = false →
      ∃ u, exec (.pageTableWalk far) s = .next u ∧ u.se.walks = rest ∧ u.se.tlb = s.se.tlb ∧
        WalkHalted s u w .pageHalt Code.pageHalt (2 ^ 60 + w.addr / 2 ^ 16 * 2 ^ 16 + flag 0 w.write)) ∧
    (s.farMay 0x52 entry 8 false = false →
      ∃ u, exec (.pageTableWalk far) s = .next u ∧ u.se.walks = rest ∧ u.se.tlb = s.se.tlb ∧
        WalkHalted s u w .fault Code.accessDenied (2 ^ 60 + entry)) ∧
    (s.farMay 0x52 entry 8 false = true → farErrIn far entry 8 ≠ .ok →
      ∃ u, exec (.pageTableWalk far) s = .next u ∧ u.se.walks = rest ∧ u.se.tlb = s.se.tlb ∧
        WalkHalted s u w .fault (if farErrIn far entry 8 = .data then Code.eccUncorrected else Code.accessDenied)
          (2 ^ 60 + entry))) ∧
  (∀ (s : State) (m : Master), s.pins.alive = true → s.may m.toNat .reg true = true →
    ∃ u, exec (.tlbInvalidate m) s = .next u ∧ Answered u m 0 ∧ u.se = { s.se with tlb := [] } ∧ u.mem = s.mem) ∧
  (∀ (s : State) (m : Master) (upper : Word), s.pins.alive = true → s.may m.toNat .reg true = true →
    ∃ u, exec (.ptrootWrite m upper) s = .next u ∧ Answered u m 0 ∧ u.mem = s.mem ∧
      u.se = { s.se with tlb := [], ptroot := BitVec.ofNat 64 (fld 56 12
        (upper.toNat * 2 ^ 32 + ((findKey 0x7018 s.lowers).getD (loWord s.se.ptroot)).toNat) * 2 ^ 12) })

/-- The scrubber, 256 N-cycles after its last row: the row's single-bit errors are corrected and counted, its first uncorrectable
word is recorded unless one is recorded already, the next row is next, and no byte changes; before that it does nothing (R204,
R205). -/
def Obligations.ScrubberCorrectsRow : Prop :=
  ∀ s : State, s.pins.alive = true →
    (s.mem.scrubNc + 256 ≤ s.nc →
      ∃ u, exec .patrolScrub s = .next u ∧ u.mem.mem = s.mem.mem ∧ u.mem.bad = s.mem.bad ∧
        u.mem.scrubRow = (s.mem.scrubRow + 1) % 32768 ∧ u.mem.scrubNc = s.nc ∧
        u.mem.eccCount = satAdd s.mem.eccCount (s.mem.singlesIn (64 * s.mem.scrubRow) 64) ∧
        u.mem.singlesIn (64 * s.mem.scrubRow) 64 = 0 ∧
        (∀ a, a + 8 ≤ 64 * s.mem.scrubRow ∨ 64 * s.mem.scrubRow + 64 ≤ a → u.mem.singlesIn (a / 8 * 8) 8 =
          s.mem.singlesIn (a / 8 * 8) 8) ∧
        (∀ k, k < 8 → 8 * s.mem.scrubRow + k ∈ s.mem.bad → (∀ j, j < k → 8 * s.mem.scrubRow + j ∉ s.mem.bad) →
          u.mem.eccValid = true ∧
          (s.mem.eccValid = false → u.mem.eccAddr = BitVec.ofNat 21 (64 * s.mem.scrubRow + 8 * k)))) ∧
    (s.nc < s.mem.scrubNc + 256 → exec .patrolScrub s = .next s)

/-! Sends, windows and barriers. -/

/-- An MSEND that passes its checks meets its credit entry: it is released with the entry's header and charged, or parked, or
completes unsent on a STALE entry. An XSEND does so when LC is its target, and counted as a slip when LC is past it by at most
GUARD; it is held while LC is below the target, until that comes, and stops queue 7 when LC is further past it. A send that
breaks a rule stops queue 7 (R253-R255, R293-R296). -/
def Obligations.SendsMeetCreditAndTime : Prop :=
  (∀ (s : State) (c : QueueCmd) (d : Send),
    s.head7 = some c → c.opc = 0x70 → d = sendNamed c (s.entryOf (fld 18 8 (c.reg 0))) → Memory.wf s.rings.credit = true →
    (s.sendFault c false = none → ∃ u, exec .msend s = .next u ∧ SendMet s u c d ∧ u.lehr = s.lehr) ∧
    (∀ code, s.sendFault c false = some code → ∃ u, exec .msend s = .next u ∧ QueueFaulted s u 7 c code ∧
      u.sched.sends = s.sched.sends ∧ u.rings = s.rings ∧ u.mem = s.mem)) ∧
  (∀ (s : State) (c : QueueCmd) (d : Send),
    s.head7 = some c → c.opc = 0x71 → d = sendNamed c (s.entryOf (fld 18 8 (c.reg 0))) → Memory.wf s.rings.credit = true →
    (∀ code, s.sendFault c true = some code → ∃ u, exec .xsend s = .next u ∧ QueueFaulted s u 7 c code ∧
      u.sched.sends = s.sched.sends ∧ u.rings = s.rings ∧ u.mem = s.mem) ∧
    (s.sendFault c true = none →
      (s.lehr.evLc.toNat = c.reg 2 ∨ s.journal.replaying = true →
        ∃ u, exec .xsend s = .next u ∧ SendMet s u c d ∧ u.lehr = s.lehr) ∧
      (s.journal.replaying = false → s.lehr.evLc.toNat < c.reg 2 →
        ∃ u, exec .xsend s = .next u ∧ u = { s with sched := { s.sched with held := some (d, BitVec.ofNat 64 (c.reg 2)) } }) ∧
      (s.journal.replaying = false → c.reg 2 < s.lehr.evLc.toNat → s.lehr.evLc.toNat ≤ c.reg 2 + s.lehr.guard.toNat →
        ∃ u, exec .xsend s = .next u ∧ SendMet s u c d ∧ u.lehr = { s.lehr with slip := satAdd s.lehr.slip 1 }) ∧
      (s.journal.replaying = false → c.reg 2 + s.lehr.guard.toNat < s.lehr.evLc.toNat →
        ∃ u, exec .xsend s = .next u ∧ QueueFaulted s u 7 c Code.schedSlip ∧ u.lehr.slipSticky = true ∧
          u.lehr.sfValid = true ∧ (s.lehr.sfValid = false →
            u.lehr.sfLate = BitVec.ofNat 16 (min (s.lehr.evLc.toNat - c.reg 2) 65535)) ∧
          u.sched.sends = s.sched.sends ∧ u.rings = s.rings ∧ u.mem = s.mem))) ∧
  (∀ (s : State) (d : Send) (target : DWord) (c : QueueCmd),
    s.sched.held = some (d, target) → s.head 7 = some c → d.seq = some c.seq → d.entry < 2048 → Memory.wf s.rings.credit = true →
    (target.toNat ≤ s.lehr.evLc.toNat → ∃ u, exec .xsendRelease s = .next u ∧ SendMet s u c d ∧ u.lehr = s.lehr) ∧
    (s.lehr.evLc.toNat < target.toNat → exec .xsendRelease s = .next s))

/-- A released send whose payload reads well leaves with it (through an EXACT gather entry as 64-bit terms, OVF and NF set), is
counted, and completes; one whose payload cannot be read stops queue 7 with nothing sent. Local memory stays. RWIN arms its window and completes;
one that breaks a rule, or names an active window, stops queue 7. The other windows stay (R254, R256, R260, R298, R412). -/
def Obligations.SendsCompleteAndWindowsArm : Prop :=
  (∀ (s : State) (d : Send) (rest : List Send) (paddr len : Nat) (seq : Word),
    s.pins.alive = true → s.sched.sends = d :: rest → d.src = .memory paddr len → d.seq = some seq →
    Tbl.wf 0#32 s.rings.sendCount = true →
    ((len = 0 ∨ s.may 0x51 .loc false = true) → s.mem.badIn paddr len = none → s.journal.rstate ≠ .replay →
      ∃ u x, exec .sendCompletion s = .next u ∧ u.sched = { s.sched with sends := rest } ∧
        u.router.txq = s.router.txq ++ [(x, false)] ∧ x.w0 = d.w0 ∧
        (d.exact = none → x.w1 = d.w1 ∧ x.payload = s.mem.mem.readBytes paddr len) ∧
        (∀ sx, d.exact = some sx →
          let terms := (List.range (len / 4)).map fun i => exactTerm sx (s.mem.mem.readLE (paddr + 4 * i) 4)
          x.payload = terms.flatMap (fun t => leBytes 8 t.1) ∧
          x.w1 = d.w1 ||| BitVec.ofNat 64 (flag 51 (terms.any (·.2.1)) + flag 52 (terms.any (·.2.2)))) ∧
        u.rings = { s.rings with tx := s.rings.tx + 1#64, sendCount := u.rings.sendCount } ∧
        (∀ e, Tbl.get 0#32 u.rings.sendCount e = Tbl.get 0#32 s.rings.sendCount e + (if e = d.entry then 1#32 else 0#32)) ∧
        QueueCompleted s u 7 seq ∧ u.mem.mem = s.mem.mem) ∧
    (0 < len → (s.may 0x51 .loc false = false ∨ s.mem.badIn paddr len ≠ none) →
      ∃ u, exec .sendCompletion s = .next u ∧ u.sched = { s.sched with sends := rest } ∧ u.router.txq = s.router.txq ∧
        (u.queue 7).stopped = true ∧ ((s.queue 7).stopped = false → (u.queue 7).fcode =
          (if s.may 0x51 .loc false then Code.eccUncorrected else Code.accessDenied)) ∧
        u.rings = s.rings ∧ u.mem.mem = s.mem.mem)) ∧
  (∀ (s : State) (c : QueueCmd) (w : Nat) (bad : Prop),
    s.head7 = some c → c.opc = 0x72 → w = fld 29 24 (c.reg 0) →
    (bad ↔ (c.regs.length ≠ 3 ∨ fld 47 30 (c.reg 0) ≠ 0 ∨ fld 23 21 (c.reg 0) ≠ 0 ∨ fld 63 48 (c.reg 0) = 0 ∨
      fld 20 8 (c.reg 0) < 32 ∨ c.reg 2 ≤ c.reg 1 ∨ (Vec.at s.sched.windows w).active = true)) →
    (¬ bad → ∃ u, exec .rwin s = .next u ∧
      Vec.at u.sched.windows w = {
        active := true, done := false, tag := fld 20 8 (c.reg 0), expect := fld 63 48 (c.reg 0)
        opens := BitVec.ofNat 64 (c.reg 1), closes := BitVec.ofNat 64 (c.reg 2), count := 0, order := s.sched.armed } ∧
      (∀ k, k ≠ w → Vec.at u.sched.windows k = Vec.at s.sched.windows k) ∧
      u.core = ((s.take 7 c).complete 7 c.seq).core ∧ u = { s with core := u.core, sched := u.sched }) ∧
    (bad → ∃ u, exec .rwin s = .next u ∧ QueueFaulted s u 7 c Code.badCommand ∧
      u.sched.windows = s.sched.windows ∧ u.mem = s.mem))

/-- The root of a barrier counts a good ARRIVE of its generation (one that the cluster sent itself in the beat after it left); the
one that reaches EXPECT zeroes the count, opens the next generation and multicasts the RELEASE with PASS = the beat it counts in +
MARGIN; any other ARRIVE is discarded and counted. The other barriers stay (R286, R289). -/
def Obligations.RootCountsArrives : Prop :=
  ∀ (s : State) (i : Inbound) (rest : List Inbound) (b : Nat) (good : Prop) (x : Barrier),
    s.pins.alive = true → s.router.pick (fun m => Msg.kind m == Kind.sync && Msg.sop m != 2) = some (i, rest) →
    b = Msg.bid i.msg → x = s.barrier b →
    (good ↔ (Msg.sop i.msg = 1 ∧ b ≤ 13 ∧ x.expect ≠ 0#24 ∧ Msg.domain i.msg = s.gaffer.domain.toNat ∧
      Msg.gen i.msg = x.rgen.toNat)) →
    (i.port = 5 → s.beat ≤ i.beat → exec .arriveReceive s = .next s) ∧
    (i.port ≠ 5 ∨ i.beat < s.beat → good →
      ∃ u, exec .arriveReceive s = .next u ∧ u.router.inbox = rest ∧ (∀ k, k ≠ b → u.barrier k = s.barrier k) ∧
        u.mem = s.mem ∧ u.core = s.core ∧ u.lehr = { s.lehr with bars := u.lehr.bars } ∧
        (x.rcnt.toNat + Msg.count i.msg < x.expect.toNat →
          u.barrier b = { x with rcnt := x.rcnt + BitVec.ofNat 24 (Msg.count i.msg) } ∧ u.router.txq = s.router.txq) ∧
        (x.expect.toNat ≤ x.rcnt.toNat + Msg.count i.msg →
          u.barrier b = { x with rcnt := 0#24, rgen := x.rgen + 1#16 } ∧
          ∀ pass, pass = i.stamp.toNat + (if i.port = 5 then 1 else 0) + x.margin.toNat →
            u.router.txq = s.router.txq ++ [({
              w0 := headWord Lane.sync Kind.sync 0 s.gaffer.domain.toNat (2 + b) 0x7FF s.router.chip.toNat
              w1 := BitVec.ofNat 64 (2 * 2 ^ 62 + b * 2 ^ 58 + x.rgen.toNat * 2 ^ 42 + pass % 2 ^ 40), payload := [] }, true)])) ∧
    (i.port ≠ 5 ∨ i.beat < s.beat → ¬ good →
      ∃ u, exec .arriveReceive s = .next u ∧ u.router.inbox = rest ∧ u.router.txq = s.router.txq ∧ u.mem = s.mem ∧
        u.core = s.core ∧ u.lehr = { s.lehr with syncdisc := satAdd s.lehr.syncdisc 1, sdisc := true })

/-- A member's barrier: BAR pends, and one that breaks a rule stops queue 7; at the start of a beat its ARRIVE is ready if the
earlier commands are done and no window is active, and then leaves; a RELEASE of its generation ahead of PASS sets the pass beat, a
later one the beat after its stamp, counted; in that beat PEND clears, GEN rises and the BAR completes; one that pends for LH_BTMO
beats is reported once (R284, R285, R287-R290). -/
def Obligations.MemberPassesBarrier : Prop :=
  (∀ (s : State) (c : QueueCmd) (b : Nat) (bad : Prop),
    s.head7 = some c → c.opc = 0x73 → b = fld 11 8 (c.reg 0) →
    (bad ↔ (c.regs.length ≠ 1 ∨ fld 63 12 (c.reg 0) ≠ 0 ∨ 13 < b ∨ (s.barrier b).expect = 0#24)) →
    (¬ bad → ∃ u, exec .bar s = .next u ∧ (u.barrier b).pend = true ∧ (u.barrier b).gen = (s.barrier b).gen ∧
      (u.barrier b).arrived = (s.barrier b).arrived ∧ (u.barrier b).passAt = none ∧ (u.barrier b).takenBeat = s.beat ∧
      u.sched.bar = some (b, c.seq) ∧ u.sched.barReady = false ∧ QueueTook s u 7 c ∧
      (∀ k, k ≠ b → u.barrier k = s.barrier k) ∧ u = { s with core := u.core, lehr := u.lehr, sched := u.sched }) ∧
    (bad → ∃ u, exec .bar s = .next u ∧ QueueFaulted s u 7 c Code.badCommand ∧ u.lehr = s.lehr ∧ u.sched.bar = s.sched.bar)) ∧
  (∀ (s : State) (b : Nat) (seq : Word),
    s.pending = [] → s.pins.alive = true → (s.nc + 1) % 2 = 0 → s.sched.bar = some (b, seq) →
    ∃ u, step s = .next u ∧ (u.sched.barReady = true ↔
      ((∀ q p rest, (s.queue 7).outstanding = (q, p) :: rest → q = seq) ∧
        ∀ w, w < 64 → (Vec.at s.sched.windows w).active = false))) ∧
  (∀ (s : State) (b : Nat) (seq : Word) (x : Barrier),
    s.inRun = true → s.sched.bar = some (b, seq) → b ≤ 13 → x = s.barrier b → x.arrived = false →
    (s.sched.barReady = true → s.journal.rstate ≠ .replay →
      ∃ u, exec .arriveSend s = .next u ∧ u.router.txq = s.router.txq ++ [({
          w0 := headWord Lane.sync Kind.sync 0 s.gaffer.domain.toNat (2 + b) x.rootLcid.toNat x.rootChip.toNat
          w1 := BitVec.ofNat 64 (2 ^ 62 + b * 2 ^ 58 + x.gen.toNat * 2 ^ 42 + 1), payload := [] }, false)] ∧
        u.barrier b = { x with arrived := true } ∧ (∀ k, k ≠ b → u.barrier k = s.barrier k) ∧
        u = { s with lehr := u.lehr, router := u.router }) ∧
    (s.sched.barReady = false → exec .arriveSend s = .next s)) ∧
  (∀ (s : State) (i : Inbound) (rest : List Inbound) (b pass : Nat) (x : Barrier),
    s.inRun = true → s.router.pick (fun m => Msg.kind m == Kind.sync && Msg.sop m == 2) = some (i, rest) →
    b = Msg.bid i.msg → b ≤ 13 → x = s.barrier b → x.pend = true → x.passAt = none → x.gen.toNat = Msg.gen i.msg →
    pass < 2 ^ 64 → pass % 2 ^ 40 = Msg.pass40 i.msg → pass < s.lehr.lc.toNat + 2 ^ 39 → s.lehr.lc.toNat < pass + 2 ^ 39 →
    ∃ u, exec .releaseReceive s = .next u ∧ u.router.inbox = rest ∧ u.mem = s.mem ∧
      (∀ k, k ≠ b → u.barrier k = s.barrier k) ∧
      (i.stamp.toNat < pass → u.barrier b = { x with passAt := some (BitVec.ofNat 64 pass, false) } ∧
        u.lehr.blate = s.lehr.blate) ∧
      (pass ≤ i.stamp.toNat → u.barrier b = { x with passAt := some (i.stamp + 1#64, false) } ∧
        (s.journal.replaying = false → u.lehr.blate = satAdd s.lehr.blate 1 ∧ u.lehr.blateSticky = true))) ∧
  (∀ (s : State) (b : Fin 14) (pass : DWord) (replayed : Bool) (seq : Word),
    s.inRun = true → (s.barrier b.val).passAt = some (pass, replayed) → (s.barrier b.val).pend = true →
    s.sched.bar = some (b.val, seq) →
    (pass.toNat ≤ s.lehr.evLc.toNat →
      ∃ u, exec (.barrierPass b) s = .next u ∧ (u.barrier b.val).pend = false ∧
        (u.barrier b.val).gen = (s.barrier b.val).gen + 1#16 ∧ (u.barrier b.val).arrived = false ∧
        (∀ k, k < 14 → k ≠ b.val → (u.barrier k).pend = (s.barrier k).pend ∧ (u.barrier k).gen = (s.barrier k).gen) ∧
        u.sched.bar = none ∧ QueueCompleted s u 7 seq ∧ u.mem = s.mem) ∧
    (s.lehr.evLc.toNat < pass.toNat → exec (.barrierPass b) s = .next s)) ∧
  (∀ (s : State) (b : Fin 14),
    s.inRun = true → s.lehr.btmo ≠ 0#32 → (s.barrier b.val).pend = true → (s.barrier b.val).timedOut = false →
    s.lehr.btmo.toNat ≤ s.beat - (s.barrier b.val).takenBeat →
    ∃ u, exec (.barrierTimeout b) s = .next u ∧ u.barrier b.val = { s.barrier b.val with timedOut := true } ∧
      u.lehr.btmoSticky = true ∧ (s.gaffer.eventCount < 64 →
        ∃ v, u.gaffer = { s.gaffer with outq := s.gaffer.outq ++ [.event v] } ∧ v.code = Code.barrierTimeout ∧
          v.detail = [BitVec.ofNat 32 b.val]) ∧
      exec (.barrierTimeout b) u = .next u ∧ u.core = s.core ∧ u.mem = s.mem)

/-! Messages and rings. -/

/-- A DATA message that passes the checks of R247, in their order, is accepted at the ring's write position without touching memory
or WPTR; one that fails a check is discarded and recorded with that check's code. Once written, its header and payload lie in the
ring's region (past the ring's end into its apron, or split there and marked so), every byte outside them stays, and WPTR is past it
(R246-R249, R251). -/
def Obligations.DataMessageEntersRing : Prop :=
  (∀ (s : State) (i : Inbound) (rest : List Inbound) (t : Nat) (v : Option (Half × Nat)),
    NextMessage s Kind.data i rest → s.inRun = true → s.journal.rstate ≠ .tail → t = Msg.tag i.msg → t ≠ 1 →
    RingVerdict s i.msg t v →
    (v = none → ∃ u, exec .inboundDataMessage s = .next u ∧ u.router.inbox = rest ∧
      u.rings = { s.rings with
        rx := s.rings.rx + 1#64
        writes := s.rings.writes ++ [{
          tag := t
          pos := BitVec.ofNat 32 ((s.ring t).wptr +
            ((s.rings.writes.filter fun w => w.tag == t).map (·.n)).foldl (· + ·) 0)
          n := (Msg.len i.msg + 4) / 4, msg := i.msg, stamp := i.stamp }] } ∧
      u.mem = s.mem ∧ u.core = s.core) ∧
    (∀ code b, v = some (code, b) → ∃ u, exec .inboundDataMessage s = .next u ∧ u.router.inbox = rest ∧
      MessageDiscarded s u t code b ∧ u.core = s.core)) ∧
  (∀ (s : State) (w : RingWrite) (rest : List RingWrite) (r : Ring) (p len : Nat) (at_ : Nat → Nat) (split : Prop)
      (head : DWord),
    s.pins.alive = true → s.rings.writes = w :: rest → r = s.ring w.tag → p = w.pos.toNat % r.size →
    len = 16 + 16 * Msg.len w.msg → w.n = (Msg.len w.msg + 4) / 4 → w.n ≤ r.size → r.state = RingState.opened →
    Memory.wf s.rings.store = true → Memory.wf s.mem.mem = true → (split ↔ r.size + r.apron < p + w.n) →
    (∀ k, (¬ split ∨ k < 64 * (r.size - p) → at_ k = r.base + 64 * p + k) ∧
      (split → 64 * (r.size - p) ≤ k → at_ k = r.base + (k - 64 * (r.size - p)))) →
    (split → head = w.msg.w0 ||| BitVec.ofNat 64 (2 ^ 61)) → (¬ split → head = w.msg.w0) →
    ∃ u, exec .wptrAdvance s = .next u ∧ u.rings.writes = rest ∧
      (u.ring w.tag).wptr = (r.wptr + w.n) % 2 ^ 32 ∧ (u.ring w.tag).rptr = r.rptr ∧ (u.ring w.tag).state = r.state ∧
      (∀ t, t ≠ w.tag → t < 8192 → u.ring t = s.ring t) ∧
      (∀ k, k < len → u.mem.mem.read (at_ k) = (leBytes 8 head.toNat ++ leBytes 8 w.msg.w1.toNat ++ w.msg.payload).getD k 0#8) ∧
      (∀ a, (∀ k, k < len → a ≠ at_ k) → u.mem.mem.read a = s.mem.mem.read a) ∧ u.core = s.core)

/-- A GATHER message that passes the checks adds its contributions and its elements to a FREE or PARTIAL slot of its contribution ID:
sums clamped to 64 bits in EXACT mode, FP32 sums in the others. Below EXPECT the slot is then PARTIAL; at EXPECT it is DONE, its
EXACT sums converted to FP32, and WPTR rises. More than EXPECT, or another contribution of a DONE slot, is an excess, and changes no
element; another contribution ID is discarded (R247, R259-R261, R263). -/
def Obligations.GatherMessageCounts : Prop :=
  ∀ (s : State) (i : Inbound) (rest : List Inbound) (m : Message) (r : Ring) (a st cid n : Nat),
    NextMessage s Kind.gather i rest → s.inRun = true → s.journal.rstate ≠ .tail → m = i.msg →
    RingVerdict s m (Msg.tag m) none → r = s.ring (Msg.tag m) → a = r.base + Msg.slot m * r.slotBytes → s.mem.bad = [] →
    st = s.mem.mem.readLE (a + 6) 1 → cid = s.mem.mem.readLE (a + 4) 2 → n = s.mem.mem.readLE a 4 + Msg.ncont m →
    Memory.wf s.mem.mem = true → Memory.wf s.rings.store = true → r.type ≠ RingType.plain → Msg.tag m < 8192 →
    ((st = 0 ∨ (st = 1 ∧ cid = Msg.cid m)) → n ≤ r.expect →
      ∃ u, exec .inboundGatherMessage s = .next u ∧ u.router.inbox = rest ∧ u.rings.rx = s.rings.rx + 1#64 ∧
        u.mem.mem.readLE a 4 = n ∧ u.mem.mem.readLE (a + 4) 2 = Msg.cid m ∧
        (∀ x, x < a ∨ a + r.slotBytes ≤ x → u.mem.mem.read x = s.mem.mem.read x) ∧ u.core = s.core ∧
        (n < r.expect → u.mem.mem.readLE (a + 6) 1 = 1 ∧ u.rings.store = s.rings.store ∧
          (∀ k, k < r.elem →
            (r.gmode = 0 → u.mem.mem.readLE (a + 64 + 4 * k) 4 =
              Fmt.fp32.fadd (s.mem.mem.readLE (a + 64 + 4 * k) 4) (leAt m.payload (4 * k) 4)) ∧
            (r.gmode = 1 → u.mem.mem.readLE (a + 64 + 4 * k) 4 =
              Fmt.fp32.fadd (s.mem.mem.readLE (a + 64 + 4 * k) 4) (leAt m.payload (2 * k) 2 * 2 ^ 16)) ∧
            (r.gmode = 2 → sext 64 (u.mem.mem.readLE (a + 64 + 8 * k) 8) =
              clampTo 64 (sext 64 (s.mem.mem.readLE (a + 64 + 8 * k) 8) + sext 64 (leAt m.payload (8 * k) 8))))) ∧
        (n = r.expect → u.mem.mem.readLE (a + 6) 1 = 2 ∧ (u.ring (Msg.tag m)).wptr = (r.wptr + 1) % 2 ^ 32 ∧
          (r.type = RingType.update → u.marver.slots = s.marver.slots ++ [(Msg.tag m, Msg.slot m)]) ∧
          (r.type ≠ RingType.update → u.marver = s.marver) ∧
          (r.gmode = 2 → Msg.nf m = false → bit 1 (s.mem.mem.readLE (a + 7) 1) = false → ∀ k, k < r.elem →
            u.mem.mem.readLE (a + 64 + 4 * k) 4 = Fmt.fp32.encode (Fmt.fp32.rnd (Val.scale (sext 8 r.sx) (Val.ofInt
              (clampTo 64 (sext 64 (s.mem.mem.readLE (a + 64 + 8 * k) 8) + sext 64 (leAt m.payload (8 * k) 8))))))))) ∧
    ((st = 2 ∧ cid = Msg.cid m) ∨ ((st = 0 ∨ (st = 1 ∧ cid = Msg.cid m)) ∧ r.expect < n) →
      ∃ u, exec .inboundGatherMessage s = .next u ∧ u.router.inbox = rest ∧ u.rings.disc = satAdd s.rings.disc 1 ∧
        u.rings.stat.getLsbD 7 = true ∧ bit 3 (u.mem.mem.readLE (a + 7) 1) = true ∧
        (∀ x, x ≠ a + 7 → u.mem.mem.read x = s.mem.mem.read x) ∧ u.rings.store = s.rings.store ∧ u.core = s.core) ∧
    ((st = 1 ∨ st = 2) → cid ≠ Msg.cid m →
      ∃ u, exec .inboundGatherMessage s = .next u ∧ u.router.inbox = rest ∧ u.rings.disc = satAdd s.rings.disc 1 ∧
        u.rings.stat.getLsbD 5 = true ∧ u.mem.mem = s.mem.mem ∧ u.rings.store = s.rings.store ∧ u.core = s.core)

/-- A CREDIT for a VALID, not STALE entry of its epoch adds its granules, at most to 65,535, and lets a send parked on the entry go
when they suffice; any other changes no entry. A REVOKE leaves every matching entry of an older epoch with credit 0 and STALE, and no
other; a live one is ignored in a replay (R252, R255, R257, R267, R420). -/
def Obligations.CreditsChange : Prop :=
  (∀ (s : State) (i : Inbound) (rest : List Inbound) (e credit : Nat) (applies : Prop),
    NextMessage s Kind.credit i rest → s.journal.rstate ≠ .tail → e = Msg.creditSent i.msg →
    Memory.wf s.rings.credit = true → credit = min 65535 ((s.entryOf e).credit + Msg.gran i.msg) →
    (applies ↔ ((s.entryOf e).valid = true ∧ (s.entryOf e).stale = false ∧ (s.entryOf e).epoch = Msg.epoch i.msg)) →
    ∃ u, exec .creditReceive s = .next u ∧ u.router.inbox = rest ∧ u.rings.store = s.rings.store ∧ u.mem = s.mem ∧
      (¬ applies → u.rings = s.rings) ∧
      (applies → (∀ k, k ≠ e → k < 2048 → s.rings.parkedOn k = 0 → u.entryOf k = s.entryOf k) ∧
        (s.rings.parked = [] → u.entryOf e = { s.entryOf e with credit := credit } ∧ u.sched = s.sched) ∧
        (∀ d, s.rings.parked = [d] → d.entry = e → (s.entryOf e).gather = false →
          (d.n ≤ credit → u.rings.parked = [] ∧ u.entryOf e = { s.entryOf e with credit := credit - d.n } ∧
            ∃ x, u.sched.sends = s.sched.sends ++ [x] ∧ x.seq = d.seq ∧ x.entry = e ∧ x.src = d.src) ∧
          (credit < d.n → u.rings.parked = [d] ∧ u.entryOf e = { s.entryOf e with credit := credit } ∧
            u.sched = s.sched)))) ∧
  (∀ (s : State) (i : Inbound) (rest : List Inbound),
    NextMessage s Kind.revoke i rest → Memory.wf s.rings.credit = true →
    (s.journal.replaying = true → ∃ u, exec .revokeReceive s = .next u ∧ u = { s with router := u.router } ∧
      u.router.inbox = rest) ∧
    (s.journal.replaying = false → s.rings.parked = [] →
      ∃ u, exec .revokeReceive s = .next u ∧ u.router.inbox = rest ∧
        (∀ e, e < 2048 →
          (((s.entryOf e).valid = true ∧ (s.entryOf e).dchip = Msg.rchip i.msg ∧ (s.entryOf e).dlcid = Msg.rlcid i.msg ∧
              (s.entryOf e).dtag = Msg.rtag i.msg ∧ (s.entryOf e).epoch ≠ Msg.epoch i.msg) →
            u.entryOf e = { s.entryOf e with credit := 0, stale := true }) ∧
          (¬ ((s.entryOf e).valid = true ∧ (s.entryOf e).dchip = Msg.rchip i.msg ∧ (s.entryOf e).dlcid = Msg.rlcid i.msg ∧
              (s.entryOf e).dtag = Msg.rtag i.msg ∧ (s.entryOf e).epoch ≠ Msg.epoch i.msg) →
            u.entryOf e = s.entryOf e)) ∧
        u.rings.store = s.rings.store ∧ u.mem = s.mem))

/-- The ring commands, from a master that may use the tag: OPEN of a CLOSED consistent ring gives an empty OPEN one; CLOSE and
RESET of an OPEN or DRAINING ring raise its epoch, multicast a REVOKE and leave it CLOSED and empty, or OPEN and empty; DRAIN of an
OPEN ring leaves it DRAINING, or CLOSED if it is empty; GREL zeroes a DONE slot of a gather ring and advances RPTR. Each is
answered OK, and BUSY up to the next N-cycle. The slots of a gather ring are zero once it is OPEN. One that a master may not use,
that finds the ring in another state, or the controller busy, changes nothing and says so in CODE. The other rings stay (R244,
R262, R265-R267; when it acts: log 121). -/
def Obligations.RingCommandsAct : Prop :=
  (∀ (s : State) (m : Master) (tag : BitVec 13) (slot : BitVec 12) (t : Nat) (r : Ring) (live : Prop) (revoked : Message),
    s.pins.alive = true → s.may m.toNat .reg true = true → t = tag.toNat → r = s.ring t →
    (live ↔ (r.state = RingState.opened ∨ r.state = RingState.draining)) →
    Memory.wf s.rings.store = true → Memory.wf s.mem.mem = true → s.journal.rstate ≠ .replay →
    revoked = revokeMessage s t ((r.epoch + 1) % 2 ^ 16) →
    (s.rings.cBusy = false → (32 ≤ t ∨ m = 0x50#7) →
      (r.state = RingState.closed → s.consistent t = true →
        ∃ u, exec (.ringOpen m tag) s = .next u ∧ RingDone s u m t ∧
          u.ring t = { r with state := RingState.opened, wptr := 0, rptr := 0, high := 0 } ∧
          SlotsZero s u r ∧ u.router.txq = s.router.txq) ∧
      (live → (∀ w ∈ s.rings.writes, w.tag ≠ t) → s.marver.chunkSlot t = none →
        (∃ u, exec (.ringClose m tag) s = .next u ∧ RingDone s u m t ∧
          u.ring t = { r with state := RingState.closed, epoch := (r.epoch + 1) % 2 ^ 16, wptr := r.rptr } ∧
          u.mem = s.mem ∧ u.router.txq = s.router.txq ++ [(revoked, true)]) ∧
        (∃ u, exec (.ringReset m tag) s = .next u ∧ RingDone s u m t ∧
          u.ring t = { r with state := RingState.opened, epoch := (r.epoch + 1) % 2 ^ 16, wptr := 0, rptr := 0 } ∧
          SlotsZero s u r ∧ u.router.txq = s.router.txq ++ [(revoked, true)])) ∧
      (r.state = RingState.opened → (∀ w ∈ s.rings.writes, w.tag ≠ t) →
        ∃ u, exec (.ringDrain m tag) s = .next u ∧ RingDone s u m t ∧
          u.ring t = { r with
            state := if r.rptr = r.wptr then RingState.closed else RingState.draining, epoch := (r.epoch + 1) % 2 ^ 16 } ∧
          u.mem = s.mem ∧ u.router.txq = s.router.txq ++ [(revoked, true)]) ∧
      (live → r.type = RingType.gather → slot.toNat < r.nslot →
        s.mem.mem.readLE (r.base + slot.toNat * r.slotBytes + 6) 1 = 2 →
        ∃ u, exec (.ringGrel m tag slot) s = .next u ∧ RingDone s u m t ∧
          (u.ring t).rptr = (r.rptr + 1) % 2 ^ 32 ∧ (u.ring t).wptr = r.wptr ∧ (u.ring t).epoch = r.epoch ∧
          (r.state = RingState.opened → (u.ring t).state = RingState.opened) ∧ u.router.txq = s.router.txq ∧
          (∀ a, (r.base + slot.toNat * r.slotBytes ≤ a ∧ a < r.base + (slot.toNat + 1) * r.slotBytes →
              u.mem.mem.read a = 0#8) ∧
            (a < r.base + slot.toNat * r.slotBytes ∨ r.base + (slot.toNat + 1) * r.slotBytes ≤ a →
              u.mem.mem.read a = s.mem.mem.read a)))) ∧
    (∀ cmd ∈ [Instr.ringOpen m tag, .ringClose m tag, .ringDrain m tag, .ringReset m tag, .ringGrel m tag slot],
      (s.rings.cBusy = true → ∃ u, exec cmd s = .next u ∧ RingRefused s u m t Code.busy true) ∧
      (s.rings.cBusy = false → t < 32 → m ≠ 0x50#7 → ∃ u, exec cmd s = .next u ∧ RingRefused s u m t Code.denied false)) ∧
    (s.rings.cBusy = false → (32 ≤ t ∨ m = 0x50#7) →
      ((r.state ≠ RingState.closed ∨ s.consistent t = false) →
        ∃ u, exec (.ringOpen m tag) s = .next u ∧ RingRefused s u m t Code.badParam false) ∧
      (¬ live → (∃ u, exec (.ringClose m tag) s = .next u ∧ RingRefused s u m t Code.badParam false) ∧
        ∃ u, exec (.ringReset m tag) s = .next u ∧ RingRefused s u m t Code.badParam false) ∧
      (r.state ≠ RingState.opened → ∃ u, exec (.ringDrain m tag) s = .next u ∧ RingRefused s u m t Code.badParam false) ∧
      (¬ live ∨ r.type ≠ RingType.gather ∨ r.nslot ≤ slot.toNat ∨
        s.mem.mem.readLE (r.base + slot.toNat * r.slotBytes + 6) 1 ≠ 2 →
        ∃ u, exec (.ringGrel m tag slot) s = .next u ∧ RingRefused s u m t Code.badParam false))) ∧
  (∀ s : State, s.pending = [] → s.pins.alive = true → ∃ u, step s = .next u ∧ u.rings.cBusy = false)

/-- Stores to the ring structures: a reader that moves RPTR of an OPEN or DRAINING PLAIN ring over whole messages frees them and one
CREDIT leaves for each source, with the granules of its messages; RPTR past WPTR is ignored and sets BADWR, as is any other field of
a ring that is not CLOSED; a CLOSED ring takes a new BASE; a credit entry takes a new CREDIT, and a new EPOCH, which clears STALE
(R242, R252, R257). -/
def Obligations.RingStoresTakeWrites : Prop :=
  ∀ (s : State) (m : Master), s.pins.alive = true → s.journal.freeze = false → s.may m.toNat .ring true = true →
    Memory.wf s.rings.store = true → Memory.wf s.rings.credit = true →
    (∀ (tag : BitVec 13) (value : Word) (t goal : Nat) (r : Ring), t = tag.toNat → r = s.ring t →
      (r.state = RingState.opened ∨ r.state = RingState.draining) → r.type = RingType.plain → s.journal.rstate ≠ .replay →
      s.mem.bad = [] → goal = (value.toNat + 2 ^ 32 - r.rptr) % 2 ^ 32 →
      (∀ (ws : List Nat) (srcs : List (Nat × Nat)), goal ≤ (r.wptr + 2 ^ 32 - r.rptr) % 2 ^ 32 →
        UnreadHeaders s r goal 0 ws → Tbl.wf 0 srcs = true →
        (∀ k, Tbl.get 0 srcs k = ((ws.filter fun w => sourceKey w == k).map fun w => (fld 48 40 w + 4) / 4).sum) →
        ∃ u, exec (.rptrWrite m tag value) s = .next u ∧ Answered u m 0 ∧
          u.ring t = { r with
            rptr := value.toNat
            state := if r.state = RingState.draining ∧ value.toNat = r.wptr then RingState.closed else r.state } ∧
          (∀ k, k ≠ t → k < 8192 → u.ring k = s.ring k) ∧ u.rings.credit = s.rings.credit ∧
          u.router.txq = s.router.txq ++ srcs.map (fun c => (creditMessage s r.epoch c.1 c.2, false)) ∧
          u.mem.mem = s.mem.mem) ∧
      ((r.wptr + 2 ^ 32 - r.rptr) % 2 ^ 32 < goal →
        ∃ u, exec (.rptrWrite m tag value) s = .next u ∧ Answered u m 0 ∧ u.ring t = r ∧
          u.rings.stat.getLsbD 6 = true ∧ u.router.txq = s.router.txq ∧ u.mem = s.mem)) ∧
    (∀ (t : Nat) (data : DWord), t < 8192 →
      ((s.ring t).state = RingState.closed →
        ∃ u, exec (.ringDescriptorWrite m (BitVec.ofNat 18 (32 * t)) 4 data) s = .next u ∧ Answered u m 0 ∧
          u.ring t = { s.ring t with base := data.toNat % 2 ^ 32 } ∧
          (∀ k, k ≠ t → k < 8192 → u.ring k = s.ring k) ∧ u.rings = { s.rings with store := u.rings.store } ∧
          u.mem = s.mem) ∧
      ((s.ring t).state ≠ RingState.closed → data.toNat % 2 ^ 32 ≠ (s.ring t).base →
        ∃ u, exec (.ringDescriptorWrite m (BitVec.ofNat 18 (32 * t)) 4 data) s = .next u ∧ Answered u m 0 ∧
          (∀ k, k < 8192 → u.ring k = s.ring k) ∧ u.rings.stat.getLsbD 6 = true ∧ u.mem = s.mem)) ∧
    (∀ (e : Nat) (data : DWord), e < 2048 → s.rings.parked = [] →
      (∃ u, exec (.creditEntryWrite m (BitVec.ofNat 15 (16 * e + 8)) 2 data) s = .next u ∧ Answered u m 0 ∧
        u.entryOf e = { s.entryOf e with credit := data.toNat % 2 ^ 16 } ∧
        (∀ k, k ≠ e → k < 2048 → u.entryOf k = s.entryOf k) ∧ u.rings.store = s.rings.store ∧ u.mem = s.mem) ∧
      (∃ u, exec (.creditEntryWrite m (BitVec.ofNat 15 (16 * e + 6)) 2 data) s = .next u ∧ Answered u m 0 ∧
        u.entryOf e = { s.entryOf e with epoch := data.toNat % 2 ^ 16, stale := false } ∧
        (∀ k, k ≠ e → k < 2048 → u.entryOf k = s.entryOf k) ∧ u.rings.store = s.rings.store ∧ u.mem = s.mem))

/-! The router and its ports. -/

/-- A message that its input has room for. A unicast one from a mesh port that is UP: for this cluster's identity it waits at the
local output with this beat's stamp; for another router, not routed adaptively, it uses the XY output, whose queue it joins
without a credit, which it leaves in one flit with one, and where it is discarded and counted if that port is not UP; one whose
TPID is this router's but whose identity is not is sent on once by a valid remap entry, and otherwise is a misroute. A REVOKE or
RELEASE multicast goes out of the ports of its direction that are UP and is delivered in its own domain. A message of the own send
path without an entry for its destination is discarded and counted, and one for this cluster is delivered; one of the edge frames
for this cluster is delivered. With RT_CFG.COMB set an ARRIVE that meets another one of its destination, barrier and generation at the
head of its output joins it, their COUNTs added (R286, R300, R309, R313, R314, R317, R318, R322, R323; that the cluster combines wherever
it may is the model's choice, log 32). -/
def Obligations.RouterForwardsMessages : Prop :=
  (∀ (s : State) (p : BitVec 2) (m : Message) (side : Sideband), s.pins.alive = true → (s.port p.toNat).state = .up →
    s.laneFree p.toNat (Msg.lane m) = true → side.mc = false →
    (side.tpid = s.router.pid → Msg.dchip m = s.router.chip.toNat →
      (s.router.lvalid = true → Msg.dlcid m = s.router.lcid.toNat → Msg.kind m ≤ 4 → s.localAccepts m = true →
        ∃ u, exec (.routerForward (.mesh p m side)) s = .next u ∧ ReachedHere s u p.toNat m) ∧
      ((s.router.lvalid = false ∨ Msg.dlcid m ≠ s.router.lcid.toNat) →
        (∀ e d, e = Tbl.get 0#12 s.router.active (Msg.dlcid m) → e.getLsbD 11 = true → d = e.toNat % 2 ^ 11 →
          d ≠ s.router.pid.toNat → side.rr = false → s.adapts m = false →
          ∀ o, XyOutput s.router.pid.toNat d o → (s.port o).state = .up → (∀ l, l < 4 → Vec.at (s.port o).credits l = 0) →
          s.router.comb = false →
          ∃ u, exec (.routerForward (.mesh p m side)) s = .next u ∧
            QueuedAt s u o p.toNat true m { side with tpid := BitVec.ofNat 11 d, rr := true } ∧
            (∀ k, k ≠ o → (u.port k).outq = (s.port k).outq) ∧ u.router.inbox = s.router.inbox ∧
            u = { s with router := u.router }) ∧
        (side.rr = true ∨ (Tbl.get 0#12 s.router.active (Msg.dlcid m)).getLsbD 11 = false ∨
            (Tbl.get 0#12 s.router.active (Msg.dlcid m)).toNat % 2 ^ 11 = s.router.pid.toNat →
          ∃ u, exec (.routerForward (.mesh p m side)) s = .next u ∧ DiscardCounted s u m true))) ∧
    (∀ o, XyOutput s.router.pid.toNat side.tpid.toNat o → s.adapts m = false →
      ((s.port o).state = .up → (∀ l, l < 4 → Vec.at (s.port o).credits l = 0) → s.router.comb = false →
        ∃ u, exec (.routerForward (.mesh p m side)) s = .next u ∧ QueuedAt s u o p.toNat true m side ∧
          (∀ k, k ≠ o → (u.port k).outq = (s.port k).outq) ∧ u.router.inbox = s.router.inbox ∧
          u = { s with router := u.router }) ∧
      ((s.port o).state = .up → o ≠ p.toNat → (s.port o).outq = [] → 0 < Vec.at (s.port o).credits (Msg.lane m) →
        m.payload = [] →
        ∃ u, exec (.routerForward (.mesh p m side)) s = .next u ∧ (u.port o).outq = [] ∧
          (u.port o).sent = padTo 64 (leBytes 8 m.w0.toNat ++ leBytes 8 m.w1.toNat) ∧ (u.port o).txNc = s.nc ∧
          (u.port o).fwd = (s.port o).fwd + 1#64 ∧
          Vec.at (u.port o).credits (Msg.lane m) = Vec.at (s.port o).credits (Msg.lane m) - 1 ∧
          Vec.at (u.port p.toNat).owed (Msg.lane m) = Vec.at (s.port p.toNat).owed (Msg.lane m) + 1 ∧
          u.router.inbox = s.router.inbox ∧ u = { s with router := u.router }) ∧
      ((s.port o).state ≠ .up →
        ∃ u, exec (.routerForward (.mesh p m side)) s = .next u ∧ DiscardCounted s u m false ∧
          (u.port o).drop = satAdd (s.port o).drop 1))) ∧
  (∀ (s : State) (p : BitVec 2) (m : Message) (side : Sideband), s.pins.alive = true → (s.port p.toNat).state = .up →
    s.laneFree p.toNat (Msg.lane m) = true → side.mc = true → s.router.edge = false →
    (Msg.kind m = Kind.revoke ∨ (Msg.kind m = Kind.sync ∧ Msg.sop m = 2)) →
    (Msg.domain m = s.gaffer.domain.toNat → s.localAccepts m = true) → s.router.comb = false →
    (∀ k l, k < 4 → l < 4 → Vec.at (s.port k).credits l = 0) →
    ∃ u, exec (.routerForward (.mesh p m side)) s = .next u ∧
      (∀ o, o < 4 → (p = 0#2 ∧ o = 2 ∨ p = 2#2 ∧ o = 0 ∨ p = 1#2 ∧ (o = 3 ∨ o = 0 ∨ o = 2) ∨
          p = 3#2 ∧ (o = 1 ∨ o = 0 ∨ o = 2)) → (s.port o).state = .up →
        QueuedAt s u o p.toNat false m { tpid := 0#11, rr := false, mc := true }) ∧
      (u.port p.toNat).outq = (s.port p.toNat).outq ∧
      (Msg.domain m = s.gaffer.domain.toNat → u.router.inbox = s.router.inbox ++
        [{ msg := m, stamp := s.lehr.lc, beat := s.beat, port := p.toNat, journalled := false, marked := false }]) ∧
      (Msg.domain m ≠ s.gaffer.domain.toNat → u.router.inbox = s.router.inbox) ∧ u = { s with router := u.router }) ∧
  (∀ (s : State) (m : Message) (b : Bool) (rest : List (Message × Bool)),
    s.pins.alive = true → s.router.txq = (m, b) :: rest → s.laneFree 5 (Msg.lane m) = true → Msg.dlcid m ≠ 0x7FF →
    Msg.dchip m = s.router.chip.toNat →
    ((Tbl.get 0#12 s.router.active (Msg.dlcid m)).getLsbD 11 = false →
      ∃ u, exec (.routerForward .own) s = .next u ∧ u.router.txq = rest ∧ DiscardCounted s u m false) ∧
    (∀ e, e = Tbl.get 0#12 s.router.active (Msg.dlcid m) → e.getLsbD 11 = true → e.toNat % 2 ^ 11 = s.router.pid.toNat →
      s.router.lvalid = true → Msg.dlcid m = s.router.lcid.toNat → Msg.kind m ≤ 4 → s.localAccepts m = true →
      ∃ u, exec (.routerForward .own) s = .next u ∧ u.router.txq = rest ∧ ReachedHere s u 5 m)) ∧
  (∀ (s : State) (m : Message) (rr : Bool) (rest : List (Message × Bool × Bool)) (e : BitVec 12),
    s.pins.alive = true → s.router.link.rxq = (m, false, rr) :: rest → s.laneFree 4 (Msg.lane m) = true →
    Msg.dlcid m ≠ 0x7FF → Msg.dchip m = s.router.chip.toNat → e = Tbl.get 0#12 s.router.active (Msg.dlcid m) →
    e.getLsbD 11 = true → e.toNat % 2 ^ 11 = s.router.pid.toNat → s.router.lvalid = true →
    Msg.dlcid m = s.router.lcid.toNat → Msg.kind m ≤ 4 → s.localAccepts m = true →
    ∃ u, exec (.routerForward .edge) s = .next u ∧ u.router.link.rxq = rest ∧ ReachedHere s u 4 m ∧
      Vec.at (u.port 4).owed (Msg.lane m) = Vec.at (s.port 4).owed (Msg.lane m) + 1) ∧
  (∀ (s : State) (p : BitVec 2) (m : Message) (side : Sideband) (o : Nat) (x : OutMsg) (rest : List OutMsg),
    s.pins.alive = true → (s.port p.toNat).state = .up → s.laneFree p.toNat (Msg.lane m) = true → side.mc = false →
    XyOutput s.router.pid.toNat side.tpid.toNat o → s.adapts m = false → (s.port o).state = .up → s.router.comb = true →
    (s.port o).outq = x :: rest → x.left = Msg.flits x.msg → x.left = 1 → x.side = side →
    Msg.kind m = Kind.sync → Msg.sop m = 1 → Msg.kind x.msg = Kind.sync → Msg.sop x.msg = 1 → x.msg.w0 = m.w0 →
    Msg.bid x.msg = Msg.bid m → Msg.gen x.msg = Msg.gen m → Msg.count x.msg + Msg.count m ≤ 0xFFFFFF →
    ∃ u q, exec (.routerForward (.mesh p m side)) s = .next u ∧ (u.port o).outq = { x with msg := q } :: rest ∧
      q.w0 = m.w0 ∧ q.payload = [] ∧ Msg.sop q = 1 ∧ Msg.bid q = Msg.bid m ∧ Msg.gen q = Msg.gen m ∧
      Msg.count q = Msg.count x.msg + Msg.count m ∧ (∀ k, k ≠ o → (u.port k).outq = (s.port k).outq) ∧
      u.router.inbox = s.router.inbox ∧ u = { s with router := u.router })

/-- Ports. A link credit returns: the lane's count goes up by one, at most to 4 for SYNC and 16 for the others, and a mesh output
that waits for it with a message sends its next flit; the edge output sends a DATA frame. A mesh port that has been quiet for 1,024
N-cycles sends an idle flit, and one received counts as a flit. The peer's link-ready falls, or a port receives no flit for 2,048
N-cycles: it is DOWN, what it sent is truncated and counted, what waited is discarded, and LINKEV is set; in the second case it
holds its own link-ready low for 64 N-cycles. Then it trains, as it does when the peer's link-ready rises; a mesh port that has
trained sends its HELLO record (R309, R318, R325, R326, R329, R331). -/
def Obligations.PortStatesChange : Prop :=
  (∀ (s : State) (p : Fin 5) (lane : BitVec 2), s.pins.alive = true →
    ((s.port p.val).outq = [] →
      ∃ u, exec (.linkCreditReturn p lane) s = .next u ∧
        Vec.at (u.port p.val).credits lane.toNat =
          min (if lane = 0#2 then 4 else 16) (Vec.at (s.port p.val).credits lane.toNat + 1) ∧
        (∀ l, l ≠ lane.toNat → Vec.at (u.port p.val).credits l = Vec.at (s.port p.val).credits l) ∧
        u.port p.val = { s.port p.val with credits := (u.port p.val).credits } ∧
        (∀ k, k ≠ p.val → u.port k = s.port k) ∧ u = { s with router := u.router }) ∧
    (∀ o f, (s.port p.val).outq = [o] → (s.port p.val).state = .up → lane.toNat = Msg.lane o.msg →
      Vec.at (s.port p.val).credits lane.toNat = 0 → 0 < o.left → o.left ≤ Msg.flits o.msg → o.input < 6 →
      f = padTo 64 ((leBytes 8 o.msg.w0.toNat ++ leBytes 8 o.msg.w1.toNat ++ o.msg.payload).drop
        (64 * (Msg.flits o.msg - o.left))) →
      (p.val = 4 → s.router.link.unacked.length < 240) →
      ∃ u, exec (.linkCreditReturn p lane) s = .next u ∧ Vec.at (u.port p.val).credits lane.toNat = 0 ∧
        (u.port p.val).fwd = (s.port p.val).fwd + 1#64 ∧ (u.port p.val).txNc = s.nc ∧
        (u.port p.val).outq = (if o.left = 1 then [] else [{ o with left := o.left - 1 }]) ∧
        (p.val ≠ 4 → (u.port p.val).sent = f) ∧
        (p.val = 4 → ∃ v : Byte, FrameSent u (s.router.link.txSeq + 1#16) s.router.link.rxSeq 1 [(f, v)] ∧
          u.router.link.unacked = s.router.link.unacked ++ [(s.router.link.txSeq + 1#16, [(f, v)])] ∧
          u.router.link.txSeq = s.router.link.txSeq + 1#16 ∧ v.getLsbD 7 = true ∧ fld 6 5 v.toNat = lane.toNat ∧
          v.getLsbD 4 = decide (o.left = Msg.flits o.msg) ∧ v.getLsbD 3 = decide (o.left = 1) ∧
          v.getLsbD 2 = o.side.mc ∧ v.getLsbD 1 = o.side.rr ∧ v.getLsbD 0 = false) ∧
        u = { s with router := u.router })) ∧
  (∀ (s : State) (p : Fin 5), s.pins.alive = true →
    (p.val < 4 → (s.port p.val).state ∈ [.up, .hello, .mismatch] →
      ((s.port p.val).txNc + 1024 ≤ s.nc →
        ∃ u, exec (.idleFlit (.sent p)) s = .next u ∧ (u.port p.val).txNc = s.nc ∧
          (u.port p.val).fwd = (s.port p.val).fwd + 1#64 ∧ (u.port p.val).state = (s.port p.val).state ∧
          (u.port p.val).outq = (s.port p.val).outq ∧ (u.port p.val).credits = (s.port p.val).credits ∧
          (∀ k, k ≠ p.val → u.port k = s.port k) ∧ u = { s with router := u.router }) ∧
      (s.nc < (s.port p.val).txNc + 1024 → exec (.idleFlit (.sent p)) s = .next s) ∧
      (∃ u, exec (.idleFlit (.received p)) s = .next u ∧ u.port p.val = { s.port p.val with rxNc := s.nc } ∧
        (∀ k, k ≠ p.val → u.port k = s.port k) ∧ u = { s with router := u.router })) ∧
    (p.val = 4 ∨ (s.port p.val).state ∈ [.down, .training, .tied] → ∀ f ∈ [IdleFlit.sent p, .received p], exec (.idleFlit f) s = .next s)) ∧
  (∀ (s : State) (p : Fin 5), s.pins.alive = true →
    ((s.port p.val).peerReady = true → (s.port p.val).state ≠ .tied → NothingArriving s p.val →
      ∃ u, exec (.linkReadyDrop p) s = .next u ∧ (u.port p.val).state = .down ∧ (u.port p.val).peerReady = false ∧
        (u.port p.val).ownReady = (s.port p.val).ownReady ∧ PortFell s u p.val ∧
        ((s.port p.val).state ≠ .down → u.router.stat.getLsbD 3 = true) ∧
        ((s.port p.val).state = .up → (s.port p.val).outq = [] → PortEvents s u p.val [0x0801#16])) ∧
    ((s.port p.val).peerReady = false ∨ (s.port p.val).state = .tied → exec (.linkReadyDrop p) s = .next s) ∧
    ((s.port p.val).peerReady = false → (s.port p.val).state = .down → (s.port p.val).ownReady = true →
      ∃ u, exec (.linkReadyRise p) s = .next u ∧ (u.port p.val).state = .training ∧ (u.port p.val).peerReady = true ∧
        (p.val = 4 → u.router.link.train = true ∧ u.router.link.gen = 1#2 ∧ u.router.link.cap = 3#2) ∧
        (∀ k, k ≠ p.val → u.port k = s.port k) ∧ u = { s with router := u.router }) ∧
    ((s.port p.val).state ∈ [.up, .hello, .mismatch] → (s.port p.val).rxNc + 2048 ≤ s.nc → NothingArriving s p.val →
      ∃ u, exec (.flitTimeout p) s = .next u ∧ (u.port p.val).state = .down ∧ (u.port p.val).ownReady = false ∧
        (u.port p.val).holdNc = s.nc ∧ (u.port p.val).peerReady = (s.port p.val).peerReady ∧ PortFell s u p.val ∧
        u.router.stat.getLsbD 3 = true ∧
        ((s.port p.val).state = .up → (s.port p.val).outq = [] → PortEvents s u p.val [0x0801#16])) ∧
    (s.nc < (s.port p.val).rxNc + 2048 → exec (.flitTimeout p) s = .next s) ∧
    ((s.port p.val).state = .down → (s.port p.val).ownReady = false → (s.port p.val).holdNc + 64 ≤ s.nc →
      ∃ u, exec (.linkReadyHoldEnd p) s = .next u ∧ (u.port p.val).state = .training ∧ (u.port p.val).ownReady = true ∧
        (∀ k, k ≠ p.val → u.port k = s.port k) ∧ u = { s with router := u.router }) ∧
    (s.nc < (s.port p.val).holdNc + 64 → exec (.linkReadyHoldEnd p) s = .next s) ∧
    (p.val < 4 → (s.port p.val).state = .training →
      ∃ u, exec (.trainingComplete p) s = .next u ∧ (u.port p.val).state = .hello ∧ (u.port p.val).helloSent = true ∧
        (u.port p.val).gen = 1#4 ∧ HelloIs s (u.port p.val).sent ∧ (∀ k, k ≠ p.val → u.port k = s.port k) ∧
        u = { s with router := u.router }))

/-- A HELLO, which every received record enters in the partner table. On a mesh port that has sent its own, a partner that fits
makes it UP, at M2 if the record names M2, with the link-up event, a new partner being reported after it; one that does not fit makes
it MISMATCH with its event. On a port that is UP one that fits changes the entry alone and reports a new partner, and one that does
not takes it to MISMATCH as it loses its traffic. A port in MISMATCH stays there, and one without a link learns nothing. The edge port
at E1 is UP if E1 is the highest generation of either side, and otherwise trains at the lower of the two (R325, R328-R331). -/
def Obligations.HelloDecidesPort : Prop :=
  ∀ (s : State) (p : Fin 5) (r : List Byte), s.pins.alive = true → r.length = 64 →
    (p.val < 4 → (s.port p.val).state = .hello → (s.port p.val).helloSent = true →
      (HelloFits r →
        ∃ u, exec (.helloReceive p r) s = .next u ∧ (u.port p.val).state = .up ∧ (u.port p.val).pvalid = true ∧
          PartnerIs (u.port p.val) r ∧ (u.port p.val).gen = (if leAt r 7 1 / 16 = 2 then 2#4 else 1#4) ∧
          u.router.stat.getLsbD 3 = true ∧ (NewPartner (s.port p.val) r → PortEvents s u p.val [0x0000#16, 0x0802#16]) ∧
          (¬ NewPartner (s.port p.val) r → PortEvents s u p.val [0x0000#16]) ∧
          (∀ k, k ≠ p.val → u.port k = s.port k) ∧ u = { s with router := u.router, raised := u.raised, gaffer := u.gaffer })) ∧
    ((s.port p.val).state = .hello → ¬ HelloFits r → s.gaffer.kiln.length < Config.kilnDepth →
      ∃ u k, exec (.helloReceive p r) s = .next u ∧ (u.port p.val).state = .mismatch ∧ (u.port p.val).pvalid = false ∧
        PartnerIs (u.port p.val) r ∧ u.router.stat.getLsbD 4 = true ∧
        u.gaffer.kiln = s.gaffer.kiln ++ [k] ∧ leAt k 12 2 = 0x0803 ∧
        (NewPartner (s.port p.val) r → PortEvents s u p.val [0x0803#16, 0x0802#16]) ∧
        (¬ NewPartner (s.port p.val) r → PortEvents s u p.val [0x0803#16]) ∧
        (∀ k, k ≠ p.val → u.port k = s.port k) ∧ u = { s with router := u.router, raised := u.raised, gaffer := u.gaffer }) ∧
    ((s.port p.val).state = .up → HelloFits r →
      ∃ u, exec (.helloReceive p r) s = .next u ∧ (u.port p.val).state = .up ∧ PartnerIs (u.port p.val) r ∧
        (u.port p.val).outq = (s.port p.val).outq ∧ (u.port p.val).gen = (s.port p.val).gen ∧
        (NewPartner (s.port p.val) r → PortEvents s u p.val [0x0802#16]) ∧
        (¬ NewPartner (s.port p.val) r → u.gaffer = s.gaffer) ∧
        (∀ k, k ≠ p.val → u.port k = s.port k) ∧ u = { s with router := u.router, gaffer := u.gaffer }) ∧
    ((s.port p.val).state = .up → ¬ HelloFits r → NothingArriving s p.val →
      ∃ u, exec (.helloReceive p r) s = .next u ∧ (u.port p.val).state = .mismatch ∧ (u.port p.val).pvalid = false ∧
        PartnerIs (u.port p.val) r ∧ u.router.stat.getLsbD 3 = true ∧ u.router.stat.getLsbD 4 = true ∧
        (u.port p.val).outq = [] ∧
        u.router.noroute.toNat = min 0xFFFFFFFF (s.router.noroute.toNat +
          ((s.port p.val).outq.filter fun o => decide (o.left = Msg.flits o.msg)).length) ∧
        ((s.port p.val).outq = [] → ¬ NewPartner (s.port p.val) r → PortEvents s u p.val [0x0801#16, 0x0803#16]) ∧
        (∀ k, k ≠ p.val → (u.port k).state = (s.port k).state) ∧ u.router.inbox = s.router.inbox ∧ u.mem = s.mem ∧
        u.core = s.core) ∧
    ((s.port p.val).state = .mismatch →
      ∃ u, exec (.helloReceive p r) s = .next u ∧ (u.port p.val).state = .mismatch ∧ PartnerIs (u.port p.val) r ∧
        (NewPartner (s.port p.val) r → PortEvents s u p.val [0x0802#16]) ∧
        (∀ k, k ≠ p.val → u.port k = s.port k) ∧ u = { s with router := u.router, gaffer := u.gaffer }) ∧
    ((s.port p.val).state ∈ [.down, .training, .tied] → exec (.helloReceive p r) s = .next s) ∧
    (p.val = 4 → (s.port 4).state = .hello → (s.port 4).helloSent = true → (s.port 4).helloRecv = false → HelloFits r →
      (min s.router.link.cap.toNat (leAt r 7 1 % 16) ≤ 1 →
        ∃ u, exec (.helloReceive p r) s = .next u ∧ (u.port 4).state = .up ∧ (u.port 4).gen = 1#4 ∧
          (u.port 4).pvalid = true ∧ PartnerIs (u.port 4) r ∧ u.core = s.core ∧ u.mem = s.mem) ∧
      (1 < min s.router.link.cap.toNat (leAt r 7 1 % 16) →
        ∃ u, exec (.helloReceive p r) s = .next u ∧ (u.port 4).state = .hello ∧ (u.port 4).helloRecv = true ∧
          PartnerIs (u.port 4) r ∧ u.router.link.gen.toNat = min s.router.link.cap.toNat (leAt r 7 1 % 16) ∧
          u.router.link.lock = false ∧ u.router.link.sinceNc = s.nc ∧ (∀ k, k ≠ 4 → u.port k = s.port k) ∧
          u = { s with router := u.router }))

/-- The edge link. A frame that fails its CRC, and a DATA frame out of order, is counted and answered with a NAK that names the
next SEQ, and acknowledges and returns nothing. A DATA frame in order moves the receive sequence on, is acknowledged, returns its
link credits and delivers its flits: a slot that is HEAD and TAIL is a message. A DATA frame while the port is not UP is discarded, an
IDLE frame returns credits, and a NAK makes the port resend. 4,096 N-cycles without progress resend, and after 8 resends the port is
DOWN. A PHY that has not trained in 100 microseconds trains a generation lower, or from E1 fails and trains again after 10 ms. ELOCK
lets a training port send HELLO and a port that has HELLO go UP at the generation agreed; its loss takes an UP port DOWN
(R325-R328, R330, R331). -/
def Obligations.EdgeLinkKeepsOrder : Prop :=
  ∀ s : State, s.pins.alive = true →
    (∀ f : List Byte, f.length = 272 → s.router.link.lock = true → (s.port 4).state ∈ [.up, .hello, .mismatch, .training] →
      (leAt f 268 4 ≠ (crc32c (f.take 268)).toNat →
        ∃ u, exec (.edgeFrameReceive f) s = .next u ∧ (u.port 4).crcerr = satAdd (s.port 4).crcerr 1 ∧
          u.router.stat.getLsbD 5 = true ∧
          u.router.link = { s.router.link with naks := s.router.link.naks + 1 } ∧
          FrameSent u s.router.link.txSeq (s.router.link.rxSeq + 1#16) 3 [] ∧ LcredIs (u.port 4).sent (s.port 4) ∧
          (u.port 4).credits = (s.port 4).credits ∧ (u.port 4).rxNc = (s.port 4).rxNc ∧
          u = { s with router := u.router, raised := u.raised }) ∧
      (leAt f 268 4 = (crc32c (f.take 268)).toNat →
        (leAt f 4 1 = 1 → (s.port 4).state ≠ .up →
          ∃ u, exec (.edgeFrameReceive f) s = .next u ∧ u.port 4 = { s.port 4 with rxNc := s.nc } ∧
            u.router.link = s.router.link ∧ u = { s with router := u.router }) ∧
        (leAt f 4 1 = 1 → (s.port 4).state = .up → BitVec.ofNat 16 (leAt f 0 2) ≠ s.router.link.rxSeq + 1#16 →
          ∃ u, exec (.edgeFrameReceive f) s = .next u ∧ (u.port 4).crcerr = satAdd (s.port 4).crcerr 1 ∧
            u.router.link = { s.router.link with naks := s.router.link.naks + 1 } ∧
            FrameSent u s.router.link.txSeq (s.router.link.rxSeq + 1#16) 3 [] ∧
            (u.port 4).credits = (s.port 4).credits ∧ u = { s with router := u.router }) ∧
        (leAt f 4 1 = 2 ∨ (leAt f 4 1 = 1 ∧ (s.port 4).state = .up ∧
            BitVec.ofNat 16 (leAt f 0 2) = s.router.link.rxSeq + 1#16) →
          (s.port 4).outq = [] →
          ∃ u, exec (.edgeFrameReceive f) s = .next u ∧ (u.port 4).rxNc = s.nc ∧
            u.router.link.rxSeq = (if leAt f 4 1 = 1 then s.router.link.rxSeq + 1#16 else s.router.link.rxSeq) ∧
            (∀ l, l < 4 → Vec.at (u.port 4).credits l =
              min (if l = 0 then 4 else 16) (Vec.at (s.port 4).credits l + leAt f 6 2 / 16 ^ l % 16)) ∧
            (∀ pre g post, s.router.link.unacked = pre ++ g :: post → g.1 = BitVec.ofNat 16 (leAt f 2 2) →
              (∀ h ∈ pre, h.1 ≠ g.1) →
              u.router.link.unacked = post ∧ u.router.link.resends = 0 ∧ u.router.link.ackNc = s.nc) ∧
            ((∀ g ∈ s.router.link.unacked, g.1 ≠ BitVec.ofNat 16 (leAt f 2 2)) →
              u.router.link.unacked = s.router.link.unacked) ∧
            (leAt f 4 1 = 2 → u.router.link.rxq = s.router.link.rxq) ∧
            (leAt f 4 1 = 1 → (∀ k, k < 4 → leAt f (264 + k) 1 < 128) → u.router.link.rxq = s.router.link.rxq) ∧
            (leAt f 4 1 = 1 → 128 ≤ leAt f 264 1 → bit 4 (leAt f 264 1) = true → bit 3 (leAt f 264 1) = true →
              1 < fld 60 58 (leAt f 8 8) → (∀ k, 0 < k → k < 4 → leAt f (264 + k) 1 < 128) →
              u.router.link.rxq = s.router.link.rxq ++
                [({ w0 := BitVec.ofNat 64 (leAt f 8 8), w1 := BitVec.ofNat 64 (leAt f 16 8), payload := [] },
                  bit 2 (leAt f 264 1), bit 1 (leAt f 264 1))]) ∧
            (u.port 4).crcerr = (s.port 4).crcerr ∧ (u.port 4).state = (s.port 4).state ∧
            (∀ k, k ≠ 4 → u.port k = s.port k) ∧ u = { s with router := u.router }) ∧
        (leAt f 4 1 = 3 → (s.port 4).outq = [] → s.router.link.unacked ≠ [] → s.router.link.resends < 8 →
          (∀ g ∈ s.router.link.unacked, g.1 ≠ BitVec.ofNat 16 (leAt f 2 2) - 1#16) →
          ∃ u, exec (.edgeFrameReceive f) s = .next u ∧ u.router.link.resends = s.router.link.resends + 1 ∧
            u.router.link.unacked = s.router.link.unacked ∧ (u.port 4).retry = satAdd (s.port 4).retry 1 ∧
            u = { s with router := u.router }))) ∧
    (s.router.link.unacked ≠ [] → s.router.link.ackNc + 4096 ≤ s.nc →
      (s.router.link.resends < 8 →
        ∃ u, exec .edgeRetryTimeout s = .next u ∧
          u.router.link = { s.router.link with resends := s.router.link.resends + 1, ackNc := s.nc } ∧
          (u.port 4).retry = satAdd (s.port 4).retry 1 ∧
          (∀ pre g, s.router.link.unacked = pre ++ [g] → g.2.length ≤ 4 → (∀ x ∈ g.2, x.1.length = 64) →
            FrameSent u g.1 s.router.link.rxSeq 1 g.2) ∧
          (∀ k, k ≠ 4 → u.port k = s.port k) ∧ u = { s with router := u.router }) ∧
      (8 ≤ s.router.link.resends → (s.port 4).state ≠ .tied → NothingArriving s 4 →
        ∃ u, exec .edgeRetryTimeout s = .next u ∧ (u.port 4).state = .down ∧ u.router.link.unacked = [] ∧
          PortFell s u 4)) ∧
    (s.router.link.train = true → s.router.link.lock = false → s.router.link.sinceNc + 170000 ≤ s.nc →
      (1 < s.router.link.gen.toNat →
        ∃ u, exec .edgeTrainTimeout s = .next u ∧ u.router.link.cap = s.router.link.gen - 1#2 ∧
          u.router.link.gen = 1#2 ∧ u.router.link.train = true ∧ (u.port 4).state = .training ∧
          u = { s with router := u.router }) ∧
      (s.router.link.gen.toNat ≤ 1 → (s.port 4).state ≠ .tied → NothingArriving s 4 →
        ∃ u, exec .edgeTrainTimeout s = .next u ∧ u.router.link.failed = true ∧ u.router.link.train = false ∧
          u.router.link.sinceNc = s.nc ∧ (u.port 4).state = .down ∧ u.core = s.core ∧ u.mem = s.mem)) ∧
    (s.router.link.failed = true →
      (s.router.link.sinceNc + 17000000 ≤ s.nc →
        ∃ u, exec .edgeTrainRetry s = .next u ∧ (u.port 4).state = .training ∧ u.router.link.failed = false ∧
          u.router.link.train = true ∧ u.router.link.gen = 1#2 ∧ u.router.link.cap = 3#2 ∧
          (∀ k, k ≠ 4 → u.port k = s.port k) ∧ u = { s with router := u.router }) ∧
      (s.nc < s.router.link.sinceNc + 17000000 → exec .edgeTrainRetry s = .next s)) ∧
    (s.router.link.lock = false → (s.port 4).state = .training →
      ∃ u, exec (.elockChange true) s = .next u ∧ (u.port 4).state = .hello ∧ (u.port 4).helloSent = true ∧
        u.router.link = { s.router.link with lock := true } ∧
        FrameSent u s.router.link.txSeq s.router.link.rxSeq 4 [(((u.port 4).sent.drop 8).take 64, 0x80#8)] ∧
        HelloIs s (((u.port 4).sent.drop 8).take 64) ∧ u = { s with router := u.router }) ∧
    (s.router.link.lock = false → (s.port 4).state = .hello → (s.port 4).helloRecv = true →
      ∃ u, exec (.elockChange true) s = .next u ∧ (u.port 4).state = .up ∧ (u.port 4).pvalid = true ∧
        (u.port 4).gen.toNat = s.router.link.gen.toNat ∧ u.router.link.lock = true ∧
        u.router.stat.getLsbD 3 = true ∧
        u = { s with router := u.router, raised := u.raised, gaffer := u.gaffer }) ∧
    (s.router.link.lock = true → (s.port 4).state = .up → NothingArriving s 4 →
      ∃ u, exec (.elockChange false) s = .next u ∧ (u.port 4).state = .down ∧ u.router.link.lock = false ∧ PortFell s u 4)

/-! The Lehr count and timed actions. -/

/-- A pulse with 64 samples behind it loads the count and sets SYNCED, and one sooner or in test mode does nothing; a later one that
agrees changes no count; one that differs, and 65,600 beats without one, are LEHR_FAULT, recorded, reported and written to the kiln,
the pulse loading the count and the missed pulse leaving it, once until the next pulse (R273-R275). -/
def Obligations.PulsesSynchroniseCount : Prop :=
  ∀ s : State, s.pins.alive = true →
    (s.pins.testMode = true → ∀ v, exec (.lehrSyncPulse v) s = .next s ∧ exec .missedPulse s = .next s) ∧
    (∀ v : DWord, s.pins.testMode = false → s.lehr.synced = false →
      (64 ≤ s.lehr.samples → exec (.lehrSyncPulse v) s = .next { s with
        lehr := { s.lehr with lc := v, evLc := v, synced := true, watch := true, sincePulse := 0 } }) ∧
      (s.lehr.samples < 64 → exec (.lehrSyncPulse v) s = .next s)) ∧
    (s.pins.testMode = false → s.lehr.synced = true →
      exec (.lehrSyncPulse s.lehr.lc) s = .next { s with lehr := { s.lehr with watch := true, sincePulse := 0 } }) ∧
    (s.pins.testMode = false → s.lehr.synced = true → s.gaffer.eventCount < Config.eventDepth →
      s.gaffer.kiln.length < Config.kilnDepth →
      (∀ v : DWord, v ≠ s.lehr.lc →
        ∃ u, exec (.lehrSyncPulse v) s = .next u ∧ u.lehr.lc = v ∧ u.lehr.synced = true ∧ u.lehr.sincePulse = 0 ∧
          u.lehr.watch = true ∧ LehrFaulted s u 1#2 ((s.lehr.lc.toNat : Int) - v.toNat)) ∧
      (s.lehr.watch = true → 65600 ≤ s.lehr.sincePulse →
        ∃ u, exec .missedPulse s = .next u ∧ u.lehr.lc = s.lehr.lc ∧ u.lehr.synced = true ∧ u.lehr.watch = false ∧
          LehrFaulted s u 2#2 0)) ∧
    (s.lehr.watch = false ∨ s.lehr.sincePulse < 65600 → exec .missedPulse s = .next s)

/-- Arming and firing. The Gaffer's write of CTL with ARMED arms an entry if its kind is one of R280, LC has been loaded and is below
TARGET, and for a REMAP the staged bank keeps R319 and gives no former identity, and is refused with BAD_PARAM otherwise. A due LAUNCH
in RUN starts task 0 alone at ARG with every queue empty, the loop state clear, the new DET and, but for a replay, the barrier counts
and digests zero; outside RUN a due LAUNCH or SNAPSHOT is missed, as a SNAPSHOT is during a replay, with ACTMISS and its event. A due
SNAPSHOT sets a snapshot point; a due PROFILE switches to a valid mould and changes nothing for another. LH_SNAPNEXT reached sets a
point and moves past LC by whole intervals (R29, R278-R282, R302, R319, R390, R397, R426, R452). -/
def Obligations.TimedActionsFire : Prop :=
  ∀ (s : State) (a : Fin 8) (x : TimedAction), s.pins.alive = true → x = Vec.at s.lehr.acts a.val →
    (∀ ctl : Word, s.may 0x50 .reg true = true → ctl.getLsbD 31 = true →
      ∀ kind, kind = BitVec.ofNat 4 ctl.toNat →
      (1 ≤ kind.toNat → kind.toNat ≤ 4 → s.lehr.synced = true → s.lehr.lc.toNat < x.target.toNat →
        (kind = 3#4 → remapOk s.router.staged = true ∧
          (s.journal.fvalid = true → lcidOf s.router.staged s.router.pid.toNat ≠ some s.journal.flcid.toNat)) →
        ∃ u, exec (.actionArm 0x50#7 a ctl) s = .next u ∧ Answered u 0x50#7 0 ∧
          (Vec.at u.lehr.acts a.val).armed = true ∧ (Vec.at u.lehr.acts a.val).kind = kind ∧
          (Vec.at u.lehr.acts a.val).target = x.target ∧ (Vec.at u.lehr.acts a.val).arg = x.arg ∧
          (∀ b, b ≠ a.val → Vec.at u.lehr.acts b = Vec.at s.lehr.acts b) ∧ u = { s with lehr := u.lehr, resp := u.resp }) ∧
      ((kind.toNat = 0 ∨ 4 < kind.toNat ∨ s.lehr.synced = false ∨ x.target.toNat ≤ s.lehr.lc.toNat ∨
          (kind = 3#4 ∧ remapOk s.router.staged = false)) →
        ∃ u, exec (.actionArm 0x50#7 a ctl) s = .next u ∧ u.resp.status = Code.badParam ∧ u = { s with resp := u.resp })) ∧
    (s.dueAct a.val 1#4 = true → s.inRun = true → (x.replay = true → s.journal.rstate = .replay) →
      ∃ u, exec (.launch a) s = .next u ∧ Vec.at u.lehr.acts a.val = { x with armed := false, fired := true } ∧
        (∀ b, b ≠ a.val → Vec.at u.lehr.acts b = Vec.at s.lehr.acts b) ∧ u.core.running = true ∧
        u.core.startBeat = s.beat + 1 ∧ (u.task 0).state = .ready ∧ (u.task 0).pc = x.arg.toNat % 65536 ∧
        (∀ n, n < 32 → (u.task 0).reg n = if n = 1 ∧ x.replay = true then s.journal.restId else 0#64) ∧
        (u.task 0).loops = [] ∧ (∀ t, 0 < t → t < 32 → (u.task t).state = .free) ∧
        (∀ q, q < 8 → u.queue q = EngineQueue.empty) ∧ u.core.cache = [] ∧ u.core.imem = s.core.imem ∧
        u.core.owners = s.core.owners ∧ u.tier = { s.tier with det := s.tier.detNext } ∧ u.rings.parked = [] ∧
        u.lehr.slip = 0#32 ∧ u.lehr.late = 0#32 ∧ u.lehr.early = 0#32 ∧ u.lehr.unwin = 0#32 ∧
        (∀ b, b < 14 → (u.barrier b).pend = false ∧ (u.barrier b).expect = (s.barrier b).expect ∧
          (x.replay = false → (u.barrier b).gen = 0#16 ∧ (u.barrier b).rgen = 0#16 ∧ (u.barrier b).rcnt = 0#24) ∧
          (x.replay = true → (u.barrier b).gen = (s.barrier b).gen ∧ (u.barrier b).rgen = (s.barrier b).rgen ∧
            (u.barrier b).rcnt = (s.barrier b).rcnt)) ∧
        (x.replay = false → u.digests.val = [] ∧ u.digests.cnt = []) ∧ (x.replay = true → u.digests = s.digests) ∧
        u.mem = s.mem ∧ u.router = s.router ∧ u.stats = s.stats) ∧
    (∀ k : BitVec 4, ∀ i : Instr,
      (k = 1#4 ∧ i = .launch a ∧ s.inRun = false) ∨
        (k = 2#4 ∧ i = .snapshotActionFire a ∧ (s.inRun = false ∨ s.journal.rstate ≠ .none)) →
      s.dueAct a.val k = true → s.gaffer.eventCount < Config.eventDepth →
      ∃ u e, exec i s = .next u ∧ Vec.at u.lehr.acts a.val = { x with armed := false, missed := true } ∧
        u.lehr.actMiss = true ∧ u.gaffer = { s.gaffer with outq := s.gaffer.outq ++ [.event e] } ∧ e.code = 0x0305#16 ∧
        e.detail = [BitVec.ofNat 32 a.val, BitVec.ofNat 32 k.toNat, loWord x.target, hiWord x.target, x.arg] ∧
        u = { s with lehr := u.lehr, raised := u.raised, gaffer := u.gaffer }) ∧
    (s.dueAct a.val 2#4 = true → s.inRun = true → s.journal.rstate = .none →
      ∃ u, exec (.snapshotActionFire a) s = .next u ∧ Vec.at u.lehr.acts a.val = { x with armed := false, fired := true } ∧
        u.journal = { s.journal with
          snapPend := true, snapPendAt := if s.journal.snapPend then s.journal.snapPendAt else s.lehr.lc } ∧
        u = { s with lehr := u.lehr, raised := u.raised, journal := u.journal }) ∧
    (∀ m, m = x.arg.toNat % 4 → s.dueAct a.val 4#4 = true →
      (s.gaffer.validMould m = true →
        ∃ u, exec (.profile a) s = .next u ∧ Vec.at u.lehr.acts a.val = { x with armed := false, fired := true } ∧
          u.gaffer.sel.toNat = m ∧ u.gaffer.ovr = true ∧ u.gaffer.mouldOk = true ∧
          u.router.comb = bit 0 (leAt (s.gaffer.mould m) 18 1) ∧ u.core = s.core ∧ u.mem = s.mem) ∧
      (s.gaffer.validMould m = false → s.gaffer.eventCount < Config.eventDepth →
        ∃ u e, exec (.profile a) s = .next u ∧ u.gaffer = { s.gaffer with outq := s.gaffer.outq ++ [.event e] } ∧
          e.code = Code.nvTorn ∧ Vec.at u.lehr.acts a.val = { x with armed := false, fired := true } ∧
          u = { s with lehr := u.lehr, raised := u.raised, gaffer := u.gaffer })) ∧
    (s.dueAct a.val 1#4 = false → exec (.launch a) s = .next s) ∧
    (s.lehr.snapInt ≠ 0#32 → s.lehr.due s.lehr.snapNext = true → s.inRun = true → s.journal.rstate = .none →
      s.lehr.snapNext.toNat ≤ s.lehr.lc.toNat →
      s.lehr.lc.toNat + s.lehr.snapInt.toNat < 2 ^ 64 →
      ∃ u, exec .snapshotTimer s = .next u ∧ u.journal.snapPend = true ∧ s.lehr.lc.toNat < u.lehr.snapNext.toNat ∧
        u.lehr.snapNext.toNat ≤ s.lehr.lc.toNat + s.lehr.snapInt.toNat ∧
        (u.lehr.snapNext.toNat - s.lehr.snapNext.toNat) % s.lehr.snapInt.toNat = 0 ∧
        u = { s with lehr := { s.lehr with snapNext := u.lehr.snapNext }, journal := u.journal })

/-! Journal, snapshots and replay. -/

/-- The oldest staged record goes to the journal region in pieces when it lies in the region, overwrites nothing from the retention
point on, and tags are free; one that would overwrite it stops the writer with JFULL and its event. Without a record the oldest trace
sample goes to its ring. A trace sample due in this beat holds LC, the growth of the four counters and the journal's fill, the oldest
making room in a full buffer; while the journal's fill exceeds 192 KiB none is taken and TSTARV is set (R409-R411, R463; that a sample
in a full buffer takes the place of the oldest is the model's choice, log 120). -/
def Obligations.JournalAndTraceAreWritten : Prop :=
  (∀ (s : State) (r : JRecord) (rest : List JRecord),
    s.pins.alive = true → s.journal.staged = r :: rest → 0 < s.journal.region → 32 ≤ r.bytes.length →
    r.pos % s.journal.region + r.bytes.length ≤ s.journal.region →
    ((s.journal.retain = none ∨ ∃ m, s.journal.retain = some m ∧ r.pos + r.bytes.length ≤ m.pos + s.journal.region) →
      s.far.length + r.bytes.length / 256 + 2 ≤ Config.farTags →
      ∃ u rs, exec .journalWrite s = .next u ∧ u.far = s.far ++ rs ∧ (∀ q ∈ rs, q.use = .journal r.jseq) ∧
        WritesOut rs 0x50#7 (s.journal.base.toNat + r.pos % s.journal.region) r.bytes ∧
        u.journal.staged = rest ∧ u.journal.stopped = false ∧ u.journal.retain = s.journal.retain ∧
        u.mem = s.mem ∧ u.core = s.core ∧ u.rings = s.rings) ∧
    (∀ m, s.journal.retain = some m → m.pos + s.journal.region < r.pos + r.bytes.length → s.journal.stopped = false →
      ∃ u, exec .journalWrite s = .next u ∧ u.journal.staged = s.journal.staged ∧ u.journal.stopped = true ∧
        u.journal.stat.getLsbD 2 = true ∧
        (s.gaffer.eventCount < Config.eventDepth → ∃ e, u.gaffer.outq = s.gaffer.outq ++ [.event e] ∧ e.code = 0x0705#16) ∧
        u = { s with journal := u.journal, raised := u.raised, gaffer := u.gaffer })) ∧
  (∀ (s : State) (x : List Byte) (rest : List (List Byte)), s.pins.alive = true → s.journal.staged = [] →
    s.journal.trace = x :: rest → s.journal.tsize ≠ 0#16 → s.far.length < Config.farTags →
    ∃ u q, exec .journalWrite s = .next u ∧ u.far = s.far ++ [q] ∧ q.write = true ∧ q.mid = 0x50#7 ∧
      q.addr = s.journal.tbase.toNat + 32 * s.journal.tpos % (65536 * s.journal.tsize.toNat) ∧ q.data = x ∧
      u = { s with far := u.far, journal := { s.journal with trace := rest, tpos := s.journal.tpos + 1 } }) ∧
  (∀ s : State, s.pins.alive = true → s.journal.ten = true → s.inRun = true → 10 ≤ s.journal.tper.toNat →
    s.journal.tper.toNat ≤ 24 → s.lehr.lc.toNat % 2 ^ s.journal.tper.toNat = 0 → s.journal.tlast ≠ some s.lehr.lc →
    (s.journal.fill ≤ 196608 →
      ∃ u x, exec .traceSample s = .next u ∧ x.length = 32 ∧ leAt x 0 8 = s.lehr.lc.toNat ∧
        leAt x 8 4 = ((s.me 0).abusy + (s.me 1).abusy + (s.me 2).abusy + (s.me 3).abusy
          - Vec.at s.journal.tprev 0).toNat % 2 ^ 32 ∧
        leAt x 12 4 = (s.ve.busy - Vec.at s.journal.tprev 1).toNat % 2 ^ 32 ∧
        leAt x 16 4 = (s.rings.rx - Vec.at s.journal.tprev 2).toNat % 2 ^ 32 ∧
        leAt x 20 4 = (s.rings.tx - Vec.at s.journal.tprev 3).toNat % 2 ^ 32 ∧
        leAt x 24 4 = s.journal.fill / 16 ∧ leAt x 28 4 = 0 ∧
        (s.journal.fill + s.journal.tfill + 32 ≤ Config.stagingSize → u.journal.trace = s.journal.trace ++ [x]) ∧
        (Config.stagingSize < s.journal.fill + s.journal.tfill + 32 →
          u.journal.trace = s.journal.trace.drop 1 ++ [x] ∧ u.journal.stat.getLsbD 1 = true) ∧
        u.journal.staged = s.journal.staged ∧ u = { s with journal := u.journal, raised := u.raised, gaffer := u.gaffer }) ∧
    (196608 < s.journal.fill →
      ∃ u, exec .traceSample s = .next u ∧ u.journal.trace = s.journal.trace ∧ u.journal.tprev = s.journal.tprev ∧
        u.journal.stat.getLsbD 1 = true ∧ u.journal.staged = s.journal.staged ∧
        u = { s with journal := u.journal, raised := u.raised, gaffer := u.gaffer }))

/-- A snapshot in its order. At a barrier pass a pending point is judged: the first condition that fails refuses it, and otherwise the
MARK is appended and the freeze begins. The header with COMPLETE clear goes out once every message before the MARK has settled; once
it is acknowledged context 0 copies the state areas and the bank's dirty live regions, transfer by transfer within its tokens, each
region's dirty bit clearing with its last byte read and the freeze ending with the last transfer; the header with COMPLETE set goes
last; once that is acknowledged the bank is the valid snapshot, counted, and retention moves to its MARK. A write that fails abandons it
(R218, R219, R397-R399, R401, R402, R404, R411; that a point stays pending while an earlier snapshot's writes are out is the model's
choice, log 28). -/
def Obligations.SnapshotRunsInOrder : Prop :=
  (∀ (s : State) (b : Fin 14) (pass : DWord) (replayed : Bool) (seq : Word) (cause : Nat),
    s.inRun = true → (s.barrier b.val).passAt = some (pass, replayed) → (s.barrier b.val).pend = true →
    s.sched.bar = some (b.val, seq) → pass.toNat ≤ s.lehr.evLc.toNat → (∀ a, a < 8 → (Vec.at s.lehr.acts a).armed = false) →
    s.lehr.snapInt = 0#32 → s.journal.snapPend = true → s.journal.snapPendAt.toNat ≤ s.lehr.evLc.toNat →
    s.journal.snapBusy = false → SnapRefusal s cause →
    (cause ≠ 0 → ∃ u, exec (.barrierPass b) s = .next u ∧
      u.journal = { s.journal with snapPend := false, rcause := BitVec.ofNat 8 cause, stat := s.journal.stat ||| 8#8 } ∧
      (s.gaffer.eventCount < Config.eventDepth → ∃ e, u.gaffer.outq = s.gaffer.outq ++ [.event e] ∧ e.code = 0x0704#16 ∧
        e.detail.head? = some (BitVec.ofNat 32 cause))) ∧
    (cause = 0 → ∃ u bank jseq, exec (.barrierPass b) s = .next u ∧ u.journal.snapPend = false ∧ u.journal.freeze = true ∧
      u.journal.snapBusy = true ∧ u.journal.snapPhase = .marked ∧ u.journal.snapSeq = s.journal.snapSeq + 1#32 ∧
      u.journal.snapNow = some (s.lehr.lc, bank, b.val, (s.barrier b.val).gen + 1#16, jseq) ∧
      (s.journal.snapValid = true → bank = !s.journal.snapBank) ∧ u.mem = s.mem ∧
      (s.journal.en = true → s.journal.size ≠ 0#16 → s.router.lvalid = true →
        ∃ r ∈ u.journal.staged, leAt r.bytes 0 1 = 3 ∧ leAt r.bytes 20 4 = u.journal.snapSeq.toNat ∧
          leAt r.bytes 24 1 = (if bank then 1 else 0) ∧ leAt r.bytes 25 1 = b.val ∧
          leAt r.bytes 26 2 = ((s.barrier b.val).gen + 1#16).toNat ∧ leAt r.bytes 32 8 = s.lehr.lc.toNat))) ∧
  (∀ (s : State) (id : DWord) (bank : Bool) (bid : Nat) (gen : Half) (jseq : Word) (base : Nat),
    s.pins.alive = true → s.journal.snapNow = some (id, bank, bid, gen, jseq) →
    base = s.journal.snapBase.toNat + (if bank then 0x280000 else 0) →
    (s.journal.snapPhase = .marked → s.rings.writes = [] → (∀ i ∈ s.router.inbox, i.marked = false) →
      ∃ u page, exec .snapshotCopy s = .next u ∧ u.journal.snapPhase = .header ∧ u.journal.freeze = s.journal.freeze ∧
        HeaderPage s false page ∧ PageGoesOut s u base page ∧ u = { s with far := u.far, journal := u.journal }) ∧
    (s.journal.snapPhase = .marked → s.rings.writes ≠ [] → exec .snapshotCopy s = .next s) ∧
    (s.journal.snapPhase = .headerDone →
      ∃ u todo, exec .snapshotCopy s = .next u ∧ (u.ctx 0).state = .running ∧ (u.ctx 0).fw = true ∧
        HeaderPage s true u.journal.snapPage ∧
        (u.journal.snapTodo = todo ∧ u.far = s.far ∨
          ∃ p q, todo = p :: u.journal.snapTodo ∧ u.far = s.far ++ [q] ∧ q.write = true ∧ q.mid = 0x50#7 ∧ q.addr = p.addr) ∧
        (∀ x ∈ s.snapAreas, ∀ y ∈ pieces (base + x.1) (x.2.length / 16 + 1) x.2, .bytes y.1 y.2 ∈ todo) ∧
        (∀ a r k, .region a r k ∈ todo ↔ a = base + 0x80000 + 4096 * r + 256 * k ∧ r < 512 ∧ k < 16 ∧
          s.journal.live.getLsbD r = true ∧ (if bank then s.journal.dirty1 else s.journal.dirty0).getLsbD r = true) ∧
        u.mem.mem = s.mem.mem ∧ u.core = s.core) ∧
    (∀ p rest bs, s.journal.snapPhase = .copying → s.journal.snapTodo = p :: rest → s.journal.snapOut < 64 →
      s.se.xfers.length + s.journal.snapOut < Config.xferLimit → s.far.length < Config.farTags →
      (∀ c, c = (if p.addr / 2 ^ 45 = s.router.chip.toNat then 1 else 2) →
        (if c = 1 then s.se.shareWrite else s.se.shareRemote) ≠ 0#8 → 100 * bs.length ≤ Vec.at s.se.buckets c →
        (∀ a x, p = .bytes a x → bs = x) →
        (∀ a r k, p = .region a r k → bs = s.mem.mem.readBytes (4096 * r + 256 * k) 256 ∧
          s.mem.badIn (4096 * r + 256 * k) 256 = none) →
        ∃ u q, exec .snapshotCopy s = .next u ∧ u.far = s.far ++ [q] ∧ q.write = true ∧ q.mid = 0x50#7 ∧ q.addr = p.addr ∧
          q.data = bs ∧ u.journal.snapTodo = rest ∧ u.journal.snapOut = s.journal.snapOut + 1 ∧
          Vec.at u.se.buckets c = Vec.at s.se.buckets c - 100 * bs.length ∧
          (rest = [] → u.journal.snapPhase = .copied ∧ u.journal.freeze = false) ∧
          (rest ≠ [] → u.journal.snapPhase = .copying ∧ u.journal.freeze = s.journal.freeze) ∧
          (∀ a r, p = .region a r 15 → (if bank then u.journal.dirty1 else u.journal.dirty0).getLsbD r = false) ∧
          (∀ r, (∀ a, p ≠ .region a r 15) → (if bank then u.journal.dirty1 else u.journal.dirty0).getLsbD r =
            (if bank then s.journal.dirty1 else s.journal.dirty0).getLsbD r) ∧
          (if bank then u.journal.dirty0 else u.journal.dirty1) = (if bank then s.journal.dirty0 else s.journal.dirty1) ∧
          u.mem.mem = s.mem.mem ∧ u.core = s.core)) ∧
    (s.journal.snapPhase = .copied → s.journal.snapOut = 0 → s.journal.snapTodo = [] → s.journal.snapPage.length = 4096 →
      ∃ u, exec .snapshotComplete s = .next u ∧ u.journal.snapPhase = .final ∧ PageGoesOut s u base s.journal.snapPage ∧
        u.journal.snapValid = s.journal.snapValid ∧ u = { s with far := u.far, journal := u.journal }) ∧
    (s.journal.snapPhase = .finalDone →
      ∃ u, exec .snapshotComplete s = .next u ∧ u.journal.snapNow = none ∧ u.journal.snapBusy = false ∧
        u.journal.snapValid = true ∧ u.journal.snapBank = bank ∧ u.journal.snapId = id ∧
        u.journal.snapCount = s.journal.snapCount + 1#16 ∧
        (∀ m, s.journal.snapMark = some m → u.journal.retain = some m) ∧ u = { s with journal := u.journal }) ∧
    (∀ (tag : BitVec 11) (err : FarErr) (r : FarReq), s.far.find? (fun q => q.tag == tag.toNat && q.write) = some r →
      (∀ c, r.use = .snapHeader c → err = .ok → s.journal.snapOut = 1 → s.journal.snapTodo = [] →
        (s.journal.snapPhase = .header → ∃ u, exec (.farWriteAck tag err) s = .next u ∧ u.journal.snapPhase = .headerDone ∧
          u.journal.snapOut = 0 ∧ u.far = s.far.filter (fun q => q.tag != tag.toNat) ∧ u.mem = s.mem ∧ u.core = s.core) ∧
        (s.journal.snapPhase = .final → ∃ u, exec (.farWriteAck tag err) s = .next u ∧ u.journal.snapPhase = .finalDone ∧
          u.journal.snapOut = 0 ∧ u.mem = s.mem ∧ u.core = s.core)) ∧
      (r.use = .snapshot → err = .ok → ∃ u, exec (.farWriteAck tag err) s = .next u ∧ (s.journal.snapPhase = .copied →
        u.journal.snapOut = s.journal.snapOut - 1) ∧ u.mem = s.mem ∧ u.core = s.core) ∧
      (∀ c, r.use = .snapHeader c → err ≠ .ok →
        ∃ u, exec (.farWriteAck tag err) s = .next u ∧ SnapAbandoned s u bank)))

/-- RESTORE, once its reads are complete. A tier that has left RUN, or a header of another FORMAT or chip, without COMPLETE or with a
bad CRC, refuses it and nothing changes; a failed read leaves STATE NONE and every task FREE; otherwise the named regions of local
memory hold the bank's bytes, the others zero, the ring descriptors of the saved tags, the credit and sequence tables, the counts, the
barrier entries, the digests, JN_LIVE, JN_RESUME, DETNEXT and the shards those that it holds, the image is in instruction memory, every
task is FREE, TS_HID will show the snapshot's LCID and STATE is RESTORED (R29, R403, R404, R416). -/
def Obligations.RestoreLoadsSnapshot : Prop :=
  ∀ (s : State) (far : FarReply) (r : ReplyTo) (base src : DWord) (bank : Bool) (len a : Nat) (h : List Byte),
    s.pins.alive = true → s.gaffer.action = some (.restore r base bank src len) →
    a = sysBits base.toNat + (if bank then 0x280000 else 0) → h = replyBytes far a 128 →
    (s.inRun = false →
      ∃ u, exec (.restoreLoadComplete far) s = .next u ∧ u.gaffer.action = none ∧
        u = { s with gaffer := u.gaffer, router := u.router, raised := u.raised }) ∧
    (s.inRun = true → (∃ e ∈ far.errs, a ≤ e.1 ∧ e.1 < a + 0x280000 ∧ e.2 ≠ .ok) →
      ∃ u, exec (.restoreLoadComplete far) s = .next u ∧ u.gaffer.action = none ∧ u.journal.rstate = .none ∧
        u.core.running = false ∧ (∀ t, t < 32 → (u.task t).state = .free) ∧ u.core.imem = s.core.imem ∧ u.mem = s.mem ∧
        u.tier = s.tier) ∧
    (s.inRun = true → (∀ e ∈ far.errs, a ≤ e.1 → e.1 < a + 0x280000 → e.2 = .ok) →
      ((leAt h 0 4 ≠ 0x20000 ∨ leAt h 124 4 ≠ (crc32c (h.take 124)).toNat ∨ leAt h 22 1 % 2 = 0 ∨
          leAt h 16 2 ≠ s.router.chip.toNat) →
        ∃ u, exec (.restoreLoadComplete far) s = .next u ∧ u.gaffer.action = none ∧
          u = { s with gaffer := u.gaffer, router := u.router, raised := u.raised }) ∧
      (leAt h 0 4 = 0x20000 → leAt h 124 4 = (crc32c (h.take 124)).toNat → leAt h 22 1 % 2 = 1 →
        leAt h 16 2 = s.router.chip.toNat → isSys src.toNat = true →
        (∀ e ∈ far.errs, sysBits src.toNat ≤ e.1 → e.1 < sysBits src.toNat + len → e.2 = .ok) →
        ∃ u, exec (.restoreLoadComplete far) s = .next u ∧ u.gaffer.action = none ∧ u.journal.rstate = .restored ∧
          u.journal.restId = BitVec.ofNat 64 (leAt h 8 8) ∧ u.journal.restLcid = some (BitVec.ofNat 11 (leAt h 18 2)) ∧
          (∀ g k, g < 512 → k < 4096 → u.mem.mem.read (4096 * g + k) =
            (if (replyByte far (a + 32 + g / 8)).getLsbD (g % 8) then replyByte far (a + 0x80000 + 4096 * g + k) else 0#8)) ∧
          (∀ saved : Nat → Bool, (∀ t, saved t = (replyByte far (a + 0x1800 + t / 8)).getLsbD (t % 8)) →
            ∀ t k, t < 8192 → k < 32 → u.rings.store.read (32 * t + k) =
              (if saved t then replyByte far (a + 0x2A000 + 32 * ((List.range t).filter saved).length + k) else 0#8)) ∧
          (∀ k, k < 0x8000 → u.rings.credit.read k = replyByte far (a + 0x2000 + k)) ∧
          (∀ k, k < 0x4000 → u.se.seqTable.read k = replyByte far (a + 0xA000 + k)) ∧
          (∀ e, e < 2048 → Tbl.get 0#32 u.rings.sendCount e = BitVec.ofNat 32 (ofLE (replyBytes far (a + 0x18000 + 4 * e) 4))) ∧
          (∀ t, t < 8192 →
            Tbl.get 0#32 u.rings.creditCount t = BitVec.ofNat 32 (ofLE (replyBytes far (a + 0x1A000 + 8 * t + 4) 4)) ∧
            Tbl.get 0#16 u.rings.revokeCount t = BitVec.ofNat 16 (ofLE (replyBytes far (a + 0x1A000 + 8 * t + 2) 2))) ∧
          (∀ b e, b < 14 → e = replyBytes far (a + 0x1000 + 32 * b) 32 →
            (u.barrier b).gen = BitVec.ofNat 16 (leAt e 10 2) ∧ (u.barrier b).rgen = BitVec.ofNat 16 (leAt e 14 2) ∧
            (u.barrier b).rcnt = BitVec.ofNat 24 (leAt e 16 4) ∧ (u.barrier b).expect = BitVec.ofNat 24 (leAt e 4 4) ∧
            (u.barrier b).margin = BitVec.ofNat 16 (leAt e 8 2) ∧ (u.barrier b).arrived = bit 0 (leAt e 20 1) ∧
            (u.barrier b).pend = false) ∧
          (∀ d, d < 64 →
            Tbl.get 0#64 u.digests.val d = BitVec.ofNat 64 (ofLE (replyBytes far (a + 0x1200 + 16 * d) 8)) ∧
            Tbl.get 0#32 u.digests.cnt d = BitVec.ofNat 32 (ofLE (replyBytes far (a + 0x1208 + 16 * d) 4))) ∧
          u.journal.live = BitVec.ofNat 512 (ofLE (replyBytes far (a + 0x1600) 64)) ∧
          u.journal.resume = BitVec.ofNat 16 (ofLE (replyBytes far (a + 0x1740) 2)) ∧
          u.tier.detNext = bit 0 (ofLE (replyBytes far (a + 0x1744) 1)) ∧
          (∀ i e, i < 256 → e = replyBytes far (a + 0xE000 + 160 * i) 160 →
            (u.shard i).state = (if leAt e 136 1 = 0 then .empty else .idle) ∧
            (u.shard i).stepn = BitVec.ofNat 32 (leAt e 128 4) ∧ (u.shard i).endn = BitVec.ofNat 32 (leAt e 132 4)) ∧
          u.core.imem = s.core.imem.writeBytes 0 (replyBytes far (sysBits src.toNat) len) ∧
          u.core.running = false ∧ (∀ t, t < 32 → (u.task t).state = .free) ∧ u.tier.state = s.tier.state))

/-- REPLAY. With its FENCE record and MARK read, its LAUNCH entry is armed for the next beat, both cursors stand at the MARK and the
sends to suppress are the differences of the counts; without them, or with a failed read, it fails with CAUSE 6. The message cursor
passes a MARK, lets a RELEASE pass its barrier in the next beat, applies a CREDIT, delivers a MSG through the checks of R247 with its
recorded stamp, waits for ring space, ends the replay at END with every suppression done, and fails it with CAUSE 3 or 4 otherwise; a
bad record before the FENCE record or one that skips is CAUSE 1, and one not yet written is waited for. The read cursor keeps a READ
record, or serves the transfer that waits for it; another address or length is CAUSE 2, too many records CAUSE 5 (R247, R257, R417-R419,
R421, R424; that a program that runs, or a LAUNCH that is armed, makes it BUSY is the model's choice, log 113). -/
def Obligations.ReplayFollowsJournal : Prop :=
  (∀ (s : State) (far : FarReply) (r : ReplyTo) (base : DWord) (size : Nat) (jseq : Word) (f m : Option (List Byte)),
    s.pins.alive = true → s.gaffer.action = some (.replayRead r base size jseq) → isLoc base.toNat = false →
    f = findRecord far (sysBits base.toNat) (65536 * size) (fun b => recKind b == JKind.fence && recSeq b == jseq.toNat) →
    m = findRecord far (sysBits base.toNat) (65536 * size) (fun b =>
      recKind b == JKind.mark && leAt b 32 8 == s.journal.restId.toNat && leAt b 24 1 != 0xFF) →
    ((∀ e ∈ far.errs, sysBits base.toNat ≤ e.1 → e.1 < sysBits base.toNat + 65536 * size → e.2 = .ok) →
      ∀ f' m', f = some f' → m = some m' → s.lehr.synced = true →
      (∀ a, s.core.running = false → (∀ a, a < 8 → (Vec.at s.lehr.acts a).armed = true → (Vec.at s.lehr.acts a).kind ≠ 1#4) →
        s.freeAct = some a →
        ∃ u, exec (.fenceRecordRead far) s = .next u ∧ u.journal.rstate = .replay ∧
          u.journal.curMsg = BitVec.ofNat 32 (recSeq m') ∧ u.journal.curRead = BitVec.ofNat 32 (recSeq m') ∧
          (∀ k e n d, k < leAt f' 22 2 → e = leAt f' (96 + 8 * k) 2 → n = leAt f' (100 + 8 * k) 4 →
            d = BitVec.ofNat 32 n - Tbl.get 0#32 s.rings.sendCount e → d ≠ 0#32 → (e, d) ∈ u.journal.supSend) ∧
          Vec.at u.lehr.acts a = { Vec.at s.lehr.acts a with
            target := s.lehr.lc + 1#64, armed := true, kind := 1#4, arg := s.journal.resume.setWidth 32, replay := true } ∧
          u.gaffer.action = some (.replayRun r true) ∧
          u = { s with gaffer := u.gaffer, journal := u.journal, lehr := u.lehr }) ∧
      (s.core.running = true →
        ∃ u, exec (.fenceRecordRead far) s = .next u ∧ u.gaffer.action = none ∧ u.journal = s.journal ∧ u.lehr = s.lehr ∧
          u.core = s.core ∧ u.mem = s.mem)) ∧
    ((f = none ∨ m = none ∨
        ∃ e ∈ far.errs, sysBits base.toNat ≤ e.1 ∧ e.1 < sysBits base.toNat + 65536 * size ∧ e.2 ≠ .ok) →
      ∃ u, exec (.fenceRecordRead far) s = .next u ∧ u.journal.rstate = .failed ∧ u.journal.cause = 6#8 ∧
        u.journal.stat.getLsbD 5 = true ∧ (∀ q, q < 8 → (u.queue q).stopped = true) ∧ u.gaffer.action = none ∧
        u.mem = s.mem)) ∧
  (∀ (s : State) (record b : List Byte), s.journal.replaying = true → s.inRun = true → recGood record = true →
    b = record.take (recLength record) →
    (BitVec.ofNat 32 (recSeq record) = s.journal.curMsg → recKind b = JKind.mark →
      exec (.replayMessageCursor record) s =
        .next { s with journal := { s.journal with curMsg := s.journal.curMsg + 1#32 } }) ∧
    (∀ k, BitVec.ofNat 32 (recSeq record) = s.journal.curMsg → recKind b = JKind.release → k = Msg.bid (recMessage b) →
      k ≤ 13 → (s.barrier k).pend = true → (s.barrier k).passAt = none →
      (s.barrier k).gen.toNat = Msg.gen (recMessage b) →
      ∃ u, exec (.replayMessageCursor record) s = .next u ∧
        u.barrier k = { s.barrier k with passAt := some (s.lehr.lc + 1#64, true) } ∧
        (∀ j, j ≠ k → u.barrier j = s.barrier j) ∧
        u = { s with lehr := u.lehr, journal := { s.journal with curMsg := s.journal.curMsg + 1#32 } }) ∧
    (∀ w0 w1 e, BitVec.ofNat 32 (recSeq record) = s.journal.curMsg → recKind b = JKind.credit → w0 = leAt b 32 8 →
      w1 = leAt b 40 8 → e = fld 10 0 w1 → (s.entryOf e).valid = true → (s.entryOf e).stale = false →
      (s.entryOf e).epoch = fld 57 42 w0 → s.rings.parked = [] → Memory.wf s.rings.credit = true →
      ∃ u, exec (.replayMessageCursor record) s = .next u ∧
        (u.entryOf e).credit = min 65535 ((s.entryOf e).credit + fld 26 11 w1) ∧
        (∀ k, k ≠ e → k < 2048 → u.entryOf k = s.entryOf k) ∧
        u = { s with rings := u.rings, journal := { s.journal with curMsg := s.journal.curMsg + 1#32 } }) ∧
    (∀ m t stamp, BitVec.ofNat 32 (recSeq record) = s.journal.curMsg → recKind b = JKind.msg → m = recMessage b →
      t = Msg.tag m → t ≠ 1 → Msg.kind m = Kind.data → stamp = BitVec.ofNat 64 (leAt b 8 8) →
      (RingVerdict s m t none →
        ∃ u, exec (.replayMessageCursor record) s = .next u ∧
          u.rings = { s.rings with
            rx := s.rings.rx + 1#64
            writes := s.rings.writes ++ [{
              tag := t
              pos := BitVec.ofNat 32 ((s.ring t).wptr +
                ((s.rings.writes.filter fun w => w.tag == t).map (·.n)).foldl (· + ·) 0)
              n := (Msg.len m + 4) / 4, msg := m, stamp := stamp }] } ∧
          u.journal.curMsg = s.journal.curMsg + 1#32 ∧ u.mem = s.mem ∧ u.core = s.core) ∧
      (∀ c, RingVerdict s m t (some (c, 4)) → exec (.replayMessageCursor record) s = .next s) ∧
      (∀ c k, RingVerdict s m t (some (c, k)) → k ≠ 4 →
        ∃ u, exec (.replayMessageCursor record) s = .next u ∧ ReplayFailed s u 3)) ∧
    (BitVec.ofNat 32 (recSeq record) = s.journal.curMsg → recKind b = JKind.end_ → s.journal.curRead = s.journal.curMsg →
      s.journal.rstate = .tail → (∀ x ∈ s.se.xfers, x.volat = true → x.tag ≠ none) →
      ((∀ p ∈ s.journal.supSend, p.2 = 0#32) → (∀ p ∈ s.journal.supCredit, p.2 = 0#32) →
        (∀ p ∈ s.journal.supRevoke, p.2 = 0#32) → s.journal.fenceBars = [] →
        ∃ u, exec (.replayMessageCursor record) s = .next u ∧ u.journal.rstate = .none ∧
          (∀ r j, s.gaffer.action = some (.replayRun r j) → u.gaffer.action = none) ∧ u.core = s.core ∧ u.mem = s.mem) ∧
      ((∃ p ∈ s.journal.supSend, p.2 ≠ 0#32) →
        ∃ u, exec (.replayMessageCursor record) s = .next u ∧ ReplayFailed s u 4)) ∧
    (0 < (BitVec.ofNat 32 (recSeq record) - s.journal.curMsg).toInt →
      ∃ u, exec (.replayMessageCursor record) s = .next u ∧ ReplayFailed s u 1) ∧
    (BitVec.ofNat 32 (recSeq record) = s.journal.curRead → recKind b = JKind.read →
      (∀ w, w = { jseq := BitVec.ofNat 32 (recSeq b), src := leAt b 20 2, ord := leAt b 24 4
                  faddr := BitVec.ofNat 64 (leAt b 32 8), data := (b.drop 48).take (leAt b 28 2) } →
        (∀ x ∈ s.se.xfers, x.volat = true → x.tag ≠ none) →
        (((s.journal.waiting ++ [w]).map ReadRecord.size).foldl (· + ·) 0 ≤ Config.stagingSize →
          exec (.replayReadCursor record) s = .next { s with journal := { s.journal with
            waiting := s.journal.waiting ++ [w], curRead := s.journal.curRead + 1#32 } }) ∧
        (Config.stagingSize < ((s.journal.waiting ++ [w]).map ReadRecord.size).foldl (· + ·) 0 →
          ∃ u, exec (.replayReadCursor record) s = .next u ∧ ReplayFailed s u 5)) ∧
      (∀ x, (s.se.xfers.filter fun x => x.volat && x.tag.isNone).find?
          (fun x => x.ctx == leAt b 20 2 && x.ord == leAt b 24 4) = some x →
        (x.faddr = leAt b 32 8 → x.len = leAt b 28 2 →
          ∃ u, exec (.replayReadCursor record) s = .next u ∧ u.se.xfers = s.se.xfers.erase x ∧
            u.mem.mem = s.mem.mem.writeBytes x.dst.toNat ((b.drop 48).take (leAt b 28 2)) ∧
            u.journal.curRead = s.journal.curRead + 1#32 ∧ u.journal.waiting = s.journal.waiting ∧
            u.core.tasks = s.core.tasks) ∧
        (x.faddr ≠ leAt b 32 8 ∨ x.len ≠ leAt b 28 2 →
          ∃ u, exec (.replayReadCursor record) s = .next u ∧ ReplayFailed s u 2)))) ∧
  (∀ (s : State) (record : List Byte), s.journal.replaying = true → s.inRun = true → recGood record = false →
    (0 ≤ (s.journal.fenceSeq - s.journal.curMsg).toInt →
      ∃ u, exec (.replayMessageCursor record) s = .next u ∧ ReplayFailed s u 1) ∧
    ((s.journal.fenceSeq - s.journal.curMsg).toInt < 0 → exec (.replayMessageCursor record) s = .next s))

/-! Marver. -/

/-- The commands of queue 6. SHDEF of a valid descriptor defines the shard as IDLE with its STEP0, and stops the queue on another; SHARM of
an IDLE shard whose ring fits zeroes its scratch area and arms it; SHGO of a READY shard starts its statistics or skips its step, with
a warning if a chunk was not finite, and of an ARMED one waits; SHSYNC completes when ENDN has reached its target or the shard has
faulted, and waits otherwise; SHDROP empties an IDLE or faulted shard and releases the slots held for it as orphans (R354, R355,
R358-R360, R363). -/
def Obligations.ShardCommandsAct : Prop :=
  ∀ (s : State) (c : QueueCmd) (i : Nat), s.head6 = some c → i = cmdShard c → Tbl.wf Shard.none s.marver.shards = true →
    (∀ d x, c.opc = 0x50 → c.regs.length = 2 → fld 63 16 (c.reg 0) = 0 → fld 63 32 (c.reg 1) = 0 → c.reg 1 % 128 = 0 →
      inLocal (c.reg 1) 128 = true → (s.shard i).state ∈ [.empty, .idle, .fault] → s.may 0x52 .loc false = true →
      s.mem.badIn (c.reg 1) 128 = none → d = BitVec.ofNat 1024 (ofLE (s.mem.mem.readBytes (c.reg 1) 128)) →
      x = { Shard.none with state := .idle, desc := d, ord := (s.shard i).ord
                            stepn := BitVec.ofNat 32 (d.toNat / 2 ^ 448 % 2 ^ 32) } →
      (x.valid = true → s.cidClash i x = false →
        ∃ u, exec .shdef s = .next u ∧ u.shard i = x ∧ (∀ j, j ≠ i → u.shard j = s.shard j) ∧ MvCompleted s u c ∧
          u.mem.mem = s.mem.mem ∧ u.rings = s.rings) ∧
      (x.valid = false ∨ s.cidClash i x = true →
        ∃ u, exec .shdef s = .next u ∧ QueueFaulted s u 6 c Code.badCommand ∧ u.marver = s.marver ∧
          u.mem.mem = s.mem.mem ∧ u.rings = s.rings)) ∧
    (c.opc = 0x51 → c.regs.length = 1 → fld 63 16 (c.reg 0) = 0 → (s.shard i).state = .idle → s.ringFits (s.shard i) = true →
      s.may 0x52 .loc true = true → Memory.wf s.mem.mem = true →
      ∃ u, exec .sharm s = .next u ∧
        u.shard i = { s.shard i with state := .armed, arr := 0, bad := false, pubSkip := 0#8 } ∧
        (∀ j, j ≠ i → u.shard j = s.shard j) ∧
        (∀ a, (s.shard i).scr ≤ a → a < (s.shard i).scr + (s.shard i).scrLen → u.mem.mem.read a = 0#8) ∧
        (∀ a, a < (s.shard i).scr ∨ (s.shard i).scr + (s.shard i).scrLen ≤ a → u.mem.mem.read a = s.mem.mem.read a) ∧
        MvCompleted s u c ∧ u.rings = s.rings) ∧
    (c.opc = 0x51 → c.regs.length = 1 → (s.shard i).state ≠ .idle ∨ s.ringFits (s.shard i) = false →
      ∃ u, exec .sharm s = .next u ∧ QueueFaulted s u 6 c Code.badCommand ∧ u.marver = s.marver ∧ u.mem = s.mem) ∧
    (c.opc = 0x52 → c.regs.length = 1 → fld 63 17 (c.reg 0) = 0 →
      ((s.shard i).state = .ready → bit 16 (c.reg 0) = false →
        ((s.shard i).bad = false →
          ∃ u, exec .shgo s = .next u ∧ u.shard i = { s.shard i with state := .stats } ∧
            (∀ j, j ≠ i → u.shard j = s.shard j) ∧ MvCompleted s u c ∧ u.mem = s.mem) ∧
        ((s.shard i).bad = true →
          ∃ u, exec .shgo s = .next u ∧ u.shard i = { s.shard i with state := .idle, endn := (s.shard i).endn + 1#32 } ∧
            u.marver.stat.getLsbD 4 = true ∧ (s.gaffer.eventCount < Config.eventDepth →
              ∃ e, u.gaffer.outq = s.gaffer.outq ++ [.event e] ∧ e.code = Code.nonfiniteSeen) ∧
            (∀ j, j ≠ i → u.shard j = s.shard j) ∧ MvCompleted s u c ∧ u.mem = s.mem)) ∧
      ((s.shard i).state = .ready → bit 16 (c.reg 0) = true →
        ∃ u, exec .shgo s = .next u ∧ u.shard i = { s.shard i with state := .idle, endn := (s.shard i).endn + 1#32 } ∧
          (∀ j, j ≠ i → u.shard j = s.shard j) ∧ MvCompleted s u c ∧ u.mem = s.mem) ∧
      ((s.shard i).state = .armed →
        ∃ u, exec .shgo s = .next u ∧
          u.marver = { s.marver with wait := some (.shgo i (bit 16 (c.reg 0)) (some c.seq)) } ∧
          u.core = (s.take 6 c).core ∧ u.mem = s.mem)) ∧
    (c.opc = 0x53 → c.regs.length = 1 → fld 31 16 (c.reg 0) = 0 → (s.shard i).state ≠ .empty →
      (((s.shard i).state = .fault ∨ 0 ≤ ((s.shard i).endn - BitVec.ofNat 32 (fld 63 32 (c.reg 0))).toInt) →
        ∃ u, exec .shsync s = .next u ∧ u.marver = s.marver ∧ MvCompleted s u c ∧ u.mem = s.mem) ∧
      ((s.shard i).state ≠ .fault → ((s.shard i).endn - BitVec.ofNat 32 (fld 63 32 (c.reg 0))).toInt < 0 →
        ∃ u, exec .shsync s = .next u ∧
          u.marver = { s.marver with wait := some (.shsync i (BitVec.ofNat 32 (fld 63 32 (c.reg 0))) (some c.seq)) } ∧
          u.core = (s.take 6 c).core ∧ u.mem = s.mem)) ∧
    (c.opc = 0x54 → c.regs.length = 1 → fld 63 16 (c.reg 0) = 0 → (s.shard i).state ∈ [.idle, .fault] →
      ∃ u, exec .shdrop s = .next u ∧ u.shard i = { Shard.none with ord := (s.shard i).ord } ∧
        (∀ j, j ≠ i → u.shard j = s.shard j) ∧
        u.marver.slots = s.marver.slots.filter (fun p => s.slotShard p.1 p.2 != some i) ∧
        u.marver.orphan.toNat = min 0xFFFFFFFF (s.marver.orphan.toNat +
          (s.marver.slots.filter fun p => s.slotShard p.1 p.2 == some i).length) ∧
        MvCompleted s u c ∧ ((∀ p ∈ s.marver.slots, s.slotShard p.1 p.2 ≠ some i) → u.mem = s.mem ∧ u.rings = s.rings))

/-- Marver's work. A slot of no shard is released as an orphan; a chunk that its ARMED shard has is released as a duplicate; one of 32
elements that it lacks is staged and marked in the bitmap, and counted: the last one takes the shard to READY if it holds, else to
STATS, or skips the step after a chunk that was not finite. The statistics phase leads to UPDATE with a step size that is MV_LR without a
schedule and MV_LRMAX with one past its warm-up that has no period. A block of the update pass is counted, changes its record alone,
and the pass goes on; the last one, with no far write out, ends the step. A publication message leaves when its destination's credit
suffices, is skipped through an entry that cannot take it, and waits otherwise (R255, R361-R365, R368, R371-R373). -/
def Obligations.MarverWorks : Prop :=
  ∀ s : State, s.mvIdle = true → Tbl.wf Shard.none s.marver.shards = true → Memory.wf s.mem.mem = true →
    (∀ (far : FarReply) (t slot : Nat), s.mvNextSlot = some (t, slot) → s.slotShard t slot = none →
      ∃ u, exec (.marverSlot far) s = .next u ∧ u.marver.slots = s.marver.slots.erase (t, slot) ∧
        u.marver.orphan = satAdd s.marver.orphan 1 ∧ u.marver.stat.getLsbD 1 = true ∧ u.marver.shards = s.marver.shards ∧
        (∀ a, a < (s.ring t).slotAddr slot ∨ (s.ring t).slotAddr slot + (s.ring t).slotBytes ≤ a →
          u.mem.mem.read a = s.mem.mem.read a) ∧ u.core = s.core) ∧
    (∀ (far : FarReply) (t slot i k a g n : Nat) (x : Shard), s.mvNextSlot = some (t, slot) → s.slotShard t slot = some i →
      x = s.shard i → x.state = .armed → s.may 0x52 .loc false = true → s.may 0x52 .loc true = true → s.mem.bad = [] →
      s.marver.wait = none → a = (s.ring t).slotAddr slot → n = (s.ring t).slotBytes → k = s.mem.mem.readLE (a + 4) 2 - x.cid0 →
      ((s.mem.mem.readLE (x.scr + k / 8) 1).testBit (k % 8) = true →
        ∃ u, exec (.marverSlot far) s = .next u ∧ u.marver.slots = s.marver.slots.erase (t, slot) ∧
          u.marver.dup = satAdd s.marver.dup 1 ∧ u.marver.stat.getLsbD 2 = true ∧ u.marver.shards = s.marver.shards ∧
          u.core = s.core) ∧
      ((s.mem.mem.readLE (x.scr + k / 8) 1).testBit (k % 8) = false → x.fmask = 0 → (s.ring t).elem = 32 →
        32 * k + 32 ≤ x.elems → k < 8 * x.bitmapLen → 32 ≤ x.cols → x.cols % 32 = 0 → x.farOut = 0 →
        x.scr + x.scrLen ≤ 0x200000 → g = x.gst + 128 * k → g + 128 ≤ 0x200000 →
        (g + 128 ≤ x.scr ∨ x.scr + x.scrLen ≤ g) → (a + n ≤ x.scr ∨ x.scr + x.scrLen ≤ a) →
        (a + n ≤ g ∨ g + 128 ≤ a) →
        ∃ u, exec (.marverSlot far) s = .next u ∧ u.marver.slots = s.marver.slots.erase (t, slot) ∧
          u.marver.dup = s.marver.dup ∧ (u.shard i).arr = x.arr + 1 ∧
          (∀ j, j < 128 → u.mem.mem.read (g + j) = s.mem.mem.read (a + 64 + j)) ∧
          (u.mem.mem.readLE (x.scr + k / 8) 1).testBit (k % 8) = true ∧
          (∀ b, b < n → u.mem.mem.read (a + b) = 0#8) ∧
          (x.arr + 1 ≠ x.nchunk → (u.shard i).state = .armed ∧ (u.shard i).endn = x.endn) ∧
          (x.arr + 1 = x.nchunk → x.hold = true → (u.shard i).state = .ready ∧ (u.shard i).endn = x.endn) ∧
          (x.arr + 1 = x.nchunk → x.hold = false → (u.shard i).bad = false →
            (u.shard i).state = .stats ∧ (u.shard i).endn = x.endn) ∧
          (x.arr + 1 = x.nchunk → x.hold = false → (u.shard i).bad = true →
            (u.shard i).state = .idle ∧ (u.shard i).endn = x.endn + 1#32 ∧ u.marver.stat.getLsbD 4 = true) ∧
          ((u.shard i).bad = true ↔ x.bad = true ∨ fld 2 0 (s.mem.mem.readLE (a + 7) 1) ≠ 0) ∧
          (∀ j, j ≠ i → u.shard j = s.shard j) ∧ u.core = s.core)) ∧
    (∀ (far : FarReply) (i : Nat) (x : Shard), s.mvNextSlot = none →
      s.marver.shards.find? (fun p => p.2.state == .stats) = some (i, x) → s.mem.bad = [] →
      s.may 0x52 .loc false = true → s.may 0x52 .loc true = true →
      x.scr + x.scrLen ≤ 0x200000 → x.raddr + 4 * x.rows ≤ 0x200000 → x.caddr + 4 * x.cols ≤ 0x200000 →
      0 < x.rows → 0 < x.cols →
      ∃ u, exec (.marverStatistics far) s = .next u ∧ (u.shard i).state = .update ∧ (u.shard i).block = 0 ∧
        (u.shard i).rstat.length = x.rows ∧ (u.shard i).cstat.length = x.cols ∧
        (s.marver.mode = false → (u.shard i).lrsrc = s.marver.lr) ∧
        (s.marver.mode = true → s.marver.warm.toNat ≤ x.stepn.toNat → s.marver.period = 0#32 →
          (u.shard i).lrsrc = s.marver.lrmax) ∧
        (∀ b, ¬ (x.raddr ≤ b ∧ b < x.raddr + 4 * x.rows) → ¬ (x.caddr ≤ b ∧ b < x.caddr + 4 * x.cols) →
          u.mem.mem.read b = s.mem.mem.read b) ∧
        (∀ j, j ≠ i → u.shard j = s.shard j) ∧ u.core = s.core) ∧
    (∀ (far : FarReply) (i a : Nat) (x : Shard), s.mvNextSlot = none →
      s.marver.shards.any (fun p => p.2.state == .stats) = false →
      s.marver.shards.find? (fun p => s.mvReady p.1 p.2) = some (i, x) → s.mem.bad = [] → s.marver.wait = none →
      s.may 0x52 .loc false = true → s.may 0x52 .loc true = true → x.pub = false → x.fmask = 0 →
      a = x.wbase + x.block * x.recLen → a + x.recLen ≤ 0x200000 → x.gst + 128 * x.block + 128 ≤ 0x200000 →
      ∃ u, exec (.marverUpdateBlock far) s = .next u ∧ u.marver.blocks = s.marver.blocks + 1#64 ∧
        (u.shard i).block = x.block + 1 ∧
        (x.block + 1 < x.blocks → (u.shard i).state = .update ∧ (u.shard i).endn = x.endn) ∧
        (x.blocks ≤ x.block + 1 → x.farOut = 0 →
          (u.shard i).state = .idle ∧ (u.shard i).stepn = x.stepn + 1#32 ∧ (u.shard i).endn = x.endn + 1#32) ∧
        (∀ b, b < a ∨ a + x.recLen ≤ b → u.mem.mem.read b = s.mem.mem.read b) ∧
        (∀ j, j ≠ i → u.shard j = s.shard j) ∧ u.core = s.core) ∧
    (∀ (p : PubMsg) (k e n : Nat), s.marver.pubs = [p] → p.todo = [(k, e)] → e < 2048 → k < 8 →
      n = (p.payload.length / 16 + 4) / 4 → Memory.wf s.rings.credit = true →
      ((s.entryOf e).stale = false → (s.entryOf e).valid = true → (s.entryOf e).gather = false → s.rings.parkedOn e = 0 →
        n ≤ (s.entryOf e).credit →
        ∃ u d, exec .publicationSend s = .next u ∧ u.marver = { s.marver with pubs := [] } ∧
          u.sched.sends = s.sched.sends ++ [d] ∧ d.src = .bytes p.payload ∧ d.entry = e ∧ d.lane = Lane.bulk ∧ d.n = n ∧
          d.seq = none ∧
          d.w0 = headWord Lane.bulk Kind.data (s.entryOf e).epoch s.gaffer.domain.toNat (s.entryOf e).dtag
            (s.entryOf e).dlcid (s.entryOf e).dchip ∧
          u.sched.portNc = max (2 * s.beat) s.sched.portNc + n ∧
          u.entryOf e = { s.entryOf e with credit := (s.entryOf e).credit - n } ∧
          (∀ j, j ≠ e → j < 2048 → u.entryOf j = s.entryOf j) ∧
          u = { s with marver := u.marver, sched := u.sched, rings := u.rings }) ∧
      ((s.entryOf e).stale = true →
        ∃ u, exec .publicationSend s = .next u ∧ u.marver.pubs = [] ∧ u.sched = s.sched ∧
          u.marver.stat.getLsbD 6 = true ∧ (u.shard p.shard).pubSkip.getLsbD k = true ∧
          u.rings.stat.getLsbD 10 = true ∧ u.rings.staleValid = true ∧
          (s.rings.staleValid = false → u.rings.staleEntry = BitVec.ofNat 11 e) ∧ u.rings.credit = s.rings.credit ∧
          u.core = s.core ∧ u.mem = s.mem) ∧
      ((s.entryOf e).stale = false → (s.entryOf e).valid = false ∨ (s.entryOf e).gather = true →
        ∃ u, exec .publicationSend s = .next u ∧ u.marver.pubs = [] ∧ u.sched = s.sched ∧
          u.marver.stat.getLsbD 6 = true ∧ (u.shard p.shard).pubSkip.getLsbD k = true ∧ u.rings = s.rings ∧
          u.core = s.core ∧ u.mem = s.mem) ∧
      ((s.entryOf e).stale = false → (s.entryOf e).valid = true → (s.entryOf e).gather = false →
        (s.entryOf e).credit < n → exec .publicationSend s = .next s))

/-! Management. -/

/-- Packets. The port takes a packet while fewer than four wait; GO of an idle mailbox submits its request and sets BUSY. A packet of the
port that fails one of checks 1-6 is answered with the code of the first and changes nothing else; IDENTIFY answers with its eight
words, STEP_PARAMS sets Marver's step registers, FENCE in RUN leaves the tier FENCED or FENCED_OFF with CAUSE 1; a memory access waits
for the end of a freeze. The oldest reply or event leaves first, an event with the count of lost ones, which starts anew (R19, R400,
R432-R437, R443, R447, R457, R464). -/
def Obligations.ManagementAnswers : Prop :=
  ∀ s : State, s.pins.alive = true →
    (∀ bytes : List Byte,
      ((s.gaffer.inq.filter fun p => p.input == .port).length < 4 →
        exec (.managementPacket bytes) s = .next { s with gaffer := { s.gaffer with
          inq := s.gaffer.inq ++ [{ input := .port, bytes := bytes }] } }) ∧
      (4 ≤ (s.gaffer.inq.filter fun p => p.input == .port).length → exec (.managementPacket bytes) s = .next s)) ∧
    (∀ m : Master, fld 19 16 (s.entry m.toNat) ≠ 0 →
      (s.gaffer.mbBusy = false →
        ∃ u, exec (.mailboxGo m) s = .next u ∧ Answered u m 0 ∧
          u = { s with resp := u.resp, gaffer := { s.gaffer with
            mbBusy := true, inq := s.gaffer.inq ++ [{ input := .mailbox m, bytes := s.gaffer.mailboxPacket }] } }) ∧
      (s.gaffer.mbBusy = true →
        ∃ u, exec (.mailboxGo m) s = .next u ∧ Answered u m 0 ∧ u = { s with resp := u.resp })) ∧
    (∀ (bytes : List Byte) (p : Packet), s.gaffer.inq = [{ input := .port, bytes := bytes }] → 3 ≤ s.gaffer.step.toNat →
      p = packetOf { input := .port, bytes := bytes } →
      PacketIs bytes p ∧
      (s.journal.freeze = true → (p.opc = 0x14 ∨ p.opc = 0x15) → exec .gafferRound s = .next s) ∧
      ((s.journal.freeze = false ∨ (p.opc ≠ 0x14 ∧ p.opc ≠ 0x15)) →
        (∀ code, PacketVerdict s bytes p code → code ≠ 0x0000#16 →
          ∃ u, exec .gafferRound s = .next u ∧ Replied s u p code [] ∧
            u = { s with gaffer := { s.gaffer with inq := [], outq := u.gaffer.outq } }) ∧
        (PacketVerdict s bytes p 0x0000#16 →
          (p.opc = 0x01 →
            ∃ u, exec .gafferRound s = .next u ∧ Replied s u p 0x0000#16
                [kfeat0, kfeat1, kfeat2, s.kfeat3, s.router.posWord.toNat, s.kcrTier, s.kcrMould, s.jnRstat] ∧
              u = { s with gaffer := { s.gaffer with inq := [], outq := u.gaffer.outq } }) ∧
          (p.opc = 0x10 → s.gaffer.started = true →
            ∃ u, exec .gafferRound s = .next u ∧ Replied s u p 0x0000#16 [] ∧
              (((p.w 0).testBit 0 = true → u.marver.lr.toNat = p.w 1) ∧
                ((p.w 0).testBit 0 = false → u.marver.lr = s.marver.lr)) ∧
              ((p.w 0).testBit 1 = true → u.marver.mode = (p.w 0).testBit 2 ∧ u.marver.lrmax.toNat = p.w 2 ∧
                u.marver.lrmin.toNat = p.w 3 ∧ u.marver.warm.toNat = p.w 4 ∧ u.marver.period.toNat = p.w 5) ∧
              u.marver = { s.marver with
                lr := u.marver.lr
                mode := if (p.w 0).testBit 1 then u.marver.mode else s.marver.mode
                lrmax := if (p.w 0).testBit 1 then u.marver.lrmax else s.marver.lrmax
                lrmin := if (p.w 0).testBit 1 then u.marver.lrmin else s.marver.lrmin
                warm := if (p.w 0).testBit 1 then u.marver.warm else s.marver.warm
                period := if (p.w 0).testBit 1 then u.marver.period else s.marver.period } ∧
              u = { s with marver := u.marver, gaffer := { s.gaffer with inq := [], outq := u.gaffer.outq } }) ∧
          (p.opc = 0x07 → s.gaffer.action = none → s.tier.state = .run →
            ∃ u, exec .gafferRound s = .next u ∧
              LeftRun s u (if (p.w 0).testBit 0 then .fencedOff else .fenced) 1#8 ∧ u.gaffer.inq = [] ∧
              ∃ b, u.gaffer.outq.getLast? = some (.reply b false) ∧
                ReplyIs b p.reply false 0x0000#16 [if (p.w 0).testBit 0 then 0x104 else 0x103])))) ∧
    (∀ (bytes : List Byte) (reset : Bool) (rest : List OutPacket), s.gaffer.outq = .reply bytes reset :: rest →
      exec .outboundPacket s = .next { s with gaffer := { s.gaffer with
        outq := rest, sent := bytes, resetGo := s.gaffer.resetGo || reset } }) ∧
    (∀ (e : Event) (rest : List OutPacket), s.gaffer.outq = .event e :: rest →
      ∃ u, exec .outboundPacket s = .next u ∧
        u = { s with gaffer := { s.gaffer with outq := rest, lost := 0#16, sent := u.gaffer.sent } } ∧
        leAt u.gaffer.sent 1 1 = 0x80 ∧ leAt u.gaffer.sent 4 1 = 1 ∧ leAt u.gaffer.sent 8 2 = e.code.toNat ∧
        leAt u.gaffer.sent 16 1 = e.source.toNat ∧ leAt u.gaffer.sent 18 2 = s.gaffer.lost.toNat ∧
        leAt u.gaffer.sent 20 8 = e.lc.toNat) ∧
    (s.gaffer.outq = [] → exec .outboundPacket s = .next s)

/-- Actions that outlast their round. An image of LOAD_FW that R444 admits is kept with its version, any other refused; an image of
LAUNCH_AT is copied, its barrier entries written and its LAUNCH entry armed, or nothing is armed; a RESET_CLUSTER resets once its reply
has crossed or 1 ms has passed, keeping MRAM, SEL and OVR; a mould image that is valid is stored when power is stable, and waits 10 ms at
most; a store of a kiln record or a mould that ends well leaves its bytes in MRAM and every other byte, a torn record fails its CRC
(R280, R427-R429, R439, R442-R444, R451, R454-R456). -/
def Obligations.ActionsEnd : Prop :=
  ∀ s : State, s.pins.alive = true →
    (∀ (far : FarReply) (r : ReplyTo) (src : DWord) (len : Nat) (b : List Byte),
      s.gaffer.action = some (.loadFw r src len) → isSys src.toNat = true → b = replyBytes far (sysBits src.toNat) len →
      ∃ u, exec (.fwImageLoaded far) s = .next u ∧ u.gaffer.action = none ∧ u.core = s.core ∧ u.mem = s.mem ∧
        (FarGood far (sysBits src.toNat) len → FirmwareWhole b len →
          leAt b 4 4 / 2 ^ 28 = 2 → leAt b 4 4 / 2 ^ 24 % 16 = 0 →
          u.gaffer.image = some (BitVec.ofNat 32 (leAt b 4 4)) ∧ FinalReply s u r 0x0000#16 [leAt b 4 4]) ∧
        (FarGood far (sysBits src.toNat) len → FirmwareWhole b len →
          (leAt b 4 4 / 2 ^ 28 ≠ 2 ∨ leAt b 4 4 / 2 ^ 24 % 16 ≠ 0) →
          u.gaffer.image = s.gaffer.image ∧ FinalReply s u r 0x0106#16 []) ∧
        (FarGood far (sysBits src.toNat) len → ¬ FirmwareWhole b len →
          u.gaffer.image = s.gaffer.image ∧ FinalReply s u r 0x0102#16 []) ∧
        (¬ FarGood far (sysBits src.toNat) len → u.gaffer.image = s.gaffer.image)) ∧
    (∀ (far : FarReply) (r : ReplyTo) (target src : DWord) (entry len a : Nat) (det : Bool)
        (bars : List (Word × Word × Word)),
      s.gaffer.action = some (.launchAt r target entry det src len bars) → (0 < len → isSys src.toNat = true) →
      a ≤ 8 → (∀ j, j < a → (Vec.at s.lehr.acts j).armed = true) → (a < 8 → (Vec.at s.lehr.acts a).armed = false) →
      ∃ u, exec (.launchImageCopied far) s = .next u ∧ u.gaffer.action = none ∧ u.core.tasks = s.core.tasks ∧ u.mem = s.mem ∧
        ((0 < len → FarGood far (sysBits src.toNat) len) →
          u.core.imem = s.core.imem.writeBytes 0 (replyBytes far (sysBits src.toNat) len)) ∧
        ((0 < len → FarGood far (sysBits src.toNat) len) → a < 8 → s.lehr.synced = true → s.lehr.lc.toNat < target.toNat →
          (Vec.at u.lehr.acts a).armed = true ∧ (Vec.at u.lehr.acts a).kind = 1#4 ∧ (Vec.at u.lehr.acts a).target = target ∧
          (Vec.at u.lehr.acts a).arg = BitVec.ofNat 32 entry ∧ u.tier.detNext = det ∧
          (∀ j, j ≠ a → Vec.at u.lehr.acts j = Vec.at s.lehr.acts j) ∧
          ((bars.map fun e => e.1.toNat % 16).Nodup → ∀ e ∈ bars, e.1.toNat % 16 < 14 →
            (Vec.at u.lehr.bars (e.1.toNat % 16)).margin.toNat = e.1.toNat / 65536 ∧
            (Vec.at u.lehr.bars (e.1.toNat % 16)).rootLcid.toNat = e.2.1.toNat / 4096 % 2048 ∧
            (Vec.at u.lehr.bars (e.1.toNat % 16)).rootChip.toNat = e.2.1.toNat % 4096 ∧
            (Vec.at u.lehr.bars (e.1.toNat % 16)).expect.toNat = e.2.2.toNat % 2 ^ 24) ∧
          (∀ k, k < 14 → (∀ e ∈ bars, e.1.toNat % 16 ≠ k) → Vec.at u.lehr.bars k = Vec.at s.lehr.bars k) ∧
          FinalReply s u r 0x0000#16 []) ∧
        (((0 < len ∧ ¬ FarGood far (sysBits src.toNat) len) ∨ a = 8 ∨ s.lehr.synced = false ∨
            target.toNat ≤ s.lehr.lc.toNat) →
          u.lehr = s.lehr ∧ u.tier = s.tier)) ∧
    (∀ t0 : Nat, s.gaffer.resetAt = some t0 → s.gaffer.storing = false →
      ((s.gaffer.resetGo = true ∨ t0 + 1700000 ≤ s.nc) →
        ∃ u, exec .clusterReset s = .next u ∧ u.tier.state = .off ∧ u.gaffer.step = 6#4 ∧ u.gaffer.sel = s.gaffer.sel ∧
          u.gaffer.ovr = s.gaffer.ovr ∧ u.gaffer.pins = s.gaffer.pins ∧ u.gaffer.mram = s.gaffer.mram ∧ u.gaffer.outq = [] ∧
          u.gaffer.inq = [] ∧ u.core.running = false ∧ u.mem.mem = [] ∧ u.rings.store = [] ∧ u.lehr.synced = false ∧
          u.nc = s.nc ∧ u.pins = s.pins ∧ u.pending = s.pending) ∧
      (s.gaffer.resetGo = false → s.nc < t0 + 1700000 → exec .clusterReset s = .next s)) ∧
    (∀ (far : FarReply) (r : ReplyTo) (m : BitVec 2) (src : DWord) (b : List Byte),
      s.gaffer.mouldAct = some (.read r m src) → isSys src.toNat = true → b = replyBytes far (sysBits src.toNat) 8192 →
      ∃ u, exec (.mouldImageRead far) s = .next u ∧ u.gaffer.mram = s.gaffer.mram ∧ u.core = s.core ∧ u.mem = s.mem ∧
        (¬ FarGood far (sysBits src.toNat) 8192 → u.gaffer.mouldAct = none) ∧
        (FarGood far (sysBits src.toNat) 8192 → mouldValid b = false →
          u.gaffer.mouldAct = none ∧ FinalReply s u r 0x0102#16 []) ∧
        (FarGood far (sysBits src.toNat) 8192 → mouldValid b = true →
          u.gaffer.mouldAct = (if s.pins.pwrStable && !s.gaffer.kilnBusy then some (.store r m b)
            else some (.wait r m b s.nc)) ∧ u.gaffer.outq = s.gaffer.outq)) ∧
    (∀ (r : ReplyTo) (m : BitVec 2) (image : List Byte) (since : Nat), s.gaffer.mouldAct = some (.wait r m image since) →
      (s.nc < since + 17000000 → exec .mouldStoreWaitTimeout s = .next s) ∧
      (since + 17000000 ≤ s.nc →
        ∃ u, exec .mouldStoreWaitTimeout s = .next u ∧ u.gaffer.mouldAct = none ∧ FinalReply s u r 0x0105#16 [] ∧
          u.gaffer.mram = s.gaffer.mram ∧ u.core = s.core ∧ u.mem = s.mem)) ∧
    (∀ (rec : List Byte) (rest : List (List Byte)) (slot : Nat), s.gaffer.kilnBusy = true → s.gaffer.kiln = rec :: rest →
      s.pins.resetPending = false → rec.length = 64 → slot = 0x20000 + 64 * (leAt rec 0 4 % 2048) →
      ∀ torn : Bool,
        ∃ u, exec (.mramStoreComplete torn) s = .next u ∧ u.gaffer.kilnBusy = false ∧ u.gaffer.kiln = rest ∧
          u.gaffer.kseq = BitVec.ofNat 32 (leAt rec 0 4) ∧
          (torn = false → s.gaffer.storeLost = false → Memory.wf s.gaffer.mram = true →
            ∀ j, j < 64 → u.gaffer.mram.read (slot + j) = rec.getD j 0#8) ∧
          (torn = true ∨ s.gaffer.storeLost = true → u.gaffer.kilnGood (leAt rec 0 4) = false) ∧
          (Memory.wf s.gaffer.mram = true →
            ∀ a, a < slot ∨ slot + 64 ≤ a → u.gaffer.mram.read a = s.gaffer.mram.read a) ∧ u.core = s.core ∧ u.mem = s.mem) ∧
    (∀ (r : ReplyTo) (m : BitVec 2) (image : List Byte), s.gaffer.kilnBusy = false →
      s.gaffer.mouldAct = some (.store r m image) → s.pins.resetPending = false → image.length = 8192 →
      Memory.wf s.gaffer.mram = true →
      ∀ torn : Bool,
        ∃ u, exec (.mramStoreComplete torn) s = .next u ∧ u.gaffer.mouldAct = none ∧
          (torn = false → s.gaffer.storeLost = false →
            ∃ b, b = u.gaffer.mram.readBytes (0x2000 * m.toNat) 8192 ∧ b.take 4 = image.take 4 ∧
              leAt b 4 4 = (leAt (s.gaffer.mram.readBytes (0x2000 * m.toNat) 8192) 4 4 + 1) % 2 ^ 32 ∧
              (b.drop 8).take 8180 = (image.drop 8).take 8180 ∧ leAt b 8188 4 = (crc32c (b.take 8188)).toNat ∧
              u.gaffer.tornMould.getLsbD m.toNat = false ∧ FinalReply s u r 0x0000#16 [leAt b 4 4]) ∧
          (torn = true ∨ s.gaffer.storeLost = true →
            u.gaffer.validMould m.toNat = false ∧ FinalReply s u r 0x0107#16 []) ∧
          (∀ a, a < 0x2000 * m.toNat ∨ 0x2000 * m.toNat + 0x2000 ≤ a → u.gaffer.mram.read a = s.gaffer.mram.read a) ∧
          u.core = s.core ∧ u.mem = s.mem) ∧
    (s.pins.pwrStable = true → s.gaffer.storing = false → s.gaffer.mouldWaiting = false → s.gaffer.kiln ≠ [] →
      s.pins.resetPending = false →
      exec .kilnRecordStore s = .next { s with gaffer := { s.gaffer with kilnBusy := true, storeLost := false } }) ∧
    ((s.pins.pwrStable = false ∨ s.gaffer.storing = true ∨ s.gaffer.kiln = []) → exec .kilnRecordStore s = .next s)

/-! The compute tier, reset and pins. -/

/-- The tier: 66 microseconds after STARTING VCT_ON rises; power good and a trained interface lead from STARTING to RUN with every task
FREE; 100 microseconds without them to FENCED_OFF with CAUSE 3, and an ANNEAL to FENCED_OFF with CAUSE 2 or 3, 2 when it has reached
neither (the model's choice, log 110). In RUN the loss of power good fences with CAUSE 2, and an interface error or timeout with CAUSE 3;
in ANNEAL they end in FENCED_OFF what stood. ANNEAL ends in RUN, or in FENCED_OFF with CAUSE 4 when its self-test fails. Discovery ends
start-up with the READY event (R18-R20, R330, R426, R446, R456, R473; 66 microseconds are the 50 and 16 of R473). -/
def Obligations.TierChangesState : Prop :=
  ∀ s : State, s.pins.alive = true →
    (s.tier.state = .starting → s.tier.vctOn = false →
      (s.tier.sinceNc + 112200 ≤ s.nc →
        exec .switchClose s = .next { s with tier := { s.tier with vctOn := true, trained := false } }) ∧
      (s.nc < s.tier.sinceNc + 112200 → exec .switchClose s = .next s)) ∧
    (∀ trained : Bool, s.tier.state = .starting → s.tier.vctOn = true →
      ((if trained then s.tier.powerGood else s.tier.trained) = true →
        ∃ u, exec (.computeTierPowerGood trained) s = .next u ∧ EnteredRun s u ∧ u.gaffer.step = 9#4) ∧
      ((if trained then s.tier.powerGood else s.tier.trained) = false →
        exec (.computeTierPowerGood trained) s = .next { s with tier := { s.tier with
          powerGood := s.tier.powerGood || !trained, trained := s.tier.trained || trained } })) ∧
    (s.tier.sinceNc + 170000 ≤ s.nc →
      (s.tier.state = .starting →
        ∃ u, exec .tierStartTimeout s = .next u ∧ u.tier.state = .fencedOff ∧ u.tier.cause = 3#8 ∧ u.tier.vctOn = false ∧
          u.gaffer.step = 9#4 ∧ u.mem = s.mem ∧ u.core = s.core) ∧
      (s.tier.state = .anneal → ∀ cause : Byte,
        (s.tier.powerGood = false ∧ cause = 2#8) ∨ (s.tier.powerGood = true ∧ s.tier.trained = false ∧ cause = 3#8) →
        ∃ u, exec .tierStartTimeout s = .next u ∧ u.tier.state = .fencedOff ∧ u.tier.cause = cause ∧ u.tier.vctOn = false ∧
          u.gaffer.action = (match s.gaffer.action with
            | some (.anneal _) => none
            | a => a) ∧ u.mem = s.mem ∧ u.core = s.core)) ∧
    (s.nc < s.tier.sinceNc + 170000 → exec .tierStartTimeout s = .next s) ∧
    (s.tier.state = .run →
      (∃ u, exec .powerGoodLoss s = .next u ∧ LeftRun s u .fenced 2#8 ∧ u.tier.powerGood = false) ∧
      (∃ u, exec .tierInterfaceError s = .next u ∧ LeftRun s u .fenced 3#8 ∧ u.tier.trained = false) ∧
      (∃ u, exec .tierInterfaceTimeout s = .next u ∧ LeftRun s u .fenced 3#8 ∧ u.tier.trained = false)) ∧
    (s.tier.state = .anneal →
      (s.tier.powerGood = true →
        ∃ u, exec .powerGoodLoss s = .next u ∧ u.tier.state = .fencedOff ∧ u.tier.cause = 2#8 ∧ u.tier.vctOn = false ∧
          u.mem = s.mem ∧ u.core = s.core) ∧
      (s.tier.trained = true →
        (∃ u, exec .tierInterfaceError s = .next u ∧ u.tier.state = .fencedOff ∧ u.tier.cause = 3#8 ∧ u.mem = s.mem ∧
          u.core = s.core) ∧
        ∃ u, exec .tierInterfaceTimeout s = .next u ∧ u.tier.state = .fencedOff ∧ u.tier.cause = 3#8 ∧ u.mem = s.mem ∧
          u.core = s.core) ∧
      (s.tier.powerGood = true → s.tier.trained = true →
        ∃ u, exec (.annealSelfTestComplete true) s = .next u ∧ EnteredRun s u) ∧
      ((s.tier.powerGood = false ∨ s.tier.trained = false) → exec (.annealSelfTestComplete true) s = .next s) ∧
      (∃ u, exec (.annealSelfTestComplete false) s = .next u ∧ u.tier.state = .fencedOff ∧ u.tier.cause = 4#8 ∧
        u.tier.vctOn = false ∧ u.mem = s.mem ∧ u.core = s.core)) ∧
    (s.tier.state ≠ .run → s.tier.state ≠ .anneal →
      exec .powerGoodLoss s = .next { s with tier := { s.tier with powerGood := false } } ∧
      exec .tierInterfaceError s = .next { s with tier := { s.tier with trained := false } } ∧
      exec .tierInterfaceTimeout s = .next { s with tier := { s.tier with trained := false } }) ∧
    (s.gaffer.step = 9#4 → s.gaffer.started = true →
      ((s.router.ports.toList.all Port.settled = true ∨
          (if s.tier.skipped then s.gaffer.startedNc else s.gaffer.runNc) + 170000 ≤ s.nc) →
        ∃ u, exec .discoveryComplete s = .next u ∧ u.gaffer.step = 10#4 ∧
          (s.gaffer.eventCount < Config.eventDepth → ∃ e, u.gaffer.outq = s.gaffer.outq ++ [.event e] ∧ e.code = 0x0000#16 ∧
            e.source = 0#8 ∧ e.detail = [0x0A#32]) ∧ u = { s with gaffer := u.gaffer }) ∧
      (s.router.ports.toList.all Port.settled = false →
        s.nc < (if s.tier.skipped then s.gaffer.startedNc else s.gaffer.runNc) + 170000 →
        exec .discoveryComplete s = .next s))

/-- Reset and pins. RST_N low brings every unit to its reset value and keeps MRAM, or waits for a running store; its release latches the
straps, loads the mould they select and leads to step 6, at once after a store that outlasted it (log 114); a passed self-test zeroes
local memory, the ring store with the credit table and the context store and leads to step 7, a failed one sets FAIL. A fall of
PWR_STABLE loses a running store. TEST_MODE clears SYNCED and the samples and leaves LC; a scan shift keeps MRAM and the pins. A failed
base tier answers nothing until a reset wakes it (log 112). The IEEE 1687 network writes the repair area alone (R24, R206, R242, R273,
R277, R452-R456, R462, R468, R472, R475; what a scan shift keeps is the model's choice of log 62). -/
def Obligations.ResetAndPins : Prop :=
  ∀ s : State,
    (s.pins.dead = false → s.pins.resetHeld = false →
      (s.gaffer.storing = false →
        ∃ u, exec .resetAssert s = .next u ∧ u.pins.resetHeld = true ∧ u.pins.resetPending = false ∧ u.tier.state = .off ∧
          u.core.running = false ∧ u.lehr.synced = false ∧ u.mem.mem = [] ∧ u.rings.store = [] ∧
          u.gaffer.mram = s.gaffer.mram ∧ u.gaffer.step = 2#4 ∧ u.pending = s.pending) ∧
      (s.gaffer.storing = true →
        exec .resetAssert s = .next { s with pins := { s.pins with resetPending := true, release := none } })) ∧
    (s.pins.dead = false → s.pins.resetHeld = true → exec .resetAssert s = .next s) ∧
    (s.pins.dead = true →
      ∃ u, exec .resetAssert s = .next u ∧ u.pins.dead = false ∧ u.pins.resetHeld = true ∧ u.tier.state = .off ∧
        u.core.running = false ∧ u.gaffer.step = 2#4 ∧ (s.gaffer.storing = false → u.gaffer.mram = s.gaffer.mram) ∧
        u.pending = s.pending) ∧
    (∀ straps : Straps, s.pins.dead = false →
      (s.pins.resetPending = false → (s.pins.resetHeld = true ∨ s.gaffer.step = 2#4) →
        ∃ u, exec (.resetRelease straps) s = .next u ∧ u.pins.alive = true ∧ u.gaffer.step = 6#4 ∧
          u.router.chip = straps.chipId ∧ u.router.pid = straps.row ++ straps.col ∧ u.router.edge = straps.edge ∧
          u.gaffer.pins = straps.mouldSel ∧ u.gaffer.sel = straps.mouldSel ∧ u.gaffer.ovr = false ∧
          u.gaffer.torn = !s.gaffer.validMould straps.mouldSel.toNat ∧ u.tier.state = .off ∧
          u.gaffer.mram = s.gaffer.mram ∧ u.pending = s.pending) ∧
      (s.pins.resetPending = true →
        exec (.resetRelease straps) s = .next { s with pins := { s.pins with release := some straps } }) ∧
      (s.pins.resetPending = false → s.pins.resetHeld = false → s.gaffer.step ≠ 2#4 →
        exec (.resetRelease straps) s = .next s)) ∧
    (s.pins.dead = false → s.gaffer.storing = true → s.pins.resetPending = true → ∀ torn : Bool,
      ∃ u, exec (.mramStoreComplete torn) s = .next u ∧ u.pins.resetPending = false ∧ u.tier.state = .off ∧
        u.core.running = false ∧ (s.pins.release = none → u.pins.resetHeld = true ∧ u.gaffer.step = 2#4) ∧
        (∀ straps, s.pins.release = some straps →
          u.pins.alive = true ∧ u.gaffer.step = 6#4 ∧ u.router.chip = straps.chipId ∧ u.gaffer.sel = straps.mouldSel)) ∧
    (s.pins.alive = true → s.gaffer.step = 6#4 → s.gaffer.fail = false →
      (∃ u, exec (.bistComplete true) s = .next u ∧ u.mem.mem = [] ∧ u.mem.bad = [] ∧ u.mem.single = [] ∧
        u.rings.store = [] ∧ u.rings.credit = [] ∧ u.se.ctxs = [] ∧ u.se.seqTable = [] ∧ u.gaffer.mram = s.gaffer.mram ∧
        u.core = s.core ∧ u.router = s.router ∧
        (s.gaffer.started = false → u.gaffer.step = 7#4 ∧ u.gaffer.image = none ∧ u.tier = s.tier) ∧
        (s.gaffer.started = true → s.tier.state = .off → u.gaffer.step = 8#4 ∧ u.tier.state = .starting)) ∧
      (∃ u, exec (.bistComplete false) s = .next u ∧ u.gaffer.fail = true ∧ u.gaffer.step = 6#4 ∧ u.mem = s.mem ∧
        u.tier = s.tier ∧ u.core = s.core)) ∧
    (∀ level : Bool, ∃ u, exec (.pwrStableChange level) s = .next u ∧ u.pins = { s.pins with pwrStable := level } ∧
      (level = false → u.gaffer.storeLost = (s.gaffer.storeLost || s.gaffer.storing) ∧
        u.gaffer.mouldAct = s.gaffer.mouldAct) ∧
      (∀ r m image since, level = true → s.pins.alive = true → s.gaffer.mouldAct = some (.wait r m image since) →
        u.gaffer.mouldAct = if s.gaffer.kilnBusy then some (.wait r m image since) else some (.store r m image)) ∧
      u.gaffer.mram = s.gaffer.mram ∧ u.core = s.core ∧ u.mem = s.mem) ∧
    (∀ level : Bool, exec (.testModeChange level) s = .next { s with
      pins := { s.pins with testMode := level }
      lehr := { s.lehr with synced := s.lehr.synced && !level, watch := s.lehr.watch && !level, samples := 0 } }) ∧
    (s.pins.testMode = true → ∃ u, exec .scanShift s = .next u ∧ u.pins = s.pins ∧ u.pending = s.pending ∧
      u.gaffer.mram = s.gaffer.mram) ∧
    (s.pins.testMode = false → exec .scanShift s = .next s) ∧
    (∃ u, exec .baseTierFailure s = .next u ∧ u = { s with pins := { s.pins with dead := true } } ∧
      (∀ m addr value, exec (.registerWrite m addr value) u = .next u) ∧ exec .gafferRound u = .next u ∧
      (∀ src, exec (.routerForward src) u = .next u) ∧ exec .journalWrite u = .next u) ∧
    (exec (.testAccessPort .boundaryScan) s = .next s) ∧ (exec (.testAccessPort .memorySelfTest) s = .next s) ∧
    (∀ offset value, ∃ u, exec (.testAccessPort (.repairWrite offset value)) s = .next u ∧
      (Memory.wf s.gaffer.mram = true → u.gaffer.mram.read (0x8000 + offset.toNat) = value ∧
        ∀ a, a ≠ 0x8000 + offset.toNat → u.gaffer.mram.read a = s.gaffer.mram.read a) ∧
      u = { s with gaffer := { s.gaffer with mram := u.gaffer.mram } })

/-! Accesses of masters. -/

/-- Accesses by right. One that the window, its size, the access table or the structure refuses answers ACCESS_DENIED and changes
nothing; one that a freeze holds is not performed yet; a performed one answers OK with its data, a read of an uncorrectable word
ECC_UNCORRECTED. Writes by access code: RW, RO, RW1C, whose bits set in the present N-cycle stay; a read of an RC field returns and
clears it; a read of a lower word latches the upper one for its master, which the next read of the upper word returns; a lower word waits
for its upper word and both take effect together (R8-R10, R140, R172, R174, R204, R377, R390, R400, R401, R430, R431, R449,
R479-R481). -/
def Obligations.AccessesAnswer : Prop :=
  ∀ (s : State) (m : Master), s.pins.alive = true →
    (∀ addr value : Word, ¬ Held s m.toNat addr.toNat → ¬ Permitted s m.toNat addr.toNat 4 true →
      exec (.registerWrite m addr value) s =
        .next { s with resp := { master := m, status := Code.accessDenied, data := 0#64 } }) ∧
    (∀ (addr data : DWord) (size : Nat) (write : Bool), ¬ Held s m.toNat addr.toNat →
      ¬ Permitted s m.toNat addr.toNat size write →
      exec (.externalMasterAccess m write addr size data) s =
        .next { s with resp := { master := m, status := Code.accessDenied, data := 0#64 } }) ∧
    (∀ (addr data : DWord) (size : Nat) (write : Bool), Held s m.toNat addr.toNat →
      exec (.externalMasterAccess m write addr size data) s = .next s) ∧
    (∀ (addr data : DWord) (size : Nat), ¬ Held s m.toNat addr.toNat → addr.toNat < 0x200000 →
      (Permitted s m.toNat addr.toNat size true →
        ∃ u, exec (.externalMasterAccess m true addr size data) s = .next u ∧ Answered u m 0 ∧
          u.mem.mem = s.mem.mem.writeLE addr.toNat size data.toNat ∧
          u = { s with mem := u.mem, resp := u.resp, journal := { s.journal with
            dirty0 := u.journal.dirty0, dirty1 := u.journal.dirty1 } } ∧
          (∀ k, k < 512 → u.journal.dirty0.getLsbD k = (s.journal.dirty0.getLsbD k || decide (k = addr.toNat / 4096)) ∧
            u.journal.dirty1.getLsbD k = (s.journal.dirty1.getLsbD k || decide (k = addr.toNat / 4096)))) ∧
      (Permitted s m.toNat addr.toNat size false →
        ((∀ w ∈ s.mem.bad, w ≠ addr.toNat / 8) →
          ∃ u, exec (.externalMasterAccess m false addr size data) s = .next u ∧
            Answered u m (s.mem.mem.readLE addr.toNat size) ∧ u.mem.mem = s.mem.mem ∧
            u = { s with mem := { s.mem with eccCount := u.mem.eccCount }, resp := u.resp }) ∧
        (addr.toNat / 8 ∈ s.mem.bad →
          ∃ u, exec (.externalMasterAccess m false addr size data) s = .next u ∧ u.resp.status = 0x0503#16 ∧
            u.mem.eccValid = true ∧
            (s.mem.eccValid = false → u.mem.eccAddr.toNat = addr.toNat / 8 * 8) ∧ u.mem.mem = s.mem.mem ∧
            u.core = s.core))) ∧
    (∀ value : Word,
      (RegOpen s m 8 0x008 true →
        exec (.registerWrite m (regAddr 8 0x008) value) s = .next { s with
          marver := { s.marver with lr := value }, resp := { master := m, status := Code.ok, data := 0#64 } }) ∧
      (RegOpen s m 0 0x010 true →
        exec (.registerWrite m (regAddr 0 0x010) value) s =
          .next { s with resp := { master := m, status := Code.ok, data := 0#64 } }) ∧
      (RegOpen s m 8 0x000 true →
        ∃ u, exec (.registerWrite m (regAddr 8 0x000) value) s = .next u ∧ Answered u m 0 ∧
          (∀ i, 1 ≤ i → i < 7 → u.marver.stat.getLsbD i =
            (s.marver.stat.getLsbD i && (!value.getLsbD i || decide ((0x8000, i) ∈ s.raised)))) ∧
          u = { s with marver := { s.marver with stat := u.marver.stat }, resp := u.resp })) ∧
    (RegOpen s m 9 0x020 false →
      ∃ u, exec (.readClear m (regAddr 9 0x020)) s = .next u ∧ Answered u m s.router.noroute.toNat ∧
        u = { s with router := { s.router with noroute := 0#32 }, resp := u.resp }) ∧
    (∀ (blk o : Nat) (v : DWord), RegOpen s m blk o false → o + 4 < 0x1000 → s.reg64 blk o = some v →
      s.reg64 blk (o + 4) = none →
      ∃ u w, exec (.upperWordLatchRead m (regAddr blk o)) s = .next u ∧ Answered u m (loWord v).toNat ∧
        u = { s with latches := u.latches, resp := u.resp } ∧
        exec (.upperWordLatchRead m (regAddr blk (o + 4))) { u with lehr := { u.lehr with lc := u.lehr.lc + 1#64 } } = .next w ∧
        Answered w m (hiWord v).toNat) ∧
    (∀ lower upper : Word, RegOpen s m 8 0x020 true →
      ∃ u w, exec (.split64BitWrite m (regAddr 8 0x020) lower) s = .next u ∧ Answered u m 0 ∧
        u = { s with lowers := u.lowers, resp := u.resp } ∧ exec (.registerWrite m (regAddr 8 0x024) upper) u = .next w ∧
        Answered w m 0 ∧ w = { s with
          marver := { s.marver with seed := BitVec.ofNat 64 (upper.toNat * 2 ^ 32 + lower.toNat) }
          lowers := w.lowers, resp := w.resp }) ∧
    (∀ mask : BitVec 16, s.tier.state = .run → RegOpen s m 13 0 true →
      ∃ u, exec (.counterSetClear m mask) s = .next u ∧ Answered u m 0 ∧
        (∀ i, i < 16 → Vec.at u.stats.sets i = (if mask.getLsbD i then StatSet.cleared else Vec.at s.stats.sets i)) ∧
        u = { s with stats := { s.stats with sets := u.stats.sets }, resp := u.resp }) ∧
    (RegOpen s m 13 0x400 true →
      ∃ u, exec (.digestClearAll m) s = .next u ∧ Answered u m 0 ∧
        u = { s with digests := { s.digests with val := [], cnt := [], logPtr := 0#32 }, resp := u.resp }) ∧
    (∀ (i : BitVec 4) (value : Word), RegOpen s m 11 (0x080 + 4 * i.toNat) true →
      ∃ u, exec (.jnLiveWrite m i value) s = .next u ∧ Answered u m 0 ∧
        (∀ k, k < 512 → u.journal.live.getLsbD k =
          (if k / 32 = i.toNat then value.getLsbD (k % 32) else s.journal.live.getLsbD k)) ∧
        (∀ k, k < 512 → u.journal.dirty0.getLsbD k =
            (s.journal.dirty0.getLsbD k || (u.journal.live.getLsbD k && !s.journal.live.getLsbD k)) ∧
          u.journal.dirty1.getLsbD k =
            (s.journal.dirty1.getLsbD k || (u.journal.live.getLsbD k && !s.journal.live.getLsbD k))) ∧
        u = { s with resp := u.resp, journal := { s.journal with
          live := u.journal.live, dirty0 := u.journal.dirty0, dirty1 := u.journal.dirty1 } })

/-! Frames and invariants. -/

/-- Commands keep to their units. What happens on links and with the count leaves the control core, the engines, the streams, the rings,
Marver and local memory as they are; a command of a matrix engine or the vector engine leaves the other engine kind, the streams, the
rings, the schedule unit's state, the router, Marver, the tier and every task; the journal's writer leaves everything but the journal, far
requests and what is reported, and a snapshot's copy beside these only its stream context, the regulator's buckets and the count of
corrected errors (R15, R204, R218, R273-R275, R306, R313-R330, R399, R410, R411). -/
def Obligations.CommandsKeepToTheirUnits : Prop :=
  (∀ (c : Instr) (s u : State), exec c s = .next u →
    ((∃ src, c = .routerForward src) ∨ (∃ p l, c = .linkCreditReturn p l) ∨
      (∃ p, c = .linkReadyDrop p ∨ c = .linkReadyRise p ∨ c = .linkReadyHoldEnd p ∨ c = .flitTimeout p ∨
        c = .trainingComplete p) ∨ (∃ f, c = .idleFlit f) ∨
      (∃ p r, c = .helloReceive p r) ∨ (∃ f, c = .edgeFrameReceive f) ∨ c = .edgeRetryTimeout ∨ c = .edgeTrainTimeout ∨
      c = .edgeTrainRetry ∨ (∃ b, c = .elockChange b) ∨ (∃ v, c = .lehrSyncPulse v) ∨ c = .missedPulse) →
    u.core = s.core ∧ u.engines = s.engines ∧ u.ve = s.ve ∧ u.stats = s.stats ∧ u.digests = s.digests ∧ u.mem = s.mem ∧
      u.se = s.se ∧ u.far = s.far ∧ u.rings = s.rings ∧ u.sched = s.sched ∧ u.marver = s.marver ∧ u.tier = s.tier ∧
      u.pins = s.pins) ∧
  (∀ (c : Instr) (e : Fin 4) (s u : State), exec c s = .next u →
    c ∈ [.tld e, .tst e, .tcfg e, .trel e, .ldw e, .swap e, .mm e, .mms e, .acvt e, .tileRowWriteComplete e, .tstComplete e,
      .tcfgApply e, .stationaryRowWrite e, .swapTokenEntry e, .accumulatorRowWrite e,
      .saturationCheck e] →
    (∀ j, j ≠ e.val → u.me j = s.me j) ∧ u.ve = s.ve ∧ u.se = s.se ∧ u.far = s.far ∧ u.rings = s.rings ∧ u.sched = s.sched ∧
      u.lehr = s.lehr ∧ u.router = s.router ∧ u.marver = s.marver ∧ u.tier = s.tier ∧ u.pins = s.pins ∧
      u.core.tasks = s.core.tasks ∧ u.core.imem = s.core.imem ∧ ∀ q, q ≠ e.val → u.queue q = s.queue q) ∧
  (∀ (c : Instr) (s u : State), exec c s = .next u → c ∈ [.vop, .vpload, .vep, .vred, .veCompletion] →
    u.engines = s.engines ∧ u.se = s.se ∧ u.far = s.far ∧ u.rings = s.rings ∧ u.sched = s.sched ∧ u.lehr = s.lehr ∧
      u.router = s.router ∧ u.marver = s.marver ∧ u.tier = s.tier ∧ u.pins = s.pins ∧ u.core.tasks = s.core.tasks ∧
      u.core.imem = s.core.imem ∧ ∀ q, q ≠ 4 → u.queue q = s.queue q) ∧
  (∀ (c : Instr) (s u : State), exec c s = .next u → c ∈ [.journalWrite, .traceSample] →
    u = { s with journal := u.journal, far := u.far, gaffer := u.gaffer, raised := u.raised }) ∧
  (∀ (c : Instr) (s u : State), exec c s = .next u → c ∈ [.snapshotCopy, .snapshotComplete] →
    u.core = s.core ∧ u.engines = s.engines ∧ u.ve = s.ve ∧ u.mem.mem = s.mem.mem ∧ u.mem.bad = s.mem.bad ∧
      (∀ i, i ≠ 0 → u.ctx i = s.ctx i) ∧ u.se.tlb = s.se.tlb ∧ u.se.wait = s.se.wait ∧ u.rings = s.rings ∧
      u.sched = s.sched ∧ u.lehr = s.lehr ∧ u.router = s.router ∧ u.marver = s.marver ∧ u.tier = s.tier ∧ u.pins = s.pins)

/-- Every memory and table of the reset state is in canonical form. -/
def Obligations.ResetIsCanonical : Prop := State.reset.canonical = true

/-- Every step that goes on keeps every memory and table in canonical form, so that equal contents are equal data (R7, R204, R206). -/
def Obligations.EveryStepKeepsMemoriesCanonical : Prop :=
  ∀ s t : State, s.canonical = true → step s = .next t → t.canonical = true

end
end

