-- ==== Sys2Proof/Laws/State.lean ====
section
/-! SUPPORT. What each update of the state leaves: one lemma per update, one equation per part of the state. -/

set_option linter.unusedTactic false
set_option linter.unnecessarySeqFocus false

namespace Sys2Proof.Machine

@[simp] theorem State.raise_frame (s : State) (blk o i : Nat) :
    (s.raise blk o i).pending = s.pending ∧ (s.raise blk o i).nc = s.nc ∧ (s.raise blk o i).free = s.free ∧
      (s.raise blk o i).resp = s.resp ∧ (s.raise blk o i).latches = s.latches ∧ (s.raise blk o i).lowers = s.lowers ∧
      (s.raise blk o i).core = s.core ∧ (s.raise blk o i).engines = s.engines ∧ (s.raise blk o i).ve = s.ve ∧
      (s.raise blk o i).stats = s.stats ∧ (s.raise blk o i).digests = s.digests ∧ (s.raise blk o i).mem = s.mem ∧
      (s.raise blk o i).se = s.se ∧ (s.raise blk o i).far = s.far ∧ (s.raise blk o i).rings = s.rings ∧
      (s.raise blk o i).sched = s.sched ∧ (s.raise blk o i).lehr = s.lehr ∧ (s.raise blk o i).router = s.router ∧
      (s.raise blk o i).marver = s.marver ∧ (s.raise blk o i).journal = s.journal ∧
      (s.raise blk o i).gaffer = s.gaffer ∧ (s.raise blk o i).tier = s.tier ∧ (s.raise blk o i).pins = s.pins :=
  ⟨rfl, rfl, rfl, rfl, rfl, rfl, rfl, rfl, rfl, rfl, rfl, rfl, rfl, rfl, rfl, rfl, rfl, rfl, rfl, rfl, rfl, rfl, rfl⟩

@[simp] theorem State.raiseIf_frame (s : State) (b : Bool) (blk o i : Nat) :
    (s.raiseIf b blk o i).pending = s.pending ∧ (s.raiseIf b blk o i).nc = s.nc ∧
      (s.raiseIf b blk o i).free = s.free ∧ (s.raiseIf b blk o i).resp = s.resp ∧
      (s.raiseIf b blk o i).latches = s.latches ∧ (s.raiseIf b blk o i).lowers = s.lowers ∧
      (s.raiseIf b blk o i).core = s.core ∧ (s.raiseIf b blk o i).engines = s.engines ∧
      (s.raiseIf b blk o i).ve = s.ve ∧ (s.raiseIf b blk o i).stats = s.stats ∧
      (s.raiseIf b blk o i).digests = s.digests ∧ (s.raiseIf b blk o i).mem = s.mem ∧
      (s.raiseIf b blk o i).se = s.se ∧ (s.raiseIf b blk o i).far = s.far ∧ (s.raiseIf b blk o i).rings = s.rings ∧
      (s.raiseIf b blk o i).sched = s.sched ∧ (s.raiseIf b blk o i).lehr = s.lehr ∧
      (s.raiseIf b blk o i).router = s.router ∧ (s.raiseIf b blk o i).marver = s.marver ∧
      (s.raiseIf b blk o i).journal = s.journal ∧ (s.raiseIf b blk o i).gaffer = s.gaffer ∧
      (s.raiseIf b blk o i).tier = s.tier ∧ (s.raiseIf b blk o i).pins = s.pins := by
  unfold State.raiseIf; (try dsimp only); (repeat' split) <;> simp

@[simp] theorem State.launchQueues_frame (s : State) :
    s.launchQueues.pending = s.pending ∧ s.launchQueues.nc = s.nc ∧ s.launchQueues.free = s.free ∧
      s.launchQueues.resp = s.resp ∧ s.launchQueues.latches = s.latches ∧ s.launchQueues.lowers = s.lowers ∧
      s.launchQueues.core = s.core ∧ s.launchQueues.stats = s.stats ∧ s.launchQueues.digests = s.digests ∧
      s.launchQueues.mem = s.mem ∧ s.launchQueues.far = s.far ∧ s.launchQueues.lehr = s.lehr ∧
      s.launchQueues.router = s.router ∧ s.launchQueues.journal = s.journal ∧ s.launchQueues.gaffer = s.gaffer ∧
      s.launchQueues.tier = s.tier ∧ s.launchQueues.pins = s.pins :=
  ⟨rfl, rfl, rfl, rfl, rfl, rfl, rfl, rfl, rfl, rfl, rfl, rfl, rfl, rfl, rfl, rfl, rfl⟩

@[simp] theorem State.syncDiscard_frame (s : State) :
    s.syncDiscard.pending = s.pending ∧ s.syncDiscard.nc = s.nc ∧ s.syncDiscard.free = s.free ∧
      s.syncDiscard.resp = s.resp ∧ s.syncDiscard.latches = s.latches ∧ s.syncDiscard.lowers = s.lowers ∧
      s.syncDiscard.core = s.core ∧ s.syncDiscard.engines = s.engines ∧ s.syncDiscard.ve = s.ve ∧
      s.syncDiscard.stats = s.stats ∧ s.syncDiscard.digests = s.digests ∧ s.syncDiscard.mem = s.mem ∧
      s.syncDiscard.se = s.se ∧ s.syncDiscard.far = s.far ∧ s.syncDiscard.rings = s.rings ∧
      s.syncDiscard.sched = s.sched ∧ s.syncDiscard.router = s.router ∧ s.syncDiscard.marver = s.marver ∧
      s.syncDiscard.journal = s.journal ∧ s.syncDiscard.gaffer = s.gaffer ∧ s.syncDiscard.tier = s.tier ∧
      s.syncDiscard.pins = s.pins :=
  ⟨rfl, rfl, rfl, rfl, rfl, rfl, rfl, rfl, rfl, rfl, rfl, rfl, rfl, rfl, rfl, rfl, rfl, rfl, rfl, rfl, rfl, rfl⟩

@[simp] theorem State.putMailbox_frame (s : State) (m v : Nat) :
    (s.putMailbox m v).pending = s.pending ∧ (s.putMailbox m v).nc = s.nc ∧ (s.putMailbox m v).free = s.free ∧
      (s.putMailbox m v).resp = s.resp ∧ (s.putMailbox m v).latches = s.latches ∧ (s.putMailbox m v).lowers = s.lowers ∧
      (s.putMailbox m v).core = s.core ∧ (s.putMailbox m v).engines = s.engines ∧ (s.putMailbox m v).ve = s.ve ∧
      (s.putMailbox m v).stats = s.stats ∧ (s.putMailbox m v).digests = s.digests ∧ (s.putMailbox m v).mem = s.mem ∧
      (s.putMailbox m v).se = s.se ∧ (s.putMailbox m v).far = s.far ∧ (s.putMailbox m v).rings = s.rings ∧
      (s.putMailbox m v).sched = s.sched ∧ (s.putMailbox m v).lehr = s.lehr ∧ (s.putMailbox m v).router = s.router ∧
      (s.putMailbox m v).marver = s.marver ∧ (s.putMailbox m v).journal = s.journal ∧ (s.putMailbox m v).tier = s.tier ∧
      (s.putMailbox m v).pins = s.pins := by
  unfold State.putMailbox; (try dsimp only); (repeat' split) <;> simp

@[simp] theorem State.respond_frame (s : State) (m : Nat) (code : Half) (data : Nat) :
    (s.respond m code data).pending = s.pending ∧ (s.respond m code data).nc = s.nc ∧
      (s.respond m code data).free = s.free ∧ (s.respond m code data).latches = s.latches ∧
      (s.respond m code data).lowers = s.lowers ∧ (s.respond m code data).core = s.core ∧
      (s.respond m code data).engines = s.engines ∧ (s.respond m code data).ve = s.ve ∧
      (s.respond m code data).stats = s.stats ∧ (s.respond m code data).digests = s.digests ∧
      (s.respond m code data).mem = s.mem ∧ (s.respond m code data).se = s.se ∧ (s.respond m code data).far = s.far ∧
      (s.respond m code data).rings = s.rings ∧ (s.respond m code data).sched = s.sched ∧
      (s.respond m code data).lehr = s.lehr ∧ (s.respond m code data).router = s.router ∧
      (s.respond m code data).marver = s.marver ∧ (s.respond m code data).journal = s.journal ∧
      (s.respond m code data).gaffer = s.gaffer ∧ (s.respond m code data).tier = s.tier ∧
      (s.respond m code data).pins = s.pins :=
  ⟨rfl, rfl, rfl, rfl, rfl, rfl, rfl, rfl, rfl, rfl, rfl, rfl, rfl, rfl, rfl, rfl, rfl, rfl, rfl, rfl, rfl, rfl⟩

@[simp] theorem State.writeRemap_frame (s : State) (x : Nat) :
    (s.writeRemap x).pending = s.pending ∧ (s.writeRemap x).nc = s.nc ∧ (s.writeRemap x).free = s.free ∧
      (s.writeRemap x).resp = s.resp ∧ (s.writeRemap x).latches = s.latches ∧ (s.writeRemap x).lowers = s.lowers ∧
      (s.writeRemap x).core = s.core ∧ (s.writeRemap x).engines = s.engines ∧ (s.writeRemap x).ve = s.ve ∧
      (s.writeRemap x).stats = s.stats ∧ (s.writeRemap x).digests = s.digests ∧ (s.writeRemap x).mem = s.mem ∧
      (s.writeRemap x).se = s.se ∧ (s.writeRemap x).far = s.far ∧ (s.writeRemap x).rings = s.rings ∧
      (s.writeRemap x).sched = s.sched ∧ (s.writeRemap x).lehr = s.lehr ∧ (s.writeRemap x).marver = s.marver ∧
      (s.writeRemap x).journal = s.journal ∧ (s.writeRemap x).gaffer = s.gaffer ∧ (s.writeRemap x).tier = s.tier ∧
      (s.writeRemap x).pins = s.pins := by
  unfold State.writeRemap; (try dsimp only); (repeat' split) <;> simp

@[simp] theorem State.farDrop_frame (s : State) (tag : Nat) :
    (s.farDrop tag).pending = s.pending ∧ (s.farDrop tag).nc = s.nc ∧ (s.farDrop tag).free = s.free ∧
      (s.farDrop tag).resp = s.resp ∧ (s.farDrop tag).latches = s.latches ∧ (s.farDrop tag).lowers = s.lowers ∧
      (s.farDrop tag).core = s.core ∧ (s.farDrop tag).engines = s.engines ∧ (s.farDrop tag).ve = s.ve ∧
      (s.farDrop tag).stats = s.stats ∧ (s.farDrop tag).digests = s.digests ∧ (s.farDrop tag).mem = s.mem ∧
      (s.farDrop tag).se = s.se ∧ (s.farDrop tag).rings = s.rings ∧ (s.farDrop tag).sched = s.sched ∧
      (s.farDrop tag).lehr = s.lehr ∧ (s.farDrop tag).router = s.router ∧ (s.farDrop tag).marver = s.marver ∧
      (s.farDrop tag).journal = s.journal ∧ (s.farDrop tag).gaffer = s.gaffer ∧ (s.farDrop tag).tier = s.tier ∧
      (s.farDrop tag).pins = s.pins :=
  ⟨rfl, rfl, rfl, rfl, rfl, rfl, rfl, rfl, rfl, rfl, rfl, rfl, rfl, rfl, rfl, rfl, rfl, rfl, rfl, rfl, rfl, rfl⟩

@[simp] theorem State.onMe_frame (s : State) (e : Nat) (f : MatrixEngine → MatrixEngine) :
    (s.onMe e f).pending = s.pending ∧ (s.onMe e f).nc = s.nc ∧ (s.onMe e f).free = s.free ∧
      (s.onMe e f).resp = s.resp ∧ (s.onMe e f).latches = s.latches ∧ (s.onMe e f).lowers = s.lowers ∧
      (s.onMe e f).core = s.core ∧ (s.onMe e f).ve = s.ve ∧ (s.onMe e f).stats = s.stats ∧
      (s.onMe e f).digests = s.digests ∧ (s.onMe e f).mem = s.mem ∧ (s.onMe e f).se = s.se ∧ (s.onMe e f).far = s.far ∧
      (s.onMe e f).rings = s.rings ∧ (s.onMe e f).sched = s.sched ∧ (s.onMe e f).lehr = s.lehr ∧
      (s.onMe e f).router = s.router ∧ (s.onMe e f).marver = s.marver ∧ (s.onMe e f).journal = s.journal ∧
      (s.onMe e f).gaffer = s.gaffer ∧ (s.onMe e f).tier = s.tier ∧ (s.onMe e f).pins = s.pins :=
  ⟨rfl, rfl, rfl, rfl, rfl, rfl, rfl, rfl, rfl, rfl, rfl, rfl, rfl, rfl, rfl, rfl, rfl, rfl, rfl, rfl, rfl, rfl⟩

@[simp] theorem State.tidy_frame (s : State) :
    s.tidy.pending = s.pending ∧ s.tidy.nc = s.nc ∧ s.tidy.free = s.free ∧ s.tidy.resp = s.resp ∧
      s.tidy.latches = s.latches ∧ s.tidy.lowers = s.lowers ∧ s.tidy.stats = s.stats ∧ s.tidy.far = s.far ∧
      s.tidy.sched = s.sched ∧ s.tidy.lehr = s.lehr ∧ s.tidy.journal = s.journal ∧ s.tidy.tier = s.tier ∧
      s.tidy.pins = s.pins :=
  ⟨rfl, rfl, rfl, rfl, rfl, rfl, rfl, rfl, rfl, rfl, rfl, rfl, rfl⟩

@[simp] theorem State.journalAck_frame (s : State) :
    s.journalAck.pending = s.pending ∧ s.journalAck.nc = s.nc ∧ s.journalAck.free = s.free ∧
      s.journalAck.resp = s.resp ∧ s.journalAck.latches = s.latches ∧ s.journalAck.lowers = s.lowers ∧
      s.journalAck.core = s.core ∧ s.journalAck.engines = s.engines ∧ s.journalAck.ve = s.ve ∧
      s.journalAck.stats = s.stats ∧ s.journalAck.digests = s.digests ∧ s.journalAck.mem = s.mem ∧
      s.journalAck.se = s.se ∧ s.journalAck.far = s.far ∧ s.journalAck.rings = s.rings ∧ s.journalAck.sched = s.sched ∧
      s.journalAck.lehr = s.lehr ∧ s.journalAck.router = s.router ∧ s.journalAck.marver = s.marver ∧
      s.journalAck.gaffer = s.gaffer ∧ s.journalAck.tier = s.tier ∧ s.journalAck.pins = s.pins :=
  ⟨rfl, rfl, rfl, rfl, rfl, rfl, rfl, rfl, rfl, rfl, rfl, rfl, rfl, rfl, rfl, rfl, rfl, rfl, rfl, rfl, rfl, rfl⟩

@[simp] theorem State.zeroOrds_frame (s : State) :
    s.zeroOrds.pending = s.pending ∧ s.zeroOrds.nc = s.nc ∧ s.zeroOrds.free = s.free ∧ s.zeroOrds.resp = s.resp ∧
      s.zeroOrds.latches = s.latches ∧ s.zeroOrds.lowers = s.lowers ∧ s.zeroOrds.core = s.core ∧
      s.zeroOrds.engines = s.engines ∧ s.zeroOrds.ve = s.ve ∧ s.zeroOrds.stats = s.stats ∧
      s.zeroOrds.digests = s.digests ∧ s.zeroOrds.mem = s.mem ∧ s.zeroOrds.far = s.far ∧ s.zeroOrds.rings = s.rings ∧
      s.zeroOrds.sched = s.sched ∧ s.zeroOrds.lehr = s.lehr ∧ s.zeroOrds.router = s.router ∧
      s.zeroOrds.journal = s.journal ∧ s.zeroOrds.gaffer = s.gaffer ∧ s.zeroOrds.tier = s.tier ∧
      s.zeroOrds.pins = s.pins :=
  ⟨rfl, rfl, rfl, rfl, rfl, rfl, rfl, rfl, rfl, rfl, rfl, rfl, rfl, rfl, rfl, rfl, rfl, rfl, rfl, rfl, rfl⟩

@[simp] theorem State.onLink_frame (s : State) (f : EdgeLink → EdgeLink) :
    (s.onLink f).pending = s.pending ∧ (s.onLink f).nc = s.nc ∧ (s.onLink f).free = s.free ∧
      (s.onLink f).resp = s.resp ∧ (s.onLink f).latches = s.latches ∧ (s.onLink f).lowers = s.lowers ∧
      (s.onLink f).core = s.core ∧ (s.onLink f).engines = s.engines ∧ (s.onLink f).ve = s.ve ∧
      (s.onLink f).stats = s.stats ∧ (s.onLink f).digests = s.digests ∧ (s.onLink f).mem = s.mem ∧
      (s.onLink f).se = s.se ∧ (s.onLink f).far = s.far ∧ (s.onLink f).rings = s.rings ∧ (s.onLink f).sched = s.sched ∧
      (s.onLink f).lehr = s.lehr ∧ (s.onLink f).marver = s.marver ∧ (s.onLink f).journal = s.journal ∧
      (s.onLink f).gaffer = s.gaffer ∧ (s.onLink f).tier = s.tier ∧ (s.onLink f).pins = s.pins :=
  ⟨rfl, rfl, rfl, rfl, rfl, rfl, rfl, rfl, rfl, rfl, rfl, rfl, rfl, rfl, rfl, rfl, rfl, rfl, rfl, rfl, rfl, rfl⟩

@[simp] theorem State.onShard_frame (s : State) (i : Nat) (f : Shard → Shard) :
    (s.onShard i f).pending = s.pending ∧ (s.onShard i f).nc = s.nc ∧ (s.onShard i f).free = s.free ∧
      (s.onShard i f).resp = s.resp ∧ (s.onShard i f).latches = s.latches ∧ (s.onShard i f).lowers = s.lowers ∧
      (s.onShard i f).core = s.core ∧ (s.onShard i f).engines = s.engines ∧ (s.onShard i f).ve = s.ve ∧
      (s.onShard i f).stats = s.stats ∧ (s.onShard i f).digests = s.digests ∧ (s.onShard i f).mem = s.mem ∧
      (s.onShard i f).se = s.se ∧ (s.onShard i f).far = s.far ∧ (s.onShard i f).rings = s.rings ∧
      (s.onShard i f).sched = s.sched ∧ (s.onShard i f).lehr = s.lehr ∧ (s.onShard i f).router = s.router ∧
      (s.onShard i f).journal = s.journal ∧ (s.onShard i f).gaffer = s.gaffer ∧ (s.onShard i f).tier = s.tier ∧
      (s.onShard i f).pins = s.pins :=
  ⟨rfl, rfl, rfl, rfl, rfl, rfl, rfl, rfl, rfl, rfl, rfl, rfl, rfl, rfl, rfl, rfl, rfl, rfl, rfl, rfl, rfl, rfl⟩

@[simp] theorem State.setMvStat_frame (s : State) (i : Nat) :
    (s.setMvStat i).pending = s.pending ∧ (s.setMvStat i).nc = s.nc ∧ (s.setMvStat i).free = s.free ∧
      (s.setMvStat i).resp = s.resp ∧ (s.setMvStat i).latches = s.latches ∧ (s.setMvStat i).lowers = s.lowers ∧
      (s.setMvStat i).core = s.core ∧ (s.setMvStat i).engines = s.engines ∧ (s.setMvStat i).ve = s.ve ∧
      (s.setMvStat i).stats = s.stats ∧ (s.setMvStat i).digests = s.digests ∧ (s.setMvStat i).mem = s.mem ∧
      (s.setMvStat i).se = s.se ∧ (s.setMvStat i).far = s.far ∧ (s.setMvStat i).rings = s.rings ∧
      (s.setMvStat i).sched = s.sched ∧ (s.setMvStat i).lehr = s.lehr ∧ (s.setMvStat i).router = s.router ∧
      (s.setMvStat i).journal = s.journal ∧ (s.setMvStat i).gaffer = s.gaffer ∧ (s.setMvStat i).tier = s.tier ∧
      (s.setMvStat i).pins = s.pins :=
  ⟨rfl, rfl, rfl, rfl, rfl, rfl, rfl, rfl, rfl, rfl, rfl, rfl, rfl, rfl, rfl, rfl, rfl, rfl, rfl, rfl, rfl, rfl⟩

@[simp] theorem State.classify_frame (s : State) (w tag : Nat) (x : Window) (stamp : DWord) :
    (s.classify w tag x stamp).pending = s.pending ∧ (s.classify w tag x stamp).nc = s.nc ∧
      (s.classify w tag x stamp).free = s.free ∧ (s.classify w tag x stamp).resp = s.resp ∧
      (s.classify w tag x stamp).latches = s.latches ∧ (s.classify w tag x stamp).lowers = s.lowers ∧
      (s.classify w tag x stamp).core = s.core ∧ (s.classify w tag x stamp).engines = s.engines ∧
      (s.classify w tag x stamp).ve = s.ve ∧ (s.classify w tag x stamp).stats = s.stats ∧
      (s.classify w tag x stamp).digests = s.digests ∧ (s.classify w tag x stamp).mem = s.mem ∧
      (s.classify w tag x stamp).se = s.se ∧ (s.classify w tag x stamp).far = s.far ∧
      (s.classify w tag x stamp).rings = s.rings ∧ (s.classify w tag x stamp).sched = s.sched ∧
      (s.classify w tag x stamp).router = s.router ∧ (s.classify w tag x stamp).marver = s.marver ∧
      (s.classify w tag x stamp).journal = s.journal ∧ (s.classify w tag x stamp).gaffer = s.gaffer ∧
      (s.classify w tag x stamp).tier = s.tier ∧ (s.classify w tag x stamp).pins = s.pins := by
  unfold State.classify; (try dsimp only); (repeat' split) <;> simp

@[simp] theorem State.lzero_frame (s : State) (a n : Nat) :
    (s.lzero a n).pending = s.pending ∧ (s.lzero a n).nc = s.nc ∧ (s.lzero a n).free = s.free ∧
      (s.lzero a n).resp = s.resp ∧ (s.lzero a n).latches = s.latches ∧ (s.lzero a n).lowers = s.lowers ∧
      (s.lzero a n).core = s.core ∧ (s.lzero a n).engines = s.engines ∧ (s.lzero a n).ve = s.ve ∧
      (s.lzero a n).stats = s.stats ∧ (s.lzero a n).digests = s.digests ∧ (s.lzero a n).se = s.se ∧
      (s.lzero a n).far = s.far ∧ (s.lzero a n).rings = s.rings ∧ (s.lzero a n).sched = s.sched ∧
      (s.lzero a n).lehr = s.lehr ∧ (s.lzero a n).router = s.router ∧ (s.lzero a n).marver = s.marver ∧
      (s.lzero a n).gaffer = s.gaffer ∧ (s.lzero a n).tier = s.tier ∧ (s.lzero a n).pins = s.pins :=
  ⟨rfl, rfl, rfl, rfl, rfl, rfl, rfl, rfl, rfl, rfl, rfl, rfl, rfl, rfl, rfl, rfl, rfl, rfl, rfl, rfl, rfl⟩

@[simp] theorem State.releaseSend_frame (s : State) (d : Send) :
    (s.releaseSend d).pending = s.pending ∧ (s.releaseSend d).nc = s.nc ∧ (s.releaseSend d).free = s.free ∧
      (s.releaseSend d).resp = s.resp ∧ (s.releaseSend d).latches = s.latches ∧ (s.releaseSend d).lowers = s.lowers ∧
      (s.releaseSend d).core = s.core ∧ (s.releaseSend d).engines = s.engines ∧ (s.releaseSend d).ve = s.ve ∧
      (s.releaseSend d).stats = s.stats ∧ (s.releaseSend d).digests = s.digests ∧ (s.releaseSend d).mem = s.mem ∧
      (s.releaseSend d).se = s.se ∧ (s.releaseSend d).far = s.far ∧ (s.releaseSend d).rings = s.rings ∧
      (s.releaseSend d).lehr = s.lehr ∧ (s.releaseSend d).router = s.router ∧ (s.releaseSend d).marver = s.marver ∧
      (s.releaseSend d).journal = s.journal ∧ (s.releaseSend d).gaffer = s.gaffer ∧ (s.releaseSend d).tier = s.tier ∧
      (s.releaseSend d).pins = s.pins :=
  ⟨rfl, rfl, rfl, rfl, rfl, rfl, rfl, rfl, rfl, rfl, rfl, rfl, rfl, rfl, rfl, rfl, rfl, rfl, rfl, rfl, rfl, rfl⟩

@[simp] theorem State.setCredit_frame (s : State) (e o n v : Nat) :
    (s.setCredit e o n v).pending = s.pending ∧ (s.setCredit e o n v).nc = s.nc ∧
      (s.setCredit e o n v).free = s.free ∧ (s.setCredit e o n v).resp = s.resp ∧
      (s.setCredit e o n v).latches = s.latches ∧ (s.setCredit e o n v).lowers = s.lowers ∧
      (s.setCredit e o n v).core = s.core ∧ (s.setCredit e o n v).engines = s.engines ∧
      (s.setCredit e o n v).ve = s.ve ∧ (s.setCredit e o n v).stats = s.stats ∧
      (s.setCredit e o n v).digests = s.digests ∧ (s.setCredit e o n v).mem = s.mem ∧ (s.setCredit e o n v).se = s.se ∧
      (s.setCredit e o n v).far = s.far ∧ (s.setCredit e o n v).sched = s.sched ∧ (s.setCredit e o n v).lehr = s.lehr ∧
      (s.setCredit e o n v).router = s.router ∧ (s.setCredit e o n v).marver = s.marver ∧
      (s.setCredit e o n v).journal = s.journal ∧ (s.setCredit e o n v).gaffer = s.gaffer ∧
      (s.setCredit e o n v).tier = s.tier ∧ (s.setCredit e o n v).pins = s.pins :=
  ⟨rfl, rfl, rfl, rfl, rfl, rfl, rfl, rfl, rfl, rfl, rfl, rfl, rfl, rfl, rfl, rfl, rfl, rfl, rfl, rfl, rfl, rfl⟩

@[simp] theorem State.setRgStat_frame (s : State) (i : Nat) :
    (s.setRgStat i).pending = s.pending ∧ (s.setRgStat i).nc = s.nc ∧ (s.setRgStat i).free = s.free ∧
      (s.setRgStat i).resp = s.resp ∧ (s.setRgStat i).latches = s.latches ∧ (s.setRgStat i).lowers = s.lowers ∧
      (s.setRgStat i).core = s.core ∧ (s.setRgStat i).engines = s.engines ∧ (s.setRgStat i).ve = s.ve ∧
      (s.setRgStat i).stats = s.stats ∧ (s.setRgStat i).digests = s.digests ∧ (s.setRgStat i).mem = s.mem ∧
      (s.setRgStat i).se = s.se ∧ (s.setRgStat i).far = s.far ∧ (s.setRgStat i).sched = s.sched ∧
      (s.setRgStat i).lehr = s.lehr ∧ (s.setRgStat i).router = s.router ∧ (s.setRgStat i).marver = s.marver ∧
      (s.setRgStat i).journal = s.journal ∧ (s.setRgStat i).gaffer = s.gaffer ∧ (s.setRgStat i).tier = s.tier ∧
      (s.setRgStat i).pins = s.pins :=
  ⟨rfl, rfl, rfl, rfl, rfl, rfl, rfl, rfl, rfl, rfl, rfl, rfl, rfl, rfl, rfl, rfl, rfl, rfl, rfl, rfl, rfl, rfl⟩

@[simp] theorem State.setRing_frame (s : State) (t o n v : Nat) :
    (s.setRing t o n v).pending = s.pending ∧ (s.setRing t o n v).nc = s.nc ∧ (s.setRing t o n v).free = s.free ∧
      (s.setRing t o n v).resp = s.resp ∧ (s.setRing t o n v).latches = s.latches ∧
      (s.setRing t o n v).lowers = s.lowers ∧ (s.setRing t o n v).core = s.core ∧
      (s.setRing t o n v).engines = s.engines ∧ (s.setRing t o n v).ve = s.ve ∧ (s.setRing t o n v).stats = s.stats ∧
      (s.setRing t o n v).digests = s.digests ∧ (s.setRing t o n v).mem = s.mem ∧ (s.setRing t o n v).se = s.se ∧
      (s.setRing t o n v).far = s.far ∧ (s.setRing t o n v).sched = s.sched ∧ (s.setRing t o n v).lehr = s.lehr ∧
      (s.setRing t o n v).router = s.router ∧ (s.setRing t o n v).marver = s.marver ∧
      (s.setRing t o n v).journal = s.journal ∧ (s.setRing t o n v).gaffer = s.gaffer ∧
      (s.setRing t o n v).tier = s.tier ∧ (s.setRing t o n v).pins = s.pins :=
  ⟨rfl, rfl, rfl, rfl, rfl, rfl, rfl, rfl, rfl, rfl, rfl, rfl, rfl, rfl, rfl, rfl, rfl, rfl, rfl, rfl, rfl, rfl⟩

@[simp] theorem State.transmit_frame (s : State) (m : Message) (mc : Bool) :
    (s.transmit m mc).pending = s.pending ∧ (s.transmit m mc).nc = s.nc ∧ (s.transmit m mc).free = s.free ∧
      (s.transmit m mc).resp = s.resp ∧ (s.transmit m mc).latches = s.latches ∧ (s.transmit m mc).lowers = s.lowers ∧
      (s.transmit m mc).core = s.core ∧ (s.transmit m mc).engines = s.engines ∧ (s.transmit m mc).ve = s.ve ∧
      (s.transmit m mc).stats = s.stats ∧ (s.transmit m mc).digests = s.digests ∧ (s.transmit m mc).mem = s.mem ∧
      (s.transmit m mc).se = s.se ∧ (s.transmit m mc).far = s.far ∧ (s.transmit m mc).rings = s.rings ∧
      (s.transmit m mc).sched = s.sched ∧ (s.transmit m mc).lehr = s.lehr ∧ (s.transmit m mc).marver = s.marver ∧
      (s.transmit m mc).journal = s.journal ∧ (s.transmit m mc).gaffer = s.gaffer ∧ (s.transmit m mc).tier = s.tier ∧
      (s.transmit m mc).pins = s.pins :=
  ⟨rfl, rfl, rfl, rfl, rfl, rfl, rfl, rfl, rfl, rfl, rfl, rfl, rfl, rfl, rfl, rfl, rfl, rfl, rfl, rfl, rfl, rfl⟩

@[simp] theorem State.applySwitch_frame (s : State) (m : Option (List Byte)) :
    (s.applySwitch m).pending = s.pending ∧ (s.applySwitch m).nc = s.nc ∧ (s.applySwitch m).free = s.free ∧
      (s.applySwitch m).resp = s.resp ∧ (s.applySwitch m).latches = s.latches ∧ (s.applySwitch m).lowers = s.lowers ∧
      (s.applySwitch m).core = s.core ∧ (s.applySwitch m).engines = s.engines ∧ (s.applySwitch m).ve = s.ve ∧
      (s.applySwitch m).stats = s.stats ∧ (s.applySwitch m).digests = s.digests ∧ (s.applySwitch m).mem = s.mem ∧
      (s.applySwitch m).se = s.se ∧ (s.applySwitch m).far = s.far ∧ (s.applySwitch m).rings = s.rings ∧
      (s.applySwitch m).sched = s.sched ∧ (s.applySwitch m).marver = s.marver ∧ (s.applySwitch m).gaffer = s.gaffer ∧
      (s.applySwitch m).tier = s.tier ∧ (s.applySwitch m).pins = s.pins :=
  ⟨rfl, rfl, rfl, rfl, rfl, rfl, rfl, rfl, rfl, rfl, rfl, rfl, rfl, rfl, rfl, rfl, rfl, rfl, rfl, rfl⟩

@[simp] theorem State.eccAddr_frame (s : State) (addr : Nat) :
    (s.eccAddr addr).pending = s.pending ∧ (s.eccAddr addr).nc = s.nc ∧ (s.eccAddr addr).free = s.free ∧
      (s.eccAddr addr).resp = s.resp ∧ (s.eccAddr addr).latches = s.latches ∧ (s.eccAddr addr).lowers = s.lowers ∧
      (s.eccAddr addr).core = s.core ∧ (s.eccAddr addr).engines = s.engines ∧ (s.eccAddr addr).ve = s.ve ∧
      (s.eccAddr addr).stats = s.stats ∧ (s.eccAddr addr).digests = s.digests ∧ (s.eccAddr addr).se = s.se ∧
      (s.eccAddr addr).far = s.far ∧ (s.eccAddr addr).rings = s.rings ∧ (s.eccAddr addr).sched = s.sched ∧
      (s.eccAddr addr).lehr = s.lehr ∧ (s.eccAddr addr).router = s.router ∧ (s.eccAddr addr).marver = s.marver ∧
      (s.eccAddr addr).journal = s.journal ∧ (s.eccAddr addr).gaffer = s.gaffer ∧ (s.eccAddr addr).tier = s.tier ∧
      (s.eccAddr addr).pins = s.pins := by
  unfold State.eccAddr; (try dsimp only); (repeat' split) <;> simp

@[simp] theorem State.forgetFar_frame (s : State) (gone : FarUse → Bool) :
    (s.forgetFar gone).pending = s.pending ∧ (s.forgetFar gone).nc = s.nc ∧ (s.forgetFar gone).free = s.free ∧
      (s.forgetFar gone).resp = s.resp ∧ (s.forgetFar gone).latches = s.latches ∧ (s.forgetFar gone).lowers = s.lowers ∧
      (s.forgetFar gone).core = s.core ∧ (s.forgetFar gone).engines = s.engines ∧ (s.forgetFar gone).ve = s.ve ∧
      (s.forgetFar gone).stats = s.stats ∧ (s.forgetFar gone).digests = s.digests ∧ (s.forgetFar gone).mem = s.mem ∧
      (s.forgetFar gone).se = s.se ∧ (s.forgetFar gone).rings = s.rings ∧ (s.forgetFar gone).sched = s.sched ∧
      (s.forgetFar gone).lehr = s.lehr ∧ (s.forgetFar gone).router = s.router ∧ (s.forgetFar gone).marver = s.marver ∧
      (s.forgetFar gone).journal = s.journal ∧ (s.forgetFar gone).gaffer = s.gaffer ∧ (s.forgetFar gone).tier = s.tier ∧
      (s.forgetFar gone).pins = s.pins :=
  ⟨rfl, rfl, rfl, rfl, rfl, rfl, rfl, rfl, rfl, rfl, rfl, rfl, rfl, rfl, rfl, rfl, rfl, rfl, rfl, rfl, rfl, rfl⟩

@[simp] theorem State.lwrite_frame (s : State) (a : Nat) (bs : List Byte) :
    (s.lwrite a bs).pending = s.pending ∧ (s.lwrite a bs).nc = s.nc ∧ (s.lwrite a bs).free = s.free ∧
      (s.lwrite a bs).resp = s.resp ∧ (s.lwrite a bs).latches = s.latches ∧ (s.lwrite a bs).lowers = s.lowers ∧
      (s.lwrite a bs).core = s.core ∧ (s.lwrite a bs).engines = s.engines ∧ (s.lwrite a bs).ve = s.ve ∧
      (s.lwrite a bs).stats = s.stats ∧ (s.lwrite a bs).digests = s.digests ∧ (s.lwrite a bs).se = s.se ∧
      (s.lwrite a bs).far = s.far ∧ (s.lwrite a bs).rings = s.rings ∧ (s.lwrite a bs).sched = s.sched ∧
      (s.lwrite a bs).lehr = s.lehr ∧ (s.lwrite a bs).router = s.router ∧ (s.lwrite a bs).marver = s.marver ∧
      (s.lwrite a bs).gaffer = s.gaffer ∧ (s.lwrite a bs).tier = s.tier ∧ (s.lwrite a bs).pins = s.pins :=
  ⟨rfl, rfl, rfl, rfl, rfl, rfl, rfl, rfl, rfl, rfl, rfl, rfl, rfl, rfl, rfl, rfl, rfl, rfl, rfl, rfl, rfl⟩

@[simp] theorem State.onQueue_frame (s : State) (q : Nat) (f : EngineQueue → EngineQueue) :
    (s.onQueue q f).pending = s.pending ∧ (s.onQueue q f).nc = s.nc ∧ (s.onQueue q f).free = s.free ∧
      (s.onQueue q f).resp = s.resp ∧ (s.onQueue q f).latches = s.latches ∧ (s.onQueue q f).lowers = s.lowers ∧
      (s.onQueue q f).engines = s.engines ∧ (s.onQueue q f).ve = s.ve ∧ (s.onQueue q f).stats = s.stats ∧
      (s.onQueue q f).digests = s.digests ∧ (s.onQueue q f).mem = s.mem ∧ (s.onQueue q f).se = s.se ∧
      (s.onQueue q f).far = s.far ∧ (s.onQueue q f).rings = s.rings ∧ (s.onQueue q f).sched = s.sched ∧
      (s.onQueue q f).lehr = s.lehr ∧ (s.onQueue q f).router = s.router ∧ (s.onQueue q f).marver = s.marver ∧
      (s.onQueue q f).journal = s.journal ∧ (s.onQueue q f).gaffer = s.gaffer ∧ (s.onQueue q f).tier = s.tier ∧
      (s.onQueue q f).pins = s.pins :=
  ⟨rfl, rfl, rfl, rfl, rfl, rfl, rfl, rfl, rfl, rfl, rfl, rfl, rfl, rfl, rfl, rfl, rfl, rfl, rfl, rfl, rfl, rfl⟩

@[simp] theorem State.post_frame (s : State) (code : Half) (source : Byte) (detail : List Nat) :
    (s.post code source detail).pending = s.pending ∧ (s.post code source detail).nc = s.nc ∧
      (s.post code source detail).free = s.free ∧ (s.post code source detail).resp = s.resp ∧
      (s.post code source detail).latches = s.latches ∧ (s.post code source detail).lowers = s.lowers ∧
      (s.post code source detail).core = s.core ∧ (s.post code source detail).engines = s.engines ∧
      (s.post code source detail).ve = s.ve ∧ (s.post code source detail).stats = s.stats ∧
      (s.post code source detail).digests = s.digests ∧ (s.post code source detail).mem = s.mem ∧
      (s.post code source detail).se = s.se ∧ (s.post code source detail).far = s.far ∧
      (s.post code source detail).rings = s.rings ∧ (s.post code source detail).sched = s.sched ∧
      (s.post code source detail).lehr = s.lehr ∧ (s.post code source detail).router = s.router ∧
      (s.post code source detail).marver = s.marver ∧ (s.post code source detail).journal = s.journal ∧
      (s.post code source detail).tier = s.tier ∧ (s.post code source detail).pins = s.pins := by
  unfold State.post; (try dsimp only); (repeat' split) <;> simp

@[simp] theorem State.setJnStat_frame (s : State) (i : Nat) :
    (s.setJnStat i).pending = s.pending ∧ (s.setJnStat i).nc = s.nc ∧ (s.setJnStat i).free = s.free ∧
      (s.setJnStat i).resp = s.resp ∧ (s.setJnStat i).latches = s.latches ∧ (s.setJnStat i).lowers = s.lowers ∧
      (s.setJnStat i).core = s.core ∧ (s.setJnStat i).engines = s.engines ∧ (s.setJnStat i).ve = s.ve ∧
      (s.setJnStat i).stats = s.stats ∧ (s.setJnStat i).digests = s.digests ∧ (s.setJnStat i).mem = s.mem ∧
      (s.setJnStat i).se = s.se ∧ (s.setJnStat i).far = s.far ∧ (s.setJnStat i).rings = s.rings ∧
      (s.setJnStat i).sched = s.sched ∧ (s.setJnStat i).lehr = s.lehr ∧ (s.setJnStat i).router = s.router ∧
      (s.setJnStat i).marver = s.marver ∧ (s.setJnStat i).gaffer = s.gaffer ∧ (s.setJnStat i).tier = s.tier ∧
      (s.setJnStat i).pins = s.pins :=
  ⟨rfl, rfl, rfl, rfl, rfl, rfl, rfl, rfl, rfl, rfl, rfl, rfl, rfl, rfl, rfl, rfl, rfl, rfl, rfl, rfl, rfl, rfl⟩

@[simp] theorem State.putAccess_frame (s : State) (m v : Nat) :
    (s.putAccess m v).pending = s.pending ∧ (s.putAccess m v).nc = s.nc ∧ (s.putAccess m v).free = s.free ∧
      (s.putAccess m v).resp = s.resp ∧ (s.putAccess m v).latches = s.latches ∧ (s.putAccess m v).lowers = s.lowers ∧
      (s.putAccess m v).core = s.core ∧ (s.putAccess m v).engines = s.engines ∧ (s.putAccess m v).ve = s.ve ∧
      (s.putAccess m v).stats = s.stats ∧ (s.putAccess m v).digests = s.digests ∧ (s.putAccess m v).mem = s.mem ∧
      (s.putAccess m v).se = s.se ∧ (s.putAccess m v).far = s.far ∧ (s.putAccess m v).rings = s.rings ∧
      (s.putAccess m v).sched = s.sched ∧ (s.putAccess m v).lehr = s.lehr ∧ (s.putAccess m v).router = s.router ∧
      (s.putAccess m v).marver = s.marver ∧ (s.putAccess m v).journal = s.journal ∧ (s.putAccess m v).tier = s.tier ∧
      (s.putAccess m v).pins = s.pins := by
  unfold State.putAccess; (try dsimp only); (repeat' split) <;> simp

@[simp] theorem State.putJn_frame (s : State) (o v : Nat) :
    (s.putJn o v).pending = s.pending ∧ (s.putJn o v).nc = s.nc ∧ (s.putJn o v).free = s.free ∧
      (s.putJn o v).resp = s.resp ∧ (s.putJn o v).latches = s.latches ∧ (s.putJn o v).lowers = s.lowers ∧
      (s.putJn o v).core = s.core ∧ (s.putJn o v).engines = s.engines ∧ (s.putJn o v).ve = s.ve ∧
      (s.putJn o v).stats = s.stats ∧ (s.putJn o v).digests = s.digests ∧ (s.putJn o v).mem = s.mem ∧
      (s.putJn o v).se = s.se ∧ (s.putJn o v).far = s.far ∧ (s.putJn o v).rings = s.rings ∧
      (s.putJn o v).sched = s.sched ∧ (s.putJn o v).lehr = s.lehr ∧ (s.putJn o v).router = s.router ∧
      (s.putJn o v).marver = s.marver ∧ (s.putJn o v).gaffer = s.gaffer ∧ (s.putJn o v).tier = s.tier ∧
      (s.putJn o v).pins = s.pins := by
  unfold State.putJn; (try dsimp only); (repeat' split) <;> simp

@[simp] theorem State.putMv_frame (s : State) (o v : Nat) :
    (s.putMv o v).pending = s.pending ∧ (s.putMv o v).nc = s.nc ∧ (s.putMv o v).free = s.free ∧
      (s.putMv o v).resp = s.resp ∧ (s.putMv o v).latches = s.latches ∧ (s.putMv o v).lowers = s.lowers ∧
      (s.putMv o v).core = s.core ∧ (s.putMv o v).engines = s.engines ∧ (s.putMv o v).ve = s.ve ∧
      (s.putMv o v).stats = s.stats ∧ (s.putMv o v).digests = s.digests ∧ (s.putMv o v).mem = s.mem ∧
      (s.putMv o v).se = s.se ∧ (s.putMv o v).far = s.far ∧ (s.putMv o v).rings = s.rings ∧
      (s.putMv o v).sched = s.sched ∧ (s.putMv o v).lehr = s.lehr ∧ (s.putMv o v).router = s.router ∧
      (s.putMv o v).journal = s.journal ∧ (s.putMv o v).gaffer = s.gaffer ∧ (s.putMv o v).tier = s.tier ∧
      (s.putMv o v).pins = s.pins := by
  unfold State.putMv; (try dsimp only); (repeat' split) <;> simp

@[simp] theorem State.putTs_frame (s : State) (o v : Nat) :
    (s.putTs o v).pending = s.pending ∧ (s.putTs o v).nc = s.nc ∧ (s.putTs o v).free = s.free ∧
      (s.putTs o v).resp = s.resp ∧ (s.putTs o v).latches = s.latches ∧ (s.putTs o v).lowers = s.lowers ∧
      (s.putTs o v).core = s.core ∧ (s.putTs o v).engines = s.engines ∧ (s.putTs o v).ve = s.ve ∧
      (s.putTs o v).mem = s.mem ∧ (s.putTs o v).se = s.se ∧ (s.putTs o v).far = s.far ∧ (s.putTs o v).rings = s.rings ∧
      (s.putTs o v).sched = s.sched ∧ (s.putTs o v).lehr = s.lehr ∧ (s.putTs o v).router = s.router ∧
      (s.putTs o v).marver = s.marver ∧ (s.putTs o v).journal = s.journal ∧ (s.putTs o v).gaffer = s.gaffer ∧
      (s.putTs o v).tier = s.tier ∧ (s.putTs o v).pins = s.pins := by
  unfold State.putTs; (try dsimp only); (repeat' split) <;> simp

@[simp] theorem State.putVe_frame (s : State) (o v : Nat) :
    (s.putVe o v).pending = s.pending ∧ (s.putVe o v).nc = s.nc ∧ (s.putVe o v).free = s.free ∧
      (s.putVe o v).resp = s.resp ∧ (s.putVe o v).latches = s.latches ∧ (s.putVe o v).lowers = s.lowers ∧
      (s.putVe o v).core = s.core ∧ (s.putVe o v).engines = s.engines ∧ (s.putVe o v).stats = s.stats ∧
      (s.putVe o v).digests = s.digests ∧ (s.putVe o v).mem = s.mem ∧ (s.putVe o v).se = s.se ∧
      (s.putVe o v).far = s.far ∧ (s.putVe o v).rings = s.rings ∧ (s.putVe o v).sched = s.sched ∧
      (s.putVe o v).lehr = s.lehr ∧ (s.putVe o v).router = s.router ∧ (s.putVe o v).marver = s.marver ∧
      (s.putVe o v).journal = s.journal ∧ (s.putVe o v).gaffer = s.gaffer ∧ (s.putVe o v).tier = s.tier ∧
      (s.putVe o v).pins = s.pins := by
  unfold State.putVe; (try dsimp only); (repeat' split) <;> simp

@[simp] theorem State.gainId_frame (s : State) (id : Nat) :
    (s.gainId id).pending = s.pending ∧ (s.gainId id).nc = s.nc ∧ (s.gainId id).free = s.free ∧
      (s.gainId id).resp = s.resp ∧ (s.gainId id).latches = s.latches ∧ (s.gainId id).lowers = s.lowers ∧
      (s.gainId id).core = s.core ∧ (s.gainId id).engines = s.engines ∧ (s.gainId id).ve = s.ve ∧
      (s.gainId id).stats = s.stats ∧ (s.gainId id).digests = s.digests ∧ (s.gainId id).mem = s.mem ∧
      (s.gainId id).se = s.se ∧ (s.gainId id).far = s.far ∧ (s.gainId id).rings = s.rings ∧
      (s.gainId id).sched = s.sched ∧ (s.gainId id).router = s.router ∧ (s.gainId id).marver = s.marver ∧
      (s.gainId id).gaffer = s.gaffer ∧ (s.gainId id).tier = s.tier ∧ (s.gainId id).pins = s.pins := by
  unfold State.gainId; (try dsimp only); (repeat' split) <;> simp

@[simp] theorem State.onAct_frame (s : State) (a : Nat) (f : TimedAction → TimedAction) :
    (s.onAct a f).pending = s.pending ∧ (s.onAct a f).nc = s.nc ∧ (s.onAct a f).free = s.free ∧
      (s.onAct a f).resp = s.resp ∧ (s.onAct a f).latches = s.latches ∧ (s.onAct a f).lowers = s.lowers ∧
      (s.onAct a f).core = s.core ∧ (s.onAct a f).engines = s.engines ∧ (s.onAct a f).ve = s.ve ∧
      (s.onAct a f).stats = s.stats ∧ (s.onAct a f).digests = s.digests ∧ (s.onAct a f).mem = s.mem ∧
      (s.onAct a f).se = s.se ∧ (s.onAct a f).far = s.far ∧ (s.onAct a f).rings = s.rings ∧
      (s.onAct a f).sched = s.sched ∧ (s.onAct a f).router = s.router ∧ (s.onAct a f).marver = s.marver ∧
      (s.onAct a f).journal = s.journal ∧ (s.onAct a f).gaffer = s.gaffer ∧ (s.onAct a f).tier = s.tier ∧
      (s.onAct a f).pins = s.pins :=
  ⟨rfl, rfl, rfl, rfl, rfl, rfl, rfl, rfl, rfl, rfl, rfl, rfl, rfl, rfl, rfl, rfl, rfl, rfl, rfl, rfl, rfl, rfl⟩

@[simp] theorem State.onBar_frame (s : State) (b : Nat) (f : Barrier → Barrier) :
    (s.onBar b f).pending = s.pending ∧ (s.onBar b f).nc = s.nc ∧ (s.onBar b f).free = s.free ∧
      (s.onBar b f).resp = s.resp ∧ (s.onBar b f).latches = s.latches ∧ (s.onBar b f).lowers = s.lowers ∧
      (s.onBar b f).core = s.core ∧ (s.onBar b f).engines = s.engines ∧ (s.onBar b f).ve = s.ve ∧
      (s.onBar b f).stats = s.stats ∧ (s.onBar b f).digests = s.digests ∧ (s.onBar b f).mem = s.mem ∧
      (s.onBar b f).se = s.se ∧ (s.onBar b f).far = s.far ∧ (s.onBar b f).rings = s.rings ∧
      (s.onBar b f).sched = s.sched ∧ (s.onBar b f).router = s.router ∧ (s.onBar b f).marver = s.marver ∧
      (s.onBar b f).journal = s.journal ∧ (s.onBar b f).gaffer = s.gaffer ∧ (s.onBar b f).tier = s.tier ∧
      (s.onBar b f).pins = s.pins :=
  ⟨rfl, rfl, rfl, rfl, rfl, rfl, rfl, rfl, rfl, rfl, rfl, rfl, rfl, rfl, rfl, rfl, rfl, rfl, rfl, rfl, rfl, rfl⟩

@[simp] theorem State.onPort_frame (s : State) (p : Nat) (f : Port → Port) :
    (s.onPort p f).pending = s.pending ∧ (s.onPort p f).nc = s.nc ∧ (s.onPort p f).free = s.free ∧
      (s.onPort p f).resp = s.resp ∧ (s.onPort p f).latches = s.latches ∧ (s.onPort p f).lowers = s.lowers ∧
      (s.onPort p f).core = s.core ∧ (s.onPort p f).engines = s.engines ∧ (s.onPort p f).ve = s.ve ∧
      (s.onPort p f).stats = s.stats ∧ (s.onPort p f).digests = s.digests ∧ (s.onPort p f).mem = s.mem ∧
      (s.onPort p f).se = s.se ∧ (s.onPort p f).far = s.far ∧ (s.onPort p f).rings = s.rings ∧
      (s.onPort p f).sched = s.sched ∧ (s.onPort p f).lehr = s.lehr ∧ (s.onPort p f).marver = s.marver ∧
      (s.onPort p f).journal = s.journal ∧ (s.onPort p f).gaffer = s.gaffer ∧ (s.onPort p f).tier = s.tier ∧
      (s.onPort p f).pins = s.pins :=
  ⟨rfl, rfl, rfl, rfl, rfl, rfl, rfl, rfl, rfl, rfl, rfl, rfl, rfl, rfl, rfl, rfl, rfl, rfl, rfl, rfl, rfl, rfl⟩

@[simp] theorem State.releaseRemaps_frame (s : State) (pass stamp : DWord) :
    (s.releaseRemaps pass stamp).pending = s.pending ∧ (s.releaseRemaps pass stamp).nc = s.nc ∧
      (s.releaseRemaps pass stamp).free = s.free ∧ (s.releaseRemaps pass stamp).resp = s.resp ∧
      (s.releaseRemaps pass stamp).latches = s.latches ∧ (s.releaseRemaps pass stamp).lowers = s.lowers ∧
      (s.releaseRemaps pass stamp).core = s.core ∧ (s.releaseRemaps pass stamp).engines = s.engines ∧
      (s.releaseRemaps pass stamp).ve = s.ve ∧ (s.releaseRemaps pass stamp).stats = s.stats ∧
      (s.releaseRemaps pass stamp).digests = s.digests ∧ (s.releaseRemaps pass stamp).mem = s.mem ∧
      (s.releaseRemaps pass stamp).se = s.se ∧ (s.releaseRemaps pass stamp).far = s.far ∧
      (s.releaseRemaps pass stamp).rings = s.rings ∧ (s.releaseRemaps pass stamp).sched = s.sched ∧
      (s.releaseRemaps pass stamp).router = s.router ∧ (s.releaseRemaps pass stamp).marver = s.marver ∧
      (s.releaseRemaps pass stamp).journal = s.journal ∧ (s.releaseRemaps pass stamp).gaffer = s.gaffer ∧
      (s.releaseRemaps pass stamp).tier = s.tier ∧ (s.releaseRemaps pass stamp).pins = s.pins :=
  ⟨rfl, rfl, rfl, rfl, rfl, rfl, rfl, rfl, rfl, rfl, rfl, rfl, rfl, rfl, rfl, rfl, rfl, rfl, rfl, rfl, rfl, rfl⟩

@[simp] theorem State.loadImage_frame (s : State) (image : List Byte) :
    (s.loadImage image).pending = s.pending ∧ (s.loadImage image).nc = s.nc ∧ (s.loadImage image).free = s.free ∧
      (s.loadImage image).resp = s.resp ∧ (s.loadImage image).latches = s.latches ∧
      (s.loadImage image).lowers = s.lowers ∧ (s.loadImage image).engines = s.engines ∧ (s.loadImage image).ve = s.ve ∧
      (s.loadImage image).stats = s.stats ∧ (s.loadImage image).digests = s.digests ∧ (s.loadImage image).mem = s.mem ∧
      (s.loadImage image).se = s.se ∧ (s.loadImage image).far = s.far ∧ (s.loadImage image).rings = s.rings ∧
      (s.loadImage image).sched = s.sched ∧ (s.loadImage image).lehr = s.lehr ∧ (s.loadImage image).router = s.router ∧
      (s.loadImage image).marver = s.marver ∧ (s.loadImage image).journal = s.journal ∧
      (s.loadImage image).gaffer = s.gaffer ∧ (s.loadImage image).tier = s.tier ∧ (s.loadImage image).pins = s.pins :=
  ⟨rfl, rfl, rfl, rfl, rfl, rfl, rfl, rfl, rfl, rfl, rfl, rfl, rfl, rfl, rfl, rfl, rfl, rfl, rfl, rfl, rfl, rfl⟩

@[simp] theorem State.takeFence_frame (s : State) (f : List Byte) :
    (s.takeFence f).pending = s.pending ∧ (s.takeFence f).nc = s.nc ∧ (s.takeFence f).free = s.free ∧
      (s.takeFence f).resp = s.resp ∧ (s.takeFence f).latches = s.latches ∧ (s.takeFence f).lowers = s.lowers ∧
      (s.takeFence f).core = s.core ∧ (s.takeFence f).engines = s.engines ∧ (s.takeFence f).ve = s.ve ∧
      (s.takeFence f).stats = s.stats ∧ (s.takeFence f).digests = s.digests ∧ (s.takeFence f).mem = s.mem ∧
      (s.takeFence f).se = s.se ∧ (s.takeFence f).far = s.far ∧ (s.takeFence f).rings = s.rings ∧
      (s.takeFence f).sched = s.sched ∧ (s.takeFence f).lehr = s.lehr ∧ (s.takeFence f).router = s.router ∧
      (s.takeFence f).marver = s.marver ∧ (s.takeFence f).gaffer = s.gaffer ∧ (s.takeFence f).tier = s.tier ∧
      (s.takeFence f).pins = s.pins :=
  ⟨rfl, rfl, rfl, rfl, rfl, rfl, rfl, rfl, rfl, rfl, rfl, rfl, rfl, rfl, rfl, rfl, rfl, rfl, rfl, rfl, rfl, rfl⟩

@[simp] theorem State.kilnStored_frame (s : State) (torn : Bool) :
    (s.kilnStored torn).pending = s.pending ∧ (s.kilnStored torn).nc = s.nc ∧ (s.kilnStored torn).resp = s.resp ∧
      (s.kilnStored torn).latches = s.latches ∧ (s.kilnStored torn).lowers = s.lowers ∧
      (s.kilnStored torn).core = s.core ∧ (s.kilnStored torn).engines = s.engines ∧ (s.kilnStored torn).ve = s.ve ∧
      (s.kilnStored torn).stats = s.stats ∧ (s.kilnStored torn).digests = s.digests ∧ (s.kilnStored torn).mem = s.mem ∧
      (s.kilnStored torn).se = s.se ∧ (s.kilnStored torn).far = s.far ∧ (s.kilnStored torn).rings = s.rings ∧
      (s.kilnStored torn).sched = s.sched ∧ (s.kilnStored torn).lehr = s.lehr ∧ (s.kilnStored torn).router = s.router ∧
      (s.kilnStored torn).marver = s.marver ∧ (s.kilnStored torn).journal = s.journal ∧
      (s.kilnStored torn).tier = s.tier ∧ (s.kilnStored torn).pins = s.pins := by
  unfold State.kilnStored; (try dsimp only); (repeat' split) <;> simp

@[simp] theorem State.startMouldStore_frame (s : State) :
    s.startMouldStore.pending = s.pending ∧ s.startMouldStore.nc = s.nc ∧ s.startMouldStore.free = s.free ∧
      s.startMouldStore.resp = s.resp ∧ s.startMouldStore.latches = s.latches ∧ s.startMouldStore.lowers = s.lowers ∧
      s.startMouldStore.core = s.core ∧ s.startMouldStore.engines = s.engines ∧ s.startMouldStore.ve = s.ve ∧
      s.startMouldStore.stats = s.stats ∧ s.startMouldStore.digests = s.digests ∧ s.startMouldStore.mem = s.mem ∧
      s.startMouldStore.se = s.se ∧ s.startMouldStore.far = s.far ∧ s.startMouldStore.rings = s.rings ∧
      s.startMouldStore.sched = s.sched ∧ s.startMouldStore.lehr = s.lehr ∧ s.startMouldStore.router = s.router ∧
      s.startMouldStore.marver = s.marver ∧ s.startMouldStore.journal = s.journal ∧ s.startMouldStore.tier = s.tier ∧
      s.startMouldStore.pins = s.pins := by
  unfold State.startMouldStore; (try dsimp only); (repeat' split) <;> simp

@[simp] theorem State.toReset_frame (s : State) (p : Straps) (sel : BitVec 2) (ovr : Bool) :
    (s.toReset p sel ovr).pending = s.pending ∧ (s.toReset p sel ovr).free = s.free ∧
      (s.toReset p sel ovr).pins = s.pins :=
  ⟨rfl, rfl, rfl⟩

@[simp] theorem State.acceptData_frame (s : State) (m : Message) (stamp : DWord) :
    (s.acceptData m stamp).pending = s.pending ∧ (s.acceptData m stamp).nc = s.nc ∧
      (s.acceptData m stamp).free = s.free ∧ (s.acceptData m stamp).resp = s.resp ∧
      (s.acceptData m stamp).latches = s.latches ∧ (s.acceptData m stamp).lowers = s.lowers ∧
      (s.acceptData m stamp).core = s.core ∧ (s.acceptData m stamp).engines = s.engines ∧
      (s.acceptData m stamp).ve = s.ve ∧ (s.acceptData m stamp).stats = s.stats ∧
      (s.acceptData m stamp).digests = s.digests ∧ (s.acceptData m stamp).mem = s.mem ∧
      (s.acceptData m stamp).se = s.se ∧ (s.acceptData m stamp).far = s.far ∧ (s.acceptData m stamp).sched = s.sched ∧
      (s.acceptData m stamp).lehr = s.lehr ∧ (s.acceptData m stamp).router = s.router ∧
      (s.acceptData m stamp).marver = s.marver ∧ (s.acceptData m stamp).journal = s.journal ∧
      (s.acceptData m stamp).gaffer = s.gaffer ∧ (s.acceptData m stamp).tier = s.tier ∧
      (s.acceptData m stamp).pins = s.pins :=
  ⟨rfl, rfl, rfl, rfl, rfl, rfl, rfl, rfl, rfl, rfl, rfl, rfl, rfl, rfl, rfl, rfl, rfl, rfl, rfl, rfl, rfl, rfl⟩

@[simp] theorem State.setInbox_frame (s : State) (l : List Inbound) :
    (s.setInbox l).pending = s.pending ∧ (s.setInbox l).nc = s.nc ∧ (s.setInbox l).free = s.free ∧
      (s.setInbox l).resp = s.resp ∧ (s.setInbox l).latches = s.latches ∧ (s.setInbox l).lowers = s.lowers ∧
      (s.setInbox l).core = s.core ∧ (s.setInbox l).engines = s.engines ∧ (s.setInbox l).ve = s.ve ∧
      (s.setInbox l).stats = s.stats ∧ (s.setInbox l).digests = s.digests ∧ (s.setInbox l).mem = s.mem ∧
      (s.setInbox l).se = s.se ∧ (s.setInbox l).far = s.far ∧ (s.setInbox l).rings = s.rings ∧
      (s.setInbox l).sched = s.sched ∧ (s.setInbox l).lehr = s.lehr ∧ (s.setInbox l).marver = s.marver ∧
      (s.setInbox l).journal = s.journal ∧ (s.setInbox l).gaffer = s.gaffer ∧ (s.setInbox l).tier = s.tier ∧
      (s.setInbox l).pins = s.pins :=
  ⟨rfl, rfl, rfl, rfl, rfl, rfl, rfl, rfl, rfl, rfl, rfl, rfl, rfl, rfl, rfl, rfl, rfl, rfl, rfl, rfl, rfl, rfl⟩

@[simp] theorem State.setRtStat_frame (s : State) (i : Nat) :
    (s.setRtStat i).pending = s.pending ∧ (s.setRtStat i).nc = s.nc ∧ (s.setRtStat i).free = s.free ∧
      (s.setRtStat i).resp = s.resp ∧ (s.setRtStat i).latches = s.latches ∧ (s.setRtStat i).lowers = s.lowers ∧
      (s.setRtStat i).core = s.core ∧ (s.setRtStat i).engines = s.engines ∧ (s.setRtStat i).ve = s.ve ∧
      (s.setRtStat i).stats = s.stats ∧ (s.setRtStat i).digests = s.digests ∧ (s.setRtStat i).mem = s.mem ∧
      (s.setRtStat i).se = s.se ∧ (s.setRtStat i).far = s.far ∧ (s.setRtStat i).rings = s.rings ∧
      (s.setRtStat i).sched = s.sched ∧ (s.setRtStat i).lehr = s.lehr ∧ (s.setRtStat i).marver = s.marver ∧
      (s.setRtStat i).journal = s.journal ∧ (s.setRtStat i).gaffer = s.gaffer ∧ (s.setRtStat i).tier = s.tier ∧
      (s.setRtStat i).pins = s.pins :=
  ⟨rfl, rfl, rfl, rfl, rfl, rfl, rfl, rfl, rfl, rfl, rfl, rfl, rfl, rfl, rfl, rfl, rfl, rfl, rfl, rfl, rfl, rfl⟩

@[simp] theorem State.countSend_frame (s : State) (e : Nat) :
    (s.countSend e).pending = s.pending ∧ (s.countSend e).nc = s.nc ∧ (s.countSend e).free = s.free ∧
      (s.countSend e).resp = s.resp ∧ (s.countSend e).latches = s.latches ∧ (s.countSend e).lowers = s.lowers ∧
      (s.countSend e).core = s.core ∧ (s.countSend e).engines = s.engines ∧ (s.countSend e).ve = s.ve ∧
      (s.countSend e).stats = s.stats ∧ (s.countSend e).digests = s.digests ∧ (s.countSend e).mem = s.mem ∧
      (s.countSend e).se = s.se ∧ (s.countSend e).far = s.far ∧ (s.countSend e).sched = s.sched ∧
      (s.countSend e).lehr = s.lehr ∧ (s.countSend e).router = s.router ∧ (s.countSend e).marver = s.marver ∧
      (s.countSend e).journal = s.journal ∧ (s.countSend e).gaffer = s.gaffer ∧ (s.countSend e).tier = s.tier ∧
      (s.countSend e).pins = s.pins :=
  ⟨rfl, rfl, rfl, rfl, rfl, rfl, rfl, rfl, rfl, rfl, rfl, rfl, rfl, rfl, rfl, rfl, rfl, rfl, rfl, rfl, rfl, rfl⟩

@[simp] theorem State.snapPoint_frame (s : State) :
    s.snapPoint.pending = s.pending ∧ s.snapPoint.nc = s.nc ∧ s.snapPoint.free = s.free ∧ s.snapPoint.resp = s.resp ∧
      s.snapPoint.latches = s.latches ∧ s.snapPoint.lowers = s.lowers ∧ s.snapPoint.core = s.core ∧
      s.snapPoint.engines = s.engines ∧ s.snapPoint.ve = s.ve ∧ s.snapPoint.stats = s.stats ∧
      s.snapPoint.digests = s.digests ∧ s.snapPoint.mem = s.mem ∧ s.snapPoint.se = s.se ∧ s.snapPoint.far = s.far ∧
      s.snapPoint.rings = s.rings ∧ s.snapPoint.sched = s.sched ∧ s.snapPoint.lehr = s.lehr ∧
      s.snapPoint.router = s.router ∧ s.snapPoint.marver = s.marver ∧ s.snapPoint.gaffer = s.gaffer ∧
      s.snapPoint.tier = s.tier ∧ s.snapPoint.pins = s.pins := by
  unfold State.snapPoint; (try dsimp only); (repeat' split) <;> simp

@[simp] theorem State.addXfer_frame (s : State) (x : Xfer) :
    (s.addXfer x).pending = s.pending ∧ (s.addXfer x).nc = s.nc ∧ (s.addXfer x).free = s.free ∧
      (s.addXfer x).resp = s.resp ∧ (s.addXfer x).latches = s.latches ∧ (s.addXfer x).lowers = s.lowers ∧
      (s.addXfer x).core = s.core ∧ (s.addXfer x).engines = s.engines ∧ (s.addXfer x).ve = s.ve ∧
      (s.addXfer x).stats = s.stats ∧ (s.addXfer x).digests = s.digests ∧ (s.addXfer x).mem = s.mem ∧
      (s.addXfer x).far = s.far ∧ (s.addXfer x).rings = s.rings ∧ (s.addXfer x).sched = s.sched ∧
      (s.addXfer x).lehr = s.lehr ∧ (s.addXfer x).router = s.router ∧ (s.addXfer x).marver = s.marver ∧
      (s.addXfer x).journal = s.journal ∧ (s.addXfer x).gaffer = s.gaffer ∧ (s.addXfer x).tier = s.tier ∧
      (s.addXfer x).pins = s.pins :=
  ⟨rfl, rfl, rfl, rfl, rfl, rfl, rfl, rfl, rfl, rfl, rfl, rfl, rfl, rfl, rfl, rfl, rfl, rfl, rfl, rfl, rfl, rfl⟩

@[simp] theorem State.askWalk_frame (s : State) (id addr : Nat) (write : Bool) :
    (s.askWalk id addr write).pending = s.pending ∧ (s.askWalk id addr write).nc = s.nc ∧
      (s.askWalk id addr write).free = s.free ∧ (s.askWalk id addr write).resp = s.resp ∧
      (s.askWalk id addr write).latches = s.latches ∧ (s.askWalk id addr write).lowers = s.lowers ∧
      (s.askWalk id addr write).core = s.core ∧ (s.askWalk id addr write).engines = s.engines ∧
      (s.askWalk id addr write).ve = s.ve ∧ (s.askWalk id addr write).stats = s.stats ∧
      (s.askWalk id addr write).digests = s.digests ∧ (s.askWalk id addr write).mem = s.mem ∧
      (s.askWalk id addr write).far = s.far ∧ (s.askWalk id addr write).rings = s.rings ∧
      (s.askWalk id addr write).sched = s.sched ∧ (s.askWalk id addr write).lehr = s.lehr ∧
      (s.askWalk id addr write).router = s.router ∧ (s.askWalk id addr write).marver = s.marver ∧
      (s.askWalk id addr write).journal = s.journal ∧ (s.askWalk id addr write).gaffer = s.gaffer ∧
      (s.askWalk id addr write).tier = s.tier ∧ (s.askWalk id addr write).pins = s.pins := by
  unfold State.askWalk; (try dsimp only); (repeat' split) <;> simp

@[simp] theorem State.onCtx_frame (s : State) (id : Nat) (f : StreamCtx → StreamCtx) :
    (s.onCtx id f).pending = s.pending ∧ (s.onCtx id f).nc = s.nc ∧ (s.onCtx id f).free = s.free ∧
      (s.onCtx id f).resp = s.resp ∧ (s.onCtx id f).latches = s.latches ∧ (s.onCtx id f).lowers = s.lowers ∧
      (s.onCtx id f).core = s.core ∧ (s.onCtx id f).engines = s.engines ∧ (s.onCtx id f).ve = s.ve ∧
      (s.onCtx id f).stats = s.stats ∧ (s.onCtx id f).digests = s.digests ∧ (s.onCtx id f).mem = s.mem ∧
      (s.onCtx id f).far = s.far ∧ (s.onCtx id f).rings = s.rings ∧ (s.onCtx id f).sched = s.sched ∧
      (s.onCtx id f).lehr = s.lehr ∧ (s.onCtx id f).router = s.router ∧ (s.onCtx id f).marver = s.marver ∧
      (s.onCtx id f).journal = s.journal ∧ (s.onCtx id f).gaffer = s.gaffer ∧ (s.onCtx id f).tier = s.tier ∧
      (s.onCtx id f).pins = s.pins :=
  ⟨rfl, rfl, rfl, rfl, rfl, rfl, rfl, rfl, rfl, rfl, rfl, rfl, rfl, rfl, rfl, rfl, rfl, rfl, rfl, rfl, rfl, rfl⟩

@[simp] theorem State.streamsEnterRun_frame (s : State) :
    s.streamsEnterRun.pending = s.pending ∧ s.streamsEnterRun.nc = s.nc ∧ s.streamsEnterRun.free = s.free ∧
      s.streamsEnterRun.resp = s.resp ∧ s.streamsEnterRun.latches = s.latches ∧ s.streamsEnterRun.lowers = s.lowers ∧
      s.streamsEnterRun.core = s.core ∧ s.streamsEnterRun.engines = s.engines ∧ s.streamsEnterRun.ve = s.ve ∧
      s.streamsEnterRun.stats = s.stats ∧ s.streamsEnterRun.digests = s.digests ∧ s.streamsEnterRun.mem = s.mem ∧
      s.streamsEnterRun.far = s.far ∧ s.streamsEnterRun.rings = s.rings ∧ s.streamsEnterRun.sched = s.sched ∧
      s.streamsEnterRun.lehr = s.lehr ∧ s.streamsEnterRun.router = s.router ∧ s.streamsEnterRun.marver = s.marver ∧
      s.streamsEnterRun.journal = s.journal ∧ s.streamsEnterRun.gaffer = s.gaffer ∧ s.streamsEnterRun.tier = s.tier ∧
      s.streamsEnterRun.pins = s.pins :=
  ⟨rfl, rfl, rfl, rfl, rfl, rfl, rfl, rfl, rfl, rfl, rfl, rfl, rfl, rfl, rfl, rfl, rfl, rfl, rfl, rfl, rfl, rfl⟩

@[simp] theorem State.tlbClear_frame (s : State) :
    s.tlbClear.pending = s.pending ∧ s.tlbClear.nc = s.nc ∧ s.tlbClear.free = s.free ∧ s.tlbClear.resp = s.resp ∧
      s.tlbClear.latches = s.latches ∧ s.tlbClear.lowers = s.lowers ∧ s.tlbClear.core = s.core ∧
      s.tlbClear.engines = s.engines ∧ s.tlbClear.ve = s.ve ∧ s.tlbClear.stats = s.stats ∧
      s.tlbClear.digests = s.digests ∧ s.tlbClear.mem = s.mem ∧ s.tlbClear.far = s.far ∧ s.tlbClear.rings = s.rings ∧
      s.tlbClear.sched = s.sched ∧ s.tlbClear.lehr = s.lehr ∧ s.tlbClear.router = s.router ∧
      s.tlbClear.marver = s.marver ∧ s.tlbClear.journal = s.journal ∧ s.tlbClear.gaffer = s.gaffer ∧
      s.tlbClear.tier = s.tier ∧ s.tlbClear.pins = s.pins :=
  ⟨rfl, rfl, rfl, rfl, rfl, rfl, rfl, rfl, rfl, rfl, rfl, rfl, rfl, rfl, rfl, rfl, rfl, rfl, rfl, rfl, rfl, rfl⟩

@[simp] theorem State.onTask_frame (s : State) (t : Nat) (f : Task → Task) :
    (s.onTask t f).pending = s.pending ∧ (s.onTask t f).nc = s.nc ∧ (s.onTask t f).free = s.free ∧
      (s.onTask t f).resp = s.resp ∧ (s.onTask t f).latches = s.latches ∧ (s.onTask t f).lowers = s.lowers ∧
      (s.onTask t f).engines = s.engines ∧ (s.onTask t f).ve = s.ve ∧ (s.onTask t f).stats = s.stats ∧
      (s.onTask t f).digests = s.digests ∧ (s.onTask t f).mem = s.mem ∧ (s.onTask t f).se = s.se ∧
      (s.onTask t f).far = s.far ∧ (s.onTask t f).rings = s.rings ∧ (s.onTask t f).sched = s.sched ∧
      (s.onTask t f).lehr = s.lehr ∧ (s.onTask t f).router = s.router ∧ (s.onTask t f).marver = s.marver ∧
      (s.onTask t f).journal = s.journal ∧ (s.onTask t f).gaffer = s.gaffer ∧ (s.onTask t f).tier = s.tier ∧
      (s.onTask t f).pins = s.pins :=
  ⟨rfl, rfl, rfl, rfl, rfl, rfl, rfl, rfl, rfl, rfl, rfl, rfl, rfl, rfl, rfl, rfl, rfl, rfl, rfl, rfl, rfl, rfl⟩

@[simp] theorem State.supplyRequest_frame (s : State) :
    s.supplyRequest.pending = s.pending ∧ s.supplyRequest.nc = s.nc ∧ s.supplyRequest.free = s.free ∧
      s.supplyRequest.resp = s.resp ∧ s.supplyRequest.latches = s.latches ∧ s.supplyRequest.lowers = s.lowers ∧
      s.supplyRequest.core = s.core ∧ s.supplyRequest.engines = s.engines ∧ s.supplyRequest.ve = s.ve ∧
      s.supplyRequest.stats = s.stats ∧ s.supplyRequest.digests = s.digests ∧ s.supplyRequest.mem = s.mem ∧
      s.supplyRequest.se = s.se ∧ s.supplyRequest.far = s.far ∧ s.supplyRequest.rings = s.rings ∧
      s.supplyRequest.sched = s.sched ∧ s.supplyRequest.lehr = s.lehr ∧ s.supplyRequest.router = s.router ∧
      s.supplyRequest.marver = s.marver ∧ s.supplyRequest.journal = s.journal ∧ s.supplyRequest.gaffer = s.gaffer ∧
      s.supplyRequest.pins = s.pins :=
  ⟨rfl, rfl, rfl, rfl, rfl, rfl, rfl, rfl, rfl, rfl, rfl, rfl, rfl, rfl, rfl, rfl, rfl, rfl, rfl, rfl, rfl, rfl⟩

@[simp] theorem State.onVe_frame (s : State) (f : VectorEngine → VectorEngine) :
    (s.onVe f).pending = s.pending ∧ (s.onVe f).nc = s.nc ∧ (s.onVe f).free = s.free ∧ (s.onVe f).resp = s.resp ∧
      (s.onVe f).latches = s.latches ∧ (s.onVe f).lowers = s.lowers ∧ (s.onVe f).core = s.core ∧
      (s.onVe f).engines = s.engines ∧ (s.onVe f).stats = s.stats ∧ (s.onVe f).digests = s.digests ∧
      (s.onVe f).mem = s.mem ∧ (s.onVe f).se = s.se ∧ (s.onVe f).far = s.far ∧ (s.onVe f).rings = s.rings ∧
      (s.onVe f).sched = s.sched ∧ (s.onVe f).lehr = s.lehr ∧ (s.onVe f).router = s.router ∧
      (s.onVe f).marver = s.marver ∧ (s.onVe f).journal = s.journal ∧ (s.onVe f).gaffer = s.gaffer ∧
      (s.onVe f).tier = s.tier ∧ (s.onVe f).pins = s.pins :=
  ⟨rfl, rfl, rfl, rfl, rfl, rfl, rfl, rfl, rfl, rfl, rfl, rfl, rfl, rfl, rfl, rfl, rfl, rfl, rfl, rfl, rfl, rfl⟩

@[simp] theorem State.armEntry_frame (s : State) (a : Nat) (kind : BitVec 4) (target : DWord) (arg : Word) (replay : Bool) :
    (s.armEntry a kind target arg replay).pending = s.pending ∧ (s.armEntry a kind target arg replay).nc = s.nc ∧
      (s.armEntry a kind target arg replay).free = s.free ∧ (s.armEntry a kind target arg replay).resp = s.resp ∧
      (s.armEntry a kind target arg replay).latches = s.latches ∧
      (s.armEntry a kind target arg replay).lowers = s.lowers ∧ (s.armEntry a kind target arg replay).core = s.core ∧
      (s.armEntry a kind target arg replay).engines = s.engines ∧ (s.armEntry a kind target arg replay).ve = s.ve ∧
      (s.armEntry a kind target arg replay).stats = s.stats ∧
      (s.armEntry a kind target arg replay).digests = s.digests ∧ (s.armEntry a kind target arg replay).mem = s.mem ∧
      (s.armEntry a kind target arg replay).se = s.se ∧ (s.armEntry a kind target arg replay).far = s.far ∧
      (s.armEntry a kind target arg replay).rings = s.rings ∧ (s.armEntry a kind target arg replay).sched = s.sched ∧
      (s.armEntry a kind target arg replay).router = s.router ∧
      (s.armEntry a kind target arg replay).marver = s.marver ∧
      (s.armEntry a kind target arg replay).journal = s.journal ∧
      (s.armEntry a kind target arg replay).gaffer = s.gaffer ∧ (s.armEntry a kind target arg replay).tier = s.tier ∧
      (s.armEntry a kind target arg replay).pins = s.pins :=
  ⟨rfl, rfl, rfl, rfl, rfl, rfl, rfl, rfl, rfl, rfl, rfl, rfl, rfl, rfl, rfl, rfl, rfl, rfl, rfl, rfl, rfl, rfl⟩

@[simp] theorem State.missAct_frame (s : State) (a : Nat) :
    (s.missAct a).pending = s.pending ∧ (s.missAct a).nc = s.nc ∧ (s.missAct a).free = s.free ∧
      (s.missAct a).resp = s.resp ∧ (s.missAct a).latches = s.latches ∧ (s.missAct a).lowers = s.lowers ∧
      (s.missAct a).core = s.core ∧ (s.missAct a).engines = s.engines ∧ (s.missAct a).ve = s.ve ∧
      (s.missAct a).stats = s.stats ∧ (s.missAct a).digests = s.digests ∧ (s.missAct a).mem = s.mem ∧
      (s.missAct a).se = s.se ∧ (s.missAct a).far = s.far ∧ (s.missAct a).rings = s.rings ∧
      (s.missAct a).sched = s.sched ∧ (s.missAct a).router = s.router ∧ (s.missAct a).marver = s.marver ∧
      (s.missAct a).journal = s.journal ∧ (s.missAct a).tier = s.tier ∧ (s.missAct a).pins = s.pins := by
  unfold State.missAct; (try dsimp only); (repeat' split) <;> simp

@[simp] theorem State.applyRelease_frame (s : State) (m : Message) (stamp : DWord) :
    (s.applyRelease m stamp).pending = s.pending ∧ (s.applyRelease m stamp).nc = s.nc ∧
      (s.applyRelease m stamp).free = s.free ∧ (s.applyRelease m stamp).resp = s.resp ∧
      (s.applyRelease m stamp).latches = s.latches ∧ (s.applyRelease m stamp).lowers = s.lowers ∧
      (s.applyRelease m stamp).core = s.core ∧ (s.applyRelease m stamp).engines = s.engines ∧
      (s.applyRelease m stamp).ve = s.ve ∧ (s.applyRelease m stamp).stats = s.stats ∧
      (s.applyRelease m stamp).digests = s.digests ∧ (s.applyRelease m stamp).mem = s.mem ∧
      (s.applyRelease m stamp).se = s.se ∧ (s.applyRelease m stamp).far = s.far ∧
      (s.applyRelease m stamp).rings = s.rings ∧ (s.applyRelease m stamp).sched = s.sched ∧
      (s.applyRelease m stamp).router = s.router ∧ (s.applyRelease m stamp).marver = s.marver ∧
      (s.applyRelease m stamp).journal = s.journal ∧ (s.applyRelease m stamp).gaffer = s.gaffer ∧
      (s.applyRelease m stamp).tier = s.tier ∧ (s.applyRelease m stamp).pins = s.pins := by
  unfold State.applyRelease; (try dsimp only); (repeat' split) <;> simp

@[simp] theorem State.configureBar_frame (s : State) (e : Word × Word × Word) :
    (s.configureBar e).pending = s.pending ∧ (s.configureBar e).nc = s.nc ∧ (s.configureBar e).free = s.free ∧
      (s.configureBar e).resp = s.resp ∧ (s.configureBar e).latches = s.latches ∧ (s.configureBar e).lowers = s.lowers ∧
      (s.configureBar e).core = s.core ∧ (s.configureBar e).engines = s.engines ∧ (s.configureBar e).ve = s.ve ∧
      (s.configureBar e).stats = s.stats ∧ (s.configureBar e).digests = s.digests ∧ (s.configureBar e).mem = s.mem ∧
      (s.configureBar e).se = s.se ∧ (s.configureBar e).far = s.far ∧ (s.configureBar e).rings = s.rings ∧
      (s.configureBar e).sched = s.sched ∧ (s.configureBar e).router = s.router ∧ (s.configureBar e).marver = s.marver ∧
      (s.configureBar e).journal = s.journal ∧ (s.configureBar e).gaffer = s.gaffer ∧ (s.configureBar e).tier = s.tier ∧
      (s.configureBar e).pins = s.pins :=
  ⟨rfl, rfl, rfl, rfl, rfl, rfl, rfl, rfl, rfl, rfl, rfl, rfl, rfl, rfl, rfl, rfl, rfl, rfl, rfl, rfl, rfl, rfl⟩

@[simp] theorem State.foldDigest_frame (s : State) (e osid : Nat) (digest : DWord) (seq : Word) :
    (s.foldDigest e osid digest seq).pending = s.pending ∧ (s.foldDigest e osid digest seq).nc = s.nc ∧
      (s.foldDigest e osid digest seq).free = s.free ∧ (s.foldDigest e osid digest seq).resp = s.resp ∧
      (s.foldDigest e osid digest seq).latches = s.latches ∧ (s.foldDigest e osid digest seq).lowers = s.lowers ∧
      (s.foldDigest e osid digest seq).core = s.core ∧ (s.foldDigest e osid digest seq).engines = s.engines ∧
      (s.foldDigest e osid digest seq).ve = s.ve ∧ (s.foldDigest e osid digest seq).stats = s.stats ∧
      (s.foldDigest e osid digest seq).se = s.se ∧ (s.foldDigest e osid digest seq).far = s.far ∧
      (s.foldDigest e osid digest seq).rings = s.rings ∧ (s.foldDigest e osid digest seq).sched = s.sched ∧
      (s.foldDigest e osid digest seq).lehr = s.lehr ∧ (s.foldDigest e osid digest seq).router = s.router ∧
      (s.foldDigest e osid digest seq).marver = s.marver ∧ (s.foldDigest e osid digest seq).gaffer = s.gaffer ∧
      (s.foldDigest e osid digest seq).tier = s.tier ∧ (s.foldDigest e osid digest seq).pins = s.pins := by
  unfold State.foldDigest; (try dsimp only); (repeat' split) <;> simp

@[simp] theorem State.waitNow_frame (s : State) (t : Nat) (c : WaitCause) :
    (s.waitNow t c).pending = s.pending ∧ (s.waitNow t c).nc = s.nc ∧ (s.waitNow t c).free = s.free ∧
      (s.waitNow t c).resp = s.resp ∧ (s.waitNow t c).latches = s.latches ∧ (s.waitNow t c).lowers = s.lowers ∧
      (s.waitNow t c).engines = s.engines ∧ (s.waitNow t c).ve = s.ve ∧ (s.waitNow t c).stats = s.stats ∧
      (s.waitNow t c).digests = s.digests ∧ (s.waitNow t c).mem = s.mem ∧ (s.waitNow t c).se = s.se ∧
      (s.waitNow t c).far = s.far ∧ (s.waitNow t c).rings = s.rings ∧ (s.waitNow t c).sched = s.sched ∧
      (s.waitNow t c).lehr = s.lehr ∧ (s.waitNow t c).router = s.router ∧ (s.waitNow t c).marver = s.marver ∧
      (s.waitNow t c).journal = s.journal ∧ (s.waitNow t c).gaffer = s.gaffer ∧ (s.waitNow t c).tier = s.tier ∧
      (s.waitNow t c).pins = s.pins := by
  unfold State.waitNow; (try dsimp only); (repeat' split) <;> simp

@[simp] theorem State.traceStarved_frame (s : State) :
    s.traceStarved.pending = s.pending ∧ s.traceStarved.nc = s.nc ∧ s.traceStarved.free = s.free ∧
      s.traceStarved.resp = s.resp ∧ s.traceStarved.latches = s.latches ∧ s.traceStarved.lowers = s.lowers ∧
      s.traceStarved.core = s.core ∧ s.traceStarved.engines = s.engines ∧ s.traceStarved.ve = s.ve ∧
      s.traceStarved.stats = s.stats ∧ s.traceStarved.digests = s.digests ∧ s.traceStarved.mem = s.mem ∧
      s.traceStarved.se = s.se ∧ s.traceStarved.far = s.far ∧ s.traceStarved.rings = s.rings ∧
      s.traceStarved.sched = s.sched ∧ s.traceStarved.lehr = s.lehr ∧ s.traceStarved.router = s.router ∧
      s.traceStarved.marver = s.marver ∧ s.traceStarved.tier = s.tier ∧ s.traceStarved.pins = s.pins := by
  unfold State.traceStarved; (try dsimp only); (repeat' split) <;> simp

@[simp] theorem State.clearLink_frame (s : State) (p : Nat) :
    (s.clearLink p).pending = s.pending ∧ (s.clearLink p).nc = s.nc ∧ (s.clearLink p).free = s.free ∧
      (s.clearLink p).resp = s.resp ∧ (s.clearLink p).latches = s.latches ∧ (s.clearLink p).lowers = s.lowers ∧
      (s.clearLink p).core = s.core ∧ (s.clearLink p).engines = s.engines ∧ (s.clearLink p).ve = s.ve ∧
      (s.clearLink p).stats = s.stats ∧ (s.clearLink p).digests = s.digests ∧ (s.clearLink p).mem = s.mem ∧
      (s.clearLink p).se = s.se ∧ (s.clearLink p).far = s.far ∧ (s.clearLink p).rings = s.rings ∧
      (s.clearLink p).sched = s.sched ∧ (s.clearLink p).lehr = s.lehr ∧ (s.clearLink p).marver = s.marver ∧
      (s.clearLink p).journal = s.journal ∧ (s.clearLink p).gaffer = s.gaffer ∧ (s.clearLink p).tier = s.tier ∧
      (s.clearLink p).pins = s.pins := by
  unfold State.clearLink; (try dsimp only); (repeat' split) <;> simp

@[simp] theorem State.startTraining_frame (s : State) (p : Nat) :
    (s.startTraining p).pending = s.pending ∧ (s.startTraining p).nc = s.nc ∧ (s.startTraining p).free = s.free ∧
      (s.startTraining p).resp = s.resp ∧ (s.startTraining p).latches = s.latches ∧
      (s.startTraining p).lowers = s.lowers ∧ (s.startTraining p).core = s.core ∧
      (s.startTraining p).engines = s.engines ∧ (s.startTraining p).ve = s.ve ∧ (s.startTraining p).stats = s.stats ∧
      (s.startTraining p).digests = s.digests ∧ (s.startTraining p).mem = s.mem ∧ (s.startTraining p).se = s.se ∧
      (s.startTraining p).far = s.far ∧ (s.startTraining p).rings = s.rings ∧ (s.startTraining p).sched = s.sched ∧
      (s.startTraining p).lehr = s.lehr ∧ (s.startTraining p).marver = s.marver ∧
      (s.startTraining p).journal = s.journal ∧ (s.startTraining p).gaffer = s.gaffer ∧
      (s.startTraining p).tier = s.tier ∧ (s.startTraining p).pins = s.pins := by
  unfold State.startTraining; (try dsimp only); (repeat' split) <;> simp

@[simp] theorem State.mvSkip_frame (s : State) (i : Nat) (bad : Bool) :
    (s.mvSkip i bad).pending = s.pending ∧ (s.mvSkip i bad).nc = s.nc ∧ (s.mvSkip i bad).free = s.free ∧
      (s.mvSkip i bad).resp = s.resp ∧ (s.mvSkip i bad).latches = s.latches ∧ (s.mvSkip i bad).lowers = s.lowers ∧
      (s.mvSkip i bad).core = s.core ∧ (s.mvSkip i bad).engines = s.engines ∧ (s.mvSkip i bad).ve = s.ve ∧
      (s.mvSkip i bad).stats = s.stats ∧ (s.mvSkip i bad).digests = s.digests ∧ (s.mvSkip i bad).mem = s.mem ∧
      (s.mvSkip i bad).se = s.se ∧ (s.mvSkip i bad).far = s.far ∧ (s.mvSkip i bad).rings = s.rings ∧
      (s.mvSkip i bad).sched = s.sched ∧ (s.mvSkip i bad).lehr = s.lehr ∧ (s.mvSkip i bad).router = s.router ∧
      (s.mvSkip i bad).journal = s.journal ∧ (s.mvSkip i bad).tier = s.tier ∧ (s.mvSkip i bad).pins = s.pins := by
  unfold State.mvSkip; (try dsimp only); (repeat' split) <;> simp

@[simp] theorem State.mvPublish_frame (s : State) (i q : Nat) (ws : List Nat) :
    (s.mvPublish i q ws).pending = s.pending ∧ (s.mvPublish i q ws).nc = s.nc ∧ (s.mvPublish i q ws).free = s.free ∧
      (s.mvPublish i q ws).resp = s.resp ∧ (s.mvPublish i q ws).latches = s.latches ∧
      (s.mvPublish i q ws).lowers = s.lowers ∧ (s.mvPublish i q ws).core = s.core ∧
      (s.mvPublish i q ws).engines = s.engines ∧ (s.mvPublish i q ws).ve = s.ve ∧ (s.mvPublish i q ws).stats = s.stats ∧
      (s.mvPublish i q ws).digests = s.digests ∧ (s.mvPublish i q ws).mem = s.mem ∧ (s.mvPublish i q ws).se = s.se ∧
      (s.mvPublish i q ws).far = s.far ∧ (s.mvPublish i q ws).rings = s.rings ∧ (s.mvPublish i q ws).sched = s.sched ∧
      (s.mvPublish i q ws).lehr = s.lehr ∧ (s.mvPublish i q ws).router = s.router ∧
      (s.mvPublish i q ws).journal = s.journal ∧ (s.mvPublish i q ws).gaffer = s.gaffer ∧
      (s.mvPublish i q ws).tier = s.tier ∧ (s.mvPublish i q ws).pins = s.pins := by
  unfold State.mvPublish; (try dsimp only); (repeat' split) <;> simp

@[simp] theorem State.charge_frame (s : State) (e n : Nat) :
    (s.charge e n).pending = s.pending ∧ (s.charge e n).nc = s.nc ∧ (s.charge e n).free = s.free ∧
      (s.charge e n).resp = s.resp ∧ (s.charge e n).latches = s.latches ∧ (s.charge e n).lowers = s.lowers ∧
      (s.charge e n).core = s.core ∧ (s.charge e n).engines = s.engines ∧ (s.charge e n).ve = s.ve ∧
      (s.charge e n).stats = s.stats ∧ (s.charge e n).digests = s.digests ∧ (s.charge e n).mem = s.mem ∧
      (s.charge e n).se = s.se ∧ (s.charge e n).far = s.far ∧ (s.charge e n).sched = s.sched ∧
      (s.charge e n).lehr = s.lehr ∧ (s.charge e n).router = s.router ∧ (s.charge e n).marver = s.marver ∧
      (s.charge e n).journal = s.journal ∧ (s.charge e n).gaffer = s.gaffer ∧ (s.charge e n).tier = s.tier ∧
      (s.charge e n).pins = s.pins :=
  ⟨rfl, rfl, rfl, rfl, rfl, rfl, rfl, rfl, rfl, rfl, rfl, rfl, rfl, rfl, rfl, rfl, rfl, rfl, rfl, rfl, rfl, rfl⟩

@[simp] theorem State.countWindow_frame (s : State) (lane tag amount : Nat) (stamp : DWord) :
    (s.countWindow lane tag amount stamp).pending = s.pending ∧ (s.countWindow lane tag amount stamp).nc = s.nc ∧
      (s.countWindow lane tag amount stamp).free = s.free ∧ (s.countWindow lane tag amount stamp).resp = s.resp ∧
      (s.countWindow lane tag amount stamp).latches = s.latches ∧
      (s.countWindow lane tag amount stamp).lowers = s.lowers ∧ (s.countWindow lane tag amount stamp).core = s.core ∧
      (s.countWindow lane tag amount stamp).engines = s.engines ∧ (s.countWindow lane tag amount stamp).ve = s.ve ∧
      (s.countWindow lane tag amount stamp).stats = s.stats ∧
      (s.countWindow lane tag amount stamp).digests = s.digests ∧ (s.countWindow lane tag amount stamp).mem = s.mem ∧
      (s.countWindow lane tag amount stamp).se = s.se ∧ (s.countWindow lane tag amount stamp).far = s.far ∧
      (s.countWindow lane tag amount stamp).rings = s.rings ∧ (s.countWindow lane tag amount stamp).router = s.router ∧
      (s.countWindow lane tag amount stamp).marver = s.marver ∧
      (s.countWindow lane tag amount stamp).journal = s.journal ∧
      (s.countWindow lane tag amount stamp).gaffer = s.gaffer ∧ (s.countWindow lane tag amount stamp).tier = s.tier ∧
      (s.countWindow lane tag amount stamp).pins = s.pins := by
  unfold State.countWindow; (try dsimp only); (repeat' split) <;> simp

@[simp] theorem State.noteStale_frame (s : State) (e : Nat) :
    (s.noteStale e).pending = s.pending ∧ (s.noteStale e).nc = s.nc ∧ (s.noteStale e).free = s.free ∧
      (s.noteStale e).resp = s.resp ∧ (s.noteStale e).latches = s.latches ∧ (s.noteStale e).lowers = s.lowers ∧
      (s.noteStale e).core = s.core ∧ (s.noteStale e).engines = s.engines ∧ (s.noteStale e).ve = s.ve ∧
      (s.noteStale e).stats = s.stats ∧ (s.noteStale e).digests = s.digests ∧ (s.noteStale e).mem = s.mem ∧
      (s.noteStale e).se = s.se ∧ (s.noteStale e).far = s.far ∧ (s.noteStale e).sched = s.sched ∧
      (s.noteStale e).lehr = s.lehr ∧ (s.noteStale e).router = s.router ∧ (s.noteStale e).marver = s.marver ∧
      (s.noteStale e).journal = s.journal ∧ (s.noteStale e).gaffer = s.gaffer ∧ (s.noteStale e).tier = s.tier ∧
      (s.noteStale e).pins = s.pins := by
  unfold State.noteStale; (try dsimp only); (repeat' split) <;> simp

@[simp] theorem State.setRingEpoch_frame (s : State) (t v : Nat) :
    (s.setRingEpoch t v).pending = s.pending ∧ (s.setRingEpoch t v).nc = s.nc ∧ (s.setRingEpoch t v).free = s.free ∧
      (s.setRingEpoch t v).resp = s.resp ∧ (s.setRingEpoch t v).latches = s.latches ∧
      (s.setRingEpoch t v).lowers = s.lowers ∧ (s.setRingEpoch t v).core = s.core ∧
      (s.setRingEpoch t v).engines = s.engines ∧ (s.setRingEpoch t v).ve = s.ve ∧ (s.setRingEpoch t v).stats = s.stats ∧
      (s.setRingEpoch t v).digests = s.digests ∧ (s.setRingEpoch t v).mem = s.mem ∧ (s.setRingEpoch t v).se = s.se ∧
      (s.setRingEpoch t v).far = s.far ∧ (s.setRingEpoch t v).sched = s.sched ∧ (s.setRingEpoch t v).lehr = s.lehr ∧
      (s.setRingEpoch t v).router = s.router ∧ (s.setRingEpoch t v).marver = s.marver ∧
      (s.setRingEpoch t v).journal = s.journal ∧ (s.setRingEpoch t v).gaffer = s.gaffer ∧
      (s.setRingEpoch t v).tier = s.tier ∧ (s.setRingEpoch t v).pins = s.pins :=
  ⟨rfl, rfl, rfl, rfl, rfl, rfl, rfl, rfl, rfl, rfl, rfl, rfl, rfl, rfl, rfl, rfl, rfl, rfl, rfl, rfl, rfl, rfl⟩

@[simp] theorem State.setRingState_frame (s : State) (t st : Nat) :
    (s.setRingState t st).pending = s.pending ∧ (s.setRingState t st).nc = s.nc ∧
      (s.setRingState t st).free = s.free ∧ (s.setRingState t st).resp = s.resp ∧
      (s.setRingState t st).latches = s.latches ∧ (s.setRingState t st).lowers = s.lowers ∧
      (s.setRingState t st).core = s.core ∧ (s.setRingState t st).engines = s.engines ∧
      (s.setRingState t st).ve = s.ve ∧ (s.setRingState t st).stats = s.stats ∧
      (s.setRingState t st).digests = s.digests ∧ (s.setRingState t st).mem = s.mem ∧ (s.setRingState t st).se = s.se ∧
      (s.setRingState t st).far = s.far ∧ (s.setRingState t st).sched = s.sched ∧ (s.setRingState t st).lehr = s.lehr ∧
      (s.setRingState t st).router = s.router ∧ (s.setRingState t st).marver = s.marver ∧
      (s.setRingState t st).journal = s.journal ∧ (s.setRingState t st).gaffer = s.gaffer ∧
      (s.setRingState t st).tier = s.tier ∧ (s.setRingState t st).pins = s.pins :=
  ⟨rfl, rfl, rfl, rfl, rfl, rfl, rfl, rfl, rfl, rfl, rfl, rfl, rfl, rfl, rfl, rfl, rfl, rfl, rfl, rfl, rfl, rfl⟩

@[simp] theorem State.setRptr_frame (s : State) (t v : Nat) :
    (s.setRptr t v).pending = s.pending ∧ (s.setRptr t v).nc = s.nc ∧ (s.setRptr t v).free = s.free ∧
      (s.setRptr t v).resp = s.resp ∧ (s.setRptr t v).latches = s.latches ∧ (s.setRptr t v).lowers = s.lowers ∧
      (s.setRptr t v).core = s.core ∧ (s.setRptr t v).engines = s.engines ∧ (s.setRptr t v).ve = s.ve ∧
      (s.setRptr t v).stats = s.stats ∧ (s.setRptr t v).digests = s.digests ∧ (s.setRptr t v).mem = s.mem ∧
      (s.setRptr t v).se = s.se ∧ (s.setRptr t v).far = s.far ∧ (s.setRptr t v).sched = s.sched ∧
      (s.setRptr t v).lehr = s.lehr ∧ (s.setRptr t v).router = s.router ∧ (s.setRptr t v).marver = s.marver ∧
      (s.setRptr t v).journal = s.journal ∧ (s.setRptr t v).gaffer = s.gaffer ∧ (s.setRptr t v).tier = s.tier ∧
      (s.setRptr t v).pins = s.pins :=
  ⟨rfl, rfl, rfl, rfl, rfl, rfl, rfl, rfl, rfl, rfl, rfl, rfl, rfl, rfl, rfl, rfl, rfl, rfl, rfl, rfl, rfl, rfl⟩

@[simp] theorem State.setWptr_frame (s : State) (t v : Nat) :
    (s.setWptr t v).pending = s.pending ∧ (s.setWptr t v).nc = s.nc ∧ (s.setWptr t v).free = s.free ∧
      (s.setWptr t v).resp = s.resp ∧ (s.setWptr t v).latches = s.latches ∧ (s.setWptr t v).lowers = s.lowers ∧
      (s.setWptr t v).core = s.core ∧ (s.setWptr t v).engines = s.engines ∧ (s.setWptr t v).ve = s.ve ∧
      (s.setWptr t v).stats = s.stats ∧ (s.setWptr t v).digests = s.digests ∧ (s.setWptr t v).mem = s.mem ∧
      (s.setWptr t v).se = s.se ∧ (s.setWptr t v).far = s.far ∧ (s.setWptr t v).sched = s.sched ∧
      (s.setWptr t v).lehr = s.lehr ∧ (s.setWptr t v).router = s.router ∧ (s.setWptr t v).marver = s.marver ∧
      (s.setWptr t v).journal = s.journal ∧ (s.setWptr t v).gaffer = s.gaffer ∧ (s.setWptr t v).tier = s.tier ∧
      (s.setWptr t v).pins = s.pins :=
  ⟨rfl, rfl, rfl, rfl, rfl, rfl, rfl, rfl, rfl, rfl, rfl, rfl, rfl, rfl, rfl, rfl, rfl, rfl, rfl, rfl, rfl, rfl⟩

@[simp] theorem State.complete_frame (s : State) (q : Nat) (seq : Word) :
    (s.complete q seq).pending = s.pending ∧ (s.complete q seq).nc = s.nc ∧ (s.complete q seq).free = s.free ∧
      (s.complete q seq).resp = s.resp ∧ (s.complete q seq).latches = s.latches ∧ (s.complete q seq).lowers = s.lowers ∧
      (s.complete q seq).engines = s.engines ∧ (s.complete q seq).ve = s.ve ∧ (s.complete q seq).stats = s.stats ∧
      (s.complete q seq).digests = s.digests ∧ (s.complete q seq).mem = s.mem ∧ (s.complete q seq).se = s.se ∧
      (s.complete q seq).far = s.far ∧ (s.complete q seq).rings = s.rings ∧ (s.complete q seq).sched = s.sched ∧
      (s.complete q seq).lehr = s.lehr ∧ (s.complete q seq).router = s.router ∧ (s.complete q seq).marver = s.marver ∧
      (s.complete q seq).journal = s.journal ∧ (s.complete q seq).gaffer = s.gaffer ∧ (s.complete q seq).tier = s.tier ∧
      (s.complete q seq).pins = s.pins :=
  ⟨rfl, rfl, rfl, rfl, rfl, rfl, rfl, rfl, rfl, rfl, rfl, rfl, rfl, rfl, rfl, rfl, rfl, rfl, rfl, rfl, rfl, rfl⟩

@[simp] theorem State.kilnRecord_frame (s : State) (code : Half) (source : Byte) (detail : List Nat) :
    (s.kilnRecord code source detail).pending = s.pending ∧ (s.kilnRecord code source detail).nc = s.nc ∧
      (s.kilnRecord code source detail).free = s.free ∧ (s.kilnRecord code source detail).resp = s.resp ∧
      (s.kilnRecord code source detail).latches = s.latches ∧ (s.kilnRecord code source detail).lowers = s.lowers ∧
      (s.kilnRecord code source detail).core = s.core ∧ (s.kilnRecord code source detail).engines = s.engines ∧
      (s.kilnRecord code source detail).ve = s.ve ∧ (s.kilnRecord code source detail).stats = s.stats ∧
      (s.kilnRecord code source detail).digests = s.digests ∧ (s.kilnRecord code source detail).mem = s.mem ∧
      (s.kilnRecord code source detail).se = s.se ∧ (s.kilnRecord code source detail).far = s.far ∧
      (s.kilnRecord code source detail).rings = s.rings ∧ (s.kilnRecord code source detail).sched = s.sched ∧
      (s.kilnRecord code source detail).lehr = s.lehr ∧ (s.kilnRecord code source detail).router = s.router ∧
      (s.kilnRecord code source detail).marver = s.marver ∧ (s.kilnRecord code source detail).tier = s.tier ∧
      (s.kilnRecord code source detail).pins = s.pins := by
  unfold State.kilnRecord; (try dsimp only); (repeat' split) <;> simp

@[simp] theorem State.stopQueue_frame (s : State) (q : Nat) (code : Half) (opc : Nat) (seq : Word) (detail : Option (List Nat)) :
    (s.stopQueue q code opc seq detail).pending = s.pending ∧ (s.stopQueue q code opc seq detail).nc = s.nc ∧
      (s.stopQueue q code opc seq detail).free = s.free ∧ (s.stopQueue q code opc seq detail).resp = s.resp ∧
      (s.stopQueue q code opc seq detail).latches = s.latches ∧ (s.stopQueue q code opc seq detail).lowers = s.lowers ∧
      (s.stopQueue q code opc seq detail).engines = s.engines ∧ (s.stopQueue q code opc seq detail).ve = s.ve ∧
      (s.stopQueue q code opc seq detail).stats = s.stats ∧ (s.stopQueue q code opc seq detail).digests = s.digests ∧
      (s.stopQueue q code opc seq detail).mem = s.mem ∧ (s.stopQueue q code opc seq detail).se = s.se ∧
      (s.stopQueue q code opc seq detail).far = s.far ∧ (s.stopQueue q code opc seq detail).rings = s.rings ∧
      (s.stopQueue q code opc seq detail).sched = s.sched ∧ (s.stopQueue q code opc seq detail).lehr = s.lehr ∧
      (s.stopQueue q code opc seq detail).router = s.router ∧ (s.stopQueue q code opc seq detail).marver = s.marver ∧
      (s.stopQueue q code opc seq detail).journal = s.journal ∧ (s.stopQueue q code opc seq detail).tier = s.tier ∧
      (s.stopQueue q code opc seq detail).pins = s.pins := by
  unfold State.stopQueue; (try dsimp only); (repeat' split) <;> simp

@[simp] theorem State.take_frame (s : State) (q : Nat) (c : QueueCmd) :
    (s.take q c).pending = s.pending ∧ (s.take q c).nc = s.nc ∧ (s.take q c).free = s.free ∧
      (s.take q c).resp = s.resp ∧ (s.take q c).latches = s.latches ∧ (s.take q c).lowers = s.lowers ∧
      (s.take q c).engines = s.engines ∧ (s.take q c).ve = s.ve ∧ (s.take q c).stats = s.stats ∧
      (s.take q c).digests = s.digests ∧ (s.take q c).mem = s.mem ∧ (s.take q c).se = s.se ∧ (s.take q c).far = s.far ∧
      (s.take q c).rings = s.rings ∧ (s.take q c).sched = s.sched ∧ (s.take q c).lehr = s.lehr ∧
      (s.take q c).router = s.router ∧ (s.take q c).marver = s.marver ∧ (s.take q c).journal = s.journal ∧
      (s.take q c).gaffer = s.gaffer ∧ (s.take q c).tier = s.tier ∧ (s.take q c).pins = s.pins :=
  ⟨rfl, rfl, rfl, rfl, rfl, rfl, rfl, rfl, rfl, rfl, rfl, rfl, rfl, rfl, rfl, rfl, rfl, rfl, rfl, rfl, rfl, rfl⟩

@[simp] theorem State.putMe_frame (s : State) (e o v : Nat) :
    (s.putMe e o v).pending = s.pending ∧ (s.putMe e o v).nc = s.nc ∧ (s.putMe e o v).free = s.free ∧
      (s.putMe e o v).resp = s.resp ∧ (s.putMe e o v).latches = s.latches ∧ (s.putMe e o v).lowers = s.lowers ∧
      (s.putMe e o v).core = s.core ∧ (s.putMe e o v).ve = s.ve ∧ (s.putMe e o v).stats = s.stats ∧
      (s.putMe e o v).digests = s.digests ∧ (s.putMe e o v).mem = s.mem ∧ (s.putMe e o v).se = s.se ∧
      (s.putMe e o v).far = s.far ∧ (s.putMe e o v).rings = s.rings ∧ (s.putMe e o v).sched = s.sched ∧
      (s.putMe e o v).lehr = s.lehr ∧ (s.putMe e o v).router = s.router ∧ (s.putMe e o v).marver = s.marver ∧
      (s.putMe e o v).journal = s.journal ∧ (s.putMe e o v).gaffer = s.gaffer ∧ (s.putMe e o v).tier = s.tier ∧
      (s.putMe e o v).pins = s.pins := by
  unfold State.putMe; (try dsimp only); (repeat' split) <;> simp

@[simp] theorem State.putSe_frame (s : State) (o v : Nat) :
    (s.putSe o v).pending = s.pending ∧ (s.putSe o v).nc = s.nc ∧ (s.putSe o v).free = s.free ∧
      (s.putSe o v).resp = s.resp ∧ (s.putSe o v).latches = s.latches ∧ (s.putSe o v).lowers = s.lowers ∧
      (s.putSe o v).core = s.core ∧ (s.putSe o v).engines = s.engines ∧ (s.putSe o v).ve = s.ve ∧
      (s.putSe o v).stats = s.stats ∧ (s.putSe o v).digests = s.digests ∧ (s.putSe o v).far = s.far ∧
      (s.putSe o v).rings = s.rings ∧ (s.putSe o v).sched = s.sched ∧ (s.putSe o v).lehr = s.lehr ∧
      (s.putSe o v).router = s.router ∧ (s.putSe o v).marver = s.marver ∧ (s.putSe o v).journal = s.journal ∧
      (s.putSe o v).gaffer = s.gaffer ∧ (s.putSe o v).tier = s.tier ∧ (s.putSe o v).pins = s.pins := by
  unfold State.putSe; (try dsimp only); (repeat' split) <;> simp

@[simp] theorem State.regClear_frame (s : State) (blk o : Nat) :
    (s.regClear blk o).pending = s.pending ∧ (s.regClear blk o).nc = s.nc ∧ (s.regClear blk o).free = s.free ∧
      (s.regClear blk o).resp = s.resp ∧ (s.regClear blk o).latches = s.latches ∧ (s.regClear blk o).lowers = s.lowers ∧
      (s.regClear blk o).core = s.core ∧ (s.regClear blk o).stats = s.stats ∧ (s.regClear blk o).digests = s.digests ∧
      (s.regClear blk o).far = s.far ∧ (s.regClear blk o).sched = s.sched ∧ (s.regClear blk o).journal = s.journal ∧
      (s.regClear blk o).gaffer = s.gaffer ∧ (s.regClear blk o).tier = s.tier ∧ (s.regClear blk o).pins = s.pins := by
  unfold State.regClear; (try dsimp only); (repeat' split) <;> simp

@[simp] theorem State.setReg64_frame (s : State) (blk o : Nat) (v : DWord) :
    (s.setReg64 blk o v).pending = s.pending ∧ (s.setReg64 blk o v).nc = s.nc ∧ (s.setReg64 blk o v).free = s.free ∧
      (s.setReg64 blk o v).resp = s.resp ∧ (s.setReg64 blk o v).latches = s.latches ∧
      (s.setReg64 blk o v).lowers = s.lowers ∧ (s.setReg64 blk o v).core = s.core ∧
      (s.setReg64 blk o v).engines = s.engines ∧ (s.setReg64 blk o v).ve = s.ve ∧
      (s.setReg64 blk o v).digests = s.digests ∧ (s.setReg64 blk o v).mem = s.mem ∧ (s.setReg64 blk o v).far = s.far ∧
      (s.setReg64 blk o v).rings = s.rings ∧ (s.setReg64 blk o v).sched = s.sched ∧
      (s.setReg64 blk o v).router = s.router ∧ (s.setReg64 blk o v).gaffer = s.gaffer ∧
      (s.setReg64 blk o v).tier = s.tier ∧ (s.setReg64 blk o v).pins = s.pins := by
  unfold State.setReg64; (try dsimp only); (repeat' split) <;> simp

@[simp] theorem State.endProgram_frame (s : State) :
    s.endProgram.pending = s.pending ∧ s.endProgram.nc = s.nc ∧ s.endProgram.free = s.free ∧
      s.endProgram.resp = s.resp ∧ s.endProgram.latches = s.latches ∧ s.endProgram.lowers = s.lowers ∧
      s.endProgram.digests = s.digests ∧ s.endProgram.mem = s.mem ∧ s.endProgram.far = s.far ∧
      s.endProgram.router = s.router ∧ s.endProgram.journal = s.journal ∧ s.endProgram.gaffer = s.gaffer ∧
      s.endProgram.tier = s.tier ∧ s.endProgram.pins = s.pins :=
  ⟨rfl, rfl, rfl, rfl, rfl, rfl, rfl, rfl, rfl, rfl, rfl, rfl, rfl, rfl⟩

@[simp] theorem State.replayRelease_frame (s : State) (m : Message) :
    (s.replayRelease m).pending = s.pending ∧ (s.replayRelease m).nc = s.nc ∧ (s.replayRelease m).free = s.free ∧
      (s.replayRelease m).resp = s.resp ∧ (s.replayRelease m).latches = s.latches ∧
      (s.replayRelease m).lowers = s.lowers ∧ (s.replayRelease m).core = s.core ∧
      (s.replayRelease m).engines = s.engines ∧ (s.replayRelease m).ve = s.ve ∧ (s.replayRelease m).stats = s.stats ∧
      (s.replayRelease m).digests = s.digests ∧ (s.replayRelease m).mem = s.mem ∧ (s.replayRelease m).se = s.se ∧
      (s.replayRelease m).far = s.far ∧ (s.replayRelease m).rings = s.rings ∧ (s.replayRelease m).sched = s.sched ∧
      (s.replayRelease m).router = s.router ∧ (s.replayRelease m).marver = s.marver ∧
      (s.replayRelease m).journal = s.journal ∧ (s.replayRelease m).gaffer = s.gaffer ∧
      (s.replayRelease m).tier = s.tier ∧ (s.replayRelease m).pins = s.pins := by
  unfold State.replayRelease; (try dsimp only); (repeat' split) <;> simp

@[simp] theorem State.reply_frame (s : State) (r : ReplyTo) (status : Half) (final : Bool) (ws : List Nat) :
    (s.reply r status final ws).pending = s.pending ∧ (s.reply r status final ws).nc = s.nc ∧
      (s.reply r status final ws).free = s.free ∧ (s.reply r status final ws).resp = s.resp ∧
      (s.reply r status final ws).latches = s.latches ∧ (s.reply r status final ws).lowers = s.lowers ∧
      (s.reply r status final ws).core = s.core ∧ (s.reply r status final ws).engines = s.engines ∧
      (s.reply r status final ws).ve = s.ve ∧ (s.reply r status final ws).stats = s.stats ∧
      (s.reply r status final ws).digests = s.digests ∧ (s.reply r status final ws).mem = s.mem ∧
      (s.reply r status final ws).se = s.se ∧ (s.reply r status final ws).far = s.far ∧
      (s.reply r status final ws).rings = s.rings ∧ (s.reply r status final ws).sched = s.sched ∧
      (s.reply r status final ws).lehr = s.lehr ∧ (s.reply r status final ws).marver = s.marver ∧
      (s.reply r status final ws).journal = s.journal ∧ (s.reply r status final ws).tier = s.tier ∧
      (s.reply r status final ws).pins = s.pins := by
  unfold State.reply; (try dsimp only); (repeat' split) <;> simp

@[simp] theorem State.assertReset_frame (s : State) :
    s.assertReset.pending = s.pending ∧ s.assertReset.free = s.free :=
  ⟨rfl, rfl⟩

@[simp] theorem State.discard_frame (s : State) (t : Nat) (code : Half) (statBit : Nat) :
    (s.discard t code statBit).pending = s.pending ∧ (s.discard t code statBit).nc = s.nc ∧
      (s.discard t code statBit).free = s.free ∧ (s.discard t code statBit).resp = s.resp ∧
      (s.discard t code statBit).latches = s.latches ∧ (s.discard t code statBit).lowers = s.lowers ∧
      (s.discard t code statBit).core = s.core ∧ (s.discard t code statBit).engines = s.engines ∧
      (s.discard t code statBit).ve = s.ve ∧ (s.discard t code statBit).stats = s.stats ∧
      (s.discard t code statBit).digests = s.digests ∧ (s.discard t code statBit).mem = s.mem ∧
      (s.discard t code statBit).se = s.se ∧ (s.discard t code statBit).far = s.far ∧
      (s.discard t code statBit).sched = s.sched ∧ (s.discard t code statBit).lehr = s.lehr ∧
      (s.discard t code statBit).router = s.router ∧ (s.discard t code statBit).marver = s.marver ∧
      (s.discard t code statBit).journal = s.journal ∧ (s.discard t code statBit).tier = s.tier ∧
      (s.discard t code statBit).pins = s.pins := by
  unfold State.discard; (try dsimp only); (repeat' split) <;> simp

@[simp] theorem State.zeroSlots_frame (s : State) (t : Nat) :
    (s.zeroSlots t).pending = s.pending ∧ (s.zeroSlots t).nc = s.nc ∧ (s.zeroSlots t).free = s.free ∧
      (s.zeroSlots t).resp = s.resp ∧ (s.zeroSlots t).latches = s.latches ∧ (s.zeroSlots t).lowers = s.lowers ∧
      (s.zeroSlots t).core = s.core ∧ (s.zeroSlots t).engines = s.engines ∧ (s.zeroSlots t).ve = s.ve ∧
      (s.zeroSlots t).stats = s.stats ∧ (s.zeroSlots t).digests = s.digests ∧ (s.zeroSlots t).se = s.se ∧
      (s.zeroSlots t).far = s.far ∧ (s.zeroSlots t).rings = s.rings ∧ (s.zeroSlots t).sched = s.sched ∧
      (s.zeroSlots t).lehr = s.lehr ∧ (s.zeroSlots t).router = s.router ∧ (s.zeroSlots t).marver = s.marver ∧
      (s.zeroSlots t).gaffer = s.gaffer ∧ (s.zeroSlots t).tier = s.tier ∧ (s.zeroSlots t).pins = s.pins := by
  unfold State.zeroSlots; (try dsimp only); (repeat' split) <;> simp

@[simp] theorem State.noRoute_frame (s : State) (m : Message) (mis : Bool) :
    (s.noRoute m mis).pending = s.pending ∧ (s.noRoute m mis).nc = s.nc ∧ (s.noRoute m mis).free = s.free ∧
      (s.noRoute m mis).resp = s.resp ∧ (s.noRoute m mis).latches = s.latches ∧ (s.noRoute m mis).lowers = s.lowers ∧
      (s.noRoute m mis).core = s.core ∧ (s.noRoute m mis).engines = s.engines ∧ (s.noRoute m mis).ve = s.ve ∧
      (s.noRoute m mis).stats = s.stats ∧ (s.noRoute m mis).digests = s.digests ∧ (s.noRoute m mis).mem = s.mem ∧
      (s.noRoute m mis).se = s.se ∧ (s.noRoute m mis).far = s.far ∧ (s.noRoute m mis).rings = s.rings ∧
      (s.noRoute m mis).sched = s.sched ∧ (s.noRoute m mis).lehr = s.lehr ∧ (s.noRoute m mis).marver = s.marver ∧
      (s.noRoute m mis).journal = s.journal ∧ (s.noRoute m mis).tier = s.tier ∧ (s.noRoute m mis).pins = s.pins := by
  unfold State.noRoute; (try dsimp only); (repeat' split) <;> simp

@[simp] theorem State.snapRefused_frame (s : State) (cause : Nat) (statBit : Nat) :
    (s.snapRefused cause statBit).pending = s.pending ∧ (s.snapRefused cause statBit).nc = s.nc ∧
      (s.snapRefused cause statBit).free = s.free ∧ (s.snapRefused cause statBit).resp = s.resp ∧
      (s.snapRefused cause statBit).latches = s.latches ∧ (s.snapRefused cause statBit).lowers = s.lowers ∧
      (s.snapRefused cause statBit).core = s.core ∧ (s.snapRefused cause statBit).engines = s.engines ∧
      (s.snapRefused cause statBit).ve = s.ve ∧ (s.snapRefused cause statBit).stats = s.stats ∧
      (s.snapRefused cause statBit).digests = s.digests ∧ (s.snapRefused cause statBit).mem = s.mem ∧
      (s.snapRefused cause statBit).se = s.se ∧ (s.snapRefused cause statBit).far = s.far ∧
      (s.snapRefused cause statBit).rings = s.rings ∧ (s.snapRefused cause statBit).sched = s.sched ∧
      (s.snapRefused cause statBit).lehr = s.lehr ∧ (s.snapRefused cause statBit).router = s.router ∧
      (s.snapRefused cause statBit).marver = s.marver ∧ (s.snapRefused cause statBit).tier = s.tier ∧
      (s.snapRefused cause statBit).pins = s.pins := by
  unfold State.snapRefused; (try dsimp only); (repeat' split) <;> simp

@[simp] theorem State.failCtx_frame (s : State) (id : Nat) (h : HaltInfo) :
    (s.failCtx id h).pending = s.pending ∧ (s.failCtx id h).nc = s.nc ∧ (s.failCtx id h).free = s.free ∧
      (s.failCtx id h).resp = s.resp ∧ (s.failCtx id h).latches = s.latches ∧ (s.failCtx id h).lowers = s.lowers ∧
      (s.failCtx id h).core = s.core ∧ (s.failCtx id h).engines = s.engines ∧ (s.failCtx id h).ve = s.ve ∧
      (s.failCtx id h).stats = s.stats ∧ (s.failCtx id h).digests = s.digests ∧ (s.failCtx id h).mem = s.mem ∧
      (s.failCtx id h).far = s.far ∧ (s.failCtx id h).rings = s.rings ∧ (s.failCtx id h).sched = s.sched ∧
      (s.failCtx id h).lehr = s.lehr ∧ (s.failCtx id h).router = s.router ∧ (s.failCtx id h).marver = s.marver ∧
      (s.failCtx id h).journal = s.journal ∧ (s.failCtx id h).gaffer = s.gaffer ∧ (s.failCtx id h).tier = s.tier ∧
      (s.failCtx id h).pins = s.pins :=
  ⟨rfl, rfl, rfl, rfl, rfl, rfl, rfl, rfl, rfl, rfl, rfl, rfl, rfl, rfl, rfl, rfl, rfl, rfl, rfl, rfl, rfl, rfl⟩

@[simp] theorem State.resumeCtx_frame (s : State) (id : Nat) :
    (s.resumeCtx id).pending = s.pending ∧ (s.resumeCtx id).nc = s.nc ∧ (s.resumeCtx id).free = s.free ∧
      (s.resumeCtx id).resp = s.resp ∧ (s.resumeCtx id).latches = s.latches ∧ (s.resumeCtx id).lowers = s.lowers ∧
      (s.resumeCtx id).core = s.core ∧ (s.resumeCtx id).engines = s.engines ∧ (s.resumeCtx id).ve = s.ve ∧
      (s.resumeCtx id).stats = s.stats ∧ (s.resumeCtx id).digests = s.digests ∧ (s.resumeCtx id).mem = s.mem ∧
      (s.resumeCtx id).far = s.far ∧ (s.resumeCtx id).rings = s.rings ∧ (s.resumeCtx id).sched = s.sched ∧
      (s.resumeCtx id).lehr = s.lehr ∧ (s.resumeCtx id).router = s.router ∧ (s.resumeCtx id).marver = s.marver ∧
      (s.resumeCtx id).journal = s.journal ∧ (s.resumeCtx id).gaffer = s.gaffer ∧ (s.resumeCtx id).tier = s.tier ∧
      (s.resumeCtx id).pins = s.pins :=
  ⟨rfl, rfl, rfl, rfl, rfl, rfl, rfl, rfl, rfl, rfl, rfl, rfl, rfl, rfl, rfl, rfl, rfl, rfl, rfl, rfl, rfl, rfl⟩

@[simp] theorem State.stepPos_frame (s : State) (id len total : Nat) :
    (s.stepPos id len total).pending = s.pending ∧ (s.stepPos id len total).nc = s.nc ∧
      (s.stepPos id len total).free = s.free ∧ (s.stepPos id len total).resp = s.resp ∧
      (s.stepPos id len total).latches = s.latches ∧ (s.stepPos id len total).lowers = s.lowers ∧
      (s.stepPos id len total).core = s.core ∧ (s.stepPos id len total).engines = s.engines ∧
      (s.stepPos id len total).ve = s.ve ∧ (s.stepPos id len total).stats = s.stats ∧
      (s.stepPos id len total).digests = s.digests ∧ (s.stepPos id len total).mem = s.mem ∧
      (s.stepPos id len total).far = s.far ∧ (s.stepPos id len total).rings = s.rings ∧
      (s.stepPos id len total).sched = s.sched ∧ (s.stepPos id len total).lehr = s.lehr ∧
      (s.stepPos id len total).router = s.router ∧ (s.stepPos id len total).marver = s.marver ∧
      (s.stepPos id len total).journal = s.journal ∧ (s.stepPos id len total).gaffer = s.gaffer ∧
      (s.stepPos id len total).tier = s.tier ∧ (s.stepPos id len total).pins = s.pins :=
  ⟨rfl, rfl, rfl, rfl, rfl, rfl, rfl, rfl, rfl, rfl, rfl, rfl, rfl, rfl, rfl, rfl, rfl, rfl, rfl, rfl, rfl, rfl⟩

@[simp] theorem State.stopCtx_frame (s : State) (id : Nat) :
    (s.stopCtx id).pending = s.pending ∧ (s.stopCtx id).nc = s.nc ∧ (s.stopCtx id).free = s.free ∧
      (s.stopCtx id).resp = s.resp ∧ (s.stopCtx id).latches = s.latches ∧ (s.stopCtx id).lowers = s.lowers ∧
      (s.stopCtx id).core = s.core ∧ (s.stopCtx id).engines = s.engines ∧ (s.stopCtx id).ve = s.ve ∧
      (s.stopCtx id).stats = s.stats ∧ (s.stopCtx id).digests = s.digests ∧ (s.stopCtx id).mem = s.mem ∧
      (s.stopCtx id).far = s.far ∧ (s.stopCtx id).rings = s.rings ∧ (s.stopCtx id).sched = s.sched ∧
      (s.stopCtx id).lehr = s.lehr ∧ (s.stopCtx id).router = s.router ∧ (s.stopCtx id).marver = s.marver ∧
      (s.stopCtx id).journal = s.journal ∧ (s.stopCtx id).gaffer = s.gaffer ∧ (s.stopCtx id).tier = s.tier ∧
      (s.stopCtx id).pins = s.pins :=
  ⟨rfl, rfl, rfl, rfl, rfl, rfl, rfl, rfl, rfl, rfl, rfl, rfl, rfl, rfl, rfl, rfl, rfl, rfl, rfl, rfl, rfl, rfl⟩

@[simp] theorem State.clearQueue_frame (s : State) (q : Nat) :
    (s.clearQueue q).pending = s.pending ∧ (s.clearQueue q).nc = s.nc ∧ (s.clearQueue q).free = s.free ∧
      (s.clearQueue q).resp = s.resp ∧ (s.clearQueue q).latches = s.latches ∧ (s.clearQueue q).lowers = s.lowers ∧
      (s.clearQueue q).engines = s.engines ∧ (s.clearQueue q).ve = s.ve ∧ (s.clearQueue q).stats = s.stats ∧
      (s.clearQueue q).digests = s.digests ∧ (s.clearQueue q).mem = s.mem ∧ (s.clearQueue q).se = s.se ∧
      (s.clearQueue q).far = s.far ∧ (s.clearQueue q).rings = s.rings ∧ (s.clearQueue q).lehr = s.lehr ∧
      (s.clearQueue q).router = s.router ∧ (s.clearQueue q).marver = s.marver ∧ (s.clearQueue q).journal = s.journal ∧
      (s.clearQueue q).gaffer = s.gaffer ∧ (s.clearQueue q).tier = s.tier ∧ (s.clearQueue q).pins = s.pins := by
  unfold State.clearQueue; (try dsimp only); (repeat' split) <;> simp

@[simp] theorem State.endCheck_frame (s : State) :
    s.endCheck.pending = s.pending ∧ s.endCheck.nc = s.nc ∧ s.endCheck.free = s.free ∧ s.endCheck.resp = s.resp ∧
      s.endCheck.latches = s.latches ∧ s.endCheck.lowers = s.lowers ∧ s.endCheck.engines = s.engines ∧
      s.endCheck.ve = s.ve ∧ s.endCheck.stats = s.stats ∧ s.endCheck.digests = s.digests ∧ s.endCheck.mem = s.mem ∧
      s.endCheck.se = s.se ∧ s.endCheck.far = s.far ∧ s.endCheck.rings = s.rings ∧ s.endCheck.sched = s.sched ∧
      s.endCheck.lehr = s.lehr ∧ s.endCheck.router = s.router ∧ s.endCheck.marver = s.marver ∧
      s.endCheck.journal = s.journal ∧ s.endCheck.tier = s.tier ∧ s.endCheck.pins = s.pins := by
  unfold State.endCheck; (try dsimp only); (repeat' split) <;> simp

@[simp] theorem State.restartQueue_frame (s : State) (q : Nat) :
    (s.restartQueue q).pending = s.pending ∧ (s.restartQueue q).nc = s.nc ∧ (s.restartQueue q).free = s.free ∧
      (s.restartQueue q).resp = s.resp ∧ (s.restartQueue q).latches = s.latches ∧ (s.restartQueue q).lowers = s.lowers ∧
      (s.restartQueue q).engines = s.engines ∧ (s.restartQueue q).ve = s.ve ∧ (s.restartQueue q).stats = s.stats ∧
      (s.restartQueue q).digests = s.digests ∧ (s.restartQueue q).mem = s.mem ∧ (s.restartQueue q).se = s.se ∧
      (s.restartQueue q).far = s.far ∧ (s.restartQueue q).rings = s.rings ∧ (s.restartQueue q).sched = s.sched ∧
      (s.restartQueue q).lehr = s.lehr ∧ (s.restartQueue q).router = s.router ∧ (s.restartQueue q).marver = s.marver ∧
      (s.restartQueue q).journal = s.journal ∧ (s.restartQueue q).gaffer = s.gaffer ∧ (s.restartQueue q).tier = s.tier ∧
      (s.restartQueue q).pins = s.pins :=
  ⟨rfl, rfl, rfl, rfl, rfl, rfl, rfl, rfl, rfl, rfl, rfl, rfl, rfl, rfl, rfl, rfl, rfl, rfl, rfl, rfl, rfl, rfl⟩

@[simp] theorem State.annealStart_frame (s : State) :
    s.annealStart.pending = s.pending ∧ s.annealStart.nc = s.nc ∧ s.annealStart.free = s.free ∧
      s.annealStart.resp = s.resp ∧ s.annealStart.latches = s.latches ∧ s.annealStart.lowers = s.lowers ∧
      s.annealStart.core = s.core ∧ s.annealStart.engines = s.engines ∧ s.annealStart.ve = s.ve ∧
      s.annealStart.stats = s.stats ∧ s.annealStart.digests = s.digests ∧ s.annealStart.mem = s.mem ∧
      s.annealStart.se = s.se ∧ s.annealStart.far = s.far ∧ s.annealStart.rings = s.rings ∧
      s.annealStart.sched = s.sched ∧ s.annealStart.lehr = s.lehr ∧ s.annealStart.router = s.router ∧
      s.annealStart.marver = s.marver ∧ s.annealStart.journal = s.journal ∧ s.annealStart.gaffer = s.gaffer ∧
      s.annealStart.pins = s.pins := by
  unfold State.annealStart; (try dsimp only); (repeat' split) <;> simp

@[simp] theorem State.powerUp_frame (s : State) :
    s.powerUp.pending = s.pending ∧ s.powerUp.nc = s.nc ∧ s.powerUp.free = s.free ∧ s.powerUp.resp = s.resp ∧
      s.powerUp.latches = s.latches ∧ s.powerUp.lowers = s.lowers ∧ s.powerUp.core = s.core ∧
      s.powerUp.engines = s.engines ∧ s.powerUp.ve = s.ve ∧ s.powerUp.stats = s.stats ∧ s.powerUp.digests = s.digests ∧
      s.powerUp.mem = s.mem ∧ s.powerUp.se = s.se ∧ s.powerUp.far = s.far ∧ s.powerUp.rings = s.rings ∧
      s.powerUp.sched = s.sched ∧ s.powerUp.lehr = s.lehr ∧ s.powerUp.router = s.router ∧ s.powerUp.marver = s.marver ∧
      s.powerUp.journal = s.journal ∧ s.powerUp.pins = s.pins := by
  unfold State.powerUp; (try dsimp only); (repeat' split) <;> simp

@[simp] theorem State.loadPart_frame (s : State) (far : FarReply) (src len : Nat) :
    (s.loadPart far src len).pending = s.pending ∧ (s.loadPart far src len).nc = s.nc ∧
      (s.loadPart far src len).resp = s.resp ∧ (s.loadPart far src len).latches = s.latches ∧
      (s.loadPart far src len).lowers = s.lowers ∧ (s.loadPart far src len).engines = s.engines ∧
      (s.loadPart far src len).ve = s.ve ∧ (s.loadPart far src len).stats = s.stats ∧
      (s.loadPart far src len).digests = s.digests ∧ (s.loadPart far src len).mem = s.mem ∧
      (s.loadPart far src len).se = s.se ∧ (s.loadPart far src len).far = s.far ∧
      (s.loadPart far src len).rings = s.rings ∧ (s.loadPart far src len).sched = s.sched ∧
      (s.loadPart far src len).lehr = s.lehr ∧ (s.loadPart far src len).router = s.router ∧
      (s.loadPart far src len).marver = s.marver ∧ (s.loadPart far src len).journal = s.journal ∧
      (s.loadPart far src len).gaffer = s.gaffer ∧ (s.loadPart far src len).tier = s.tier ∧
      (s.loadPart far src len).pins = s.pins :=
  ⟨rfl, rfl, rfl, rfl, rfl, rfl, rfl, rfl, rfl, rfl, rfl, rfl, rfl, rfl, rfl, rfl, rfl, rfl, rfl, rfl, rfl⟩

@[simp] theorem State.say_frame (s : State) (p : Packet) (status : Half) (ws : List Nat) :
    (s.say p status ws).pending = s.pending ∧ (s.say p status ws).nc = s.nc ∧ (s.say p status ws).free = s.free ∧
      (s.say p status ws).resp = s.resp ∧ (s.say p status ws).latches = s.latches ∧
      (s.say p status ws).lowers = s.lowers ∧ (s.say p status ws).core = s.core ∧
      (s.say p status ws).engines = s.engines ∧ (s.say p status ws).ve = s.ve ∧ (s.say p status ws).stats = s.stats ∧
      (s.say p status ws).digests = s.digests ∧ (s.say p status ws).mem = s.mem ∧ (s.say p status ws).se = s.se ∧
      (s.say p status ws).far = s.far ∧ (s.say p status ws).rings = s.rings ∧ (s.say p status ws).sched = s.sched ∧
      (s.say p status ws).lehr = s.lehr ∧ (s.say p status ws).marver = s.marver ∧
      (s.say p status ws).journal = s.journal ∧ (s.say p status ws).tier = s.tier ∧ (s.say p status ws).pins = s.pins := by
  unfold State.say; (try dsimp only); (repeat' split) <;> simp

@[simp] theorem State.mvGo_frame (s : State) (i : Nat) (skip : Bool) :
    (s.mvGo i skip).pending = s.pending ∧ (s.mvGo i skip).nc = s.nc ∧ (s.mvGo i skip).free = s.free ∧
      (s.mvGo i skip).resp = s.resp ∧ (s.mvGo i skip).latches = s.latches ∧ (s.mvGo i skip).lowers = s.lowers ∧
      (s.mvGo i skip).core = s.core ∧ (s.mvGo i skip).engines = s.engines ∧ (s.mvGo i skip).ve = s.ve ∧
      (s.mvGo i skip).stats = s.stats ∧ (s.mvGo i skip).digests = s.digests ∧ (s.mvGo i skip).mem = s.mem ∧
      (s.mvGo i skip).se = s.se ∧ (s.mvGo i skip).far = s.far ∧ (s.mvGo i skip).rings = s.rings ∧
      (s.mvGo i skip).sched = s.sched ∧ (s.mvGo i skip).lehr = s.lehr ∧ (s.mvGo i skip).router = s.router ∧
      (s.mvGo i skip).journal = s.journal ∧ (s.mvGo i skip).tier = s.tier ∧ (s.mvGo i skip).pins = s.pins := by
  unfold State.mvGo; (try dsimp only); (repeat' split) <;> simp

@[simp] theorem State.autoClose_frame (s : State) (t : Nat) :
    (s.autoClose t).pending = s.pending ∧ (s.autoClose t).nc = s.nc ∧ (s.autoClose t).free = s.free ∧
      (s.autoClose t).resp = s.resp ∧ (s.autoClose t).latches = s.latches ∧ (s.autoClose t).lowers = s.lowers ∧
      (s.autoClose t).core = s.core ∧ (s.autoClose t).engines = s.engines ∧ (s.autoClose t).ve = s.ve ∧
      (s.autoClose t).stats = s.stats ∧ (s.autoClose t).digests = s.digests ∧ (s.autoClose t).mem = s.mem ∧
      (s.autoClose t).se = s.se ∧ (s.autoClose t).far = s.far ∧ (s.autoClose t).sched = s.sched ∧
      (s.autoClose t).lehr = s.lehr ∧ (s.autoClose t).router = s.router ∧ (s.autoClose t).marver = s.marver ∧
      (s.autoClose t).journal = s.journal ∧ (s.autoClose t).gaffer = s.gaffer ∧ (s.autoClose t).tier = s.tier ∧
      (s.autoClose t).pins = s.pins := by
  unfold State.autoClose; (try dsimp only); (repeat' split) <;> simp

@[simp] theorem State.noteEcc_frame (s : State) (unit : Byte) (addr : Nat) :
    (s.noteEcc unit addr).pending = s.pending ∧ (s.noteEcc unit addr).nc = s.nc ∧
      (s.noteEcc unit addr).free = s.free ∧ (s.noteEcc unit addr).resp = s.resp ∧
      (s.noteEcc unit addr).latches = s.latches ∧ (s.noteEcc unit addr).lowers = s.lowers ∧
      (s.noteEcc unit addr).core = s.core ∧ (s.noteEcc unit addr).engines = s.engines ∧
      (s.noteEcc unit addr).ve = s.ve ∧ (s.noteEcc unit addr).stats = s.stats ∧
      (s.noteEcc unit addr).digests = s.digests ∧ (s.noteEcc unit addr).se = s.se ∧ (s.noteEcc unit addr).far = s.far ∧
      (s.noteEcc unit addr).rings = s.rings ∧ (s.noteEcc unit addr).sched = s.sched ∧
      (s.noteEcc unit addr).lehr = s.lehr ∧ (s.noteEcc unit addr).router = s.router ∧
      (s.noteEcc unit addr).marver = s.marver ∧ (s.noteEcc unit addr).tier = s.tier ∧
      (s.noteEcc unit addr).pins = s.pins := by
  unfold State.noteEcc; (try dsimp only); (repeat' split) <;> simp

@[simp] theorem State.postKiln_frame (s : State) (code : Half) (source : Byte) (detail : List Nat) :
    (s.postKiln code source detail).pending = s.pending ∧ (s.postKiln code source detail).nc = s.nc ∧
      (s.postKiln code source detail).free = s.free ∧ (s.postKiln code source detail).resp = s.resp ∧
      (s.postKiln code source detail).latches = s.latches ∧ (s.postKiln code source detail).lowers = s.lowers ∧
      (s.postKiln code source detail).core = s.core ∧ (s.postKiln code source detail).engines = s.engines ∧
      (s.postKiln code source detail).ve = s.ve ∧ (s.postKiln code source detail).stats = s.stats ∧
      (s.postKiln code source detail).digests = s.digests ∧ (s.postKiln code source detail).mem = s.mem ∧
      (s.postKiln code source detail).se = s.se ∧ (s.postKiln code source detail).far = s.far ∧
      (s.postKiln code source detail).rings = s.rings ∧ (s.postKiln code source detail).sched = s.sched ∧
      (s.postKiln code source detail).lehr = s.lehr ∧ (s.postKiln code source detail).router = s.router ∧
      (s.postKiln code source detail).marver = s.marver ∧ (s.postKiln code source detail).tier = s.tier ∧
      (s.postKiln code source detail).pins = s.pins := by
  unfold State.postKiln; (try dsimp only); (repeat' split) <;> simp

@[simp] theorem State.stopIf_frame (s : State) (q : Nat) (code : Half) (opc : Nat) (seq : Word) (old : Bool) (detail : Option (List Nat)) :
    (s.stopIf q code opc seq old detail).pending = s.pending ∧ (s.stopIf q code opc seq old detail).nc = s.nc ∧
      (s.stopIf q code opc seq old detail).free = s.free ∧ (s.stopIf q code opc seq old detail).resp = s.resp ∧
      (s.stopIf q code opc seq old detail).latches = s.latches ∧
      (s.stopIf q code opc seq old detail).lowers = s.lowers ∧
      (s.stopIf q code opc seq old detail).engines = s.engines ∧ (s.stopIf q code opc seq old detail).ve = s.ve ∧
      (s.stopIf q code opc seq old detail).stats = s.stats ∧ (s.stopIf q code opc seq old detail).digests = s.digests ∧
      (s.stopIf q code opc seq old detail).mem = s.mem ∧ (s.stopIf q code opc seq old detail).se = s.se ∧
      (s.stopIf q code opc seq old detail).far = s.far ∧ (s.stopIf q code opc seq old detail).rings = s.rings ∧
      (s.stopIf q code opc seq old detail).sched = s.sched ∧ (s.stopIf q code opc seq old detail).lehr = s.lehr ∧
      (s.stopIf q code opc seq old detail).router = s.router ∧ (s.stopIf q code opc seq old detail).marver = s.marver ∧
      (s.stopIf q code opc seq old detail).journal = s.journal ∧ (s.stopIf q code opc seq old detail).tier = s.tier ∧
      (s.stopIf q code opc seq old detail).pins = s.pins := by
  unfold State.stopIf; (try dsimp only); (repeat' split) <;> simp

@[simp] theorem State.takeFault_frame (s : State) (q : Nat) (c : QueueCmd) (code : Half) :
    (s.takeFault q c code).pending = s.pending ∧ (s.takeFault q c code).nc = s.nc ∧
      (s.takeFault q c code).free = s.free ∧ (s.takeFault q c code).resp = s.resp ∧
      (s.takeFault q c code).latches = s.latches ∧ (s.takeFault q c code).lowers = s.lowers ∧
      (s.takeFault q c code).engines = s.engines ∧ (s.takeFault q c code).ve = s.ve ∧
      (s.takeFault q c code).stats = s.stats ∧ (s.takeFault q c code).digests = s.digests ∧
      (s.takeFault q c code).mem = s.mem ∧ (s.takeFault q c code).se = s.se ∧ (s.takeFault q c code).far = s.far ∧
      (s.takeFault q c code).rings = s.rings ∧ (s.takeFault q c code).sched = s.sched ∧
      (s.takeFault q c code).lehr = s.lehr ∧ (s.takeFault q c code).router = s.router ∧
      (s.takeFault q c code).marver = s.marver ∧ (s.takeFault q c code).journal = s.journal ∧
      (s.takeFault q c code).tier = s.tier ∧ (s.takeFault q c code).pins = s.pins := by
  unfold State.takeFault; (try dsimp only); (repeat' split) <;> simp

@[simp] theorem State.armReplay_frame (s : State) (a : Nat) (target : DWord) :
    (s.armReplay a target).pending = s.pending ∧ (s.armReplay a target).nc = s.nc ∧
      (s.armReplay a target).free = s.free ∧ (s.armReplay a target).resp = s.resp ∧
      (s.armReplay a target).latches = s.latches ∧ (s.armReplay a target).lowers = s.lowers ∧
      (s.armReplay a target).core = s.core ∧ (s.armReplay a target).engines = s.engines ∧
      (s.armReplay a target).ve = s.ve ∧ (s.armReplay a target).stats = s.stats ∧
      (s.armReplay a target).digests = s.digests ∧ (s.armReplay a target).mem = s.mem ∧
      (s.armReplay a target).se = s.se ∧ (s.armReplay a target).far = s.far ∧ (s.armReplay a target).rings = s.rings ∧
      (s.armReplay a target).sched = s.sched ∧ (s.armReplay a target).router = s.router ∧
      (s.armReplay a target).marver = s.marver ∧ (s.armReplay a target).journal = s.journal ∧
      (s.armReplay a target).gaffer = s.gaffer ∧ (s.armReplay a target).tier = s.tier ∧
      (s.armReplay a target).pins = s.pins :=
  ⟨rfl, rfl, rfl, rfl, rfl, rfl, rfl, rfl, rfl, rfl, rfl, rfl, rfl, rfl, rfl, rfl, rfl, rfl, rfl, rfl, rfl, rfl⟩

@[simp] theorem State.final_frame (s : State) (r : ReplyTo) (status : Half) (ws : List Nat) :
    (s.final r status ws).pending = s.pending ∧ (s.final r status ws).nc = s.nc ∧
      (s.final r status ws).free = s.free ∧ (s.final r status ws).resp = s.resp ∧
      (s.final r status ws).latches = s.latches ∧ (s.final r status ws).lowers = s.lowers ∧
      (s.final r status ws).core = s.core ∧ (s.final r status ws).engines = s.engines ∧
      (s.final r status ws).ve = s.ve ∧ (s.final r status ws).stats = s.stats ∧
      (s.final r status ws).digests = s.digests ∧ (s.final r status ws).mem = s.mem ∧ (s.final r status ws).se = s.se ∧
      (s.final r status ws).far = s.far ∧ (s.final r status ws).rings = s.rings ∧
      (s.final r status ws).sched = s.sched ∧ (s.final r status ws).lehr = s.lehr ∧
      (s.final r status ws).marver = s.marver ∧ (s.final r status ws).journal = s.journal ∧
      (s.final r status ws).tier = s.tier ∧ (s.final r status ws).pins = s.pins := by
  unfold State.final; (try dsimp only); (repeat' split) <;> simp

@[simp] theorem State.deliverRing1_frame (s : State) (m : Message) :
    (s.deliverRing1 m).pending = s.pending ∧ (s.deliverRing1 m).nc = s.nc ∧ (s.deliverRing1 m).free = s.free ∧
      (s.deliverRing1 m).resp = s.resp ∧ (s.deliverRing1 m).latches = s.latches ∧ (s.deliverRing1 m).lowers = s.lowers ∧
      (s.deliverRing1 m).core = s.core ∧ (s.deliverRing1 m).engines = s.engines ∧ (s.deliverRing1 m).ve = s.ve ∧
      (s.deliverRing1 m).stats = s.stats ∧ (s.deliverRing1 m).digests = s.digests ∧ (s.deliverRing1 m).mem = s.mem ∧
      (s.deliverRing1 m).se = s.se ∧ (s.deliverRing1 m).far = s.far ∧ (s.deliverRing1 m).sched = s.sched ∧
      (s.deliverRing1 m).lehr = s.lehr ∧ (s.deliverRing1 m).router = s.router ∧ (s.deliverRing1 m).marver = s.marver ∧
      (s.deliverRing1 m).journal = s.journal ∧ (s.deliverRing1 m).tier = s.tier ∧ (s.deliverRing1 m).pins = s.pins := by
  unfold State.deliverRing1; (try dsimp only); (repeat' split) <;> simp

@[simp] theorem State.take7_frame (s : State) (c : QueueCmd) :
    (s.take7 c).pending = s.pending ∧ (s.take7 c).nc = s.nc ∧ (s.take7 c).free = s.free ∧ (s.take7 c).resp = s.resp ∧
      (s.take7 c).latches = s.latches ∧ (s.take7 c).lowers = s.lowers ∧ (s.take7 c).engines = s.engines ∧
      (s.take7 c).ve = s.ve ∧ (s.take7 c).stats = s.stats ∧ (s.take7 c).digests = s.digests ∧ (s.take7 c).mem = s.mem ∧
      (s.take7 c).se = s.se ∧ (s.take7 c).far = s.far ∧ (s.take7 c).rings = s.rings ∧ (s.take7 c).lehr = s.lehr ∧
      (s.take7 c).router = s.router ∧ (s.take7 c).marver = s.marver ∧ (s.take7 c).journal = s.journal ∧
      (s.take7 c).gaffer = s.gaffer ∧ (s.take7 c).tier = s.tier ∧ (s.take7 c).pins = s.pins :=
  ⟨rfl, rfl, rfl, rfl, rfl, rfl, rfl, rfl, rfl, rfl, rfl, rfl, rfl, rfl, rfl, rfl, rfl, rfl, rfl, rfl, rfl⟩

@[simp] theorem State.haltTask_frame (s : State) (t : Nat) (code : Half) (slot pc : Nat) (detail : List Nat) :
    (s.haltTask t code slot pc detail).pending = s.pending ∧ (s.haltTask t code slot pc detail).nc = s.nc ∧
      (s.haltTask t code slot pc detail).free = s.free ∧ (s.haltTask t code slot pc detail).resp = s.resp ∧
      (s.haltTask t code slot pc detail).latches = s.latches ∧ (s.haltTask t code slot pc detail).lowers = s.lowers ∧
      (s.haltTask t code slot pc detail).engines = s.engines ∧ (s.haltTask t code slot pc detail).ve = s.ve ∧
      (s.haltTask t code slot pc detail).stats = s.stats ∧ (s.haltTask t code slot pc detail).digests = s.digests ∧
      (s.haltTask t code slot pc detail).mem = s.mem ∧ (s.haltTask t code slot pc detail).se = s.se ∧
      (s.haltTask t code slot pc detail).far = s.far ∧ (s.haltTask t code slot pc detail).rings = s.rings ∧
      (s.haltTask t code slot pc detail).sched = s.sched ∧ (s.haltTask t code slot pc detail).lehr = s.lehr ∧
      (s.haltTask t code slot pc detail).router = s.router ∧ (s.haltTask t code slot pc detail).marver = s.marver ∧
      (s.haltTask t code slot pc detail).journal = s.journal ∧ (s.haltTask t code slot pc detail).tier = s.tier ∧
      (s.haltTask t code slot pc detail).pins = s.pins := by
  unfold State.haltTask; (try dsimp only); (repeat' split) <;> simp

@[simp] theorem State.lehrFault_frame (s : State) (cause : BitVec 2) (diff : Half) :
    (s.lehrFault cause diff).pending = s.pending ∧ (s.lehrFault cause diff).nc = s.nc ∧
      (s.lehrFault cause diff).free = s.free ∧ (s.lehrFault cause diff).resp = s.resp ∧
      (s.lehrFault cause diff).latches = s.latches ∧ (s.lehrFault cause diff).lowers = s.lowers ∧
      (s.lehrFault cause diff).core = s.core ∧ (s.lehrFault cause diff).engines = s.engines ∧
      (s.lehrFault cause diff).ve = s.ve ∧ (s.lehrFault cause diff).stats = s.stats ∧
      (s.lehrFault cause diff).digests = s.digests ∧ (s.lehrFault cause diff).mem = s.mem ∧
      (s.lehrFault cause diff).se = s.se ∧ (s.lehrFault cause diff).far = s.far ∧
      (s.lehrFault cause diff).rings = s.rings ∧ (s.lehrFault cause diff).sched = s.sched ∧
      (s.lehrFault cause diff).router = s.router ∧ (s.lehrFault cause diff).marver = s.marver ∧
      (s.lehrFault cause diff).tier = s.tier ∧ (s.lehrFault cause diff).pins = s.pins := by
  unfold State.lehrFault; (try dsimp only); (repeat' split) <;> simp

@[simp] theorem State.start_frame (s : State) (p : Packet) (a : GafferAction) :
    (s.start p a).pending = s.pending ∧ (s.start p a).nc = s.nc ∧ (s.start p a).free = s.free ∧
      (s.start p a).resp = s.resp ∧ (s.start p a).latches = s.latches ∧ (s.start p a).lowers = s.lowers ∧
      (s.start p a).core = s.core ∧ (s.start p a).engines = s.engines ∧ (s.start p a).ve = s.ve ∧
      (s.start p a).stats = s.stats ∧ (s.start p a).digests = s.digests ∧ (s.start p a).mem = s.mem ∧
      (s.start p a).se = s.se ∧ (s.start p a).far = s.far ∧ (s.start p a).rings = s.rings ∧
      (s.start p a).sched = s.sched ∧ (s.start p a).lehr = s.lehr ∧ (s.start p a).marver = s.marver ∧
      (s.start p a).journal = s.journal ∧ (s.start p a).tier = s.tier ∧ (s.start p a).pins = s.pins := by
  unfold State.start; (try dsimp only); (repeat' split) <;> simp

@[simp] theorem State.mvFault_frame (s : State) (i : Nat) (code : Half) (addr : DWord) :
    (s.mvFault i code addr).pending = s.pending ∧ (s.mvFault i code addr).nc = s.nc ∧
      (s.mvFault i code addr).free = s.free ∧ (s.mvFault i code addr).resp = s.resp ∧
      (s.mvFault i code addr).latches = s.latches ∧ (s.mvFault i code addr).lowers = s.lowers ∧
      (s.mvFault i code addr).core = s.core ∧ (s.mvFault i code addr).engines = s.engines ∧
      (s.mvFault i code addr).ve = s.ve ∧ (s.mvFault i code addr).stats = s.stats ∧
      (s.mvFault i code addr).digests = s.digests ∧ (s.mvFault i code addr).mem = s.mem ∧
      (s.mvFault i code addr).se = s.se ∧ (s.mvFault i code addr).far = s.far ∧
      (s.mvFault i code addr).rings = s.rings ∧ (s.mvFault i code addr).sched = s.sched ∧
      (s.mvFault i code addr).lehr = s.lehr ∧ (s.mvFault i code addr).router = s.router ∧
      (s.mvFault i code addr).tier = s.tier ∧ (s.mvFault i code addr).pins = s.pins := by
  unfold State.mvFault; (try dsimp only); (repeat' split) <;> simp

@[simp] theorem State.endReplay_frame (s : State) (status : Half) :
    (s.endReplay status).pending = s.pending ∧ (s.endReplay status).nc = s.nc ∧ (s.endReplay status).free = s.free ∧
      (s.endReplay status).resp = s.resp ∧ (s.endReplay status).latches = s.latches ∧
      (s.endReplay status).lowers = s.lowers ∧ (s.endReplay status).core = s.core ∧
      (s.endReplay status).engines = s.engines ∧ (s.endReplay status).ve = s.ve ∧ (s.endReplay status).stats = s.stats ∧
      (s.endReplay status).digests = s.digests ∧ (s.endReplay status).mem = s.mem ∧ (s.endReplay status).se = s.se ∧
      (s.endReplay status).far = s.far ∧ (s.endReplay status).rings = s.rings ∧ (s.endReplay status).sched = s.sched ∧
      (s.endReplay status).lehr = s.lehr ∧ (s.endReplay status).marver = s.marver ∧
      (s.endReplay status).journal = s.journal ∧ (s.endReplay status).tier = s.tier ∧
      (s.endReplay status).pins = s.pins := by
  unfold State.endReplay; (try dsimp only); (repeat' split) <;> simp

@[simp] theorem State.mouldStored_frame (s : State) (torn : Bool) (r : ReplyTo) (m : BitVec 2) (image : List Byte) :
    (s.mouldStored torn r m image).pending = s.pending ∧ (s.mouldStored torn r m image).nc = s.nc ∧
      (s.mouldStored torn r m image).resp = s.resp ∧ (s.mouldStored torn r m image).latches = s.latches ∧
      (s.mouldStored torn r m image).lowers = s.lowers ∧ (s.mouldStored torn r m image).core = s.core ∧
      (s.mouldStored torn r m image).engines = s.engines ∧ (s.mouldStored torn r m image).ve = s.ve ∧
      (s.mouldStored torn r m image).stats = s.stats ∧ (s.mouldStored torn r m image).digests = s.digests ∧
      (s.mouldStored torn r m image).mem = s.mem ∧ (s.mouldStored torn r m image).se = s.se ∧
      (s.mouldStored torn r m image).far = s.far ∧ (s.mouldStored torn r m image).rings = s.rings ∧
      (s.mouldStored torn r m image).sched = s.sched ∧ (s.mouldStored torn r m image).lehr = s.lehr ∧
      (s.mouldStored torn r m image).marver = s.marver ∧ (s.mouldStored torn r m image).journal = s.journal ∧
      (s.mouldStored torn r m image).tier = s.tier ∧ (s.mouldStored torn r m image).pins = s.pins := by
  unfold State.mouldStored; (try dsimp only); (repeat' split) <;> simp

@[simp] theorem State.advance_frame (s : State) (w : RingWrite) :
    (s.advance w).pending = s.pending ∧ (s.advance w).nc = s.nc ∧ (s.advance w).free = s.free ∧
      (s.advance w).resp = s.resp ∧ (s.advance w).latches = s.latches ∧ (s.advance w).lowers = s.lowers ∧
      (s.advance w).core = s.core ∧ (s.advance w).engines = s.engines ∧ (s.advance w).ve = s.ve ∧
      (s.advance w).stats = s.stats ∧ (s.advance w).digests = s.digests ∧ (s.advance w).mem = s.mem ∧
      (s.advance w).se = s.se ∧ (s.advance w).far = s.far ∧ (s.advance w).router = s.router ∧
      (s.advance w).marver = s.marver ∧ (s.advance w).journal = s.journal ∧ (s.advance w).gaffer = s.gaffer ∧
      (s.advance w).tier = s.tier ∧ (s.advance w).pins = s.pins := by
  unfold State.advance; (try dsimp only); (repeat' split) <;> simp

@[simp] theorem State.releaseSlot_frame (s : State) (t slot : Nat) :
    (s.releaseSlot t slot).pending = s.pending ∧ (s.releaseSlot t slot).nc = s.nc ∧
      (s.releaseSlot t slot).free = s.free ∧ (s.releaseSlot t slot).resp = s.resp ∧
      (s.releaseSlot t slot).latches = s.latches ∧ (s.releaseSlot t slot).lowers = s.lowers ∧
      (s.releaseSlot t slot).core = s.core ∧ (s.releaseSlot t slot).engines = s.engines ∧
      (s.releaseSlot t slot).ve = s.ve ∧ (s.releaseSlot t slot).stats = s.stats ∧
      (s.releaseSlot t slot).digests = s.digests ∧ (s.releaseSlot t slot).se = s.se ∧
      (s.releaseSlot t slot).far = s.far ∧ (s.releaseSlot t slot).sched = s.sched ∧
      (s.releaseSlot t slot).lehr = s.lehr ∧ (s.releaseSlot t slot).router = s.router ∧
      (s.releaseSlot t slot).marver = s.marver ∧ (s.releaseSlot t slot).gaffer = s.gaffer ∧
      (s.releaseSlot t slot).tier = s.tier ∧ (s.releaseSlot t slot).pins = s.pins := by
  unfold State.releaseSlot; (try dsimp only); (repeat' split) <;> simp

@[simp] theorem State.finalReplay_frame (s : State) (a : TimedAction) :
    (s.finalReplay a).pending = s.pending ∧ (s.finalReplay a).nc = s.nc ∧ (s.finalReplay a).free = s.free ∧
      (s.finalReplay a).resp = s.resp ∧ (s.finalReplay a).latches = s.latches ∧ (s.finalReplay a).lowers = s.lowers ∧
      (s.finalReplay a).core = s.core ∧ (s.finalReplay a).engines = s.engines ∧ (s.finalReplay a).ve = s.ve ∧
      (s.finalReplay a).stats = s.stats ∧ (s.finalReplay a).digests = s.digests ∧ (s.finalReplay a).mem = s.mem ∧
      (s.finalReplay a).se = s.se ∧ (s.finalReplay a).far = s.far ∧ (s.finalReplay a).rings = s.rings ∧
      (s.finalReplay a).sched = s.sched ∧ (s.finalReplay a).lehr = s.lehr ∧ (s.finalReplay a).marver = s.marver ∧
      (s.finalReplay a).journal = s.journal ∧ (s.finalReplay a).tier = s.tier ∧ (s.finalReplay a).pins = s.pins := by
  unfold State.finalReplay; (try dsimp only); (repeat' split) <;> simp

@[simp] theorem State.mvOrphan_frame (s : State) (t slot : Nat) :
    (s.mvOrphan t slot).pending = s.pending ∧ (s.mvOrphan t slot).nc = s.nc ∧ (s.mvOrphan t slot).free = s.free ∧
      (s.mvOrphan t slot).resp = s.resp ∧ (s.mvOrphan t slot).latches = s.latches ∧
      (s.mvOrphan t slot).lowers = s.lowers ∧ (s.mvOrphan t slot).core = s.core ∧
      (s.mvOrphan t slot).engines = s.engines ∧ (s.mvOrphan t slot).ve = s.ve ∧ (s.mvOrphan t slot).stats = s.stats ∧
      (s.mvOrphan t slot).digests = s.digests ∧ (s.mvOrphan t slot).se = s.se ∧ (s.mvOrphan t slot).far = s.far ∧
      (s.mvOrphan t slot).sched = s.sched ∧ (s.mvOrphan t slot).lehr = s.lehr ∧ (s.mvOrphan t slot).router = s.router ∧
      (s.mvOrphan t slot).gaffer = s.gaffer ∧ (s.mvOrphan t slot).tier = s.tier ∧ (s.mvOrphan t slot).pins = s.pins := by
  unfold State.mvOrphan; (try dsimp only); (repeat' split) <;> simp

@[simp] theorem State.replayMismatch_frame (s : State) (cause : Nat) (jseq : Word) :
    (s.replayMismatch cause jseq).pending = s.pending ∧ (s.replayMismatch cause jseq).nc = s.nc ∧
      (s.replayMismatch cause jseq).free = s.free ∧ (s.replayMismatch cause jseq).resp = s.resp ∧
      (s.replayMismatch cause jseq).latches = s.latches ∧ (s.replayMismatch cause jseq).lowers = s.lowers ∧
      (s.replayMismatch cause jseq).engines = s.engines ∧ (s.replayMismatch cause jseq).ve = s.ve ∧
      (s.replayMismatch cause jseq).stats = s.stats ∧ (s.replayMismatch cause jseq).digests = s.digests ∧
      (s.replayMismatch cause jseq).mem = s.mem ∧ (s.replayMismatch cause jseq).se = s.se ∧
      (s.replayMismatch cause jseq).far = s.far ∧ (s.replayMismatch cause jseq).rings = s.rings ∧
      (s.replayMismatch cause jseq).sched = s.sched ∧ (s.replayMismatch cause jseq).lehr = s.lehr ∧
      (s.replayMismatch cause jseq).marver = s.marver ∧ (s.replayMismatch cause jseq).tier = s.tier ∧
      (s.replayMismatch cause jseq).pins = s.pins := by
  unfold State.replayMismatch; (try dsimp only); (repeat' split) <;> simp

@[simp] theorem State.pushStore_frame (s : State) (t a n : Nat) (v : DWord) :
    (s.pushStore t a n v).pending = s.pending ∧ (s.pushStore t a n v).nc = s.nc ∧
      (s.pushStore t a n v).free = s.free ∧ (s.pushStore t a n v).resp = s.resp ∧
      (s.pushStore t a n v).latches = s.latches ∧ (s.pushStore t a n v).lowers = s.lowers ∧
      (s.pushStore t a n v).engines = s.engines ∧ (s.pushStore t a n v).ve = s.ve ∧
      (s.pushStore t a n v).stats = s.stats ∧ (s.pushStore t a n v).digests = s.digests ∧
      (s.pushStore t a n v).mem = s.mem ∧ (s.pushStore t a n v).se = s.se ∧ (s.pushStore t a n v).far = s.far ∧
      (s.pushStore t a n v).rings = s.rings ∧ (s.pushStore t a n v).sched = s.sched ∧
      (s.pushStore t a n v).lehr = s.lehr ∧ (s.pushStore t a n v).router = s.router ∧
      (s.pushStore t a n v).marver = s.marver ∧ (s.pushStore t a n v).journal = s.journal ∧
      (s.pushStore t a n v).gaffer = s.gaffer ∧ (s.pushStore t a n v).tier = s.tier ∧
      (s.pushStore t a n v).pins = s.pins :=
  ⟨rfl, rfl, rfl, rfl, rfl, rfl, rfl, rfl, rfl, rfl, rfl, rfl, rfl, rfl, rfl, rfl, rfl, rfl, rfl, rfl, rfl, rfl⟩

@[simp] theorem State.settleStaging_frame (s : State) :
    s.settleStaging.pending = s.pending ∧ s.settleStaging.nc = s.nc ∧ s.settleStaging.free = s.free ∧
      s.settleStaging.resp = s.resp ∧ s.settleStaging.latches = s.latches ∧ s.settleStaging.lowers = s.lowers ∧
      s.settleStaging.core = s.core ∧ s.settleStaging.engines = s.engines ∧ s.settleStaging.ve = s.ve ∧
      s.settleStaging.stats = s.stats ∧ s.settleStaging.digests = s.digests ∧ s.settleStaging.mem = s.mem ∧
      s.settleStaging.se = s.se ∧ s.settleStaging.far = s.far ∧ s.settleStaging.rings = s.rings ∧
      s.settleStaging.sched = s.sched ∧ s.settleStaging.lehr = s.lehr ∧ s.settleStaging.router = s.router ∧
      s.settleStaging.marver = s.marver ∧ s.settleStaging.tier = s.tier ∧ s.settleStaging.pins = s.pins := by
  unfold State.settleStaging; (try dsimp only); (repeat' split) <;> simp

@[simp] theorem State.freeInput_frame (s : State) (input lane n : Nat) :
    (s.freeInput input lane n).pending = s.pending ∧ (s.freeInput input lane n).nc = s.nc ∧
      (s.freeInput input lane n).free = s.free ∧ (s.freeInput input lane n).resp = s.resp ∧
      (s.freeInput input lane n).latches = s.latches ∧ (s.freeInput input lane n).lowers = s.lowers ∧
      (s.freeInput input lane n).core = s.core ∧ (s.freeInput input lane n).engines = s.engines ∧
      (s.freeInput input lane n).ve = s.ve ∧ (s.freeInput input lane n).stats = s.stats ∧
      (s.freeInput input lane n).digests = s.digests ∧ (s.freeInput input lane n).mem = s.mem ∧
      (s.freeInput input lane n).se = s.se ∧ (s.freeInput input lane n).far = s.far ∧
      (s.freeInput input lane n).rings = s.rings ∧ (s.freeInput input lane n).sched = s.sched ∧
      (s.freeInput input lane n).lehr = s.lehr ∧ (s.freeInput input lane n).marver = s.marver ∧
      (s.freeInput input lane n).journal = s.journal ∧ (s.freeInput input lane n).gaffer = s.gaffer ∧
      (s.freeInput input lane n).tier = s.tier ∧ (s.freeInput input lane n).pins = s.pins := by
  unfold State.freeInput; (try dsimp only); (repeat' split) <;> simp

@[simp] theorem State.sendFrame_frame (s : State) (seq ack : Half) (type : Nat) (slots : List (List Byte × Byte)) :
    (s.sendFrame seq ack type slots).pending = s.pending ∧ (s.sendFrame seq ack type slots).nc = s.nc ∧
      (s.sendFrame seq ack type slots).free = s.free ∧ (s.sendFrame seq ack type slots).resp = s.resp ∧
      (s.sendFrame seq ack type slots).latches = s.latches ∧ (s.sendFrame seq ack type slots).lowers = s.lowers ∧
      (s.sendFrame seq ack type slots).core = s.core ∧ (s.sendFrame seq ack type slots).engines = s.engines ∧
      (s.sendFrame seq ack type slots).ve = s.ve ∧ (s.sendFrame seq ack type slots).stats = s.stats ∧
      (s.sendFrame seq ack type slots).digests = s.digests ∧ (s.sendFrame seq ack type slots).mem = s.mem ∧
      (s.sendFrame seq ack type slots).se = s.se ∧ (s.sendFrame seq ack type slots).far = s.far ∧
      (s.sendFrame seq ack type slots).rings = s.rings ∧ (s.sendFrame seq ack type slots).sched = s.sched ∧
      (s.sendFrame seq ack type slots).lehr = s.lehr ∧ (s.sendFrame seq ack type slots).marver = s.marver ∧
      (s.sendFrame seq ack type slots).journal = s.journal ∧ (s.sendFrame seq ack type slots).gaffer = s.gaffer ∧
      (s.sendFrame seq ack type slots).tier = s.tier ∧ (s.sendFrame seq ack type slots).pins = s.pins :=
  ⟨rfl, rfl, rfl, rfl, rfl, rfl, rfl, rfl, rfl, rfl, rfl, rfl, rfl, rfl, rfl, rfl, rfl, rfl, rfl, rfl, rfl, rfl⟩

@[simp] theorem State.sendHello_frame (s : State) (p : Nat) :
    (s.sendHello p).pending = s.pending ∧ (s.sendHello p).nc = s.nc ∧ (s.sendHello p).free = s.free ∧
      (s.sendHello p).resp = s.resp ∧ (s.sendHello p).latches = s.latches ∧ (s.sendHello p).lowers = s.lowers ∧
      (s.sendHello p).core = s.core ∧ (s.sendHello p).engines = s.engines ∧ (s.sendHello p).ve = s.ve ∧
      (s.sendHello p).stats = s.stats ∧ (s.sendHello p).digests = s.digests ∧ (s.sendHello p).mem = s.mem ∧
      (s.sendHello p).se = s.se ∧ (s.sendHello p).far = s.far ∧ (s.sendHello p).rings = s.rings ∧
      (s.sendHello p).sched = s.sched ∧ (s.sendHello p).lehr = s.lehr ∧ (s.sendHello p).marver = s.marver ∧
      (s.sendHello p).journal = s.journal ∧ (s.sendHello p).gaffer = s.gaffer ∧ (s.sendHello p).tier = s.tier ∧
      (s.sendHello p).pins = s.pins := by
  unfold State.sendHello; (try dsimp only); (repeat' split) <;> simp

@[simp] theorem State.sendIdle_frame (s : State) (p : Nat) :
    (s.sendIdle p).pending = s.pending ∧ (s.sendIdle p).nc = s.nc ∧ (s.sendIdle p).free = s.free ∧
      (s.sendIdle p).resp = s.resp ∧ (s.sendIdle p).latches = s.latches ∧ (s.sendIdle p).lowers = s.lowers ∧
      (s.sendIdle p).core = s.core ∧ (s.sendIdle p).engines = s.engines ∧ (s.sendIdle p).ve = s.ve ∧
      (s.sendIdle p).stats = s.stats ∧ (s.sendIdle p).digests = s.digests ∧ (s.sendIdle p).mem = s.mem ∧
      (s.sendIdle p).se = s.se ∧ (s.sendIdle p).far = s.far ∧ (s.sendIdle p).rings = s.rings ∧
      (s.sendIdle p).sched = s.sched ∧ (s.sendIdle p).lehr = s.lehr ∧ (s.sendIdle p).marver = s.marver ∧
      (s.sendIdle p).journal = s.journal ∧ (s.sendIdle p).gaffer = s.gaffer ∧ (s.sendIdle p).tier = s.tier ∧
      (s.sendIdle p).pins = s.pins :=
  ⟨rfl, rfl, rfl, rfl, rfl, rfl, rfl, rfl, rfl, rfl, rfl, rfl, rfl, rfl, rfl, rfl, rfl, rfl, rfl, rfl, rfl, rfl⟩

@[simp] theorem State.sendFlit_frame (s : State) (p i : Nat) :
    (s.sendFlit p i).pending = s.pending ∧ (s.sendFlit p i).nc = s.nc ∧ (s.sendFlit p i).free = s.free ∧
      (s.sendFlit p i).resp = s.resp ∧ (s.sendFlit p i).latches = s.latches ∧ (s.sendFlit p i).lowers = s.lowers ∧
      (s.sendFlit p i).core = s.core ∧ (s.sendFlit p i).engines = s.engines ∧ (s.sendFlit p i).ve = s.ve ∧
      (s.sendFlit p i).stats = s.stats ∧ (s.sendFlit p i).digests = s.digests ∧ (s.sendFlit p i).mem = s.mem ∧
      (s.sendFlit p i).se = s.se ∧ (s.sendFlit p i).far = s.far ∧ (s.sendFlit p i).rings = s.rings ∧
      (s.sendFlit p i).sched = s.sched ∧ (s.sendFlit p i).lehr = s.lehr ∧ (s.sendFlit p i).marver = s.marver ∧
      (s.sendFlit p i).journal = s.journal ∧ (s.sendFlit p i).gaffer = s.gaffer ∧ (s.sendFlit p i).tier = s.tier ∧
      (s.sendFlit p i).pins = s.pins := by
  unfold State.sendFlit; (try dsimp only); (repeat' split) <;> simp

@[simp] theorem State.dropAt_frame (s : State) (p : Nat) (m : Message) :
    (s.dropAt p m).pending = s.pending ∧ (s.dropAt p m).nc = s.nc ∧ (s.dropAt p m).free = s.free ∧
      (s.dropAt p m).resp = s.resp ∧ (s.dropAt p m).latches = s.latches ∧ (s.dropAt p m).lowers = s.lowers ∧
      (s.dropAt p m).core = s.core ∧ (s.dropAt p m).engines = s.engines ∧ (s.dropAt p m).ve = s.ve ∧
      (s.dropAt p m).stats = s.stats ∧ (s.dropAt p m).digests = s.digests ∧ (s.dropAt p m).mem = s.mem ∧
      (s.dropAt p m).se = s.se ∧ (s.dropAt p m).far = s.far ∧ (s.dropAt p m).rings = s.rings ∧
      (s.dropAt p m).sched = s.sched ∧ (s.dropAt p m).lehr = s.lehr ∧ (s.dropAt p m).marver = s.marver ∧
      (s.dropAt p m).journal = s.journal ∧ (s.dropAt p m).tier = s.tier ∧ (s.dropAt p m).pins = s.pins := by
  unfold State.dropAt; (try dsimp only); (repeat' split) <;> simp

@[simp] theorem State.cutInput_frame (s : State) (input lane : Nat) :
    (s.cutInput input lane).pending = s.pending ∧ (s.cutInput input lane).nc = s.nc ∧
      (s.cutInput input lane).free = s.free ∧ (s.cutInput input lane).resp = s.resp ∧
      (s.cutInput input lane).latches = s.latches ∧ (s.cutInput input lane).lowers = s.lowers ∧
      (s.cutInput input lane).core = s.core ∧ (s.cutInput input lane).engines = s.engines ∧
      (s.cutInput input lane).ve = s.ve ∧ (s.cutInput input lane).stats = s.stats ∧
      (s.cutInput input lane).digests = s.digests ∧ (s.cutInput input lane).mem = s.mem ∧
      (s.cutInput input lane).se = s.se ∧ (s.cutInput input lane).far = s.far ∧
      (s.cutInput input lane).rings = s.rings ∧ (s.cutInput input lane).sched = s.sched ∧
      (s.cutInput input lane).lehr = s.lehr ∧ (s.cutInput input lane).marver = s.marver ∧
      (s.cutInput input lane).journal = s.journal ∧ (s.cutInput input lane).gaffer = s.gaffer ∧
      (s.cutInput input lane).tier = s.tier ∧ (s.cutInput input lane).pins = s.pins := by
  unfold State.cutInput; (try dsimp only); (repeat' split) <;> simp

@[simp] theorem State.pumpMesh_frame (p k : Nat) (s : State) :
    (State.pumpMesh p k s).pending = s.pending ∧ (State.pumpMesh p k s).nc = s.nc ∧
      (State.pumpMesh p k s).free = s.free ∧ (State.pumpMesh p k s).resp = s.resp ∧
      (State.pumpMesh p k s).latches = s.latches ∧ (State.pumpMesh p k s).lowers = s.lowers ∧
      (State.pumpMesh p k s).core = s.core ∧ (State.pumpMesh p k s).engines = s.engines ∧
      (State.pumpMesh p k s).ve = s.ve ∧ (State.pumpMesh p k s).stats = s.stats ∧
      (State.pumpMesh p k s).digests = s.digests ∧ (State.pumpMesh p k s).mem = s.mem ∧
      (State.pumpMesh p k s).se = s.se ∧ (State.pumpMesh p k s).far = s.far ∧
      (State.pumpMesh p k s).rings = s.rings ∧ (State.pumpMesh p k s).sched = s.sched ∧
      (State.pumpMesh p k s).lehr = s.lehr ∧ (State.pumpMesh p k s).marver = s.marver ∧
      (State.pumpMesh p k s).journal = s.journal ∧ (State.pumpMesh p k s).gaffer = s.gaffer ∧
      (State.pumpMesh p k s).tier = s.tier ∧ (State.pumpMesh p k s).pins = s.pins := by
  induction k generalizing s with
  | zero => exact ⟨rfl, rfl, rfl, rfl, rfl, rfl, rfl, rfl, rfl, rfl, rfl, rfl, rfl, rfl, rfl, rfl, rfl, rfl, rfl, rfl, rfl, rfl⟩
  | succ k ih =>
    unfold State.pumpMesh; (try dsimp only); (repeat' split) <;> simp [ih]

@[simp] theorem edgeSlots_frame (k : Nat) (s : State) :
    (edgeSlots k s).2.pending = s.pending ∧ (edgeSlots k s).2.nc = s.nc ∧ (edgeSlots k s).2.free = s.free ∧
      (edgeSlots k s).2.resp = s.resp ∧ (edgeSlots k s).2.latches = s.latches ∧ (edgeSlots k s).2.lowers = s.lowers ∧
      (edgeSlots k s).2.core = s.core ∧ (edgeSlots k s).2.engines = s.engines ∧ (edgeSlots k s).2.ve = s.ve ∧
      (edgeSlots k s).2.stats = s.stats ∧ (edgeSlots k s).2.digests = s.digests ∧ (edgeSlots k s).2.mem = s.mem ∧
      (edgeSlots k s).2.se = s.se ∧ (edgeSlots k s).2.far = s.far ∧ (edgeSlots k s).2.rings = s.rings ∧
      (edgeSlots k s).2.sched = s.sched ∧ (edgeSlots k s).2.lehr = s.lehr ∧ (edgeSlots k s).2.marver = s.marver ∧
      (edgeSlots k s).2.journal = s.journal ∧ (edgeSlots k s).2.gaffer = s.gaffer ∧ (edgeSlots k s).2.tier = s.tier ∧
      (edgeSlots k s).2.pins = s.pins := by
  induction k generalizing s with
  | zero => exact ⟨rfl, rfl, rfl, rfl, rfl, rfl, rfl, rfl, rfl, rfl, rfl, rfl, rfl, rfl, rfl, rfl, rfl, rfl, rfl, rfl, rfl, rfl⟩
  | succ k ih =>
    unfold edgeSlots; (try dsimp only); (repeat' split) <;> simp [ih]

@[simp] theorem edgePump_frame (k : Nat) (s : State) :
    (edgePump k s).pending = s.pending ∧ (edgePump k s).nc = s.nc ∧ (edgePump k s).free = s.free ∧
      (edgePump k s).resp = s.resp ∧ (edgePump k s).latches = s.latches ∧ (edgePump k s).lowers = s.lowers ∧
      (edgePump k s).core = s.core ∧ (edgePump k s).engines = s.engines ∧ (edgePump k s).ve = s.ve ∧
      (edgePump k s).stats = s.stats ∧ (edgePump k s).digests = s.digests ∧ (edgePump k s).mem = s.mem ∧
      (edgePump k s).se = s.se ∧ (edgePump k s).far = s.far ∧ (edgePump k s).rings = s.rings ∧
      (edgePump k s).sched = s.sched ∧ (edgePump k s).lehr = s.lehr ∧ (edgePump k s).marver = s.marver ∧
      (edgePump k s).journal = s.journal ∧ (edgePump k s).gaffer = s.gaffer ∧ (edgePump k s).tier = s.tier ∧
      (edgePump k s).pins = s.pins := by
  induction k generalizing s with
  | zero => exact ⟨rfl, rfl, rfl, rfl, rfl, rfl, rfl, rfl, rfl, rfl, rfl, rfl, rfl, rfl, rfl, rfl, rfl, rfl, rfl, rfl, rfl, rfl⟩
  | succ k ih =>
    unfold edgePump; (try dsimp only); (repeat' split) <;> simp [ih]

@[simp] theorem State.pumpPort_frame (s : State) (p : Nat) :
    (s.pumpPort p).pending = s.pending ∧ (s.pumpPort p).nc = s.nc ∧ (s.pumpPort p).free = s.free ∧
      (s.pumpPort p).resp = s.resp ∧ (s.pumpPort p).latches = s.latches ∧ (s.pumpPort p).lowers = s.lowers ∧
      (s.pumpPort p).core = s.core ∧ (s.pumpPort p).engines = s.engines ∧ (s.pumpPort p).ve = s.ve ∧
      (s.pumpPort p).stats = s.stats ∧ (s.pumpPort p).digests = s.digests ∧ (s.pumpPort p).mem = s.mem ∧
      (s.pumpPort p).se = s.se ∧ (s.pumpPort p).far = s.far ∧ (s.pumpPort p).rings = s.rings ∧
      (s.pumpPort p).sched = s.sched ∧ (s.pumpPort p).lehr = s.lehr ∧ (s.pumpPort p).marver = s.marver ∧
      (s.pumpPort p).journal = s.journal ∧ (s.pumpPort p).gaffer = s.gaffer ∧ (s.pumpPort p).tier = s.tier ∧
      (s.pumpPort p).pins = s.pins := by
  unfold State.pumpPort; (try dsimp only); (repeat' split) <;> simp

@[simp] theorem State.dropSlots_frame (s : State) (t : Nat) :
    (s.dropSlots t).pending = s.pending ∧ (s.dropSlots t).nc = s.nc ∧ (s.dropSlots t).free = s.free ∧
      (s.dropSlots t).resp = s.resp ∧ (s.dropSlots t).latches = s.latches ∧ (s.dropSlots t).lowers = s.lowers ∧
      (s.dropSlots t).core = s.core ∧ (s.dropSlots t).engines = s.engines ∧ (s.dropSlots t).ve = s.ve ∧
      (s.dropSlots t).stats = s.stats ∧ (s.dropSlots t).digests = s.digests ∧ (s.dropSlots t).se = s.se ∧
      (s.dropSlots t).far = s.far ∧ (s.dropSlots t).sched = s.sched ∧ (s.dropSlots t).lehr = s.lehr ∧
      (s.dropSlots t).router = s.router ∧ (s.dropSlots t).gaffer = s.gaffer ∧ (s.dropSlots t).tier = s.tier ∧
      (s.dropSlots t).pins = s.pins := by
  unfold State.dropSlots; (try dsimp only); (repeat' split) <;> simp

@[simp] theorem State.deliverLocal_frame (s : State) (input : Nat) (m : Message) :
    (s.deliverLocal input m).pending = s.pending ∧ (s.deliverLocal input m).nc = s.nc ∧
      (s.deliverLocal input m).free = s.free ∧ (s.deliverLocal input m).resp = s.resp ∧
      (s.deliverLocal input m).latches = s.latches ∧ (s.deliverLocal input m).lowers = s.lowers ∧
      (s.deliverLocal input m).core = s.core ∧ (s.deliverLocal input m).engines = s.engines ∧
      (s.deliverLocal input m).ve = s.ve ∧ (s.deliverLocal input m).stats = s.stats ∧
      (s.deliverLocal input m).digests = s.digests ∧ (s.deliverLocal input m).mem = s.mem ∧
      (s.deliverLocal input m).se = s.se ∧ (s.deliverLocal input m).far = s.far ∧
      (s.deliverLocal input m).rings = s.rings ∧ (s.deliverLocal input m).sched = s.sched ∧
      (s.deliverLocal input m).lehr = s.lehr ∧ (s.deliverLocal input m).marver = s.marver ∧
      (s.deliverLocal input m).journal = s.journal ∧ (s.deliverLocal input m).gaffer = s.gaffer ∧
      (s.deliverLocal input m).tier = s.tier ∧ (s.deliverLocal input m).pins = s.pins := by
  unfold State.deliverLocal; (try dsimp only); (repeat' split) <;> simp

@[simp] theorem State.dropCompute_frame (s : State) :
    s.dropCompute.pending = s.pending ∧ s.dropCompute.nc = s.nc ∧ s.dropCompute.free = s.free ∧
      s.dropCompute.resp = s.resp ∧ s.dropCompute.digests = s.digests ∧ s.dropCompute.mem = s.mem ∧
      s.dropCompute.se = s.se ∧ s.dropCompute.far = s.far ∧ s.dropCompute.router = s.router ∧
      s.dropCompute.gaffer = s.gaffer ∧ s.dropCompute.tier = s.tier ∧ s.dropCompute.pins = s.pins :=
  ⟨rfl, rfl, rfl, rfl, rfl, rfl, rfl, rfl, rfl, rfl, rfl, rfl⟩

@[simp] theorem State.dropFrame_frame (s : State) :
    s.dropFrame.pending = s.pending ∧ s.dropFrame.nc = s.nc ∧ s.dropFrame.free = s.free ∧ s.dropFrame.resp = s.resp ∧
      s.dropFrame.latches = s.latches ∧ s.dropFrame.lowers = s.lowers ∧ s.dropFrame.core = s.core ∧
      s.dropFrame.engines = s.engines ∧ s.dropFrame.ve = s.ve ∧ s.dropFrame.stats = s.stats ∧
      s.dropFrame.digests = s.digests ∧ s.dropFrame.mem = s.mem ∧ s.dropFrame.se = s.se ∧ s.dropFrame.far = s.far ∧
      s.dropFrame.rings = s.rings ∧ s.dropFrame.sched = s.sched ∧ s.dropFrame.lehr = s.lehr ∧
      s.dropFrame.marver = s.marver ∧ s.dropFrame.journal = s.journal ∧ s.dropFrame.gaffer = s.gaffer ∧
      s.dropFrame.tier = s.tier ∧ s.dropFrame.pins = s.pins := by
  unfold State.dropFrame; (try dsimp only); (repeat' split) <;> simp

@[simp] theorem State.partnerChanged_frame (s : State) (p : Nat) :
    (s.partnerChanged p).pending = s.pending ∧ (s.partnerChanged p).nc = s.nc ∧ (s.partnerChanged p).free = s.free ∧
      (s.partnerChanged p).resp = s.resp ∧ (s.partnerChanged p).latches = s.latches ∧
      (s.partnerChanged p).lowers = s.lowers ∧ (s.partnerChanged p).core = s.core ∧
      (s.partnerChanged p).engines = s.engines ∧ (s.partnerChanged p).ve = s.ve ∧
      (s.partnerChanged p).stats = s.stats ∧ (s.partnerChanged p).digests = s.digests ∧
      (s.partnerChanged p).mem = s.mem ∧ (s.partnerChanged p).se = s.se ∧ (s.partnerChanged p).far = s.far ∧
      (s.partnerChanged p).rings = s.rings ∧ (s.partnerChanged p).sched = s.sched ∧
      (s.partnerChanged p).lehr = s.lehr ∧ (s.partnerChanged p).marver = s.marver ∧
      (s.partnerChanged p).journal = s.journal ∧ (s.partnerChanged p).tier = s.tier ∧
      (s.partnerChanged p).pins = s.pins := by
  unfold State.partnerChanged; (try dsimp only); (repeat' split) <;> simp

@[simp] theorem State.portUp_frame (s : State) (p gen : Nat) :
    (s.portUp p gen).pending = s.pending ∧ (s.portUp p gen).nc = s.nc ∧ (s.portUp p gen).free = s.free ∧
      (s.portUp p gen).resp = s.resp ∧ (s.portUp p gen).latches = s.latches ∧ (s.portUp p gen).lowers = s.lowers ∧
      (s.portUp p gen).core = s.core ∧ (s.portUp p gen).engines = s.engines ∧ (s.portUp p gen).ve = s.ve ∧
      (s.portUp p gen).stats = s.stats ∧ (s.portUp p gen).digests = s.digests ∧ (s.portUp p gen).mem = s.mem ∧
      (s.portUp p gen).se = s.se ∧ (s.portUp p gen).far = s.far ∧ (s.portUp p gen).rings = s.rings ∧
      (s.portUp p gen).sched = s.sched ∧ (s.portUp p gen).lehr = s.lehr ∧ (s.portUp p gen).marver = s.marver ∧
      (s.portUp p gen).journal = s.journal ∧ (s.portUp p gen).tier = s.tier ∧ (s.portUp p gen).pins = s.pins := by
  unfold State.portUp; (try dsimp only); (repeat' split) <;> simp

@[simp] theorem State.helloDone_frame (s : State) (p : Nat) (r : List Byte) :
    (s.helloDone p r).pending = s.pending ∧ (s.helloDone p r).nc = s.nc ∧ (s.helloDone p r).free = s.free ∧
      (s.helloDone p r).resp = s.resp ∧ (s.helloDone p r).latches = s.latches ∧ (s.helloDone p r).lowers = s.lowers ∧
      (s.helloDone p r).core = s.core ∧ (s.helloDone p r).engines = s.engines ∧ (s.helloDone p r).ve = s.ve ∧
      (s.helloDone p r).stats = s.stats ∧ (s.helloDone p r).digests = s.digests ∧ (s.helloDone p r).mem = s.mem ∧
      (s.helloDone p r).se = s.se ∧ (s.helloDone p r).far = s.far ∧ (s.helloDone p r).rings = s.rings ∧
      (s.helloDone p r).sched = s.sched ∧ (s.helloDone p r).lehr = s.lehr ∧ (s.helloDone p r).marver = s.marver ∧
      (s.helloDone p r).journal = s.journal ∧ (s.helloDone p r).tier = s.tier ∧ (s.helloDone p r).pins = s.pins := by
  unfold State.helloDone; (try dsimp only); (repeat' split) <;> simp

@[simp] theorem State.showId_frame (s : State) :
    s.showId.pending = s.pending ∧ s.showId.nc = s.nc ∧ s.showId.free = s.free ∧ s.showId.resp = s.resp ∧
      s.showId.latches = s.latches ∧ s.showId.lowers = s.lowers ∧ s.showId.core = s.core ∧
      s.showId.engines = s.engines ∧ s.showId.ve = s.ve ∧ s.showId.stats = s.stats ∧ s.showId.digests = s.digests ∧
      s.showId.mem = s.mem ∧ s.showId.se = s.se ∧ s.showId.far = s.far ∧ s.showId.rings = s.rings ∧
      s.showId.sched = s.sched ∧ s.showId.lehr = s.lehr ∧ s.showId.marver = s.marver ∧ s.showId.gaffer = s.gaffer ∧
      s.showId.tier = s.tier ∧ s.showId.pins = s.pins :=
  ⟨rfl, rfl, rfl, rfl, rfl, rfl, rfl, rfl, rfl, rfl, rfl, rfl, rfl, rfl, rfl, rfl, rfl, rfl, rfl, rfl, rfl⟩

@[simp] theorem State.excess_frame (s : State) (a flags : Nat) :
    (s.excess a flags).pending = s.pending ∧ (s.excess a flags).nc = s.nc ∧ (s.excess a flags).free = s.free ∧
      (s.excess a flags).resp = s.resp ∧ (s.excess a flags).latches = s.latches ∧
      (s.excess a flags).lowers = s.lowers ∧ (s.excess a flags).core = s.core ∧
      (s.excess a flags).engines = s.engines ∧ (s.excess a flags).ve = s.ve ∧ (s.excess a flags).stats = s.stats ∧
      (s.excess a flags).digests = s.digests ∧ (s.excess a flags).se = s.se ∧ (s.excess a flags).far = s.far ∧
      (s.excess a flags).sched = s.sched ∧ (s.excess a flags).lehr = s.lehr ∧ (s.excess a flags).router = s.router ∧
      (s.excess a flags).marver = s.marver ∧ (s.excess a flags).gaffer = s.gaffer ∧
      (s.excess a flags).tier = s.tier ∧ (s.excess a flags).pins = s.pins :=
  ⟨rfl, rfl, rfl, rfl, rfl, rfl, rfl, rfl, rfl, rfl, rfl, rfl, rfl, rfl, rfl, rfl, rfl, rfl, rfl, rfl⟩

@[simp] theorem State.jappend_frame (s : State) (kind rank : Nat) (stamp : DWord) (arg body : List Byte) :
    (s.jappend kind rank stamp arg body).pending = s.pending ∧ (s.jappend kind rank stamp arg body).nc = s.nc ∧
      (s.jappend kind rank stamp arg body).free = s.free ∧ (s.jappend kind rank stamp arg body).resp = s.resp ∧
      (s.jappend kind rank stamp arg body).latches = s.latches ∧
      (s.jappend kind rank stamp arg body).lowers = s.lowers ∧ (s.jappend kind rank stamp arg body).core = s.core ∧
      (s.jappend kind rank stamp arg body).engines = s.engines ∧ (s.jappend kind rank stamp arg body).ve = s.ve ∧
      (s.jappend kind rank stamp arg body).stats = s.stats ∧
      (s.jappend kind rank stamp arg body).digests = s.digests ∧ (s.jappend kind rank stamp arg body).mem = s.mem ∧
      (s.jappend kind rank stamp arg body).se = s.se ∧ (s.jappend kind rank stamp arg body).far = s.far ∧
      (s.jappend kind rank stamp arg body).rings = s.rings ∧ (s.jappend kind rank stamp arg body).sched = s.sched ∧
      (s.jappend kind rank stamp arg body).lehr = s.lehr ∧ (s.jappend kind rank stamp arg body).router = s.router ∧
      (s.jappend kind rank stamp arg body).marver = s.marver ∧ (s.jappend kind rank stamp arg body).tier = s.tier ∧
      (s.jappend kind rank stamp arg body).pins = s.pins := by
  unfold State.jappend; (try dsimp only); (repeat' split) <;> simp

@[simp] theorem State.jmessage_frame (s : State) (kind : Nat) (m : Message) (stamp : DWord) (port : Nat) :
    (s.jmessage kind m stamp port).pending = s.pending ∧ (s.jmessage kind m stamp port).nc = s.nc ∧
      (s.jmessage kind m stamp port).free = s.free ∧ (s.jmessage kind m stamp port).resp = s.resp ∧
      (s.jmessage kind m stamp port).latches = s.latches ∧ (s.jmessage kind m stamp port).lowers = s.lowers ∧
      (s.jmessage kind m stamp port).core = s.core ∧ (s.jmessage kind m stamp port).engines = s.engines ∧
      (s.jmessage kind m stamp port).ve = s.ve ∧ (s.jmessage kind m stamp port).stats = s.stats ∧
      (s.jmessage kind m stamp port).digests = s.digests ∧ (s.jmessage kind m stamp port).mem = s.mem ∧
      (s.jmessage kind m stamp port).se = s.se ∧ (s.jmessage kind m stamp port).far = s.far ∧
      (s.jmessage kind m stamp port).rings = s.rings ∧ (s.jmessage kind m stamp port).sched = s.sched ∧
      (s.jmessage kind m stamp port).lehr = s.lehr ∧ (s.jmessage kind m stamp port).router = s.router ∧
      (s.jmessage kind m stamp port).marver = s.marver ∧ (s.jmessage kind m stamp port).tier = s.tier ∧
      (s.jmessage kind m stamp port).pins = s.pins := by
  unfold State.jmessage; (try dsimp only); (repeat' split) <;> simp

@[simp] theorem State.jread_frame (s : State) (src ord : Nat) (faddr : Nat) (data : List Byte) :
    (s.jread src ord faddr data).pending = s.pending ∧ (s.jread src ord faddr data).nc = s.nc ∧
      (s.jread src ord faddr data).free = s.free ∧ (s.jread src ord faddr data).resp = s.resp ∧
      (s.jread src ord faddr data).latches = s.latches ∧ (s.jread src ord faddr data).lowers = s.lowers ∧
      (s.jread src ord faddr data).core = s.core ∧ (s.jread src ord faddr data).engines = s.engines ∧
      (s.jread src ord faddr data).ve = s.ve ∧ (s.jread src ord faddr data).stats = s.stats ∧
      (s.jread src ord faddr data).digests = s.digests ∧ (s.jread src ord faddr data).mem = s.mem ∧
      (s.jread src ord faddr data).se = s.se ∧ (s.jread src ord faddr data).far = s.far ∧
      (s.jread src ord faddr data).rings = s.rings ∧ (s.jread src ord faddr data).sched = s.sched ∧
      (s.jread src ord faddr data).lehr = s.lehr ∧ (s.jread src ord faddr data).router = s.router ∧
      (s.jread src ord faddr data).marver = s.marver ∧ (s.jread src ord faddr data).tier = s.tier ∧
      (s.jread src ord faddr data).pins = s.pins := by
  unfold State.jread; (try dsimp only); (repeat' split) <;> simp

@[simp] theorem State.jend_frame (s : State) (epoch : Half) :
    (s.jend epoch).pending = s.pending ∧ (s.jend epoch).nc = s.nc ∧ (s.jend epoch).free = s.free ∧
      (s.jend epoch).resp = s.resp ∧ (s.jend epoch).latches = s.latches ∧ (s.jend epoch).lowers = s.lowers ∧
      (s.jend epoch).core = s.core ∧ (s.jend epoch).engines = s.engines ∧ (s.jend epoch).ve = s.ve ∧
      (s.jend epoch).stats = s.stats ∧ (s.jend epoch).digests = s.digests ∧ (s.jend epoch).mem = s.mem ∧
      (s.jend epoch).se = s.se ∧ (s.jend epoch).far = s.far ∧ (s.jend epoch).rings = s.rings ∧
      (s.jend epoch).sched = s.sched ∧ (s.jend epoch).lehr = s.lehr ∧ (s.jend epoch).router = s.router ∧
      (s.jend epoch).marver = s.marver ∧ (s.jend epoch).tier = s.tier ∧ (s.jend epoch).pins = s.pins := by
  unfold State.jend; (try dsimp only); (repeat' split) <;> simp

@[simp] theorem State.snapAbandon_frame (s : State) :
    s.snapAbandon.pending = s.pending ∧ s.snapAbandon.nc = s.nc ∧ s.snapAbandon.free = s.free ∧
      s.snapAbandon.resp = s.resp ∧ s.snapAbandon.latches = s.latches ∧ s.snapAbandon.lowers = s.lowers ∧
      s.snapAbandon.core = s.core ∧ s.snapAbandon.engines = s.engines ∧ s.snapAbandon.ve = s.ve ∧
      s.snapAbandon.stats = s.stats ∧ s.snapAbandon.digests = s.digests ∧ s.snapAbandon.mem = s.mem ∧
      s.snapAbandon.rings = s.rings ∧ s.snapAbandon.sched = s.sched ∧ s.snapAbandon.lehr = s.lehr ∧
      s.snapAbandon.router = s.router ∧ s.snapAbandon.marver = s.marver ∧ s.snapAbandon.tier = s.tier ∧
      s.snapAbandon.pins = s.pins := by
  unfold State.snapAbandon; (try dsimp only); (repeat' split) <;> simp

@[simp] theorem State.enterRun_frame (s : State) :
    s.enterRun.pending = s.pending ∧ s.enterRun.nc = s.nc ∧ s.enterRun.free = s.free ∧ s.enterRun.resp = s.resp ∧
      s.enterRun.digests = s.digests ∧ s.enterRun.mem = s.mem ∧ s.enterRun.router = s.router ∧
      s.enterRun.pins = s.pins :=
  ⟨rfl, rfl, rfl, rfl, rfl, rfl, rfl, rfl⟩

@[simp] theorem State.outPort_frame (s : State) (p input : Nat) (held : Bool) (m : Message) (side : Sideband) :
    (s.outPort p input held m side).pending = s.pending ∧ (s.outPort p input held m side).nc = s.nc ∧
      (s.outPort p input held m side).free = s.free ∧ (s.outPort p input held m side).resp = s.resp ∧
      (s.outPort p input held m side).latches = s.latches ∧ (s.outPort p input held m side).lowers = s.lowers ∧
      (s.outPort p input held m side).core = s.core ∧ (s.outPort p input held m side).engines = s.engines ∧
      (s.outPort p input held m side).ve = s.ve ∧ (s.outPort p input held m side).stats = s.stats ∧
      (s.outPort p input held m side).digests = s.digests ∧ (s.outPort p input held m side).mem = s.mem ∧
      (s.outPort p input held m side).se = s.se ∧ (s.outPort p input held m side).far = s.far ∧
      (s.outPort p input held m side).rings = s.rings ∧ (s.outPort p input held m side).sched = s.sched ∧
      (s.outPort p input held m side).lehr = s.lehr ∧ (s.outPort p input held m side).marver = s.marver ∧
      (s.outPort p input held m side).journal = s.journal ∧ (s.outPort p input held m side).tier = s.tier ∧
      (s.outPort p input held m side).pins = s.pins := by
  unfold State.outPort; (try dsimp only); (repeat' split) <;> simp

@[simp] theorem State.frameCredits_frame (s : State) (ack : Half) (lcred : Nat) :
    (s.frameCredits ack lcred).pending = s.pending ∧ (s.frameCredits ack lcred).nc = s.nc ∧
      (s.frameCredits ack lcred).free = s.free ∧ (s.frameCredits ack lcred).resp = s.resp ∧
      (s.frameCredits ack lcred).latches = s.latches ∧ (s.frameCredits ack lcred).lowers = s.lowers ∧
      (s.frameCredits ack lcred).core = s.core ∧ (s.frameCredits ack lcred).engines = s.engines ∧
      (s.frameCredits ack lcred).ve = s.ve ∧ (s.frameCredits ack lcred).stats = s.stats ∧
      (s.frameCredits ack lcred).digests = s.digests ∧ (s.frameCredits ack lcred).mem = s.mem ∧
      (s.frameCredits ack lcred).se = s.se ∧ (s.frameCredits ack lcred).far = s.far ∧
      (s.frameCredits ack lcred).rings = s.rings ∧ (s.frameCredits ack lcred).sched = s.sched ∧
      (s.frameCredits ack lcred).lehr = s.lehr ∧ (s.frameCredits ack lcred).marver = s.marver ∧
      (s.frameCredits ack lcred).journal = s.journal ∧ (s.frameCredits ack lcred).gaffer = s.gaffer ∧
      (s.frameCredits ack lcred).tier = s.tier ∧ (s.frameCredits ack lcred).pins = s.pins := by
  unfold State.frameCredits; (try dsimp only); (repeat' split) <;> simp

end Sys2Proof.Machine
end

