-- ==== Sys2Proof/Laws/Frames.lean ====
section
/-! SUPPORT. What the updates that fold over lists or judge waiting work leave. -/

set_option linter.unusedTactic false
set_option linter.unnecessarySeqFocus false

namespace Sys2Proof.Machine

/-- A fold of steps that each keep a part of the state keeps it. -/
theorem foldl_keeps {β γ : Type} (f : State → β → State) (φ : State → γ) (h : ∀ s b, φ (f s b) = φ s) (l : List β) (s : State) :
    φ (l.foldl f s) = φ s := by
  induction l generalizing s with
  | nil => rfl
  | cons b l ih => rw [List.foldl_cons, ih, h]

@[simp] theorem State.completeIf_frame (s : State) (q : Nat) (o : Option Word) :
    (s.completeIf q o).pending = s.pending ∧ (s.completeIf q o).nc = s.nc ∧ (s.completeIf q o).free = s.free ∧
      (s.completeIf q o).resp = s.resp ∧ (s.completeIf q o).latches = s.latches ∧ (s.completeIf q o).lowers = s.lowers ∧
      (s.completeIf q o).engines = s.engines ∧ (s.completeIf q o).ve = s.ve ∧ (s.completeIf q o).stats = s.stats ∧
      (s.completeIf q o).digests = s.digests ∧ (s.completeIf q o).mem = s.mem ∧ (s.completeIf q o).se = s.se ∧
      (s.completeIf q o).far = s.far ∧ (s.completeIf q o).rings = s.rings ∧ (s.completeIf q o).sched = s.sched ∧
      (s.completeIf q o).lehr = s.lehr ∧ (s.completeIf q o).router = s.router ∧ (s.completeIf q o).marver = s.marver ∧
      (s.completeIf q o).journal = s.journal ∧ (s.completeIf q o).gaffer = s.gaffer ∧ (s.completeIf q o).tier = s.tier ∧
      (s.completeIf q o).pins = s.pins := by
  cases o <;> simp [State.completeIf]

@[simp] theorem State.completeSend_frame (s : State) (o : Option Word) :
    (s.completeSend o).pending = s.pending ∧ (s.completeSend o).nc = s.nc ∧ (s.completeSend o).free = s.free ∧
      (s.completeSend o).resp = s.resp ∧ (s.completeSend o).latches = s.latches ∧ (s.completeSend o).lowers = s.lowers ∧
      (s.completeSend o).engines = s.engines ∧ (s.completeSend o).ve = s.ve ∧ (s.completeSend o).stats = s.stats ∧
      (s.completeSend o).digests = s.digests ∧ (s.completeSend o).mem = s.mem ∧ (s.completeSend o).se = s.se ∧
      (s.completeSend o).far = s.far ∧ (s.completeSend o).rings = s.rings ∧ (s.completeSend o).sched = s.sched ∧
      (s.completeSend o).lehr = s.lehr ∧ (s.completeSend o).router = s.router ∧ (s.completeSend o).marver = s.marver ∧
      (s.completeSend o).journal = s.journal ∧ (s.completeSend o).gaffer = s.gaffer ∧ (s.completeSend o).tier = s.tier ∧
      (s.completeSend o).pins = s.pins := by
  cases o <;> simp [State.completeSend]

@[simp] theorem State.suppressSend_frame (s : State) (e : Nat) :
    (s.suppressSend e).2.pending = s.pending ∧ (s.suppressSend e).2.nc = s.nc ∧ (s.suppressSend e).2.free = s.free ∧
      (s.suppressSend e).2.resp = s.resp ∧ (s.suppressSend e).2.latches = s.latches ∧
      (s.suppressSend e).2.lowers = s.lowers ∧ (s.suppressSend e).2.core = s.core ∧
      (s.suppressSend e).2.engines = s.engines ∧ (s.suppressSend e).2.ve = s.ve ∧ (s.suppressSend e).2.stats = s.stats ∧
      (s.suppressSend e).2.digests = s.digests ∧ (s.suppressSend e).2.mem = s.mem ∧ (s.suppressSend e).2.se = s.se ∧
      (s.suppressSend e).2.far = s.far ∧ (s.suppressSend e).2.rings = s.rings ∧ (s.suppressSend e).2.sched = s.sched ∧
      (s.suppressSend e).2.lehr = s.lehr ∧ (s.suppressSend e).2.router = s.router ∧
      (s.suppressSend e).2.marver = s.marver ∧ (s.suppressSend e).2.gaffer = s.gaffer ∧
      (s.suppressSend e).2.tier = s.tier ∧ (s.suppressSend e).2.pins = s.pins := by
  unfold State.suppressSend; (repeat' split) <;> simp

@[simp] theorem State.suppressCredit_frame (s : State) (t : Nat) :
    (s.suppressCredit t).2.pending = s.pending ∧ (s.suppressCredit t).2.nc = s.nc ∧
      (s.suppressCredit t).2.free = s.free ∧ (s.suppressCredit t).2.resp = s.resp ∧
      (s.suppressCredit t).2.latches = s.latches ∧ (s.suppressCredit t).2.lowers = s.lowers ∧
      (s.suppressCredit t).2.core = s.core ∧ (s.suppressCredit t).2.engines = s.engines ∧
      (s.suppressCredit t).2.ve = s.ve ∧ (s.suppressCredit t).2.stats = s.stats ∧
      (s.suppressCredit t).2.digests = s.digests ∧ (s.suppressCredit t).2.mem = s.mem ∧
      (s.suppressCredit t).2.se = s.se ∧ (s.suppressCredit t).2.far = s.far ∧ (s.suppressCredit t).2.rings = s.rings ∧
      (s.suppressCredit t).2.sched = s.sched ∧ (s.suppressCredit t).2.lehr = s.lehr ∧
      (s.suppressCredit t).2.router = s.router ∧ (s.suppressCredit t).2.marver = s.marver ∧
      (s.suppressCredit t).2.gaffer = s.gaffer ∧ (s.suppressCredit t).2.tier = s.tier ∧
      (s.suppressCredit t).2.pins = s.pins := by
  unfold State.suppressCredit; (repeat' split) <;> simp

@[simp] theorem State.suppressRevoke_frame (s : State) (t : Nat) :
    (s.suppressRevoke t).2.pending = s.pending ∧ (s.suppressRevoke t).2.nc = s.nc ∧
      (s.suppressRevoke t).2.free = s.free ∧ (s.suppressRevoke t).2.resp = s.resp ∧
      (s.suppressRevoke t).2.latches = s.latches ∧ (s.suppressRevoke t).2.lowers = s.lowers ∧
      (s.suppressRevoke t).2.core = s.core ∧ (s.suppressRevoke t).2.engines = s.engines ∧
      (s.suppressRevoke t).2.ve = s.ve ∧ (s.suppressRevoke t).2.stats = s.stats ∧
      (s.suppressRevoke t).2.digests = s.digests ∧ (s.suppressRevoke t).2.mem = s.mem ∧
      (s.suppressRevoke t).2.se = s.se ∧ (s.suppressRevoke t).2.far = s.far ∧ (s.suppressRevoke t).2.rings = s.rings ∧
      (s.suppressRevoke t).2.sched = s.sched ∧ (s.suppressRevoke t).2.lehr = s.lehr ∧
      (s.suppressRevoke t).2.router = s.router ∧ (s.suppressRevoke t).2.marver = s.marver ∧
      (s.suppressRevoke t).2.gaffer = s.gaffer ∧ (s.suppressRevoke t).2.tier = s.tier ∧
      (s.suppressRevoke t).2.pins = s.pins := by
  unfold State.suppressRevoke; (repeat' split) <;> simp

@[simp] theorem State.sendCredit_frame (s : State) (t epoch chip lcid sent gran : Nat) :
    (s.sendCredit t epoch chip lcid sent gran).pending = s.pending ∧
      (s.sendCredit t epoch chip lcid sent gran).nc = s.nc ∧ (s.sendCredit t epoch chip lcid sent gran).free = s.free ∧
      (s.sendCredit t epoch chip lcid sent gran).resp = s.resp ∧
      (s.sendCredit t epoch chip lcid sent gran).latches = s.latches ∧
      (s.sendCredit t epoch chip lcid sent gran).lowers = s.lowers ∧
      (s.sendCredit t epoch chip lcid sent gran).core = s.core ∧
      (s.sendCredit t epoch chip lcid sent gran).engines = s.engines ∧
      (s.sendCredit t epoch chip lcid sent gran).ve = s.ve ∧
      (s.sendCredit t epoch chip lcid sent gran).stats = s.stats ∧
      (s.sendCredit t epoch chip lcid sent gran).digests = s.digests ∧
      (s.sendCredit t epoch chip lcid sent gran).mem = s.mem ∧ (s.sendCredit t epoch chip lcid sent gran).se = s.se ∧
      (s.sendCredit t epoch chip lcid sent gran).far = s.far ∧
      (s.sendCredit t epoch chip lcid sent gran).sched = s.sched ∧
      (s.sendCredit t epoch chip lcid sent gran).lehr = s.lehr ∧
      (s.sendCredit t epoch chip lcid sent gran).marver = s.marver ∧
      (s.sendCredit t epoch chip lcid sent gran).gaffer = s.gaffer ∧
      (s.sendCredit t epoch chip lcid sent gran).tier = s.tier ∧
      (s.sendCredit t epoch chip lcid sent gran).pins = s.pins := by
  unfold State.sendCredit; dsimp only
  generalize hp : State.suppressCredit _ t = p; obtain ⟨b, u⟩ := p
  have hf := State.suppressCredit_frame { s with rings := { s.rings with creditCount := Tbl.set 0#32 s.rings.creditCount t (Tbl.get 0#32 s.rings.creditCount t + 1#32) } } t; rw [hp] at hf; dsimp only at hf ⊢
  split <;> simp [hf]

@[simp] theorem State.sendRevoke_frame (s : State) (t epoch : Nat) :
    (s.sendRevoke t epoch).pending = s.pending ∧ (s.sendRevoke t epoch).nc = s.nc ∧
      (s.sendRevoke t epoch).free = s.free ∧ (s.sendRevoke t epoch).resp = s.resp ∧
      (s.sendRevoke t epoch).latches = s.latches ∧ (s.sendRevoke t epoch).lowers = s.lowers ∧
      (s.sendRevoke t epoch).core = s.core ∧ (s.sendRevoke t epoch).engines = s.engines ∧
      (s.sendRevoke t epoch).ve = s.ve ∧ (s.sendRevoke t epoch).stats = s.stats ∧
      (s.sendRevoke t epoch).digests = s.digests ∧ (s.sendRevoke t epoch).mem = s.mem ∧
      (s.sendRevoke t epoch).se = s.se ∧ (s.sendRevoke t epoch).far = s.far ∧ (s.sendRevoke t epoch).sched = s.sched ∧
      (s.sendRevoke t epoch).lehr = s.lehr ∧ (s.sendRevoke t epoch).marver = s.marver ∧
      (s.sendRevoke t epoch).gaffer = s.gaffer ∧ (s.sendRevoke t epoch).tier = s.tier ∧
      (s.sendRevoke t epoch).pins = s.pins := by
  unfold State.sendRevoke; dsimp only
  generalize hp : State.suppressRevoke _ t = p; obtain ⟨b, u⟩ := p
  have hf := State.suppressRevoke_frame { s with rings := { s.rings with revokeCount := Tbl.set 0#16 s.rings.revokeCount t (Tbl.get 0#16 s.rings.revokeCount t + 1#16) } } t; rw [hp] at hf; dsimp only at hf ⊢
  split <;> simp [hf]

@[simp] theorem State.helloAgain_frame (s : State) :
    s.helloAgain.pending = s.pending ∧ s.helloAgain.nc = s.nc ∧ s.helloAgain.free = s.free ∧
      s.helloAgain.resp = s.resp ∧ s.helloAgain.latches = s.latches ∧ s.helloAgain.lowers = s.lowers ∧
      s.helloAgain.core = s.core ∧ s.helloAgain.engines = s.engines ∧ s.helloAgain.ve = s.ve ∧
      s.helloAgain.stats = s.stats ∧ s.helloAgain.digests = s.digests ∧ s.helloAgain.mem = s.mem ∧
      s.helloAgain.se = s.se ∧ s.helloAgain.far = s.far ∧ s.helloAgain.rings = s.rings ∧ s.helloAgain.sched = s.sched ∧
      s.helloAgain.lehr = s.lehr ∧ s.helloAgain.marver = s.marver ∧ s.helloAgain.journal = s.journal ∧
      s.helloAgain.gaffer = s.gaffer ∧ s.helloAgain.tier = s.tier ∧ s.helloAgain.pins = s.pins := by
  refine ⟨?_, ?_, ?_, ?_, ?_, ?_, ?_, ?_, ?_, ?_, ?_, ?_, ?_, ?_, ?_, ?_, ?_, ?_, ?_, ?_, ?_, ?_⟩
  · unfold State.helloAgain; exact foldl_keeps _ (fun s => s.pending) (by intros; (try dsimp only); (repeat' split) <;> simp) _ _
  · unfold State.helloAgain; exact foldl_keeps _ (fun s => s.nc) (by intros; (try dsimp only); (repeat' split) <;> simp) _ _
  · unfold State.helloAgain; exact foldl_keeps _ (fun s => s.free) (by intros; (try dsimp only); (repeat' split) <;> simp) _ _
  · unfold State.helloAgain; exact foldl_keeps _ (fun s => s.resp) (by intros; (try dsimp only); (repeat' split) <;> simp) _ _
  · unfold State.helloAgain; exact foldl_keeps _ (fun s => s.latches) (by intros; (try dsimp only); (repeat' split) <;> simp) _ _
  · unfold State.helloAgain; exact foldl_keeps _ (fun s => s.lowers) (by intros; (try dsimp only); (repeat' split) <;> simp) _ _
  · unfold State.helloAgain; exact foldl_keeps _ (fun s => s.core) (by intros; (try dsimp only); (repeat' split) <;> simp) _ _
  · unfold State.helloAgain; exact foldl_keeps _ (fun s => s.engines) (by intros; (try dsimp only); (repeat' split) <;> simp) _ _
  · unfold State.helloAgain; exact foldl_keeps _ (fun s => s.ve) (by intros; (try dsimp only); (repeat' split) <;> simp) _ _
  · unfold State.helloAgain; exact foldl_keeps _ (fun s => s.stats) (by intros; (try dsimp only); (repeat' split) <;> simp) _ _
  · unfold State.helloAgain; exact foldl_keeps _ (fun s => s.digests) (by intros; (try dsimp only); (repeat' split) <;> simp) _ _
  · unfold State.helloAgain; exact foldl_keeps _ (fun s => s.mem) (by intros; (try dsimp only); (repeat' split) <;> simp) _ _
  · unfold State.helloAgain; exact foldl_keeps _ (fun s => s.se) (by intros; (try dsimp only); (repeat' split) <;> simp) _ _
  · unfold State.helloAgain; exact foldl_keeps _ (fun s => s.far) (by intros; (try dsimp only); (repeat' split) <;> simp) _ _
  · unfold State.helloAgain; exact foldl_keeps _ (fun s => s.rings) (by intros; (try dsimp only); (repeat' split) <;> simp) _ _
  · unfold State.helloAgain; exact foldl_keeps _ (fun s => s.sched) (by intros; (try dsimp only); (repeat' split) <;> simp) _ _
  · unfold State.helloAgain; exact foldl_keeps _ (fun s => s.lehr) (by intros; (try dsimp only); (repeat' split) <;> simp) _ _
  · unfold State.helloAgain; exact foldl_keeps _ (fun s => s.marver) (by intros; (try dsimp only); (repeat' split) <;> simp) _ _
  · unfold State.helloAgain; exact foldl_keeps _ (fun s => s.journal) (by intros; (try dsimp only); (repeat' split) <;> simp) _ _
  · unfold State.helloAgain; exact foldl_keeps _ (fun s => s.gaffer) (by intros; (try dsimp only); (repeat' split) <;> simp) _ _
  · unfold State.helloAgain; exact foldl_keeps _ (fun s => s.tier) (by intros; (try dsimp only); (repeat' split) <;> simp) _ _
  · unfold State.helloAgain; exact foldl_keeps _ (fun s => s.pins) (by intros; (try dsimp only); (repeat' split) <;> simp) _ _

@[simp] theorem State.trainPorts_frame (s : State) :
    s.trainPorts.pending = s.pending ∧ s.trainPorts.nc = s.nc ∧ s.trainPorts.free = s.free ∧
      s.trainPorts.resp = s.resp ∧ s.trainPorts.latches = s.latches ∧ s.trainPorts.lowers = s.lowers ∧
      s.trainPorts.core = s.core ∧ s.trainPorts.engines = s.engines ∧ s.trainPorts.ve = s.ve ∧
      s.trainPorts.stats = s.stats ∧ s.trainPorts.digests = s.digests ∧ s.trainPorts.mem = s.mem ∧
      s.trainPorts.se = s.se ∧ s.trainPorts.far = s.far ∧ s.trainPorts.rings = s.rings ∧ s.trainPorts.sched = s.sched ∧
      s.trainPorts.lehr = s.lehr ∧ s.trainPorts.marver = s.marver ∧ s.trainPorts.journal = s.journal ∧
      s.trainPorts.gaffer = s.gaffer ∧ s.trainPorts.tier = s.tier ∧ s.trainPorts.pins = s.pins := by
  refine ⟨?_, ?_, ?_, ?_, ?_, ?_, ?_, ?_, ?_, ?_, ?_, ?_, ?_, ?_, ?_, ?_, ?_, ?_, ?_, ?_, ?_, ?_⟩
  · unfold State.trainPorts; exact foldl_keeps _ (fun s => s.pending) (by intros; (try dsimp only); (repeat' split) <;> simp) _ _
  · unfold State.trainPorts; exact foldl_keeps _ (fun s => s.nc) (by intros; (try dsimp only); (repeat' split) <;> simp) _ _
  · unfold State.trainPorts; exact foldl_keeps _ (fun s => s.free) (by intros; (try dsimp only); (repeat' split) <;> simp) _ _
  · unfold State.trainPorts; exact foldl_keeps _ (fun s => s.resp) (by intros; (try dsimp only); (repeat' split) <;> simp) _ _
  · unfold State.trainPorts; exact foldl_keeps _ (fun s => s.latches) (by intros; (try dsimp only); (repeat' split) <;> simp) _ _
  · unfold State.trainPorts; exact foldl_keeps _ (fun s => s.lowers) (by intros; (try dsimp only); (repeat' split) <;> simp) _ _
  · unfold State.trainPorts; exact foldl_keeps _ (fun s => s.core) (by intros; (try dsimp only); (repeat' split) <;> simp) _ _
  · unfold State.trainPorts; exact foldl_keeps _ (fun s => s.engines) (by intros; (try dsimp only); (repeat' split) <;> simp) _ _
  · unfold State.trainPorts; exact foldl_keeps _ (fun s => s.ve) (by intros; (try dsimp only); (repeat' split) <;> simp) _ _
  · unfold State.trainPorts; exact foldl_keeps _ (fun s => s.stats) (by intros; (try dsimp only); (repeat' split) <;> simp) _ _
  · unfold State.trainPorts; exact foldl_keeps _ (fun s => s.digests) (by intros; (try dsimp only); (repeat' split) <;> simp) _ _
  · unfold State.trainPorts; exact foldl_keeps _ (fun s => s.mem) (by intros; (try dsimp only); (repeat' split) <;> simp) _ _
  · unfold State.trainPorts; exact foldl_keeps _ (fun s => s.se) (by intros; (try dsimp only); (repeat' split) <;> simp) _ _
  · unfold State.trainPorts; exact foldl_keeps _ (fun s => s.far) (by intros; (try dsimp only); (repeat' split) <;> simp) _ _
  · unfold State.trainPorts; exact foldl_keeps _ (fun s => s.rings) (by intros; (try dsimp only); (repeat' split) <;> simp) _ _
  · unfold State.trainPorts; exact foldl_keeps _ (fun s => s.sched) (by intros; (try dsimp only); (repeat' split) <;> simp) _ _
  · unfold State.trainPorts; exact foldl_keeps _ (fun s => s.lehr) (by intros; (try dsimp only); (repeat' split) <;> simp) _ _
  · unfold State.trainPorts; exact foldl_keeps _ (fun s => s.marver) (by intros; (try dsimp only); (repeat' split) <;> simp) _ _
  · unfold State.trainPorts; exact foldl_keeps _ (fun s => s.journal) (by intros; (try dsimp only); (repeat' split) <;> simp) _ _
  · unfold State.trainPorts; exact foldl_keeps _ (fun s => s.gaffer) (by intros; (try dsimp only); (repeat' split) <;> simp) _ _
  · unfold State.trainPorts; exact foldl_keeps _ (fun s => s.tier) (by intros; (try dsimp only); (repeat' split) <;> simp) _ _
  · unfold State.trainPorts; exact foldl_keeps _ (fun s => s.pins) (by intros; (try dsimp only); (repeat' split) <;> simp) _ _

@[simp] theorem State.unpassed_frame (s : State) :
    s.unpassed.pending = s.pending ∧ s.unpassed.nc = s.nc ∧ s.unpassed.free = s.free ∧ s.unpassed.resp = s.resp ∧
      s.unpassed.latches = s.latches ∧ s.unpassed.lowers = s.lowers ∧ s.unpassed.core = s.core ∧
      s.unpassed.engines = s.engines ∧ s.unpassed.ve = s.ve ∧ s.unpassed.stats = s.stats ∧
      s.unpassed.digests = s.digests ∧ s.unpassed.mem = s.mem ∧ s.unpassed.se = s.se ∧ s.unpassed.far = s.far ∧
      s.unpassed.rings = s.rings ∧ s.unpassed.sched = s.sched ∧ s.unpassed.router = s.router ∧
      s.unpassed.marver = s.marver ∧ s.unpassed.journal = s.journal ∧ s.unpassed.gaffer = s.gaffer ∧
      s.unpassed.tier = s.tier ∧ s.unpassed.pins = s.pins := by
  refine ⟨?_, ?_, ?_, ?_, ?_, ?_, ?_, ?_, ?_, ?_, ?_, ?_, ?_, ?_, ?_, ?_, ?_, ?_, ?_, ?_, ?_, ?_⟩
  · unfold State.unpassed; exact foldl_keeps _ (fun s => s.pending) (by intros; (try dsimp only); (repeat' split) <;> simp) _ _
  · unfold State.unpassed; exact foldl_keeps _ (fun s => s.nc) (by intros; (try dsimp only); (repeat' split) <;> simp) _ _
  · unfold State.unpassed; exact foldl_keeps _ (fun s => s.free) (by intros; (try dsimp only); (repeat' split) <;> simp) _ _
  · unfold State.unpassed; exact foldl_keeps _ (fun s => s.resp) (by intros; (try dsimp only); (repeat' split) <;> simp) _ _
  · unfold State.unpassed; exact foldl_keeps _ (fun s => s.latches) (by intros; (try dsimp only); (repeat' split) <;> simp) _ _
  · unfold State.unpassed; exact foldl_keeps _ (fun s => s.lowers) (by intros; (try dsimp only); (repeat' split) <;> simp) _ _
  · unfold State.unpassed; exact foldl_keeps _ (fun s => s.core) (by intros; (try dsimp only); (repeat' split) <;> simp) _ _
  · unfold State.unpassed; exact foldl_keeps _ (fun s => s.engines) (by intros; (try dsimp only); (repeat' split) <;> simp) _ _
  · unfold State.unpassed; exact foldl_keeps _ (fun s => s.ve) (by intros; (try dsimp only); (repeat' split) <;> simp) _ _
  · unfold State.unpassed; exact foldl_keeps _ (fun s => s.stats) (by intros; (try dsimp only); (repeat' split) <;> simp) _ _
  · unfold State.unpassed; exact foldl_keeps _ (fun s => s.digests) (by intros; (try dsimp only); (repeat' split) <;> simp) _ _
  · unfold State.unpassed; exact foldl_keeps _ (fun s => s.mem) (by intros; (try dsimp only); (repeat' split) <;> simp) _ _
  · unfold State.unpassed; exact foldl_keeps _ (fun s => s.se) (by intros; (try dsimp only); (repeat' split) <;> simp) _ _
  · unfold State.unpassed; exact foldl_keeps _ (fun s => s.far) (by intros; (try dsimp only); (repeat' split) <;> simp) _ _
  · unfold State.unpassed; exact foldl_keeps _ (fun s => s.rings) (by intros; (try dsimp only); (repeat' split) <;> simp) _ _
  · unfold State.unpassed; exact foldl_keeps _ (fun s => s.sched) (by intros; (try dsimp only); (repeat' split) <;> simp) _ _
  · unfold State.unpassed; exact foldl_keeps _ (fun s => s.router) (by intros; (try dsimp only); (repeat' split) <;> simp) _ _
  · unfold State.unpassed; exact foldl_keeps _ (fun s => s.marver) (by intros; (try dsimp only); (repeat' split) <;> simp) _ _
  · unfold State.unpassed; exact foldl_keeps _ (fun s => s.journal) (by intros; (try dsimp only); (repeat' split) <;> simp) _ _
  · unfold State.unpassed; exact foldl_keeps _ (fun s => s.gaffer) (by intros; (try dsimp only); (repeat' split) <;> simp) _ _
  · unfold State.unpassed; exact foldl_keeps _ (fun s => s.tier) (by intros; (try dsimp only); (repeat' split) <;> simp) _ _
  · unfold State.unpassed; exact foldl_keeps _ (fun s => s.pins) (by intros; (try dsimp only); (repeat' split) <;> simp) _ _

@[simp] theorem State.writeMessage_frame (s : State) (w : RingWrite) :
    (s.writeMessage w).pending = s.pending ∧ (s.writeMessage w).nc = s.nc ∧ (s.writeMessage w).free = s.free ∧
      (s.writeMessage w).resp = s.resp ∧ (s.writeMessage w).latches = s.latches ∧ (s.writeMessage w).lowers = s.lowers ∧
      (s.writeMessage w).core = s.core ∧ (s.writeMessage w).engines = s.engines ∧ (s.writeMessage w).ve = s.ve ∧
      (s.writeMessage w).stats = s.stats ∧ (s.writeMessage w).digests = s.digests ∧ (s.writeMessage w).se = s.se ∧
      (s.writeMessage w).far = s.far ∧ (s.writeMessage w).rings = s.rings ∧ (s.writeMessage w).sched = s.sched ∧
      (s.writeMessage w).lehr = s.lehr ∧ (s.writeMessage w).router = s.router ∧ (s.writeMessage w).marver = s.marver ∧
      (s.writeMessage w).gaffer = s.gaffer ∧ (s.writeMessage w).tier = s.tier ∧ (s.writeMessage w).pins = s.pins := by
  refine ⟨?_, ?_, ?_, ?_, ?_, ?_, ?_, ?_, ?_, ?_, ?_, ?_, ?_, ?_, ?_, ?_, ?_, ?_, ?_, ?_, ?_⟩
  · unfold State.writeMessage; exact foldl_keeps _ (fun s => s.pending) (by intros; (try dsimp only); (repeat' split) <;> simp) _ _
  · unfold State.writeMessage; exact foldl_keeps _ (fun s => s.nc) (by intros; (try dsimp only); (repeat' split) <;> simp) _ _
  · unfold State.writeMessage; exact foldl_keeps _ (fun s => s.free) (by intros; (try dsimp only); (repeat' split) <;> simp) _ _
  · unfold State.writeMessage; exact foldl_keeps _ (fun s => s.resp) (by intros; (try dsimp only); (repeat' split) <;> simp) _ _
  · unfold State.writeMessage; exact foldl_keeps _ (fun s => s.latches) (by intros; (try dsimp only); (repeat' split) <;> simp) _ _
  · unfold State.writeMessage; exact foldl_keeps _ (fun s => s.lowers) (by intros; (try dsimp only); (repeat' split) <;> simp) _ _
  · unfold State.writeMessage; exact foldl_keeps _ (fun s => s.core) (by intros; (try dsimp only); (repeat' split) <;> simp) _ _
  · unfold State.writeMessage; exact foldl_keeps _ (fun s => s.engines) (by intros; (try dsimp only); (repeat' split) <;> simp) _ _
  · unfold State.writeMessage; exact foldl_keeps _ (fun s => s.ve) (by intros; (try dsimp only); (repeat' split) <;> simp) _ _
  · unfold State.writeMessage; exact foldl_keeps _ (fun s => s.stats) (by intros; (try dsimp only); (repeat' split) <;> simp) _ _
  · unfold State.writeMessage; exact foldl_keeps _ (fun s => s.digests) (by intros; (try dsimp only); (repeat' split) <;> simp) _ _
  · unfold State.writeMessage; exact foldl_keeps _ (fun s => s.se) (by intros; (try dsimp only); (repeat' split) <;> simp) _ _
  · unfold State.writeMessage; exact foldl_keeps _ (fun s => s.far) (by intros; (try dsimp only); (repeat' split) <;> simp) _ _
  · unfold State.writeMessage; exact foldl_keeps _ (fun s => s.rings) (by intros; (try dsimp only); (repeat' split) <;> simp) _ _
  · unfold State.writeMessage; exact foldl_keeps _ (fun s => s.sched) (by intros; (try dsimp only); (repeat' split) <;> simp) _ _
  · unfold State.writeMessage; exact foldl_keeps _ (fun s => s.lehr) (by intros; (try dsimp only); (repeat' split) <;> simp) _ _
  · unfold State.writeMessage; exact foldl_keeps _ (fun s => s.router) (by intros; (try dsimp only); (repeat' split) <;> simp) _ _
  · unfold State.writeMessage; exact foldl_keeps _ (fun s => s.marver) (by intros; (try dsimp only); (repeat' split) <;> simp) _ _
  · unfold State.writeMessage; exact foldl_keeps _ (fun s => s.gaffer) (by intros; (try dsimp only); (repeat' split) <;> simp) _ _
  · unfold State.writeMessage; exact foldl_keeps _ (fun s => s.tier) (by intros; (try dsimp only); (repeat' split) <;> simp) _ _
  · unfold State.writeMessage; exact foldl_keeps _ (fun s => s.pins) (by intros; (try dsimp only); (repeat' split) <;> simp) _ _

@[simp] theorem State.foldl_noRoute_frame (s : State) (l : List OutMsg) (b : Bool) :
    (l.foldl (fun (s : State) (o : OutMsg) => s.noRoute o.msg b) s).pending = s.pending ∧
      (l.foldl (fun (s : State) (o : OutMsg) => s.noRoute o.msg b) s).nc = s.nc ∧
      (l.foldl (fun (s : State) (o : OutMsg) => s.noRoute o.msg b) s).free = s.free ∧
      (l.foldl (fun (s : State) (o : OutMsg) => s.noRoute o.msg b) s).resp = s.resp ∧
      (l.foldl (fun (s : State) (o : OutMsg) => s.noRoute o.msg b) s).latches = s.latches ∧
      (l.foldl (fun (s : State) (o : OutMsg) => s.noRoute o.msg b) s).lowers = s.lowers ∧
      (l.foldl (fun (s : State) (o : OutMsg) => s.noRoute o.msg b) s).core = s.core ∧
      (l.foldl (fun (s : State) (o : OutMsg) => s.noRoute o.msg b) s).engines = s.engines ∧
      (l.foldl (fun (s : State) (o : OutMsg) => s.noRoute o.msg b) s).ve = s.ve ∧
      (l.foldl (fun (s : State) (o : OutMsg) => s.noRoute o.msg b) s).stats = s.stats ∧
      (l.foldl (fun (s : State) (o : OutMsg) => s.noRoute o.msg b) s).digests = s.digests ∧
      (l.foldl (fun (s : State) (o : OutMsg) => s.noRoute o.msg b) s).mem = s.mem ∧
      (l.foldl (fun (s : State) (o : OutMsg) => s.noRoute o.msg b) s).se = s.se ∧
      (l.foldl (fun (s : State) (o : OutMsg) => s.noRoute o.msg b) s).far = s.far ∧
      (l.foldl (fun (s : State) (o : OutMsg) => s.noRoute o.msg b) s).rings = s.rings ∧
      (l.foldl (fun (s : State) (o : OutMsg) => s.noRoute o.msg b) s).sched = s.sched ∧
      (l.foldl (fun (s : State) (o : OutMsg) => s.noRoute o.msg b) s).lehr = s.lehr ∧
      (l.foldl (fun (s : State) (o : OutMsg) => s.noRoute o.msg b) s).marver = s.marver ∧
      (l.foldl (fun (s : State) (o : OutMsg) => s.noRoute o.msg b) s).journal = s.journal ∧
      (l.foldl (fun (s : State) (o : OutMsg) => s.noRoute o.msg b) s).tier = s.tier ∧
      (l.foldl (fun (s : State) (o : OutMsg) => s.noRoute o.msg b) s).pins = s.pins := by
  refine ⟨?_, ?_, ?_, ?_, ?_, ?_, ?_, ?_, ?_, ?_, ?_, ?_, ?_, ?_, ?_, ?_, ?_, ?_, ?_, ?_, ?_⟩
  · skip; exact foldl_keeps _ (fun s => s.pending) (by intros; (try dsimp only); (repeat' split) <;> simp) _ _
  · skip; exact foldl_keeps _ (fun s => s.nc) (by intros; (try dsimp only); (repeat' split) <;> simp) _ _
  · skip; exact foldl_keeps _ (fun s => s.free) (by intros; (try dsimp only); (repeat' split) <;> simp) _ _
  · skip; exact foldl_keeps _ (fun s => s.resp) (by intros; (try dsimp only); (repeat' split) <;> simp) _ _
  · skip; exact foldl_keeps _ (fun s => s.latches) (by intros; (try dsimp only); (repeat' split) <;> simp) _ _
  · skip; exact foldl_keeps _ (fun s => s.lowers) (by intros; (try dsimp only); (repeat' split) <;> simp) _ _
  · skip; exact foldl_keeps _ (fun s => s.core) (by intros; (try dsimp only); (repeat' split) <;> simp) _ _
  · skip; exact foldl_keeps _ (fun s => s.engines) (by intros; (try dsimp only); (repeat' split) <;> simp) _ _
  · skip; exact foldl_keeps _ (fun s => s.ve) (by intros; (try dsimp only); (repeat' split) <;> simp) _ _
  · skip; exact foldl_keeps _ (fun s => s.stats) (by intros; (try dsimp only); (repeat' split) <;> simp) _ _
  · skip; exact foldl_keeps _ (fun s => s.digests) (by intros; (try dsimp only); (repeat' split) <;> simp) _ _
  · skip; exact foldl_keeps _ (fun s => s.mem) (by intros; (try dsimp only); (repeat' split) <;> simp) _ _
  · skip; exact foldl_keeps _ (fun s => s.se) (by intros; (try dsimp only); (repeat' split) <;> simp) _ _
  · skip; exact foldl_keeps _ (fun s => s.far) (by intros; (try dsimp only); (repeat' split) <;> simp) _ _
  · skip; exact foldl_keeps _ (fun s => s.rings) (by intros; (try dsimp only); (repeat' split) <;> simp) _ _
  · skip; exact foldl_keeps _ (fun s => s.sched) (by intros; (try dsimp only); (repeat' split) <;> simp) _ _
  · skip; exact foldl_keeps _ (fun s => s.lehr) (by intros; (try dsimp only); (repeat' split) <;> simp) _ _
  · skip; exact foldl_keeps _ (fun s => s.marver) (by intros; (try dsimp only); (repeat' split) <;> simp) _ _
  · skip; exact foldl_keeps _ (fun s => s.journal) (by intros; (try dsimp only); (repeat' split) <;> simp) _ _
  · skip; exact foldl_keeps _ (fun s => s.tier) (by intros; (try dsimp only); (repeat' split) <;> simp) _ _
  · skip; exact foldl_keeps _ (fun s => s.pins) (by intros; (try dsimp only); (repeat' split) <;> simp) _ _

@[simp] theorem State.queueControl_frame (s : State) (v : Nat) :
    (s.queueControl v).pending = s.pending ∧ (s.queueControl v).nc = s.nc ∧ (s.queueControl v).free = s.free ∧
      (s.queueControl v).resp = s.resp ∧ (s.queueControl v).latches = s.latches ∧ (s.queueControl v).lowers = s.lowers ∧
      (s.queueControl v).engines = s.engines ∧ (s.queueControl v).ve = s.ve ∧ (s.queueControl v).stats = s.stats ∧
      (s.queueControl v).digests = s.digests ∧ (s.queueControl v).mem = s.mem ∧ (s.queueControl v).se = s.se ∧
      (s.queueControl v).far = s.far ∧ (s.queueControl v).rings = s.rings ∧ (s.queueControl v).lehr = s.lehr ∧
      (s.queueControl v).router = s.router ∧ (s.queueControl v).marver = s.marver ∧
      (s.queueControl v).journal = s.journal ∧ (s.queueControl v).gaffer = s.gaffer ∧ (s.queueControl v).tier = s.tier ∧
      (s.queueControl v).pins = s.pins := by
  refine ⟨?_, ?_, ?_, ?_, ?_, ?_, ?_, ?_, ?_, ?_, ?_, ?_, ?_, ?_, ?_, ?_, ?_, ?_, ?_, ?_, ?_⟩
  · unfold State.queueControl; exact foldl_keeps _ (fun s => s.pending) (by intros; (try dsimp only); (repeat' split) <;> simp) _ _
  · unfold State.queueControl; exact foldl_keeps _ (fun s => s.nc) (by intros; (try dsimp only); (repeat' split) <;> simp) _ _
  · unfold State.queueControl; exact foldl_keeps _ (fun s => s.free) (by intros; (try dsimp only); (repeat' split) <;> simp) _ _
  · unfold State.queueControl; exact foldl_keeps _ (fun s => s.resp) (by intros; (try dsimp only); (repeat' split) <;> simp) _ _
  · unfold State.queueControl; exact foldl_keeps _ (fun s => s.latches) (by intros; (try dsimp only); (repeat' split) <;> simp) _ _
  · unfold State.queueControl; exact foldl_keeps _ (fun s => s.lowers) (by intros; (try dsimp only); (repeat' split) <;> simp) _ _
  · unfold State.queueControl; exact foldl_keeps _ (fun s => s.engines) (by intros; (try dsimp only); (repeat' split) <;> simp) _ _
  · unfold State.queueControl; exact foldl_keeps _ (fun s => s.ve) (by intros; (try dsimp only); (repeat' split) <;> simp) _ _
  · unfold State.queueControl; exact foldl_keeps _ (fun s => s.stats) (by intros; (try dsimp only); (repeat' split) <;> simp) _ _
  · unfold State.queueControl; exact foldl_keeps _ (fun s => s.digests) (by intros; (try dsimp only); (repeat' split) <;> simp) _ _
  · unfold State.queueControl; exact foldl_keeps _ (fun s => s.mem) (by intros; (try dsimp only); (repeat' split) <;> simp) _ _
  · unfold State.queueControl; exact foldl_keeps _ (fun s => s.se) (by intros; (try dsimp only); (repeat' split) <;> simp) _ _
  · unfold State.queueControl; exact foldl_keeps _ (fun s => s.far) (by intros; (try dsimp only); (repeat' split) <;> simp) _ _
  · unfold State.queueControl; exact foldl_keeps _ (fun s => s.rings) (by intros; (try dsimp only); (repeat' split) <;> simp) _ _
  · unfold State.queueControl; exact foldl_keeps _ (fun s => s.lehr) (by intros; (try dsimp only); (repeat' split) <;> simp) _ _
  · unfold State.queueControl; exact foldl_keeps _ (fun s => s.router) (by intros; (try dsimp only); (repeat' split) <;> simp) _ _
  · unfold State.queueControl; exact foldl_keeps _ (fun s => s.marver) (by intros; (try dsimp only); (repeat' split) <;> simp) _ _
  · unfold State.queueControl; exact foldl_keeps _ (fun s => s.journal) (by intros; (try dsimp only); (repeat' split) <;> simp) _ _
  · unfold State.queueControl; exact foldl_keeps _ (fun s => s.gaffer) (by intros; (try dsimp only); (repeat' split) <;> simp) _ _
  · unfold State.queueControl; exact foldl_keeps _ (fun s => s.tier) (by intros; (try dsimp only); (repeat' split) <;> simp) _ _
  · unfold State.queueControl; exact foldl_keeps _ (fun s => s.pins) (by intros; (try dsimp only); (repeat' split) <;> simp) _ _

@[simp] theorem judgeParked_frame (ds : List Send) (bl : List Nat) (s : State) :
    (judgeParked ds bl s).2.pending = s.pending ∧ (judgeParked ds bl s).2.nc = s.nc ∧
      (judgeParked ds bl s).2.free = s.free ∧ (judgeParked ds bl s).2.resp = s.resp ∧
      (judgeParked ds bl s).2.latches = s.latches ∧ (judgeParked ds bl s).2.lowers = s.lowers ∧
      (judgeParked ds bl s).2.engines = s.engines ∧ (judgeParked ds bl s).2.ve = s.ve ∧
      (judgeParked ds bl s).2.stats = s.stats ∧ (judgeParked ds bl s).2.digests = s.digests ∧
      (judgeParked ds bl s).2.mem = s.mem ∧ (judgeParked ds bl s).2.se = s.se ∧ (judgeParked ds bl s).2.far = s.far ∧
      (judgeParked ds bl s).2.lehr = s.lehr ∧ (judgeParked ds bl s).2.router = s.router ∧
      (judgeParked ds bl s).2.marver = s.marver ∧ (judgeParked ds bl s).2.journal = s.journal ∧
      (judgeParked ds bl s).2.gaffer = s.gaffer ∧ (judgeParked ds bl s).2.tier = s.tier ∧
      (judgeParked ds bl s).2.pins = s.pins := by
  induction ds generalizing bl s with
  | nil => simp [judgeParked]
  | cons d ds ih =>
    unfold judgeParked; dsimp only
    split
    · have := ih bl ((s.noteStale d.entry).completeSend d.seq); simp [this]
    · split
      · exact ih _ s
      · have := ih bl ((s.charge d.entry d.n).releaseSend d); simp [this]

@[simp] theorem State.releaseParked_frame (s : State) :
    s.releaseParked.pending = s.pending ∧ s.releaseParked.nc = s.nc ∧ s.releaseParked.free = s.free ∧
      s.releaseParked.resp = s.resp ∧ s.releaseParked.latches = s.latches ∧ s.releaseParked.lowers = s.lowers ∧
      s.releaseParked.engines = s.engines ∧ s.releaseParked.ve = s.ve ∧ s.releaseParked.stats = s.stats ∧
      s.releaseParked.digests = s.digests ∧ s.releaseParked.mem = s.mem ∧ s.releaseParked.se = s.se ∧
      s.releaseParked.far = s.far ∧ s.releaseParked.lehr = s.lehr ∧ s.releaseParked.router = s.router ∧
      s.releaseParked.marver = s.marver ∧ s.releaseParked.journal = s.journal ∧ s.releaseParked.gaffer = s.gaffer ∧
      s.releaseParked.tier = s.tier ∧ s.releaseParked.pins = s.pins := by
  exact judgeParked_frame s.rings.parked [] s

@[simp] theorem State.fault7_frame (s : State) (c : QueueCmd) (code : Half) :
    (s.fault7 c code).pending = s.pending ∧ (s.fault7 c code).nc = s.nc ∧ (s.fault7 c code).free = s.free ∧
      (s.fault7 c code).resp = s.resp ∧ (s.fault7 c code).latches = s.latches ∧ (s.fault7 c code).lowers = s.lowers ∧
      (s.fault7 c code).engines = s.engines ∧ (s.fault7 c code).ve = s.ve ∧ (s.fault7 c code).stats = s.stats ∧
      (s.fault7 c code).digests = s.digests ∧ (s.fault7 c code).mem = s.mem ∧ (s.fault7 c code).se = s.se ∧
      (s.fault7 c code).far = s.far ∧ (s.fault7 c code).rings = s.rings ∧ (s.fault7 c code).lehr = s.lehr ∧
      (s.fault7 c code).router = s.router ∧ (s.fault7 c code).marver = s.marver ∧
      (s.fault7 c code).journal = s.journal ∧ (s.fault7 c code).tier = s.tier ∧ (s.fault7 c code).pins = s.pins := by
  unfold State.fault7; simp

@[simp] theorem State.schedSlip_frame (s : State) (c : QueueCmd) (d : Nat) :
    (s.schedSlip c d).pending = s.pending ∧ (s.schedSlip c d).nc = s.nc ∧ (s.schedSlip c d).free = s.free ∧
      (s.schedSlip c d).resp = s.resp ∧ (s.schedSlip c d).latches = s.latches ∧ (s.schedSlip c d).lowers = s.lowers ∧
      (s.schedSlip c d).engines = s.engines ∧ (s.schedSlip c d).ve = s.ve ∧ (s.schedSlip c d).stats = s.stats ∧
      (s.schedSlip c d).digests = s.digests ∧ (s.schedSlip c d).mem = s.mem ∧ (s.schedSlip c d).se = s.se ∧
      (s.schedSlip c d).far = s.far ∧ (s.schedSlip c d).rings = s.rings ∧ (s.schedSlip c d).router = s.router ∧
      (s.schedSlip c d).marver = s.marver ∧ (s.schedSlip c d).journal = s.journal ∧ (s.schedSlip c d).tier = s.tier ∧
      (s.schedSlip c d).pins = s.pins := by
  unfold State.schedSlip; (try dsimp only); simp

@[simp] theorem State.startSend_frame (s : State) (d : Send) :
    (s.startSend d).pending = s.pending ∧ (s.startSend d).nc = s.nc ∧ (s.startSend d).free = s.free ∧
      (s.startSend d).resp = s.resp ∧ (s.startSend d).latches = s.latches ∧ (s.startSend d).lowers = s.lowers ∧
      (s.startSend d).engines = s.engines ∧ (s.startSend d).ve = s.ve ∧ (s.startSend d).stats = s.stats ∧
      (s.startSend d).digests = s.digests ∧ (s.startSend d).mem = s.mem ∧ (s.startSend d).se = s.se ∧
      (s.startSend d).far = s.far ∧ (s.startSend d).lehr = s.lehr ∧ (s.startSend d).router = s.router ∧
      (s.startSend d).marver = s.marver ∧ (s.startSend d).journal = s.journal ∧ (s.startSend d).gaffer = s.gaffer ∧
      (s.startSend d).tier = s.tier ∧ (s.startSend d).pins = s.pins := by
  unfold State.startSend; (try dsimp only); (repeat' split) <;> simp

@[simp] theorem State.finishSend_frame (s : State) (d : Send) (payload : List Byte) :
    (s.finishSend d payload).pending = s.pending ∧ (s.finishSend d payload).nc = s.nc ∧
      (s.finishSend d payload).free = s.free ∧ (s.finishSend d payload).resp = s.resp ∧
      (s.finishSend d payload).latches = s.latches ∧ (s.finishSend d payload).lowers = s.lowers ∧
      (s.finishSend d payload).engines = s.engines ∧ (s.finishSend d payload).ve = s.ve ∧
      (s.finishSend d payload).stats = s.stats ∧ (s.finishSend d payload).digests = s.digests ∧
      (s.finishSend d payload).mem = s.mem ∧ (s.finishSend d payload).se = s.se ∧ (s.finishSend d payload).far = s.far ∧
      (s.finishSend d payload).sched = s.sched ∧ (s.finishSend d payload).lehr = s.lehr ∧
      (s.finishSend d payload).marver = s.marver ∧ (s.finishSend d payload).gaffer = s.gaffer ∧
      (s.finishSend d payload).tier = s.tier ∧ (s.finishSend d payload).pins = s.pins := by
  unfold State.finishSend; dsimp only
  generalize hp : s.suppressSend d.entry = p; obtain ⟨b, u⟩ := p
  have hf := State.suppressSend_frame s d.entry; rw [hp] at hf; dsimp only at hf ⊢
  (repeat' split) <;> simp [hf]

@[simp] theorem State.reportHalt_frame (s : State) (id : Nat) (code : Half) (faddr : DWord) :
    (s.reportHalt id code faddr).pending = s.pending ∧ (s.reportHalt id code faddr).nc = s.nc ∧
      (s.reportHalt id code faddr).free = s.free ∧ (s.reportHalt id code faddr).resp = s.resp ∧
      (s.reportHalt id code faddr).latches = s.latches ∧ (s.reportHalt id code faddr).lowers = s.lowers ∧
      (s.reportHalt id code faddr).core = s.core ∧ (s.reportHalt id code faddr).engines = s.engines ∧
      (s.reportHalt id code faddr).ve = s.ve ∧ (s.reportHalt id code faddr).stats = s.stats ∧
      (s.reportHalt id code faddr).digests = s.digests ∧ (s.reportHalt id code faddr).mem = s.mem ∧
      (s.reportHalt id code faddr).far = s.far ∧ (s.reportHalt id code faddr).rings = s.rings ∧
      (s.reportHalt id code faddr).sched = s.sched ∧ (s.reportHalt id code faddr).lehr = s.lehr ∧
      (s.reportHalt id code faddr).router = s.router ∧ (s.reportHalt id code faddr).marver = s.marver ∧
      (s.reportHalt id code faddr).tier = s.tier ∧ (s.reportHalt id code faddr).pins = s.pins := by
  unfold State.reportHalt; (try dsimp only); (repeat' split) <;> simp

@[simp] theorem State.settleCtx_frame (s : State) (id : Nat) :
    (s.settleCtx id).pending = s.pending ∧ (s.settleCtx id).nc = s.nc ∧ (s.settleCtx id).free = s.free ∧
      (s.settleCtx id).resp = s.resp ∧ (s.settleCtx id).latches = s.latches ∧ (s.settleCtx id).lowers = s.lowers ∧
      (s.settleCtx id).core = s.core ∧ (s.settleCtx id).engines = s.engines ∧ (s.settleCtx id).ve = s.ve ∧
      (s.settleCtx id).stats = s.stats ∧ (s.settleCtx id).digests = s.digests ∧ (s.settleCtx id).mem = s.mem ∧
      (s.settleCtx id).far = s.far ∧ (s.settleCtx id).rings = s.rings ∧ (s.settleCtx id).sched = s.sched ∧
      (s.settleCtx id).lehr = s.lehr ∧ (s.settleCtx id).router = s.router ∧ (s.settleCtx id).marver = s.marver ∧
      (s.settleCtx id).tier = s.tier ∧ (s.settleCtx id).pins = s.pins := by
  unfold State.settleCtx; (try dsimp only); (repeat' split) <;> simp

@[simp] theorem State.settleWait_frame (s : State) :
    s.settleWait.pending = s.pending ∧ s.settleWait.nc = s.nc ∧ s.settleWait.free = s.free ∧
      s.settleWait.resp = s.resp ∧ s.settleWait.latches = s.latches ∧ s.settleWait.lowers = s.lowers ∧
      s.settleWait.engines = s.engines ∧ s.settleWait.ve = s.ve ∧ s.settleWait.stats = s.stats ∧
      s.settleWait.digests = s.digests ∧ s.settleWait.mem = s.mem ∧ s.settleWait.far = s.far ∧
      s.settleWait.rings = s.rings ∧ s.settleWait.sched = s.sched ∧ s.settleWait.lehr = s.lehr ∧
      s.settleWait.router = s.router ∧ s.settleWait.marver = s.marver ∧ s.settleWait.journal = s.journal ∧
      s.settleWait.tier = s.tier ∧ s.settleWait.pins = s.pins := by
  unfold State.settleWait; (try dsimp only); (repeat' split) <;> simp

@[simp] theorem State.settleStream_frame (s : State) (id : Nat) :
    (s.settleStream id).pending = s.pending ∧ (s.settleStream id).nc = s.nc ∧ (s.settleStream id).free = s.free ∧
      (s.settleStream id).resp = s.resp ∧ (s.settleStream id).latches = s.latches ∧
      (s.settleStream id).lowers = s.lowers ∧ (s.settleStream id).engines = s.engines ∧ (s.settleStream id).ve = s.ve ∧
      (s.settleStream id).stats = s.stats ∧ (s.settleStream id).digests = s.digests ∧ (s.settleStream id).mem = s.mem ∧
      (s.settleStream id).far = s.far ∧ (s.settleStream id).rings = s.rings ∧ (s.settleStream id).sched = s.sched ∧
      (s.settleStream id).lehr = s.lehr ∧ (s.settleStream id).router = s.router ∧
      (s.settleStream id).marver = s.marver ∧ (s.settleStream id).tier = s.tier ∧ (s.settleStream id).pins = s.pins := by
  unfold State.settleStream; simp

@[simp] theorem State.xferDone_frame (s : State) (x : Xfer) :
    (s.xferDone x).pending = s.pending ∧ (s.xferDone x).nc = s.nc ∧ (s.xferDone x).free = s.free ∧
      (s.xferDone x).resp = s.resp ∧ (s.xferDone x).latches = s.latches ∧ (s.xferDone x).lowers = s.lowers ∧
      (s.xferDone x).engines = s.engines ∧ (s.xferDone x).ve = s.ve ∧ (s.xferDone x).stats = s.stats ∧
      (s.xferDone x).digests = s.digests ∧ (s.xferDone x).mem = s.mem ∧ (s.xferDone x).far = s.far ∧
      (s.xferDone x).rings = s.rings ∧ (s.xferDone x).sched = s.sched ∧ (s.xferDone x).lehr = s.lehr ∧
      (s.xferDone x).router = s.router ∧ (s.xferDone x).marver = s.marver ∧ (s.xferDone x).tier = s.tier ∧
      (s.xferDone x).pins = s.pins := by
  unfold State.xferDone; simp

@[simp] theorem State.xferFail_frame (s : State) (x : Xfer) (code : Half) (w : Bool) :
    (s.xferFail x code w).pending = s.pending ∧ (s.xferFail x code w).nc = s.nc ∧
      (s.xferFail x code w).free = s.free ∧ (s.xferFail x code w).resp = s.resp ∧
      (s.xferFail x code w).latches = s.latches ∧ (s.xferFail x code w).lowers = s.lowers ∧
      (s.xferFail x code w).engines = s.engines ∧ (s.xferFail x code w).ve = s.ve ∧
      (s.xferFail x code w).stats = s.stats ∧ (s.xferFail x code w).digests = s.digests ∧
      (s.xferFail x code w).mem = s.mem ∧ (s.xferFail x code w).far = s.far ∧ (s.xferFail x code w).rings = s.rings ∧
      (s.xferFail x code w).sched = s.sched ∧ (s.xferFail x code w).lehr = s.lehr ∧
      (s.xferFail x code w).router = s.router ∧ (s.xferFail x code w).marver = s.marver ∧
      (s.xferFail x code w).tier = s.tier ∧ (s.xferFail x code w).pins = s.pins := by
  unfold State.xferFail; simp

@[simp] theorem State.streamsLeaveRun_frame (s : State) :
    s.streamsLeaveRun.pending = s.pending ∧ s.streamsLeaveRun.nc = s.nc ∧ s.streamsLeaveRun.free = s.free ∧
      s.streamsLeaveRun.resp = s.resp ∧ s.streamsLeaveRun.latches = s.latches ∧ s.streamsLeaveRun.lowers = s.lowers ∧
      s.streamsLeaveRun.core = s.core ∧ s.streamsLeaveRun.engines = s.engines ∧ s.streamsLeaveRun.ve = s.ve ∧
      s.streamsLeaveRun.stats = s.stats ∧ s.streamsLeaveRun.digests = s.digests ∧ s.streamsLeaveRun.mem = s.mem ∧
      s.streamsLeaveRun.far = s.far ∧ s.streamsLeaveRun.rings = s.rings ∧ s.streamsLeaveRun.sched = s.sched ∧
      s.streamsLeaveRun.lehr = s.lehr ∧ s.streamsLeaveRun.router = s.router ∧ s.streamsLeaveRun.marver = s.marver ∧
      s.streamsLeaveRun.tier = s.tier ∧ s.streamsLeaveRun.pins = s.pins := by
  refine ⟨?_, ?_, ?_, ?_, ?_, ?_, ?_, ?_, ?_, ?_, ?_, ?_, ?_, ?_, ?_, ?_, ?_, ?_, ?_, ?_⟩
  · unfold State.streamsLeaveRun; refine Eq.trans (foldl_keeps _ (fun s => s.pending) ?_ _ _) rfl; intros; (try dsimp only); split <;> simp
  · unfold State.streamsLeaveRun; refine Eq.trans (foldl_keeps _ (fun s => s.nc) ?_ _ _) rfl; intros; (try dsimp only); split <;> simp
  · unfold State.streamsLeaveRun; refine Eq.trans (foldl_keeps _ (fun s => s.free) ?_ _ _) rfl; intros; (try dsimp only); split <;> simp
  · unfold State.streamsLeaveRun; refine Eq.trans (foldl_keeps _ (fun s => s.resp) ?_ _ _) rfl; intros; (try dsimp only); split <;> simp
  · unfold State.streamsLeaveRun; refine Eq.trans (foldl_keeps _ (fun s => s.latches) ?_ _ _) rfl; intros; (try dsimp only); split <;> simp
  · unfold State.streamsLeaveRun; refine Eq.trans (foldl_keeps _ (fun s => s.lowers) ?_ _ _) rfl; intros; (try dsimp only); split <;> simp
  · unfold State.streamsLeaveRun; refine Eq.trans (foldl_keeps _ (fun s => s.core) ?_ _ _) rfl; intros; (try dsimp only); split <;> simp
  · unfold State.streamsLeaveRun; refine Eq.trans (foldl_keeps _ (fun s => s.engines) ?_ _ _) rfl; intros; (try dsimp only); split <;> simp
  · unfold State.streamsLeaveRun; refine Eq.trans (foldl_keeps _ (fun s => s.ve) ?_ _ _) rfl; intros; (try dsimp only); split <;> simp
  · unfold State.streamsLeaveRun; refine Eq.trans (foldl_keeps _ (fun s => s.stats) ?_ _ _) rfl; intros; (try dsimp only); split <;> simp
  · unfold State.streamsLeaveRun; refine Eq.trans (foldl_keeps _ (fun s => s.digests) ?_ _ _) rfl; intros; (try dsimp only); split <;> simp
  · unfold State.streamsLeaveRun; refine Eq.trans (foldl_keeps _ (fun s => s.mem) ?_ _ _) rfl; intros; (try dsimp only); split <;> simp
  · unfold State.streamsLeaveRun; refine Eq.trans (foldl_keeps _ (fun s => s.far) ?_ _ _) rfl; intros; (try dsimp only); split <;> simp
  · unfold State.streamsLeaveRun; refine Eq.trans (foldl_keeps _ (fun s => s.rings) ?_ _ _) rfl; intros; (try dsimp only); split <;> simp
  · unfold State.streamsLeaveRun; refine Eq.trans (foldl_keeps _ (fun s => s.sched) ?_ _ _) rfl; intros; (try dsimp only); split <;> simp
  · unfold State.streamsLeaveRun; refine Eq.trans (foldl_keeps _ (fun s => s.lehr) ?_ _ _) rfl; intros; (try dsimp only); split <;> simp
  · unfold State.streamsLeaveRun; refine Eq.trans (foldl_keeps _ (fun s => s.router) ?_ _ _) rfl; intros; (try dsimp only); split <;> simp
  · unfold State.streamsLeaveRun; refine Eq.trans (foldl_keeps _ (fun s => s.marver) ?_ _ _) rfl; intros; (try dsimp only); split <;> simp
  · unfold State.streamsLeaveRun; refine Eq.trans (foldl_keeps _ (fun s => s.tier) ?_ _ _) rfl; intros; (try dsimp only); split <;> simp
  · unfold State.streamsLeaveRun; refine Eq.trans (foldl_keeps _ (fun s => s.pins) ?_ _ _) rfl; intros; (try dsimp only); split <;> simp

@[simp] theorem State.mvSettle_frame (s : State) :
    s.mvSettle.pending = s.pending ∧ s.mvSettle.nc = s.nc ∧ s.mvSettle.free = s.free ∧ s.mvSettle.resp = s.resp ∧
      s.mvSettle.latches = s.latches ∧ s.mvSettle.lowers = s.lowers ∧ s.mvSettle.engines = s.engines ∧
      s.mvSettle.ve = s.ve ∧ s.mvSettle.stats = s.stats ∧ s.mvSettle.digests = s.digests ∧ s.mvSettle.mem = s.mem ∧
      s.mvSettle.se = s.se ∧ s.mvSettle.far = s.far ∧ s.mvSettle.rings = s.rings ∧ s.mvSettle.sched = s.sched ∧
      s.mvSettle.lehr = s.lehr ∧ s.mvSettle.router = s.router ∧ s.mvSettle.journal = s.journal ∧
      s.mvSettle.tier = s.tier ∧ s.mvSettle.pins = s.pins := by
  unfold State.mvSettle; (try dsimp only); (repeat' split) <;> simp

@[simp] theorem State.newId_frame (s : State) (valid : Bool) (id : BitVec 11) :
    (s.newId valid id).pending = s.pending ∧ (s.newId valid id).nc = s.nc ∧ (s.newId valid id).free = s.free ∧
      (s.newId valid id).resp = s.resp ∧ (s.newId valid id).latches = s.latches ∧
      (s.newId valid id).lowers = s.lowers ∧ (s.newId valid id).raised = s.raised ∧
      (s.newId valid id).core = s.core ∧ (s.newId valid id).engines = s.engines ∧ (s.newId valid id).ve = s.ve ∧
      (s.newId valid id).stats = s.stats ∧ (s.newId valid id).digests = s.digests ∧ (s.newId valid id).mem = s.mem ∧
      (s.newId valid id).se = s.se ∧ (s.newId valid id).far = s.far ∧ (s.newId valid id).rings = s.rings ∧
      (s.newId valid id).sched = s.sched ∧ (s.newId valid id).lehr = s.lehr ∧ (s.newId valid id).marver = s.marver ∧
      (s.newId valid id).journal = s.journal ∧ (s.newId valid id).gaffer = s.gaffer ∧
      (s.newId valid id).tier = s.tier ∧ (s.newId valid id).pins = s.pins :=
  ⟨rfl, rfl, rfl, rfl, rfl, rfl, rfl, rfl, rfl, rfl, rfl, rfl, rfl, rfl, rfl, rfl, rfl, rfl, rfl, rfl, rfl, rfl, rfl⟩

@[simp] theorem State.fireAct_frame (s : State) (a : Nat) :
    (s.fireAct a).pending = s.pending ∧ (s.fireAct a).nc = s.nc ∧ (s.fireAct a).free = s.free ∧
      (s.fireAct a).resp = s.resp ∧ (s.fireAct a).latches = s.latches ∧ (s.fireAct a).lowers = s.lowers ∧
      (s.fireAct a).core = s.core ∧ (s.fireAct a).engines = s.engines ∧ (s.fireAct a).ve = s.ve ∧
      (s.fireAct a).stats = s.stats ∧ (s.fireAct a).digests = s.digests ∧ (s.fireAct a).mem = s.mem ∧
      (s.fireAct a).se = s.se ∧ (s.fireAct a).far = s.far ∧ (s.fireAct a).rings = s.rings ∧
      (s.fireAct a).sched = s.sched ∧ (s.fireAct a).router = s.router ∧ (s.fireAct a).marver = s.marver ∧
      (s.fireAct a).journal = s.journal ∧ (s.fireAct a).gaffer = s.gaffer ∧ (s.fireAct a).tier = s.tier ∧
      (s.fireAct a).pins = s.pins :=
  ⟨rfl, rfl, rfl, rfl, rfl, rfl, rfl, rfl, rfl, rfl, rfl, rfl, rfl, rfl, rfl, rfl, rfl, rfl, rfl, rfl, rfl, rfl⟩

@[simp] theorem State.updateId_frame (s : State) (epoch : Half) :
    (s.updateId epoch).pending = s.pending ∧ (s.updateId epoch).nc = s.nc ∧ (s.updateId epoch).free = s.free ∧
      (s.updateId epoch).resp = s.resp ∧ (s.updateId epoch).latches = s.latches ∧
      (s.updateId epoch).lowers = s.lowers ∧ (s.updateId epoch).core = s.core ∧
      (s.updateId epoch).engines = s.engines ∧ (s.updateId epoch).ve = s.ve ∧ (s.updateId epoch).stats = s.stats ∧
      (s.updateId epoch).digests = s.digests ∧ (s.updateId epoch).mem = s.mem ∧ (s.updateId epoch).se = s.se ∧
      (s.updateId epoch).far = s.far ∧ (s.updateId epoch).rings = s.rings ∧ (s.updateId epoch).sched = s.sched ∧
      (s.updateId epoch).marver = s.marver ∧ (s.updateId epoch).tier = s.tier ∧ (s.updateId epoch).pins = s.pins := by
  unfold State.updateId; (try dsimp only); (repeat' split) <;> simp

@[simp] theorem State.remapApply_frame (s : State) (arg : Word) :
    (s.remapApply arg).pending = s.pending ∧ (s.remapApply arg).nc = s.nc ∧ (s.remapApply arg).free = s.free ∧
      (s.remapApply arg).resp = s.resp ∧ (s.remapApply arg).latches = s.latches ∧
      (s.remapApply arg).lowers = s.lowers ∧ (s.remapApply arg).core = s.core ∧
      (s.remapApply arg).engines = s.engines ∧ (s.remapApply arg).ve = s.ve ∧ (s.remapApply arg).stats = s.stats ∧
      (s.remapApply arg).digests = s.digests ∧ (s.remapApply arg).mem = s.mem ∧ (s.remapApply arg).se = s.se ∧
      (s.remapApply arg).far = s.far ∧ (s.remapApply arg).rings = s.rings ∧ (s.remapApply arg).sched = s.sched ∧
      (s.remapApply arg).marver = s.marver ∧ (s.remapApply arg).tier = s.tier ∧ (s.remapApply arg).pins = s.pins := by
  unfold State.remapApply; (try dsimp only); (repeat' split) <;> simp

@[simp] theorem State.fireRemap_frame (s : State) (a : Nat) :
    (s.fireRemap a).pending = s.pending ∧ (s.fireRemap a).nc = s.nc ∧ (s.fireRemap a).free = s.free ∧
      (s.fireRemap a).resp = s.resp ∧ (s.fireRemap a).latches = s.latches ∧ (s.fireRemap a).lowers = s.lowers ∧
      (s.fireRemap a).core = s.core ∧ (s.fireRemap a).engines = s.engines ∧ (s.fireRemap a).ve = s.ve ∧
      (s.fireRemap a).stats = s.stats ∧ (s.fireRemap a).digests = s.digests ∧ (s.fireRemap a).mem = s.mem ∧
      (s.fireRemap a).se = s.se ∧ (s.fireRemap a).far = s.far ∧ (s.fireRemap a).rings = s.rings ∧
      (s.fireRemap a).sched = s.sched ∧ (s.fireRemap a).marver = s.marver ∧ (s.fireRemap a).tier = s.tier ∧
      (s.fireRemap a).pins = s.pins := by
  unfold State.fireRemap; (try dsimp only); (repeat' split) <;> simp

@[simp] theorem State.passRemaps_frame (s : State) (pass : DWord) :
    (s.passRemaps pass).pending = s.pending ∧ (s.passRemaps pass).nc = s.nc ∧ (s.passRemaps pass).free = s.free ∧
      (s.passRemaps pass).resp = s.resp ∧ (s.passRemaps pass).latches = s.latches ∧
      (s.passRemaps pass).lowers = s.lowers ∧ (s.passRemaps pass).core = s.core ∧
      (s.passRemaps pass).engines = s.engines ∧ (s.passRemaps pass).ve = s.ve ∧ (s.passRemaps pass).stats = s.stats ∧
      (s.passRemaps pass).digests = s.digests ∧ (s.passRemaps pass).mem = s.mem ∧ (s.passRemaps pass).se = s.se ∧
      (s.passRemaps pass).far = s.far ∧ (s.passRemaps pass).rings = s.rings ∧ (s.passRemaps pass).sched = s.sched ∧
      (s.passRemaps pass).marver = s.marver ∧ (s.passRemaps pass).tier = s.tier ∧ (s.passRemaps pass).pins = s.pins := by
  refine ⟨?_, ?_, ?_, ?_, ?_, ?_, ?_, ?_, ?_, ?_, ?_, ?_, ?_, ?_, ?_, ?_, ?_, ?_, ?_⟩
  · unfold State.passRemaps; exact foldl_keeps _ (fun s => s.pending) (by intros; (try dsimp only); (repeat' split) <;> simp) _ _
  · unfold State.passRemaps; exact foldl_keeps _ (fun s => s.nc) (by intros; (try dsimp only); (repeat' split) <;> simp) _ _
  · unfold State.passRemaps; exact foldl_keeps _ (fun s => s.free) (by intros; (try dsimp only); (repeat' split) <;> simp) _ _
  · unfold State.passRemaps; exact foldl_keeps _ (fun s => s.resp) (by intros; (try dsimp only); (repeat' split) <;> simp) _ _
  · unfold State.passRemaps; exact foldl_keeps _ (fun s => s.latches) (by intros; (try dsimp only); (repeat' split) <;> simp) _ _
  · unfold State.passRemaps; exact foldl_keeps _ (fun s => s.lowers) (by intros; (try dsimp only); (repeat' split) <;> simp) _ _
  · unfold State.passRemaps; exact foldl_keeps _ (fun s => s.core) (by intros; (try dsimp only); (repeat' split) <;> simp) _ _
  · unfold State.passRemaps; exact foldl_keeps _ (fun s => s.engines) (by intros; (try dsimp only); (repeat' split) <;> simp) _ _
  · unfold State.passRemaps; exact foldl_keeps _ (fun s => s.ve) (by intros; (try dsimp only); (repeat' split) <;> simp) _ _
  · unfold State.passRemaps; exact foldl_keeps _ (fun s => s.stats) (by intros; (try dsimp only); (repeat' split) <;> simp) _ _
  · unfold State.passRemaps; exact foldl_keeps _ (fun s => s.digests) (by intros; (try dsimp only); (repeat' split) <;> simp) _ _
  · unfold State.passRemaps; exact foldl_keeps _ (fun s => s.mem) (by intros; (try dsimp only); (repeat' split) <;> simp) _ _
  · unfold State.passRemaps; exact foldl_keeps _ (fun s => s.se) (by intros; (try dsimp only); (repeat' split) <;> simp) _ _
  · unfold State.passRemaps; exact foldl_keeps _ (fun s => s.far) (by intros; (try dsimp only); (repeat' split) <;> simp) _ _
  · unfold State.passRemaps; exact foldl_keeps _ (fun s => s.rings) (by intros; (try dsimp only); (repeat' split) <;> simp) _ _
  · unfold State.passRemaps; exact foldl_keeps _ (fun s => s.sched) (by intros; (try dsimp only); (repeat' split) <;> simp) _ _
  · unfold State.passRemaps; exact foldl_keeps _ (fun s => s.marver) (by intros; (try dsimp only); (repeat' split) <;> simp) _ _
  · unfold State.passRemaps; exact foldl_keeps _ (fun s => s.tier) (by intros; (try dsimp only); (repeat' split) <;> simp) _ _
  · unfold State.passRemaps; exact foldl_keeps _ (fun s => s.pins) (by intros; (try dsimp only); (repeat' split) <;> simp) _ _

@[simp] theorem State.dueRemaps_frame (s : State) :
    s.dueRemaps.pending = s.pending ∧ s.dueRemaps.nc = s.nc ∧ s.dueRemaps.free = s.free ∧ s.dueRemaps.resp = s.resp ∧
      s.dueRemaps.latches = s.latches ∧ s.dueRemaps.lowers = s.lowers ∧ s.dueRemaps.core = s.core ∧
      s.dueRemaps.engines = s.engines ∧ s.dueRemaps.ve = s.ve ∧ s.dueRemaps.stats = s.stats ∧
      s.dueRemaps.digests = s.digests ∧ s.dueRemaps.mem = s.mem ∧ s.dueRemaps.se = s.se ∧ s.dueRemaps.far = s.far ∧
      s.dueRemaps.rings = s.rings ∧ s.dueRemaps.sched = s.sched ∧ s.dueRemaps.marver = s.marver ∧
      s.dueRemaps.tier = s.tier ∧ s.dueRemaps.pins = s.pins := by
  refine ⟨?_, ?_, ?_, ?_, ?_, ?_, ?_, ?_, ?_, ?_, ?_, ?_, ?_, ?_, ?_, ?_, ?_, ?_, ?_⟩
  · unfold State.dueRemaps; (try dsimp only); refine Eq.trans (foldl_keeps _ (fun s => s.pending) ?_ _ _) rfl; intros; (try dsimp only); split <;> simp
  · unfold State.dueRemaps; (try dsimp only); refine Eq.trans (foldl_keeps _ (fun s => s.nc) ?_ _ _) rfl; intros; (try dsimp only); split <;> simp
  · unfold State.dueRemaps; (try dsimp only); refine Eq.trans (foldl_keeps _ (fun s => s.free) ?_ _ _) rfl; intros; (try dsimp only); split <;> simp
  · unfold State.dueRemaps; (try dsimp only); refine Eq.trans (foldl_keeps _ (fun s => s.resp) ?_ _ _) rfl; intros; (try dsimp only); split <;> simp
  · unfold State.dueRemaps; (try dsimp only); refine Eq.trans (foldl_keeps _ (fun s => s.latches) ?_ _ _) rfl; intros; (try dsimp only); split <;> simp
  · unfold State.dueRemaps; (try dsimp only); refine Eq.trans (foldl_keeps _ (fun s => s.lowers) ?_ _ _) rfl; intros; (try dsimp only); split <;> simp
  · unfold State.dueRemaps; (try dsimp only); refine Eq.trans (foldl_keeps _ (fun s => s.core) ?_ _ _) rfl; intros; (try dsimp only); split <;> simp
  · unfold State.dueRemaps; (try dsimp only); refine Eq.trans (foldl_keeps _ (fun s => s.engines) ?_ _ _) rfl; intros; (try dsimp only); split <;> simp
  · unfold State.dueRemaps; (try dsimp only); refine Eq.trans (foldl_keeps _ (fun s => s.ve) ?_ _ _) rfl; intros; (try dsimp only); split <;> simp
  · unfold State.dueRemaps; (try dsimp only); refine Eq.trans (foldl_keeps _ (fun s => s.stats) ?_ _ _) rfl; intros; (try dsimp only); split <;> simp
  · unfold State.dueRemaps; (try dsimp only); refine Eq.trans (foldl_keeps _ (fun s => s.digests) ?_ _ _) rfl; intros; (try dsimp only); split <;> simp
  · unfold State.dueRemaps; (try dsimp only); refine Eq.trans (foldl_keeps _ (fun s => s.mem) ?_ _ _) rfl; intros; (try dsimp only); split <;> simp
  · unfold State.dueRemaps; (try dsimp only); refine Eq.trans (foldl_keeps _ (fun s => s.se) ?_ _ _) rfl; intros; (try dsimp only); split <;> simp
  · unfold State.dueRemaps; (try dsimp only); refine Eq.trans (foldl_keeps _ (fun s => s.far) ?_ _ _) rfl; intros; (try dsimp only); split <;> simp
  · unfold State.dueRemaps; (try dsimp only); refine Eq.trans (foldl_keeps _ (fun s => s.rings) ?_ _ _) rfl; intros; (try dsimp only); split <;> simp
  · unfold State.dueRemaps; (try dsimp only); refine Eq.trans (foldl_keeps _ (fun s => s.sched) ?_ _ _) rfl; intros; (try dsimp only); split <;> simp
  · unfold State.dueRemaps; (try dsimp only); refine Eq.trans (foldl_keeps _ (fun s => s.marver) ?_ _ _) rfl; intros; (try dsimp only); split <;> simp
  · unfold State.dueRemaps; (try dsimp only); refine Eq.trans (foldl_keeps _ (fun s => s.tier) ?_ _ _) rfl; intros; (try dsimp only); split <;> simp
  · unfold State.dueRemaps; (try dsimp only); refine Eq.trans (foldl_keeps _ (fun s => s.pins) ?_ _ _) rfl; intros; (try dsimp only); split <;> simp

@[simp] theorem State.applyLoad_frame (s : State) (m : Option (List Byte)) :
    (s.applyLoad m).pending = s.pending ∧ (s.applyLoad m).nc = s.nc ∧ (s.applyLoad m).free = s.free ∧
      (s.applyLoad m).resp = s.resp ∧ (s.applyLoad m).latches = s.latches ∧ (s.applyLoad m).lowers = s.lowers ∧
      (s.applyLoad m).core = s.core ∧ (s.applyLoad m).engines = s.engines ∧ (s.applyLoad m).ve = s.ve ∧
      (s.applyLoad m).stats = s.stats ∧ (s.applyLoad m).digests = s.digests ∧ (s.applyLoad m).mem = s.mem ∧
      (s.applyLoad m).far = s.far ∧ (s.applyLoad m).rings = s.rings ∧ (s.applyLoad m).sched = s.sched ∧
      (s.applyLoad m).marver = s.marver ∧ (s.applyLoad m).tier = s.tier ∧ (s.applyLoad m).pins = s.pins := by
  unfold State.applyLoad; (try dsimp only); simp

@[simp] theorem State.loadMould_frame (s : State) :
    s.loadMould.pending = s.pending ∧ s.loadMould.nc = s.nc ∧ s.loadMould.free = s.free ∧ s.loadMould.resp = s.resp ∧
      s.loadMould.latches = s.latches ∧ s.loadMould.lowers = s.lowers ∧ s.loadMould.core = s.core ∧
      s.loadMould.engines = s.engines ∧ s.loadMould.ve = s.ve ∧ s.loadMould.stats = s.stats ∧
      s.loadMould.digests = s.digests ∧ s.loadMould.mem = s.mem ∧ s.loadMould.far = s.far ∧
      s.loadMould.rings = s.rings ∧ s.loadMould.sched = s.sched ∧ s.loadMould.marver = s.marver ∧
      s.loadMould.tier = s.tier ∧ s.loadMould.pins = s.pins := by
  unfold State.loadMould; (try dsimp only); split <;> simp

@[simp] theorem State.jmark_frame (s : State) (a : Word) (b c : Nat) (g : Half) (id : DWord) :
    (s.jmark a b c g id).1.pending = s.pending ∧ (s.jmark a b c g id).1.nc = s.nc ∧
      (s.jmark a b c g id).1.free = s.free ∧ (s.jmark a b c g id).1.resp = s.resp ∧
      (s.jmark a b c g id).1.latches = s.latches ∧ (s.jmark a b c g id).1.lowers = s.lowers ∧
      (s.jmark a b c g id).1.core = s.core ∧ (s.jmark a b c g id).1.engines = s.engines ∧
      (s.jmark a b c g id).1.ve = s.ve ∧ (s.jmark a b c g id).1.stats = s.stats ∧
      (s.jmark a b c g id).1.digests = s.digests ∧ (s.jmark a b c g id).1.mem = s.mem ∧
      (s.jmark a b c g id).1.se = s.se ∧ (s.jmark a b c g id).1.far = s.far ∧ (s.jmark a b c g id).1.rings = s.rings ∧
      (s.jmark a b c g id).1.sched = s.sched ∧ (s.jmark a b c g id).1.lehr = s.lehr ∧
      (s.jmark a b c g id).1.router = s.router ∧ (s.jmark a b c g id).1.marver = s.marver ∧
      (s.jmark a b c g id).1.tier = s.tier ∧ (s.jmark a b c g id).1.pins = s.pins := by
  unfold State.jmark; split <;> simp

@[simp] theorem State.launchMark_frame (s : State) :
    s.launchMark.pending = s.pending ∧ s.launchMark.nc = s.nc ∧ s.launchMark.free = s.free ∧
      s.launchMark.resp = s.resp ∧ s.launchMark.latches = s.latches ∧ s.launchMark.lowers = s.lowers ∧
      s.launchMark.core = s.core ∧ s.launchMark.engines = s.engines ∧ s.launchMark.ve = s.ve ∧
      s.launchMark.stats = s.stats ∧ s.launchMark.digests = s.digests ∧ s.launchMark.mem = s.mem ∧
      s.launchMark.far = s.far ∧ s.launchMark.rings = s.rings ∧ s.launchMark.sched = s.sched ∧
      s.launchMark.lehr = s.lehr ∧ s.launchMark.router = s.router ∧ s.launchMark.tier = s.tier ∧
      s.launchMark.pins = s.pins := by
  unfold State.launchMark; dsimp only
  generalize hp : State.jmark s.zeroOrds _ _ _ _ _ = p; obtain ⟨t, m⟩ := p
  have hf := State.jmark_frame s.zeroOrds s.journal.snapSeq 0xFF 0 0#16 s.lehr.lc; rw [hp] at hf; dsimp only at hf ⊢
  split <;> simp [hf]

@[simp] theorem State.snapLeaveRun_frame (s : State) :
    s.snapLeaveRun.pending = s.pending ∧ s.snapLeaveRun.nc = s.nc ∧ s.snapLeaveRun.free = s.free ∧
      s.snapLeaveRun.resp = s.resp ∧ s.snapLeaveRun.latches = s.latches ∧ s.snapLeaveRun.lowers = s.lowers ∧
      s.snapLeaveRun.core = s.core ∧ s.snapLeaveRun.engines = s.engines ∧ s.snapLeaveRun.ve = s.ve ∧
      s.snapLeaveRun.stats = s.stats ∧ s.snapLeaveRun.digests = s.digests ∧ s.snapLeaveRun.mem = s.mem ∧
      s.snapLeaveRun.rings = s.rings ∧ s.snapLeaveRun.sched = s.sched ∧
      s.snapLeaveRun.lehr = s.lehr ∧ s.snapLeaveRun.router = s.router ∧ s.snapLeaveRun.marver = s.marver ∧
      s.snapLeaveRun.tier = s.tier ∧ s.snapLeaveRun.pins = s.pins := by
  unfold State.snapLeaveRun; split <;> simp

@[simp] theorem State.leaveRun_frame (s : State) :
    s.leaveRun.pending = s.pending ∧ s.leaveRun.nc = s.nc ∧ s.leaveRun.free = s.free ∧ s.leaveRun.resp = s.resp ∧
      s.leaveRun.digests = s.digests ∧ s.leaveRun.mem = s.mem ∧
      s.leaveRun.router = s.router ∧ s.leaveRun.tier = s.tier ∧ s.leaveRun.pins = s.pins := by
  unfold State.leaveRun; simp

@[simp] theorem State.jfence_frame (s : State) (c : Byte) :
    (s.jfence c).1.pending = s.pending ∧ (s.jfence c).1.nc = s.nc ∧ (s.jfence c).1.free = s.free ∧
      (s.jfence c).1.resp = s.resp ∧ (s.jfence c).1.latches = s.latches ∧ (s.jfence c).1.lowers = s.lowers ∧
      (s.jfence c).1.core = s.core ∧ (s.jfence c).1.engines = s.engines ∧ (s.jfence c).1.ve = s.ve ∧
      (s.jfence c).1.stats = s.stats ∧ (s.jfence c).1.digests = s.digests ∧ (s.jfence c).1.mem = s.mem ∧
      (s.jfence c).1.se = s.se ∧ (s.jfence c).1.far = s.far ∧ (s.jfence c).1.rings = s.rings ∧
      (s.jfence c).1.sched = s.sched ∧ (s.jfence c).1.lehr = s.lehr ∧ (s.jfence c).1.router = s.router ∧
      (s.jfence c).1.marver = s.marver ∧ (s.jfence c).1.tier = s.tier ∧ (s.jfence c).1.pins = s.pins := by
  unfold State.jfence; split <;> simp

@[simp] theorem State.fenceTo_frame (s : State) (next : TierState) (cause : Byte) (r : Bool) :
    (s.fenceTo next cause r).pending = s.pending ∧ (s.fenceTo next cause r).nc = s.nc ∧
      (s.fenceTo next cause r).free = s.free ∧ (s.fenceTo next cause r).resp = s.resp ∧
      (s.fenceTo next cause r).digests = s.digests ∧
      (s.fenceTo next cause r).mem = s.mem ∧ (s.fenceTo next cause r).router = s.router ∧
      (s.fenceTo next cause r).pins = s.pins := by
  unfold State.fenceTo; dsimp only
  generalize hp : (if s.inRun = true then s.jfence cause else (s, 0#32)) = p; obtain ⟨t, q⟩ := p
  have h1 : (if s.inRun = true then s.jfence cause else (s, 0#32)).1 = t := by rw [hp]
  subst h1; (repeat' split) <;> simp

@[simp] theorem State.autoFence_frame (s : State) (c : Byte) :
    (s.autoFence c).pending = s.pending ∧ (s.autoFence c).nc = s.nc ∧ (s.autoFence c).free = s.free ∧
      (s.autoFence c).resp = s.resp ∧ (s.autoFence c).digests = s.digests ∧
      (s.autoFence c).mem = s.mem ∧ (s.autoFence c).router = s.router ∧ (s.autoFence c).pins = s.pins := by
  unfold State.autoFence; (repeat' split) <;> simp

@[simp] theorem State.fence_frame (s : State) (o : Bool) :
    (s.fence o).pending = s.pending ∧ (s.fence o).nc = s.nc ∧ (s.fence o).free = s.free ∧ (s.fence o).resp = s.resp ∧
      (s.fence o).digests = s.digests ∧ (s.fence o).mem = s.mem ∧
      (s.fence o).router = s.router ∧ (s.fence o).pins = s.pins := by
  unfold State.fence; (repeat' split) <;> simp

@[simp] theorem State.interfaceLost_frame (s : State) :
    s.interfaceLost.pending = s.pending ∧ s.interfaceLost.nc = s.nc ∧ s.interfaceLost.free = s.free ∧
      s.interfaceLost.resp = s.resp ∧ s.interfaceLost.digests = s.digests ∧
      s.interfaceLost.mem = s.mem ∧ s.interfaceLost.pins = s.pins := by
  unfold State.interfaceLost; (try dsimp only); (repeat' split) <;> simp [State.annealFail, State.finalAnneal] <;> (repeat' split) <;> simp

@[simp] theorem State.revoke_frame (s : State) (t : Nat) :
    (s.revoke t).pending = s.pending ∧ (s.revoke t).nc = s.nc ∧ (s.revoke t).free = s.free ∧
      (s.revoke t).resp = s.resp ∧ (s.revoke t).latches = s.latches ∧ (s.revoke t).lowers = s.lowers ∧
      (s.revoke t).core = s.core ∧ (s.revoke t).engines = s.engines ∧ (s.revoke t).ve = s.ve ∧
      (s.revoke t).stats = s.stats ∧ (s.revoke t).digests = s.digests ∧ (s.revoke t).mem = s.mem ∧
      (s.revoke t).se = s.se ∧ (s.revoke t).far = s.far ∧ (s.revoke t).sched = s.sched ∧ (s.revoke t).lehr = s.lehr ∧
      (s.revoke t).marver = s.marver ∧ (s.revoke t).gaffer = s.gaffer ∧ (s.revoke t).tier = s.tier ∧
      (s.revoke t).pins = s.pins := by
  unfold State.revoke; simp

end Sys2Proof.Machine
end

