-- ==== Sys2Proof/Laws/Links.lean ====
section
/-! SUPPORT. What traffic on the links leaves. -/

set_option linter.unusedTactic false
set_option linter.unnecessarySeqFocus false

namespace Sys2Proof.Machine

/-- The parts of the state that the router, the ports and the edge link never change. -/
def State.offLink (s : State) :=
  (s.pending, s.nc, s.free, s.resp, s.latches, s.lowers, s.core, s.engines, s.ve, s.stats, s.digests, s.mem, s.se, s.far, s.rings,
    s.sched, s.lehr, s.marver, s.tier, s.pins)

/-- A fold of steps that keep what lies off the links keeps it. -/
theorem foldl_offLink {β : Type} (f : State → β → State) (h : ∀ s b, (f s b).offLink = s.offLink) (l : List β) (s : State) :
    (l.foldl f s).offLink = s.offLink := by
  induction l generalizing s with
  | nil => rfl
  | cons b l ih => rw [List.foldl_cons, ih, h]

@[simp] theorem State.offLink_router (s : State) (r : Router) : { s with router := r }.offLink = s.offLink := rfl
@[simp] theorem State.onPort_offLink (s : State) (p : Nat) (f : Port → Port) : (s.onPort p f).offLink = s.offLink := rfl
@[simp] theorem State.onLink_offLink (s : State) (f : EdgeLink → EdgeLink) : (s.onLink f).offLink = s.offLink := rfl
@[simp] theorem State.raise_offLink (s : State) (b o i : Nat) : (s.raise b o i).offLink = s.offLink := rfl
@[simp] theorem State.setRtStat_offLink (s : State) (i : Nat) : (s.setRtStat i).offLink = s.offLink := rfl
@[simp] theorem State.setJnStat_offLink (s : State) (i : Nat) : (s.setJnStat i).offLink = s.offLink := rfl
@[simp] theorem State.sendFrame_offLink (s : State) (a b : Half) (t : Nat) (l : List (List Byte × Byte)) :
    (s.sendFrame a b t l).offLink = s.offLink := rfl
@[simp] theorem State.sendIdle_offLink (s : State) (p : Nat) : (s.sendIdle p).offLink = s.offLink := rfl

@[simp] theorem State.post_offLink (s : State) (c : Half) (b : Byte) (d : List Nat) : (s.post c b d).offLink = s.offLink := by
  unfold State.post; split <;> rfl

@[simp] theorem State.kilnRecord_offLink (s : State) (c : Half) (b : Byte) (d : List Nat) :
    (s.kilnRecord c b d).offLink = s.offLink := by
  unfold State.kilnRecord; split <;> rfl

@[simp] theorem State.postKiln_offLink (s : State) (c : Half) (b : Byte) (d : List Nat) :
    (s.postKiln c b d).offLink = s.offLink := by
  simp [State.postKiln]

@[simp] theorem State.sendHello_offLink (s : State) (p : Nat) : (s.sendHello p).offLink = s.offLink := by
  unfold State.sendHello; split <;> rfl

@[simp] theorem State.noRoute_offLink (s : State) (m : Message) (b : Bool) : (s.noRoute m b).offLink = s.offLink := by
  simp [State.offLink]

@[simp] theorem State.freeInput_offLink (s : State) (i l n : Nat) : (s.freeInput i l n).offLink = s.offLink := by
  unfold State.freeInput; split <;> rfl

@[simp] theorem State.sendFlit_offLink (s : State) (p i : Nat) : (s.sendFlit p i).offLink = s.offLink := by
  unfold State.sendFlit; (repeat' split) <;> simp

@[simp] theorem State.pumpMesh_offLink (p k : Nat) (s : State) : (State.pumpMesh p k s).offLink = s.offLink := by
  induction k generalizing s with
  | zero => rfl
  | succ k ih => unfold State.pumpMesh; split <;> simp [ih]

@[simp] theorem edgeSlots_offLink (k : Nat) (s : State) : (edgeSlots k s).2.offLink = s.offLink := by
  induction k generalizing s with
  | zero => rfl
  | succ k ih =>
    unfold edgeSlots; split
    · rfl
    · rename_i i _
      split
      · rfl
      · exact (ih (s.sendFlit 4 i)).trans (s.sendFlit_offLink 4 i)

@[simp] theorem edgePump_offLink (k : Nat) (s : State) : (edgePump k s).offLink = s.offLink := by
  induction k generalizing s with
  | zero => rfl
  | succ k ih =>
    have h := edgeSlots_offLink 4 s
    unfold edgePump; generalize edgeSlots 4 s = p at h ⊢; obtain ⟨fs, t⟩ := p
    dsimp only at h ⊢; split
    · rfl
    · split
      · rfl
      · rw [ih, State.sendFrame_offLink, ← h]; rfl

@[simp] theorem State.pumpPort_offLink (s : State) (p : Nat) : (s.pumpPort p).offLink = s.offLink := by
  unfold State.pumpPort; dsimp only; (repeat' split) <;> simp

@[simp] theorem State.dropAt_offLink (s : State) (p : Nat) (m : Message) : (s.dropAt p m).offLink = s.offLink := by
  simp [State.dropAt]

@[simp] theorem State.outPort_offLink (s : State) (p i : Nat) (h : Bool) (m : Message) (x : Sideband) :
    (s.outPort p i h m x).offLink = s.offLink := by
  unfold State.outPort; dsimp only; (repeat' split) <;> simp

@[simp] theorem State.deliverLocal_offLink (s : State) (i : Nat) (m : Message) : (s.deliverLocal i m).offLink = s.offLink := by
  unfold State.deliverLocal; split <;> rfl

@[simp] theorem State.route_offLink (s : State) (i : Nat) (m : Message) (x : Sideband) : (s.route i m x).offLink = s.offLink := by
  unfold State.route; dsimp only; (repeat' split) <;> simp

@[simp] theorem State.spread_offLink (s : State) (i : Nat) (m : Message) (ports : List Nat) :
    (s.spread i m ports).offLink = s.offLink := by
  unfold State.spread; dsimp only; rw [State.freeInput_offLink]
  rw [apply_ite State.offLink, State.deliverLocal_offLink, ite_self]
  exact foldl_offLink _ (fun s b => by split <;> simp) _ _

@[simp] theorem State.inject_offLink (s : State) (i : Nat) (m : Message) (b : Bool) : (s.inject i m b).offLink = s.offLink := by
  unfold State.inject; (repeat' split) <;> simp

@[simp] theorem State.cutInput_offLink (s : State) (i l : Nat) : (s.cutInput i l).offLink = s.offLink := by
  unfold State.cutInput; split <;> rfl

@[simp] theorem State.clearLink_offLink (s : State) (p : Nat) : (s.clearLink p).offLink = s.offLink := by
  unfold State.clearLink; dsimp only; split <;> rfl

@[simp] theorem State.dropTraffic_offLink (s : State) (p : Nat) : (s.dropTraffic p).offLink = s.offLink := by
  unfold State.dropTraffic
  simp only [foldl_offLink _ fun s (o : OutMsg) => State.dropAt_offLink s p o.msg, apply_ite State.offLink,
    State.setRtStat_offLink, State.onPort_offLink, State.clearLink_offLink, ite_self]
  rw [foldl_offLink _ fun s (o : OutMsg) => by split <;> simp]
  split
  · exact foldl_offLink _ (fun s l => State.cutInput_offLink s p l) _ _
  · rfl

@[simp] theorem State.portDown_offLink (s : State) (p : Nat) (b : Bool) : (s.portDown p b).offLink = s.offLink := by
  unfold State.portDown; dsimp only; (repeat' split) <;> simp

@[simp] theorem State.startTraining_offLink (s : State) (p : Nat) : (s.startTraining p).offLink = s.offLink := by
  unfold State.startTraining; dsimp only; split <;> rfl

@[simp] theorem State.trainPorts_offLink (s : State) : s.trainPorts.offLink = s.offLink :=
  foldl_offLink _ (fun s b => by dsimp only; (repeat' split) <;> simp) _ _

@[simp] theorem State.returnCredits_offLink (s : State) : s.returnCredits.offLink = s.offLink := by
  unfold State.returnCredits; dsimp only; split <;> rfl

@[simp] theorem State.helloAgain_offLink (s : State) : s.helloAgain.offLink = s.offLink :=
  foldl_offLink _ (fun s b => by split <;> simp) _ _

@[simp] theorem State.partnerChanged_offLink (s : State) (p : Nat) : (s.partnerChanged p).offLink = s.offLink := by
  unfold State.partnerChanged; split <;> simp

@[simp] theorem State.portUp_offLink (s : State) (p g : Nat) : (s.portUp p g).offLink = s.offLink := by simp [State.portUp]

@[simp] theorem State.helloDone_offLink (s : State) (p : Nat) (r : List Byte) : (s.helloDone p r).offLink = s.offLink := by
  unfold State.helloDone; dsimp only; (repeat' split) <;> simp

@[simp] theorem State.hello_offLink (s : State) (p : Nat) (r : List Byte) : (s.hello p r).offLink = s.offLink := by
  unfold State.hello; dsimp only; (repeat' split) <;> simp

@[simp] theorem State.resend_offLink (s : State) : s.resend.offLink = s.offLink := by
  unfold State.resend; (repeat' split)
  · rfl
  · simp
  · dsimp only; rw [foldl_offLink _ fun s b => by rfl]; rfl

@[simp] theorem State.frameSlots_offLink (s : State) (f : List Byte) : (s.frameSlots f).offLink = s.offLink :=
  foldl_offLink _ (fun s b => by simp) _ _

@[simp] theorem State.dropFrame_offLink (s : State) : s.dropFrame.offLink = s.offLink := by simp [State.dropFrame]

@[simp] theorem State.frameCredits_offLink (s : State) (a : Half) (l : Nat) : (s.frameCredits a l).offLink = s.offLink := by
  simp [State.frameCredits]

end Sys2Proof.Machine
end

