-- ==== Sys2Proof/Laws/Table.lean ====
section
/-! SUPPORT. Laws of tables, memories and arrays: a read after a write, the canonical form, bytes and numbers. -/

namespace Sys2Proof.Machine

/-! Arrays. -/

theorem Vec.at_eq {α : Type} {n : Nat} [Inhabited α] (v : Vector α n) (i : Nat) (h : i < n) : Vec.at v i = v[i] := by
  simp [Vec.at, List.getD_eq_getElem?_getD, h]

theorem Vec.at_of_le {α : Type} {n : Nat} [Inhabited α] (v : Vector α n) (i : Nat) (h : n ≤ i) : Vec.at v i = default := by
  simp [Vec.at, List.getD_eq_getElem?_getD, h]

theorem Vec.at_upd_same {α : Type} {n : Nat} [Inhabited α] (v : Vector α n) (i : Nat) (f : α → α) (h : i < n) :
    Vec.at (Vec.upd v i f) i = f (Vec.at v i) := by
  rw [Vec.at_eq _ _ h, Vec.at_eq _ _ h]; simp [Vec.upd, h]

theorem Vec.at_upd_ne {α : Type} {n : Nat} [Inhabited α] (v : Vector α n) (i j : Nat) (f : α → α) (h : j ≠ i) :
    Vec.at (Vec.upd v i f) j = Vec.at v j := by
  by_cases hj : j < n
  · rw [Vec.at_eq _ _ hj, Vec.at_eq _ _ hj]
    unfold Vec.upd; split
    · exact Vector.getElem_set_ne _ _ (Ne.symm h)
    · rfl
  · rw [Vec.at_of_le _ _ (by omega), Vec.at_of_le _ _ (by omega)]

theorem Vec.at_map {α β : Type} {n : Nat} [Inhabited α] [Inhabited β] (v : Vector α n) (f : α → β) (i : Nat) (h : i < n) :
    Vec.at (v.map f) i = f (Vec.at v i) := by
  rw [Vec.at_eq _ _ h, Vec.at_eq _ _ h, Vector.getElem_map]

@[simp] theorem Vec.at_replicate {α : Type} {n : Nat} [Inhabited α] (a : α) (i : Nat) (h : i < n) :
    Vec.at (Vector.replicate n a) i = a := by
  rw [Vec.at_eq _ _ h, Vector.getElem_replicate]

/-! Tables. -/

theorem Tbl.above_cons {α : Type} (k : Nat) (c : Nat × α) (t : List (Nat × α)) : Tbl.above k (c :: t) = decide (k < c.1) := rfl

section tables

variable {α : Type} [DecidableEq α] (d : α)

omit [DecidableEq α] in
/-- A key at or below a bound that every listed key lies above reads the default. -/
theorem Tbl.get_of_above (t : List (Nat × α)) (k j : Nat) (h : Tbl.above k t = true) (hj : j ≤ k) : Tbl.get d t j = d := by
  cases t with
  | nil => rfl
  | cons c t =>
    obtain ⟨a, v⟩ := c
    have : k < a := by simpa [Tbl.above] using h
    simp [Tbl.get, show j ≠ a by omega, show j < a by omega]

theorem Tbl.get_set_same (t : List (Nat × α)) (k : Nat) (v : α) (h : Tbl.wf d t = true) :
    Tbl.get d (Tbl.set d t k v) k = v := by
  induction t with
  | nil => by_cases hv : v = d <;> simp [Tbl.set, Tbl.get, hv]
  | cons c t ih =>
    obtain ⟨a, w⟩ := c
    simp only [Tbl.wf, Bool.and_eq_true, decide_eq_true_eq] at h
    by_cases hk : k = a
    · subst hk
      by_cases hv : v = d
      · simp [Tbl.set, hv, Tbl.get_of_above d t k k h.1.2 (Nat.le_refl _)]
      · simp [Tbl.set, hv, Tbl.get]
    · by_cases hl : k < a
      · by_cases hv : v = d <;> simp [Tbl.set, hk, hl, hv, Tbl.get]
      · simp [Tbl.set, hk, hl, Tbl.get, ih h.2]

theorem Tbl.get_set_ne (t : List (Nat × α)) (k j : Nat) (v : α) (h : Tbl.wf d t = true) (hj : j ≠ k) :
    Tbl.get d (Tbl.set d t k v) j = Tbl.get d t j := by
  induction t with
  | nil => by_cases hv : v = d <;> simp [Tbl.set, Tbl.get, hv, hj]
  | cons c t ih =>
    obtain ⟨a, w⟩ := c
    simp only [Tbl.wf, Bool.and_eq_true, decide_eq_true_eq] at h
    by_cases hk : k = a
    · subst hk
      by_cases hv : v = d
      · by_cases hl : j < k
        · simp [Tbl.set, hv, Tbl.get, hj, hl, Tbl.get_of_above d t k j h.1.2 (by omega)]
        · simp [Tbl.set, hv, Tbl.get, hj, hl]
      · simp [Tbl.set, hv, Tbl.get, hj]
    · by_cases hl : k < a
      · by_cases hv : v = d
        · simp [Tbl.set, hk, hl, hv]
        · by_cases hja : j < k
          · simp [Tbl.set, hk, hl, hv, Tbl.get, hj, hja, show j ≠ a by omega, show j < a by omega]
          · simp [Tbl.set, hk, hl, hv, Tbl.get, hj, hja]
      · simp [Tbl.set, hk, hl, Tbl.get, ih h.2]

theorem Tbl.above_set (t : List (Nat × α)) (k a : Nat) (v : α) (h : Tbl.above a t = true) (hk : a < k) (hw : Tbl.wf d t = true) :
    Tbl.above a (Tbl.set d t k v) = true := by
  cases t with
  | nil => by_cases hv : v = d <;> simp [Tbl.set, hv, Tbl.above, hk]
  | cons c t =>
    obtain ⟨b, w⟩ := c
    simp only [Tbl.wf, Bool.and_eq_true, decide_eq_true_eq] at hw
    have hb : a < b := by simpa [Tbl.above] using h
    unfold Tbl.set
    split
    · split
      · cases t with
        | nil => rfl
        | cons e t =>
          obtain ⟨x, y⟩ := e
          have : b < x := by simpa [Tbl.above] using hw.1.2
          simp [Tbl.above]; omega
      · simp [Tbl.above, hb]
    · split
      · split <;> simp [Tbl.above, hb, hk]
      · simp [Tbl.above, hb]

/-- Setting an entry keeps the canonical form. -/
theorem Tbl.wf_set (t : List (Nat × α)) (k : Nat) (v : α) (h : Tbl.wf d t = true) : Tbl.wf d (Tbl.set d t k v) = true := by
  induction t with
  | nil => by_cases hv : v = d <;> simp [Tbl.set, hv, Tbl.wf, Tbl.above]
  | cons c t ih =>
    obtain ⟨a, w⟩ := c
    have hw := h
    simp only [Tbl.wf, Bool.and_eq_true, decide_eq_true_eq] at h
    unfold Tbl.set
    split
    · split
      · exact h.2
      · rename_i hv; simp [Tbl.wf, hv, h.1.2, h.2]
    · split
      · split
        · exact hw
        · rename_i hl hv; simp [Tbl.wf, Tbl.above_cons, hv, hl, h.1.1, h.1.2, h.2]
      · rename_i hk hl
        simp [Tbl.wf, h.1.1, Tbl.above_set d t k a v h.1.2 (by omega) h.2, ih h.2]

theorem Tbl.wf_foldl_set {β : Type} (l : List β) (key : β → Nat) (val : β → α) (t : List (Nat × α)) (h : Tbl.wf d t = true) :
    Tbl.wf d (l.foldl (fun t b => Tbl.set d t (key b) (val b)) t) = true := by
  induction l generalizing t with
  | nil => exact h
  | cons b l ih => exact ih _ (Tbl.wf_set d t _ _ h)

omit [DecidableEq α] in
theorem Tbl.above_trans (t : List (Nat × α)) (k j : Nat) (h : Tbl.above k t = true) (hj : j ≤ k) : Tbl.above j t = true := by
  cases t with
  | nil => rfl
  | cons c t => simp [Tbl.above] at *; omega

theorem Tbl.wf_above_filter (p : Nat × α → Bool) (t : List (Nat × α)) (k : Nat) (h : Tbl.wf d t = true)
    (hk : Tbl.above k t = true) : Tbl.wf d (t.filter p) = true ∧ Tbl.above k (t.filter p) = true := by
  induction t generalizing k with
  | nil => exact ⟨rfl, rfl⟩
  | cons c t ih =>
    obtain ⟨a, w⟩ := c
    simp only [Tbl.wf, Bool.and_eq_true, decide_eq_true_eq] at h
    have hka : k < a := by simpa [Tbl.above] using hk
    have := ih a h.2 h.1.2
    by_cases hp : p (a, w) = true
    · simp [List.filter, hp, Tbl.wf, Tbl.above_cons, h.1.1, this.1, this.2, hka]
    · simp only [List.filter, hp]
      exact ⟨this.1, Tbl.above_trans _ a k this.2 (by omega)⟩

/-- Dropping entries keeps the canonical form. -/
theorem Tbl.wf_filter (p : Nat × α → Bool) (t : List (Nat × α)) (h : Tbl.wf d t = true) : Tbl.wf d (t.filter p) = true := by
  cases t with
  | nil => rfl
  | cons c t =>
    obtain ⟨a, w⟩ := c
    simp only [Tbl.wf, Bool.and_eq_true, decide_eq_true_eq] at h
    have := Tbl.wf_above_filter d p t a h.2 h.1.2
    by_cases hp : p (a, w) = true
    · simp [List.filter, hp, Tbl.wf, h.1.1, this.1, this.2]
    · simpa [List.filter, hp] using this.1

theorem Tbl.wf_above_update (f : α → α) (t : List (Nat × α)) (k : Nat) (h : Tbl.wf d t = true) (hk : Tbl.above k t = true) :
    Tbl.wf d (Tbl.update d f t) = true ∧ Tbl.above k (Tbl.update d f t) = true := by
  induction t generalizing k with
  | nil => exact ⟨rfl, rfl⟩
  | cons c t ih =>
    obtain ⟨a, w⟩ := c
    simp only [Tbl.wf, Bool.and_eq_true, decide_eq_true_eq] at h
    have hka : k < a := by simpa [Tbl.above] using hk
    have := ih a h.2 h.1.2
    unfold Tbl.update
    split
    · exact ⟨this.1, Tbl.above_trans _ a k this.2 (by omega)⟩
    · rename_i hf; simp [Tbl.wf, Tbl.above_cons, hf, this.1, this.2, hka]

/-- Changing every value keeps the canonical form. -/
theorem Tbl.wf_update (f : α → α) (t : List (Nat × α)) (h : Tbl.wf d t = true) : Tbl.wf d (Tbl.update d f t) = true := by
  cases t with
  | nil => rfl
  | cons c t =>
    obtain ⟨a, w⟩ := c
    simp only [Tbl.wf, Bool.and_eq_true, decide_eq_true_eq] at h
    have := Tbl.wf_above_update d f t a h.2 h.1.2
    unfold Tbl.update
    split
    · exact this.1
    · rename_i hf; simp [Tbl.wf, hf, this.1, this.2]

/-- Tidying gives the canonical form. -/
theorem Tbl.wf_tidy (t : List (Nat × α)) : Tbl.wf d (Tbl.tidy d t) = true := by
  unfold Tbl.tidy
  induction t with
  | nil => rfl
  | cons c t ih => exact Tbl.wf_set d _ _ _ ih

end tables

/-! Memories. -/

theorem Memory.wf_write (m : Memory) (a : Nat) (b : Byte) (h : m.wf = true) : (m.write a b).wf = true := Tbl.wf_set _ _ _ _ h

theorem Memory.wf_writeBytes (m : Memory) (a : Nat) (bs : List Byte) (h : m.wf = true) : (m.writeBytes a bs).wf = true := by
  induction bs generalizing m a with
  | nil => exact h
  | cons b bs ih => exact ih _ _ (Memory.wf_write m a b h)

theorem Memory.wf_writeLE (m : Memory) (a n v : Nat) (h : m.wf = true) : (m.writeLE a n v).wf = true :=
  Memory.wf_writeBytes m a _ h

theorem Memory.wf_zero (m : Memory) (a n : Nat) (h : m.wf = true) : (m.zero a n).wf = true := Tbl.wf_filter _ _ _ h

theorem Memory.read_write_same (m : Memory) (a : Nat) (b : Byte) (h : m.wf = true) : (m.write a b).read a = b :=
  Tbl.get_set_same _ _ _ _ h

theorem Memory.read_write_ne (m : Memory) (a x : Nat) (b : Byte) (h : m.wf = true) (hx : x ≠ a) :
    (m.write a b).read x = m.read x := Tbl.get_set_ne _ _ _ _ _ h hx

/-- A write of bytes leaves every byte outside it. -/
theorem Memory.read_writeBytes_outside (m : Memory) (a : Nat) (bs : List Byte) (x : Nat) (h : m.wf = true)
    (hx : x < a ∨ a + bs.length ≤ x) : (m.writeBytes a bs).read x = m.read x := by
  induction bs generalizing m a with
  | nil => rfl
  | cons b bs ih =>
    simp only [List.length_cons] at hx
    simp only [Memory.writeBytes]
    rw [ih _ _ (Memory.wf_write m a b h) (by omega), Memory.read_write_ne m a x b h (by omega)]

/-- A read of a written byte gives what was written. -/
theorem Memory.read_writeBytes_inside (m : Memory) (a : Nat) (bs : List Byte) (i : Nat) (h : m.wf = true) (hi : i < bs.length) :
    (m.writeBytes a bs).read (a + i) = bs[i] := by
  induction bs generalizing m a i with
  | nil => simp at hi
  | cons b bs ih =>
    simp only [Memory.writeBytes]
    cases i with
    | zero =>
      rw [Nat.add_zero, Memory.read_writeBytes_outside _ _ _ _ (Memory.wf_write m a b h) (by omega)]
      exact Memory.read_write_same m a b h
    | succ i =>
      have := ih (m.write a b) (a + 1) i (Memory.wf_write m a b h) (by simpa using hi)
      simpa [Nat.add_assoc, Nat.add_comm 1 i] using this

theorem Memory.read_writeBytes (m : Memory) (a : Nat) (bs : List Byte) (x : Nat) (h : m.wf = true) :
    (m.writeBytes a bs).read x = if a ≤ x ∧ x < a + bs.length then bs.getD (x - a) 0#8 else m.read x := by
  split
  · rename_i hx
    obtain ⟨i, rfl⟩ : ∃ i, x = a + i := ⟨x - a, by omega⟩
    rw [Memory.read_writeBytes_inside m a bs i h (by omega)]
    rw [show a + i - a = i by omega, List.getD_eq_getElem?_getD, List.getElem?_eq_getElem (by omega)]; rfl
  · exact Memory.read_writeBytes_outside m a bs x h (by omega)

theorem Tbl.get_filter_of_keep {α : Type} [DecidableEq α] (d : α) (p : Nat × α → Bool) (t : List (Nat × α)) (k : Nat)
    (h : Tbl.wf d t = true) (hp : ∀ v, p (k, v) = true) : Tbl.get d (t.filter p) k = Tbl.get d t k := by
  induction t with
  | nil => rfl
  | cons c t ih =>
    obtain ⟨a, w⟩ := c
    simp only [Tbl.wf, Bool.and_eq_true, decide_eq_true_eq] at h
    by_cases hk : k = a
    · subst hk; simp [List.filter, hp, Tbl.get]
    · by_cases hpa : p (a, w) = true
      · simp [List.filter, hpa, Tbl.get, hk, ih h.2]
      · by_cases hl : k < a
        · simp only [List.filter, hpa, Tbl.get, hk, hl, if_true, if_false]
          exact Tbl.get_of_above d _ a k (Tbl.wf_above_filter d p t a h.2 h.1.2).2 (by omega)
        · simp [List.filter, hpa, Tbl.get, hk, hl, ih h.2]

theorem Tbl.get_filter_of_drop {α : Type} [DecidableEq α] (d : α) (p : Nat × α → Bool) (t : List (Nat × α)) (k : Nat)
    (h : Tbl.wf d t = true) (hp : ∀ v, p (k, v) = false) : Tbl.get d (t.filter p) k = d := by
  induction t with
  | nil => rfl
  | cons c t ih =>
    obtain ⟨a, w⟩ := c
    simp only [Tbl.wf, Bool.and_eq_true, decide_eq_true_eq] at h
    by_cases hpa : p (a, w) = true
    · have hk : k ≠ a := by rintro rfl; simp [hp] at hpa
      simp [List.filter, hpa, Tbl.get, hk, ih h.2]
    · simpa [List.filter, hpa] using ih h.2

theorem Memory.read_zero (m : Memory) (a n x : Nat) (h : m.wf = true) :
    (m.zero a n).read x = if a ≤ x ∧ x < a + n then 0#8 else m.read x := by
  unfold Memory.zero Memory.read
  split
  · exact Tbl.get_filter_of_drop _ _ _ _ h (by intro v; simp; omega)
  · exact Tbl.get_filter_of_keep _ _ _ _ h (by intro v; simp; omega)

@[simp] theorem Memory.read_nil (a : Nat) : Memory.read [] a = 0#8 := rfl

@[simp] theorem Memory.wf_nil : Memory.wf [] = true := rfl

@[simp] theorem Memory.length_readBytes (m : Memory) (a n : Nat) : (m.readBytes a n).length = n := by
  induction n generalizing a with
  | zero => rfl
  | succ n ih => simp [Memory.readBytes, ih]

theorem Memory.getElem_readBytes (m : Memory) (a n i : Nat) (h : i < (m.readBytes a n).length) :
    (m.readBytes a n)[i] = m.read (a + i) := by
  induction n generalizing a i with
  | zero => simp at h
  | succ n ih =>
    cases i with
    | zero => rfl
    | succ i =>
      have := ih (a + 1) i (by simpa using h)
      simpa [Memory.readBytes, Nat.add_assoc, Nat.add_comm 1 i] using this

/-- A number read is what the bytes read spell. -/
theorem Memory.readLE_eq (m : Memory) (a n : Nat) : m.readLE a n = ofLE (m.readBytes a n) := by
  induction n generalizing a with
  | zero => rfl
  | succ n ih => simp [Memory.readLE, Memory.readBytes, ofLE, ih]

@[simp] theorem length_leBytes (n v : Nat) : (leBytes n v).length = n := by
  induction n generalizing v with
  | zero => rfl
  | succ n ih => simp [leBytes, ih]

/-- The bytes of a number spell it, modulo their range (R7). -/
theorem ofLE_leBytes (n v : Nat) : ofLE (leBytes n v) = v % 256 ^ n := by
  induction n generalizing v with
  | zero => simp [leBytes, ofLE, Nat.mod_one]
  | succ n ih =>
    rw [Nat.pow_succ, Nat.mul_comm (256 ^ n) 256, Nat.mod_mul]
    simp [leBytes, ofLE, ih, BitVec.toNat_ofNat]

theorem leBytes_mod (n v : Nat) : leBytes n (v % 256 ^ n) = leBytes n v := by
  induction n generalizing v with
  | zero => rfl
  | succ n ih =>
    simp only [leBytes]
    congr 1
    · apply BitVec.eq_of_toNat_eq
      simp only [BitVec.toNat_ofNat]
      rw [Nat.pow_succ, Nat.mul_comm]
      exact Nat.mod_mul_right_mod v 256 (256 ^ n)
    · rw [Nat.pow_succ, Nat.mul_comm, Nat.mod_mul_right_div_self, ih]

theorem Memory.readBytes_writeBytes_same (m : Memory) (a : Nat) (bs : List Byte) (h : m.wf = true) :
    (m.writeBytes a bs).readBytes a bs.length = bs := by
  apply List.ext_getElem (by simp)
  intro i h1 h2
  rw [Memory.getElem_readBytes, Memory.read_writeBytes_inside m a bs i h h2]

/-- A number written is the number read there (R7). -/
theorem Memory.readLE_writeLE_same (m : Memory) (a n v : Nat) (h : m.wf = true) :
    (m.writeLE a n v).readLE a n = v % 256 ^ n := by
  rw [Memory.readLE_eq]
  have := Memory.readBytes_writeBytes_same m a (leBytes n v) h
  rw [length_leBytes] at this
  rw [Memory.writeLE, this, ofLE_leBytes]

theorem Memory.readLE_congr (m k : Memory) (a n : Nat) (h : ∀ x, a ≤ x → x < a + n → m.read x = k.read x) :
    m.readLE a n = k.readLE a n := by
  induction n generalizing a with
  | zero => rfl
  | succ n ih =>
    simp only [Memory.readLE]
    rw [h a (by omega) (by omega), ih (a + 1) (fun x h1 h2 => h x (by omega) (by omega))]

end Sys2Proof.Machine
end

