-- ==== Sys2Proof/WellFormed.lean ====
section
/-! DEFINITION. What an operand of a command may be. A fixed-width operand needs no check; lengths of byte strings
and access sizes do. -/

namespace Sys2Proof

/-- An access is 1, 2, 4 or 8 bytes wide and naturally aligned (R8). -/
def accessOk (addr size : Nat) : Bool :=
  (size == 1 || size == 2 || size == 4 || size == 8) && decide (addr % size = 0)

/-- A message is at most 260 granules of 16 bytes, the header's included, and its payload is whole granules (R239, R240). -/
def Message.wellFormed (m : Message) : Bool :=
  decide (m.payload.length % 16 = 0) && decide (m.payload.length ≤ 4128)

/-- The operands of a command are ones the interfaces can carry. -/
def Instr.wellFormed : Instr → Bool
  | .farReadData _ data _ _ => decide (data.length ≤ 64)
  | .ringDescriptorWrite _ offset size _ => accessOk offset.toNat size
  | .creditEntryWrite _ offset size _ => accessOk offset.toNat size
  | .externalMasterAccess _ _ addr size _ => accessOk addr.toNat size
  | .upperWordLatchRead _ addr => decide (addr.toNat % 8 = 0)
  | .split64BitWrite _ addr _ => decide (addr.toNat % 8 = 0)
  | .readClear _ addr => decide (addr.toNat % 4 = 0)
  | .registerWrite _ addr _ => decide (addr.toNat % 4 = 0)
  | .helloReceive _ record => decide (record.length = 64)
  | .edgeFrameReceive frame => decide (frame.length = 272)
  | .replayMessageCursor record => decide (record.length ≤ 8192)
  | .replayReadCursor record => decide (record.length ≤ 8192)
  | .managementPacket bytes => decide (bytes.length ≤ 2048)
  | .routerForward src => match src with
    | .mesh _ msg _ => msg.wellFormed
    | .edge => true
    | .own => true
  | _ => true

end Sys2Proof
end

