-- ==== Sys2Proof/Tests/Slice0.lean ====
section
/-! SUPPORT. Tests: an ill-formed operand for every check of WellFormed, examples that the spec works out, and for every
statement with hypotheses a theorem witness_<statement> with states and operands that meet them together, clause by clause. -/

set_option maxRecDepth 100000

open Sys2Proof Sys2Proof.Machine

namespace Sys2Proof.Test

/-! States that the tests start from. -/

/-- A running cluster: the tier in RUN, the Gaffer started, and masters 2, 0x10, 0x51 and 0x52 with every right. -/
def run : State := { State.reset with
  tier := { Tier.atReset with state := .run, vctOn := true, powerGood := true, trained := true }
  gaffer := { State.reset.gaffer with
    step := 10#4, started := true
    access := [(0x02, 0x003F7337#32), (0x10, 0x003F7337#32), (0x51, 0x003F7337#32), (0x52, 0x003F7337#32)] } }

/-- One command in queue `q` of a state. -/
def queuedIn (s : State) (q : Nat) (regs : List DWord) : State :=
  s.onQueue q fun x => { x with entries := [⟨regs, 1#32⟩], issued := 1#32 }

/-- One command in queue `q` of the running cluster. -/
def queued (q : Nat) (regs : List DWord) : State := queuedIn run q regs

/-- Command 1 of queue `q` has been taken and is running. -/
def takenIn (s : State) (q : Nat) : State :=
  s.onQueue q fun x => { x with issued := 1#32, outstanding := [(1#32, .run)] }

/-- The running cluster with a program of these bytes whose task 0 is READY. -/
def program (bytes : List Byte) : State :=
  State.onTask { run with core := { run.core with running := true, imem := Memory.writeBytes [] 0 bytes } } 0
    fun t => { t with state := .ready }

/-- A word of one slot. -/
def word (slot bits : Nat) : List Byte := leBytes 2 (2 ^ (12 + slot)) ++ leBytes 4 bits

/-- The running cluster with task 0 waiting on a memory operation or a cause. -/
def waiting (mem cause : WaitCause) : State :=
  State.onTask { run with core := { run.core with running := true } } 0
    fun t => { t with state := .waiting, memWait := mem, cause := cause }

/-- A state whose local memory holds these bytes at an address. -/
def withBytes (s : State) (a : Nat) (bytes : List Byte) : State :=
  { s with mem := { s.mem with mem := s.mem.mem.writeBytes a bytes } }

/-- Engine 0 of a state with one command in flight, command 1 of queue 0. -/
def flying (s : State) (op : MeOp) : State :=
  (takenIn s 0).onMe 0 fun m => { m with inflight := [⟨1#32, 0x10#8, op, false⟩] }

/-- Tile 1 of engine 0: four rows of 32 BF16 elements at the pool's start, all valid. -/
def tiled (s : State) : State := s.onMe 0 fun m => { m with
  desc := Vec.upd m.desc 1 fun _ => 0x80306000#32, valid := Vec.upd m.valid 1 fun _ => 0xF#32
  pool := m.pool.writeBytes 0 [0x80#8, 0x3F#8, 0x00#8, 0x40#8] }

/-- A ring descriptor in the ring store of a state. -/
def withRing (s : State) (tag : Nat) (bytes : List Byte) : State :=
  { s with rings := { s.rings with store := s.rings.store.writeBytes (32 * tag) bytes } }

/-- A PLAIN ring of 16 granules at 0x1000 with an apron of 4: its state, WPTR and RPTR. -/
def plainRing (st w r : Nat) : List Byte :=
  leBytes 4 0x1000 ++ [4#8, 4#8, BitVec.ofNat 8 (4 * st), 0#8] ++ leBytes 2 7 ++ leBytes 2 0 ++ leBytes 4 w ++ leBytes 4 r

/-- An OPEN GATHER ring of 4 slots of 8 FP32 elements at 0x2000 that expects 3 contributions. -/
def gatherRing (type : Nat) : List Byte :=
  leBytes 4 0x2000 ++ [0#8, 0#8, BitVec.ofNat 8 (4 + type), 0#8] ++ leBytes 2 7 ++ leBytes 2 4 ++ leBytes 4 0 ++ leBytes 4 0
    ++ leBytes 2 8 ++ [0#8, 0#8] ++ leBytes 4 3

/-- Ring 32 is OPEN with one unread granule. -/
def ringed (s : State) : State := withRing s 32 (plainRing 1 1 0)

/-- Credit entry 5: to tag 40 of chip 1, logical ID 2, epoch 7, with this credit and these flags. -/
def withEntry (s : State) (credit flags : Nat) : State :=
  let bytes := leBytes 2 1 ++ leBytes 2 2 ++ leBytes 2 40 ++ leBytes 2 7 ++ leBytes 2 credit ++ [BitVec.ofNat 8 flags]
  { s with rings := { s.rings with credit := s.rings.credit.writeBytes (16 * 5) bytes } }

/-- A message that waits at the local output, journalled. -/
def waitingHere (m : Message) : Inbound :=
  { msg := m, stamp := 0#64, beat := 0, port := 0, journalled := true, marked := false }

/-- One message at the local output. -/
def inboxed (s : State) (m : Message) : State :=
  { s with router := { s.router with inbox := [waitingHere m] } }

/-- A command of an engine is ready when it heads the queue and no TCFG is in flight. -/
theorem meReady {s : State} {e : Fin 4} {opc : Nat} {c : QueueCmd}
    (h : s.head e.val = some c ∧ c.opc = opc ∧ (s.me e.val).inflight.all (fun x => !x.op.isTcfg) = true) : MeReady s e opc c :=
  ⟨h.1, h.2.1, fun x hx => by simpa using List.all_eq_true.mp h.2.2 x hx⟩

/-- The descriptor bytes of a shard of two rows of 32: weights at 0x1000, gradients at 0x2000, statistics at 0x3000 and
0x3100, scratch area at 0x4000, ring 34, combine IDs 0 and 1, first step 1. -/
def shardBytes : List Byte :=
  leBytes 8 0x1000 ++ leBytes 8 0x2000 ++ leBytes 8 0x3000 ++ leBytes 8 0x3100 ++ leBytes 8 0 ++ leBytes 4 0x4000
    ++ leBytes 2 2 ++ leBytes 2 32 ++ [0#8, 0#8] ++ leBytes 2 34 ++ leBytes 2 0 ++ leBytes 2 2 ++ leBytes 4 1
    ++ List.replicate 68 0#8

/-- That shard in a state. -/
def shard (st : ShardState) : Shard :=
  { Shard.none with state := st, desc := BitVec.ofNat 1024 (ofLE shardBytes), stepn := 1#32 }

/-- Ring 34 as the shard's UPDATE ring at 0x8000, four slots of 32 elements, and the shard as number 255. -/
def sharded (s : State) (x : Shard) : State :=
  let ring := leBytes 4 0x8000 ++ [0#8, 0#8, 6#8, 0#8] ++ leBytes 2 7 ++ leBytes 2 4 ++ leBytes 4 0 ++ leBytes 4 0
    ++ leBytes 2 32 ++ [0#8, 0#8] ++ leBytes 4 1
  { withRing s 34 ring with marver := { s.marver with shards := [(255, x)] } }

/-- The Gaffer of a state with an action under way. -/
def acting (s : State) (a : GafferAction) : State := { s with gaffer := { s.gaffer with action := some a } }

/-- A reply that goes to the management port. -/
def reply : ReplyTo := { input := .port, cp1 := false, opc := 0x11#8, tag := 0#16, src := 1#8 }

/-- Cells at rising addresses. -/
def cellsFrom : Nat → List Byte → List (Nat × Byte)
  | _, [] => []
  | a, b :: bs => (a, b) :: cellsFrom (a + 1) bs

/-- Bytes at a system address of a far reply. -/
def answer (a : Nat) (bytes : List Byte) : FarReply := { cells := cellsFrom a bytes, errs := [] }

/-- A CP2 packet of the management port from master 2 with these parameter words. -/
def packet (opc : Byte) (words : List Nat) : List Byte :=
  let front := [2#8, opc, 5#8, 0#8, 2#8, 0#8, BitVec.ofNat 8 words.length, 0#8, 0#8, 0#8, 0#8, 0#8]
  let body := words.flatMap (leBytes 4)
  front ++ leBytes 4 (crc32c (front ++ body)).toNat ++ body

/-- Words that say a slot of the UPDATE ring is complete: arrived once, combine ID `cid`, of task 2. -/
def slotWords (cid : Byte) : List Byte := [1#8, 0#8, 0#8, 0#8, cid, 0#8, 2#8]

/-- The shard armed, and slot 0 of its ring complete with this combine ID and handed to Marver. -/
def slotOf (cid : Byte) : State :=
  let s := withBytes (sharded run (shard .armed)) 0x8000 (slotWords cid)
  { s with marver := { s.marver with slots := [(34, 0)] } }

/-- The gradients of that slot lie in local memory. -/
theorem slotOf_gradients : ∀ b, 32 * b < ((slotOf 1#8).ring 34).elem →
    isLoc (((slotOf 1#8).shard 255).gst + 4 * (1 * ((slotOf 1#8).ring 34).elem + 32 * b)) = true := by
  intro b h
  have e : ((slotOf 1#8).ring 34).elem = 32 := by decide
  rw [e] at h
  obtain rfl : b = 0 := by omega
  decide

/-- A state in which Marver has this message to publish. -/
def publishing (s : State) (p : PubMsg) : State := { s with marver := { s.marver with pubs := [p] } }

/-- The far request 3 of a stream's transfer. -/
def farReq (write : Bool) : FarReq :=
  { tag := 3, write := write, addr := 0x100, len := 32, mid := 0x52#7, use := .stream, data := [], err := .ok }

/-- That transfer, of 32 bytes. -/
def farXfer : Xfer :=
  { ctx := 64, blk := 0, off := 0, len := 32, src := 0x1000000000000100#64, dst := 0x2000#64, zero := false
    tag := some 3, volat := false, ord := 0, faddr := 0x100, data := [] }

/-- A running stream of one block whose only transfer waits for its far request. -/
def streaming (write : Bool) : State :=
  let s := run.onCtx 64 fun c => { c with state := .running, nblk := 1, iblk := 1, limit := 1 }
  { s with far := [farReq write], se := { s.se with xfers := [farXfer] } }

/-- The running cluster with a journal of this many staged records of one byte. -/
def backlog (n : Nat) : State := { run with
  journal := { run.journal with
    ten := true, tper := 10#5, staged := [{ jseq := 1#32, pos := 0, bytes := List.replicate n 1#8, beat := 0, rank := 0 }] } }

/-- One staged record fills its length. -/
theorem fill_one {j : Journal} {r : JRecord} (h : j.staged = [r]) : j.fill = r.bytes.length := by
  unfold Journal.fill
  rw [h]
  simp

/-- An output conversion to BF16 with this many retries and this address of adjusted exponents. -/
def plainOcd (retry adj : Nat) : OcdCmd :=
  { otype := 0, retry := retry, tsen := false, clip := false, keep := false, ieee := false, rmode := 0, tset := 0
    scale := 0x3F800000#32, bias := none, lo := 0#32, hi := 0#32, sthr := 0, adj := adj, osid := 0, seed := 0#64
    step := 0#32, hid := 0#32, strict := false }

/-- A conversion of two rows of accumulator 0 to 0x1000, or to tile 1. -/
def plainAcvt (retry adj : Nat) (toTile : Bool) : AcvtCmd :=
  { f64 := false, wide := false, clr := false, drow := 0, dtile := 1, toTile := toTile, count := 1, arow := 0, acc := 0
    ocd := plainOcd retry adj, dst := 0x1000, dstride := 64 }

/-- A streamed multiplication of two rows, from 0x400 to 0x1000. -/
def plainMms (retry adj : Nat) : MmsCmd :=
  { accp := false, spl := false, strict := false, trans := false, count := 1
    agd := { base := 0x400, mode := 0, fmt := 0, lstride := 64, ih := 0, iw := 0, c := 0, c0 := 0, cg := 0, wh := 0, ww := 0
             t0 := 0, sy := 0, sx := 0, dy := 0, dx := 0, pt := 0, pl := 0, ow := 0, p0 := 0, tile := 0, row0 := 0, off := 0 }
    ocd := plainOcd retry adj, dst := 0x1000, dstride := 64, psum := none }

/-- A move of two rows of tile 1 from row 2 on, at 0x1000. -/
def moving : TileMove := { count := 1, row := 2, tile := 1, stride := 64, addr := 0x1000 }

/-- Large values in accumulator 0 of engine 0. -/
def large (s : State) : State := s.onMe 0 fun m => { m with acc := m.acc.writeBytes 0 [0xFF#8, 0xFF#8, 0x7F#8, 0x7F#8] }

/-- The running engine 0 with a command that still writes local memory. -/
def storing (s : State) : State := s.onMe 0 fun m => { m with inflight := [⟨0#32, 0x23#8, .tst moving, false⟩] }

/-- A table that configures tile 2 alone. -/
def oneTile : List Word := [0#32, 0#32, 0x80306000#32]

/-- That configuration is consistent. -/
theorem oneTile_consistent (s : State) (h : s = flying run (.tcfg 4#32 oneTile)) :
    ConfigConsistent 4#32 (newDescriptors (s.me 0) 4#32 oneTile) := by
  subst h
  have only : ∀ t < 32, t ≠ 2 → (newDescriptors ((flying run (.tcfg 4#32 oneTile)).me 0) 4#32 oneTile t).testBit 31 = false := by
    decide
  refine ⟨by decide, ?_, by decide, ?_⟩
  · intro t ht _ h
    by_cases e : t = 2
    · subst e; decide
    · exact absurd h (by rw [only t ht e]; decide)
  intro t u ht hu ne h1 h2
  by_cases e : t = 2
  · exact absurd h2 (by rw [only u hu (by omega)]; decide)
  · exact absurd h1 (by rw [only t ht e]; decide)

/-- Rows that fit local memory, row by row. -/
theorem rowsFit {l : List (List Byte)} {d k n : Nat}
    (h : ∀ r < l.length, d + (k + r) * n + (l.getD r []).length ≤ 0x200000) :
    ∀ r row, l[r]? = some row → d + (k + r) * n + row.length ≤ 0x200000 := by
  intro r row e
  obtain ⟨lt, rfl⟩ := List.getElem?_eq_some_iff.mp e
  simpa [List.getD_eq_getElem _ _ lt, List.getElem?_eq_getElem lt] using h r lt

/-- A byte that fits local memory, if there is one. -/
theorem byteFits {x : Option (Nat × Byte)} (h : x.all (fun p => decide (p.1 < 0x200000)) = true) :
    ∀ p, x = some p → p.1 < 0x200000 := by
  rintro p rfl
  simpa using h

/-- The engines past the fourth have nothing in flight. -/
theorem onlyEngine {s : State} (h : ∀ j < 4, j ≠ 0 → (s.me j).inflight = []) : ∀ j, j ≠ 0 → (s.me j).inflight = [] := by
  intro j n
  by_cases l : j < 4
  · exact h j l n
  · unfold State.me Vec.at
    rw [List.getD_eq_default _ _ (by simpa using Nat.le_of_not_lt l)]
    rfl

/-- No master has a right in this state. -/
def barred (s : State) : State := { s with gaffer := { s.gaffer with access := [] } }

/-- A program of one operation: the FP32 sum of its first operand with itself, stored as FP32. -/
def progImage : List Byte := leBytes 4 0x80440000 ++ List.replicate 72 0#8 ++ [1#8] ++ List.replicate 51 0#8

/-- The vector engine with one command of these registers in flight, values in registers 0 and 2, and a program. -/
def vecRun (regs : List DWord) : State := { takenIn run 4 with ve := { run.ve with
  inflight := [{ regs := regs, seq := 1#32, seed := 0#64, step := 0#32, hid := 0#32, old := false }]
  vregs := [(0, 0x3F80#32), (4096, 0x3F80#32)], pvalid := 1#8, progs := Memory.writeBytes [] 0 progImage } }

/-- Context 64 is served next, at the start of its one block `d`. -/
def serving (d : BlockDesc) : State :=
  let s := (withBytes run 0x1000 [1#8, 2#8]).onCtx 64 fun c =>
    { c with state := .running, nblk := 1, limit := 1, desc := some d }
  { s with se := { s.se with last := 63 } }

/-- A block of one row of 256 bytes. -/
def block (src dst : DWord) (zero : Bool) : BlockDesc :=
  { src := src, dst := dst, rowlen := 256, zero := zero, kv := false, rows := 1, tpp := 0, sstride := 0, dstride := 0
    slots := [], bad := none }

/-- The parts of StreamServed. -/
theorem streamServed {s : State} {id : Nat} {d : BlockDesc} {rest : List Nat} (o : s.se.order = id :: rest)
    (h : s.pins.alive = true ∧ 64 ≤ id ∧ (s.ctx id).state = .running ∧ (s.ctx id).halt = none ∧ (s.ctx id).desc = some d ∧
      d.bad = none ∧ (s.ctx id).iblk < (s.ctx id).nblk ∧ (s.ctx id).pauseAt = none ∧ s.journal.freeze = false ∧
      s.se.wait = none ∧ (∀ w ∈ s.se.walks, w.ctx ≠ id) ∧ (s.ctx id).ioff < d.total ∧
      (s.se.outOf id).length < (s.ctx id).limit ∧ s.se.xfers.length < Config.xferLimit) : StreamServed s id d :=
  ⟨h.1, ⟨rest, o⟩, h.2⟩

/-- Context 64 waits for the walk of this address. -/
def walking (addr : Nat) : State :=
  let s := run.onCtx 64 fun c => { c with state := .running, nblk := 1, limit := 1 }
  { s with se := { s.se with walks := [{ ctx := 64, addr := addr, write := true, blk := 0, off := 0 }] } }

/-- The entries that the walk of an address reads, level by level. -/
def levels : List Nat :=
  [0x8000000000010000, 0x8000000000020000, 0x8000000000030000, 0x8000000000040000, 0xE000000000070000]

/-- Where they lie, for address 0x12345. -/
def places : List Nat := [0, 0x10000, 0x20000, 0x30000, 0x40008]

/-- The far reads of that walk. -/
def tables : FarReply :=
  { cells := (places.zip levels).flatMap fun p => cellsFrom p.1 (leBytes 8 p.2), errs := [] }

/-- The walk reads its root entry first. -/
theorem walkRoot (s : State) (far : FarReply) (a : Nat) :
    WalkReads s far a 0 (s.se.ptroot.toNat + 8 * fld 56 48 a) (ofLE (replyBytes far (s.se.ptroot.toNat + 8 * fld 56 48 a) 8)) :=
  ⟨fun _ => 0, fun _ => s.se.ptroot.toNat + 8 * fld 56 48 a, rfl, fun k h => absurd h (Nat.not_lt_zero k), by decide, rfl, rfl⟩

/-- The walk of 0x12345 reads a leaf on its last level. -/
theorem walkLeaf : WalkReads (walking 0x12345) tables 0x12345 4 0x40008 0xE000000000070000 :=
  ⟨fun k => levels.getD k 0, fun k => places.getD k 0, rfl, by decide, by decide, rfl, by decide⟩

/-- The granules by source of one message from source 0. -/
theorem oneSource : ∀ k, Tbl.get 0 [(0, 1)] k =
    (([0x10000000000].filter fun w => sourceKey w == k).map fun w => (fld 48 40 w + 4) / 4).sum := by
  intro k
  cases k with
  | zero => decide
  | succ k => simp [Tbl.get, sourceKey, fld]

/-- A property of the first four numbers, twice. -/
theorem all44 {P : Nat → Nat → Prop} (h : ∀ k < 4, ∀ l < 4, P k l) : ∀ k l, k < 4 → l < 4 → P k l :=
  fun k l hk hl => h k hk l hl

/-- Every port is UP and has no link credits, and no message is combined. -/
def mute : State :=
  let x : Port := { run.port 0 with state := .up, credits := #v[0, 0, 0, 0] }
  { run with router := { run.router with comb := false, ports := #v[x, x, x, x, x] } }

/-- A journal record. -/
def recAs (seq kind : Nat) (arg body : List Byte) : List Byte :=
  sealRecord (BitVec.ofNat 32 seq) (recordBytes kind 0 0#64 arg body)

/-- A read record of `n` bytes. -/
def sizedRecord (n : Nat) : ReadRecord := { jseq := 0#32, src := 0, ord := 0, faddr := 0#64, data := List.replicate n 0#8 }

/-- One that fills the staging space leaves no room for another. -/
theorem fullWaiting (w : ReadRecord) (n : Nat) (h : Config.stagingSize ≤ n) :
    Config.stagingSize < (([sizedRecord n] ++ [w]).map ReadRecord.size).foldl (· + ·) 0 := by
  have l : (sizedRecord n).data.length = n := List.length_replicate
  simp only [List.map_append, List.map_cons, List.map_nil, List.foldl_append, List.foldl_cons, List.foldl_nil, ReadRecord.size, l]
  omega

/-- No condition of R398 fails. -/
theorem snapFree {s : State}
    (h : ¬ (s.journal.snapBase = 0#64 ∨ s.journal.size = 0#16) ∧
      (∀ q < 7, (s.queue q).entries = [] ∧ (s.queue q).issued = (s.queue q).completed) ∧ (s.queue 7).entries = [] ∧
      (∀ p ∈ s.se.ctxs, ¬ (64 ≤ p.1 ∧ (p.2.state = .running ∨ p.2.state = .pageHalt))) ∧
      (∀ p ∈ s.marver.shards, ¬ (p.2.state ≠ .empty ∧ p.2.state ≠ .idle)) ∧ s.rings.parked = [])
    (v : ∀ e < 4, ∀ t < 32, Vec.at (s.me e).valid t = 0#32) : SnapRefusal s 0 := by
  obtain ⟨h1, h2, h3, h5, h6, h7⟩ := h
  refine Or.inr (Or.inr (Or.inr (Or.inr (Or.inr (Or.inr (Or.inr ⟨h1, ?_, not_not.mpr h3, ?_, ?_, ?_, not_not.mpr h7, rfl⟩))))))
  · rintro ⟨q, hq, hx⟩
    exact hx.elim (fun g => g (h2 q hq).1) (fun g => g (h2 q hq).2)
  · rintro ⟨e, t, he, ht, hx⟩
    exact hx (v e he t ht)
  · rintro ⟨p, hp, hx⟩
    exact h5 p hp hx
  · rintro ⟨p, hp, hx⟩
    exact h6 p hp hx

/-- A packet that passes checks 1-6. -/
theorem passes {s : State} {b : List Byte} {p : Packet} (k : Nat) (h1 : PacketIntact b p)
    (h2 : ¬ ((p.ver ≠ 1 ∧ p.ver ≠ 2) ∨ (p.ver = 1 ∧ p.opc ∈ [0x0B, 0x0C, 0x12, 0x14, 0x15])))
    (h3 : ¬ (p.src = 0 ∨ 0x0F < p.src)) (h4 : ¬ (p.opc = 0 ∨ 0x15 < p.opc)) (h5 : ClassBit p k)
    (h6 : (s.entry p.src).testBit (16 + k) = true) (h7 : p.paramsOk = true) : PacketVerdict s b p 0x0000#16 :=
  Or.inr (Or.inr (Or.inr (Or.inr (Or.inr (Or.inr
    ⟨not_not.mpr h1, h2, h3, h4, fun g => by simp [g k h5] at h6, by simp [h7], rfl⟩)))))

/-- The parts of an access, of another master than 0x51, that is not permitted. -/
theorem shut {s : State} {m a n : Nat} {w : Bool} (hm : m ≠ 0x51) (h : a < 0x5000000)
    (loc : a < 0x200000 → s.may m .loc w = false) (hole : a < 0x2000000 ∨ 0x3804000 ≤ a)
    (reg : 0x4000000 ≤ a → 0x400E000 ≤ a ∨ s.may m .reg w = false) : ¬ Permitted s m a n w := by
  rintro ⟨-, -, g⟩
  rcases g with g | g | g | g | g | g | g | g
  · rw [loc g.1] at g
    exact absurd g.2.2 Bool.false_ne_true
  iterate 5 omega
  · rcases reg g.1 with r | r
    · omega
    · rcases g.2.2.2.2 with t | t
      · rw [r] at t
        exact absurd t Bool.false_ne_true
      · exact hm t.2.1
  · omega

/-- What a command of the running cluster leads to. -/
def after (c : Instr) (s : State) : State :=
  match exec c s with
  | .next u => u
  | _ => run

/-! Operands that the interfaces cannot carry are refused (one ill-formed term for each check of WellFormed). -/

theorem test_far_data_too_long : Instr.wellFormed (.farReadData 1 (List.replicate 65 0#8) true .ok) = false := by decide
theorem test_descriptor_misaligned : Instr.wellFormed (.ringDescriptorWrite 2 6 4 0) = false := by decide
theorem test_entry_of_three_bytes : Instr.wellFormed (.creditEntryWrite 2 0 3 0) = false := by decide
theorem test_access_misaligned : Instr.wellFormed (.externalMasterAccess 2 true 0x1001 2 0) = false := by decide
theorem test_latch_misaligned : Instr.wellFormed (.upperWordLatchRead 2 0x0400A00C) = false := by decide
theorem test_split_misaligned : Instr.wellFormed (.split64BitWrite 2 0x0400A00C 0) = false := by decide
theorem test_read_clear_misaligned : Instr.wellFormed (.readClear 2 0x04009022) = false := by decide
theorem test_register_misaligned : Instr.wellFormed (.registerWrite 2 0x04009021 0) = false := by decide
theorem test_hello_short : Instr.wellFormed (.helloReceive 0 (List.replicate 63 0#8)) = false := by decide
theorem test_frame_long : Instr.wellFormed (.edgeFrameReceive (List.replicate 273 0#8)) = false := by decide
theorem test_cursor_record_long : Instr.wellFormed (.replayMessageCursor (List.replicate 8193 0#8)) = false := by
  simp [Instr.wellFormed]
theorem test_read_record_long : Instr.wellFormed (.replayReadCursor (List.replicate 8193 0#8)) = false := by
  simp [Instr.wellFormed]
theorem test_packet_long : Instr.wellFormed (.managementPacket (List.replicate 2049 0#8)) = false := by
  simp [Instr.wellFormed]
theorem test_message_broken : Instr.wellFormed (.routerForward (.mesh 0 ⟨0, 0, [1#8]⟩ ⟨0, false, false⟩)) = false := by decide
theorem test_access_accepted : Instr.wellFormed (.externalMasterAccess 2 true 0x1008 8 0) = true := by decide

/-! Examples that the spec works out, and published check values. -/

/-- The worked example of one BF16 group in 05_numerics.md: the accumulator becomes 0x497F_FFD8. -/
theorem test_bf16_group :
    let ps : List FVal := [.fin false 1 20, .fin false 3 (-31), .fin true 3 0, .fin false 9 (-29)]
    Fmt.fp32.encode (fastAdd .fp32 48 (Fmt.fp32.decode 0x3F000000) ps (groupSpecial ps)) = 0x497FFFD8 := by decide +kernel

/-- The output conversion of the worked example of one MXFP8 block in 05_numerics.md. -/
def mxOcd : OcdCmd :=
  { otype := 6, retry := 2, tsen := true, clip := false, keep := false, ieee := false, rmode := 0, tset := 0
    scale := 0x3F800000#32, bias := none, lo := 0#32, hi := 0#32, sthr := 0, adj := 0, osid := 0, seed := 0#64
    step := 0#32, hid := 0#32, strict := false }

/-- Its values 470, 452 and 3.1, the last as the FP32 number nearest to it. -/
def mxValues : List FVal := [.fin false 470 0, .fin false 452 0, Fmt.fp32.decode 0x40466666]

/-- Attempt 0 of that example: both large values become 448, and a value saturates (how many is R167's to say: log 13). -/
theorem test_mxfp8_first :
    let b := convertBlock mxOcd 0 0 mxValues
    b.1 = [0x7E, 0x7E, 0x44] ∧ b.2.1 = 0x7F#8 ∧ 0 < b.2.2.sat := by decide +kernel

/-- Attempt 1 of that example: nothing saturates. -/
theorem test_mxfp8_retry :
    let b := convertBlock mxOcd 1 0 mxValues
    b.1 = [0x77, 0x76, 0x3C] ∧ b.2.1 = 0x80#8 ∧ b.2.2.sat = 0 := by decide +kernel

/-- The published check value of CRC-32C, of the text 123456789. -/
theorem test_crc32c : crc32c [49#8, 50#8, 51#8, 52#8, 53#8, 54#8, 55#8, 56#8, 57#8] = 0xE3069283#32 := by decide +kernel

/-- The published check value of CRC-64/ECMA-182, of the same text. -/
theorem test_crc64 : crc64 0#64 [49#8, 50#8, 51#8, 52#8, 53#8, 54#8, 55#8, 56#8, 57#8] = 0x6C40DF5F0B497347#64 := by
  decide +kernel

/-- The charges of the worked example of credits in 08_messages_rings.md: 17 granules for 1024 bytes, 5 for 256. -/
theorem test_charges : granules (1024 / 16) = 17 ∧ granules (256 / 16) = 5 := by decide

/-- A command that heads the queue is taken: GAFFER_ROUND on the reset state with one idle round. -/
theorem test_queue_front_taken :
    (match step { State.reset with pending := [.gafferRound, .missedPulse] } with
      | .next u => u.pending == [.missedPulse]
      | _ => false) = true := by decide +kernel

/-- No word spells a command: the table gives its rows no bits. -/
theorem test_no_word : decodeTableWord 32 0x04020805 = none := by decide

/-- A far reply to a tag that is not outstanding is the one stop. -/
theorem test_far_tag_stops :
    (match exec (.farReadData 3 [] true .ok) run with
      | .fault (.farTagNotOutstanding tag) => tag == 3
      | _ => false) = true := by decide +kernel

/-! A valid mould. -/

/-- A mould with a version, an ID and a CRC; every other byte is zero. -/
def plainMould : List Byte :=
  leBytes 4 0x20000 ++ leBytes 4 0x90DD84D6 ++ List.replicate 8180 0#8 ++ leBytes 4 0xFFFFFFFF

theorem plainMould_part {o n : Nat} (h : 8 ≤ o) (h2 : o + n ≤ 8188) :
    (plainMould.drop o).take n = List.replicate n 0#8 := by
  obtain ⟨k, rfl⟩ : ∃ k, o = 8 + k := ⟨o - 8, by omega⟩
  rw [← List.drop_drop]
  have : List.drop 8 plainMould = List.replicate 8180 0#8 ++ leBytes 4 0xFFFFFFFF := by
    unfold plainMould
    rw [List.append_assoc]
    exact List.drop_left' (by rfl)
  rw [this, List.drop_append_of_le_length (by rw [List.length_replicate]; omega), List.drop_replicate,
    List.take_append_of_le_length (by rw [List.length_replicate]; omega), List.take_replicate]
  congr 1
  omega

theorem ofLE_zeros (n : Nat) : ofLE (List.replicate n 0#8) = 0 := by
  induction n with
  | zero => rfl
  | succ n ih => simp [List.replicate_succ, ofLE, ih]

theorem plainMould_leAt {o n : Nat} (h : 8 ≤ o) (h2 : o + n ≤ 8188) : leAt plainMould o n = 0 := by
  unfold leAt
  rw [plainMould_part h h2, ofLE_zeros]

theorem plainMould_zero {o n : Nat} (h : 8 ≤ o) (h2 : o + n ≤ 8188) : allZero ((plainMould.drop o).take n) = true := by
  rw [plainMould_part h h2]
  simp [allZero]

theorem plainMould_reserved : mouldReserved plainMould = true := by
  unfold mouldReserved
  simp only [Bool.and_eq_true, decide_eq_true_eq, List.all_eq_true, List.mem_range]
  refine ⟨⟨⟨⟨⟨⟨⟨⟨⟨⟨?_, ?_⟩, ?_⟩, ?_⟩, ?_⟩, ?_⟩, ?_⟩, ?_⟩, ?_⟩, ?_⟩, ?_⟩
  · exact plainMould_zero (by omega) (by omega)
  · exact plainMould_zero (by omega) (by omega)
  · exact plainMould_zero (by omega) (by omega)
  · rw [plainMould_leAt (by omega) (by omega)]; decide
  · rw [plainMould_leAt (by omega) (by omega)]; decide
  · rw [plainMould_leAt (by omega) (by omega)]; decide
  · rw [plainMould_leAt (by omega) (by omega)]; decide
  · rw [plainMould_leAt (by omega) (by omega)]; decide
  · intro m hm; rw [plainMould_leAt (by omega) (by omega)]; decide
  · rw [plainMould_leAt (o := 94) (by omega) (by omega)]; intro x hx; omega
  · intro m hm; rw [plainMould_leAt (by omega) (by omega)]; decide

theorem plainMould_remap : mouldRemap plainMould = [] := by
  unfold mouldRemap
  rw [List.filterMap_eq_nil_iff]
  intro i hi
  rw [plainMould_leAt (by omega) (by have := List.mem_range.mp hi; omega)]
  rfl

theorem crc_zeros (n : Nat) : (List.replicate n 0#8).foldl crc32cByte 0#32 = 0#32 := by
  induction n with
  | zero => rfl
  | succ n ih => rw [List.replicate_succ, List.foldl_cons, show crc32cByte 0#32 0#8 = 0#32 by decide, ih]

theorem plainMould_length : plainMould.length = 8192 := by
  unfold plainMould
  simp only [List.length_append, List.length_replicate, leBytes, List.length_cons, List.length_nil]

theorem plainMould_valid : mouldValid plainMould = true := by
  have last : leAt plainMould 8188 4 = 0xFFFFFFFF := by
    unfold leAt plainMould
    rw [List.drop_left' (by simp only [List.length_append, List.length_replicate, leBytes, List.length_cons, List.length_nil])]
    decide
  have body : plainMould.take 8188 = leBytes 4 0x20000 ++ leBytes 4 0x90DD84D6 ++ List.replicate 8180 0#8 := by
    unfold plainMould
    exact List.take_left' (by simp only [List.length_append, List.length_replicate, leBytes, List.length_cons, List.length_nil])
  have crc : crc32c (plainMould.take 8188) = 0xFFFFFFFF#32 := by
    rw [body]
    unfold crc32c
    rw [List.foldl_append, show (leBytes 4 0x20000 ++ leBytes 4 0x90DD84D6).foldl crc32cByte 0xFFFFFFFF#32 = 0#32 by decide,
      crc_zeros]
    decide
  have ranges : mouldRanges plainMould = true := by
    unfold mouldRanges
    simp only [plainMould_leAt (o := 20) (n := 1) (by omega) (by omega), plainMould_leAt (o := 21) (n := 1) (by omega) (by omega),
      plainMould_leAt (o := 22) (n := 1) (by omega) (by omega), plainMould_leAt (o := 23) (n := 1) (by omega) (by omega),
      plainMould_leAt (o := 92) (n := 1) (by omega) (by omega), plainMould_leAt (o := 94) (n := 2) (by omega) (by omega)]
    decide
  have version : leAt plainMould 0 4 = 0x20000 := by
    unfold leAt plainMould
    rw [List.append_assoc, List.append_assoc, List.drop_zero, List.take_left' (by rfl)]
    decide
  unfold mouldValid
  rw [plainMould_length, version, last, crc, ranges, plainMould_reserved, plainMould_remap]
  decide

/-- Bytes written to an empty memory are read back. -/
theorem readBytes_writeBytes (bs : List Byte) (a : Nat) :
    (Memory.writeBytes [] a bs).readBytes a bs.length = bs := by
  apply List.ext_getElem (by simp)
  intro i h h2
  rw [Memory.getElem_readBytes, Memory.read_writeBytes_inside _ _ _ _ Memory.wf_nil h2]

/-- The bytes of a reply that lists them. -/
theorem replyBytes_cells (bs : List Byte) (a : Nat) (pre : List (Nat × Byte)) (es : List (Nat × FarErr))
    (h : ∀ c ∈ pre, c.1 < a) :
    replyBytes { cells := pre ++ cellsFrom a bs, errs := es } a bs.length = bs := by
  induction bs generalizing a pre with
  | nil => rfl
  | cons b bs ih =>
    have none : pre.find? (fun c => c.1 == a) = none := by
      rw [List.find?_eq_none]
      intro c hc
      have := h c hc
      simp only [beq_iff_eq]
      omega
    have next := ih (a + 1) (pre ++ [(a, b)]) (by
      intro c hc
      rcases List.mem_append.mp hc with hc | hc
      · have := h c hc; omega
      · rw [List.mem_singleton.mp hc]; exact Nat.lt_succ_self a)
    rw [List.append_assoc, List.singleton_append] at next
    rw [List.length_cons]
    unfold replyBytes
    rw [cellsFrom, next]
    unfold replyByte
    rw [List.find?_append, none, Option.none_or, List.find?_cons_of_pos (by simp)]
    rfl

theorem plainMould_read : mouldValid (replyBytes (answer 0x1000 plainMould) 0x1000 8192) = true := by
  have e : replyBytes (answer 0x1000 plainMould) 0x1000 plainMould.length = plainMould :=
    replyBytes_cells plainMould 0x1000 [] [] (by simp)
  rw [← plainMould_length, e, plainMould_valid]

theorem plainMould_stored {g : Gaffer} (h : g.mram = Memory.writeBytes [] 0 plainMould) (ht : g.tornMould = 0#4) :
    g.validMould 0 = true := by
  have e : (Memory.writeBytes [] 0 plainMould).readBytes (0x2000 * 0) plainMould.length = plainMould :=
    readBytes_writeBytes plainMould 0
  unfold Gaffer.validMould Gaffer.mould
  rw [plainMould_length] at e
  rw [h, ht, e, plainMould_valid]
  rfl

/-- A state whose mould 0 is that one. -/
def moulded (s : State) : State :=
  { s with gaffer := { s.gaffer with mram := Memory.writeBytes [] 0 plainMould, tornMould := 0#4 } }

theorem moulded_valid (s : State) : (moulded s).gaffer.validMould 0 = true := plainMould_stored rfl rfl

/-! Witnesses of the statements, in their order. -/

theorem witness_StepRunsFrontCommand :
    ∃ (s : State) (c : Instr) (rest : List Instr), s.pending = c :: rest :=
  ⟨{ State.reset with pending := [.gafferRound] }, .gafferRound, [], by decide⟩

theorem witness_EmptyQueuePassesTime :
    (∃ (s : State), s.pending = [] ∧ s.pins.alive = true) ∧
    (∃ (s : State), s.pending = [] ∧ s.pins.alive = true) :=
  ⟨⟨State.reset, by decide, by decide⟩,
   ⟨{ run with nc := 1, lehr := { run.lehr with synced := true } }, by decide, by decide⟩⟩

theorem witness_ResetValues :
    (∃ (t : Nat), t < 8192) ∧
    (∃ (c : Nat), c < 3072) ∧
    (∃ (i : Nat), i < 2048) :=
  ⟨⟨8191, by decide⟩,
   ⟨3071, by decide⟩,
   ⟨2047, by decide⟩⟩

theorem witness_ScalarWordIssues :
    (∃ (s : State) (t : Nat) (w : LongWord) (k : Task), Issues s t w ∧ k = (s.task t).commit ∧ (∀ p ∈ w.slots, p.1 = 0 ∨ (p.1 =
      1 ∧ (Op.isAlu (Slot.op p.2) || Op.isCmp (Slot.op p.2) || Op.isPred (Slot.op p.2) || Op.isMov (Slot.op p.2)) = true))) ∧
    (∃ (s : State) (t : Nat) (w : LongWord) (k : Task), Issues s t w ∧ k = (s.task t).commit ∧ (∀ p ∈ w.slots, p.1 = 0 ∨ (p.1 =
      1 ∧ (Op.isAlu (Slot.op p.2) || Op.isCmp (Slot.op p.2) || Op.isPred (Slot.op p.2) || Op.isMov (Slot.op p.2)) = true))) ∧
    (∃ (k : Task) (n : BitVec 5) (pre : List PendingResult) (post : List PendingResult) (due : Nat) (v : DWord), n ≠ 0#5 ∧
      k.results = pre ++ ⟨due, .reg n, v⟩ :: post ∧ due ≤ k.cycle ∧ (∀ r ∈ pre, r.dest = .reg n → r.due ≤ due ∨ k.cycle < r.due)
      ∧ (∀ r ∈ post, r.dest = .reg n → r.due < due ∨ k.cycle < r.due)) ∧
    (∃ (k : Task) (n : BitVec 5), n ≠ 0#5 ∧ (∀ r ∈ k.results, r.dest = .reg n → k.cycle < r.due)) :=
  ⟨⟨(program (word 0 0x04020805)), 0, { pc := 0, len := 6, yld := false, dly := 0, slots := [(0, 0x04020805)] }, _,
    by unfold Issues; decide, rfl, by decide⟩,
   ⟨(program (word 0 0xC00A2005)).onTask 0 fun t => { t with results := [⟨0, .reg 2#5, 3#64⟩, ⟨0, .reg 5#5, 7#64⟩] }, 0,
    { pc := 0, len := 6, yld := false, dly := 0, slots := [(0, 0xC00A2005)] }, _, by unfold Issues; decide, rfl, by decide⟩,
   ⟨{ run.task 0 with cycle := 4, results := [⟨3, .reg 5#5, 7#64⟩, ⟨4, .reg 5#5, 9#64⟩] }, 5#5, [⟨3, .reg 5#5, 7#64⟩], [], 4,
    9#64, by decide, by decide, by decide, by decide, by decide⟩,
   ⟨{ run.task 0 with cycle := 4, results := [⟨5, .reg 5#5, 9#64⟩] }, 5#5, by decide, by decide⟩⟩

theorem witness_EnqWordQueuesCommand :
    ∃ (s : State) (t : Nat) (w : LongWord) (x : Nat) (k : Task) (q : Nat) (seq : Word), Issues s t w ∧ k = (s.task t).commit ∧
      w.slots = [(3, x)] ∧ k.guard x = true ∧ q = fld 9 7 x ∧ seq = (s.queue q).issued + 1#32 ∧ (s.queue q).stopped = false ∧
      (s.queue q).entries.length < 64 ∧ (s.tier.det = true → Vec.at s.core.owners q = BitVec.ofNat 5 t) :=
  ⟨(program (word 3 0x04020300)), 0, { pc := 0, len := 6, yld := false, dly := 0, slots := [(3, 0x04020300)] }, 0x04020300, _,
    _, _, by unfold Issues; decide, rfl, by decide, by decide, rfl, rfl, by decide, by decide, by decide⟩

theorem witness_StoreWordBuffers :
    ∃ (s : State) (t : Nat) (w : LongWord) (x : Nat) (k : Task) (a : Nat) (n : Nat), Issues s t w ∧ k = (s.task t).commit ∧
      w.slots = [(1, x)] ∧ k.guard x = true ∧ Op.isStore (Slot.op x) = true ∧ (s.task t).stores.length < 16 ∧ a = k.address x ∧
      n = Op.size (Slot.op x) ∧ a % n = 0 ∧ (s.busCheck 0x51 a n true).isSome = true :=
  ⟨(program (word 1 0xD4000840)), 0, { pc := 0, len := 6, yld := false, dly := 0, slots := [(1, 0xD4000840)] }, 0xD4000840, _,
    _, _, by unfold Issues; decide, rfl, by decide, by decide, by decide, by decide, rfl, rfl, by decide, by decide⟩

theorem witness_ForbiddenWordHaltsTask :
    (∃ (s : State) (t : Nat) (slot : Nat), s.inRun = true ∧ s.resting = false ∧ s.core.startBeat ≤ s.beat ∧ (∀ k ∈
      s.core.tasks.toList, k.spawning = false) ∧ s.core.pick = some t ∧ s.core.fetch ((s.task t).commit).pc = .bad slot ∧ (∃ r,
      r ≠ t ∧ ((s.task r).state = .ready ∨ (s.task r).state = .waiting)) ∧ s.gaffer.eventCount < 64) ∧
    (∃ (c : Core) (pc : Nat), c.imemBad = [] ∧ 0x10000 < pc + 2) ∧
    (∃ (c : Core) (pc : Nat), c.imemBad = [] ∧ pc + 2 ≤ 0x10000 ∧ fld 7 0 (c.imem.readLE pc 2) ≠ 0) ∧
    (∃ (x : Nat), (Slot.op x = 0 ∨ Slot.op x = 0x0D ∨ 0x3F ≤ Slot.op x)) ∧
    (∃ (x : Nat), Slot.op x = 0x01 ∧ bit 11 x = false ∧ fld 10 5 x ≠ 0) ∧
    (∃ (x : Nat), Slot.op x = 0x34 ∧ bit 11 x = false) ∧
    (∃ (x : Nat), (Slot.op x = 0 ∨ 10 ≤ Slot.op x)) ∧
    (∃ (x : Nat), Slot.op x = 6 ∧ 4 < fld 21 18 x) ∧
    (∃ (x : Nat), Slot.op x = 4 ∧ fld 21 11 x = 0) ∧
    (∃ (x : Nat), (Slot.op x ≠ 1 ∨ 31 < fld 16 12 x + fld 11 10 x)) :=
  ⟨⟨(program (word 0 0)).onTask 1 fun t => { t with state := .waiting }, 0, 0, by decide, by decide, by decide, by decide,
    by decide, by decide, ⟨1, by decide⟩, by decide⟩,
   ⟨run.core, 0xFFFF, by decide, by decide⟩,
   ⟨{ run.core with imem := Memory.writeBytes [] 0xFFFE [0x80#8] }, 0xFFFE, by decide, by decide, by decide⟩,
   ⟨0xFFFFFFFF, by decide⟩,
   ⟨0x040007E0, by decide, by decide, by decide⟩,
   ⟨0xD0000000, by decide, by decide⟩,
   ⟨0x28000000, by decide⟩,
   ⟨0x18140000, by decide, by decide⟩,
   ⟨0x10000000, by decide, by decide⟩,
   ⟨0x0401FC00, by decide⟩⟩

theorem witness_LoadArrivalReadsMemory :
    ∃ (s : State) (task : Fin 32) (k : Task) (l : LoadWait), s.inRun = true ∧ k = s.task task.val ∧ k.memWait = .load l ∧
      k.state = .waiting ∧ k.cause = .none ∧ l.size ∈ [1, 2, 4, 8] ∧ l.addr % l.size = 0 ∧ l.addr < 0x200000 ∧ s.core.line
      l.addr = none ∧ (∀ x ∈ s.core.tasks.toList, ∀ e ∈ x.stores, e.addr / 64 ≠ l.addr / 64) ∧ (∀ i < 8, 8 * (l.addr / 64) + i ∉
      s.mem.bad) :=
  ⟨(withBytes (waiting (.load { addr := 64, size := 4, signed := true, rd := 5#5, due := 4, pc := 0, place := 0, ord := 0 })
    .none) 64 [0x80#8, 0#8, 0#8, 0xFF#8]), 0, _,
    { addr := 64, size := 4, signed := true, rd := 5#5, due := 4, pc := 0, place := 0, ord := 0 }, by decide, rfl, by decide,
    by decide, by decide, by decide, by decide, by decide, by decide, by decide, by decide⟩

theorem witness_StoreDrainWritesMemory :
    ∃ (s : State) (task : Fin 32) (e : StoreEntry) (es : List StoreEntry), s.inRun = true ∧ (s.task task.val).stores = e :: es ∧
      e.addr < 0x200000 ∧ e.size ≤ 8 ∧ Memory.wf s.mem.mem = true :=
  ⟨(run.onTask 0 fun t => { t with stores := [{ addr := 64, size := 8, data := 0x0102030405060708#64, ord := 0 }] }), 0,
    { addr := 64, size := 8, data := 0x0102030405060708#64, ord := 0 }, [], by decide, by decide, by decide, by decide,
    by decide⟩

theorem witness_CacheDropCompletes :
    ∃ (s : State) (task : Fin 32) (base : Nat) (len : Nat) (all : Bool), s.inRun = true ∧ (s.task task.val).memWait = .drop base
      len all ∧ (s.task task.val).state = .waiting ∧ (s.task task.val).cause = .none :=
  ⟨{ waiting (.drop 64 64 false) .none with
      core := { (waiting (.drop 64 64 false) .none).core with cache := [⟨1, 0#512, 0#8, false⟩, ⟨2, 0#512, 0#8, false⟩] } }, 0,
    64, 64, false, by decide, by decide, by decide, by decide⟩

theorem witness_TaskWakes :
    (∃ (s : State) (task : Fin 32) (k : Task), s.inRun = true ∧ k = s.task task.val ∧ k.state = .waiting ∧ WaitOver s k) ∧
    (∃ (s : State) (task : Fin 32) (k : Task), s.inRun = true ∧ k = s.task task.val ∧ k.state = .waiting ∧ WaitOver s k) ∧
    (∃ (s : State) (task : Fin 32) (k : Task), s.inRun = true ∧ k = s.task task.val ∧ k.state = .waiting ∧ ¬ WaitOver s k ∧ (∀
      mode rd, k.cause ≠ .rsel [] mode rd)) :=
  ⟨⟨(waiting .none (.lehr 0#64)), 0, _, by decide, rfl, by decide, by show (0#64).toNat ≤ (0#64).toNat; decide⟩,
   ⟨(ringed (waiting .none (.rsel [32] 0 3#5))), 0, _, by decide, rfl, by decide, ⟨0, by decide, by decide, fun _ j h _ => (by
    obtain rfl := Nat.lt_one_iff.mp h; decide), by decide, by decide⟩⟩,
   ⟨(waiting .none (.lehr 1#64)), 0, _, by decide, rfl, by decide, by show ¬ (1#64).toNat ≤ (0#64).toNat; decide,
    by intro mode rd h; exact WaitCause.noConfusion h⟩⟩

theorem witness_QueuesClearAndRestart :
    (∃ (s : State) (m : Master), s.inRun = true ∧ s.may m.toNat .reg true = true) ∧
    (∃ (s : State) (m : Master), s.inRun = true ∧ s.may m.toNat .reg true = true) ∧
    (∃ (s : State) (m : Master), s.inRun = true ∧ s.may m.toNat .reg true = true ∧ RegOpen s m 1 0x040 true) :=
  ⟨⟨(queued 0 [0x20#64, 0#64]), 2#7, by decide, by decide⟩,
   ⟨(run.onQueue 7 fun x => { x with outstanding := [(1#32, .faulted)], stopped := true, fcode := Code.schedSlip }), 2#7,
    by decide, by decide⟩,
   ⟨(queued 0 [0x20#64, 0#64]).onQueue 0 fun x => { x with outstanding := [(0#32, .run)], stopped := true }, 2#7, by decide,
    by decide, by unfold RegOpen; decide⟩⟩

theorem witness_TileMovesTakenOrFault :
    (∃ (s : State) (e : Fin 4) (c : QueueCmd) (store : Bool) (t : TileShape), MeReady s e (if store then 0x23 else 0x22) c ∧
      c.regs.length = 2 ∧ tileMoveReserved c = false ∧ (s.me e.val).shape (tileMoveOf c).tile = some t ∧ (tileMoveOf c).row +
      (tileMoveOf c).count < t.rows ∧ (tileMoveOf c).addr % 16 = 0 ∧ (tileMoveOf c).stride % 16 = 0 ∧ (∀ i ≤ (tileMoveOf
      c).count, inLocal ((tileMoveOf c).addr + i * (tileMoveOf c).stride) t.stride = true) ∧ s.may 0x51 .loc store = true) ∧
    (∃ (s : State) (e : Fin 4) (c : QueueCmd) (store : Bool) (t : TileShape), MeReady s e (if store then 0x23 else 0x22) c ∧
      c.regs.length = 2 ∧ tileMoveReserved c = false ∧ (s.me e.val).shape (tileMoveOf c).tile = some t ∧ (tileMoveOf c).row +
      (tileMoveOf c).count < t.rows ∧ (tileMoveOf c).addr % 16 = 0 ∧ (tileMoveOf c).stride % 16 = 0 ∧ (∀ i ≤ (tileMoveOf
      c).count, inLocal ((tileMoveOf c).addr + i * (tileMoveOf c).stride) t.stride = true) ∧ s.may 0x51 .loc store = true) ∧
    (∃ (s : State) (e : Fin 4) (c : QueueCmd) (store : Bool), MeReady s e (if store then 0x23 else 0x22) c ∧ tileMoveReserved c
      = false ∧ (∀ t, (s.me e.val).shape (tileMoveOf c).tile = some t → t.rows ≤ (tileMoveOf c).row + (tileMoveOf c).count) ∧
      s.gaffer.eventCount < 64) ∧
    (∃ (s : State) (e : Fin 4) (c : QueueCmd) (store : Bool), MeReady s e (if store then 0x23 else 0x22) c ∧ tileMoveReserved c
      = false ∧ (∀ t, (s.me e.val).shape (tileMoveOf c).tile = some t → t.rows ≤ (tileMoveOf c).row + (tileMoveOf c).count) ∧
      s.gaffer.eventCount < 64) :=
  ⟨⟨(tiled (queued 0 [0x180122#64, 0x4000001000#64])), 0, ⟨[0x180122#64, 0x4000001000#64], 1#32⟩, false,
    { ty := 0, len := 64, trailer := 0, rows := 4, base := 0 }, meReady (by decide), by decide, by decide, by decide, by decide,
    by decide, by decide, by decide, by decide⟩,
   ⟨(tiled (queued 0 [0x180123#64, 0x4000001000#64])), 0, ⟨[0x180123#64, 0x4000001000#64], 1#32⟩, true,
    { ty := 0, len := 64, trailer := 0, rows := 4, base := 0 }, meReady (by decide), by decide, by decide, by decide, by decide,
    by decide, by decide, by decide, by decide⟩,
   ⟨(tiled (queued 0 [0x222#64, 0x1000#64])), 0, ⟨[0x222#64, 0x1000#64], 1#32⟩, false, meReady (by decide), by decide,
    fun t h => absurd h (by revert t; decide), by decide⟩,
   ⟨(tiled (queued 0 [0x10123#64, 0x1000#64])), 0, ⟨[0x10123#64, 0x1000#64], 1#32⟩, true, meReady (by decide), by decide,
    fun t h => by injection h with h; subst h; decide, by decide⟩⟩

theorem witness_TileLoadWritesRow :
    (∃ (s : State) (e : Fin 4) (seq : Word) (opc : Byte) (c : TileMove) (done : Nat) (rest : List InFlight) (t : TileShape),
      s.inRun = true ∧ (s.me e.val).inflight = ⟨seq, opc, .tld c done, false⟩ :: rest ∧ (s.me e.val).shape c.tile = some t ∧
      c.tile < 32 ∧ c.row + done < 32 ∧ done ≤ c.count ∧ s.mem.badIn (c.addr + done * c.stride) t.stride = none ∧ Memory.wf
      (s.me e.val).pool = true) ∧
    (∃ (s : State) (e : Fin 4) (seq : Word) (opc : Byte) (c : TileMove) (done : Nat) (rest : List InFlight) (t : TileShape),
      s.inRun = true ∧ (s.me e.val).inflight = ⟨seq, opc, .tld c done, false⟩ :: rest ∧ (s.me e.val).shape c.tile = some t ∧
      c.tile < 32 ∧ c.row + done < 32 ∧ done ≤ c.count ∧ s.mem.badIn (c.addr + done * c.stride) t.stride = none ∧ Memory.wf
      (s.me e.val).pool = true) :=
  ⟨⟨(withBytes (flying (tiled run) (.tld moving 0)) 0x1000 [1#8, 2#8]), 0, 1#32, 0x10#8, moving, 0, [],
    { ty := 0, len := 64, trailer := 0, rows := 4, base := 0 }, by decide, by decide, by decide, by decide, by decide,
    by decide, by decide, by decide⟩,
   ⟨(withBytes (flying (tiled run) (.tld moving 1)) 0x1000 [1#8, 2#8]), 0, 1#32, 0x10#8, moving, 1, [],
    { ty := 0, len := 64, trailer := 0, rows := 4, base := 0 }, by decide, by decide, by decide, by decide, by decide,
    by decide, by decide, by decide⟩⟩

theorem witness_TileStoreWritesRows :
    ∃ (s : State) (e : Fin 4) (seq : Word) (opc : Byte) (c : TileMove) (rest : List InFlight) (t : TileShape), s.inRun = true ∧
      (s.me e.val).inflight = ⟨seq, opc, .tst c, false⟩ :: rest ∧ (s.me e.val).shape c.tile = some t ∧ t.stride ≤ c.stride ∧
      Memory.wf s.mem.mem = true ∧ (∀ k ≤ c.count, (s.me e.val).rowValid c.tile (c.row + k) = true ∧ (s.me e.val).poolError
      (t.base + (c.row + k) * t.stride) t.stride = none) :=
  ⟨(flying (tiled run) (.tst moving)), 0, 1#32, 0x10#8, moving, [], { ty := 0, len := 64, trailer := 0, rows := 4, base := 0 },
    by decide, by decide, by decide, by decide, by decide, by decide⟩

theorem witness_TileConfiguration :
    (∃ (s : State) (e : Fin 4) (c : QueueCmd) (mask : Word) (table : Nat), MeReady s e 0x20 c ∧ mask = BitVec.ofNat 32 (fld 63
      32 (c.reg 0)) ∧ table = fld 31 0 (c.reg 1) ∧ c.regs.length = 2 ∧ fld 31 8 (c.reg 0) = 0 ∧ fld 63 32 (c.reg 1) = 0 ∧ table
      % 128 = 0 ∧ table + 128 ≤ 0x200000 ∧ (s.me e.val).memSettled = false) ∧
    (∃ (s : State) (e : Fin 4) (c : QueueCmd) (mask : Word) (table : Nat), MeReady s e 0x20 c ∧ mask = BitVec.ofNat 32 (fld 63
      32 (c.reg 0)) ∧ table = fld 31 0 (c.reg 1) ∧ c.regs.length = 2 ∧ fld 31 8 (c.reg 0) = 0 ∧ fld 63 32 (c.reg 1) = 0 ∧ table
      % 128 = 0 ∧ table + 128 ≤ 0x200000 ∧ (s.me e.val).memSettled = true ∧ s.may 0x51 .loc false = true ∧ s.mem.badIn table 128
      = none) ∧
    (∃ (s : State) (e : Fin 4) (seq : Word) (mask : Word) (opc : Byte) (op : MeOp) (table : List Word) (rest : List InFlight),
      s.inRun = true ∧ (s.me e.val).inflight = ⟨seq, opc, op, false⟩ :: rest ∧ (op = .tcfg mask table ∨ ∃ addr, op = .tcfgWait
      mask addr ∧ s.may 0x51 .loc false = true ∧ s.mem.badIn addr 128 = none ∧ table = (List.range 32).map fun i => BitVec.ofNat
      32 (s.mem.mem.readLE (addr + 4 * i) 4)) ∧ ConfigConsistent mask (newDescriptors (s.me e.val) mask table)) ∧
    (∃ (s : State) (e : Fin 4) (seq : Word) (mask : Word) (opc : Byte) (op : MeOp) (table : List Word) (rest : List InFlight),
      s.inRun = true ∧ (s.me e.val).inflight = ⟨seq, opc, op, false⟩ :: rest ∧ (op = .tcfg mask table ∨ ∃ addr, op = .tcfgWait
      mask addr ∧ s.may 0x51 .loc false = true ∧ s.mem.badIn addr 128 = none ∧ table = (List.range 32).map fun i => BitVec.ofNat
      32 (s.mem.mem.readLE (addr + 4 * i) 4)) ∧ ¬ ConfigConsistent mask (newDescriptors (s.me e.val) mask table)) ∧
    (∃ (s : State) (e : Fin 4) (c : QueueCmd), MeReady s e 0x21 c ∧ c.regs.length = 1 ∧ fld 31 8 (c.reg 0) = 0 ∧ (s.me
      e.val).drained (fld 63 32 (c.reg 0)) = true) ∧
    (∃ (s : State) (e : Fin 4) (c : QueueCmd), MeReady s e 0x21 c ∧ c.regs.length = 1 ∧ fld 31 8 (c.reg 0) = 0 ∧ (s.me
      e.val).drained (fld 63 32 (c.reg 0)) = false) ∧
    (∃ (s : State) (e : Fin 4) (seq : Word) (mask : Word) (opc : Byte), s.pending = [] ∧ s.pins.alive = true ∧ (s.nc + 1) % 2 =
      0 ∧ (s.me e.val).inflight = [⟨seq, opc, .trel mask, false⟩] ∧ (∀ j, j ≠ e.val → (s.me j).inflight = [])) :=
  ⟨⟨(storing (queued 0 [0xffffffff00000020#64, 0x80#64])), 0, ⟨[0xffffffff00000020#64, 0x80#64], 1#32⟩, _, _,
    meReady (by decide), rfl, rfl, by decide, by decide, by decide, by decide, by decide, by decide⟩,
   ⟨(queued 0 [0xffffffff00000020#64, 0x80#64]), 0, ⟨[0xffffffff00000020#64, 0x80#64], 1#32⟩, _, _, meReady (by decide), rfl,
    rfl, by decide, by decide, by decide, by decide, by decide, by decide, by decide, by decide⟩,
   ⟨(flying run (.tcfg 4#32 oneTile)), 0, 1#32, 4#32, 0x10#8, (.tcfg 4#32 oneTile), oneTile, [], by decide, by decide,
    Or.inl rfl, oneTile_consistent _ rfl⟩,
   ⟨(flying run (.tcfg 4#32 [0#32, 0#32, 1#32])), 0, 1#32, 4#32, 0x10#8, (.tcfg 4#32 [0#32, 0#32, 1#32]), [0#32, 0#32, 1#32],
    [], by decide, by decide, Or.inl rfl, fun h => absurd (h.1 2 (by decide) (by decide) (by decide)) (by decide)⟩,
   ⟨(tiled (queued 0 [0x300000021#64])), 0, ⟨[0x300000021#64], 1#32⟩, meReady (by decide), by decide, by decide, by decide⟩,
   ⟨(tiled (queued 0 [0x300000021#64])).onMe 0 fun m => { m with inflight := [⟨0#32, 0x22#8, .tld moving 0, false⟩] }, 0,
    ⟨[0x300000021#64], 1#32⟩, meReady (by decide), by decide, by decide, by decide⟩,
   ⟨{ flying (tiled run) (.trel 2#32) with nc := 1 }, 0, 1#32, 2#32, 0x10#8, by decide, by decide, by decide, by decide,
    onlyEngine (by decide)⟩⟩

theorem witness_WeightCommandsTaken :
    (∃ (s : State) (e : Fin 4) (c : QueueCmd) (t : TileShape) (cls : ClassTag) (table : List FVal) (xtab : Option Nat) (w : Nat)
      (x : Nat), MeReady s e 0x11 c ∧ (ldwChecks s e c).verdict = none ∧ (s.me e.val).shape (fld 12 8 (c.reg 0)) = some t ∧ (cls
      = (if t.ty = 9 ∨ t.ty = 10 then (if fld 28 27 (c.reg 0) < 2 then .h else .f8) else inputClass t.ty)) ∧ w = (if fld 28 27
      (c.reg 0) < 2 then 2 else 1) ∧ x = fld 31 0 (c.reg 1) ∧ (t.ty ≠ 10 → table = [] ∧ xtab = none) ∧ (t.ty = 10 → (s.me
      e.val).memSettled = false → table = [] ∧ xtab = some x) ∧ (t.ty = 10 → (s.me e.val).memSettled = true → s.mem.badIn x (16
      * w) = none ∧ xtab = none ∧ table = (List.range 16).map fun i => (expandFmt (fld 28 27 (c.reg 0))).decode
      (s.mem.mem.readLE (x + i * w) w))) ∧
    (∃ (s : State) (e : Fin 4) (c : QueueCmd), MeReady s e 0x12 c ∧ c.regs.length = 1 ∧ fld 63 8 (c.reg 0) = 0 ∧ ¬ ((s.me
      e.val).queueTags.1.1.full = true ∧ (s.me e.val).queueTags.2.1.full = true)) ∧
    (∃ (s : State) (e : Fin 4) (c : QueueCmd), MeReady s e 0x12 c ∧ c.regs.length = 1 ∧ fld 63 8 (c.reg 0) = 0 ∧ (s.me
      e.val).queueTags.1.1.full = true ∧ (s.me e.val).queueTags.2.1.full = true) :=
  ⟨⟨(tiled (queued 0 [0xc0111#64])), 0, ⟨[0xc0111#64], 1#32⟩, { ty := 0, len := 64, trailer := 0, rows := 4, base := 0 }, _, [],
    none, _, _, meReady (by decide), by decide, by decide, rfl, rfl, rfl, fun _ => ⟨rfl, rfl⟩, fun h => absurd h (by decide),
    fun h => absurd h (by decide)⟩,
   ⟨(queued 0 [0x12#64]), 0, ⟨[0x12#64], 1#32⟩, meReady (by decide), by decide, by decide, by decide⟩,
   ⟨(queued 0 [0x12#64]).onMe 0 fun m => { m with queueTags := ((.s32, 1#5), (.s32, 1#5)) }, 0, ⟨[0x12#64], 1#32⟩,
    meReady (by decide), by decide, by decide, by decide, by decide⟩⟩

theorem witness_WeightSetsChange :
    (∃ (s : State) (e : Fin 4) (seq : Word) (opc : Byte) (c : LdwCmd) (done : Nat) (rest : List InFlight) (t : TileShape) (table
      : List FVal) (vs : List FVal) (rows : List (Nat × List FVal)) (total : Nat) (w : Nat), s.inRun = true ∧ (s.me
      e.val).inflight = ⟨seq, opc, .ldw c done, false⟩ :: rest ∧ (s.me e.val).shape c.tile = some t ∧ (done ≤ c.count → (s.me
      e.val).rowError t c.tile (c.row + done) (t.slice (c.off * 16) (c.tag.loadSlice t.ty)) = none) ∧ Tbl.wf [] (s.me
      e.val).shadow.rows = true ∧ Tbl.wf [] (s.me e.val).active.rows = true ∧ w = (if c.xf < 2 then 2 else 1) ∧ (c.xtab = none →
      table = c.table) ∧ (∀ a, c.xtab = some a → s.may 0x51 .loc false = true ∧ s.mem.badIn a (16 * w) = none ∧ table =
      (List.range 16).map fun i => (expandFmt c.xf).decode (s.mem.mem.readLE (a + i * w) w)) ∧ (done ≤ c.count → vs =
      weightElems t.ty c.xf table t.len ((s.me e.val).rowBytes t c.tile (c.row + done)) (c.off * 16) (c.tag.loadSlice t.ty)) ∧
      (c.count < done → vs = []) ∧ (rows = (if c.tag = .f8 ∨ c.tag = .i8 then [(2 * done, vs.take 32), (2 * done + 1, vs.drop
      32)] else [(done, vs)])) ∧ total = (if c.tag = .w64 then 16 else 32)) ∧
    (∃ (s : State) (e : Fin 4) (seq : Word) (opc : Byte) (c : LdwCmd) (done : Nat) (rest : List InFlight) (t : TileShape) (table
      : List FVal) (vs : List FVal) (rows : List (Nat × List FVal)) (total : Nat) (w : Nat), s.inRun = true ∧ (s.me
      e.val).inflight = ⟨seq, opc, .ldw c done, false⟩ :: rest ∧ (s.me e.val).shape c.tile = some t ∧ (done ≤ c.count → (s.me
      e.val).rowError t c.tile (c.row + done) (t.slice (c.off * 16) (c.tag.loadSlice t.ty)) = none) ∧ Tbl.wf [] (s.me
      e.val).shadow.rows = true ∧ Tbl.wf [] (s.me e.val).active.rows = true ∧ w = (if c.xf < 2 then 2 else 1) ∧ (c.xtab = none →
      table = c.table) ∧ (∀ a, c.xtab = some a → s.may 0x51 .loc false = true ∧ s.mem.badIn a (16 * w) = none ∧ table =
      (List.range 16).map fun i => (expandFmt c.xf).decode (s.mem.mem.readLE (a + i * w) w)) ∧ (done ≤ c.count → vs =
      weightElems t.ty c.xf table t.len ((s.me e.val).rowBytes t c.tile (c.row + done)) (c.off * 16) (c.tag.loadSlice t.ty)) ∧
      (c.count < done → vs = []) ∧ (rows = (if c.tag = .f8 ∨ c.tag = .i8 then [(2 * done, vs.take 32), (2 * done + 1, vs.drop
      32)] else [(done, vs)])) ∧ total = (if c.tag = .w64 then 16 else 32)) ∧
    (∃ (s : State) (e : Fin 4) (seq : Word) (opc : Byte) (c : LdwCmd) (done : Nat) (rest : List InFlight) (t : TileShape) (table
      : List FVal) (vs : List FVal) (rows : List (Nat × List FVal)) (total : Nat) (w : Nat), s.inRun = true ∧ (s.me
      e.val).inflight = ⟨seq, opc, .ldw c done, false⟩ :: rest ∧ (s.me e.val).shape c.tile = some t ∧ (done ≤ c.count → (s.me
      e.val).rowError t c.tile (c.row + done) (t.slice (c.off * 16) (c.tag.loadSlice t.ty)) = none) ∧ Tbl.wf [] (s.me
      e.val).shadow.rows = true ∧ Tbl.wf [] (s.me e.val).active.rows = true ∧ w = (if c.xf < 2 then 2 else 1) ∧ (c.xtab = none →
      table = c.table) ∧ (∀ a, c.xtab = some a → s.may 0x51 .loc false = true ∧ s.mem.badIn a (16 * w) = none ∧ table =
      (List.range 16).map fun i => (expandFmt c.xf).decode (s.mem.mem.readLE (a + i * w) w)) ∧ (done ≤ c.count → vs =
      weightElems t.ty c.xf table t.len ((s.me e.val).rowBytes t c.tile (c.row + done)) (c.off * 16) (c.tag.loadSlice t.ty)) ∧
      (c.count < done → vs = []) ∧ (rows = (if c.tag = .f8 ∨ c.tag = .i8 then [(2 * done, vs.take 32), (2 * done + 1, vs.drop
      32)] else [(done, vs)])) ∧ total = (if c.tag = .w64 then 16 else 32)) ∧
    (∃ (s : State) (e : Fin 4) (seq : Word) (opc : Byte) (c : LdwCmd) (done : Nat) (rest : List InFlight) (t : TileShape) (table
      : List FVal) (vs : List FVal) (rows : List (Nat × List FVal)) (total : Nat) (w : Nat), s.inRun = true ∧ (s.me
      e.val).inflight = ⟨seq, opc, .ldw c done, false⟩ :: rest ∧ (s.me e.val).shape c.tile = some t ∧ (done ≤ c.count → (s.me
      e.val).rowError t c.tile (c.row + done) (t.slice (c.off * 16) (c.tag.loadSlice t.ty)) = none) ∧ Tbl.wf [] (s.me
      e.val).shadow.rows = true ∧ Tbl.wf [] (s.me e.val).active.rows = true ∧ w = (if c.xf < 2 then 2 else 1) ∧ (c.xtab = none →
      table = c.table) ∧ (∀ a, c.xtab = some a → s.may 0x51 .loc false = true ∧ s.mem.badIn a (16 * w) = none ∧ table =
      (List.range 16).map fun i => (expandFmt c.xf).decode (s.mem.mem.readLE (a + i * w) w)) ∧ (done ≤ c.count → vs =
      weightElems t.ty c.xf table t.len ((s.me e.val).rowBytes t c.tile (c.row + done)) (c.off * 16) (c.tag.loadSlice t.ty)) ∧
      (c.count < done → vs = []) ∧ (rows = (if c.tag = .f8 ∨ c.tag = .i8 then [(2 * done, vs.take 32), (2 * done + 1, vs.drop
      32)] else [(done, vs)])) ∧ total = (if c.tag = .w64 then 16 else 32)) ∧
    (∃ (s : State) (e : Fin 4) (seq : Word) (opc : Byte) (rest : List InFlight), s.inRun = true ∧ (s.me e.val).inflight = ⟨seq,
      opc, .swap, false⟩ :: rest) ∧
    (∃ (s : State) (e : Fin 4) (seq : Word) (opc : Byte) (entered : Nat) (rest : List InFlight), s.pending = [] ∧ s.pins.alive =
      true ∧ (s.nc + 1) % 2 = 0 ∧ entered + 63 ≤ (s.nc + 1) / 2 ∧ (s.me e.val).inflight = ⟨seq, opc, .token entered, false⟩ ::
      rest ∧ (∀ x ∈ rest, ∀ b m, x.op ≠ .token b ∧ x.op ≠ .trel m) ∧ (∀ j, j ≠ e.val → (s.me j).inflight = [])) :=
  ⟨⟨(flying (tiled run) (.ldw { xf := 0, off := 0, count := 3, row := 0, tile := 1, tag := .h, table := [], clears := false }
    0)), 0, 1#32, 0x10#8, { xf := 0, off := 0, count := 3, row := 0, tile := 1, tag := .h, table := [], clears := false }, 0,
    [], { ty := 0, len := 64, trailer := 0, rows := 4, base := 0 }, [], (weightElems 0 0 [] 64 (((flying (tiled run) (.ldw
    { xf := 0, off := 0, count := 3, row := 0, tile := 1, tag := .h, table := [], clears := false } 0)).me 0).rowBytes
    { ty := 0, len := 64, trailer := 0, rows := 4, base := 0 } 1 0) 0 (ClassTag.loadSlice .h 0)), _, _, _, by decide, by decide,
    by decide, by decide, by decide, by decide, rfl, fun _ => rfl, (by intro a h; cases h), fun _ => rfl,
    fun h => absurd h (by decide), rfl, rfl⟩,
   ⟨(flying (tiled run) (.ldw { xf := 0, off := 0, count := 3, row := 0, tile := 1, tag := .h, table := [], clears := false }
    31)), 0, 1#32, 0x10#8, { xf := 0, off := 0, count := 3, row := 0, tile := 1, tag := .h, table := [], clears := false }, 31,
    [], { ty := 0, len := 64, trailer := 0, rows := 4, base := 0 }, [], [], _, _, _, by decide, by decide, by decide, by decide,
    by decide, by decide, rfl, fun _ => rfl, (by intro a h; cases h), fun h => absurd h (by decide), fun _ => rfl, rfl, rfl⟩,
   ⟨(flying (tiled run) (.ldw { xf := 0, off := 0, count := 3, row := 0, tile := 1, tag := .w64, table := [], clears := true }
    15)), 0, 1#32, 0x10#8, { xf := 0, off := 0, count := 3, row := 0, tile := 1, tag := .w64, table := [], clears := true }, 15,
    [], { ty := 0, len := 64, trailer := 0, rows := 4, base := 0 }, [], [], _, _, _, by decide, by decide, by decide, by decide,
    by decide, by decide, rfl, fun _ => rfl, (by intro a h; cases h), fun h => absurd h (by decide), fun _ => rfl, rfl, rfl⟩,
   ⟨(flying (tiled run) (.ldw { xf := 0, off := 0, count := 3, row := 0, tile := 1, tag := .s32, table := [], clears := false }
    31)), 0, 1#32, 0x10#8, { xf := 0, off := 0, count := 3, row := 0, tile := 1, tag := .s32, table := [], clears := false },
    31, [], { ty := 0, len := 64, trailer := 0, rows := 4, base := 0 }, [], [], _, _, _, by decide, by decide, by decide,
    by decide, by decide, by decide, rfl, fun _ => rfl, (by intro a h; cases h), fun h => absurd h (by decide), fun _ => rfl,
    rfl, rfl⟩,
   ⟨(flying run .swap), 0, 1#32, 0x10#8, [], by decide, by decide⟩,
   ⟨{ flying run (.token 0) with nc := 125 }, 0, 1#32, 0x10#8, 0, [], by decide, by decide, by decide, by decide, by decide,
    fun x h => absurd h List.not_mem_nil, onlyEngine (by decide)⟩⟩

theorem witness_ArrayCommandsTaken :
    (∃ (s : State) (e : Fin 4) (c : QueueCmd) (t : TileShape) (tag : ClassTag), MeReady s e 0x10 c ∧ (mmChecks (s.me e.val)
      c).verdict = none ∧ (s.me e.val).shape (fld 12 8 (c.reg 0)) = some t ∧ tag = (s.me e.val).queueTags.1.1) ∧
    (∃ (s : State) (e : Fin 4) (c : QueueCmd) (tag : ClassTag) (cls : ClassTag), MeReady s e 0x13 c ∧ (s.me e.val).memSettled =
      true ∧ s.mem.bad = [] ∧ (mmsChecks s e c (s.mem.mem.readBytes (fld 31 0 (c.reg 1)) 64) (s.mem.mem.readBytes (fld 63 32
      (c.reg 1)) 32)).verdict = none ∧ fld 31 0 (c.reg 1) + 64 ≤ 0x200000 ∧ fld 63 32 (c.reg 1) + 32 ≤ 0x200000 ∧ tag = (s.me
      e.val).queueTags.1.1 ∧ cls = (if tag = .none then inputClass (s.mem.mem.readLE (fld 31 0 (c.reg 1) + 5) 1) else tag)) ∧
    (∃ (s : State) (e : Fin 4) (c : QueueCmd), MeReady s e 0x14 c ∧ (s.me e.val).memSettled = false) ∧
    (∃ (s : State) (e : Fin 4) (c : QueueCmd), MeReady s e 0x14 c ∧ (s.me e.val).memSettled = true ∧ s.mem.bad = [] ∧ fld 31 0
      (c.reg 1) + 32 ≤ 0x200000 ∧ (acvtChecks s e c (s.mem.mem.readBytes (fld 31 0 (c.reg 1)) 32)).verdict = none) :=
  ⟨⟨(tiled (queued 0 [0x8000c0110#64])), 0, ⟨[0x8000c0110#64], 1#32⟩,
    { ty := 0, len := 64, trailer := 0, rows := 4, base := 0 }, _, meReady (by decide), by decide, by decide, rfl⟩,
   ⟨(queued 0 [0x313#64, 0x10000000200#64, 0x4000001000#64]), 0, ⟨[0x313#64, 0x10000000200#64, 0x4000001000#64], 1#32⟩, _, _,
    meReady (by decide), by decide, by decide, by decide, by decide, by decide, rfl, rfl⟩,
   ⟨(storing (queued 0 [0x8014#64, 0x100#64, 0x4000001000#64])), 0, ⟨[0x8014#64, 0x100#64, 0x4000001000#64], 1#32⟩,
    meReady (by decide), by decide⟩,
   ⟨(queued 0 [0x8014#64, 0x100#64, 0x4000001000#64]), 0, ⟨[0x8014#64, 0x100#64, 0x4000001000#64], 1#32⟩, meReady (by decide),
    by decide, by decide, by decide, by decide⟩⟩

theorem witness_MatrixRowAccumulates :
    (∃ (s : State) (e : Fin 4) (seq : Word) (opc : Byte) (c : MmCmd) (cls : ClassTag) (done : Nat) (rest : List InFlight) (t :
      TileShape) (out : List FVal) (gated : Nat), s.inRun = true ∧ (s.me e.val).inflight = ⟨seq, opc, .mm c cls done, false⟩ ::
      rest ∧ (s.me e.val).shape c.tile = some t ∧ (s.me e.val).rowError t c.tile (c.row + done) (t.slice (c.off * 16)
      (cls.inSlice c.trans)) = none ∧ Memory.wf (s.me e.val).acc = true ∧ rowOutputs ⟨cls, c.spl, c.strict, c.trans⟩ (s.me
      e.val).weights (sliceElems t.ty ((((s.me e.val).rowBytes t c.tile (c.row + done)).drop (c.off * 16)).take (cls.inSlice
      c.trans)) (((s.me e.val).rowBytes t c.tile (c.row + done)).drop (t.len + c.off / 2))) (if c.zero then [] else (s.me
      e.val).getOutputs cls.accFmt c.acc (c.arow + done) (c.trans && cls.narrow)) = (out, gated)) ∧
    (∃ (s : State) (e : Fin 4) (seq : Word) (opc : Byte) (c : MmCmd) (cls : ClassTag) (done : Nat) (rest : List InFlight) (t :
      TileShape) (out : List FVal) (gated : Nat), s.inRun = true ∧ (s.me e.val).inflight = ⟨seq, opc, .mm c cls done, false⟩ ::
      rest ∧ (s.me e.val).shape c.tile = some t ∧ (s.me e.val).rowError t c.tile (c.row + done) (t.slice (c.off * 16)
      (cls.inSlice c.trans)) = none ∧ Memory.wf (s.me e.val).acc = true ∧ rowOutputs ⟨cls, c.spl, c.strict, c.trans⟩ (s.me
      e.val).weights (sliceElems t.ty ((((s.me e.val).rowBytes t c.tile (c.row + done)).drop (c.off * 16)).take (cls.inSlice
      c.trans)) (((s.me e.val).rowBytes t c.tile (c.row + done)).drop (t.len + c.off / 2))) (if c.zero then [] else (s.me
      e.val).getOutputs cls.accFmt c.acc (c.arow + done) (c.trans && cls.narrow)) = (out, gated)) :=
  ⟨⟨(flying (tiled run) (.mm {
      spl := false, strict := false, zero := true, trans := false, arow := 0, acc := 0, off := 0, count := 1, row := 0, tile :=
      1 } .h 0)), 0, 1#32, 0x10#8, {
      spl := false, strict := false, zero := true, trans := false, arow := 0, acc := 0, off := 0, count := 1, row := 0, tile :=
      1 }, .h, 0, [], { ty := 0, len := 64, trailer := 0, rows := 4, base := 0 }, (rowOutputs ⟨.h, false, false, false⟩ ((flying
    (tiled run) (.mm {
      spl := false, strict := false, zero := true, trans := false, arow := 0, acc := 0, off := 0, count := 1, row := 0, tile :=
      1 } .h 0)).me 0).weights (sliceElems 0 (((((flying (tiled run) (.mm {
      spl := false, strict := false, zero := true, trans := false, arow := 0, acc := 0, off := 0, count := 1, row := 0, tile :=
      1 } .h 0)).me 0).rowBytes { ty := 0, len := 64, trailer := 0, rows := 4, base := 0 } 1 0).drop 0).take 64) ((((flying
    (tiled run) (.mm {
      spl := false, strict := false, zero := true, trans := false, arow := 0, acc := 0, off := 0, count := 1, row := 0, tile :=
      1 } .h 0)).me 0).rowBytes { ty := 0, len := 64, trailer := 0, rows := 4, base := 0 } 1 0).drop 64)) []).1, (rowOutputs
    ⟨.h, false, false, false⟩ ((flying (tiled run) (.mm {
      spl := false, strict := false, zero := true, trans := false, arow := 0, acc := 0, off := 0, count := 1, row := 0, tile :=
      1 } .h 0)).me 0).weights (sliceElems 0 (((((flying (tiled run) (.mm {
      spl := false, strict := false, zero := true, trans := false, arow := 0, acc := 0, off := 0, count := 1, row := 0, tile :=
      1 } .h 0)).me 0).rowBytes { ty := 0, len := 64, trailer := 0, rows := 4, base := 0 } 1 0).drop 0).take 64) ((((flying
    (tiled run) (.mm {
      spl := false, strict := false, zero := true, trans := false, arow := 0, acc := 0, off := 0, count := 1, row := 0, tile :=
      1 } .h 0)).me 0).rowBytes { ty := 0, len := 64, trailer := 0, rows := 4, base := 0 } 1 0).drop 64)) []).2, by decide,
    by decide, by decide, by decide, by decide, rfl⟩,
   ⟨(flying (tiled run) (.mm {
      spl := false, strict := false, zero := true, trans := false, arow := 0, acc := 0, off := 0, count := 1, row := 0, tile :=
      1 } .h 1)), 0, 1#32, 0x10#8, {
      spl := false, strict := false, zero := true, trans := false, arow := 0, acc := 0, off := 0, count := 1, row := 0, tile :=
      1 }, .h, 1, [], { ty := 0, len := 64, trailer := 0, rows := 4, base := 0 }, (rowOutputs ⟨.h, false, false, false⟩ ((flying
    (tiled run) (.mm {
      spl := false, strict := false, zero := true, trans := false, arow := 0, acc := 0, off := 0, count := 1, row := 0, tile :=
      1 } .h 1)).me 0).weights (sliceElems 0 (((((flying (tiled run) (.mm {
      spl := false, strict := false, zero := true, trans := false, arow := 0, acc := 0, off := 0, count := 1, row := 0, tile :=
      1 } .h 1)).me 0).rowBytes { ty := 0, len := 64, trailer := 0, rows := 4, base := 0 } 1 1).drop 0).take 64) ((((flying
    (tiled run) (.mm {
      spl := false, strict := false, zero := true, trans := false, arow := 0, acc := 0, off := 0, count := 1, row := 0, tile :=
      1 } .h 1)).me 0).rowBytes { ty := 0, len := 64, trailer := 0, rows := 4, base := 0 } 1 1).drop 64)) []).1, (rowOutputs
    ⟨.h, false, false, false⟩ ((flying (tiled run) (.mm {
      spl := false, strict := false, zero := true, trans := false, arow := 0, acc := 0, off := 0, count := 1, row := 0, tile :=
      1 } .h 1)).me 0).weights (sliceElems 0 (((((flying (tiled run) (.mm {
      spl := false, strict := false, zero := true, trans := false, arow := 0, acc := 0, off := 0, count := 1, row := 0, tile :=
      1 } .h 1)).me 0).rowBytes { ty := 0, len := 64, trailer := 0, rows := 4, base := 0 } 1 1).drop 0).take 64) ((((flying
    (tiled run) (.mm {
      spl := false, strict := false, zero := true, trans := false, arow := 0, acc := 0, off := 0, count := 1, row := 0, tile :=
      1 } .h 1)).me 0).rowBytes { ty := 0, len := 64, trailer := 0, rows := 4, base := 0 } 1 1).drop 64)) []).2, by decide,
    by decide, by decide, by decide, by decide, rfl⟩⟩

theorem witness_ConversionWritesGroup :
    (∃ (s : State) (e : Fin 4) (seq : Word) (opc : Byte) (c : AcvtCmd) (h : Nat) (crc : DWord) (crc' : DWord) (rest : List
      InFlight) (out : List (List Byte)) (counts : Counts) (extra : Option (Nat × Byte)), s.inRun = true ∧ (s.me e.val).inflight
      = ⟨seq, opc, .acvt c h none crc, false⟩ :: rest ∧ convertGroup c.ocd h 0 ((List.range (c.count + 1)).map fun r => (s.me
      e.val).getOutputs (if c.f64 then .fp64 else .fp32) c.acc (c.arow + r) c.wide) = (out, counts) ∧ (extra = (if c.ocd.adj = 0
      ∨ (6 ≤ c.ocd.otype ∧ c.ocd.otype ≤ 8) then none else some (c.ocd.adj, BitVec.ofNat 8 h))) ∧ crc' = crc64 crc (out.flatten
      ++ [BitVec.ofNat 8 h]) ∧ Tbl.wf 0#64 s.digests.val = true ∧ Tbl.wf 0#32 s.digests.cnt = true ∧ Memory.wf s.mem.mem = true
      ∧ c.ocd.sthr < counts.sat ∧ h < c.ocd.retry) ∧
    (∃ (s : State) (e : Fin 4) (seq : Word) (opc : Byte) (c : AcvtCmd) (h : Nat) (crc : DWord) (crc' : DWord) (rest : List
      InFlight) (out : List (List Byte)) (counts : Counts) (extra : Option (Nat × Byte)), s.inRun = true ∧ (s.me e.val).inflight
      = ⟨seq, opc, .acvt c h none crc, false⟩ :: rest ∧ convertGroup c.ocd h 0 ((List.range (c.count + 1)).map fun r => (s.me
      e.val).getOutputs (if c.f64 then .fp64 else .fp32) c.acc (c.arow + r) c.wide) = (out, counts) ∧ (extra = (if c.ocd.adj = 0
      ∨ (6 ≤ c.ocd.otype ∧ c.ocd.otype ≤ 8) then none else some (c.ocd.adj, BitVec.ofNat 8 h))) ∧ crc' = crc64 crc (out.flatten
      ++ [BitVec.ofNat 8 h]) ∧ Tbl.wf 0#64 s.digests.val = true ∧ Tbl.wf 0#32 s.digests.cnt = true ∧ Memory.wf s.mem.mem = true
      ∧ (counts.sat ≤ c.ocd.sthr ∨ c.ocd.retry ≤ h)) ∧
    (∃ (s : State) (e : Fin 4) (seq : Word) (opc : Byte) (c : AcvtCmd) (h : Nat) (row : Nat) (crc : DWord) (rest : List
      InFlight) (bs : List Byte) (rows : List (List Byte)) (t : TileShape), s.inRun = true ∧ (s.me e.val).inflight = ⟨seq, opc,
      .acvt c h (some (bs :: rows, row)) crc, false⟩ :: rest ∧ (s.me e.val).shape c.dtile = some t ∧ bs.length = t.stride ∧
      c.dtile < 32 ∧ row < 32 ∧ Memory.wf (s.me e.val).pool = true ∧ Tbl.wf 0#64 s.digests.val = true ∧ Tbl.wf 0#32
      s.digests.cnt = true) ∧
    (∃ (s : State) (e : Fin 4) (seq : Word) (opc : Byte) (c : MmsCmd) (cls : ClassTag) (done : Nat) (g : Nat) (h : Nat) (n :
      Nat) (crc : DWord) (crc' : DWord) (ahead : List (List FVal)) (rest : List InFlight) (out : List (List Byte)) (counts :
      Counts) (extra : Option (Nat × Byte)), s.inRun = true ∧ (s.me e.val).inflight = ⟨seq, opc, .mms c cls done g h crc ahead,
      false⟩ :: rest ∧ n = min 32 (c.count + 1 - 32 * g) ∧ 32 * g + n ≤ done ∧ convertGroup c.ocd h (32 * g) ((List.range n).map
      fun r => (s.me e.val).getOutputs cls.accFmt (mmsStage c cls g) r (c.trans && cls.narrow)) = (out, counts) ∧ (extra = (if
      c.ocd.adj = 0 ∨ (6 ≤ c.ocd.otype ∧ c.ocd.otype ≤ 8) then none else some (c.ocd.adj + g, BitVec.ofNat 8 h))) ∧ crc' = crc64
      crc (out.flatten ++ [BitVec.ofNat 8 h]) ∧ Tbl.wf 0#64 s.digests.val = true ∧ Tbl.wf 0#32 s.digests.cnt = true ∧ Memory.wf
      s.mem.mem = true ∧ c.ocd.sthr < counts.sat ∧ h < c.ocd.retry) ∧
    (∃ (s : State) (e : Fin 4) (seq : Word) (opc : Byte) (c : MmsCmd) (cls : ClassTag) (done : Nat) (g : Nat) (h : Nat) (n :
      Nat) (crc : DWord) (crc' : DWord) (ahead : List (List FVal)) (rest : List InFlight) (out : List (List Byte)) (counts :
      Counts) (extra : Option (Nat × Byte)), s.inRun = true ∧ (s.me e.val).inflight = ⟨seq, opc, .mms c cls done g h crc ahead,
      false⟩ :: rest ∧ n = min 32 (c.count + 1 - 32 * g) ∧ 32 * g + n ≤ done ∧ convertGroup c.ocd h (32 * g) ((List.range n).map
      fun r => (s.me e.val).getOutputs cls.accFmt (mmsStage c cls g) r (c.trans && cls.narrow)) = (out, counts) ∧ (extra = (if
      c.ocd.adj = 0 ∨ (6 ≤ c.ocd.otype ∧ c.ocd.otype ≤ 8) then none else some (c.ocd.adj + g, BitVec.ofNat 8 h))) ∧ crc' = crc64
      crc (out.flatten ++ [BitVec.ofNat 8 h]) ∧ Tbl.wf 0#64 s.digests.val = true ∧ Tbl.wf 0#32 s.digests.cnt = true ∧ Memory.wf
      s.mem.mem = true ∧ (counts.sat ≤ c.ocd.sthr ∨ c.ocd.retry ≤ h) ∧ s.may 0x51 .loc true = true ∧ (∀ r row, out[r]? = some
      row → c.dst + (32 * g + r) * c.dstride + row.length ≤ 0x200000) ∧ (∀ p, extra = some p → p.1 < 0x200000)) :=
  ⟨⟨(large (flying run (.acvt (plainAcvt 1 0x800 false) 0 none 0#64))), 0, 1#32, 0x10#8, (plainAcvt 1 0x800 false), 0, 0#64, _,
    [], (convertGroup (plainOcd 1 0x800) 0 0 ((List.range 2).map fun r => ((large (flying run (.acvt (plainAcvt 1 0x800 false) 0
    none 0#64))).me 0).getOutputs .fp32 0 (0 + r) false)).1, (convertGroup (plainOcd 1 0x800) 0 0 ((List.range 2).map fun r =>
    ((large (flying run (.acvt (plainAcvt 1 0x800 false) 0 none 0#64))).me 0).getOutputs .fp32 0 (0 + r) false)).2, _,
    by decide, by decide, rfl, rfl, rfl, by decide, by decide, by decide, by decide, by decide⟩,
   ⟨(flying run (.acvt (plainAcvt 0 0x800 false) 0 none 0#64)), 0, 1#32, 0x10#8, (plainAcvt 0 0x800 false), 0, 0#64, _, [],
    (convertGroup (plainOcd 0 0x800) 0 0 ((List.range 2).map fun r => ((flying run (.acvt (plainAcvt 0 0x800 false) 0 none
    0#64)).me 0).getOutputs .fp32 0 (0 + r) false)).1, (convertGroup (plainOcd 0 0x800) 0 0 ((List.range 2).map fun r =>
    ((flying run (.acvt (plainAcvt 0 0x800 false) 0 none 0#64)).me 0).getOutputs .fp32 0 (0 + r) false)).2, _, by decide,
    by decide, rfl, rfl, rfl, by decide, by decide, by decide, by decide⟩,
   ⟨(flying (tiled run) (.acvt (plainAcvt 0 0 true) 0 (some ([(List.replicate 64 7#8)], 3)) 0#64)), 0, 1#32, 0x10#8, (plainAcvt
    0 0 true), 0, 3, 0#64, [], (List.replicate 64 7#8), [], { ty := 0, len := 64, trailer := 0, rows := 4, base := 0 },
    by decide, by decide, by decide, by decide, by decide, by decide, by decide, by decide, by decide⟩,
   ⟨(large (flying run (.mms (plainMms 1 0x800) .h 2 0 0 0#64 []))), 0, 1#32, 0x10#8, (plainMms 1 0x800), .h, 2, 0, 0, _, 0#64,
    _, [], [], (convertGroup (plainOcd 1 0x800) 0 0 ((List.range 2).map fun r => ((large (flying run (.mms (plainMms 1 0x800) .h
    2 0 0 0#64 []))).me 0).getOutputs .fp32 0 r false)).1, (convertGroup (plainOcd 1 0x800) 0 0 ((List.range 2).map fun r =>
    ((large (flying run (.mms (plainMms 1 0x800) .h 2 0 0 0#64 []))).me 0).getOutputs .fp32 0 r false)).2, _, by decide,
    by decide, rfl, by decide, rfl, rfl, rfl, by decide, by decide, by decide, by decide, by decide⟩,
   ⟨(flying run (.mms (plainMms 0 0x800) .h 2 0 0 0#64 [])), 0, 1#32, 0x10#8, (plainMms 0 0x800), .h, 2, 0, 0, _, 0#64, _, [],
    [], (convertGroup (plainOcd 0 0x800) 0 0 ((List.range 2).map fun r => ((flying run (.mms (plainMms 0 0x800) .h 2 0 0 0#64
    [])).me 0).getOutputs .fp32 0 r false)).1, (convertGroup (plainOcd 0 0x800) 0 0 ((List.range 2).map fun r => ((flying run
    (.mms (plainMms 0 0x800) .h 2 0 0 0#64 [])).me 0).getOutputs .fp32 0 r false)).2, _, by decide, by decide, rfl, by decide,
    rfl, rfl, rfl, by decide, by decide, by decide, by decide, by decide, rowsFit (by decide), byteFits (by decide)⟩⟩

theorem witness_VectorCommandsTaken :
    (∃ (s : State) (c : QueueCmd) (v : VopFields) (d : VCmd), s.head 4 = some c ∧ s.ve.inflight = [] ∧ v = vopFields c.regs ∧ d
      = vopCmd v ∧ c.opc = 0x40 ∧ vopFieldsBad v = false ∧ d.bad = false ∧ d.denied s = false) ∧
    (∃ (s : State) (c : QueueCmd) (v : VopFields) (d : VCmd), s.head 4 = some c ∧ s.ve.inflight = [] ∧ v = vopFields c.regs ∧ d
      = vopCmd v ∧ c.opc = 0x40 ∧ (vopFieldsBad v = true ∨ d.bad = true)) ∧
    (∃ (s : State) (c : QueueCmd) (v : VopFields) (d : VCmd), s.head 4 = some c ∧ s.ve.inflight = [] ∧ v = vopFields c.regs ∧ d
      = vopCmd v ∧ c.opc = 0x40 ∧ vopFieldsBad v = false ∧ d.bad = false ∧ d.denied s = true) ∧
    (∃ (s : State) (c : QueueCmd) (a : Nat), s.head 4 = some c ∧ s.ve.inflight = [] ∧ a = fld 63 32 (c.reg 0) ∧ c.opc = 0x41 ∧
      c.regs.length = 1 ∧ fld 31 11 (c.reg 0) = 0 ∧ a % 128 = 0 ∧ a + 128 ≤ 0x200000 ∧ s.may 0x51 .loc false = true) ∧
    (∃ (s : State) (c : QueueCmd) (a : Nat), s.head 4 = some c ∧ s.ve.inflight = [] ∧ a = fld 63 32 (c.reg 0) ∧ c.opc = 0x41 ∧
      (c.regs.length ≠ 1 ∨ fld 31 11 (c.reg 0) ≠ 0 ∨ a % 128 ≠ 0 ∨ 0x200000 < a + 128)) ∧
    (∃ (s : State) (c : QueueCmd) (a : Nat), s.head 4 = some c ∧ s.ve.inflight = [] ∧ a = fld 63 32 (c.reg 0) ∧ c.opc = 0x41 ∧
      c.regs.length = 1 ∧ fld 31 11 (c.reg 0) = 0 ∧ a % 128 = 0 ∧ a + 128 ≤ 0x200000 ∧ s.may 0x51 .loc false = false) ∧
    (∃ (s : State) (c : QueueCmd) (v : VopFields) (img : List Byte) (d : VCmd), s.head 4 = some c ∧ s.ve.inflight = [] ∧ v =
      vopFields c.regs ∧ img = s.ve.image (v.func % 8) ∧ d = vepCmd img v ∧ c.opc = 0x42 ∧ vepFieldsBad s.ve img v = false ∧
      d.bad = false ∧ d.denied s = false) ∧
    (∃ (s : State) (c : QueueCmd) (v : VopFields) (img : List Byte) (d : VCmd), s.head 4 = some c ∧ s.ve.inflight = [] ∧ v =
      vopFields c.regs ∧ img = s.ve.image (v.func % 8) ∧ d = vepCmd img v ∧ c.opc = 0x42 ∧ (vepFieldsBad s.ve img v = true ∨
      d.bad = true)) ∧
    (∃ (s : State) (c : QueueCmd) (v : VopFields) (img : List Byte) (d : VCmd), s.head 4 = some c ∧ s.ve.inflight = [] ∧ v =
      vopFields c.regs ∧ img = s.ve.image (v.func % 8) ∧ d = vepCmd img v ∧ c.opc = 0x42 ∧ vepFieldsBad s.ve img v = false ∧
      d.bad = false ∧ d.denied s = true) ∧
    (∃ (s : State) (c : QueueCmd) (v : VredFields) (d : VCmd), s.head 4 = some c ∧ s.ve.inflight = [] ∧ v = vredFields c.regs ∧
      d = vredCmd v ∧ c.opc = 0x43 ∧ vredBad c v = false ∧ d.bad = false ∧ d.denied s = false ∧ s.may 0x51 .loc true = true) ∧
    (∃ (s : State) (c : QueueCmd) (v : VredFields) (d : VCmd), s.head 4 = some c ∧ s.ve.inflight = [] ∧ v = vredFields c.regs ∧
      d = vredCmd v ∧ c.opc = 0x43 ∧ (vredBad c v = true ∨ d.bad = true)) ∧
    (∃ (s : State) (c : QueueCmd) (v : VredFields) (d : VCmd), s.head 4 = some c ∧ s.ve.inflight = [] ∧ v = vredFields c.regs ∧
      d = vredCmd v ∧ c.opc = 0x43 ∧ vredBad c v = false ∧ d.bad = false ∧ (d.denied s = true ∨ s.may 0x51 .loc true = false))
      :=
  ⟨⟨(queued 4 [0x4050102f00040#64]), ⟨[0x4050102f00040#64], 1#32⟩, _, _, by decide, by decide, rfl, rfl, by decide, by decide,
    by decide, by decide⟩,
   ⟨(queued 4 [0x4050102e00040#64]), ⟨[0x4050102e00040#64], 1#32⟩, _, _, by decide, by decide, rfl, rfl, by decide, by decide⟩,
   ⟨(barred (queued 4 [0x4050182f00040#64, 0x100#64])), ⟨[0x4050182f00040#64, 0x100#64], 1#32⟩, _, _, by decide, by decide, rfl,
    rfl, by decide, by decide, by decide, by decide⟩,
   ⟨(queued 4 [0x1fff8000000041#64]), ⟨[0x1fff8000000041#64], 1#32⟩, _, by decide, by decide, rfl, by decide, by decide,
    by decide, by decide, by decide, by decide⟩,
   ⟨(queued 4 [0x1fffc000000041#64]), ⟨[0x1fffc000000041#64], 1#32⟩, _, by decide, by decide, rfl, by decide, by decide⟩,
   ⟨(barred (queued 4 [0x1fff8000000041#64])), ⟨[0x1fff8000000041#64], 1#32⟩, _, by decide, by decide, rfl, by decide,
    by decide, by decide, by decide, by decide, by decide⟩,
   ⟨{ queued 4 [0x400010ff00042#64] with ve := { run.ve with pvalid := 1#8, progs := Memory.writeBytes [] 0 progImage } },
    ⟨[0x400010ff00042#64], 1#32⟩, _, _, _, by decide, by decide, rfl, rfl, rfl, by decide, by decide, by decide, by decide⟩,
   ⟨(queued 4 [0x400010ff00042#64]), ⟨[0x400010ff00042#64], 1#32⟩, _, _, _, by decide, by decide, rfl, rfl, rfl, by decide,
    by decide⟩,
   ⟨(barred { queued 4 [0x400018ff00042#64, 0x100#64] with
      ve := { run.ve with pvalid := 1#8, progs := Memory.writeBytes [] 0 progImage } }), ⟨[0x400018ff00042#64, 0x100#64], 1#32⟩,
    _, _, _, by decide, by decide, rfl, rfl, rfl, by decide, by decide, by decide, by decide⟩,
   ⟨(queued 4 [0x4000000000043#64, 0x10000000000#64]), ⟨[0x4000000000043#64, 0x10000000000#64], 1#32⟩, _, _, by decide,
    by decide, rfl, rfl, by decide, by decide, by decide, by decide, by decide⟩,
   ⟨(queued 4 [0x4000300000043#64, 0x10000000000#64]), ⟨[0x4000300000043#64, 0x10000000000#64], 1#32⟩, _, _, by decide,
    by decide, rfl, rfl, by decide, by decide⟩,
   ⟨(barred (queued 4 [0x4000000000043#64, 0x10000000000#64])), ⟨[0x4000000000043#64, 0x10000000000#64], 1#32⟩, _, _, by decide,
    by decide, rfl, rfl, by decide, by decide, by decide, by decide⟩⟩

theorem witness_VectorResultsWritten :
    (∃ (s : State) (x : VeCmd) (rest : List VeCmd) (op : Nat) (v : VopFields) (a : Nat → Nat) (b : Nat → Nat) (c : Nat → Nat)
      (idx : Nat → Nat), s.inRun = true ∧ s.ve.inflight = x :: rest ∧ x.old = false ∧ s.mem.bad = [] ∧ op = (x.regs.getD 0
      0#64).toNat % 256 ∧ Tbl.wf 0#32 s.ve.vregs = true ∧ Memory.wf s.mem.mem = true ∧ Memory.wf s.ve.progs = true ∧ op = 0x40 ∧
      v = vopFields x.regs ∧ vopFieldsBad v = false ∧ (vopCmd v).bad = false ∧ a = vecOperand s v.a v.aaddr v.ty.size v.k ∧ b =
      vecOperand s v.b v.baddr v.ty.size v.k ∧ c = vecOperand s v.c v.caddr v.ty.size v.k ∧ idx = vecOperand s v.b v.baddr 4 v.k
      ∧ v.func ≠ 0x39 ∧ v.func ≠ 0x3A) ∧
    (∃ (s : State) (x : VeCmd) (rest : List VeCmd) (op : Nat) (v : VopFields) (a : Nat → Nat) (b : Nat → Nat) (c : Nat → Nat)
      (idx : Nat → Nat), s.inRun = true ∧ s.ve.inflight = x :: rest ∧ x.old = false ∧ s.mem.bad = [] ∧ op = (x.regs.getD 0
      0#64).toNat % 256 ∧ Tbl.wf 0#32 s.ve.vregs = true ∧ Memory.wf s.mem.mem = true ∧ Memory.wf s.ve.progs = true ∧ op = 0x40 ∧
      v = vopFields x.regs ∧ vopFieldsBad v = false ∧ (vopCmd v).bad = false ∧ a = vecOperand s v.a v.aaddr v.ty.size v.k ∧ b =
      vecOperand s v.b v.baddr v.ty.size v.k ∧ c = vecOperand s v.c v.caddr v.ty.size v.k ∧ idx = vecOperand s v.b v.baddr 4 v.k
      ∧ v.func = 0x39) ∧
    (∃ (s : State) (x : VeCmd) (rest : List VeCmd) (op : Nat) (v : VopFields) (a : Nat → Nat) (b : Nat → Nat) (c : Nat → Nat)
      (idx : Nat → Nat), s.inRun = true ∧ s.ve.inflight = x :: rest ∧ x.old = false ∧ s.mem.bad = [] ∧ op = (x.regs.getD 0
      0#64).toNat % 256 ∧ Tbl.wf 0#32 s.ve.vregs = true ∧ Memory.wf s.mem.mem = true ∧ Memory.wf s.ve.progs = true ∧ op = 0x40 ∧
      v = vopFields x.regs ∧ vopFieldsBad v = false ∧ (vopCmd v).bad = false ∧ a = vecOperand s v.a v.aaddr v.ty.size v.k ∧ b =
      vecOperand s v.b v.baddr v.ty.size v.k ∧ c = vecOperand s v.c v.caddr v.ty.size v.k ∧ idx = vecOperand s v.b v.baddr 4 v.k
      ∧ v.func = 0x3A) ∧
    (∃ (s : State) (x : VeCmd) (rest : List VeCmd) (op : Nat) (v : VopFields) (a : Nat → Nat) (b : Nat → Nat) (c : Nat → Nat)
      (idx : Nat → Nat), s.inRun = true ∧ s.ve.inflight = x :: rest ∧ x.old = false ∧ s.mem.bad = [] ∧ op = (x.regs.getD 0
      0#64).toNat % 256 ∧ Tbl.wf 0#32 s.ve.vregs = true ∧ Memory.wf s.mem.mem = true ∧ Memory.wf s.ve.progs = true ∧ op = 0x40 ∧
      v = vopFields x.regs ∧ vopFieldsBad v = false ∧ (vopCmd v).bad = false ∧ a = vecOperand s v.a v.aaddr v.ty.size v.k ∧ b =
      vecOperand s v.b v.baddr v.ty.size v.k ∧ c = vecOperand s v.c v.caddr v.ty.size v.k ∧ idx = vecOperand s v.b v.baddr 4 v.k
      ∧ v.func ≠ 0x39 ∧ v.func ≠ 0x3A) ∧
    (∃ (s : State) (x : VeCmd) (rest : List VeCmd) (op : Nat) (addr : Nat) (slot : Nat) (img : List Byte), s.inRun = true ∧
      s.ve.inflight = x :: rest ∧ x.old = false ∧ s.mem.bad = [] ∧ op = (x.regs.getD 0 0#64).toNat % 256 ∧ Tbl.wf 0#32
      s.ve.vregs = true ∧ Memory.wf s.mem.mem = true ∧ Memory.wf s.ve.progs = true ∧ op = 0x41 ∧ addr = fld 63 32 (x.regs.getD 0
      0#64).toNat ∧ slot = fld 10 8 (x.regs.getD 0 0#64).toNat ∧ img = s.mem.mem.readBytes addr 128 ∧ progBad img = false) ∧
    (∃ (s : State) (x : VeCmd) (rest : List VeCmd) (op : Nat) (addr : Nat) (slot : Nat) (img : List Byte), s.inRun = true ∧
      s.ve.inflight = x :: rest ∧ x.old = false ∧ s.mem.bad = [] ∧ op = (x.regs.getD 0 0#64).toNat % 256 ∧ Tbl.wf 0#32
      s.ve.vregs = true ∧ Memory.wf s.mem.mem = true ∧ Memory.wf s.ve.progs = true ∧ op = 0x41 ∧ addr = fld 63 32 (x.regs.getD 0
      0#64).toNat ∧ slot = fld 10 8 (x.regs.getD 0 0#64).toNat ∧ img = s.mem.mem.readBytes addr 128 ∧ progBad img = true) ∧
    (∃ (s : State) (x : VeCmd) (rest : List VeCmd) (op : Nat) (v : VopFields) (img : List Byte) (ins : Nat → Nat → Nat), s.inRun
      = true ∧ s.ve.inflight = x :: rest ∧ x.old = false ∧ s.mem.bad = [] ∧ op = (x.regs.getD 0 0#64).toNat % 256 ∧ Tbl.wf 0#32
      s.ve.vregs = true ∧ Memory.wf s.mem.mem = true ∧ Memory.wf s.ve.progs = true ∧ op = 0x42 ∧ v = vopFields x.regs ∧ img =
      s.ve.image (v.func % 8) ∧ vepFieldsBad s.ve img v = false ∧ (vepCmd img v).bad = false ∧ ins = (fun i j => vecOperand s
      ([v.a, v.b, v.c].getD j 15) ([v.aaddr, v.baddr, v.caddr].getD j 0) (VType.of (leAt img (72 + j) 1)).size 0 i)) ∧
    (∃ (s : State) (x : VeCmd) (rest : List VeCmd) (op : Nat) (v : VredFields) (c : QueueCmd), s.inRun = true ∧ s.ve.inflight =
      x :: rest ∧ x.old = false ∧ s.mem.bad = [] ∧ op = (x.regs.getD 0 0#64).toNat % 256 ∧ Tbl.wf 0#32 s.ve.vregs = true ∧
      Memory.wf s.mem.mem = true ∧ Memory.wf s.ve.progs = true ∧ op = 0x43 ∧ v = vredFields x.regs ∧ c.regs = x.regs ∧ vredBad c
      v = false ∧ (vredCmd v).bad = false) ∧
    (∃ (s : State) (x : VeCmd) (rest : List VeCmd) (op : Nat) (v : VredFields) (c : QueueCmd), s.inRun = true ∧ s.ve.inflight =
      x :: rest ∧ x.old = false ∧ s.mem.bad = [] ∧ op = (x.regs.getD 0 0#64).toNat % 256 ∧ Tbl.wf 0#32 s.ve.vregs = true ∧
      Memory.wf s.mem.mem = true ∧ Memory.wf s.ve.progs = true ∧ op = 0x43 ∧ v = vredFields x.regs ∧ c.regs = x.regs ∧ vredBad c
      v = false ∧ (vredCmd v).bad = false) ∧
    (∃ (s : State) (x : VeCmd) (rest : List VeCmd) (op : Nat) (v : VredFields) (c : QueueCmd), s.inRun = true ∧ s.ve.inflight =
      x :: rest ∧ x.old = false ∧ s.mem.bad = [] ∧ op = (x.regs.getD 0 0#64).toNat % 256 ∧ Tbl.wf 0#32 s.ve.vregs = true ∧
      Memory.wf s.mem.mem = true ∧ Memory.wf s.ve.progs = true ∧ op = 0x43 ∧ v = vredFields x.regs ∧ c.regs = x.regs ∧ vredBad c
      v = false ∧ (vredCmd v).bad = false) ∧
    (∃ (s : State) (x : VeCmd) (rest : List VeCmd) (op : Nat) (v : VredFields) (c : QueueCmd), s.inRun = true ∧ s.ve.inflight =
      x :: rest ∧ x.old = false ∧ s.mem.bad = [] ∧ op = (x.regs.getD 0 0#64).toNat % 256 ∧ Tbl.wf 0#32 s.ve.vregs = true ∧
      Memory.wf s.mem.mem = true ∧ Memory.wf s.ve.progs = true ∧ op = 0x43 ∧ v = vredFields x.regs ∧ c.regs = x.regs ∧ vredBad c
      v = false ∧ (vredCmd v).bad = false) ∧
    (∃ (s : State) (x : VeCmd) (rest : List VeCmd) (op : Nat) (v : VredFields) (c : QueueCmd), s.inRun = true ∧ s.ve.inflight =
      x :: rest ∧ x.old = false ∧ s.mem.bad = [] ∧ op = (x.regs.getD 0 0#64).toNat % 256 ∧ Tbl.wf 0#32 s.ve.vregs = true ∧
      Memory.wf s.mem.mem = true ∧ Memory.wf s.ve.progs = true ∧ op = 0x43 ∧ v = vredFields x.regs ∧ c.regs = x.regs ∧ vredBad c
      v = false ∧ (vredCmd v).bad = false) :=
  ⟨⟨(vecRun [0x4050102f00040#64]),
    { regs := [0x4050102f00040#64], seq := 1#32, seed := 0#64, step := 0#32, hid := 0#32, old := false }, [], _, _, _, _, _, _,
    by decide, by decide, by decide, by decide, rfl, by decide, by decide, by decide, rfl, rfl, by decide, by decide, rfl, rfl,
    rfl, rfl, by decide, by decide⟩,
   ⟨(vecRun [0x4e50182f00040#64, 0x100#64, 0x0#64, 0x4#64]), {
      regs := [0x4e50182f00040#64, 0x100#64, 0x0#64, 0x4#64], seq := 1#32, seed := 0#64, step := 0#32, hid := 0#32, old := false
      }, [], _, _, _, _, _, _, by decide, by decide, by decide, by decide, rfl, by decide, by decide, by decide, rfl, rfl,
    by decide, by decide, rfl, rfl, rfl, rfl, by decide⟩,
   ⟨(vecRun [0x4e90802f00040#64, 0x0#64, 0x10000000000#64, 0x4#64]), {
      regs := [0x4e90802f00040#64, 0x0#64, 0x10000000000#64, 0x4#64], seq := 1#32, seed := 0#64, step := 0#32, hid := 0#32, old
      := false }, [], _, _, _, _, _, _, by decide, by decide, by decide, by decide, rfl, by decide, by decide, by decide, rfl,
    rfl, by decide, by decide, rfl, rfl, rfl, rfl, by decide⟩,
   ⟨(vecRun [0x405c802f00040#64, 0x0#64, 0x10000000000#64]), {
      regs := [0x405c802f00040#64, 0x0#64, 0x10000000000#64], seq := 1#32, seed := 0#64, step := 0#32, hid := 0#32, old := false
      }, [], _, _, _, _, _, _, by decide, by decide, by decide, by decide, rfl, by decide, by decide, by decide, rfl, rfl,
    by decide, by decide, rfl, rfl, rfl, rfl, by decide, by decide⟩,
   ⟨(withBytes (vecRun [0x8000000741#64]) 0x80 progImage),
    { regs := [0x8000000741#64], seq := 1#32, seed := 0#64, step := 0#32, hid := 0#32, old := false }, [], _, _, _, _,
    by decide, by decide, by decide, by decide, rfl, by decide, by decide, by decide, rfl, rfl, rfl, rfl, by decide⟩,
   ⟨(vecRun [0x8000000741#64]),
    { regs := [0x8000000741#64], seq := 1#32, seed := 0#64, step := 0#32, hid := 0#32, old := false }, [], _, _, _, _,
    by decide, by decide, by decide, by decide, rfl, by decide, by decide, by decide, rfl, rfl, rfl, rfl, by decide⟩,
   ⟨(vecRun [0x400010ff00042#64]),
    { regs := [0x400010ff00042#64], seq := 1#32, seed := 0#64, step := 0#32, hid := 0#32, old := false }, [], _, _, _, _,
    by decide, by decide, by decide, by decide, rfl, by decide, by decide, by decide, rfl, rfl, rfl, by decide, by decide, rfl⟩,
   ⟨(vecRun [0x4000200000043#64, 0x10000000000#64]),
    { regs := [0x4000200000043#64, 0x10000000000#64], seq := 1#32, seed := 0#64, step := 0#32, hid := 0#32, old := false }, [],
    _, _, ⟨[0x4000200000043#64, 0x10000000000#64], 1#32⟩, by decide, by decide, by decide, by decide, rfl, by decide, by decide,
    by decide, rfl, rfl, by decide, by decide, by decide⟩,
   ⟨(vecRun [0x4000200400043#64, 0x10000000000#64]),
    { regs := [0x4000200400043#64, 0x10000000000#64], seq := 1#32, seed := 0#64, step := 0#32, hid := 0#32, old := false }, [],
    _, _, ⟨[0x4000200400043#64, 0x10000000000#64], 1#32⟩, by decide, by decide, by decide, by decide, rfl, by decide, by decide,
    by decide, rfl, rfl, by decide, by decide, by decide⟩,
   ⟨(vecRun [0x4000200800043#64, 0x10000000000#64]),
    { regs := [0x4000200800043#64, 0x10000000000#64], seq := 1#32, seed := 0#64, step := 0#32, hid := 0#32, old := false }, [],
    _, _, ⟨[0x4000200800043#64, 0x10000000000#64], 1#32⟩, by decide, by decide, by decide, by decide, rfl, by decide, by decide,
    by decide, rfl, rfl, by decide, by decide, by decide⟩,
   ⟨(vecRun [0x4000200c00043#64, 0x10000000000#64]),
    { regs := [0x4000200c00043#64, 0x10000000000#64], seq := 1#32, seed := 0#64, step := 0#32, hid := 0#32, old := false }, [],
    _, _, ⟨[0x4000200c00043#64, 0x10000000000#64], 1#32⟩, by decide, by decide, by decide, by decide, rfl, by decide, by decide,
    by decide, rfl, rfl, by decide, by decide, by decide⟩,
   ⟨(vecRun [0x4000201000043#64, 0x10000000000#64]),
    { regs := [0x4000201000043#64, 0x10000000000#64], seq := 1#32, seed := 0#64, step := 0#32, hid := 0#32, old := false }, [],
    _, _, ⟨[0x4000201000043#64, 0x10000000000#64], 1#32⟩, by decide, by decide, by decide, by decide, rfl, by decide, by decide,
    by decide, rfl, rfl, by decide, by decide, by decide⟩⟩

theorem witness_VectorIntegersWrapOrClamp :
    ∃ (w : Nat) (a : Nat) (b : Nat), w ∈ [8, 16, 32] ∧ a < 2 ^ w ∧ b < 2 ^ w :=
  ⟨8, 0x7F, 0x81, by decide, by decide, by decide⟩

theorem witness_GroupSumsIgnoreOrder :
    ∃ (ps : List FVal) (qs : List FVal), ps.Perm qs :=
  ⟨[.fin false 1 20, .fin true 3 (-31), .fin true 1 20, .fin false 5 0], [.fin true 1 20, .fin false 5 0, .fin true 3 (-31),
    .fin false 1 20], by decide⟩

theorem witness_FiniteElementsRoundTrip :
    ∃ (f : Fmt) (x : Nat), f ∈ [Fmt.bf16, Fmt.fp16, Fmt.fp32, Fmt.fp64, Fmt.e4m3, Fmt.e5m2] ∧ x < 2 ^ (f.man + f.exp + 1) ∧
      Val.isFinite (f.decode x) = true :=
  ⟨Fmt.bf16, 0x3F81, by decide, by decide, by decide⟩

theorem witness_StreamCommandsActOnContext :
    (∃ (s : State) (c : QueueCmd) (i : Nat) (x : StreamCtx) (bad : Prop), s.head5 = some c ∧ i = cmdCtx c ∧ x = s.ctx i ∧ Tbl.wf
      StreamCtx.idle s.se.ctxs = true ∧ c.opc = 0x60 ∧ (bad ↔ (c.regs.length < 2 ∨ 3072 ≤ i ∨ fld 40 20 (c.reg 0) ≠ 0 ∨ fld 63
      48 (c.reg 0) = 0 ∨ c.reg 1 % 32 ≠ 0 ∨ isEndpoint (c.reg 1) = false)) ∧ ¬ bad ∧ 64 ≤ i ∧ x.state ∈ [.idle, .done, .fault])
      ∧
    (∃ (s : State) (c : QueueCmd) (i : Nat) (x : StreamCtx) (bad : Prop), s.head5 = some c ∧ i = cmdCtx c ∧ x = s.ctx i ∧ Tbl.wf
      StreamCtx.idle s.se.ctxs = true ∧ c.opc = 0x60 ∧ (bad ↔ (c.regs.length < 2 ∨ 3072 ≤ i ∨ fld 40 20 (c.reg 0) ≠ 0 ∨ fld 63
      48 (c.reg 0) = 0 ∨ c.reg 1 % 32 ≠ 0 ∨ isEndpoint (c.reg 1) = false)) ∧ bad) ∧
    (∃ (s : State) (c : QueueCmd) (i : Nat) (x : StreamCtx) (bad : Prop), s.head5 = some c ∧ i = cmdCtx c ∧ x = s.ctx i ∧ Tbl.wf
      StreamCtx.idle s.se.ctxs = true ∧ c.opc = 0x60 ∧ (bad ↔ (c.regs.length < 2 ∨ 3072 ≤ i ∨ fld 40 20 (c.reg 0) ≠ 0 ∨ fld 63
      48 (c.reg 0) = 0 ∨ c.reg 1 % 32 ≠ 0 ∨ isEndpoint (c.reg 1) = false)) ∧ ¬ bad ∧ i < 64) ∧
    (∃ (s : State) (c : QueueCmd) (i : Nat) (x : StreamCtx) (bad : Prop), s.head5 = some c ∧ i = cmdCtx c ∧ x = s.ctx i ∧ Tbl.wf
      StreamCtx.idle s.se.ctxs = true ∧ c.opc = 0x60 ∧ (bad ↔ (c.regs.length < 2 ∨ 3072 ≤ i ∨ fld 40 20 (c.reg 0) ≠ 0 ∨ fld 63
      48 (c.reg 0) = 0 ∨ c.reg 1 % 32 ≠ 0 ∨ isEndpoint (c.reg 1) = false)) ∧ ¬ bad ∧ 64 ≤ i ∧ x.state ∈ [.running, .pageHalt,
      .paused]) ∧
    (∃ (s : State) (c : QueueCmd) (i : Nat) (x : StreamCtx) (bad : Prop), s.head5 = some c ∧ i = cmdCtx c ∧ x = s.ctx i ∧ Tbl.wf
      StreamCtx.idle s.se.ctxs = true ∧ c.opc = 0x61 ∧ (bad ↔ (c.regs.length ≠ 3 ∨ 3072 ≤ i ∨ fld 63 20 (c.reg 0) ≠ 0)) ∧ ¬ bad
      ∧ 64 ≤ i ∧ x.pers = true ∧ x.state = .done) ∧
    (∃ (s : State) (c : QueueCmd) (i : Nat) (x : StreamCtx) (bad : Prop), s.head5 = some c ∧ i = cmdCtx c ∧ x = s.ctx i ∧ Tbl.wf
      StreamCtx.idle s.se.ctxs = true ∧ c.opc = 0x61 ∧ (bad ↔ (c.regs.length ≠ 3 ∨ 3072 ≤ i ∨ fld 63 20 (c.reg 0) ≠ 0)) ∧ ¬ bad
      ∧ 64 ≤ i ∧ x.pers = true ∧ x.state ∈ [.running, .pageHalt]) ∧
    (∃ (s : State) (c : QueueCmd) (i : Nat) (x : StreamCtx) (bad : Prop), s.head5 = some c ∧ i = cmdCtx c ∧ x = s.ctx i ∧ Tbl.wf
      StreamCtx.idle s.se.ctxs = true ∧ c.opc = 0x61 ∧ (bad ↔ (c.regs.length ≠ 3 ∨ 3072 ≤ i ∨ fld 63 20 (c.reg 0) ≠ 0)) ∧ ¬ bad
      ∧ i < 64) ∧
    (∃ (s : State) (c : QueueCmd) (i : Nat) (x : StreamCtx) (bad : Prop), s.head5 = some c ∧ i = cmdCtx c ∧ x = s.ctx i ∧ Tbl.wf
      StreamCtx.idle s.se.ctxs = true ∧ c.opc = 0x61 ∧ (bad ↔ (c.regs.length ≠ 3 ∨ 3072 ≤ i ∨ fld 63 20 (c.reg 0) ≠ 0)) ∧ (bad ∨
      (64 ≤ i ∧ (x.pers = false ∨ x.state ∈ [.idle, .fault, .paused])))) ∧
    (∃ (s : State) (c : QueueCmd) (i : Nat) (x : StreamCtx) (bad : Prop), s.head5 = some c ∧ i = cmdCtx c ∧ x = s.ctx i ∧ Tbl.wf
      StreamCtx.idle s.se.ctxs = true ∧ c.opc = 0x62 ∧ (bad ↔ (c.regs.length ≠ 1 ∨ 3072 ≤ i ∨ fld 63 20 (c.reg 0) ≠ 0)) ∧ ¬ bad
      ∧ 64 ≤ i ∧ s.se.outOf i = [] ∧ x.state ∉ [.idle, .paused]) ∧
    (∃ (s : State) (c : QueueCmd) (i : Nat) (x : StreamCtx) (bad : Prop), s.head5 = some c ∧ i = cmdCtx c ∧ x = s.ctx i ∧ Tbl.wf
      StreamCtx.idle s.se.ctxs = true ∧ c.opc = 0x62 ∧ (bad ↔ (c.regs.length ≠ 1 ∨ 3072 ≤ i ∨ fld 63 20 (c.reg 0) ≠ 0)) ∧ ¬ bad
      ∧ 64 ≤ i ∧ s.se.outOf i ≠ [] ∧ x.state ∉ [.idle, .paused]) ∧
    (∃ (s : State) (c : QueueCmd) (i : Nat) (x : StreamCtx) (bad : Prop), s.head5 = some c ∧ i = cmdCtx c ∧ x = s.ctx i ∧ Tbl.wf
      StreamCtx.idle s.se.ctxs = true ∧ c.opc = 0x62 ∧ (bad ↔ (c.regs.length ≠ 1 ∨ 3072 ≤ i ∨ fld 63 20 (c.reg 0) ≠ 0)) ∧ ¬ bad
      ∧ 64 ≤ i ∧ x.state ∈ [.idle, .paused]) ∧
    (∃ (s : State) (c : QueueCmd) (i : Nat) (x : StreamCtx) (bad : Prop), s.head5 = some c ∧ i = cmdCtx c ∧ x = s.ctx i ∧ Tbl.wf
      StreamCtx.idle s.se.ctxs = true ∧ c.opc = 0x62 ∧ (bad ↔ (c.regs.length ≠ 1 ∨ 3072 ≤ i ∨ fld 63 20 (c.reg 0) ≠ 0)) ∧ ¬ bad
      ∧ i < 64) ∧
    (∃ (s : State) (c : QueueCmd) (i : Nat) (x : StreamCtx) (bad : Prop), s.head5 = some c ∧ i = cmdCtx c ∧ x = s.ctx i ∧ Tbl.wf
      StreamCtx.idle s.se.ctxs = true ∧ c.opc = 0x62 ∧ (bad ↔ (c.regs.length ≠ 1 ∨ 3072 ≤ i ∨ fld 63 20 (c.reg 0) ≠ 0)) ∧ bad)
      :=
  ⟨⟨(queued 5 [0x20200000bff60#64, 0x400#64, 0x10#64, 0x20#64]), ⟨[0x20200000bff60#64, 0x400#64, 0x10#64, 0x20#64], 1#32⟩, _, _,
    _, by decide, rfl, rfl, by decide, by decide, Iff.rfl, by decide, by decide, by decide⟩,
   ⟨(queued 5 [0x20200000c0060#64, 0x400#64, 0x10#64, 0x20#64]), ⟨[0x20200000c0060#64, 0x400#64, 0x10#64, 0x20#64], 1#32⟩, _, _,
    _, by decide, rfl, rfl, by decide, by decide, Iff.rfl, by decide⟩,
   ⟨(queued 5 [0x2020000003f60#64, 0x400#64, 0x10#64, 0x20#64]), ⟨[0x2020000003f60#64, 0x400#64, 0x10#64, 0x20#64], 1#32⟩, _, _,
    _, by decide, rfl, rfl, by decide, by decide, Iff.rfl, by decide, by decide⟩,
   ⟨(queued 5 [0x2020000004060#64, 0x400#64, 0x10#64, 0x20#64]).onCtx 64 fun c => { c with state := .paused },
    ⟨[0x2020000004060#64, 0x400#64, 0x10#64, 0x20#64], 1#32⟩, _, _, _, by decide, rfl, rfl, by decide, by decide, Iff.rfl,
    by decide, by decide, by decide⟩,
   ⟨(queued 5 [0x4061#64, 0x10#64, 0x20#64]).onCtx 64 fun c => { c with state := .done, pers := true, nblk := 1 }, ⟨[0x4061#64,
    0x10#64, 0x20#64], 1#32⟩, _, _, _, by decide, rfl, rfl, by decide, by decide, Iff.rfl, by decide, by decide, by decide,
    by decide⟩,
   ⟨(queued 5 [0x4061#64, 0x10#64, 0x20#64]).onCtx 64 fun c => { c with state := .running, pers := true, nblk := 1 },
    ⟨[0x4061#64, 0x10#64, 0x20#64], 1#32⟩, _, _, _, by decide, rfl, rfl, by decide, by decide, Iff.rfl, by decide, by decide,
    by decide, by decide⟩,
   ⟨(queued 5 [0x3f61#64, 0x10#64, 0x20#64]), ⟨[0x3f61#64, 0x10#64, 0x20#64], 1#32⟩, _, _, _, by decide, rfl, rfl, by decide,
    by decide, Iff.rfl, by decide, by decide⟩,
   ⟨(queued 5 [0x4061#64, 0x10#64, 0x20#64]).onCtx 64 fun c => { c with state := .done, nblk := 1 }, ⟨[0x4061#64, 0x10#64,
    0x20#64], 1#32⟩, _, _, _, by decide, rfl, rfl, by decide, by decide, Iff.rfl, by decide⟩,
   ⟨(queued 5 [0x4062#64]).onCtx 64 fun c => { c with state := .running, nblk := 1, iblk := 1, delivered := 7#32 },
    ⟨[0x4062#64], 1#32⟩, _, _, _, by decide, rfl, rfl, by decide, by decide, Iff.rfl, by decide, by decide, by decide,
    by decide⟩,
   ⟨{ queued 5 [0x4062#64] with se := { (streaming false).se with wait := none } }, ⟨[0x4062#64], 1#32⟩, _, _, _, by decide,
    rfl, rfl, by decide, by decide, Iff.rfl, by decide, by decide, by decide, by decide⟩,
   ⟨(queued 5 [0x4062#64]), ⟨[0x4062#64], 1#32⟩, _, _, _, by decide, rfl, rfl, by decide, by decide, Iff.rfl, by decide,
    by decide, by decide⟩,
   ⟨(queued 5 [0x3f62#64]), ⟨[0x3f62#64], 1#32⟩, _, _, _, by decide, rfl, rfl, by decide, by decide, Iff.rfl, by decide,
    by decide⟩,
   ⟨(queued 5 [0xc0062#64]), ⟨[0xc0062#64], 1#32⟩, _, _, _, by decide, rfl, rfl, by decide, by decide, Iff.rfl, by decide⟩⟩

theorem witness_StreamIssuesLocalTransfer :
    (∃ (s : State) (id : Nat) (d : BlockDesc) (off : Nat) (src : Nat) (dst : Nat) (left : Nat) (len : Nat) (x : Xfer),
      StreamServed s id d ∧ off = (s.ctx id).ioff ∧ PieceAt s id d off src dst left ∧ s.mem.bad = [] ∧ Tbl.wf StreamCtx.idle
      s.se.ctxs = true ∧ clearOf (s.se.outOf id) src dst len d.zero = true ∧ x = {
        ctx := id, blk := (s.ctx id).iblk, off := off, len := len, src := BitVec.ofNat 64 src, dst := BitVec.ofNat 64 dst, zero
        := d.zero, tag := none, volat := false, ord := 0, faddr := 0, data := [] } ∧ isSys src = false ∧ isSys dst = false ∧
      d.zero = false ∧ len = min left (256 - dst % 256) ∧ s.may 0x52 .loc false = true ∧ s.may 0x52 .loc true = true) ∧
    (∃ (s : State) (id : Nat) (d : BlockDesc) (off : Nat) (src : Nat) (dst : Nat) (left : Nat) (len : Nat) (x : Xfer),
      StreamServed s id d ∧ off = (s.ctx id).ioff ∧ PieceAt s id d off src dst left ∧ s.mem.bad = [] ∧ Tbl.wf StreamCtx.idle
      s.se.ctxs = true ∧ clearOf (s.se.outOf id) src dst len d.zero = true ∧ x = {
        ctx := id, blk := (s.ctx id).iblk, off := off, len := len, src := BitVec.ofNat 64 src, dst := BitVec.ofNat 64 dst, zero
        := d.zero, tag := none, volat := false, ord := 0, faddr := 0, data := [] } ∧ isSys dst = false ∧ d.zero = true ∧ len =
      min left (256 - dst % 256) ∧ s.may 0x52 .loc true = true) ∧
    (∃ (s : State) (id : Nat) (d : BlockDesc) (off : Nat) (src : Nat) (dst : Nat) (left : Nat) (len : Nat) (x : Xfer) (a : Nat)
      (page : Nat) (t : Nat), StreamServed s id d ∧ off = (s.ctx id).ioff ∧ PieceAt s id d off src dst left ∧ s.mem.bad = [] ∧
      Tbl.wf StreamCtx.idle s.se.ctxs = true ∧ clearOf (s.se.outOf id) src dst len d.zero = true ∧ x = {
        ctx := id, blk := (s.ctx id).iblk, off := off, len := len, src := BitVec.ofNat 64 src, dst := BitVec.ofNat 64 dst, zero
        := d.zero, tag := none, volat := false, ord := 0, faddr := 0, data := [] } ∧ isSys src = true ∧ isSys dst = false ∧
      d.zero = false ∧ len = min left (256 - src % 256) ∧ s.translate id (src % 2 ^ 57) false = .at_ a page ∧ s.farMay 0x52 a
      len false = true ∧ s.may 0x52 .loc true = true ∧ s.se.shareZero (s.tokenClass a false) = false ∧ 100 * len ≤ Vec.at
      s.se.buckets (s.tokenClass a false) ∧ s.isVolatile a = false ∧ s.freeTag = some t) ∧
    (∃ (s : State) (id : Nat) (d : BlockDesc) (off : Nat) (src : Nat) (dst : Nat) (left : Nat) (len : Nat) (x : Xfer) (a : Nat)
      (page : Nat) (t : Nat) (data : List Byte), StreamServed s id d ∧ off = (s.ctx id).ioff ∧ PieceAt s id d off src dst left ∧
      s.mem.bad = [] ∧ Tbl.wf StreamCtx.idle s.se.ctxs = true ∧ clearOf (s.se.outOf id) src dst len d.zero = true ∧ x = {
        ctx := id, blk := (s.ctx id).iblk, off := off, len := len, src := BitVec.ofNat 64 src, dst := BitVec.ofNat 64 dst, zero
        := d.zero, tag := none, volat := false, ord := 0, faddr := 0, data := [] } ∧ isSys dst = true ∧ (isSys src = false ∨
      d.zero = true) ∧ len = min left (256 - dst % 256) ∧ s.translate id (dst % 2 ^ 57) true = .at_ a page ∧ s.farMay 0x52 a len
      true = true ∧ (d.zero = true ∨ s.may 0x52 .loc false = true) ∧ data = (if d.zero then List.replicate len 0#8 else
      s.mem.mem.readBytes src len) ∧ s.se.shareZero (s.tokenClass a true) = false ∧ 100 * len ≤ Vec.at s.se.buckets
      (s.tokenClass a true) ∧ s.freeTag = some t) ∧
    (∃ (s : State) (id : Nat) (d : BlockDesc) (off : Nat) (src : Nat) (dst : Nat) (left : Nat) (len : Nat) (x : Xfer) (a : Nat)
      (page : Nat) (t : Nat) (data : List Byte), StreamServed s id d ∧ off = (s.ctx id).ioff ∧ PieceAt s id d off src dst left ∧
      s.mem.bad = [] ∧ Tbl.wf StreamCtx.idle s.se.ctxs = true ∧ clearOf (s.se.outOf id) src dst len d.zero = true ∧ x = {
        ctx := id, blk := (s.ctx id).iblk, off := off, len := len, src := BitVec.ofNat 64 src, dst := BitVec.ofNat 64 dst, zero
        := d.zero, tag := none, volat := false, ord := 0, faddr := 0, data := [] } ∧ isSys dst = true ∧ (isSys src = false ∨
      d.zero = true) ∧ len = min left (256 - dst % 256) ∧ s.translate id (dst % 2 ^ 57) true = .at_ a page ∧ s.farMay 0x52 a len
      true = true ∧ (d.zero = true ∨ s.may 0x52 .loc false = true) ∧ data = (if d.zero then List.replicate len 0#8 else
      s.mem.mem.readBytes src len) ∧ s.se.shareZero (s.tokenClass a true) = false ∧ 100 * len ≤ Vec.at s.se.buckets
      (s.tokenClass a true) ∧ s.freeTag = some t) :=
  ⟨⟨(serving (block 0x1000 0x20c0 false)), 64, (block 0x1000 0x20c0 false), _, 0x1000, 0x20c0, 256, _, _,
    streamServed rfl (by decide), rfl, Or.inl (by decide), by decide, by decide, by decide, rfl, by decide, by decide,
    by decide, rfl, by decide, by decide⟩,
   ⟨(serving (block 0x0 0x20c0 true)), 64, (block 0x0 0x20c0 true), _, 0x0, 0x20c0, 256, _, _, streamServed rfl (by decide),
    rfl, Or.inl (by decide), by decide, by decide, by decide, rfl, by decide, by decide, rfl, by decide⟩,
   ⟨(serving (block 0x1000000000000140 0x2000 false)), 64, (block 0x1000000000000140 0x2000 false), _, 0x1000000000000140,
    0x2000, 256, _, _, 0x140, 0, 0, streamServed rfl (by decide), rfl, Or.inl (by decide), by decide, by decide, by decide, rfl,
    by decide, by decide, by decide, rfl, by decide, by decide, by decide, by decide, by decide, by decide, by decide⟩,
   ⟨(serving (block 0x1000 0x1000000000000140 false)), 64, (block 0x1000 0x1000000000000140 false), _, 0x1000,
    0x1000000000000140, 256, _, _, 0x140, 0, 0, _, streamServed rfl (by decide), rfl, Or.inl (by decide), by decide, by decide,
    by decide, rfl, by decide, by decide, rfl, by decide, by decide, by decide, rfl, by decide, by decide, by decide⟩,
   ⟨(serving (block 0x0 0x1000000000000140 true)), 64, (block 0x0 0x1000000000000140 true), _, 0x0, 0x1000000000000140, 256, _,
    _, 0x140, 0, 0, _, streamServed rfl (by decide), rfl, Or.inl (by decide), by decide, by decide, by decide, rfl, by decide,
    by decide, rfl, by decide, by decide, by decide, rfl, by decide, by decide, by decide⟩⟩

theorem witness_TransfersEnd :
    (∃ (s : State) (tag : BitVec 11) (err : FarErr) (r : FarReq) (x : Xfer), s.pins.alive = true ∧ s.farFind tag.toNat false =
      some r ∧ s.farXfer r.tag = some x ∧ Memory.wf s.mem.mem = true ∧ Tbl.wf StreamCtx.idle s.se.ctxs = true ∧ r.err = .ok ∧
      err = .ok) ∧
    (∃ (s : State) (tag : BitVec 11) (err : FarErr) (r : FarReq) (x : Xfer) (e : FarErr), s.pins.alive = true ∧ s.farFind
      tag.toNat false = some r ∧ s.farXfer r.tag = some x ∧ Memory.wf s.mem.mem = true ∧ Tbl.wf StreamCtx.idle s.se.ctxs = true
      ∧ e = (if r.err = .ok then err else r.err) ∧ e ≠ .ok) ∧
    (∃ (s : State) (tag : BitVec 11) (r : FarReq) (x : Xfer), s.pins.alive = true ∧ s.farFind tag.toNat false = some r ∧
      s.farXfer r.tag = some x ∧ Memory.wf s.mem.mem = true ∧ Tbl.wf StreamCtx.idle s.se.ctxs = true) ∧
    (∃ (s : State) (tag : BitVec 11) (r : FarReq) (x : Xfer), s.pins.alive = true ∧ s.farFind tag.toNat true = some r ∧ r.use =
      .stream ∧ s.farXfer r.tag = some x ∧ Tbl.wf StreamCtx.idle s.se.ctxs = true) ∧
    (∃ (s : State) (tag : BitVec 11) (r : FarReq) (x : Xfer), s.pins.alive = true ∧ s.farFind tag.toNat true = some r ∧ r.use =
      .stream ∧ s.farXfer r.tag = some x ∧ Tbl.wf StreamCtx.idle s.se.ctxs = true) ∧
    (∃ (s : State) (x : Xfer), s.pins.alive = true ∧ s.se.xfers.find? (fun x => x.tag.isNone && !x.volat) = some x ∧ Memory.wf
      s.mem.mem = true ∧ Tbl.wf StreamCtx.idle s.se.ctxs = true) ∧
    (∃ (s : State) (tag : BitVec 11), s.pins.alive = true ∧ s.farFind tag.toNat false = none) ∧
    (∃ (s : State) (tag : BitVec 11), s.pins.alive = true ∧ s.farFind tag.toNat true = none) :=
  ⟨⟨(streaming false), 3#11, .ok, (farReq false), farXfer, by decide, by decide, by decide, by decide, by decide, by decide,
    by decide⟩,
   ⟨(streaming false), 3#11, .data, (farReq false), farXfer, _, by decide, by decide, by decide, by decide, by decide, rfl,
    by decide⟩,
   ⟨(streaming false), 3#11, (farReq false), farXfer, by decide, by decide, by decide, by decide, by decide⟩,
   ⟨(streaming true), 3#11, (farReq true), farXfer, by decide, by decide, by decide, by decide, by decide⟩,
   ⟨(streaming true), 3#11, (farReq true), farXfer, by decide, by decide, by decide, by decide, by decide⟩,
   ⟨{ streaming false with
      far := [], se := { (streaming false).se with xfers := [{ farXfer with tag := none, data := [1#8, 2#8] }] } },
    { farXfer with tag := none, data := [1#8, 2#8] }, by decide, by decide, by decide, by decide⟩,
   ⟨run, 2047#11, by decide, by decide⟩,
   ⟨run, 0#11, by decide, by decide⟩⟩

theorem witness_TranslationChanges :
    (∃ (s : State) (far : FarReply) (w : Walk) (rest : List Walk) (n : Nat) (entry : Nat) (e : Nat), s.pins.alive = true ∧
      s.se.walks = w :: rest ∧ WalkReads s far w.addr n entry e ∧ Tbl.wf StreamCtx.idle s.se.ctxs = true ∧ (s.ctx w.ctx).state =
      .running ∧ (s.ctx w.ctx).halt = none ∧ s.se.outOf w.ctx = [] ∧ s.se.wait = none ∧ (s.ctx w.ctx).cur = w.blk ∧ (s.ctx
      w.ctx).iblk = w.blk ∧ s.farMay 0x52 entry 8 false = true ∧ farErrIn far entry 8 = .ok ∧ pteValid n e = true ∧ bit 62 e =
      true) ∧
    (∃ (s : State) (far : FarReply) (w : Walk) (rest : List Walk) (n : Nat) (entry : Nat) (e : Nat), s.pins.alive = true ∧
      s.se.walks = w :: rest ∧ WalkReads s far w.addr n entry e ∧ Tbl.wf StreamCtx.idle s.se.ctxs = true ∧ (s.ctx w.ctx).state =
      .running ∧ (s.ctx w.ctx).halt = none ∧ s.se.outOf w.ctx = [] ∧ s.se.wait = none ∧ (s.ctx w.ctx).cur = w.blk ∧ (s.ctx
      w.ctx).iblk = w.blk ∧ s.farMay 0x52 entry 8 false = true ∧ farErrIn far entry 8 = .ok ∧ pteValid n e = false) ∧
    (∃ (s : State) (far : FarReply) (w : Walk) (rest : List Walk) (n : Nat) (entry : Nat) (e : Nat), s.pins.alive = true ∧
      s.se.walks = w :: rest ∧ WalkReads s far w.addr n entry e ∧ Tbl.wf StreamCtx.idle s.se.ctxs = true ∧ (s.ctx w.ctx).state =
      .running ∧ (s.ctx w.ctx).halt = none ∧ s.se.outOf w.ctx = [] ∧ s.se.wait = none ∧ (s.ctx w.ctx).cur = w.blk ∧ (s.ctx
      w.ctx).iblk = w.blk ∧ s.farMay 0x52 entry 8 false = false) ∧
    (∃ (s : State) (far : FarReply) (w : Walk) (rest : List Walk) (n : Nat) (entry : Nat) (e : Nat), s.pins.alive = true ∧
      s.se.walks = w :: rest ∧ WalkReads s far w.addr n entry e ∧ Tbl.wf StreamCtx.idle s.se.ctxs = true ∧ (s.ctx w.ctx).state =
      .running ∧ (s.ctx w.ctx).halt = none ∧ s.se.outOf w.ctx = [] ∧ s.se.wait = none ∧ (s.ctx w.ctx).cur = w.blk ∧ (s.ctx
      w.ctx).iblk = w.blk ∧ s.farMay 0x52 entry 8 false = true ∧ farErrIn far entry 8 ≠ .ok) ∧
    (∃ (s : State) (m : Master), s.pins.alive = true ∧ s.may m.toNat .reg true = true) ∧
    (∃ (s : State) (m : Master), s.pins.alive = true ∧ s.may m.toNat .reg true = true) :=
  ⟨⟨(walking 0x12345), tables, { ctx := 64, addr := 0x12345, write := true, blk := 0, off := 0 }, [], 4, 0x40008,
    0xE000000000070000, by decide, by decide, walkLeaf, by decide, by decide, by decide, by decide, by decide, by decide,
    by decide, by decide, by decide, by decide, by decide⟩,
   ⟨(walking 0x12345), { cells := [], errs := [] }, { ctx := 64, addr := 0x12345, write := true, blk := 0, off := 0 }, [], 0, 0,
    0, by decide, by decide, walkRoot (walking 0x12345) { cells := [], errs := [] } 0x12345, by decide, by decide, by decide,
    by decide, by decide, by decide, by decide, by decide, by decide, by decide⟩,
   ⟨(barred (walking 0x12345)), { cells := [], errs := [] }, { ctx := 64, addr := 0x12345, write := true, blk := 0, off := 0 },
    [], 0, 0, 0, by decide, by decide, walkRoot (barred (walking 0x12345)) { cells := [], errs := [] } 0x12345, by decide,
    by decide, by decide, by decide, by decide, by decide, by decide, by decide⟩,
   ⟨(walking 0x12345), { cells := [], errs := [(0, .data)] }, { ctx := 64, addr := 0x12345, write := true, blk := 0, off := 0 },
    [], 0, 0, 0, by decide, by decide, walkRoot (walking 0x12345) { cells := [], errs := [(0, .data)] } 0x12345, by decide,
    by decide, by decide, by decide, by decide, by decide, by decide, by decide, by decide⟩,
   ⟨run, 2#7, by decide, by decide⟩,
   ⟨{ run with lowers := [(0x7018, 0xABCDE#32)] }, 2#7, by decide, by decide⟩⟩

theorem witness_ScrubberCorrectsRow :
    (∃ (s : State), s.pins.alive = true ∧ s.mem.scrubNc + 256 ≤ s.nc) ∧
    (∃ (s : State), s.pins.alive = true ∧ s.nc < s.mem.scrubNc + 256) :=
  ⟨⟨{ run with nc := 256, mem := { run.mem with scrubRow := 32767, single := [262143] } }, by decide, by decide⟩,
   ⟨{ run with nc := 255 }, by decide, by decide⟩⟩

theorem witness_SendsMeetCreditAndTime :
    (∃ (s : State) (c : QueueCmd) (d : Send), s.head7 = some c ∧ c.opc = 0x70 ∧ d = sendNamed c (s.entryOf (fld 18 8 (c.reg 0)))
      ∧ Memory.wf s.rings.credit = true ∧ s.sendFault c false = none) ∧
    (∃ (s : State) (c : QueueCmd) (d : Send), s.head7 = some c ∧ c.opc = 0x70 ∧ d = sendNamed c (s.entryOf (fld 18 8 (c.reg 0)))
      ∧ Memory.wf s.rings.credit = true ∧ s.sendFault c false = none) ∧
    (∃ (s : State) (c : QueueCmd) (d : Send), s.head7 = some c ∧ c.opc = 0x70 ∧ d = sendNamed c (s.entryOf (fld 18 8 (c.reg 0)))
      ∧ Memory.wf s.rings.credit = true ∧ s.sendFault c false = none) ∧
    (∃ (s : State) (c : QueueCmd) (d : Send), s.head7 = some c ∧ c.opc = 0x70 ∧ d = sendNamed c (s.entryOf (fld 18 8 (c.reg 0)))
      ∧ Memory.wf s.rings.credit = true ∧ s.sendFault c false = none) ∧
    (∃ (s : State) (c : QueueCmd) (d : Send) (code : Half), s.head7 = some c ∧ c.opc = 0x70 ∧ d = sendNamed c (s.entryOf (fld 18
      8 (c.reg 0))) ∧ Memory.wf s.rings.credit = true ∧ s.sendFault c false = some code) ∧
    (∃ (s : State) (c : QueueCmd) (d : Send) (code : Half), s.head7 = some c ∧ c.opc = 0x71 ∧ d = sendNamed c (s.entryOf (fld 18
      8 (c.reg 0))) ∧ Memory.wf s.rings.credit = true ∧ s.sendFault c true = some code) ∧
    (∃ (s : State) (c : QueueCmd) (d : Send), s.head7 = some c ∧ c.opc = 0x71 ∧ d = sendNamed c (s.entryOf (fld 18 8 (c.reg 0)))
      ∧ Memory.wf s.rings.credit = true ∧ s.sendFault c true = none ∧ (s.lehr.evLc.toNat = c.reg 2 ∨ s.journal.replaying =
      true)) ∧
    (∃ (s : State) (c : QueueCmd) (d : Send), s.head7 = some c ∧ c.opc = 0x71 ∧ d = sendNamed c (s.entryOf (fld 18 8 (c.reg 0)))
      ∧ Memory.wf s.rings.credit = true ∧ s.sendFault c true = none ∧ s.journal.replaying = false ∧ s.lehr.evLc.toNat < c.reg 2)
      ∧
    (∃ (s : State) (c : QueueCmd) (d : Send), s.head7 = some c ∧ c.opc = 0x71 ∧ d = sendNamed c (s.entryOf (fld 18 8 (c.reg 0)))
      ∧ Memory.wf s.rings.credit = true ∧ s.sendFault c true = none ∧ s.journal.replaying = false ∧ c.reg 2 < s.lehr.evLc.toNat
      ∧ s.lehr.evLc.toNat ≤ c.reg 2 + s.lehr.guard.toNat) ∧
    (∃ (s : State) (c : QueueCmd) (d : Send), s.head7 = some c ∧ c.opc = 0x71 ∧ d = sendNamed c (s.entryOf (fld 18 8 (c.reg 0)))
      ∧ Memory.wf s.rings.credit = true ∧ s.sendFault c true = none ∧ s.journal.replaying = false ∧ c.reg 2 + s.lehr.guard.toNat
      < s.lehr.evLc.toNat) ∧
    (∃ (s : State) (d : Send) (target : DWord) (c : QueueCmd), s.sched.held = some (d, target) ∧ s.head 7 = some c ∧ d.seq =
      some c.seq ∧ d.entry < 2048 ∧ Memory.wf s.rings.credit = true ∧ target.toNat ≤ s.lehr.evLc.toNat) ∧
    (∃ (s : State) (d : Send) (target : DWord) (c : QueueCmd), s.sched.held = some (d, target) ∧ s.head 7 = some c ∧ d.seq =
      some c.seq ∧ d.entry < 2048 ∧ Memory.wf s.rings.credit = true ∧ s.lehr.evLc.toNat < target.toNat) :=
  ⟨⟨(withEntry (queued 7 [0x100570#64, 0x100#64]) 1 1), ⟨[0x100570#64, 0x100#64], 1#32⟩, _, by decide, by decide, rfl,
    by decide, by decide⟩,
   ⟨(withEntry (queued 7 [0x100570#64, 0x100#64]) 0 1), ⟨[0x100570#64, 0x100#64], 1#32⟩, _, by decide, by decide, rfl,
    by decide, by decide⟩,
   ⟨(withEntry (queued 7 [0x100570#64, 0x100#64]) 1 3), ⟨[0x100570#64, 0x100#64], 1#32⟩, _, by decide, by decide, rfl,
    by decide, by decide⟩,
   ⟨(withEntry (queued 7 [0x100570#64, 0x100#64]) 0 5), ⟨[0x100570#64, 0x100#64], 1#32⟩, _, by decide, by decide, rfl,
    by decide, by decide⟩,
   ⟨(queued 7 [0x100570#64, 0x100#64]), ⟨[0x100570#64, 0x100#64], 1#32⟩, _, Code.badCommand, by decide, by decide, rfl,
    by decide, by decide⟩,
   ⟨(queued 7 [0x100571#64, 0x100#64, 0x5#64]), ⟨[0x100571#64, 0x100#64, 0x5#64], 1#32⟩, _, Code.badCommand, by decide,
    by decide, rfl, by decide, by decide⟩,
   ⟨{ withEntry (queued 7 [0x100571#64, 0x100#64, 0x5#64]) 0 5 with lehr := { run.lehr with lc := 5#64, evLc := 5#64 } },
    ⟨[0x100571#64, 0x100#64, 0x5#64], 1#32⟩, _, by decide, by decide, rfl, by decide, by decide, by decide⟩,
   ⟨{ withEntry (queued 7 [0x100571#64, 0x100#64, 0x6#64]) 0 5 with lehr := { run.lehr with lc := 5#64, evLc := 5#64 } },
    ⟨[0x100571#64, 0x100#64, 0x6#64], 1#32⟩, _, by decide, by decide, rfl, by decide, by decide, by decide, by decide⟩,
   ⟨{ withEntry (queued 7 [0x100571#64, 0x100#64, 0x3#64]) 0 5 with lehr := { run.lehr with lc := 5#64, evLc := 5#64 } },
    ⟨[0x100571#64, 0x100#64, 0x3#64], 1#32⟩, _, by decide, by decide, rfl, by decide, by decide, by decide, by decide,
    by decide⟩,
   ⟨{ withEntry (queued 7 [0x100571#64, 0x100#64, 0x2#64]) 0 5 with lehr := { run.lehr with lc := 5#64, evLc := 5#64 } },
    ⟨[0x100571#64, 0x100#64, 0x2#64], 1#32⟩, _, by decide, by decide, rfl, by decide, by decide, by decide, by decide⟩,
   ⟨{ withEntry (queued 7 [0x100571#64, 0x100#64, 0x5#64]) 0 5 with
      lehr := { run.lehr with evLc := 5#64 }, sched := { run.sched with
        held := some ({
          seq := some 1#32, opc := 0x71#8, entry := 5, lane := 2, len := 1, slot := 0, cid := 0, w0 := 0#64, w1 := 0#64, src :=
          .memory 0x100 16, exact := none, n := 1 }, 5#64) } }, {
      seq := some 1#32, opc := 0x71#8, entry := 5, lane := 2, len := 1, slot := 0, cid := 0, w0 := 0#64, w1 := 0#64, src :=
      .memory 0x100 16, exact := none, n := 1 }, 5#64, ⟨[0x100571#64, 0x100#64, 0x5#64], 1#32⟩, by decide, by decide, by decide,
    by decide, by decide, by decide⟩,
   ⟨{ withEntry (queued 7 [0x100571#64, 0x100#64, 0x5#64]) 0 5 with
      lehr := { run.lehr with evLc := 4#64 }, sched := { run.sched with
        held := some ({
          seq := some 1#32, opc := 0x71#8, entry := 5, lane := 2, len := 1, slot := 0, cid := 0, w0 := 0#64, w1 := 0#64, src :=
          .memory 0x100 16, exact := none, n := 1 }, 5#64) } }, {
      seq := some 1#32, opc := 0x71#8, entry := 5, lane := 2, len := 1, slot := 0, cid := 0, w0 := 0#64, w1 := 0#64, src :=
      .memory 0x100 16, exact := none, n := 1 }, 5#64, ⟨[0x100571#64, 0x100#64, 0x5#64], 1#32⟩, by decide, by decide, by decide,
    by decide, by decide, by decide⟩⟩

theorem witness_SendsCompleteAndWindowsArm :
    (∃ (s : State) (d : Send) (rest : List Send) (paddr : Nat) (len : Nat) (seq : Word), s.pins.alive = true ∧ s.sched.sends = d
      :: rest ∧ d.src = .memory paddr len ∧ d.seq = some seq ∧ Tbl.wf 0#32 s.rings.sendCount = true ∧ (len = 0 ∨ s.may 0x51 .loc
      false = true) ∧ s.mem.badIn paddr len = none ∧ s.journal.rstate ≠ .replay) ∧
    (∃ (s : State) (d : Send) (rest : List Send) (paddr : Nat) (len : Nat) (seq : Word), s.pins.alive = true ∧ s.sched.sends = d
      :: rest ∧ d.src = .memory paddr len ∧ d.seq = some seq ∧ Tbl.wf 0#32 s.rings.sendCount = true ∧ (len = 0 ∨ s.may 0x51 .loc
      false = true) ∧ s.mem.badIn paddr len = none ∧ s.journal.rstate ≠ .replay) ∧
    (∃ (s : State) (d : Send) (rest : List Send) (paddr : Nat) (len : Nat) (seq : Word), s.pins.alive = true ∧ s.sched.sends = d
      :: rest ∧ d.src = .memory paddr len ∧ d.seq = some seq ∧ Tbl.wf 0#32 s.rings.sendCount = true ∧ 0 < len ∧ (s.may 0x51 .loc
      false = false ∨ s.mem.badIn paddr len ≠ none)) ∧
    (∃ (s : State) (c : QueueCmd) (w : Nat) (bad : Prop), s.head7 = some c ∧ c.opc = 0x72 ∧ w = fld 29 24 (c.reg 0) ∧ (bad ↔
      (c.regs.length ≠ 3 ∨ fld 47 30 (c.reg 0) ≠ 0 ∨ fld 23 21 (c.reg 0) ≠ 0 ∨ fld 63 48 (c.reg 0) = 0 ∨ fld 20 8 (c.reg 0) < 32
      ∨ c.reg 2 ≤ c.reg 1 ∨ (Vec.at s.sched.windows w).active = true)) ∧ ¬ bad) ∧
    (∃ (s : State) (c : QueueCmd) (w : Nat) (bad : Prop), s.head7 = some c ∧ c.opc = 0x72 ∧ w = fld 29 24 (c.reg 0) ∧ (bad ↔
      (c.regs.length ≠ 3 ∨ fld 47 30 (c.reg 0) ≠ 0 ∨ fld 23 21 (c.reg 0) ≠ 0 ∨ fld 63 48 (c.reg 0) = 0 ∨ fld 20 8 (c.reg 0) < 32
      ∨ c.reg 2 ≤ c.reg 1 ∨ (Vec.at s.sched.windows w).active = true)) ∧ bad) :=
  ⟨⟨{ takenIn run 7 with
      sched := { run.sched with
        sends := [{
          seq := some 1#32, opc := 0x71#8, entry := 5, lane := 2, len := 1, slot := 0, cid := 0, w0 := 0#64, w1 := 0#64, src :=
          .memory 0x100 16, exact := none, n := 1 }] } }, {
      seq := some 1#32, opc := 0x71#8, entry := 5, lane := 2, len := 1, slot := 0, cid := 0, w0 := 0#64, w1 := 0#64, src :=
      .memory 0x100 16, exact := none, n := 1 }, [], 0x100, 16, 1#32, by decide, by decide, by decide, by decide, by decide,
    by decide, by decide, by decide⟩,
   ⟨{ takenIn run 7 with
      sched := { run.sched with
        sends := [{
          seq := some 1#32, opc := 0x71#8, entry := 5, lane := 2, len := 1, slot := 0, cid := 0, w0 := 0#64, w1 := 0#64, src :=
          .memory 0x100 8, exact := some 0, n := 1 }] } }, {
      seq := some 1#32, opc := 0x71#8, entry := 5, lane := 2, len := 1, slot := 0, cid := 0, w0 := 0#64, w1 := 0#64, src :=
      .memory 0x100 8, exact := some 0, n := 1 }, [], 0x100, 8, 1#32, by decide, by decide, by decide, by decide, by decide,
    by decide, by decide, by decide⟩,
   ⟨(barred { takenIn run 7 with
      sched := { run.sched with
        sends := [{
          seq := some 1#32, opc := 0x71#8, entry := 5, lane := 2, len := 1, slot := 0, cid := 0, w0 := 0#64, w1 := 0#64, src :=
          .memory 0x100 16, exact := none, n := 1 }] } }), {
      seq := some 1#32, opc := 0x71#8, entry := 5, lane := 2, len := 1, slot := 0, cid := 0, w0 := 0#64, w1 := 0#64, src :=
      .memory 0x100 16, exact := none, n := 1 }, [], 0x100, 16, 1#32, by decide, by decide, by decide, by decide, by decide,
    by decide, by decide⟩,
   ⟨(queued 7 [0x100003f002072#64, 0x4#64, 0x5#64]), ⟨[0x100003f002072#64, 0x4#64, 0x5#64], 1#32⟩, _, _, by decide, by decide,
    rfl, Iff.rfl, by decide⟩,
   ⟨(queued 7 [0x100003f001f72#64, 0x4#64, 0x5#64]), ⟨[0x100003f001f72#64, 0x4#64, 0x5#64], 1#32⟩, _, _, by decide, by decide,
    rfl, Iff.rfl, by decide⟩⟩

theorem witness_RootCountsArrives :
    (∃ (s : State) (i : Inbound) (rest : List Inbound) (b : Nat) (good : Prop) (x : Barrier), s.pins.alive = true ∧
      s.router.pick (fun m => Msg.kind m == Kind.sync && Msg.sop m != 2) = some (i, rest) ∧ b = Msg.bid i.msg ∧ x = s.barrier b
      ∧ (good ↔ (Msg.sop i.msg = 1 ∧ b ≤ 13 ∧ x.expect ≠ 0#24 ∧ Msg.domain i.msg = s.gaffer.domain.toNat ∧ Msg.gen i.msg =
      x.rgen.toNat)) ∧ i.port = 5 ∧ s.beat ≤ i.beat) ∧
    (∃ (s : State) (i : Inbound) (rest : List Inbound) (b : Nat) (good : Prop) (x : Barrier), s.pins.alive = true ∧
      s.router.pick (fun m => Msg.kind m == Kind.sync && Msg.sop m != 2) = some (i, rest) ∧ b = Msg.bid i.msg ∧ x = s.barrier b
      ∧ (good ↔ (Msg.sop i.msg = 1 ∧ b ≤ 13 ∧ x.expect ≠ 0#24 ∧ Msg.domain i.msg = s.gaffer.domain.toNat ∧ Msg.gen i.msg =
      x.rgen.toNat)) ∧ (i.port ≠ 5 ∨ i.beat < s.beat) ∧ good) ∧
    (∃ (s : State) (i : Inbound) (rest : List Inbound) (b : Nat) (good : Prop) (x : Barrier), s.pins.alive = true ∧
      s.router.pick (fun m => Msg.kind m == Kind.sync && Msg.sop m != 2) = some (i, rest) ∧ b = Msg.bid i.msg ∧ x = s.barrier b
      ∧ (good ↔ (Msg.sop i.msg = 1 ∧ b ≤ 13 ∧ x.expect ≠ 0#24 ∧ Msg.domain i.msg = s.gaffer.domain.toNat ∧ Msg.gen i.msg =
      x.rgen.toNat)) ∧ (i.port ≠ 5 ∨ i.beat < s.beat) ∧ good) ∧
    (∃ (s : State) (i : Inbound) (rest : List Inbound) (b : Nat) (good : Prop) (x : Barrier), s.pins.alive = true ∧
      s.router.pick (fun m => Msg.kind m == Kind.sync && Msg.sop m != 2) = some (i, rest) ∧ b = Msg.bid i.msg ∧ x = s.barrier b
      ∧ (good ↔ (Msg.sop i.msg = 1 ∧ b ≤ 13 ∧ x.expect ≠ 0#24 ∧ Msg.domain i.msg = s.gaffer.domain.toNat ∧ Msg.gen i.msg =
      x.rgen.toNat)) ∧ (i.port ≠ 5 ∨ i.beat < s.beat) ∧ ¬ good) :=
  ⟨⟨{ run.onBar 13 fun b => { b with expect := 3#24, rgen := 7#16, margin := 9#16 } with
      router := { run.router with
        inbox := [{ waitingHere { w0 := 0x1000000000000000#64, w1 := 0x74001c0000000002#64, payload := [] } with port := 5 }] }
      }, { waitingHere { w0 := 0x1000000000000000#64, w1 := 0x74001c0000000002#64, payload := [] } with port := 5 }, [], _, _,
    _, by decide, by decide, rfl, rfl, Iff.rfl, by decide, by decide⟩,
   ⟨(inboxed (run.onBar 13 fun b => { b with expect := 3#24, rgen := 7#16, margin := 9#16 })
    { w0 := 0x1000000000000000#64, w1 := 0x74001c0000000002#64, payload := [] }), (waitingHere
    { w0 := 0x1000000000000000#64, w1 := 0x74001c0000000002#64, payload := [] }), [], _, _, _, by decide, by decide, rfl, rfl,
    Iff.rfl, Or.inl (by decide), by decide⟩,
   ⟨(inboxed (run.onBar 13 fun b => { b with expect := 3#24, rgen := 7#16, margin := 9#16, rcnt := 1#24 })
    { w0 := 0x1000000000000000#64, w1 := 0x74001c0000000002#64, payload := [] }), (waitingHere
    { w0 := 0x1000000000000000#64, w1 := 0x74001c0000000002#64, payload := [] }), [], _, _, _, by decide, by decide, rfl, rfl,
    Iff.rfl, Or.inl (by decide), by decide⟩,
   ⟨(inboxed (run.onBar 13 fun b => { b with expect := 3#24, rgen := 8#16 })
    { w0 := 0x1000000000000000#64, w1 := 0x74001c0000000002#64, payload := [] }), (waitingHere
    { w0 := 0x1000000000000000#64, w1 := 0x74001c0000000002#64, payload := [] }), [], _, _, _, by decide, by decide, rfl, rfl,
    Iff.rfl, Or.inl (by decide), by decide⟩⟩

theorem witness_MemberPassesBarrier :
    (∃ (s : State) (c : QueueCmd) (b : Nat) (bad : Prop), s.head7 = some c ∧ c.opc = 0x73 ∧ b = fld 11 8 (c.reg 0) ∧ (bad ↔
      (c.regs.length ≠ 1 ∨ fld 63 12 (c.reg 0) ≠ 0 ∨ 13 < b ∨ (s.barrier b).expect = 0#24)) ∧ ¬ bad) ∧
    (∃ (s : State) (c : QueueCmd) (b : Nat) (bad : Prop), s.head7 = some c ∧ c.opc = 0x73 ∧ b = fld 11 8 (c.reg 0) ∧ (bad ↔
      (c.regs.length ≠ 1 ∨ fld 63 12 (c.reg 0) ≠ 0 ∨ 13 < b ∨ (s.barrier b).expect = 0#24)) ∧ bad) ∧
    (∃ (s : State) (b : Nat) (seq : Word), s.pending = [] ∧ s.pins.alive = true ∧ (s.nc + 1) % 2 = 0 ∧ s.sched.bar = some (b,
      seq)) ∧
    (∃ (s : State) (b : Nat) (seq : Word) (x : Barrier), s.inRun = true ∧ s.sched.bar = some (b, seq) ∧ b ≤ 13 ∧ x = s.barrier b
      ∧ x.arrived = false ∧ s.sched.barReady = true ∧ s.journal.rstate ≠ .replay) ∧
    (∃ (s : State) (b : Nat) (seq : Word) (x : Barrier), s.inRun = true ∧ s.sched.bar = some (b, seq) ∧ b ≤ 13 ∧ x = s.barrier b
      ∧ x.arrived = false ∧ s.sched.barReady = false) ∧
    (∃ (s : State) (i : Inbound) (rest : List Inbound) (b : Nat) (pass : Nat) (x : Barrier), s.inRun = true ∧ s.router.pick (fun
      m => Msg.kind m == Kind.sync && Msg.sop m == 2) = some (i, rest) ∧ b = Msg.bid i.msg ∧ b ≤ 13 ∧ x = s.barrier b ∧ x.pend =
      true ∧ x.passAt = none ∧ x.gen.toNat = Msg.gen i.msg ∧ pass < 2 ^ 64 ∧ pass % 2 ^ 40 = Msg.pass40 i.msg ∧ pass <
      s.lehr.lc.toNat + 2 ^ 39 ∧ s.lehr.lc.toNat < pass + 2 ^ 39) ∧
    (∃ (s : State) (i : Inbound) (rest : List Inbound) (b : Nat) (pass : Nat) (x : Barrier), s.inRun = true ∧ s.router.pick (fun
      m => Msg.kind m == Kind.sync && Msg.sop m == 2) = some (i, rest) ∧ b = Msg.bid i.msg ∧ b ≤ 13 ∧ x = s.barrier b ∧ x.pend =
      true ∧ x.passAt = none ∧ x.gen.toNat = Msg.gen i.msg ∧ pass < 2 ^ 64 ∧ pass % 2 ^ 40 = Msg.pass40 i.msg ∧ pass <
      s.lehr.lc.toNat + 2 ^ 39 ∧ s.lehr.lc.toNat < pass + 2 ^ 39) ∧
    (∃ (s : State) (b : Fin 14) (pass : DWord) (replayed : Bool) (seq : Word), s.inRun = true ∧ (s.barrier b.val).passAt = some
      (pass, replayed) ∧ (s.barrier b.val).pend = true ∧ s.sched.bar = some (b.val, seq) ∧ pass.toNat ≤ s.lehr.evLc.toNat) ∧
    (∃ (s : State) (b : Fin 14) (pass : DWord) (replayed : Bool) (seq : Word), s.inRun = true ∧ (s.barrier b.val).passAt = some
      (pass, replayed) ∧ (s.barrier b.val).pend = true ∧ s.sched.bar = some (b.val, seq) ∧ s.lehr.evLc.toNat < pass.toNat) ∧
    (∃ (s : State) (b : Fin 14), s.inRun = true ∧ s.lehr.btmo ≠ 0#32 ∧ (s.barrier b.val).pend = true ∧ (s.barrier
      b.val).timedOut = false ∧ s.lehr.btmo.toNat ≤ s.beat - (s.barrier b.val).takenBeat) :=
  ⟨⟨(queued 7 [0xd73#64]).onBar 13 fun b => { b with expect := 1#24 }, ⟨[0xd73#64], 1#32⟩, _, _, by decide, by decide, rfl,
    Iff.rfl, by decide⟩,
   ⟨(queued 7 [0xe73#64]), ⟨[0xe73#64], 1#32⟩, _, _, by decide, by decide, rfl, Iff.rfl, by decide⟩,
   ⟨{ takenIn run 7 with nc := 1, sched := { run.sched with bar := some (13, 1#32) } }, 13, 1#32, by decide, by decide,
    by decide, by decide⟩,
   ⟨{ takenIn run 7 with sched := { run.sched with bar := some (13, 1#32), barReady := true } }, 13, 1#32, _, by decide,
    by decide, by decide, rfl, by decide, by decide, by decide⟩,
   ⟨{ takenIn run 7 with sched := { run.sched with bar := some (13, 1#32) } }, 13, 1#32, _, by decide, by decide, by decide,
    rfl, by decide, by decide⟩,
   ⟨(inboxed (run.onBar 13 fun b => { b with pend := true, gen := 7#16 })
    { w0 := 0x1000000000000000#64, w1 := 0xb4001c0000000009#64, payload := [] }), (waitingHere
    { w0 := 0x1000000000000000#64, w1 := 0xb4001c0000000009#64, payload := [] }), [], 13, 9, _, by decide, by decide, by decide,
    by decide, rfl, by decide, by decide, by decide, by decide, by decide, by decide, by decide⟩,
   ⟨(inboxed (run.onBar 13 fun b => { b with pend := true, gen := 7#16 })
    { w0 := 0x1000000000000000#64, w1 := 0xb4001c0000000000#64, payload := [] }), (waitingHere
    { w0 := 0x1000000000000000#64, w1 := 0xb4001c0000000000#64, payload := [] }), [], 13, 0, _, by decide, by decide, by decide,
    by decide, rfl, by decide, by decide, by decide, by decide, by decide, by decide, by decide⟩,
   ⟨{ (takenIn run 7).onBar 13 fun b => { b with pend := true, gen := 7#16, passAt := some (5#64, false) } with
      lehr := { ((takenIn run 7).onBar 13 fun b => { b with pend := true, gen := 7#16, passAt := some (5#64, false) }).lehr with
        evLc := 5#64 }, sched := { run.sched with bar := some (13, 1#32) } }, 13, 5#64, false, 1#32, by decide, by decide,
    by decide, by decide, by decide⟩,
   ⟨{ (takenIn run 7).onBar 13 fun b => { b with pend := true, gen := 7#16, passAt := some (5#64, false) } with
      lehr := { ((takenIn run 7).onBar 13 fun b => { b with pend := true, gen := 7#16, passAt := some (5#64, false) }).lehr with
        evLc := 4#64 }, sched := { run.sched with bar := some (13, 1#32) } }, 13, 5#64, false, 1#32, by decide, by decide,
    by decide, by decide, by decide⟩,
   ⟨{ run.onBar 13 fun b => { b with pend := true } with
      nc := 20, lehr := { (run.onBar 13 fun b => { b with pend := true }).lehr with btmo := 10#32 } }, 13, by decide, by decide,
    by decide, by decide, by decide⟩⟩

theorem witness_DataMessageEntersRing :
    (∃ (s : State) (i : Inbound) (rest : List Inbound) (t : Nat) (v : Option (Half × Nat)), NextMessage s Kind.data i rest ∧
      s.inRun = true ∧ s.journal.rstate ≠ .tail ∧ t = Msg.tag i.msg ∧ t ≠ 1 ∧ RingVerdict s i.msg t v ∧ v = none) ∧
    (∃ (s : State) (i : Inbound) (rest : List Inbound) (t : Nat) (v : Option (Half × Nat)) (code : Half) (b : Nat), NextMessage
      s Kind.data i rest ∧ s.inRun = true ∧ s.journal.rstate ≠ .tail ∧ t = Msg.tag i.msg ∧ t ≠ 1 ∧ RingVerdict s i.msg t v ∧ v =
      some (code, b)) ∧
    (∃ (s : State) (i : Inbound) (rest : List Inbound) (t : Nat) (v : Option (Half × Nat)) (code : Half) (b : Nat), NextMessage
      s Kind.data i rest ∧ s.inRun = true ∧ s.journal.rstate ≠ .tail ∧ t = Msg.tag i.msg ∧ t ≠ 1 ∧ RingVerdict s i.msg t v ∧ v =
      some (code, b)) ∧
    (∃ (s : State) (i : Inbound) (rest : List Inbound) (t : Nat) (v : Option (Half × Nat)) (code : Half) (b : Nat), NextMessage
      s Kind.data i rest ∧ s.inRun = true ∧ s.journal.rstate ≠ .tail ∧ t = Msg.tag i.msg ∧ t ≠ 1 ∧ RingVerdict s i.msg t v ∧ v =
      some (code, b)) ∧
    (∃ (s : State) (w : RingWrite) (rest : List RingWrite) (r : Ring) (p : Nat) (len : Nat) (at_ : Nat → Nat) (split : Prop)
      (head : DWord), s.pins.alive = true ∧ s.rings.writes = w :: rest ∧ r = s.ring w.tag ∧ p = w.pos.toNat % r.size ∧ len = 16
      + 16 * Msg.len w.msg ∧ w.n = (Msg.len w.msg + 4) / 4 ∧ w.n ≤ r.size ∧ r.state = RingState.opened ∧ Memory.wf s.rings.store
      = true ∧ Memory.wf s.mem.mem = true ∧ (split ↔ r.size + r.apron < p + w.n) ∧ (∀ k, (¬ split ∨ k < 64 * (r.size - p) → at_
      k = r.base + 64 * p + k) ∧ (split → 64 * (r.size - p) ≤ k → at_ k = r.base + (k - 64 * (r.size - p)))) ∧ (split → head =
      w.msg.w0 ||| BitVec.ofNat 64 (2 ^ 61)) ∧ (¬ split → head = w.msg.w0)) ∧
    (∃ (s : State) (w : RingWrite) (rest : List RingWrite) (r : Ring) (p : Nat) (len : Nat) (at_ : Nat → Nat) (split : Prop)
      (head : DWord), s.pins.alive = true ∧ s.rings.writes = w :: rest ∧ r = s.ring w.tag ∧ p = w.pos.toNat % r.size ∧ len = 16
      + 16 * Msg.len w.msg ∧ w.n = (Msg.len w.msg + 4) / 4 ∧ w.n ≤ r.size ∧ r.state = RingState.opened ∧ Memory.wf s.rings.store
      = true ∧ Memory.wf s.mem.mem = true ∧ (split ↔ r.size + r.apron < p + w.n) ∧ (∀ k, (¬ split ∨ k < 64 * (r.size - p) → at_
      k = r.base + 64 * p + k) ∧ (split → 64 * (r.size - p) ≤ k → at_ k = r.base + (k - 64 * (r.size - p)))) ∧ (split → head =
      w.msg.w0 ||| BitVec.ofNat 64 (2 ^ 61)) ∧ (¬ split → head = w.msg.w0)) :=
  ⟨⟨(inboxed (ringed run) {
      w0 := 0x1c0010000000#64, w1 := 0x10000000000#64, payload := [1#8, 2#8, 3#8, 4#8, 5#8, 6#8, 7#8, 8#8, 9#8, 10#8, 11#8,
      12#8, 13#8, 14#8, 15#8, 16#8] }), (waitingHere {
      w0 := 0x1c0010000000#64, w1 := 0x10000000000#64, payload := [1#8, 2#8, 3#8, 4#8, 5#8, 6#8, 7#8, 8#8, 9#8, 10#8, 11#8,
      12#8, 13#8, 14#8, 15#8, 16#8] }), [], _, none, by unfold NextMessage; decide, by decide, by decide, rfl, by decide,
    by unfold RingVerdict; decide, by decide⟩,
   ⟨(inboxed run {
      w0 := 0x1c0010000000#64, w1 := 0x10000000000#64, payload := [1#8, 2#8, 3#8, 4#8, 5#8, 6#8, 7#8, 8#8, 9#8, 10#8, 11#8,
      12#8, 13#8, 14#8, 15#8, 16#8] }), (waitingHere {
      w0 := 0x1c0010000000#64, w1 := 0x10000000000#64, payload := [1#8, 2#8, 3#8, 4#8, 5#8, 6#8, 7#8, 8#8, 9#8, 10#8, 11#8,
      12#8, 13#8, 14#8, 15#8, 16#8] }), [], _, (some (Code.ringClosed, 1)), Code.ringClosed, 1, by unfold NextMessage; decide,
    by decide, by decide, rfl, by decide, by unfold RingVerdict; decide, by decide⟩,
   ⟨(inboxed (withRing run 32 (plainRing 1 1 0)) {
      w0 := 0x200010000000#64, w1 := 0x10000000000#64, payload := [1#8, 2#8, 3#8, 4#8, 5#8, 6#8, 7#8, 8#8, 9#8, 10#8, 11#8,
      12#8, 13#8, 14#8, 15#8, 16#8] }), (waitingHere {
      w0 := 0x200010000000#64, w1 := 0x10000000000#64, payload := [1#8, 2#8, 3#8, 4#8, 5#8, 6#8, 7#8, 8#8, 9#8, 10#8, 11#8,
      12#8, 13#8, 14#8, 15#8, 16#8] }), [], _, (some (Code.staleCredit, 2)), Code.staleCredit, 2, by unfold NextMessage; decide,
    by decide, by decide, rfl, by decide, by unfold RingVerdict; decide, by decide⟩,
   ⟨(inboxed (withRing run 32 (plainRing 1 16 0)) {
      w0 := 0x1c0010000000#64, w1 := 0x10000000000#64, payload := [1#8, 2#8, 3#8, 4#8, 5#8, 6#8, 7#8, 8#8, 9#8, 10#8, 11#8,
      12#8, 13#8, 14#8, 15#8, 16#8] }), (waitingHere {
      w0 := 0x1c0010000000#64, w1 := 0x10000000000#64, payload := [1#8, 2#8, 3#8, 4#8, 5#8, 6#8, 7#8, 8#8, 9#8, 10#8, 11#8,
      12#8, 13#8, 14#8, 15#8, 16#8] }), [], _, (some (Code.creditOverrun, 4)), Code.creditOverrun, 4,
    by unfold NextMessage; decide, by decide, by decide, rfl, by decide, by unfold RingVerdict; decide, by decide⟩,
   ⟨{ withRing run 32 (plainRing 1 15 15) with
      rings := { (withRing run 32 (plainRing 1 15 15)).rings with
        writes := [{
          tag := 32, pos := 15#32, n := 1, msg := {
            w0 := 0x1c0010000000#64, w1 := 0x10000000000#64, payload := [1#8, 2#8, 3#8, 4#8, 5#8, 6#8, 7#8, 8#8, 9#8, 10#8,
            11#8, 12#8, 13#8, 14#8, 15#8, 16#8] }, stamp := 0#64 }] } }, {
      tag := 32, pos := 15#32, n := 1, msg := {
        w0 := 0x1c0010000000#64, w1 := 0x10000000000#64, payload := [1#8, 2#8, 3#8, 4#8, 5#8, 6#8, 7#8, 8#8, 9#8, 10#8, 11#8,
        12#8, 13#8, 14#8, 15#8, 16#8] }, stamp := 0#64 }, [], _, _, 32, (fun k => 0x1000 + 64 * 15 + k), _, 0x1c0010000000#64,
    by decide, by decide, rfl, rfl, by decide, by decide, by decide, by decide, by decide, by decide, Iff.rfl,
    fun k => ⟨fun _ => rfl, fun h => absurd h (by decide)⟩, by decide, by decide⟩,
   ⟨{ withRing run 32 (plainRing 1 15 15) with
      rings := { (withRing run 32 (plainRing 1 15 15)).rings with
        writes := [{
          tag := 32, pos := 15#32, n := 6, msg := { w0 := 0x1c0010000000#64, w1 := 0x140000000000#64, payload := [] }, stamp :=
          0#64 }] } }, {
      tag := 32, pos := 15#32, n := 6, msg := { w0 := 0x1c0010000000#64, w1 := 0x140000000000#64, payload := [] }, stamp := 0#64
      }, [], _, _, 336, (fun k => if k < 64 then 0x1000 + 64 * 15 + k else 0x1000 + (k - 64)), _, 0x20001c0010000000#64,
    by decide, by decide, rfl, rfl, by decide, by decide, by decide, by decide, by decide, by decide, Iff.rfl, fun k => ⟨fun h
    => h.elim (fun n => absurd (by decide) n) (fun l => if_pos l), fun _ g => if_neg (Nat.not_lt.mpr g)⟩, by decide, by decide⟩⟩

theorem witness_GatherMessageCounts :
    (∃ (s : State) (i : Inbound) (rest : List Inbound) (m : Message) (r : Ring) (a : Nat) (st : Nat) (cid : Nat) (n : Nat),
      NextMessage s Kind.gather i rest ∧ s.inRun = true ∧ s.journal.rstate ≠ .tail ∧ m = i.msg ∧ RingVerdict s m (Msg.tag m)
      none ∧ r = s.ring (Msg.tag m) ∧ a = r.base + Msg.slot m * r.slotBytes ∧ s.mem.bad = [] ∧ st = s.mem.mem.readLE (a + 6) 1 ∧
      cid = s.mem.mem.readLE (a + 4) 2 ∧ n = s.mem.mem.readLE a 4 + Msg.ncont m ∧ Memory.wf s.mem.mem = true ∧ Memory.wf
      s.rings.store = true ∧ r.type ≠ RingType.plain ∧ Msg.tag m < 8192 ∧ (st = 0 ∨ (st = 1 ∧ cid = Msg.cid m)) ∧ n ≤ r.expect)
      ∧
    (∃ (s : State) (i : Inbound) (rest : List Inbound) (m : Message) (r : Ring) (a : Nat) (st : Nat) (cid : Nat) (n : Nat),
      NextMessage s Kind.gather i rest ∧ s.inRun = true ∧ s.journal.rstate ≠ .tail ∧ m = i.msg ∧ RingVerdict s m (Msg.tag m)
      none ∧ r = s.ring (Msg.tag m) ∧ a = r.base + Msg.slot m * r.slotBytes ∧ s.mem.bad = [] ∧ st = s.mem.mem.readLE (a + 6) 1 ∧
      cid = s.mem.mem.readLE (a + 4) 2 ∧ n = s.mem.mem.readLE a 4 + Msg.ncont m ∧ Memory.wf s.mem.mem = true ∧ Memory.wf
      s.rings.store = true ∧ r.type ≠ RingType.plain ∧ Msg.tag m < 8192 ∧ (st = 0 ∨ (st = 1 ∧ cid = Msg.cid m)) ∧ n ≤ r.expect)
      ∧
    (∃ (s : State) (i : Inbound) (rest : List Inbound) (m : Message) (r : Ring) (a : Nat) (st : Nat) (cid : Nat) (n : Nat),
      NextMessage s Kind.gather i rest ∧ s.inRun = true ∧ s.journal.rstate ≠ .tail ∧ m = i.msg ∧ RingVerdict s m (Msg.tag m)
      none ∧ r = s.ring (Msg.tag m) ∧ a = r.base + Msg.slot m * r.slotBytes ∧ s.mem.bad = [] ∧ st = s.mem.mem.readLE (a + 6) 1 ∧
      cid = s.mem.mem.readLE (a + 4) 2 ∧ n = s.mem.mem.readLE a 4 + Msg.ncont m ∧ Memory.wf s.mem.mem = true ∧ Memory.wf
      s.rings.store = true ∧ r.type ≠ RingType.plain ∧ Msg.tag m < 8192 ∧ ((st = 2 ∧ cid = Msg.cid m) ∨ ((st = 0 ∨ (st = 1 ∧ cid
      = Msg.cid m)) ∧ r.expect < n))) ∧
    (∃ (s : State) (i : Inbound) (rest : List Inbound) (m : Message) (r : Ring) (a : Nat) (st : Nat) (cid : Nat) (n : Nat),
      NextMessage s Kind.gather i rest ∧ s.inRun = true ∧ s.journal.rstate ≠ .tail ∧ m = i.msg ∧ RingVerdict s m (Msg.tag m)
      none ∧ r = s.ring (Msg.tag m) ∧ a = r.base + Msg.slot m * r.slotBytes ∧ s.mem.bad = [] ∧ st = s.mem.mem.readLE (a + 6) 1 ∧
      cid = s.mem.mem.readLE (a + 4) 2 ∧ n = s.mem.mem.readLE a 4 + Msg.ncont m ∧ Memory.wf s.mem.mem = true ∧ Memory.wf
      s.rings.store = true ∧ r.type ≠ RingType.plain ∧ Msg.tag m < 8192 ∧ (st = 1 ∨ st = 2) ∧ cid ≠ Msg.cid m) :=
  ⟨⟨(inboxed (withRing run 33 (gatherRing 1))
    { w0 := 0x4001c0010800000#64, w1 := 0x20050030001#64, payload := [0#8, 0#8, 0x80#8, 0x3F#8] }), (waitingHere
    { w0 := 0x4001c0010800000#64, w1 := 0x20050030001#64, payload := [0#8, 0#8, 0x80#8, 0x3F#8] }), [], _, _, _, _, _, _,
    by unfold NextMessage; decide, by decide, by decide, rfl, by unfold RingVerdict; decide, rfl, rfl, by decide, rfl, rfl, rfl,
    by decide, by decide, by decide, by decide, by decide, by decide⟩,
   ⟨(withBytes (inboxed (withRing run 33 (gatherRing 1))
    { w0 := 0x4001c0010800000#64, w1 := 0x20050030001#64, payload := [0#8, 0#8, 0x80#8, 0x3F#8] }) 0x2180 [1#8, 0#8, 0#8, 0#8,
    5#8, 0#8, 1#8]), (waitingHere
    { w0 := 0x4001c0010800000#64, w1 := 0x20050030001#64, payload := [0#8, 0#8, 0x80#8, 0x3F#8] }), [], _, _, _, _, _, _,
    by unfold NextMessage; decide, by decide, by decide, rfl, by unfold RingVerdict; decide, rfl, rfl, by decide, rfl, rfl, rfl,
    by decide, by decide, by decide, by decide, by decide, by decide⟩,
   ⟨(withBytes (inboxed (withRing run 33 (gatherRing 1))
    { w0 := 0x4001c0010800000#64, w1 := 0x20050030001#64, payload := [0#8, 0#8, 0x80#8, 0x3F#8] }) 0x2180 (slotWords 5#8)),
    (waitingHere { w0 := 0x4001c0010800000#64, w1 := 0x20050030001#64, payload := [0#8, 0#8, 0x80#8, 0x3F#8] }), [], _, _, _, _,
    _, _, by unfold NextMessage; decide, by decide, by decide, rfl, by unfold RingVerdict; decide, rfl, rfl, by decide, rfl,
    rfl, rfl, by decide, by decide, by decide, by decide, by decide⟩,
   ⟨(withBytes (inboxed (withRing run 33 (gatherRing 1))
    { w0 := 0x4001c0010800000#64, w1 := 0x20050030001#64, payload := [0#8, 0#8, 0x80#8, 0x3F#8] }) 0x2180 (slotWords 6#8)),
    (waitingHere { w0 := 0x4001c0010800000#64, w1 := 0x20050030001#64, payload := [0#8, 0#8, 0x80#8, 0x3F#8] }), [], _, _, _, _,
    _, _, by unfold NextMessage; decide, by decide, by decide, rfl, by unfold RingVerdict; decide, rfl, rfl, by decide, rfl,
    rfl, rfl, by decide, by decide, by decide, by decide, by decide, by decide⟩⟩

theorem witness_CreditsChange :
    (∃ (s : State) (i : Inbound) (rest : List Inbound) (e : Nat) (credit : Nat) (applies : Prop), NextMessage s Kind.credit i
      rest ∧ s.journal.rstate ≠ .tail ∧ e = Msg.creditSent i.msg ∧ Memory.wf s.rings.credit = true ∧ credit = min 65535
      ((s.entryOf e).credit + Msg.gran i.msg) ∧ (applies ↔ ((s.entryOf e).valid = true ∧ (s.entryOf e).stale = false ∧
      (s.entryOf e).epoch = Msg.epoch i.msg))) ∧
    (∃ (s : State) (i : Inbound) (rest : List Inbound) (e : Nat) (credit : Nat) (applies : Prop), NextMessage s Kind.credit i
      rest ∧ s.journal.rstate ≠ .tail ∧ e = Msg.creditSent i.msg ∧ Memory.wf s.rings.credit = true ∧ credit = min 65535
      ((s.entryOf e).credit + Msg.gran i.msg) ∧ (applies ↔ ((s.entryOf e).valid = true ∧ (s.entryOf e).stale = false ∧
      (s.entryOf e).epoch = Msg.epoch i.msg))) ∧
    (∃ (s : State) (i : Inbound) (rest : List Inbound), NextMessage s Kind.revoke i rest ∧ Memory.wf s.rings.credit = true ∧
      s.journal.replaying = true) ∧
    (∃ (s : State) (i : Inbound) (rest : List Inbound), NextMessage s Kind.revoke i rest ∧ Memory.wf s.rings.credit = true ∧
      s.journal.replaying = false ∧ s.rings.parked = []) :=
  ⟨⟨(inboxed (withEntry run 3 1) { w0 := 0x8001c0000000000#64, w1 := 0x7fff805#64, payload := [] }), (waitingHere
    { w0 := 0x8001c0000000000#64, w1 := 0x7fff805#64, payload := [] }), [], _, _, _, by unfold NextMessage; decide, by decide,
    rfl, by decide, rfl, Iff.rfl⟩,
   ⟨(inboxed (withEntry run 3 1) { w0 := 0x800200000000000#64, w1 := 0x7fff805#64, payload := [] }), (waitingHere
    { w0 := 0x800200000000000#64, w1 := 0x7fff805#64, payload := [] }), [], _, _, _, by unfold NextMessage; decide, by decide,
    rfl, by decide, rfl, Iff.rfl⟩,
   ⟨(inboxed { withEntry run 3 1 with journal := { run.journal with rstate := .tail } }
    { w0 := 0xc00200000000000#64, w1 := 0x14002001#64, payload := [] }), (waitingHere
    { w0 := 0xc00200000000000#64, w1 := 0x14002001#64, payload := [] }), [], by unfold NextMessage; decide, by decide,
    by decide⟩,
   ⟨(inboxed (withEntry run 3 1) { w0 := 0xc00200000000000#64, w1 := 0x14002001#64, payload := [] }), (waitingHere
    { w0 := 0xc00200000000000#64, w1 := 0x14002001#64, payload := [] }), [], by unfold NextMessage; decide, by decide,
    by decide, by decide⟩⟩

theorem witness_RingCommandsAct :
    (∃ (s : State) (m : Master) (tag : BitVec 13) (t : Nat) (r : Ring) (live : Prop) (revoked : Message), s.pins.alive = true ∧
      s.may m.toNat .reg true = true ∧ t = tag.toNat ∧ r = s.ring t ∧ (live ↔ (r.state = RingState.opened ∨ r.state =
      RingState.draining)) ∧ Memory.wf s.rings.store = true ∧ Memory.wf s.mem.mem = true ∧ s.journal.rstate ≠ .replay ∧ revoked
      = revokeMessage s t ((r.epoch + 1) % 2 ^ 16) ∧ s.rings.cBusy = false ∧ (32 ≤ t ∨ m = 0x50#7) ∧ r.state = RingState.closed
      ∧ s.consistent t = true) ∧
    (∃ (s : State) (m : Master) (tag : BitVec 13) (t : Nat) (r : Ring) (live : Prop) (revoked : Message), s.pins.alive = true ∧
      s.may m.toNat .reg true = true ∧ t = tag.toNat ∧ r = s.ring t ∧ (live ↔ (r.state = RingState.opened ∨ r.state =
      RingState.draining)) ∧ Memory.wf s.rings.store = true ∧ Memory.wf s.mem.mem = true ∧ s.journal.rstate ≠ .replay ∧ revoked
      = revokeMessage s t ((r.epoch + 1) % 2 ^ 16) ∧ s.rings.cBusy = false ∧ (32 ≤ t ∨ m = 0x50#7) ∧ live ∧ (∀ w ∈
      s.rings.writes, w.tag ≠ t) ∧ s.marver.chunkSlot t = none) ∧
    (∃ (s : State) (m : Master) (tag : BitVec 13) (t : Nat) (r : Ring) (live : Prop) (revoked : Message), s.pins.alive = true ∧
      s.may m.toNat .reg true = true ∧ t = tag.toNat ∧ r = s.ring t ∧ (live ↔ (r.state = RingState.opened ∨ r.state =
      RingState.draining)) ∧ Memory.wf s.rings.store = true ∧ Memory.wf s.mem.mem = true ∧ s.journal.rstate ≠ .replay ∧ revoked
      = revokeMessage s t ((r.epoch + 1) % 2 ^ 16) ∧ s.rings.cBusy = false ∧ (32 ≤ t ∨ m = 0x50#7) ∧ live ∧ (∀ w ∈
      s.rings.writes, w.tag ≠ t) ∧ s.marver.chunkSlot t = none) ∧
    (∃ (s : State) (m : Master) (tag : BitVec 13) (t : Nat) (r : Ring) (live : Prop) (revoked : Message), s.pins.alive = true ∧
      s.may m.toNat .reg true = true ∧ t = tag.toNat ∧ r = s.ring t ∧ (live ↔ (r.state = RingState.opened ∨ r.state =
      RingState.draining)) ∧ Memory.wf s.rings.store = true ∧ Memory.wf s.mem.mem = true ∧ s.journal.rstate ≠ .replay ∧ revoked
      = revokeMessage s t ((r.epoch + 1) % 2 ^ 16) ∧ s.rings.cBusy = false ∧ (32 ≤ t ∨ m = 0x50#7) ∧ r.state = RingState.opened
      ∧ (∀ w ∈ s.rings.writes, w.tag ≠ t)) ∧
    (∃ (s : State) (m : Master) (tag : BitVec 13) (slot : BitVec 12) (t : Nat) (r : Ring) (live : Prop) (revoked : Message),
      s.pins.alive = true ∧ s.may m.toNat .reg true = true ∧ t = tag.toNat ∧ r = s.ring t ∧ (live ↔ (r.state = RingState.opened
      ∨ r.state = RingState.draining)) ∧ Memory.wf s.rings.store = true ∧ Memory.wf s.mem.mem = true ∧ s.journal.rstate ≠
      .replay ∧ revoked = revokeMessage s t ((r.epoch + 1) % 2 ^ 16) ∧ s.rings.cBusy = false ∧ (32 ≤ t ∨ m = 0x50#7) ∧ live ∧
      r.type = RingType.gather ∧ slot.toNat < r.nslot ∧ s.mem.mem.readLE (r.base + slot.toNat * r.slotBytes + 6) 1 = 2) ∧
    (∃ (s : State) (m : Master) (tag : BitVec 13) (t : Nat) (r : Ring) (live : Prop) (revoked : Message), s.pins.alive = true ∧
      s.may m.toNat .reg true = true ∧ t = tag.toNat ∧ r = s.ring t ∧ (live ↔ (r.state = RingState.opened ∨ r.state =
      RingState.draining)) ∧ Memory.wf s.rings.store = true ∧ Memory.wf s.mem.mem = true ∧ s.journal.rstate ≠ .replay ∧ revoked
      = revokeMessage s t ((r.epoch + 1) % 2 ^ 16) ∧ s.rings.cBusy = true) ∧
    (∃ (s : State) (m : Master) (tag : BitVec 13) (t : Nat) (r : Ring) (live : Prop) (revoked : Message), s.pins.alive = true ∧
      s.may m.toNat .reg true = true ∧ t = tag.toNat ∧ r = s.ring t ∧ (live ↔ (r.state = RingState.opened ∨ r.state =
      RingState.draining)) ∧ Memory.wf s.rings.store = true ∧ Memory.wf s.mem.mem = true ∧ s.journal.rstate ≠ .replay ∧ revoked
      = revokeMessage s t ((r.epoch + 1) % 2 ^ 16) ∧ s.rings.cBusy = false ∧ t < 32 ∧ m ≠ 0x50#7) ∧
    (∃ (s : State) (m : Master) (tag : BitVec 13) (t : Nat) (r : Ring) (live : Prop) (revoked : Message), s.pins.alive = true ∧
      s.may m.toNat .reg true = true ∧ t = tag.toNat ∧ r = s.ring t ∧ (live ↔ (r.state = RingState.opened ∨ r.state =
      RingState.draining)) ∧ Memory.wf s.rings.store = true ∧ Memory.wf s.mem.mem = true ∧ s.journal.rstate ≠ .replay ∧ revoked
      = revokeMessage s t ((r.epoch + 1) % 2 ^ 16) ∧ s.rings.cBusy = false ∧ (32 ≤ t ∨ m = 0x50#7) ∧ (r.state ≠ RingState.closed
      ∨ s.consistent t = false)) ∧
    (∃ (s : State) (m : Master) (tag : BitVec 13) (t : Nat) (r : Ring) (live : Prop) (revoked : Message), s.pins.alive = true ∧
      s.may m.toNat .reg true = true ∧ t = tag.toNat ∧ r = s.ring t ∧ (live ↔ (r.state = RingState.opened ∨ r.state =
      RingState.draining)) ∧ Memory.wf s.rings.store = true ∧ Memory.wf s.mem.mem = true ∧ s.journal.rstate ≠ .replay ∧ revoked
      = revokeMessage s t ((r.epoch + 1) % 2 ^ 16) ∧ s.rings.cBusy = false ∧ (32 ≤ t ∨ m = 0x50#7) ∧ ¬ live) ∧
    (∃ (s : State) (m : Master) (tag : BitVec 13) (t : Nat) (r : Ring) (live : Prop) (revoked : Message), s.pins.alive = true ∧
      s.may m.toNat .reg true = true ∧ t = tag.toNat ∧ r = s.ring t ∧ (live ↔ (r.state = RingState.opened ∨ r.state =
      RingState.draining)) ∧ Memory.wf s.rings.store = true ∧ Memory.wf s.mem.mem = true ∧ s.journal.rstate ≠ .replay ∧ revoked
      = revokeMessage s t ((r.epoch + 1) % 2 ^ 16) ∧ s.rings.cBusy = false ∧ (32 ≤ t ∨ m = 0x50#7) ∧ r.state ≠ RingState.opened)
      ∧
    (∃ (s : State) (m : Master) (tag : BitVec 13) (slot : BitVec 12) (t : Nat) (r : Ring) (live : Prop) (revoked : Message),
      s.pins.alive = true ∧ s.may m.toNat .reg true = true ∧ t = tag.toNat ∧ r = s.ring t ∧ (live ↔ (r.state = RingState.opened
      ∨ r.state = RingState.draining)) ∧ Memory.wf s.rings.store = true ∧ Memory.wf s.mem.mem = true ∧ s.journal.rstate ≠
      .replay ∧ revoked = revokeMessage s t ((r.epoch + 1) % 2 ^ 16) ∧ s.rings.cBusy = false ∧ (32 ≤ t ∨ m = 0x50#7) ∧ (¬ live ∨
      r.type ≠ RingType.gather ∨ r.nslot ≤ slot.toNat ∨ s.mem.mem.readLE (r.base + slot.toNat * r.slotBytes + 6) 1 ≠ 2)) ∧
    (∃ (s : State), s.pending = [] ∧ s.pins.alive = true) :=
  ⟨⟨(withRing run 32 (plainRing 0 5 5)), 2#7, 32#13, _, _, _, _, by decide, by decide, rfl, rfl, Iff.rfl, by decide, by decide,
    by decide, rfl, by decide, by decide, by decide, by decide⟩,
   ⟨(withRing run 32 (plainRing 1 5 4)), 2#7, 32#13, _, _, _, _, by decide, by decide, rfl, rfl, Iff.rfl, by decide, by decide,
    by decide, rfl, by decide, by decide, by decide, by decide, by decide⟩,
   ⟨(withRing run 32 (plainRing 2 5 4)), 2#7, 32#13, _, _, _, _, by decide, by decide, rfl, rfl, Iff.rfl, by decide, by decide,
    by decide, rfl, by decide, by decide, by decide, by decide, by decide⟩,
   ⟨(withRing run 32 (plainRing 1 5 4)), 2#7, 32#13, _, _, _, _, by decide, by decide, rfl, rfl, Iff.rfl, by decide, by decide,
    by decide, rfl, by decide, by decide, by decide, by decide⟩,
   ⟨(withBytes (withRing run 33 (gatherRing 1)) 0x2180 [3#8, 0#8, 0#8, 0#8, 5#8, 0#8, 2#8, 0#8, 9#8]), 2#7, 33#13, 3#12, _, _,
    _, _, by decide, by decide, rfl, rfl, Iff.rfl, by decide, by decide, by decide, rfl, by decide, by decide, by decide,
    by decide, by decide, by decide⟩,
   ⟨{ run with rings := { run.rings with cBusy := true } }, 2#7, 32#13, _, _, _, _, by decide, by decide, rfl, rfl, Iff.rfl,
    by decide, by decide, by decide, rfl, by decide⟩,
   ⟨run, 2#7, 31#13, _, _, _, _, by decide, by decide, rfl, rfl, Iff.rfl, by decide, by decide, by decide, rfl, by decide,
    by decide, by decide⟩,
   ⟨(withRing run 32 (plainRing 1 5 5)), 2#7, 32#13, _, _, _, _, by decide, by decide, rfl, rfl, Iff.rfl, by decide, by decide,
    by decide, rfl, by decide, by decide, by decide⟩,
   ⟨run, 2#7, 32#13, _, _, _, _, by decide, by decide, rfl, rfl, Iff.rfl, by decide, by decide, by decide, rfl, by decide,
    by decide, by decide⟩,
   ⟨(withRing run 32 (plainRing 2 5 4)), 2#7, 32#13, _, _, _, _, by decide, by decide, rfl, rfl, Iff.rfl, by decide, by decide,
    by decide, rfl, by decide, by decide, by decide⟩,
   ⟨(withBytes (withRing run 33 (gatherRing 1)) 0x2180 [3#8, 0#8, 0#8, 0#8, 5#8, 0#8, 2#8, 0#8, 9#8]), 2#7, 33#13, 4#12, _, _,
    _, _, by decide, by decide, rfl, rfl, Iff.rfl, by decide, by decide, by decide, rfl, by decide, by decide,
    Or.inr (Or.inr (Or.inl (by decide)))⟩,
   ⟨{ run with rings := { run.rings with cBusy := true } }, by decide, by decide⟩⟩

theorem witness_RingStoresTakeWrites :
    (∃ (s : State) (m : Master) (tag : BitVec 13) (value : Word) (t : Nat) (goal : Nat) (r : Ring) (ws : List Nat) (srcs : List
      (Nat × Nat)), s.pins.alive = true ∧ s.journal.freeze = false ∧ s.may m.toNat .ring true = true ∧ Memory.wf s.rings.store =
      true ∧ Memory.wf s.rings.credit = true ∧ t = tag.toNat ∧ r = s.ring t ∧ (r.state = RingState.opened ∨ r.state =
      RingState.draining) ∧ r.type = RingType.plain ∧ s.journal.rstate ≠ .replay ∧ s.mem.bad = [] ∧ goal = (value.toNat + 2 ^ 32
      - r.rptr) % 2 ^ 32 ∧ goal ≤ (r.wptr + 2 ^ 32 - r.rptr) % 2 ^ 32 ∧ UnreadHeaders s r goal 0 ws ∧ Tbl.wf 0 srcs = true ∧ (∀
      k, Tbl.get 0 srcs k = ((ws.filter fun w => sourceKey w == k).map fun w => (fld 48 40 w + 4) / 4).sum)) ∧
    (∃ (s : State) (m : Master) (tag : BitVec 13) (value : Word) (t : Nat) (goal : Nat) (r : Ring) (ws : List Nat) (srcs : List
      (Nat × Nat)), s.pins.alive = true ∧ s.journal.freeze = false ∧ s.may m.toNat .ring true = true ∧ Memory.wf s.rings.store =
      true ∧ Memory.wf s.rings.credit = true ∧ t = tag.toNat ∧ r = s.ring t ∧ (r.state = RingState.opened ∨ r.state =
      RingState.draining) ∧ r.type = RingType.plain ∧ s.journal.rstate ≠ .replay ∧ s.mem.bad = [] ∧ goal = (value.toNat + 2 ^ 32
      - r.rptr) % 2 ^ 32 ∧ goal ≤ (r.wptr + 2 ^ 32 - r.rptr) % 2 ^ 32 ∧ UnreadHeaders s r goal 0 ws ∧ Tbl.wf 0 srcs = true ∧ (∀
      k, Tbl.get 0 srcs k = ((ws.filter fun w => sourceKey w == k).map fun w => (fld 48 40 w + 4) / 4).sum)) ∧
    (∃ (s : State) (m : Master) (tag : BitVec 13) (value : Word) (t : Nat) (goal : Nat) (r : Ring), s.pins.alive = true ∧
      s.journal.freeze = false ∧ s.may m.toNat .ring true = true ∧ Memory.wf s.rings.store = true ∧ Memory.wf s.rings.credit =
      true ∧ t = tag.toNat ∧ r = s.ring t ∧ (r.state = RingState.opened ∨ r.state = RingState.draining) ∧ r.type =
      RingType.plain ∧ s.journal.rstate ≠ .replay ∧ s.mem.bad = [] ∧ goal = (value.toNat + 2 ^ 32 - r.rptr) % 2 ^ 32 ∧ (r.wptr +
      2 ^ 32 - r.rptr) % 2 ^ 32 < goal) ∧
    (∃ (s : State) (m : Master) (t : Nat), s.pins.alive = true ∧ s.journal.freeze = false ∧ s.may m.toNat .ring true = true ∧
      Memory.wf s.rings.store = true ∧ Memory.wf s.rings.credit = true ∧ t < 8192 ∧ (s.ring t).state = RingState.closed) ∧
    (∃ (s : State) (m : Master) (t : Nat) (data : DWord), s.pins.alive = true ∧ s.journal.freeze = false ∧ s.may m.toNat .ring
      true = true ∧ Memory.wf s.rings.store = true ∧ Memory.wf s.rings.credit = true ∧ t < 8192 ∧ (s.ring t).state ≠
      RingState.closed ∧ data.toNat % 2 ^ 32 ≠ (s.ring t).base) ∧
    (∃ (s : State) (m : Master) (e : Nat), s.pins.alive = true ∧ s.journal.freeze = false ∧ s.may m.toNat .ring true = true ∧
      Memory.wf s.rings.store = true ∧ Memory.wf s.rings.credit = true ∧ e < 2048 ∧ s.rings.parked = []) :=
  ⟨⟨(withBytes (ringed run) 0x1008 [0#8, 0#8, 0#8, 0#8, 0#8, 1#8]), 2#7, 32#13, 1#32, _, _, _, [0x10000000000], [(0, 1)],
    by decide, by decide, by decide, by decide, by decide, rfl, rfl, by decide, by decide, by decide, by decide, rfl, by decide,
    And.intro (by decide) (And.intro rfl rfl), by decide, oneSource⟩,
   ⟨(withBytes (ringed run) 0x1008 [0#8, 0#8, 0#8, 0#8, 0#8, 1#8]), 2#7, 32#13, 0#32, _, _, _, [], [], by decide, by decide,
    by decide, by decide, by decide, rfl, rfl, by decide, by decide, by decide, by decide, rfl, by decide, rfl, by decide,
    fun _ => rfl⟩,
   ⟨(withBytes (ringed run) 0x1008 [0#8, 0#8, 0#8, 0#8, 0#8, 1#8]), 2#7, 32#13, 2#32, _, _, _, by decide, by decide, by decide,
    by decide, by decide, rfl, rfl, by decide, by decide, by decide, by decide, rfl, by decide⟩,
   ⟨run, 2#7, 8191, by decide, by decide, by decide, by decide, by decide, by decide, by decide⟩,
   ⟨(ringed run), 2#7, 32, 0x12345678#64, by decide, by decide, by decide, by decide, by decide, by decide, by decide,
    by decide⟩,
   ⟨(withEntry run 1 1), 2#7, 2047, by decide, by decide, by decide, by decide, by decide, by decide, by decide⟩⟩

theorem witness_RouterForwardsMessages :
    (∃ (s : State) (p : BitVec 2) (m : Message) (side : Sideband), s.pins.alive = true ∧ (s.port p.toNat).state = .up ∧
      s.laneFree p.toNat (Msg.lane m) = true ∧ side.mc = false ∧ side.tpid = s.router.pid ∧ Msg.dchip m = s.router.chip.toNat ∧
      s.router.lvalid = true ∧ Msg.dlcid m = s.router.lcid.toNat ∧ Msg.kind m ≤ 4 ∧ s.localAccepts m = true) ∧
    (∃ (s : State) (p : BitVec 2) (m : Message) (side : Sideband) (e : BitVec 12) (d : Nat) (o : Nat), s.pins.alive = true ∧
      (s.port p.toNat).state = .up ∧ s.laneFree p.toNat (Msg.lane m) = true ∧ side.mc = false ∧ side.tpid = s.router.pid ∧
      Msg.dchip m = s.router.chip.toNat ∧ (s.router.lvalid = false ∨ Msg.dlcid m ≠ s.router.lcid.toNat) ∧ e = Tbl.get 0#12
      s.router.active (Msg.dlcid m) ∧ e.getLsbD 11 = true ∧ d = e.toNat % 2 ^ 11 ∧ d ≠ s.router.pid.toNat ∧ side.rr = false ∧
      s.adapts m = false ∧ XyOutput s.router.pid.toNat d o ∧ (s.port o).state = .up ∧ (∀ l, l < 4 → Vec.at (s.port o).credits l
      = 0) ∧ s.router.comb = false) ∧
    (∃ (s : State) (p : BitVec 2) (m : Message) (side : Sideband), s.pins.alive = true ∧ (s.port p.toNat).state = .up ∧
      s.laneFree p.toNat (Msg.lane m) = true ∧ side.mc = false ∧ side.tpid = s.router.pid ∧ Msg.dchip m = s.router.chip.toNat ∧
      (s.router.lvalid = false ∨ Msg.dlcid m ≠ s.router.lcid.toNat) ∧ (side.rr = true ∨ (Tbl.get 0#12 s.router.active (Msg.dlcid
      m)).getLsbD 11 = false ∨ (Tbl.get 0#12 s.router.active (Msg.dlcid m)).toNat % 2 ^ 11 = s.router.pid.toNat)) ∧
    (∃ (s : State) (p : BitVec 2) (m : Message) (side : Sideband) (o : Nat), s.pins.alive = true ∧ (s.port p.toNat).state = .up
      ∧ s.laneFree p.toNat (Msg.lane m) = true ∧ side.mc = false ∧ XyOutput s.router.pid.toNat side.tpid.toNat o ∧ s.adapts m =
      false ∧ (s.port o).state = .up ∧ (∀ l, l < 4 → Vec.at (s.port o).credits l = 0) ∧ s.router.comb = false) ∧
    (∃ (s : State) (p : BitVec 2) (m : Message) (side : Sideband) (o : Nat), s.pins.alive = true ∧ (s.port p.toNat).state = .up
      ∧ s.laneFree p.toNat (Msg.lane m) = true ∧ side.mc = false ∧ XyOutput s.router.pid.toNat side.tpid.toNat o ∧ s.adapts m =
      false ∧ (s.port o).state = .up ∧ o ≠ p.toNat ∧ (s.port o).outq = [] ∧ 0 < Vec.at (s.port o).credits (Msg.lane m) ∧
      m.payload = []) ∧
    (∃ (s : State) (p : BitVec 2) (m : Message) (side : Sideband) (o : Nat), s.pins.alive = true ∧ (s.port p.toNat).state = .up
      ∧ s.laneFree p.toNat (Msg.lane m) = true ∧ side.mc = false ∧ XyOutput s.router.pid.toNat side.tpid.toNat o ∧ s.adapts m =
      false ∧ (s.port o).state ≠ .up) ∧
    (∃ (s : State) (p : BitVec 2) (m : Message) (side : Sideband), s.pins.alive = true ∧ (s.port p.toNat).state = .up ∧
      s.laneFree p.toNat (Msg.lane m) = true ∧ side.mc = true ∧ s.router.edge = false ∧ (Msg.kind m = Kind.revoke ∨ (Msg.kind m
      = Kind.sync ∧ Msg.sop m = 2)) ∧ (Msg.domain m = s.gaffer.domain.toNat → s.localAccepts m = true) ∧ s.router.comb = false ∧
      (∀ k l, k < 4 → l < 4 → Vec.at (s.port k).credits l = 0)) ∧
    (∃ (s : State) (m : Message) (b : Bool) (rest : List (Message × Bool)), s.pins.alive = true ∧ s.router.txq = (m, b) :: rest
      ∧ s.laneFree 5 (Msg.lane m) = true ∧ Msg.dlcid m ≠ 0x7FF ∧ Msg.dchip m = s.router.chip.toNat ∧ (Tbl.get 0#12
      s.router.active (Msg.dlcid m)).getLsbD 11 = false) ∧
    (∃ (s : State) (m : Message) (b : Bool) (rest : List (Message × Bool)) (e : BitVec 12), s.pins.alive = true ∧ s.router.txq =
      (m, b) :: rest ∧ s.laneFree 5 (Msg.lane m) = true ∧ Msg.dlcid m ≠ 0x7FF ∧ Msg.dchip m = s.router.chip.toNat ∧ e = Tbl.get
      0#12 s.router.active (Msg.dlcid m) ∧ e.getLsbD 11 = true ∧ e.toNat % 2 ^ 11 = s.router.pid.toNat ∧ s.router.lvalid = true
      ∧ Msg.dlcid m = s.router.lcid.toNat ∧ Msg.kind m ≤ 4 ∧ s.localAccepts m = true) ∧
    (∃ (s : State) (m : Message) (rr : Bool) (rest : List (Message × Bool × Bool)) (e : BitVec 12), s.pins.alive = true ∧
      s.router.link.rxq = (m, false, rr) :: rest ∧ s.laneFree 4 (Msg.lane m) = true ∧ Msg.dlcid m ≠ 0x7FF ∧ Msg.dchip m =
      s.router.chip.toNat ∧ e = Tbl.get 0#12 s.router.active (Msg.dlcid m) ∧ e.getLsbD 11 = true ∧ e.toNat % 2 ^ 11 =
      s.router.pid.toNat ∧ s.router.lvalid = true ∧ Msg.dlcid m = s.router.lcid.toNat ∧ Msg.kind m ≤ 4 ∧ s.localAccepts m =
      true) ∧
    (∃ (s : State) (p : BitVec 2) (m : Message) (side : Sideband) (o : Nat) (x : OutMsg) (rest : List OutMsg), s.pins.alive =
      true ∧ (s.port p.toNat).state = .up ∧ s.laneFree p.toNat (Msg.lane m) = true ∧ side.mc = false ∧ XyOutput
      s.router.pid.toNat side.tpid.toNat o ∧ s.adapts m = false ∧ (s.port o).state = .up ∧ s.router.comb = true ∧ (s.port
      o).outq = x :: rest ∧ x.left = Msg.flits x.msg ∧ x.left = 1 ∧ x.side = side ∧ Msg.kind m = Kind.sync ∧ Msg.sop m = 1 ∧
      Msg.kind x.msg = Kind.sync ∧ Msg.sop x.msg = 1 ∧ x.msg.w0 = m.w0 ∧ Msg.bid x.msg = Msg.bid m ∧ Msg.gen x.msg = Msg.gen m ∧
      Msg.count x.msg + Msg.count m ≤ 0xFFFFFF) :=
  ⟨⟨{ run.onPort 3 fun x => { x with state := .up } with
      router := { (run.onPort 3 fun x => { x with state := .up }).router with lvalid := true, lcid := 3#11 } }, 3#2,
    { w0 := 0x1000000000003000#64, w1 := 0x8000000000000000#64, payload := [] }, { tpid := 0#11, rr := false, mc := false },
    by decide, by decide, by decide, by decide, by decide, by decide, by decide, by decide, by decide, by decide⟩,
   ⟨{ (run.onPort 3 fun x => { x with state := .up }).onPort 1 fun x => { x with state := .up, credits := #v[0, 0, 0, 0] } with
      router := { ((run.onPort 3 fun x => { x with state := .up }).onPort 1 fun x =>
       { x with state := .up, credits := #v[0, 0, 0, 0] }).router with comb := false, active := [(3, 0x801#12)] } }, 3#2,
    { w0 := 0x1000000000003000#64, w1 := 0x8000000000000000#64, payload := [] }, { tpid := 0#11, rr := false, mc := false }, _,
    _, 1, by decide, by decide, by decide, by decide, by decide, by decide, by decide, rfl, by decide, rfl, by decide,
    by decide, by decide, by unfold XyOutput; decide, by decide, by decide, by decide⟩,
   ⟨run.onPort 3 fun x => { x with state := .up }, 3#2,
    { w0 := 0x1000000000003000#64, w1 := 0x8000000000000000#64, payload := [] }, { tpid := 0#11, rr := false, mc := false },
    by decide, by decide, by decide, by decide, by decide, by decide, by decide, by decide⟩,
   ⟨{ (run.onPort 3 fun x => { x with state := .up }).onPort 1 fun x => { x with state := .up, credits := #v[0, 0, 0, 0] } with
      router := { ((run.onPort 3 fun x => { x with state := .up }).onPort 1 fun x =>
       { x with state := .up, credits := #v[0, 0, 0, 0] }).router with comb := false } }, 3#2,
    { w0 := 0x1000000000003000#64, w1 := 0x8000000000000000#64, payload := [] }, { tpid := 1#11, rr := false, mc := false }, 1,
    by decide, by decide, by decide, by decide, by unfold XyOutput; decide, by decide, by decide, by decide, by decide⟩,
   ⟨(run.onPort 3 fun x => { x with state := .up }).onPort 1 fun x => { x with state := .up }, 3#2,
    { w0 := 0x1000000000003000#64, w1 := 0x8000000000000000#64, payload := [] }, { tpid := 1#11, rr := false, mc := false }, 1,
    by decide, by decide, by decide, by decide, by unfold XyOutput; decide, by decide, by decide, by decide, by decide,
    by decide, by decide⟩,
   ⟨run.onPort 3 fun x => { x with state := .up }, 3#2,
    { w0 := 0x1000000000003000#64, w1 := 0x8000000000000000#64, payload := [] }, { tpid := 64#11, rr := false, mc := false }, 2,
    by decide, by decide, by decide, by decide, by unfold XyOutput; decide, by decide, by decide⟩,
   ⟨mute, 3#2, { w0 := 0x1000000000003000#64, w1 := 0x8000000000000000#64, payload := [] },
    { tpid := 0#11, rr := false, mc := true }, by decide, by decide, by decide, by decide, by decide, by decide, by decide,
    by decide, all44 (by decide)⟩,
   ⟨{ run with
      router :=
      { run.router with txq := [({ w0 := 0x1000000000003000#64, w1 := 0x8000000000000000#64, payload := [] }, false)] } },
    { w0 := 0x1000000000003000#64, w1 := 0x8000000000000000#64, payload := [] }, false, [], by decide, by decide, by decide,
    by decide, by decide, by decide⟩,
   ⟨{ run with
      router := { run.router with
        txq := [({ w0 := 0x1000000000003000#64, w1 := 0x8000000000000000#64, payload := [] }, false)], lvalid := true, lcid :=
        3#11, active := [(3, 0x800#12)] } }, { w0 := 0x1000000000003000#64, w1 := 0x8000000000000000#64, payload := [] }, false,
    [], _, by decide, by decide, by decide, by decide, by decide, rfl, by decide, by decide, by decide, by decide, by decide,
    by decide⟩,
   ⟨{ run with
      router := { run.router with
        link := { run.router.link with
          rxq := [({ w0 := 0x1000000000003000#64, w1 := 0x8000000000000000#64, payload := [] }, false, false)] }, lvalid :=
        true, lcid := 3#11, active := [(3, 0x800#12)] } },
    { w0 := 0x1000000000003000#64, w1 := 0x8000000000000000#64, payload := [] }, false, [], _, by decide, by decide, by decide,
    by decide, by decide, rfl, by decide, by decide, by decide, by decide, by decide, by decide⟩,
   ⟨{ (run.onPort 3 fun x => { x with state := .up }).onPort 1 fun x => { x with
      state := .up, credits := #v[0, 0, 0, 0], outq := [{
        msg := { w0 := 0x1000000000003000#64, w1 := 0x74001c0000000002#64, payload := [] }, side :=
        { tpid := 1#11, rr := false, mc := false }, input := 2, held := false, left := 1 }] } with
      router := { ((run.onPort 3 fun x => { x with state := .up }).onPort 1 fun x => { x with
        state := .up, credits := #v[0, 0, 0, 0], outq := [{
          msg := { w0 := 0x1000000000003000#64, w1 := 0x74001c0000000002#64, payload := [] }, side :=
          { tpid := 1#11, rr := false, mc := false }, input := 2, held := false, left := 1 }] }).router with comb := true } },
    3#2, { w0 := 0x1000000000003000#64, w1 := 0x74001c0000000002#64, payload := [] },
    { tpid := 1#11, rr := false, mc := false }, 1, {
      msg := { w0 := 0x1000000000003000#64, w1 := 0x74001c0000000002#64, payload := [] }, side :=
      { tpid := 1#11, rr := false, mc := false }, input := 2, held := false, left := 1 }, [], by decide, by decide, by decide,
    by decide, by unfold XyOutput; decide, by decide, by decide, by decide, by decide, by decide, by decide, by decide,
    by decide, by decide, by decide, by decide, by decide, by decide, by decide, by decide⟩⟩

theorem witness_PortStatesChange :
    (∃ (s : State) (p : Fin 5), s.pins.alive = true ∧ (s.port p.val).outq = []) ∧
    (∃ (s : State) (p : Fin 5), s.pins.alive = true ∧ (s.port p.val).outq = []) ∧
    (∃ (s : State) (p : Fin 5) (lane : BitVec 2) (o : OutMsg) (f : List Byte), s.pins.alive = true ∧ (s.port p.val).outq = [o] ∧
      (s.port p.val).state = .up ∧ lane.toNat = Msg.lane o.msg ∧ Vec.at (s.port p.val).credits lane.toNat = 0 ∧ 0 < o.left ∧
      o.left ≤ Msg.flits o.msg ∧ o.input < 6 ∧ f = padTo 64 ((leBytes 8 o.msg.w0.toNat ++ leBytes 8 o.msg.w1.toNat ++
      o.msg.payload).drop (64 * (Msg.flits o.msg - o.left))) ∧ (p.val = 4 → s.router.link.unacked.length < 240)) ∧
    (∃ (s : State) (p : Fin 5) (lane : BitVec 2) (o : OutMsg) (f : List Byte), s.pins.alive = true ∧ (s.port p.val).outq = [o] ∧
      (s.port p.val).state = .up ∧ lane.toNat = Msg.lane o.msg ∧ Vec.at (s.port p.val).credits lane.toNat = 0 ∧ 0 < o.left ∧
      o.left ≤ Msg.flits o.msg ∧ o.input < 6 ∧ f = padTo 64 ((leBytes 8 o.msg.w0.toNat ++ leBytes 8 o.msg.w1.toNat ++
      o.msg.payload).drop (64 * (Msg.flits o.msg - o.left))) ∧ (p.val = 4 → s.router.link.unacked.length < 240)) ∧
    (∃ (s : State) (p : Fin 5), s.pins.alive = true ∧ p.val < 4 ∧ (s.port p.val).state ∈ [.up, .hello, .mismatch] ∧ (s.port
      p.val).txNc + 1024 ≤ s.nc) ∧
    (∃ (s : State) (p : Fin 5), s.pins.alive = true ∧ p.val < 4 ∧ (s.port p.val).state ∈ [.up, .hello, .mismatch] ∧ s.nc <
      (s.port p.val).txNc + 1024) ∧
    (∃ (s : State) (p : Fin 5), s.pins.alive = true ∧ p.val < 4 ∧ (s.port p.val).state ∈ [.up, .hello, .mismatch]) ∧
    (∃ (s : State) (p : Fin 5), s.pins.alive = true ∧ (p.val = 4 ∨ (s.port p.val).state ∈ [.down, .training, .tied])) ∧
    (∃ (s : State) (p : Fin 5), s.pins.alive = true ∧ (s.port p.val).peerReady = true ∧ (s.port p.val).state ≠ .tied ∧
      NothingArriving s p.val) ∧
    (∃ (s : State) (p : Fin 5), s.pins.alive = true ∧ ((s.port p.val).peerReady = false ∨ (s.port p.val).state = .tied)) ∧
    (∃ (s : State) (p : Fin 5), s.pins.alive = true ∧ (s.port p.val).peerReady = false ∧ (s.port p.val).state = .down ∧ (s.port
      p.val).ownReady = true) ∧
    (∃ (s : State) (p : Fin 5), s.pins.alive = true ∧ (s.port p.val).state ∈ [.up, .hello, .mismatch] ∧ (s.port p.val).rxNc +
      2048 ≤ s.nc ∧ NothingArriving s p.val) ∧
    (∃ (s : State) (p : Fin 5), s.pins.alive = true ∧ (s.port p.val).state ∈ [.up, .hello, .mismatch] ∧ (s.port p.val).rxNc +
      2048 ≤ s.nc ∧ NothingArriving s p.val) ∧
    (∃ (s : State) (p : Fin 5), s.pins.alive = true ∧ s.nc < (s.port p.val).rxNc + 2048) ∧
    (∃ (s : State) (p : Fin 5), s.pins.alive = true ∧ (s.port p.val).state = .down ∧ (s.port p.val).ownReady = false ∧ (s.port
      p.val).holdNc + 64 ≤ s.nc) ∧
    (∃ (s : State) (p : Fin 5), s.pins.alive = true ∧ s.nc < (s.port p.val).holdNc + 64) ∧
    (∃ (s : State) (p : Fin 5), s.pins.alive = true ∧ p.val < 4 ∧ (s.port p.val).state = .training) :=
  ⟨⟨run.onPort 4 fun x => { x with credits := #v[4, 15, 16, 0] }, 4, by decide, by decide⟩,
   ⟨run.onPort 4 fun x => { x with credits := #v[4, 15, 16, 0] }, 4, by decide, by decide⟩,
   ⟨run.onPort 1 fun x => { x with
      state := .up, credits := #v[0, 0, 0, 0], outq := [{
        msg := { w0 := 0x1000000000003000#64, w1 := 0x74001c0000000002#64, payload := [] }, side :=
        { tpid := 1#11, rr := false, mc := false }, input := 2, held := false, left := 1 }] }, 1, 0#2, {
      msg := { w0 := 0x1000000000003000#64, w1 := 0x74001c0000000002#64, payload := [] }, side :=
      { tpid := 1#11, rr := false, mc := false }, input := 2, held := false, left := 1 }, _, by decide, by decide, by decide,
    by decide, by decide, by decide, by decide, by decide, rfl, by decide⟩,
   ⟨run.onPort 4 fun x => { x with
      state := .up, credits := #v[0, 0, 0, 0], outq := [{
        msg := { w0 := 0x1000000000003000#64, w1 := 0x74001c0000000002#64, payload := [] }, side :=
        { tpid := 1#11, rr := false, mc := false }, input := 2, held := false, left := 1 }] }, 4, 0#2, {
      msg := { w0 := 0x1000000000003000#64, w1 := 0x74001c0000000002#64, payload := [] }, side :=
      { tpid := 1#11, rr := false, mc := false }, input := 2, held := false, left := 1 }, _, by decide, by decide, by decide,
    by decide, by decide, by decide, by decide, by decide, rfl, by decide⟩,
   ⟨{ run.onPort 3 fun x => { x with state := .mismatch } with nc := 1024 }, 3, by decide, by decide, by decide, by decide⟩,
   ⟨{ run.onPort 3 fun x => { x with state := .mismatch } with nc := 1023 }, 3, by decide, by decide, by decide, by decide⟩,
   ⟨run.onPort 3 fun x => { x with state := .up }, 3, by decide, by decide, by decide⟩,
   ⟨run, 4, by decide, by decide⟩,
   ⟨run.onPort 4 fun x => { x with
      state := .up, outq := [{
        msg := { w0 := 0x1000000000003000#64, w1 := 0x74001c0000000002#64, payload := [] }, side :=
        { tpid := 1#11, rr := false, mc := false }, input := 2, held := false, left := 1 }] }, 4, by decide, by decide,
    by decide, by unfold NothingArriving; decide⟩,
   ⟨run.onPort 4 fun x => { x with state := .down, peerReady := false }, 4, by decide, by decide⟩,
   ⟨run.onPort 4 fun x => { x with state := .down, peerReady := false, ownReady := true }, 4, by decide, by decide, by decide,
    by decide⟩,
   ⟨{ run.onPort 4 fun x => { x with state := .up } with nc := 2048 }, 4, by decide, by decide, by decide,
    by unfold NothingArriving; decide⟩,
   ⟨{ run.onPort 0 fun x => { x with state := .hello } with nc := 2048 }, 0, by decide, by decide, by decide,
    by unfold NothingArriving; decide⟩,
   ⟨{ run.onPort 0 fun x => { x with state := .hello } with nc := 2047 }, 0, by decide, by decide⟩,
   ⟨{ run.onPort 0 fun x => { x with state := .down, ownReady := false } with nc := 64 }, 0, by decide, by decide, by decide,
    by decide⟩,
   ⟨{ run.onPort 0 fun x => { x with state := .down, ownReady := false } with nc := 63 }, 0, by decide, by decide⟩,
   ⟨run.onPort 3 fun x => { x with state := .training }, 3, by decide, by decide, by decide⟩⟩

theorem witness_HelloDecidesPort :
    (∃ (s : State) (p : Fin 5) (r : List Byte), s.pins.alive = true ∧ r.length = 64 ∧ p.val < 4 ∧ (s.port p.val).state = .hello
      ∧ (s.port p.val).helloSent = true ∧ HelloFits r) ∧
    (∃ (s : State) (p : Fin 5) (r : List Byte), s.pins.alive = true ∧ r.length = 64 ∧ p.val < 4 ∧ (s.port p.val).state = .hello
      ∧ (s.port p.val).helloSent = true ∧ HelloFits r) ∧
    (∃ (s : State) (p : Fin 5) (r : List Byte), s.pins.alive = true ∧ r.length = 64 ∧ (s.port p.val).state = .hello ∧ ¬
      HelloFits r ∧ s.gaffer.kiln.length < Config.kilnDepth) ∧
    (∃ (s : State) (p : Fin 5) (r : List Byte), s.pins.alive = true ∧ r.length = 64 ∧ (s.port p.val).state = .up ∧ HelloFits r)
      ∧
    (∃ (s : State) (p : Fin 5) (r : List Byte), s.pins.alive = true ∧ r.length = 64 ∧ (s.port p.val).state = .up ∧ ¬ HelloFits r
      ∧ NothingArriving s p.val) ∧
    (∃ (s : State) (p : Fin 5) (r : List Byte), s.pins.alive = true ∧ r.length = 64 ∧ (s.port p.val).state = .mismatch) ∧
    (∃ (s : State) (p : Fin 5) (r : List Byte), s.pins.alive = true ∧ r.length = 64 ∧ (s.port p.val).state ∈ [.down, .training,
      .tied]) ∧
    (∃ (s : State) (p : Fin 5) (r : List Byte), s.pins.alive = true ∧ r.length = 64 ∧ p.val = 4 ∧ (s.port 4).state = .hello ∧
      (s.port 4).helloSent = true ∧ (s.port 4).helloRecv = false ∧ HelloFits r ∧ min s.router.link.cap.toNat (leAt r 7 1 % 16) ≤
      1) ∧
    (∃ (s : State) (p : Fin 5) (r : List Byte), s.pins.alive = true ∧ r.length = 64 ∧ p.val = 4 ∧ (s.port 4).state = .hello ∧
      (s.port 4).helloSent = true ∧ (s.port 4).helloRecv = false ∧ HelloFits r ∧ 1 < min s.router.link.cap.toNat (leAt r 7 1 %
      16)) :=
  ⟨⟨run.onPort 3 fun x => { x with state := .hello, helloSent := true }, 3, ([1#8, 0#8, 2#8, 0#8, 0#8, 0#8, 0#8, 0x11#8, 0x10#8]
    ++ List.replicate 55 0#8), by decide, by decide, by decide, by decide, by decide, by unfold HelloFits; decide⟩,
   ⟨run.onPort 3 fun x => { x with state := .hello, helloSent := true, hadPartner := true }, 3, ([1#8, 0#8, 2#8, 0#8, 0#8, 0#8,
    0#8, 0x23#8, 0x10#8] ++ List.replicate 55 0#8), by decide, by decide, by decide, by decide, by decide,
    by unfold HelloFits; decide⟩,
   ⟨run.onPort 3 fun x => { x with state := .hello, helloSent := true }, 3, ([1#8, 0#8, 2#8, 0#8, 0#8, 0#8, 0#8, 0x01#8, 0x10#8]
    ++ List.replicate 55 0#8), by decide, by decide, by decide, by unfold HelloFits; decide, by decide⟩,
   ⟨run.onPort 3 fun x => { x with state := .up, hadPartner := true }, 3, ([1#8, 0#8, 2#8, 0#8, 0#8, 0#8, 0#8, 0x11#8, 0x10#8]
    ++ List.replicate 55 0#8), by decide, by decide, by decide, by unfold HelloFits; decide⟩,
   ⟨run.onPort 3 fun x => { x with
      state := .up, hadPartner := true, outq := [{
        msg := { w0 := 0x1000000000003000#64, w1 := 0x74001c0000000002#64, payload := [] }, side :=
        { tpid := 1#11, rr := false, mc := false }, input := 2, held := false, left := 1 }] }, 3, ([1#8, 0#8, 2#8, 0#8, 0#8,
    0#8, 0#8, 0x14#8, 0x10#8] ++ List.replicate 55 0#8), by decide, by decide, by decide, by unfold HelloFits; decide,
    by unfold NothingArriving; decide⟩,
   ⟨run.onPort 3 fun x => { x with state := .mismatch }, 3, ([1#8, 0#8, 2#8, 0#8, 0#8, 0#8, 0#8, 0x11#8, 0x10#8] ++
    List.replicate 55 0#8), by decide, by decide, by decide⟩,
   ⟨run.onPort 3 fun x => { x with state := .training }, 3, ([1#8, 0#8, 2#8, 0#8, 0#8, 0#8, 0#8, 0x11#8, 0x10#8] ++
    List.replicate 55 0#8), by decide, by decide, by decide⟩,
   ⟨run.onPort 4 fun x => { x with state := .hello, helloSent := true }, 4, ([1#8, 0#8, 2#8, 0#8, 0#8, 0#8, 0#8, 0x21#8, 0x10#8]
    ++ List.replicate 55 0#8), by decide, by decide, by decide, by decide, by decide, by decide, by unfold HelloFits; decide,
    by decide⟩,
   ⟨run.onPort 4 fun x => { x with state := .hello, helloSent := true }, 4, ([1#8, 0#8, 2#8, 0#8, 0#8, 0#8, 0#8, 0x22#8, 0x10#8]
    ++ List.replicate 55 0#8), by decide, by decide, by decide, by decide, by decide, by decide, by unfold HelloFits; decide,
    by decide⟩⟩

theorem witness_EdgeLinkKeepsOrder :
    (∃ (s : State) (f : List Byte), s.pins.alive = true ∧ f.length = 272 ∧ s.router.link.lock = true ∧ (s.port 4).state ∈ [.up,
      .hello, .mismatch, .training] ∧ leAt f 268 4 ≠ (crc32c (f.take 268)).toNat) ∧
    (∃ (s : State) (f : List Byte), s.pins.alive = true ∧ f.length = 272 ∧ s.router.link.lock = true ∧ (s.port 4).state ∈ [.up,
      .hello, .mismatch, .training] ∧ leAt f 268 4 = (crc32c (f.take 268)).toNat ∧ leAt f 4 1 = 1 ∧ (s.port 4).state ≠ .up) ∧
    (∃ (s : State) (f : List Byte), s.pins.alive = true ∧ f.length = 272 ∧ s.router.link.lock = true ∧ (s.port 4).state ∈ [.up,
      .hello, .mismatch, .training] ∧ leAt f 268 4 = (crc32c (f.take 268)).toNat ∧ leAt f 4 1 = 1 ∧ (s.port 4).state = .up ∧
      BitVec.ofNat 16 (leAt f 0 2) ≠ s.router.link.rxSeq + 1#16) ∧
    (∃ (s : State) (f : List Byte), s.pins.alive = true ∧ f.length = 272 ∧ s.router.link.lock = true ∧ (s.port 4).state ∈ [.up,
      .hello, .mismatch, .training] ∧ leAt f 268 4 = (crc32c (f.take 268)).toNat ∧ (leAt f 4 1 = 2 ∨ (leAt f 4 1 = 1 ∧ (s.port
      4).state = .up ∧ BitVec.ofNat 16 (leAt f 0 2) = s.router.link.rxSeq + 1#16)) ∧ (s.port 4).outq = []) ∧
    (∃ (s : State) (f : List Byte), s.pins.alive = true ∧ f.length = 272 ∧ s.router.link.lock = true ∧ (s.port 4).state ∈ [.up,
      .hello, .mismatch, .training] ∧ leAt f 268 4 = (crc32c (f.take 268)).toNat ∧ (leAt f 4 1 = 2 ∨ (leAt f 4 1 = 1 ∧ (s.port
      4).state = .up ∧ BitVec.ofNat 16 (leAt f 0 2) = s.router.link.rxSeq + 1#16)) ∧ (s.port 4).outq = []) ∧
    (∃ (s : State) (f : List Byte), s.pins.alive = true ∧ f.length = 272 ∧ s.router.link.lock = true ∧ (s.port 4).state ∈ [.up,
      .hello, .mismatch, .training] ∧ leAt f 268 4 = (crc32c (f.take 268)).toNat ∧ leAt f 4 1 = 3 ∧ (s.port 4).outq = [] ∧
      s.router.link.unacked ≠ [] ∧ s.router.link.resends < 8 ∧ (∀ g ∈ s.router.link.unacked, g.1 ≠ BitVec.ofNat 16 (leAt f 2 2)
      - 1#16)) ∧
    (∃ (s : State), s.pins.alive = true ∧ s.router.link.unacked ≠ [] ∧ s.router.link.ackNc + 4096 ≤ s.nc ∧ s.router.link.resends
      < 8) ∧
    (∃ (s : State), s.pins.alive = true ∧ s.router.link.unacked ≠ [] ∧ s.router.link.ackNc + 4096 ≤ s.nc ∧ 8 ≤
      s.router.link.resends ∧ (s.port 4).state ≠ .tied ∧ NothingArriving s 4) ∧
    (∃ (s : State), s.pins.alive = true ∧ s.router.link.train = true ∧ s.router.link.lock = false ∧ s.router.link.sinceNc +
      170000 ≤ s.nc ∧ 1 < s.router.link.gen.toNat) ∧
    (∃ (s : State), s.pins.alive = true ∧ s.router.link.train = true ∧ s.router.link.lock = false ∧ s.router.link.sinceNc +
      170000 ≤ s.nc ∧ s.router.link.gen.toNat ≤ 1 ∧ (s.port 4).state ≠ .tied ∧ NothingArriving s 4) ∧
    (∃ (s : State), s.pins.alive = true ∧ s.router.link.failed = true ∧ s.router.link.sinceNc + 17000000 ≤ s.nc) ∧
    (∃ (s : State), s.pins.alive = true ∧ s.router.link.failed = true ∧ s.nc < s.router.link.sinceNc + 17000000) ∧
    (∃ (s : State), s.pins.alive = true ∧ s.router.link.lock = false ∧ (s.port 4).state = .training) ∧
    (∃ (s : State), s.pins.alive = true ∧ s.router.link.lock = false ∧ (s.port 4).state = .hello ∧ (s.port 4).helloRecv = true)
      ∧
    (∃ (s : State), s.pins.alive = true ∧ s.router.link.lock = true ∧ (s.port 4).state = .up ∧ NothingArriving s 4) :=
  ⟨⟨{ run.onPort 4 fun x => { x with state := .up } with
      router := { (run.onPort 4 fun x => { x with state := .up }).router with
        link := { (run.onPort 4 fun x => { x with state := .up }).router.link with lock := true } } }, (List.replicate 272 0#8),
    by decide +kernel, by decide +kernel, by decide +kernel, by decide +kernel, by decide +kernel⟩,
   ⟨{ run.onPort 4 fun x => { x with state := .hello } with
      router := { (run.onPort 4 fun x => { x with state := .hello }).router with
        link := { (run.onPort 4 fun x => { x with state := .hello }).router.link with lock := true } } }, (([1#8, 0#8, 0#8, 0#8,
    1#8, 0#8, 0x21#8] ++ List.replicate 261 0#8) ++ leBytes 4 (crc32c ([1#8, 0#8, 0#8, 0#8, 1#8, 0#8, 0x21#8] ++ List.replicate
    261 0#8)).toNat), by decide +kernel, by decide +kernel, by decide +kernel, by decide +kernel, by decide +kernel,
    by decide +kernel, by decide +kernel⟩,
   ⟨{ run.onPort 4 fun x => { x with state := .up } with
      router := { (run.onPort 4 fun x => { x with state := .up }).router with
        link := { (run.onPort 4 fun x => { x with state := .up }).router.link with lock := true } } }, (([2#8, 0#8, 0#8, 0#8,
    1#8, 0#8, 0x21#8] ++ List.replicate 261 0#8) ++ leBytes 4 (crc32c ([2#8, 0#8, 0#8, 0#8, 1#8, 0#8, 0x21#8] ++ List.replicate
    261 0#8)).toNat), by decide +kernel, by decide +kernel, by decide +kernel, by decide +kernel, by decide +kernel,
    by decide +kernel, by decide +kernel, by decide +kernel⟩,
   ⟨{ run.onPort 4 fun x => { x with state := .up } with
      router := { (run.onPort 4 fun x => { x with state := .up }).router with
        link := { (run.onPort 4 fun x => { x with state := .up }).router.link with lock := true } } }, (([1#8, 0#8, 0#8, 0#8,
    1#8, 0#8, 0x21#8] ++ List.replicate 261 0#8) ++ leBytes 4 (crc32c ([1#8, 0#8, 0#8, 0#8, 1#8, 0#8, 0x21#8] ++ List.replicate
    261 0#8)).toNat), by decide +kernel, by decide +kernel, by decide +kernel, by decide +kernel, by decide +kernel,
    Or.inr (by decide +kernel), by decide +kernel⟩,
   ⟨{ run.onPort 4 fun x => { x with state := .hello, credits := #v[0, 0, 0, 0] } with
      router := { (run.onPort 4 fun x => { x with state := .hello, credits := #v[0, 0, 0, 0] }).router with
        link := { (run.onPort 4 fun x => { x with state := .hello, credits := #v[0, 0, 0, 0] }).router.link with lock := true }
        } }, (([0#8, 0#8, 0#8, 0#8, 2#8, 0#8, 0x21#8] ++ List.replicate 261 0#8) ++ leBytes 4 (crc32c ([0#8, 0#8, 0#8, 0#8, 2#8,
    0#8, 0x21#8] ++ List.replicate 261 0#8)).toNat), by decide +kernel, by decide +kernel, by decide +kernel, by decide +kernel,
    by decide +kernel, Or.inl (by decide +kernel), by decide +kernel⟩,
   ⟨{ run.onPort 4 fun x => { x with state := .up } with
      router := { (run.onPort 4 fun x => { x with state := .up }).router with
        link :=
        { (run.onPort 4 fun x => { x with state := .up }).router.link with lock := true, unacked := [(1#16, [])], resends := 7 }
        } }, (([0#8, 0#8, 1#8, 0#8, 3#8, 0#8, 0x21#8] ++ List.replicate 261 0#8) ++ leBytes 4 (crc32c ([0#8, 0#8, 1#8, 0#8, 3#8,
    0#8, 0x21#8] ++ List.replicate 261 0#8)).toNat), by decide +kernel, by decide +kernel, by decide +kernel, by decide +kernel,
    by decide +kernel, by decide +kernel, by decide +kernel, by decide +kernel, by decide +kernel, by decide +kernel⟩,
   ⟨{ { run.onPort 4 fun x => { x with state := .up } with
      router := { (run.onPort 4 fun x => { x with state := .up }).router with
        link := { (run.onPort 4 fun x => { x with state := .up }).router.link with unacked := [(1#16, [])], resends := 7 } } }
     with nc := 4096 }, by decide +kernel, by decide +kernel, by decide +kernel, by decide +kernel⟩,
   ⟨{ { run.onPort 4 fun x => { x with state := .up } with
      router := { (run.onPort 4 fun x => { x with state := .up }).router with
        link := { (run.onPort 4 fun x => { x with state := .up }).router.link with unacked := [(1#16, [])], resends := 8 } } }
     with nc := 4096 }, by decide +kernel, by decide +kernel, by decide +kernel, by decide +kernel, by decide +kernel,
    by unfold NothingArriving; decide +kernel⟩,
   ⟨{ { run.onPort 4 fun x => { x with state := .training } with
      router := { (run.onPort 4 fun x => { x with state := .training }).router with
        link := { (run.onPort 4 fun x => { x with state := .training }).router.link with train := true, gen := 2#2 } } } with
      nc := 170000 }, by decide +kernel, by decide +kernel, by decide +kernel, by decide +kernel, by decide +kernel⟩,
   ⟨{ { run.onPort 4 fun x => { x with state := .training } with
      router := { (run.onPort 4 fun x => { x with state := .training }).router with
        link := { (run.onPort 4 fun x => { x with state := .training }).router.link with train := true, gen := 1#2 } } } with
      nc := 170000 }, by decide +kernel, by decide +kernel, by decide +kernel, by decide +kernel, by decide +kernel,
    by decide +kernel, by unfold NothingArriving; decide +kernel⟩,
   ⟨{ { run.onPort 4 fun x => { x with state := .down } with
      router := { (run.onPort 4 fun x => { x with state := .down }).router with
        link := { (run.onPort 4 fun x => { x with state := .down }).router.link with failed := true } } } with nc := 17000000 },
    by decide +kernel, by decide +kernel, by decide +kernel⟩,
   ⟨{ { run.onPort 4 fun x => { x with state := .down } with
      router := { (run.onPort 4 fun x => { x with state := .down }).router with
        link := { (run.onPort 4 fun x => { x with state := .down }).router.link with failed := true } } } with nc := 16999999 },
    by decide +kernel, by decide +kernel, by decide +kernel⟩,
   ⟨run.onPort 4 fun x => { x with state := .training }, by decide +kernel, by decide +kernel, by decide +kernel⟩,
   ⟨run.onPort 4 fun x => { x with state := .hello, helloRecv := true }, by decide +kernel, by decide +kernel,
    by decide +kernel, by decide +kernel⟩,
   ⟨{ run.onPort 4 fun x => { x with state := .up } with
      router := { (run.onPort 4 fun x => { x with state := .up }).router with
        link := { (run.onPort 4 fun x => { x with state := .up }).router.link with lock := true } } }, by decide +kernel,
    by decide +kernel, by decide +kernel, by unfold NothingArriving; decide +kernel⟩⟩

theorem witness_PulsesSynchroniseCount :
    (∃ (s : State), s.pins.alive = true ∧ s.pins.testMode = true) ∧
    (∃ (s : State), s.pins.alive = true ∧ s.pins.testMode = false ∧ s.lehr.synced = false ∧ 64 ≤ s.lehr.samples) ∧
    (∃ (s : State), s.pins.alive = true ∧ s.pins.testMode = false ∧ s.lehr.synced = false ∧ s.lehr.samples < 64) ∧
    (∃ (s : State), s.pins.alive = true ∧ s.pins.testMode = false ∧ s.lehr.synced = true) ∧
    (∃ (s : State) (v : DWord), s.pins.alive = true ∧ s.pins.testMode = false ∧ s.lehr.synced = true ∧ s.gaffer.eventCount <
      Config.eventDepth ∧ s.gaffer.kiln.length < Config.kilnDepth ∧ v ≠ s.lehr.lc) ∧
    (∃ (s : State) (v : DWord), s.pins.alive = true ∧ s.pins.testMode = false ∧ s.lehr.synced = true ∧ s.gaffer.eventCount <
      Config.eventDepth ∧ s.gaffer.kiln.length < Config.kilnDepth ∧ v ≠ s.lehr.lc) ∧
    (∃ (s : State), s.pins.alive = true ∧ s.pins.testMode = false ∧ s.lehr.synced = true ∧ s.gaffer.eventCount <
      Config.eventDepth ∧ s.gaffer.kiln.length < Config.kilnDepth ∧ s.lehr.watch = true ∧ 65600 ≤ s.lehr.sincePulse) ∧
    (∃ (s : State), s.pins.alive = true ∧ (s.lehr.watch = false ∨ s.lehr.sincePulse < 65600)) :=
  ⟨⟨{ run with pins := { run.pins with testMode := true } }, by decide, by decide⟩,
   ⟨{ run with lehr := { run.lehr with samples := 64 } }, by decide, by decide, by decide, by decide⟩,
   ⟨{ run with lehr := { run.lehr with samples := 63 } }, by decide, by decide, by decide, by decide⟩,
   ⟨{ run with lehr := { run.lehr with synced := true, lc := 9#64 } }, by decide, by decide, by decide⟩,
   ⟨{ run with lehr := { run.lehr with synced := true, lc := 9#64 } }, 10#64, by decide, by decide, by decide, by decide,
    by decide, by decide⟩,
   ⟨{ run with lehr := { run.lehr with synced := true, lc := 0x10009#64 } }, 9#64, by decide, by decide, by decide, by decide,
    by decide, by decide⟩,
   ⟨{ run with lehr := { run.lehr with synced := true, watch := true, sincePulse := 65600 } }, by decide, by decide, by decide,
    by decide, by decide, by decide, by decide⟩,
   ⟨{ run with lehr := { run.lehr with synced := true, watch := true, sincePulse := 65599 } }, by decide, by decide⟩⟩

theorem witness_TimedActionsFire :
    (∃ (s : State) (a : Fin 8) (x : TimedAction) (ctl : Word) (kind : BitVec 4), s.pins.alive = true ∧ x = Vec.at s.lehr.acts
      a.val ∧ s.may 0x50 .reg true = true ∧ ctl.getLsbD 31 = true ∧ kind = BitVec.ofNat 4 ctl.toNat ∧ 1 ≤ kind.toNat ∧
      kind.toNat ≤ 4 ∧ s.lehr.synced = true ∧ s.lehr.lc.toNat < x.target.toNat ∧ (kind = 3#4 → remapOk s.router.staged = true ∧
      (s.journal.fvalid = true → lcidOf s.router.staged s.router.pid.toNat ≠ some s.journal.flcid.toNat))) ∧
    (∃ (s : State) (a : Fin 8) (x : TimedAction) (ctl : Word) (kind : BitVec 4), s.pins.alive = true ∧ x = Vec.at s.lehr.acts
      a.val ∧ s.may 0x50 .reg true = true ∧ ctl.getLsbD 31 = true ∧ kind = BitVec.ofNat 4 ctl.toNat ∧ (kind.toNat = 0 ∨ 4 <
      kind.toNat ∨ s.lehr.synced = false ∨ x.target.toNat ≤ s.lehr.lc.toNat ∨ (kind = 3#4 ∧ remapOk s.router.staged = false))) ∧
    (∃ (s : State) (a : Fin 8) (x : TimedAction), s.pins.alive = true ∧ x = Vec.at s.lehr.acts a.val ∧ s.dueAct a.val 1#4 = true
      ∧ s.inRun = true ∧ (x.replay = true → s.journal.rstate = .replay)) ∧
    (∃ (s : State) (a : Fin 8) (x : TimedAction) (k : BitVec 4) (i : Instr), s.pins.alive = true ∧ x = Vec.at s.lehr.acts a.val
      ∧ ((k = 1#4 ∧ i = .launch a ∧ s.inRun = false) ∨ (k = 2#4 ∧ i = .snapshotActionFire a ∧ (s.inRun = false ∨
      s.journal.rstate ≠ .none))) ∧ s.dueAct a.val k = true ∧ s.gaffer.eventCount < Config.eventDepth) ∧
    (∃ (s : State) (a : Fin 8) (x : TimedAction) (k : BitVec 4) (i : Instr), s.pins.alive = true ∧ x = Vec.at s.lehr.acts a.val
      ∧ ((k = 1#4 ∧ i = .launch a ∧ s.inRun = false) ∨ (k = 2#4 ∧ i = .snapshotActionFire a ∧ (s.inRun = false ∨
      s.journal.rstate ≠ .none))) ∧ s.dueAct a.val k = true ∧ s.gaffer.eventCount < Config.eventDepth) ∧
    (∃ (s : State) (a : Fin 8) (x : TimedAction), s.pins.alive = true ∧ x = Vec.at s.lehr.acts a.val ∧ s.dueAct a.val 2#4 = true
      ∧ s.inRun = true ∧ s.journal.rstate = .none) ∧
    (∃ (s : State) (a : Fin 8) (x : TimedAction) (m : Nat), s.pins.alive = true ∧ x = Vec.at s.lehr.acts a.val ∧ m = x.arg.toNat
      % 4 ∧ s.dueAct a.val 4#4 = true ∧ s.gaffer.validMould m = true) ∧
    (∃ (s : State) (a : Fin 8) (x : TimedAction) (m : Nat), s.pins.alive = true ∧ x = Vec.at s.lehr.acts a.val ∧ m = x.arg.toNat
      % 4 ∧ s.dueAct a.val 4#4 = true ∧ s.gaffer.validMould m = false ∧ s.gaffer.eventCount < Config.eventDepth) ∧
    (∃ (s : State) (a : Fin 8) (x : TimedAction), s.pins.alive = true ∧ x = Vec.at s.lehr.acts a.val ∧ s.dueAct a.val 1#4 =
      false) ∧
    (∃ (s : State) (a : Fin 8) (x : TimedAction), s.pins.alive = true ∧ x = Vec.at s.lehr.acts a.val ∧ s.lehr.snapInt ≠ 0#32 ∧
      s.lehr.due s.lehr.snapNext = true ∧ s.inRun = true ∧ s.journal.rstate = .none ∧ s.lehr.snapNext.toNat ≤ s.lehr.lc.toNat ∧
      s.lehr.lc.toNat + s.lehr.snapInt.toNat < 2 ^ 64) :=
  ⟨⟨({ run with lehr := { run.lehr with synced := true, lc := 5#64 } }).onAct 7 fun x => { x with target := 6#64 }, 7, _,
    0x80000004#32, _, by decide +kernel, rfl, by decide +kernel, by decide +kernel, rfl, by decide +kernel, by decide +kernel,
    by decide +kernel, by decide +kernel, by decide +kernel⟩,
   ⟨({ run with lehr := { run.lehr with synced := true, lc := 5#64 } }).onAct 7 fun x => { x with target := 5#64 }, 7, _,
    0x80000001#32, _, by decide +kernel, rfl, by decide +kernel, by decide +kernel, rfl, by decide +kernel⟩,
   ⟨({ run with lehr := { run.lehr with evLc := 5#64, lc := 5#64 } }).onAct 7 fun x =>
    { x with target := 5#64, armed := true, kind := 1#4, arg := 0xFFFE#32 }, 7, _, by decide +kernel, rfl, by decide +kernel,
    by decide +kernel, by decide +kernel⟩,
   ⟨({ State.reset with lehr := { (State.reset).lehr with evLc := 5#64 } }).onAct 7 fun x =>
    { x with target := 5#64, armed := true, kind := 1#4 }, 7, _, 1#4, (.launch 7), by decide +kernel, rfl,
    Or.inl (by decide +kernel), by decide +kernel, by decide +kernel⟩,
   ⟨({ { run with lehr := { run.lehr with evLc := 5#64, lc := 5#64 } } with
      journal := { run.journal with rstate := .replay } }).onAct 7 fun x =>
    { x with target := 5#64, armed := true, kind := 2#4 }, 7, _, 2#4, (.snapshotActionFire 7), by decide +kernel, rfl,
    Or.inr (by decide +kernel), by decide +kernel, by decide +kernel⟩,
   ⟨({ run with lehr := { run.lehr with evLc := 5#64, lc := 5#64 } }).onAct 7 fun x =>
    { x with target := 5#64, armed := true, kind := 2#4 }, 7, _, by decide +kernel, rfl, by decide +kernel, by decide +kernel,
    by decide +kernel⟩,
   ⟨(moulded (({ run with lehr := { run.lehr with evLc := 5#64, lc := 5#64 } }).onAct 7 fun x =>
    { x with target := 5#64, armed := true, kind := 4#4, arg := 4#32 })), 7, _, 0, by decide +kernel, rfl, by decide +kernel,
    by decide +kernel, moulded_valid _⟩,
   ⟨({ run with lehr := { run.lehr with evLc := 5#64, lc := 5#64 } }).onAct 7 fun x =>
    { x with target := 5#64, armed := true, kind := 4#4, arg := 7#32 }, 7, _, _, by decide +kernel, rfl, rfl, by decide +kernel,
    by decide +kernel, by decide +kernel⟩,
   ⟨({ run with lehr := { run.lehr with evLc := 5#64, lc := 5#64 } }).onAct 7 fun x =>
    { x with target := 6#64, armed := true, kind := 1#4 }, 7, _, by decide +kernel, rfl, by decide +kernel⟩,
   ⟨{ run with lehr := { run.lehr with evLc := 5#64, lc := 5#64, snapInt := 3#32, snapNext := 5#64 } }, 0, _, by decide +kernel,
    rfl, by decide +kernel, by decide +kernel, by decide +kernel, by decide +kernel, by decide +kernel, by decide +kernel⟩⟩

theorem witness_JournalAndTraceAreWritten :
    (∃ (s : State) (r : JRecord) (rest : List JRecord), s.pins.alive = true ∧ s.journal.staged = r :: rest ∧ 0 <
      s.journal.region ∧ 32 ≤ r.bytes.length ∧ r.pos % s.journal.region + r.bytes.length ≤ s.journal.region ∧ (s.journal.retain
      = none ∨ ∃ m, s.journal.retain = some m ∧ r.pos + r.bytes.length ≤ m.pos + s.journal.region) ∧ s.far.length +
      r.bytes.length / 256 + 2 ≤ Config.farTags) ∧
    (∃ (s : State) (r : JRecord) (rest : List JRecord), s.pins.alive = true ∧ s.journal.staged = r :: rest ∧ 0 <
      s.journal.region ∧ 32 ≤ r.bytes.length ∧ r.pos % s.journal.region + r.bytes.length ≤ s.journal.region ∧ (s.journal.retain
      = none ∨ ∃ m, s.journal.retain = some m ∧ r.pos + r.bytes.length ≤ m.pos + s.journal.region) ∧ s.far.length +
      r.bytes.length / 256 + 2 ≤ Config.farTags) ∧
    (∃ (s : State) (r : JRecord) (rest : List JRecord) (m : MarkPoint), s.pins.alive = true ∧ s.journal.staged = r :: rest ∧ 0 <
      s.journal.region ∧ 32 ≤ r.bytes.length ∧ r.pos % s.journal.region + r.bytes.length ≤ s.journal.region ∧ s.journal.retain =
      some m ∧ m.pos + s.journal.region < r.pos + r.bytes.length ∧ s.journal.stopped = false) ∧
    (∃ (s : State) (x : List Byte) (rest : List (List Byte)), s.pins.alive = true ∧ s.journal.staged = [] ∧ s.journal.trace = x
      :: rest ∧ s.journal.tsize ≠ 0#16 ∧ s.far.length < Config.farTags) ∧
    (∃ (s : State), s.pins.alive = true ∧ s.journal.ten = true ∧ s.inRun = true ∧ 10 ≤ s.journal.tper.toNat ∧
      s.journal.tper.toNat ≤ 24 ∧ s.lehr.lc.toNat % 2 ^ s.journal.tper.toNat = 0 ∧ s.journal.tlast ≠ some s.lehr.lc ∧
      s.journal.fill ≤ 196608) ∧
    (∃ (s : State), s.pins.alive = true ∧ s.journal.ten = true ∧ s.inRun = true ∧ 10 ≤ s.journal.tper.toNat ∧
      s.journal.tper.toNat ≤ 24 ∧ s.lehr.lc.toNat % 2 ^ s.journal.tper.toNat = 0 ∧ s.journal.tlast ≠ some s.lehr.lc ∧ 196608 <
      s.journal.fill) :=
  ⟨⟨{ run with
      journal := { run.journal with
        staged := [{ jseq := 1#32, pos := 0x10000, bytes := List.replicate 32 1#8, beat := 0, rank := 0 }], size := 1#16, base
        := 0x10000#64 } }, { jseq := 1#32, pos := 0x10000, bytes := List.replicate 32 1#8, beat := 0, rank := 0 }, [],
    by decide, by decide, by decide, by decide, by decide, Or.inl rfl, by decide⟩,
   ⟨{ run with
      journal := { run.journal with
        staged := [{ jseq := 1#32, pos := 0x10000, bytes := List.replicate 32 1#8, beat := 0, rank := 0 }], size := 1#16, base
        := 0x10000#64, retain := some { jseq := 1#32, pos := 32, send := [], credit := [], revoke := [] } } },
    { jseq := 1#32, pos := 0x10000, bytes := List.replicate 32 1#8, beat := 0, rank := 0 }, [], by decide, by decide, by decide,
    by decide, by decide, Or.inr ⟨_, rfl, by decide⟩, by decide⟩,
   ⟨{ run with
      journal := { run.journal with
        staged := [{ jseq := 1#32, pos := 0x10000, bytes := List.replicate 32 1#8, beat := 0, rank := 0 }], size := 1#16, base
        := 0x10000#64, retain := some { jseq := 1#32, pos := 31, send := [], credit := [], revoke := [] } } },
    { jseq := 1#32, pos := 0x10000, bytes := List.replicate 32 1#8, beat := 0, rank := 0 }, [],
    { jseq := 1#32, pos := 31, send := [], credit := [], revoke := [] }, by decide, by decide, by decide, by decide, by decide,
    by decide, by decide, by decide⟩,
   ⟨{ run with
      journal := { run.journal with trace := [(List.replicate 32 7#8)], tsize := 1#16, tbase := 0x40000#64, tpos := 2049 } },
    (List.replicate 32 7#8), [], by decide, by decide, by decide, by decide, by decide⟩,
   ⟨{ run with journal := { run.journal with ten := true, tper := 10#5 } }, by decide, by decide, by decide, by decide,
    by decide, by decide, by decide, by decide⟩,
   ⟨(backlog 196609), by decide, by decide, by decide, by decide, by decide, by decide, by decide, lt_of_lt_of_eq (b := 196609)
    (by decide) ((fill_one (j := (backlog 196609).journal) rfl).trans List.length_replicate).symm⟩⟩

theorem witness_SnapshotRunsInOrder :
    (∃ (s : State) (b : Fin 14) (pass : DWord) (replayed : Bool) (seq : Word) (cause : Nat), s.inRun = true ∧ (s.barrier
      b.val).passAt = some (pass, replayed) ∧ (s.barrier b.val).pend = true ∧ s.sched.bar = some (b.val, seq) ∧ pass.toNat ≤
      s.lehr.evLc.toNat ∧ (∀ a, a < 8 → (Vec.at s.lehr.acts a).armed = false) ∧ s.lehr.snapInt = 0#32 ∧ s.journal.snapPend =
      true ∧ s.journal.snapPendAt.toNat ≤ s.lehr.evLc.toNat ∧ s.journal.snapBusy = false ∧ SnapRefusal s cause ∧ cause ≠ 0) ∧
    (∃ (s : State) (b : Fin 14) (pass : DWord) (replayed : Bool) (seq : Word) (cause : Nat), s.inRun = true ∧ (s.barrier
      b.val).passAt = some (pass, replayed) ∧ (s.barrier b.val).pend = true ∧ s.sched.bar = some (b.val, seq) ∧ pass.toNat ≤
      s.lehr.evLc.toNat ∧ (∀ a, a < 8 → (Vec.at s.lehr.acts a).armed = false) ∧ s.lehr.snapInt = 0#32 ∧ s.journal.snapPend =
      true ∧ s.journal.snapPendAt.toNat ≤ s.lehr.evLc.toNat ∧ s.journal.snapBusy = false ∧ SnapRefusal s cause ∧ cause = 0) ∧
    (∃ (s : State) (id : DWord) (bank : Bool) (bid : Nat) (gen : Half) (jseq : Word) (base : Nat), s.pins.alive = true ∧
      s.journal.snapNow = some (id, bank, bid, gen, jseq) ∧ base = s.journal.snapBase.toNat + (if bank then 0x280000 else 0) ∧
      s.journal.snapPhase = .marked ∧ s.rings.writes = [] ∧ (∀ i ∈ s.router.inbox, i.marked = false)) ∧
    (∃ (s : State) (id : DWord) (bank : Bool) (bid : Nat) (gen : Half) (jseq : Word) (base : Nat), s.pins.alive = true ∧
      s.journal.snapNow = some (id, bank, bid, gen, jseq) ∧ base = s.journal.snapBase.toNat + (if bank then 0x280000 else 0) ∧
      s.journal.snapPhase = .marked ∧ s.rings.writes ≠ []) ∧
    (∃ (s : State) (id : DWord) (bank : Bool) (bid : Nat) (gen : Half) (jseq : Word) (base : Nat), s.pins.alive = true ∧
      s.journal.snapNow = some (id, bank, bid, gen, jseq) ∧ base = s.journal.snapBase.toNat + (if bank then 0x280000 else 0) ∧
      s.journal.snapPhase = .headerDone) ∧
    (∃ (s : State) (id : DWord) (bank : Bool) (bid : Nat) (gen : Half) (jseq : Word) (base : Nat) (p : SnapPiece) (rest : List
      SnapPiece) (bs : List Byte) (c : Nat), s.pins.alive = true ∧ s.journal.snapNow = some (id, bank, bid, gen, jseq) ∧ base =
      s.journal.snapBase.toNat + (if bank then 0x280000 else 0) ∧ s.journal.snapPhase = .copying ∧ s.journal.snapTodo = p ::
      rest ∧ s.journal.snapOut < 64 ∧ s.se.xfers.length + s.journal.snapOut < Config.xferLimit ∧ s.far.length < Config.farTags ∧
      c = (if p.addr / 2 ^ 45 = s.router.chip.toNat then 1 else 2) ∧ (if c = 1 then s.se.shareWrite else s.se.shareRemote) ≠ 0#8
      ∧ 100 * bs.length ≤ Vec.at s.se.buckets c ∧ (∀ a x, p = .bytes a x → bs = x) ∧ (∀ a r k, p = .region a r k → bs =
      s.mem.mem.readBytes (4096 * r + 256 * k) 256 ∧ s.mem.badIn (4096 * r + 256 * k) 256 = none)) ∧
    (∃ (s : State) (id : DWord) (bank : Bool) (bid : Nat) (gen : Half) (jseq : Word) (base : Nat) (p : SnapPiece) (rest : List
      SnapPiece) (bs : List Byte) (c : Nat), s.pins.alive = true ∧ s.journal.snapNow = some (id, bank, bid, gen, jseq) ∧ base =
      s.journal.snapBase.toNat + (if bank then 0x280000 else 0) ∧ s.journal.snapPhase = .copying ∧ s.journal.snapTodo = p ::
      rest ∧ s.journal.snapOut < 64 ∧ s.se.xfers.length + s.journal.snapOut < Config.xferLimit ∧ s.far.length < Config.farTags ∧
      c = (if p.addr / 2 ^ 45 = s.router.chip.toNat then 1 else 2) ∧ (if c = 1 then s.se.shareWrite else s.se.shareRemote) ≠ 0#8
      ∧ 100 * bs.length ≤ Vec.at s.se.buckets c ∧ (∀ a x, p = .bytes a x → bs = x) ∧ (∀ a r k, p = .region a r k → bs =
      s.mem.mem.readBytes (4096 * r + 256 * k) 256 ∧ s.mem.badIn (4096 * r + 256 * k) 256 = none)) ∧
    (∃ (s : State) (id : DWord) (bank : Bool) (bid : Nat) (gen : Half) (jseq : Word) (base : Nat), s.pins.alive = true ∧
      s.journal.snapNow = some (id, bank, bid, gen, jseq) ∧ base = s.journal.snapBase.toNat + (if bank then 0x280000 else 0) ∧
      s.journal.snapPhase = .copied ∧ s.journal.snapOut = 0 ∧ s.journal.snapTodo = [] ∧ s.journal.snapPage.length = 4096) ∧
    (∃ (s : State) (id : DWord) (bank : Bool) (bid : Nat) (gen : Half) (jseq : Word) (base : Nat), s.pins.alive = true ∧
      s.journal.snapNow = some (id, bank, bid, gen, jseq) ∧ base = s.journal.snapBase.toNat + (if bank then 0x280000 else 0) ∧
      s.journal.snapPhase = .finalDone) ∧
    (∃ (s : State) (id : DWord) (bank : Bool) (bid : Nat) (gen : Half) (jseq : Word) (base : Nat) (tag : BitVec 11) (err :
      FarErr) (r : FarReq) (c : Bool), s.pins.alive = true ∧ s.journal.snapNow = some (id, bank, bid, gen, jseq) ∧ base =
      s.journal.snapBase.toNat + (if bank then 0x280000 else 0) ∧ s.far.find? (fun q => q.tag == tag.toNat && q.write) = some r
      ∧ r.use = .snapHeader c ∧ err = .ok ∧ s.journal.snapOut = 1 ∧ s.journal.snapTodo = [] ∧ s.journal.snapPhase = .header) ∧
    (∃ (s : State) (id : DWord) (bank : Bool) (bid : Nat) (gen : Half) (jseq : Word) (base : Nat) (tag : BitVec 11) (err :
      FarErr) (r : FarReq) (c : Bool), s.pins.alive = true ∧ s.journal.snapNow = some (id, bank, bid, gen, jseq) ∧ base =
      s.journal.snapBase.toNat + (if bank then 0x280000 else 0) ∧ s.far.find? (fun q => q.tag == tag.toNat && q.write) = some r
      ∧ r.use = .snapHeader c ∧ err = .ok ∧ s.journal.snapOut = 1 ∧ s.journal.snapTodo = [] ∧ s.journal.snapPhase = .final) ∧
    (∃ (s : State) (id : DWord) (bank : Bool) (bid : Nat) (gen : Half) (jseq : Word) (base : Nat) (tag : BitVec 11) (err :
      FarErr) (r : FarReq), s.pins.alive = true ∧ s.journal.snapNow = some (id, bank, bid, gen, jseq) ∧ base =
      s.journal.snapBase.toNat + (if bank then 0x280000 else 0) ∧ s.far.find? (fun q => q.tag == tag.toNat && q.write) = some r
      ∧ r.use = .snapshot ∧ err = .ok) ∧
    (∃ (s : State) (id : DWord) (bank : Bool) (bid : Nat) (gen : Half) (jseq : Word) (base : Nat) (tag : BitVec 11) (err :
      FarErr) (r : FarReq) (c : Bool), s.pins.alive = true ∧ s.journal.snapNow = some (id, bank, bid, gen, jseq) ∧ base =
      s.journal.snapBase.toNat + (if bank then 0x280000 else 0) ∧ s.far.find? (fun q => q.tag == tag.toNat && q.write) = some r
      ∧ r.use = .snapHeader c ∧ err ≠ .ok) :=
  ⟨⟨{ (takenIn run 7).onBar 13 fun b => { b with pend := true, gen := 7#16, passAt := some (5#64, false) } with
      lehr := { ((takenIn run 7).onBar 13 fun b => { b with pend := true, gen := 7#16, passAt := some (5#64, false) }).lehr with
        evLc := 5#64, lc := 5#64 }, sched := { run.sched with bar := some (13, 1#32) }, journal :=
      { run.journal with snapPend := true, snapPendAt := 5#64 } }, 13, 5#64, false, 1#32, 1, by decide, by decide, by decide,
    by decide, by decide, by decide, by decide, by decide, by decide, by decide, Or.inl (by decide), by decide⟩,
   ⟨{ (takenIn run 7).onBar 13 fun b => { b with pend := true, gen := 7#16, passAt := some (5#64, false) } with
      lehr := { ((takenIn run 7).onBar 13 fun b => { b with pend := true, gen := 7#16, passAt := some (5#64, false) }).lehr with
        evLc := 5#64, lc := 5#64 }, sched := { run.sched with bar := some (13, 1#32) }, journal :=
      { run.journal with snapPend := true, snapPendAt := 5#64, snapBase := 0x100000#64, size := 1#16 } }, 13, 5#64, false, 1#32,
    0, by decide, by decide, by decide, by decide, by decide, by decide, by decide, by decide, by decide, by decide,
    snapFree (by decide) (by decide), by decide⟩,
   ⟨{ run with
      journal := { run.journal with
        snapNow := some (5#64, false, 13, 1#16, 5#32), snapPhase := .marked, snapBase := 0x100000#64, snapBusy := true, freeze
        := true } }, 5#64, false, 13, 1#16, 5#32, _, by decide, by decide, rfl, by decide, by decide, by decide⟩,
   ⟨{ { run with
      journal := { run.journal with
        snapNow := some (5#64, false, 13, 1#16, 5#32), snapPhase := .marked, snapBase := 0x100000#64, snapBusy := true, freeze
        := true } } with
      rings := { run.rings with
        writes := [{
          tag := 32, pos := 15#32, n := 1, msg := {
            w0 := 0x1c0010000000#64, w1 := 0x10000000000#64, payload := [1#8, 2#8, 3#8, 4#8, 5#8, 6#8, 7#8, 8#8, 9#8, 10#8,
            11#8, 12#8, 13#8, 14#8, 15#8, 16#8] }, stamp := 0#64 }] } }, 5#64, false, 13, 1#16, 5#32, _, by decide, by decide,
    rfl, by decide, by decide⟩,
   ⟨{ run with
      journal := { run.journal with
        snapNow := some (5#64, false, 13, 1#16, 5#32), snapPhase := .headerDone, snapBase := 0x100000#64, snapBusy := true,
        dirty0 := 3#512, live := 1#512, freeze := true } }, 5#64, false, 13, 1#16, 5#32, _, by decide, by decide, rfl,
    by decide⟩,
   ⟨{ run with
      journal := { run.journal with
        snapNow := some (5#64, false, 13, 1#16, 5#32), snapPhase := .copying, snapBase := 0x100000#64, snapBusy := true, freeze
        := true, snapTodo := [.bytes 0x100000 (List.replicate 16 3#8)] } }, 5#64, false, 13, 1#16, 5#32, _, (.bytes 0x100000
    (List.replicate 16 3#8)), [], (List.replicate 16 3#8), _, by decide, by decide, rfl, by decide, by decide, by decide,
    by decide, by decide, rfl, by decide, by decide, (by intro a x h; injection h), (by intro a r k h; cases h)⟩,
   ⟨{ run with
      journal := { run.journal with
        snapNow := some (5#64, false, 13, 1#16, 5#32), snapPhase := .copying, snapBase := 0x100000#64, snapBusy := true, freeze
        := true, dirty0 := 3#512, snapTodo := [.region 0x180F00 0 15, .region 0x181000 1 0] } }, 5#64, false, 13, 1#16, 5#32, _,
    (.region 0x180F00 0 15), [.region 0x181000 1 0], (List.replicate 256 0#8), _, by decide, by decide, rfl, by decide,
    by decide, by decide, by decide, by decide, rfl, by decide, by decide, (by intro a x h; cases h),
    (by intro a r k h; cases h; decide)⟩,
   ⟨{ run with
      journal := { run.journal with
        snapNow := some (5#64, false, 13, 1#16, 5#32), snapPhase := .copied, snapBase := 0x100000#64, snapBusy := true, snapPage
        := List.replicate 4096 5#8 } }, 5#64, false, 13, 1#16, 5#32, _, by decide, by decide, rfl, by decide, by decide,
    by decide, List.length_replicate⟩,
   ⟨{ run with
      journal := { run.journal with
        snapNow := some (5#64, false, 13, 1#16, 5#32), snapPhase := .finalDone, snapBase := 0x100000#64, snapBusy := true,
        snapMark := some { jseq := 1#32, pos := 64, send := [], credit := [], revoke := [] } } }, 5#64, false, 13, 1#16, 5#32,
    _, by decide, by decide, rfl, by decide⟩,
   ⟨{ { run with
      journal := { run.journal with
        snapNow := some (5#64, false, 13, 1#16, 5#32), snapPhase := .header, snapBase := 0x100000#64, snapBusy := true, snapOut
        := 1, freeze := true } } with
      far := [{
        tag := 3, write := true, addr := 0x100000, len := 16, mid := 0x50#7, use := .snapHeader false, data := [], err := .ok }]
      }, 5#64, false, 13, 1#16, 5#32, _, 3#11, .ok,
    { tag := 3, write := true, addr := 0x100000, len := 16, mid := 0x50#7, use := .snapHeader false, data := [], err := .ok },
    false, by decide, by decide, rfl, by decide, by decide, by decide, by decide, by decide, by decide⟩,
   ⟨{ { run with
      journal := { run.journal with
        snapNow := some (5#64, false, 13, 1#16, 5#32), snapPhase := .final, snapBase := 0x100000#64, snapBusy := true, snapOut
        := 1, freeze := true } } with
      far :=
      [{ tag := 3, write := true, addr := 0x100000, len := 16, mid := 0x50#7, use := .snapHeader true, data := [], err := .ok }]
      }, 5#64, false, 13, 1#16, 5#32, _, 3#11, .ok,
    { tag := 3, write := true, addr := 0x100000, len := 16, mid := 0x50#7, use := .snapHeader true, data := [], err := .ok },
    true, by decide, by decide, rfl, by decide, by decide, by decide, by decide, by decide, by decide⟩,
   ⟨{ { run with
      journal := { run.journal with
        snapNow := some (5#64, false, 13, 1#16, 5#32), snapPhase := .copied, snapBase := 0x100000#64, snapBusy := true, snapOut
        := 1, freeze := true } } with
      far := [{ tag := 3, write := true, addr := 0x100000, len := 16, mid := 0x50#7, use := .snapshot, data := [], err := .ok }]
      }, 5#64, false, 13, 1#16, 5#32, _, 3#11, .ok,
    { tag := 3, write := true, addr := 0x100000, len := 16, mid := 0x50#7, use := .snapshot, data := [], err := .ok },
    by decide, by decide, rfl, by decide, by decide, by decide⟩,
   ⟨{ { run with
      journal := { run.journal with
        snapNow := some (5#64, false, 13, 1#16, 5#32), snapPhase := .header, snapBase := 0x100000#64, snapBusy := true, snapOut
        := 1, freeze := true } } with
      far := [{
        tag := 3, write := true, addr := 0x100000, len := 16, mid := 0x50#7, use := .snapHeader false, data := [], err := .ok }]
      }, 5#64, false, 13, 1#16, 5#32, _, 3#11, .data,
    { tag := 3, write := true, addr := 0x100000, len := 16, mid := 0x50#7, use := .snapHeader false, data := [], err := .ok },
    false, by decide, by decide, rfl, by decide, by decide, by decide⟩⟩

theorem witness_RestoreLoadsSnapshot :
    (∃ (s : State) (far : FarReply) (r : ReplyTo) (base : DWord) (src : DWord) (bank : Bool) (len : Nat) (a : Nat) (h : List
      Byte), s.pins.alive = true ∧ s.gaffer.action = some (.restore r base bank src len) ∧ a = sysBits base.toNat + (if bank
      then 0x280000 else 0) ∧ h = replyBytes far a 128 ∧ s.inRun = false) ∧
    (∃ (s : State) (far : FarReply) (r : ReplyTo) (base : DWord) (src : DWord) (bank : Bool) (len : Nat) (a : Nat) (h : List
      Byte), s.pins.alive = true ∧ s.gaffer.action = some (.restore r base bank src len) ∧ a = sysBits base.toNat + (if bank
      then 0x280000 else 0) ∧ h = replyBytes far a 128 ∧ s.inRun = true ∧ (∃ e ∈ far.errs, a ≤ e.1 ∧ e.1 < a + 0x280000 ∧ e.2 ≠
      .ok)) ∧
    (∃ (s : State) (far : FarReply) (r : ReplyTo) (base : DWord) (src : DWord) (bank : Bool) (len : Nat) (a : Nat) (h : List
      Byte), s.pins.alive = true ∧ s.gaffer.action = some (.restore r base bank src len) ∧ a = sysBits base.toNat + (if bank
      then 0x280000 else 0) ∧ h = replyBytes far a 128 ∧ s.inRun = true ∧ (∀ e ∈ far.errs, a ≤ e.1 → e.1 < a + 0x280000 → e.2 =
      .ok) ∧ (leAt h 0 4 ≠ 0x20000 ∨ leAt h 124 4 ≠ (crc32c (h.take 124)).toNat ∨ leAt h 22 1 % 2 = 0 ∨ leAt h 16 2 ≠
      s.router.chip.toNat)) ∧
    (∃ (s : State) (far : FarReply) (r : ReplyTo) (base : DWord) (src : DWord) (bank : Bool) (len : Nat) (a : Nat) (h : List
      Byte), s.pins.alive = true ∧ s.gaffer.action = some (.restore r base bank src len) ∧ a = sysBits base.toNat + (if bank
      then 0x280000 else 0) ∧ h = replyBytes far a 128 ∧ s.inRun = true ∧ (∀ e ∈ far.errs, a ≤ e.1 → e.1 < a + 0x280000 → e.2 =
      .ok) ∧ leAt h 0 4 = 0x20000 ∧ leAt h 124 4 = (crc32c (h.take 124)).toNat ∧ leAt h 22 1 % 2 = 1 ∧ leAt h 16 2 =
      s.router.chip.toNat ∧ isSys src.toNat = true ∧ (∀ e ∈ far.errs, sysBits src.toNat ≤ e.1 → e.1 < sysBits src.toNat + len →
      e.2 = .ok)) :=
  ⟨⟨{ acting run (.restore reply 0x1000000000100000#64 true 0x1000000000000000#64 8) with tier := State.reset.tier },
    { cells := [], errs := [] }, reply, 0x1000000000100000#64, 0x1000000000000000#64, true, 8, _, _, by decide +kernel,
    by decide +kernel, rfl, rfl, by decide +kernel⟩,
   ⟨(acting run (.restore reply 0x1000000000100000#64 true 0x1000000000000000#64 8)),
    { cells := [], errs := [(0x380000, .data)] }, reply, 0x1000000000100000#64, 0x1000000000000000#64, true, 8, _, _,
    by decide +kernel, by decide +kernel, rfl, rfl, by decide +kernel, by decide +kernel⟩,
   ⟨(acting run (.restore reply 0x1000000000100000#64 false 0x1000000000000000#64 8)),
    { cells := [], errs := [(0x380000, .data)] }, reply, 0x1000000000100000#64, 0x1000000000000000#64, false, 8, _, _,
    by decide +kernel, by decide +kernel, rfl, rfl, by decide +kernel, by decide +kernel, Or.inl (by decide +kernel)⟩,
   ⟨(withBytes (acting run (.restore reply 0x1000000000100000#64 false 0x1000000000000000#64 8)) 0x2000 [1#8]), {
      cells := (answer 0x100000 ((leBytes 4 0x20000 ++ List.replicate 4 0#8 ++ leBytes 8 77 ++ [0#8, 0#8, 0#8, 0#8, 0#8, 0#8,
      1#8, 0#8] ++ List.replicate 8 0#8 ++ [1#8] ++ List.replicate 91 0#8) ++ leBytes 4 (crc32c (leBytes 4 0x20000 ++
      List.replicate 4 0#8 ++ leBytes 8 77 ++ [0#8, 0#8, 0#8, 0#8, 0#8, 0#8, 1#8, 0#8] ++ List.replicate 8 0#8 ++ [1#8] ++
      List.replicate 91 0#8)).toNat)).cells ++ [(0x180003, 9#8), (0, 7#8)], errs := [] }, reply, 0x1000000000100000#64,
    0x1000000000000000#64, false, 8, _, _, by decide +kernel, by decide +kernel, rfl, rfl, by decide +kernel, by decide +kernel,
    by decide +kernel, by decide +kernel, by decide +kernel, by decide +kernel, by decide +kernel, by decide +kernel⟩⟩

theorem witness_ReplayFollowsJournal :
    (∃ (s : State) (far : FarReply) (r : ReplyTo) (base : DWord) (size : Nat) (jseq : Word) (f : Option (List Byte)) (m : Option
      (List Byte)) (f' : List Byte) (m' : List Byte) (a : Nat), s.pins.alive = true ∧ s.gaffer.action = some (.replayRead r base
      size jseq) ∧ isLoc base.toNat = false ∧ f = findRecord far (sysBits base.toNat) (65536 * size) (fun b => recKind b ==
      JKind.fence && recSeq b == jseq.toNat) ∧ m = findRecord far (sysBits base.toNat) (65536 * size) (fun b => recKind b ==
      JKind.mark && leAt b 32 8 == s.journal.restId.toNat && leAt b 24 1 != 0xFF) ∧ (∀ e ∈ far.errs, sysBits base.toNat ≤ e.1 →
      e.1 < sysBits base.toNat + 65536 * size → e.2 = .ok) ∧ f = some f' ∧ m = some m' ∧ s.lehr.synced = true ∧ s.core.running =
      false ∧ (∀ a, a < 8 → (Vec.at s.lehr.acts a).armed = true → (Vec.at s.lehr.acts a).kind ≠ 1#4) ∧ s.freeAct = some a) ∧
    (∃ (s : State) (far : FarReply) (r : ReplyTo) (base : DWord) (size : Nat) (jseq : Word) (f : Option (List Byte)) (m : Option
      (List Byte)) (f' : List Byte) (m' : List Byte), s.pins.alive = true ∧ s.gaffer.action = some (.replayRead r base size
      jseq) ∧ isLoc base.toNat = false ∧ f = findRecord far (sysBits base.toNat) (65536 * size) (fun b => recKind b ==
      JKind.fence && recSeq b == jseq.toNat) ∧ m = findRecord far (sysBits base.toNat) (65536 * size) (fun b => recKind b ==
      JKind.mark && leAt b 32 8 == s.journal.restId.toNat && leAt b 24 1 != 0xFF) ∧ (∀ e ∈ far.errs, sysBits base.toNat ≤ e.1 →
      e.1 < sysBits base.toNat + 65536 * size → e.2 = .ok) ∧ f = some f' ∧ m = some m' ∧ s.lehr.synced = true ∧ s.core.running =
      true) ∧
    (∃ (s : State) (far : FarReply) (r : ReplyTo) (base : DWord) (size : Nat) (jseq : Word) (f : Option (List Byte)) (m : Option
      (List Byte)), s.pins.alive = true ∧ s.gaffer.action = some (.replayRead r base size jseq) ∧ isLoc base.toNat = false ∧ f =
      findRecord far (sysBits base.toNat) (65536 * size) (fun b => recKind b == JKind.fence && recSeq b == jseq.toNat) ∧ m =
      findRecord far (sysBits base.toNat) (65536 * size) (fun b => recKind b == JKind.mark && leAt b 32 8 ==
      s.journal.restId.toNat && leAt b 24 1 != 0xFF) ∧ (f = none ∨ m = none ∨ ∃ e ∈ far.errs, sysBits base.toNat ≤ e.1 ∧ e.1 <
      sysBits base.toNat + 65536 * size ∧ e.2 ≠ .ok)) ∧
    (∃ (s : State) (record : List Byte) (b : List Byte), s.journal.replaying = true ∧ s.inRun = true ∧ recGood record = true ∧ b
      = record.take (recLength record) ∧ BitVec.ofNat 32 (recSeq record) = s.journal.curMsg ∧ recKind b = JKind.mark) ∧
    (∃ (s : State) (record : List Byte) (b : List Byte) (k : Nat), s.journal.replaying = true ∧ s.inRun = true ∧ recGood record
      = true ∧ b = record.take (recLength record) ∧ BitVec.ofNat 32 (recSeq record) = s.journal.curMsg ∧ recKind b =
      JKind.release ∧ k = Msg.bid (recMessage b) ∧ k ≤ 13 ∧ (s.barrier k).pend = true ∧ (s.barrier k).passAt = none ∧ (s.barrier
      k).gen.toNat = Msg.gen (recMessage b)) ∧
    (∃ (s : State) (record : List Byte) (b : List Byte) (w0 : Nat) (w1 : Nat) (e : Nat), s.journal.replaying = true ∧ s.inRun =
      true ∧ recGood record = true ∧ b = record.take (recLength record) ∧ BitVec.ofNat 32 (recSeq record) = s.journal.curMsg ∧
      recKind b = JKind.credit ∧ w0 = leAt b 32 8 ∧ w1 = leAt b 40 8 ∧ e = fld 10 0 w1 ∧ (s.entryOf e).valid = true ∧ (s.entryOf
      e).stale = false ∧ (s.entryOf e).epoch = fld 57 42 w0 ∧ s.rings.parked = [] ∧ Memory.wf s.rings.credit = true) ∧
    (∃ (s : State) (record : List Byte) (b : List Byte) (m : Message) (t : Nat) (stamp : DWord), s.journal.replaying = true ∧
      s.inRun = true ∧ recGood record = true ∧ b = record.take (recLength record) ∧ BitVec.ofNat 32 (recSeq record) =
      s.journal.curMsg ∧ recKind b = JKind.msg ∧ m = recMessage b ∧ t = Msg.tag m ∧ t ≠ 1 ∧ Msg.kind m = Kind.data ∧ stamp =
      BitVec.ofNat 64 (leAt b 8 8) ∧ RingVerdict s m t none) ∧
    (∃ (s : State) (record : List Byte) (b : List Byte) (m : Message) (t : Nat) (stamp : DWord) (c : Half), s.journal.replaying
      = true ∧ s.inRun = true ∧ recGood record = true ∧ b = record.take (recLength record) ∧ BitVec.ofNat 32 (recSeq record) =
      s.journal.curMsg ∧ recKind b = JKind.msg ∧ m = recMessage b ∧ t = Msg.tag m ∧ t ≠ 1 ∧ Msg.kind m = Kind.data ∧ stamp =
      BitVec.ofNat 64 (leAt b 8 8) ∧ RingVerdict s m t (some (c, 4))) ∧
    (∃ (s : State) (record : List Byte) (b : List Byte) (m : Message) (t : Nat) (stamp : DWord) (c : Half) (k : Nat),
      s.journal.replaying = true ∧ s.inRun = true ∧ recGood record = true ∧ b = record.take (recLength record) ∧ BitVec.ofNat 32
      (recSeq record) = s.journal.curMsg ∧ recKind b = JKind.msg ∧ m = recMessage b ∧ t = Msg.tag m ∧ t ≠ 1 ∧ Msg.kind m =
      Kind.data ∧ stamp = BitVec.ofNat 64 (leAt b 8 8) ∧ RingVerdict s m t (some (c, k)) ∧ k ≠ 4) ∧
    (∃ (s : State) (record : List Byte) (b : List Byte), s.journal.replaying = true ∧ s.inRun = true ∧ recGood record = true ∧ b
      = record.take (recLength record) ∧ BitVec.ofNat 32 (recSeq record) = s.journal.curMsg ∧ recKind b = JKind.end_ ∧
      s.journal.curRead = s.journal.curMsg ∧ s.journal.rstate = .tail ∧ (∀ x ∈ s.se.xfers, x.volat = true → x.tag ≠ none) ∧ (∀ p
      ∈ s.journal.supSend, p.2 = 0#32) ∧ (∀ p ∈ s.journal.supCredit, p.2 = 0#32) ∧ (∀ p ∈ s.journal.supRevoke, p.2 = 0#32) ∧
      s.journal.fenceBars = []) ∧
    (∃ (s : State) (record : List Byte) (b : List Byte), s.journal.replaying = true ∧ s.inRun = true ∧ recGood record = true ∧ b
      = record.take (recLength record) ∧ BitVec.ofNat 32 (recSeq record) = s.journal.curMsg ∧ recKind b = JKind.end_ ∧
      s.journal.curRead = s.journal.curMsg ∧ s.journal.rstate = .tail ∧ (∀ x ∈ s.se.xfers, x.volat = true → x.tag ≠ none) ∧ (∃ p
      ∈ s.journal.supSend, p.2 ≠ 0#32)) ∧
    (∃ (s : State) (record : List Byte) (b : List Byte), s.journal.replaying = true ∧ s.inRun = true ∧ recGood record = true ∧ b
      = record.take (recLength record) ∧ 0 < (BitVec.ofNat 32 (recSeq record) - s.journal.curMsg).toInt) ∧
    (∃ (s : State) (record : List Byte) (b : List Byte) (w : ReadRecord), s.journal.replaying = true ∧ s.inRun = true ∧ recGood
      record = true ∧ b = record.take (recLength record) ∧ BitVec.ofNat 32 (recSeq record) = s.journal.curRead ∧ recKind b =
      JKind.read ∧ w = {
        jseq := BitVec.ofNat 32 (recSeq b), src := leAt b 20 2, ord := leAt b 24 4, faddr := BitVec.ofNat 64 (leAt b 32 8), data
        := (b.drop 48).take (leAt b 28 2) } ∧ (∀ x ∈ s.se.xfers, x.volat = true → x.tag ≠ none) ∧ ((s.journal.waiting ++
      [w]).map ReadRecord.size).foldl (· + ·) 0 ≤ Config.stagingSize) ∧
    (∃ (s : State) (record : List Byte) (b : List Byte) (w : ReadRecord), s.journal.replaying = true ∧ s.inRun = true ∧ recGood
      record = true ∧ b = record.take (recLength record) ∧ BitVec.ofNat 32 (recSeq record) = s.journal.curRead ∧ recKind b =
      JKind.read ∧ w = {
        jseq := BitVec.ofNat 32 (recSeq b), src := leAt b 20 2, ord := leAt b 24 4, faddr := BitVec.ofNat 64 (leAt b 32 8), data
        := (b.drop 48).take (leAt b 28 2) } ∧ (∀ x ∈ s.se.xfers, x.volat = true → x.tag ≠ none) ∧ Config.stagingSize <
      ((s.journal.waiting ++ [w]).map ReadRecord.size).foldl (· + ·) 0) ∧
    (∃ (s : State) (record : List Byte) (b : List Byte) (x : Xfer), s.journal.replaying = true ∧ s.inRun = true ∧ recGood record
      = true ∧ b = record.take (recLength record) ∧ BitVec.ofNat 32 (recSeq record) = s.journal.curRead ∧ recKind b = JKind.read
      ∧ (s.se.xfers.filter fun x => x.volat && x.tag.isNone).find? (fun x => x.ctx == leAt b 20 2 && x.ord == leAt b 24 4) =
      some x ∧ x.faddr = leAt b 32 8 ∧ x.len = leAt b 28 2) ∧
    (∃ (s : State) (record : List Byte) (b : List Byte) (x : Xfer), s.journal.replaying = true ∧ s.inRun = true ∧ recGood record
      = true ∧ b = record.take (recLength record) ∧ BitVec.ofNat 32 (recSeq record) = s.journal.curRead ∧ recKind b = JKind.read
      ∧ (s.se.xfers.filter fun x => x.volat && x.tag.isNone).find? (fun x => x.ctx == leAt b 20 2 && x.ord == leAt b 24 4) =
      some x ∧ (x.faddr ≠ leAt b 32 8 ∨ x.len ≠ leAt b 28 2)) ∧
    (∃ (s : State) (record : List Byte), s.journal.replaying = true ∧ s.inRun = true ∧ recGood record = false ∧ 0 ≤
      (s.journal.fenceSeq - s.journal.curMsg).toInt) ∧
    (∃ (s : State) (record : List Byte), s.journal.replaying = true ∧ s.inRun = true ∧ recGood record = false ∧
      (s.journal.fenceSeq - s.journal.curMsg).toInt < 0) :=
  ⟨⟨{ { acting run (.replayRead reply 0x1000000000010000#64 1 9#32) with
      journal :=
      { (acting run (.replayRead reply 0x1000000000010000#64 1 9#32)).journal with rstate := .restored, restId := 77#64 } } with
      lehr := { run.lehr with synced := true, lc := 5#64 } }, {
      cells := (answer 0x10000 (recAs 3 3 (List.replicate 12 0#8) (leBytes 8 77))).cells ++ (answer 0x10100 (recAs 9 4 []
      [1#8])).cells, errs := [] }, reply, 0x1000000000010000#64, 1, 9#32, (some (recAs 9 4 [] [1#8])), (some (recAs 3 3
    (List.replicate 12 0#8) (leBytes 8 77))), (recAs 9 4 [] [1#8]), (recAs 3 3 (List.replicate 12 0#8) (leBytes 8 77)), 0,
    by decide +kernel, by decide +kernel, by decide +kernel, by decide +kernel, by decide +kernel, by decide +kernel,
    by decide +kernel, by decide +kernel, by decide +kernel, by decide +kernel, by decide +kernel, by decide +kernel⟩,
   ⟨{ { { acting run (.replayRead reply 0x1000000000010000#64 1 9#32) with
      journal :=
      { (acting run (.replayRead reply 0x1000000000010000#64 1 9#32)).journal with rstate := .restored, restId := 77#64 } } with
      lehr := { run.lehr with synced := true, lc := 5#64 } } with core := { run.core with running := true } }, {
      cells := (answer 0x10000 (recAs 3 3 (List.replicate 12 0#8) (leBytes 8 77))).cells ++ (answer 0x10100 (recAs 9 4 []
      [1#8])).cells, errs := [] }, reply, 0x1000000000010000#64, 1, 9#32, (some (recAs 9 4 [] [1#8])), (some (recAs 3 3
    (List.replicate 12 0#8) (leBytes 8 77))), (recAs 9 4 [] [1#8]), (recAs 3 3 (List.replicate 12 0#8) (leBytes 8 77)),
    by decide +kernel, by decide +kernel, by decide +kernel, by decide +kernel, by decide +kernel, by decide +kernel,
    by decide +kernel, by decide +kernel, by decide +kernel, by decide +kernel⟩,
   ⟨{ { acting run (.replayRead reply 0x1000000000010000#64 1 9#32) with
      journal :=
      { (acting run (.replayRead reply 0x1000000000010000#64 1 9#32)).journal with rstate := .restored, restId := 77#64 } } with
      lehr := { run.lehr with synced := true, lc := 5#64 } }, { cells := [], errs := [] }, reply, 0x1000000000010000#64, 1,
    9#32, none, none, by decide +kernel, by decide +kernel, by decide +kernel, by decide +kernel, by decide +kernel,
    Or.inl rfl⟩,
   ⟨{ run with journal := { run.journal with rstate := .replay, curMsg := 3#32, curRead := 4#32 } }, (recAs 3 3 (List.replicate
    12 0#8) (leBytes 8 77)), _, by decide +kernel, by decide +kernel, by decide +kernel, rfl, by decide +kernel,
    by decide +kernel⟩,
   ⟨({ run with journal := { run.journal with rstate := .replay, curMsg := 3#32, curRead := 4#32 } }).onBar 13 fun b =>
    { b with pend := true, gen := 7#16 }, (recAs 3 9 [] (leBytes 8 0x1000000000000000 ++ leBytes 8 (2 * 2 ^ 62 + 13 * 2 ^ 58 + 7
    * 2 ^ 42))), _, _, by decide +kernel, by decide +kernel, by decide +kernel, rfl, by decide +kernel, by decide +kernel, rfl,
    by decide +kernel, by decide +kernel, by decide +kernel, by decide +kernel⟩,
   ⟨(withEntry { run with journal := { run.journal with rstate := .replay, curMsg := 3#32, curRead := 4#32 } } 3 1), (recAs 3 7
    [] (leBytes 8 0x80001C0000000000 ++ leBytes 8 (0xFFFF * 2 ^ 11 + 5))), _, _, _, _, by decide +kernel, by decide +kernel,
    by decide +kernel, rfl, by decide +kernel, by decide +kernel, rfl, rfl, rfl, by decide +kernel, by decide +kernel,
    by decide +kernel, by decide +kernel, by decide +kernel⟩,
   ⟨(ringed { run with journal := { run.journal with rstate := .replay, curMsg := 3#32, curRead := 4#32 } }), (recAs 3 1 []
    (leBytes 8 (7 * 2 ^ 42 + 32 * 2 ^ 23) ++ leBytes 8 (2 ^ 40) ++ List.replicate 16 3#8)), _, _, _, _, by decide +kernel,
    by decide +kernel, by decide +kernel, rfl, by decide +kernel, by decide +kernel, rfl, rfl, by decide +kernel,
    by decide +kernel, rfl, by unfold RingVerdict; decide +kernel⟩,
   ⟨(withRing { run with journal := { run.journal with rstate := .replay, curMsg := 3#32, curRead := 4#32 } } 32 (plainRing 1 16
    0)), (recAs 3 1 [] (leBytes 8 (7 * 2 ^ 42 + 32 * 2 ^ 23) ++ leBytes 8 (2 ^ 40) ++ List.replicate 16 3#8)), _, _, _, _,
    Code.creditOverrun, by decide +kernel, by decide +kernel, by decide +kernel, rfl, by decide +kernel, by decide +kernel, rfl,
    rfl, by decide +kernel, by decide +kernel, rfl, by unfold RingVerdict; decide +kernel⟩,
   ⟨{ run with journal := { run.journal with rstate := .replay, curMsg := 3#32, curRead := 4#32 } }, (recAs 3 1 [] (leBytes 8 (7
    * 2 ^ 42 + 32 * 2 ^ 23) ++ leBytes 8 (2 ^ 40) ++ List.replicate 16 3#8)), _, _, _, _, Code.ringClosed, 1, by decide +kernel,
    by decide +kernel, by decide +kernel, rfl, by decide +kernel, by decide +kernel, rfl, rfl, by decide +kernel,
    by decide +kernel, rfl, by unfold RingVerdict; decide +kernel, by decide +kernel⟩,
   ⟨{ run with journal := { run.journal with rstate := .tail, curMsg := 3#32, curRead := 3#32 } }, (recAs 3 5 [] []), _,
    by decide +kernel, by decide +kernel, by decide +kernel, rfl, by decide +kernel, by decide +kernel, by decide +kernel,
    by decide +kernel, by decide +kernel, by decide +kernel, by decide +kernel, by decide +kernel, by decide +kernel⟩,
   ⟨{ run with journal := { run.journal with rstate := .tail, curMsg := 3#32, curRead := 3#32, supSend := [(5, 1#32)] } },
    (recAs 3 5 [] []), _, by decide +kernel, by decide +kernel, by decide +kernel, rfl, by decide +kernel, by decide +kernel,
    by decide +kernel, by decide +kernel, by decide +kernel, by decide +kernel⟩,
   ⟨{ run with journal := { run.journal with rstate := .replay, curMsg := 3#32, curRead := 4#32 } }, (recAs 4 3 (List.replicate
    12 0#8) (leBytes 8 77)), _, by decide +kernel, by decide +kernel, by decide +kernel, rfl, by decide +kernel⟩,
   ⟨{ run with journal := { run.journal with rstate := .replay, curMsg := 3#32, curRead := 4#32 } }, (recAs 4 2 (leBytes 2 64 ++
    leBytes 2 0 ++ leBytes 4 1 ++ leBytes 2 16) (leBytes 8 0x500 ++ leBytes 8 0 ++ List.replicate 16 3#8)), _, _,
    by decide +kernel, by decide +kernel, by decide +kernel, rfl, by decide +kernel, by decide +kernel, rfl, by decide +kernel,
    by decide +kernel⟩,
   ⟨{ run with
      journal := { run.journal with rstate := .replay, curMsg := 3#32, curRead := 4#32, waiting := [sizedRecord 262144] } },
    (recAs 4 2 (leBytes 2 64 ++ leBytes 2 0 ++ leBytes 4 1 ++ leBytes 2 16) (leBytes 8 0x500 ++ leBytes 8 0 ++ List.replicate 16
    3#8)), _, _, by decide +kernel, by decide +kernel, by decide +kernel, rfl, by decide +kernel, by decide +kernel, rfl,
    by decide +kernel, fullWaiting _ _ (by decide +kernel)⟩,
   ⟨{ { run with journal := { run.journal with rstate := .replay, curMsg := 3#32, curRead := 4#32 } } with
      se := { run.se with
        xfers := [{
          ctx := 64, blk := 0, off := 0, len := 16, src := 0x1000000000000500#64, dst := 0x2000#64, zero := false, tag := none,
          volat := true, ord := 1, faddr := 0x500, data := [] }] } }, (recAs 4 2 (leBytes 2 64 ++ leBytes 2 0 ++ leBytes 4 1 ++
    leBytes 2 16) (leBytes 8 0x500 ++ leBytes 8 0 ++ List.replicate 16 3#8)), _, {
      ctx := 64, blk := 0, off := 0, len := 16, src := 0x1000000000000500#64, dst := 0x2000#64, zero := false, tag := none,
      volat := true, ord := 1, faddr := 0x500, data := [] }, by decide +kernel, by decide +kernel, by decide +kernel, rfl,
    by decide +kernel, by decide +kernel, by decide +kernel, by decide +kernel, by decide +kernel⟩,
   ⟨{ { run with journal := { run.journal with rstate := .replay, curMsg := 3#32, curRead := 4#32 } } with
      se := { run.se with
        xfers := [{
          ctx := 64, blk := 0, off := 0, len := 16, src := 0x1000000000000500#64, dst := 0x2000#64, zero := false, tag := none,
          volat := true, ord := 1, faddr := 0x510, data := [] }] } }, (recAs 4 2 (leBytes 2 64 ++ leBytes 2 0 ++ leBytes 4 1 ++
    leBytes 2 16) (leBytes 8 0x500 ++ leBytes 8 0 ++ List.replicate 16 3#8)), _, {
      ctx := 64, blk := 0, off := 0, len := 16, src := 0x1000000000000500#64, dst := 0x2000#64, zero := false, tag := none,
      volat := true, ord := 1, faddr := 0x510, data := [] }, by decide +kernel, by decide +kernel, by decide +kernel, rfl,
    by decide +kernel, by decide +kernel, by decide +kernel, Or.inl (by decide +kernel)⟩,
   ⟨{ run with journal := { run.journal with rstate := .replay, curMsg := 3#32, fenceSeq := 3#32 } }, [], by decide +kernel,
    by decide +kernel, by decide +kernel, by decide +kernel⟩,
   ⟨{ run with journal := { run.journal with rstate := .replay, curMsg := 3#32, fenceSeq := 2#32 } }, [], by decide +kernel,
    by decide +kernel, by decide +kernel, by decide +kernel⟩⟩

theorem witness_ShardCommandsAct :
    (∃ (s : State) (c : QueueCmd) (i : Nat) (d : BitVec 1024) (x : Shard), s.head6 = some c ∧ i = cmdShard c ∧ Tbl.wf Shard.none
      s.marver.shards = true ∧ c.opc = 0x50 ∧ c.regs.length = 2 ∧ fld 63 16 (c.reg 0) = 0 ∧ fld 63 32 (c.reg 1) = 0 ∧ c.reg 1 %
      128 = 0 ∧ inLocal (c.reg 1) 128 = true ∧ (s.shard i).state ∈ [.empty, .idle, .fault] ∧ s.may 0x52 .loc false = true ∧
      s.mem.badIn (c.reg 1) 128 = none ∧ d = BitVec.ofNat 1024 (ofLE (s.mem.mem.readBytes (c.reg 1) 128)) ∧ x = { Shard.none
       with state := .idle, desc := d, ord := (s.shard i).ord, stepn := BitVec.ofNat 32 (d.toNat / 2 ^ 448 % 2 ^ 32) } ∧ x.valid
      = true ∧ s.cidClash i x = false) ∧
    (∃ (s : State) (c : QueueCmd) (i : Nat) (d : BitVec 1024) (x : Shard), s.head6 = some c ∧ i = cmdShard c ∧ Tbl.wf Shard.none
      s.marver.shards = true ∧ c.opc = 0x50 ∧ c.regs.length = 2 ∧ fld 63 16 (c.reg 0) = 0 ∧ fld 63 32 (c.reg 1) = 0 ∧ c.reg 1 %
      128 = 0 ∧ inLocal (c.reg 1) 128 = true ∧ (s.shard i).state ∈ [.empty, .idle, .fault] ∧ s.may 0x52 .loc false = true ∧
      s.mem.badIn (c.reg 1) 128 = none ∧ d = BitVec.ofNat 1024 (ofLE (s.mem.mem.readBytes (c.reg 1) 128)) ∧ x = { Shard.none
       with state := .idle, desc := d, ord := (s.shard i).ord, stepn := BitVec.ofNat 32 (d.toNat / 2 ^ 448 % 2 ^ 32) } ∧
      (x.valid = false ∨ s.cidClash i x = true)) ∧
    (∃ (s : State) (c : QueueCmd) (i : Nat), s.head6 = some c ∧ i = cmdShard c ∧ Tbl.wf Shard.none s.marver.shards = true ∧
      c.opc = 0x51 ∧ c.regs.length = 1 ∧ fld 63 16 (c.reg 0) = 0 ∧ (s.shard i).state = .idle ∧ s.ringFits (s.shard i) = true ∧
      s.may 0x52 .loc true = true ∧ Memory.wf s.mem.mem = true) ∧
    (∃ (s : State) (c : QueueCmd) (i : Nat), s.head6 = some c ∧ i = cmdShard c ∧ Tbl.wf Shard.none s.marver.shards = true ∧
      c.opc = 0x51 ∧ c.regs.length = 1 ∧ ((s.shard i).state ≠ .idle ∨ s.ringFits (s.shard i) = false)) ∧
    (∃ (s : State) (c : QueueCmd) (i : Nat), s.head6 = some c ∧ i = cmdShard c ∧ Tbl.wf Shard.none s.marver.shards = true ∧
      c.opc = 0x52 ∧ c.regs.length = 1 ∧ fld 63 17 (c.reg 0) = 0 ∧ (s.shard i).state = .ready ∧ bit 16 (c.reg 0) = false ∧
      (s.shard i).bad = false) ∧
    (∃ (s : State) (c : QueueCmd) (i : Nat), s.head6 = some c ∧ i = cmdShard c ∧ Tbl.wf Shard.none s.marver.shards = true ∧
      c.opc = 0x52 ∧ c.regs.length = 1 ∧ fld 63 17 (c.reg 0) = 0 ∧ (s.shard i).state = .ready ∧ bit 16 (c.reg 0) = false ∧
      (s.shard i).bad = true) ∧
    (∃ (s : State) (c : QueueCmd) (i : Nat), s.head6 = some c ∧ i = cmdShard c ∧ Tbl.wf Shard.none s.marver.shards = true ∧
      c.opc = 0x52 ∧ c.regs.length = 1 ∧ fld 63 17 (c.reg 0) = 0 ∧ (s.shard i).state = .ready ∧ bit 16 (c.reg 0) = true) ∧
    (∃ (s : State) (c : QueueCmd) (i : Nat), s.head6 = some c ∧ i = cmdShard c ∧ Tbl.wf Shard.none s.marver.shards = true ∧
      c.opc = 0x52 ∧ c.regs.length = 1 ∧ fld 63 17 (c.reg 0) = 0 ∧ (s.shard i).state = .armed) ∧
    (∃ (s : State) (c : QueueCmd) (i : Nat), s.head6 = some c ∧ i = cmdShard c ∧ Tbl.wf Shard.none s.marver.shards = true ∧
      c.opc = 0x53 ∧ c.regs.length = 1 ∧ fld 31 16 (c.reg 0) = 0 ∧ (s.shard i).state ≠ .empty ∧ ((s.shard i).state = .fault ∨ 0
      ≤ ((s.shard i).endn - BitVec.ofNat 32 (fld 63 32 (c.reg 0))).toInt)) ∧
    (∃ (s : State) (c : QueueCmd) (i : Nat), s.head6 = some c ∧ i = cmdShard c ∧ Tbl.wf Shard.none s.marver.shards = true ∧
      c.opc = 0x53 ∧ c.regs.length = 1 ∧ fld 31 16 (c.reg 0) = 0 ∧ (s.shard i).state ≠ .empty ∧ ((s.shard i).state = .fault ∨ 0
      ≤ ((s.shard i).endn - BitVec.ofNat 32 (fld 63 32 (c.reg 0))).toInt)) ∧
    (∃ (s : State) (c : QueueCmd) (i : Nat), s.head6 = some c ∧ i = cmdShard c ∧ Tbl.wf Shard.none s.marver.shards = true ∧
      c.opc = 0x53 ∧ c.regs.length = 1 ∧ fld 31 16 (c.reg 0) = 0 ∧ (s.shard i).state ≠ .empty ∧ (s.shard i).state ≠ .fault ∧
      ((s.shard i).endn - BitVec.ofNat 32 (fld 63 32 (c.reg 0))).toInt < 0) ∧
    (∃ (s : State) (c : QueueCmd) (i : Nat), s.head6 = some c ∧ i = cmdShard c ∧ Tbl.wf Shard.none s.marver.shards = true ∧
      c.opc = 0x54 ∧ c.regs.length = 1 ∧ fld 63 16 (c.reg 0) = 0 ∧ (s.shard i).state ∈ [.idle, .fault]) :=
  ⟨⟨(withBytes (queued 6 [0xff50#64, 0x80#64]) 0x80 shardBytes), ⟨[0xff50#64, 0x80#64], 1#32⟩, 255, (BitVec.ofNat 1024 (ofLE
    shardBytes)), (shard .idle), by decide, by decide, by decide, by decide, by decide, by decide, by decide, by decide,
    by decide, by decide, by decide, by decide, by decide, by decide, by decide, by decide⟩,
   ⟨(queued 6 [0xff50#64, 0x80#64]), ⟨[0xff50#64, 0x80#64], 1#32⟩, 255, _, _, by decide, by decide, by decide, by decide,
    by decide, by decide, by decide, by decide, by decide, by decide, by decide, by decide, rfl, rfl, Or.inl (by decide)⟩,
   ⟨(sharded (queued 6 [0xff51#64]) (shard .idle)), ⟨[0xff51#64], 1#32⟩, 255, by decide, by decide, by decide, by decide,
    by decide, by decide, by decide, by decide, by decide, by decide⟩,
   ⟨(sharded (queued 6 [0xff51#64]) (shard .armed)), ⟨[0xff51#64], 1#32⟩, 255, by decide, by decide, by decide, by decide,
    by decide, by decide⟩,
   ⟨(sharded (queued 6 [0xff52#64]) (shard .ready)), ⟨[0xff52#64], 1#32⟩, 255, by decide, by decide, by decide, by decide,
    by decide, by decide, by decide, by decide, by decide⟩,
   ⟨(sharded (queued 6 [0xff52#64]) { shard .ready with bad := true }), ⟨[0xff52#64], 1#32⟩, 255, by decide, by decide,
    by decide, by decide, by decide, by decide, by decide, by decide, by decide⟩,
   ⟨(sharded (queued 6 [0x1ff52#64]) (shard .ready)), ⟨[0x1ff52#64], 1#32⟩, 255, by decide, by decide, by decide, by decide,
    by decide, by decide, by decide, by decide⟩,
   ⟨(sharded (queued 6 [0x1ff52#64]) (shard .armed)), ⟨[0x1ff52#64], 1#32⟩, 255, by decide, by decide, by decide, by decide,
    by decide, by decide, by decide⟩,
   ⟨(sharded (queued 6 [0x30000ff53#64]) { shard .idle with endn := 3#32 }), ⟨[0x30000ff53#64], 1#32⟩, 255, by decide,
    by decide, by decide, by decide, by decide, by decide, by decide, by decide⟩,
   ⟨(sharded (queued 6 [0x30000ff53#64]) (shard .fault)), ⟨[0x30000ff53#64], 1#32⟩, 255, by decide, by decide, by decide,
    by decide, by decide, by decide, by decide, by decide⟩,
   ⟨(sharded (queued 6 [0x30000ff53#64]) { shard .idle with endn := 2#32 }), ⟨[0x30000ff53#64], 1#32⟩, 255, by decide,
    by decide, by decide, by decide, by decide, by decide, by decide, by decide, by decide⟩,
   ⟨(sharded (queued 6 [0xff54#64]) (shard .fault)), ⟨[0xff54#64], 1#32⟩, 255, by decide, by decide, by decide, by decide,
    by decide, by decide, by decide⟩⟩

theorem witness_MarverWorks :
    (∃ (s : State) (t : Nat) (slot : Nat), s.mvIdle = true ∧ Tbl.wf Shard.none s.marver.shards = true ∧ Memory.wf s.mem.mem =
      true ∧ s.mvNextSlot = some (t, slot) ∧ s.slotShard t slot = none) ∧
    (∃ (s : State) (t : Nat) (slot : Nat) (i : Nat) (k : Nat) (a : Nat) (n : Nat) (x : Shard), s.mvIdle = true ∧ Tbl.wf
      Shard.none s.marver.shards = true ∧ Memory.wf s.mem.mem = true ∧ s.mvNextSlot = some (t, slot) ∧ s.slotShard t slot = some
      i ∧ x = s.shard i ∧ x.state = .armed ∧ s.may 0x52 .loc false = true ∧ s.may 0x52 .loc true = true ∧ s.mem.bad = [] ∧
      s.marver.wait = none ∧ a = (s.ring t).slotAddr slot ∧ n = (s.ring t).slotBytes ∧ k = s.mem.mem.readLE (a + 4) 2 - x.cid0 ∧
      (s.mem.mem.readLE (x.scr + k / 8) 1).testBit (k % 8) = true) ∧
    (∃ (s : State) (t : Nat) (slot : Nat) (i : Nat) (k : Nat) (a : Nat) (g : Nat) (n : Nat) (x : Shard), s.mvIdle = true ∧
      Tbl.wf Shard.none s.marver.shards = true ∧ Memory.wf s.mem.mem = true ∧ s.mvNextSlot = some (t, slot) ∧ s.slotShard t slot
      = some i ∧ x = s.shard i ∧ x.state = .armed ∧ s.may 0x52 .loc false = true ∧ s.may 0x52 .loc true = true ∧ s.mem.bad = []
      ∧ s.marver.wait = none ∧ a = (s.ring t).slotAddr slot ∧ n = (s.ring t).slotBytes ∧ k = s.mem.mem.readLE (a + 4) 2 - x.cid0
      ∧ (s.mem.mem.readLE (x.scr + k / 8) 1).testBit (k % 8) = false ∧ x.fmask = 0 ∧ (s.ring t).elem = 32 ∧ 32 * k + 32 ≤
      x.elems ∧ k < 8 * x.bitmapLen ∧ 32 ≤ x.cols ∧ x.cols % 32 = 0 ∧ x.farOut = 0 ∧ x.scr + x.scrLen ≤ 0x200000 ∧ g = x.gst +
      128 * k ∧ g + 128 ≤ 0x200000 ∧ (g + 128 ≤ x.scr ∨ x.scr + x.scrLen ≤ g) ∧ (a + n ≤ x.scr ∨ x.scr + x.scrLen ≤ a) ∧ (a + n
      ≤ g ∨ g + 128 ≤ a)) ∧
    (∃ (s : State) (i : Nat) (x : Shard), s.mvIdle = true ∧ Tbl.wf Shard.none s.marver.shards = true ∧ Memory.wf s.mem.mem =
      true ∧ s.mvNextSlot = none ∧ s.marver.shards.find? (fun p => p.2.state == .stats) = some (i, x) ∧ s.mem.bad = [] ∧ s.may
      0x52 .loc false = true ∧ s.may 0x52 .loc true = true ∧ x.scr + x.scrLen ≤ 0x200000 ∧ x.raddr + 4 * x.rows ≤ 0x200000 ∧
      x.caddr + 4 * x.cols ≤ 0x200000 ∧ 0 < x.rows ∧ 0 < x.cols) ∧
    (∃ (s : State) (i : Nat) (a : Nat) (x : Shard), s.mvIdle = true ∧ Tbl.wf Shard.none s.marver.shards = true ∧ Memory.wf
      s.mem.mem = true ∧ s.mvNextSlot = none ∧ s.marver.shards.any (fun p => p.2.state == .stats) = false ∧
      s.marver.shards.find? (fun p => s.mvReady p.1 p.2) = some (i, x) ∧ s.mem.bad = [] ∧ s.marver.wait = none ∧ s.may 0x52 .loc
      false = true ∧ s.may 0x52 .loc true = true ∧ x.pub = false ∧ x.fmask = 0 ∧ a = x.wbase + x.block * x.recLen ∧ a + x.recLen
      ≤ 0x200000 ∧ x.gst + 128 * x.block + 128 ≤ 0x200000) ∧
    (∃ (s : State) (i : Nat) (a : Nat) (x : Shard), s.mvIdle = true ∧ Tbl.wf Shard.none s.marver.shards = true ∧ Memory.wf
      s.mem.mem = true ∧ s.mvNextSlot = none ∧ s.marver.shards.any (fun p => p.2.state == .stats) = false ∧
      s.marver.shards.find? (fun p => s.mvReady p.1 p.2) = some (i, x) ∧ s.mem.bad = [] ∧ s.marver.wait = none ∧ s.may 0x52 .loc
      false = true ∧ s.may 0x52 .loc true = true ∧ x.pub = false ∧ x.fmask = 0 ∧ a = x.wbase + x.block * x.recLen ∧ a + x.recLen
      ≤ 0x200000 ∧ x.gst + 128 * x.block + 128 ≤ 0x200000) ∧
    (∃ (s : State) (p : PubMsg) (k : Nat) (e : Nat) (n : Nat), s.mvIdle = true ∧ Tbl.wf Shard.none s.marver.shards = true ∧
      Memory.wf s.mem.mem = true ∧ s.marver.pubs = [p] ∧ p.todo = [(k, e)] ∧ e < 2048 ∧ k < 8 ∧ n = (p.payload.length / 16 + 4)
      / 4 ∧ Memory.wf s.rings.credit = true ∧ (s.entryOf e).stale = false ∧ (s.entryOf e).valid = true ∧ (s.entryOf e).gather =
      false ∧ s.rings.parkedOn e = 0 ∧ n ≤ (s.entryOf e).credit) ∧
    (∃ (s : State) (p : PubMsg) (k : Nat) (e : Nat) (n : Nat), s.mvIdle = true ∧ Tbl.wf Shard.none s.marver.shards = true ∧
      Memory.wf s.mem.mem = true ∧ s.marver.pubs = [p] ∧ p.todo = [(k, e)] ∧ e < 2048 ∧ k < 8 ∧ n = (p.payload.length / 16 + 4)
      / 4 ∧ Memory.wf s.rings.credit = true ∧ (s.entryOf e).stale = true) ∧
    (∃ (s : State) (p : PubMsg) (k : Nat) (e : Nat) (n : Nat), s.mvIdle = true ∧ Tbl.wf Shard.none s.marver.shards = true ∧
      Memory.wf s.mem.mem = true ∧ s.marver.pubs = [p] ∧ p.todo = [(k, e)] ∧ e < 2048 ∧ k < 8 ∧ n = (p.payload.length / 16 + 4)
      / 4 ∧ Memory.wf s.rings.credit = true ∧ (s.entryOf e).stale = false ∧ ((s.entryOf e).valid = false ∨ (s.entryOf e).gather
      = true)) ∧
    (∃ (s : State) (p : PubMsg) (k : Nat) (e : Nat) (n : Nat), s.mvIdle = true ∧ Tbl.wf Shard.none s.marver.shards = true ∧
      Memory.wf s.mem.mem = true ∧ s.marver.pubs = [p] ∧ p.todo = [(k, e)] ∧ e < 2048 ∧ k < 8 ∧ n = (p.payload.length / 16 + 4)
      / 4 ∧ Memory.wf s.rings.credit = true ∧ (s.entryOf e).stale = false ∧ (s.entryOf e).valid = true ∧ (s.entryOf e).gather =
      false ∧ (s.entryOf e).credit < n) :=
  ⟨⟨(slotOf 9#8), 34, 0, by decide, by decide, by decide, by decide, by decide⟩,
   ⟨(withBytes (slotOf 1#8) 0x4000 [2#8]), 34, 0, 255, _, _, _, _, by decide, by decide, by decide, by decide, by decide, rfl,
    by decide, by decide, by decide, by decide, by decide, rfl, rfl, rfl, by decide⟩,
   ⟨(slotOf 1#8), 34, 0, 255, _, _, _, _, _, by decide, by decide, by decide, by decide, by decide, rfl, by decide, by decide,
    by decide, by decide, by decide, rfl, rfl, rfl, by decide, by decide, by decide, by decide, by decide, by decide, by decide,
    by decide, by decide, rfl, by decide, by decide, by decide, by decide⟩,
   ⟨(sharded run (shard .stats)), 255, (shard .stats), by decide, by decide, by decide, by decide, by decide, by decide,
    by decide, by decide, by decide, by decide, by decide, by decide, by decide⟩,
   ⟨(sharded run { shard .update with block := 0, rstat := [0#32, 0#32], cstat := List.replicate 32 0#32 }), 255, _,
    { shard .update with block := 0, rstat := [0#32, 0#32], cstat := List.replicate 32 0#32 }, by decide, by decide, by decide,
    by decide, by decide, by decide, by decide, by decide, by decide, by decide, by decide, by decide, rfl, by decide,
    by decide⟩,
   ⟨(sharded run { shard .update with block := 1, rstat := [0#32, 0#32], cstat := List.replicate 32 0#32 }), 255, _,
    { shard .update with block := 1, rstat := [0#32, 0#32], cstat := List.replicate 32 0#32 }, by decide, by decide, by decide,
    by decide, by decide, by decide, by decide, by decide, by decide, by decide, by decide, by decide, rfl, by decide,
    by decide⟩,
   ⟨(publishing (withEntry (sharded run (shard .update)) 1 1)
    { shard := 255, payload := List.replicate 16 1#8, todo := [(0, 5)] }),
    { shard := 255, payload := List.replicate 16 1#8, todo := [(0, 5)] }, 0, 5, _, by decide, by decide, by decide, by decide,
    by decide, by decide, by decide, rfl, by decide, by decide, by decide, by decide, by decide, by decide⟩,
   ⟨(publishing (withEntry (sharded run (shard .update)) 1 3)
    { shard := 255, payload := List.replicate 16 1#8, todo := [(0, 5)] }),
    { shard := 255, payload := List.replicate 16 1#8, todo := [(0, 5)] }, 0, 5, _, by decide, by decide, by decide, by decide,
    by decide, by decide, by decide, rfl, by decide, by decide⟩,
   ⟨(publishing (withEntry (sharded run (shard .update)) 0 0)
    { shard := 255, payload := List.replicate 16 1#8, todo := [(0, 5)] }),
    { shard := 255, payload := List.replicate 16 1#8, todo := [(0, 5)] }, 0, 5, _, by decide, by decide, by decide, by decide,
    by decide, by decide, by decide, rfl, by decide, by decide, by decide⟩,
   ⟨(publishing (withEntry (sharded run (shard .update)) 0 1)
    { shard := 255, payload := List.replicate 16 1#8, todo := [(0, 5)] }),
    { shard := 255, payload := List.replicate 16 1#8, todo := [(0, 5)] }, 0, 5, _, by decide, by decide, by decide, by decide,
    by decide, by decide, by decide, rfl, by decide, by decide, by decide, by decide, by decide⟩⟩

theorem witness_ManagementAnswers :
    (∃ (s : State), s.pins.alive = true ∧ (s.gaffer.inq.filter fun p => p.input == .port).length < 4) ∧
    (∃ (s : State), s.pins.alive = true ∧ 4 ≤ (s.gaffer.inq.filter fun p => p.input == .port).length) ∧
    (∃ (s : State) (m : Master), s.pins.alive = true ∧ fld 19 16 (s.entry m.toNat) ≠ 0 ∧ s.gaffer.mbBusy = false) ∧
    (∃ (s : State) (m : Master), s.pins.alive = true ∧ fld 19 16 (s.entry m.toNat) ≠ 0 ∧ s.gaffer.mbBusy = true) ∧
    (∃ (s : State) (bytes : List Byte) (p : Packet), s.pins.alive = true ∧ s.gaffer.inq = [{ input := .port, bytes := bytes }] ∧
      3 ≤ s.gaffer.step.toNat ∧ p = packetOf { input := .port, bytes := bytes } ∧ s.journal.freeze = true ∧ (p.opc = 0x14 ∨
      p.opc = 0x15)) ∧
    (∃ (s : State) (bytes : List Byte) (p : Packet) (code : Half), s.pins.alive = true ∧ s.gaffer.inq =
      [{ input := .port, bytes := bytes }] ∧ 3 ≤ s.gaffer.step.toNat ∧ p = packetOf { input := .port, bytes := bytes } ∧
      (s.journal.freeze = false ∨ (p.opc ≠ 0x14 ∧ p.opc ≠ 0x15)) ∧ PacketVerdict s bytes p code ∧ code ≠ 0x0000#16) ∧
    (∃ (s : State) (bytes : List Byte) (p : Packet) (code : Half), s.pins.alive = true ∧ s.gaffer.inq =
      [{ input := .port, bytes := bytes }] ∧ 3 ≤ s.gaffer.step.toNat ∧ p = packetOf { input := .port, bytes := bytes } ∧
      (s.journal.freeze = false ∨ (p.opc ≠ 0x14 ∧ p.opc ≠ 0x15)) ∧ PacketVerdict s bytes p code ∧ code ≠ 0x0000#16) ∧
    (∃ (s : State) (bytes : List Byte) (p : Packet), s.pins.alive = true ∧ s.gaffer.inq = [{ input := .port, bytes := bytes }] ∧
      3 ≤ s.gaffer.step.toNat ∧ p = packetOf { input := .port, bytes := bytes } ∧ (s.journal.freeze = false ∨ (p.opc ≠ 0x14 ∧
      p.opc ≠ 0x15)) ∧ PacketVerdict s bytes p 0x0000#16 ∧ p.opc = 0x01) ∧
    (∃ (s : State) (bytes : List Byte) (p : Packet), s.pins.alive = true ∧ s.gaffer.inq = [{ input := .port, bytes := bytes }] ∧
      3 ≤ s.gaffer.step.toNat ∧ p = packetOf { input := .port, bytes := bytes } ∧ (s.journal.freeze = false ∨ (p.opc ≠ 0x14 ∧
      p.opc ≠ 0x15)) ∧ PacketVerdict s bytes p 0x0000#16 ∧ p.opc = 0x10 ∧ s.gaffer.started = true) ∧
    (∃ (s : State) (bytes : List Byte) (p : Packet), s.pins.alive = true ∧ s.gaffer.inq = [{ input := .port, bytes := bytes }] ∧
      3 ≤ s.gaffer.step.toNat ∧ p = packetOf { input := .port, bytes := bytes } ∧ (s.journal.freeze = false ∨ (p.opc ≠ 0x14 ∧
      p.opc ≠ 0x15)) ∧ PacketVerdict s bytes p 0x0000#16 ∧ p.opc = 0x07 ∧ s.gaffer.action = none ∧ s.tier.state = .run) ∧
    (∃ (s : State) (bytes : List Byte) (p : Packet), s.pins.alive = true ∧ s.gaffer.inq = [{ input := .port, bytes := bytes }] ∧
      3 ≤ s.gaffer.step.toNat ∧ p = packetOf { input := .port, bytes := bytes } ∧ (s.journal.freeze = false ∨ (p.opc ≠ 0x14 ∧
      p.opc ≠ 0x15)) ∧ PacketVerdict s bytes p 0x0000#16 ∧ p.opc = 0x07 ∧ s.gaffer.action = none ∧ s.tier.state = .run) ∧
    (∃ (s : State) (bytes : List Byte) (p : Packet), s.pins.alive = true ∧ s.gaffer.inq = [{ input := .port, bytes := bytes }] ∧
      3 ≤ s.gaffer.step.toNat ∧ p = packetOf { input := .port, bytes := bytes }) ∧
    (∃ (s : State) (bytes : List Byte) (reset : Bool) (rest : List OutPacket), s.pins.alive = true ∧ s.gaffer.outq = .reply
      bytes reset :: rest) ∧
    (∃ (s : State) (e : Event) (rest : List OutPacket), s.pins.alive = true ∧ s.gaffer.outq = .event e :: rest) ∧
    (∃ (s : State), s.pins.alive = true ∧ s.gaffer.outq = []) :=
  ⟨⟨{ run with
      gaffer := { run.gaffer with
        inq := [{ input := .port, bytes := [] }, { input := .port, bytes := [] }, { input := .port, bytes := [] }] } },
    by decide, by decide⟩,
   ⟨{ run with
      gaffer := { run.gaffer with
        inq := [{ input := .port, bytes := [] }, { input := .port, bytes := [] }, { input := .port, bytes := [] },
        { input := .port, bytes := [] }] } }, by decide, by decide⟩,
   ⟨run, 2#7, by decide, by decide, by decide⟩,
   ⟨{ run with gaffer := { run.gaffer with mbBusy := true } }, 2#7, by decide, by decide, by decide⟩,
   ⟨{ { run with journal := { run.journal with freeze := true } } with
      gaffer := { ({ run with journal := { run.journal with freeze := true } }).gaffer with
        inq := [{ input := .port, bytes := (packet 0x14 [0, 1]) }], step := 10#4, started := true } }, (packet 0x14 [0, 1]),
    (packetOf { input := .port, bytes := (packet 0x14 [0, 1]) }), by decide, by decide, by decide, by decide, by decide,
    by decide⟩,
   ⟨{ run with gaffer := { run.gaffer with inq := [{ input := .port, bytes := [1#8] }], step := 10#4, started := true } },
    [1#8], (packetOf { input := .port, bytes := [1#8] }), 0x0108#16, by decide, by decide, by decide, by decide, by decide,
    Or.inl ⟨by unfold PacketIntact; decide, rfl⟩, by decide⟩,
   ⟨{ run with
      gaffer := { run.gaffer with inq := [{ input := .port, bytes := (packet 0x16 []) }], step := 10#4, started := true } },
    (packet 0x16 []), (packetOf { input := .port, bytes := (packet 0x16 []) }), 0x0101#16, by decide, by decide, by decide,
    by decide, by decide,
    Or.inr (Or.inr (Or.inr (Or.inl ⟨by unfold PacketIntact; decide, by decide, by decide, by decide, rfl⟩))), by decide⟩,
   ⟨{ run with
      gaffer := { run.gaffer with inq := [{ input := .port, bytes := (packet 1 []) }], step := 10#4, started := true } },
    (packet 1 []), (packetOf { input := .port, bytes := (packet 1 []) }), by decide, by decide, by decide, by decide, by decide,
    passes 0 (by unfold PacketIntact; decide) (by decide) (by decide) (by decide) (by unfold ClassBit; dsimp only; decide)
    (by decide) (by decide), by decide⟩,
   ⟨{ run with
      gaffer :=
      { run.gaffer with inq := [{ input := .port, bytes := (packet 0x10 [7, 1, 2, 3, 4, 5]) }], step := 10#4, started := true }
      }, (packet 0x10 [7, 1, 2, 3, 4, 5]), (packetOf { input := .port, bytes := (packet 0x10 [7, 1, 2, 3, 4, 5]) }), by decide,
    by decide, by decide, by decide, by decide, passes 1 (by unfold PacketIntact; decide) (by decide) (by decide) (by decide)
    (by unfold ClassBit; dsimp only; decide) (by decide) (by decide), by decide, by decide⟩,
   ⟨{ run with
      gaffer := { run.gaffer with inq := [{ input := .port, bytes := (packet 0x07 [0]) }], step := 10#4, started := true } },
    (packet 0x07 [0]), (packetOf { input := .port, bytes := (packet 0x07 [0]) }), by decide, by decide, by decide, by decide,
    by decide, passes 3 (by unfold PacketIntact; decide) (by decide) (by decide) (by decide)
    (by unfold ClassBit; dsimp only; decide) (by decide) (by decide), by decide, by decide, by decide⟩,
   ⟨{ run with
      gaffer := { run.gaffer with inq := [{ input := .port, bytes := (packet 0x07 [1]) }], step := 10#4, started := true } },
    (packet 0x07 [1]), (packetOf { input := .port, bytes := (packet 0x07 [1]) }), by decide, by decide, by decide, by decide,
    by decide, passes 3 (by unfold PacketIntact; decide) (by decide) (by decide) (by decide)
    (by unfold ClassBit; dsimp only; decide) (by decide) (by decide), by decide, by decide, by decide⟩,
   ⟨{ run with
      gaffer :=
      { run.gaffer with inq := [{ input := .port, bytes := (packet 0x10 [7, 1, 2, 3, 4, 5]) }], step := 10#4, started := true }
      }, (packet 0x10 [7, 1, 2, 3, 4, 5]), (packetOf { input := .port, bytes := (packet 0x10 [7, 1, 2, 3, 4, 5]) }), by decide,
    by decide, by decide, by decide⟩,
   ⟨{ run with gaffer := { run.gaffer with outq := [.reply [7#8] true] } }, [7#8], true, [], by decide, by decide⟩,
   ⟨{ run with
      gaffer := { run.gaffer with
        outq := [.event { code := 0x41#16, source := 0#8, tier := 3#3, lc := 5#64, pos := 0#32, detail := [1#32] }], lost :=
        3#16 } }, { code := 0x41#16, source := 0#8, tier := 3#3, lc := 5#64, pos := 0#32, detail := [1#32] }, [], by decide,
    by decide⟩,
   ⟨run, by decide, by decide⟩⟩

theorem witness_ActionsEnd :
    (∃ (s : State) (far : FarReply) (r : ReplyTo) (src : DWord) (len : Nat) (b : List Byte), s.pins.alive = true ∧
      s.gaffer.action = some (.loadFw r src len) ∧ isSys src.toNat = true ∧ b = replyBytes far (sysBits src.toNat) len) ∧
    (∃ (s : State) (far : FarReply) (r : ReplyTo) (src : DWord) (len : Nat) (b : List Byte), s.pins.alive = true ∧
      s.gaffer.action = some (.loadFw r src len) ∧ isSys src.toNat = true ∧ b = replyBytes far (sysBits src.toNat) len) ∧
    (∃ (s : State) (far : FarReply) (r : ReplyTo) (src : DWord) (len : Nat) (b : List Byte), s.pins.alive = true ∧
      s.gaffer.action = some (.loadFw r src len) ∧ isSys src.toNat = true ∧ b = replyBytes far (sysBits src.toNat) len) ∧
    (∃ (s : State) (far : FarReply) (r : ReplyTo) (src : DWord) (len : Nat) (b : List Byte), s.pins.alive = true ∧
      s.gaffer.action = some (.loadFw r src len) ∧ isSys src.toNat = true ∧ b = replyBytes far (sysBits src.toNat) len) ∧
    (∃ (s : State) (r : ReplyTo) (target : DWord) (src : DWord) (entry : Nat) (len : Nat) (a : Nat) (det : Bool) (bars : List
      (Word × Word × Word)), s.pins.alive = true ∧ s.gaffer.action = some (.launchAt r target entry det src len bars) ∧ (0 < len
      → isSys src.toNat = true) ∧ a ≤ 8 ∧ (∀ j, j < a → (Vec.at s.lehr.acts j).armed = true) ∧ (a < 8 → (Vec.at s.lehr.acts
      a).armed = false)) ∧
    (∃ (s : State) (r : ReplyTo) (target : DWord) (src : DWord) (entry : Nat) (len : Nat) (a : Nat) (det : Bool) (bars : List
      (Word × Word × Word)), s.pins.alive = true ∧ s.gaffer.action = some (.launchAt r target entry det src len bars) ∧ (0 < len
      → isSys src.toNat = true) ∧ a ≤ 8 ∧ (∀ j, j < a → (Vec.at s.lehr.acts j).armed = true) ∧ (a < 8 → (Vec.at s.lehr.acts
      a).armed = false)) ∧
    (∃ (s : State) (r : ReplyTo) (target : DWord) (src : DWord) (entry : Nat) (len : Nat) (a : Nat) (det : Bool) (bars : List
      (Word × Word × Word)), s.pins.alive = true ∧ s.gaffer.action = some (.launchAt r target entry det src len bars) ∧ (0 < len
      → isSys src.toNat = true) ∧ a ≤ 8 ∧ (∀ j, j < a → (Vec.at s.lehr.acts j).armed = true) ∧ (a < 8 → (Vec.at s.lehr.acts
      a).armed = false)) ∧
    (∃ (s : State) (t0 : Nat), s.pins.alive = true ∧ s.gaffer.resetAt = some t0 ∧ s.gaffer.storing = false ∧ (s.gaffer.resetGo =
      true ∨ t0 + 1700000 ≤ s.nc)) ∧
    (∃ (s : State) (t0 : Nat), s.pins.alive = true ∧ s.gaffer.resetAt = some t0 ∧ s.gaffer.storing = false ∧ (s.gaffer.resetGo =
      true ∨ t0 + 1700000 ≤ s.nc)) ∧
    (∃ (s : State) (t0 : Nat), s.pins.alive = true ∧ s.gaffer.resetAt = some t0 ∧ s.gaffer.storing = false ∧ s.gaffer.resetGo =
      false ∧ s.nc < t0 + 1700000) ∧
    (∃ (s : State) (far : FarReply) (r : ReplyTo) (m : BitVec 2) (src : DWord) (b : List Byte), s.pins.alive = true ∧
      s.gaffer.mouldAct = some (.read r m src) ∧ isSys src.toNat = true ∧ b = replyBytes far (sysBits src.toNat) 8192) ∧
    (∃ (s : State) (far : FarReply) (r : ReplyTo) (m : BitVec 2) (src : DWord) (b : List Byte), s.pins.alive = true ∧
      s.gaffer.mouldAct = some (.read r m src) ∧ isSys src.toNat = true ∧ b = replyBytes far (sysBits src.toNat) 8192) ∧
    (∃ (s : State) (r : ReplyTo) (m : BitVec 2) (image : List Byte) (since : Nat), s.pins.alive = true ∧ s.gaffer.mouldAct =
      some (.wait r m image since) ∧ s.nc < since + 17000000) ∧
    (∃ (s : State) (r : ReplyTo) (m : BitVec 2) (image : List Byte) (since : Nat), s.pins.alive = true ∧ s.gaffer.mouldAct =
      some (.wait r m image since) ∧ since + 17000000 ≤ s.nc) ∧
    (∃ (s : State) (rec : List Byte) (rest : List (List Byte)) (slot : Nat), s.pins.alive = true ∧ s.gaffer.kilnBusy = true ∧
      s.gaffer.kiln = rec :: rest ∧ s.pins.resetPending = false ∧ rec.length = 64 ∧ slot = 0x20000 + 64 * (leAt rec 0 4 % 2048))
      ∧
    (∃ (s : State) (rec : List Byte) (rest : List (List Byte)) (slot : Nat), s.pins.alive = true ∧ s.gaffer.kilnBusy = true ∧
      s.gaffer.kiln = rec :: rest ∧ s.pins.resetPending = false ∧ rec.length = 64 ∧ slot = 0x20000 + 64 * (leAt rec 0 4 % 2048))
      ∧
    (∃ (s : State) (r : ReplyTo) (m : BitVec 2) (image : List Byte), s.pins.alive = true ∧ s.gaffer.kilnBusy = false ∧
      s.gaffer.mouldAct = some (.store r m image) ∧ s.pins.resetPending = false ∧ image.length = 8192 ∧ Memory.wf s.gaffer.mram
      = true) ∧
    (∃ (s : State), s.pins.alive = true ∧ s.pins.pwrStable = true ∧ s.gaffer.storing = false ∧ s.gaffer.mouldWaiting = false ∧
      s.gaffer.kiln ≠ [] ∧ s.pins.resetPending = false) ∧
    (∃ (s : State), s.pins.alive = true ∧ (s.pins.pwrStable = false ∨ s.gaffer.storing = true ∨ s.gaffer.kiln = [])) :=
  ⟨⟨(acting run (.loadFw reply 0x1000000000001000#64 64)), (answer 0x1000 ((leBytes 4 0x20000 ++ leBytes 4 0x20000000 ++ leBytes
    4 64 ++ List.replicate 48 0#8) ++ leBytes 4 (crc32c ((leBytes 4 0x20000 ++ leBytes 4 0x20000000 ++ leBytes 4 64 ++
    List.replicate 48 0#8) ++ List.replicate 4 0#8)).toNat)), reply, 0x1000000000001000#64, 64, _, by decide +kernel,
    by decide +kernel, by decide +kernel, rfl⟩,
   ⟨(acting run (.loadFw reply 0x1000000000001000#64 64)), (answer 0x1000 ((leBytes 4 0x20000 ++ leBytes 4 0x21000000 ++ leBytes
    4 64 ++ List.replicate 48 0#8) ++ leBytes 4 (crc32c ((leBytes 4 0x20000 ++ leBytes 4 0x21000000 ++ leBytes 4 64 ++
    List.replicate 48 0#8) ++ List.replicate 4 0#8)).toNat)), reply, 0x1000000000001000#64, 64, _, by decide +kernel,
    by decide +kernel, by decide +kernel, rfl⟩,
   ⟨(acting run (.loadFw reply 0x1000000000001000#64 64)), { cells := [], errs := [] }, reply, 0x1000000000001000#64, 64, _,
    by decide +kernel, by decide +kernel, by decide +kernel, rfl⟩,
   ⟨(acting run (.loadFw reply 0x1000000000001000#64 64)), { cells := [], errs := [(0x103F, .data)] }, reply,
    0x1000000000001000#64, 64, _, by decide +kernel, by decide +kernel, by decide +kernel, rfl⟩,
   ⟨(acting { run with lehr := { run.lehr with synced := true, lc := 5#64 } } (.launchAt reply 9#64 0 true 0x1000000000001000#64
    6 [(0x00050003#32, 0x00001002#32, 7#32)])), reply, 9#64, 0x1000000000001000#64, 0, 6, 0, true, [(0x00050003#32,
    0x00001002#32, 7#32)], by decide +kernel, by decide +kernel, by decide +kernel, by decide +kernel, by decide +kernel,
    by decide +kernel⟩,
   ⟨(acting { run with lehr := { run.lehr with synced := true, lc := 9#64 } } (.launchAt reply 9#64 0 true 0x1000000000001000#64
    6 [(0x00050003#32, 0x00001002#32, 7#32)])), reply, 9#64, 0x1000000000001000#64, 0, 6, 0, true, [(0x00050003#32,
    0x00001002#32, 7#32)], by decide +kernel, by decide +kernel, by decide +kernel, by decide +kernel, by decide +kernel,
    by decide +kernel⟩,
   ⟨(acting { run with lehr := { run.lehr with synced := true, lc := 5#64 } } (.launchAt reply 9#64 0 true 0x1000000000001000#64
    6 [(0x00050003#32, 0x00001002#32, 7#32)])), reply, 9#64, 0x1000000000001000#64, 0, 6, 0, true, [(0x00050003#32,
    0x00001002#32, 7#32)], by decide +kernel, by decide +kernel, by decide +kernel, by decide +kernel, by decide +kernel,
    by decide +kernel⟩,
   ⟨{ run with gaffer := { run.gaffer with resetAt := some 0, resetGo := true } }, 0, by decide +kernel, by decide +kernel,
    by decide +kernel, by decide +kernel⟩,
   ⟨{ { run with gaffer := { run.gaffer with resetAt := some 0 } } with nc := 1700000 }, 0, by decide +kernel,
    by decide +kernel, by decide +kernel, by decide +kernel⟩,
   ⟨{ { run with gaffer := { run.gaffer with resetAt := some 0 } } with nc := 1699999 }, 0, by decide +kernel,
    by decide +kernel, by decide +kernel, by decide +kernel, by decide +kernel⟩,
   ⟨{ run with gaffer := { run.gaffer with mouldAct := some (.read reply 1#2 0x1000000000001000#64) } },
    { cells := [], errs := [] }, reply, 1#2, 0x1000000000001000#64, _, by decide +kernel, by decide +kernel, by decide +kernel,
    rfl⟩,
   ⟨{ run with gaffer := { run.gaffer with mouldAct := some (.read reply 1#2 0x1000000000001000#64) } },
    { cells := [], errs := [(0x2FFF, .address)] }, reply, 1#2, 0x1000000000001000#64, _, by decide +kernel, by decide +kernel,
    by decide +kernel, rfl⟩,
   ⟨{ { run with gaffer := { run.gaffer with mouldAct := some (.wait reply 1#2 [1#8] 0) } } with nc := 16999999 }, reply, 1#2,
    [1#8], 0, by decide +kernel, by decide +kernel, by decide +kernel⟩,
   ⟨{ { run with gaffer := { run.gaffer with mouldAct := some (.wait reply 1#2 [1#8] 0) } } with nc := 17000000 }, reply, 1#2,
    [1#8], 0, by decide +kernel, by decide +kernel, by decide +kernel⟩,
   ⟨{ run with gaffer := { run.gaffer with kilnBusy := true, kiln := [(leBytes 4 5 ++ List.replicate 60 7#8)] } }, (leBytes 4 5
    ++ List.replicate 60 7#8), [], _, by decide +kernel, by decide +kernel, by decide +kernel, by decide +kernel,
    by decide +kernel, rfl⟩,
   ⟨{ run with gaffer := { run.gaffer with kilnBusy := true, kiln := [(leBytes 4 5 ++ List.replicate 60 7#8)] } }, (leBytes 4 5
    ++ List.replicate 60 7#8), [], _, by decide +kernel, by decide +kernel, by decide +kernel, by decide +kernel,
    by decide +kernel, rfl⟩,
   ⟨{ run with gaffer := { run.gaffer with mouldAct := some (.store reply 1#2 plainMould) } }, reply, 1#2, plainMould,
    by decide +kernel, by decide +kernel, by decide +kernel, by decide +kernel, plainMould_length, by decide +kernel⟩,
   ⟨{ { run with gaffer := { run.gaffer with kiln := [(leBytes 4 5 ++ List.replicate 60 7#8)] } } with
      pins := { run.pins with pwrStable := true } }, by decide +kernel, by decide +kernel, by decide +kernel, by decide +kernel,
    by decide +kernel, by decide +kernel⟩,
   ⟨run, by decide +kernel, by decide +kernel⟩⟩

theorem witness_TierChangesState :
    (∃ (s : State), s.pins.alive = true ∧ s.tier.state = .starting ∧ s.tier.vctOn = false ∧ s.tier.sinceNc + 112200 ≤ s.nc) ∧
    (∃ (s : State), s.pins.alive = true ∧ s.tier.state = .starting ∧ s.tier.vctOn = false ∧ s.nc < s.tier.sinceNc + 112200) ∧
    (∃ (s : State) (trained : Bool), s.pins.alive = true ∧ s.tier.state = .starting ∧ s.tier.vctOn = true ∧ (if trained then
      s.tier.powerGood else s.tier.trained) = true) ∧
    (∃ (s : State) (trained : Bool), s.pins.alive = true ∧ s.tier.state = .starting ∧ s.tier.vctOn = true ∧ (if trained then
      s.tier.powerGood else s.tier.trained) = true) ∧
    (∃ (s : State) (trained : Bool), s.pins.alive = true ∧ s.tier.state = .starting ∧ s.tier.vctOn = true ∧ (if trained then
      s.tier.powerGood else s.tier.trained) = false) ∧
    (∃ (s : State), s.pins.alive = true ∧ s.tier.sinceNc + 170000 ≤ s.nc ∧ s.tier.state = .starting) ∧
    (∃ (s : State) (cause : Byte), s.pins.alive = true ∧ s.tier.sinceNc + 170000 ≤ s.nc ∧ s.tier.state = .anneal ∧
      ((s.tier.powerGood = false ∧ cause = 2#8) ∨ (s.tier.powerGood = true ∧ s.tier.trained = false ∧ cause = 3#8))) ∧
    (∃ (s : State) (cause : Byte), s.pins.alive = true ∧ s.tier.sinceNc + 170000 ≤ s.nc ∧ s.tier.state = .anneal ∧
      ((s.tier.powerGood = false ∧ cause = 2#8) ∨ (s.tier.powerGood = true ∧ s.tier.trained = false ∧ cause = 3#8))) ∧
    (∃ (s : State), s.pins.alive = true ∧ s.nc < s.tier.sinceNc + 170000) ∧
    (∃ (s : State), s.pins.alive = true ∧ s.tier.state = .run) ∧
    (∃ (s : State), s.pins.alive = true ∧ s.tier.state = .anneal ∧ s.tier.powerGood = true) ∧
    (∃ (s : State), s.pins.alive = true ∧ s.tier.state = .anneal ∧ s.tier.trained = true) ∧
    (∃ (s : State), s.pins.alive = true ∧ s.tier.state = .anneal ∧ s.tier.powerGood = true ∧ s.tier.trained = true) ∧
    (∃ (s : State), s.pins.alive = true ∧ s.tier.state = .anneal ∧ (s.tier.powerGood = false ∨ s.tier.trained = false)) ∧
    (∃ (s : State), s.pins.alive = true ∧ s.tier.state = .anneal) ∧
    (∃ (s : State), s.pins.alive = true ∧ s.tier.state ≠ .run ∧ s.tier.state ≠ .anneal) ∧
    (∃ (s : State), s.pins.alive = true ∧ s.gaffer.step = 9#4 ∧ s.gaffer.started = true ∧ (s.router.ports.toList.all
      Port.settled = true ∨ (if s.tier.skipped then s.gaffer.startedNc else s.gaffer.runNc) + 170000 ≤ s.nc)) ∧
    (∃ (s : State), s.pins.alive = true ∧ s.gaffer.step = 9#4 ∧ s.gaffer.started = true ∧ s.router.ports.toList.all Port.settled
      = false ∧ s.nc < (if s.tier.skipped then s.gaffer.startedNc else s.gaffer.runNc) + 170000) :=
  ⟨⟨{ { run with
      tier := { run.tier with state := .starting, powerGood := false, trained := false, sinceNc := 0, vctOn := false } } with
      nc := 112200 }, by decide, by decide, by decide, by decide⟩,
   ⟨{ { run with
      tier := { run.tier with state := .starting, powerGood := false, trained := false, sinceNc := 0, vctOn := false } } with
      nc := 112199 }, by decide, by decide, by decide, by decide⟩,
   ⟨{
     { run with tier := { run.tier with state := .starting, powerGood := true, trained := false, sinceNc := 0, vctOn := true } }
     with nc := 0 }, true, by decide, by decide, by decide, by decide⟩,
   ⟨{
     { run with tier := { run.tier with state := .starting, powerGood := false, trained := true, sinceNc := 0, vctOn := true } }
     with nc := 0 }, false, by decide, by decide, by decide, by decide⟩,
   ⟨{ { run with
      tier := { run.tier with state := .starting, powerGood := false, trained := false, sinceNc := 0, vctOn := true } } with
      nc := 0 }, true, by decide, by decide, by decide, by decide⟩,
   ⟨{ { run with
      tier := { run.tier with state := .starting, powerGood := false, trained := false, sinceNc := 0, vctOn := true } } with
      nc := 170000 }, by decide, by decide, by decide⟩,
   ⟨{ { run with tier := { run.tier with state := .anneal, powerGood := false, trained := false } } with nc := 170000 }, 2#8,
    by decide, by decide, by decide, by decide⟩,
   ⟨{ { run with tier := { run.tier with state := .anneal, powerGood := true, trained := false } } with nc := 170000 }, 3#8,
    by decide, by decide, by decide, by decide⟩,
   ⟨{ run with nc := 169999 }, by decide, by decide⟩,
   ⟨run, by decide, by decide⟩,
   ⟨{ run with tier := { run.tier with state := .anneal } }, by decide, by decide, by decide⟩,
   ⟨{ run with tier := { run.tier with state := .anneal } }, by decide, by decide, by decide⟩,
   ⟨{ run with tier := { run.tier with state := .anneal } }, by decide, by decide, by decide, by decide⟩,
   ⟨{ run with tier := { run.tier with state := .anneal, trained := false } }, by decide, by decide, by decide⟩,
   ⟨{ run with tier := { run.tier with state := .anneal } }, by decide, by decide⟩,
   ⟨{ run with tier := { run.tier with state := .fenced } }, by decide, by decide, by decide⟩,
   ⟨{ { run with gaffer := { run.gaffer with step := 9#4, started := true } } with nc := 170000 }, by decide, by decide,
    by decide, by decide⟩,
   ⟨{ { run with gaffer := { run.gaffer with step := 9#4, started := true } } with
      router := { run.router with ports := Vec.upd run.router.ports 0 fun p => { p with state := .training } } }, by decide,
    by decide, by decide, by decide, by decide⟩⟩

theorem witness_ResetAndPins :
    (∃ (s : State), s.pins.dead = false ∧ s.pins.resetHeld = false ∧ s.gaffer.storing = false) ∧
    (∃ (s : State), s.pins.dead = false ∧ s.pins.resetHeld = false ∧ s.gaffer.storing = true) ∧
    (∃ (s : State), s.pins.dead = false ∧ s.pins.resetHeld = true) ∧
    (∃ (s : State), s.pins.dead = true) ∧
    (∃ (s : State), s.pins.dead = false ∧ s.pins.resetPending = false ∧ (s.pins.resetHeld = true ∨ s.gaffer.step = 2#4)) ∧
    (∃ (s : State), s.pins.dead = false ∧ s.pins.resetPending = false ∧ (s.pins.resetHeld = true ∨ s.gaffer.step = 2#4)) ∧
    (∃ (s : State), s.pins.dead = false ∧ s.pins.resetPending = true) ∧
    (∃ (s : State), s.pins.dead = false ∧ s.pins.resetPending = false ∧ s.pins.resetHeld = false ∧ s.gaffer.step ≠ 2#4) ∧
    (∃ (s : State), s.pins.dead = false ∧ s.gaffer.storing = true ∧ s.pins.resetPending = true) ∧
    (∃ (s : State), s.pins.dead = false ∧ s.gaffer.storing = true ∧ s.pins.resetPending = true) ∧
    (∃ (s : State), s.pins.alive = true ∧ s.gaffer.step = 6#4 ∧ s.gaffer.fail = false) ∧
    (∃ (s : State), s.pins.alive = true ∧ s.gaffer.step = 6#4 ∧ s.gaffer.fail = false) ∧
    (∃ (s : State), s.pins.testMode = true) ∧
    (∃ (s : State), s.pins.testMode = false) :=
  ⟨⟨run, by decide, by decide, by decide⟩,
   ⟨{ run with gaffer := { run.gaffer with kilnBusy := true, kiln := [List.replicate 64 0#8] } }, by decide, by decide,
    by decide⟩,
   ⟨{ run with pins := { run.pins with resetHeld := true } }, by decide, by decide⟩,
   ⟨{ run with pins := { run.pins with dead := true } }, by decide⟩,
   ⟨State.reset, by decide, by decide, by decide⟩,
   ⟨{ run with pins := { run.pins with resetHeld := true } }, by decide, by decide, by decide⟩,
   ⟨{ run with pins := { run.pins with resetPending := true } }, by decide, by decide⟩,
   ⟨run, by decide, by decide, by decide, by decide⟩,
   ⟨{ { run with gaffer := { run.gaffer with kilnBusy := true, kiln := [List.replicate 64 0#8] } } with
      pins := { ({ run with gaffer := { run.gaffer with kilnBusy := true, kiln := [List.replicate 64 0#8] } }).pins with
        resetPending := true } }, by decide, by decide, by decide⟩,
   ⟨{ { run with gaffer := { run.gaffer with kilnBusy := true, kiln := [List.replicate 64 0#8] } } with
      pins := { ({ run with gaffer := { run.gaffer with kilnBusy := true, kiln := [List.replicate 64 0#8] } }).pins with
        resetPending := true, release := some default } }, by decide, by decide, by decide⟩,
   ⟨{ (withBytes run 64 [1#8]) with gaffer := { ((withBytes run 64 [1#8])).gaffer with step := 6#4, started := false } },
    by decide, by decide, by decide⟩,
   ⟨{ { (withBytes run 64 [1#8]) with gaffer := { ((withBytes run 64 [1#8])).gaffer with step := 6#4, started := true } } with
      tier := { run.tier with state := .off } }, by decide, by decide, by decide⟩,
   ⟨{ withBytes run 64 [1#8] with pins := { run.pins with testMode := true } }, by decide⟩,
   ⟨(withBytes run 64 [1#8]), by decide⟩⟩

theorem witness_AccessesAnswer :
    (∃ (s : State) (m : Master) (addr : Word), s.pins.alive = true ∧ ¬ Held s m.toNat addr.toNat ∧ ¬ Permitted s m.toNat
      addr.toNat 4 true) ∧
    (∃ (s : State) (m : Master) (addr : Word), s.pins.alive = true ∧ ¬ Held s m.toNat addr.toNat ∧ ¬ Permitted s m.toNat
      addr.toNat 4 true) ∧
    (∃ (s : State) (m : Master) (addr : DWord) (size : Nat) (write : Bool), s.pins.alive = true ∧ ¬ Held s m.toNat addr.toNat ∧
      ¬ Permitted s m.toNat addr.toNat size write) ∧
    (∃ (s : State) (m : Master) (addr : DWord) (size : Nat) (write : Bool), s.pins.alive = true ∧ ¬ Held s m.toNat addr.toNat ∧
      ¬ Permitted s m.toNat addr.toNat size write) ∧
    (∃ (s : State) (m : Master) (addr : DWord), s.pins.alive = true ∧ Held s m.toNat addr.toNat) ∧
    (∃ (s : State) (m : Master) (addr : DWord) (size : Nat), s.pins.alive = true ∧ ¬ Held s m.toNat addr.toNat ∧ addr.toNat <
      0x200000 ∧ Permitted s m.toNat addr.toNat size true) ∧
    (∃ (s : State) (m : Master) (addr : DWord) (size : Nat), s.pins.alive = true ∧ ¬ Held s m.toNat addr.toNat ∧ addr.toNat <
      0x200000 ∧ Permitted s m.toNat addr.toNat size false ∧ (∀ w ∈ s.mem.bad, w ≠ addr.toNat / 8)) ∧
    (∃ (s : State) (m : Master) (addr : DWord) (size : Nat), s.pins.alive = true ∧ ¬ Held s m.toNat addr.toNat ∧ addr.toNat <
      0x200000 ∧ Permitted s m.toNat addr.toNat size false ∧ addr.toNat / 8 ∈ s.mem.bad) ∧
    (∃ (s : State) (m : Master), s.pins.alive = true ∧ RegOpen s m 8 0x008 true) ∧
    (∃ (s : State) (m : Master), s.pins.alive = true ∧ RegOpen s m 0 0x010 true) ∧
    (∃ (s : State) (m : Master), s.pins.alive = true ∧ RegOpen s m 8 0x000 true) ∧
    (∃ (s : State) (m : Master), s.pins.alive = true ∧ RegOpen s m 8 0x000 true) ∧
    (∃ (s : State) (m : Master), s.pins.alive = true ∧ RegOpen s m 9 0x020 false) ∧
    (∃ (s : State) (m : Master) (blk : Nat) (o : Nat) (v : DWord), s.pins.alive = true ∧ RegOpen s m blk o false ∧ o + 4 <
      0x1000 ∧ s.reg64 blk o = some v ∧ s.reg64 blk (o + 4) = none) ∧
    (∃ (s : State) (m : Master), s.pins.alive = true ∧ RegOpen s m 8 0x020 true) ∧
    (∃ (s : State) (m : Master), s.pins.alive = true ∧ s.tier.state = .run ∧ RegOpen s m 13 0 true) ∧
    (∃ (s : State) (m : Master), s.pins.alive = true ∧ RegOpen s m 13 0x400 true) ∧
    (∃ (s : State) (m : Master) (i : BitVec 4), s.pins.alive = true ∧ RegOpen s m 11 (0x080 + 4 * i.toNat) true) :=
  ⟨⟨run, 3#7, 0x4008008#32, by decide, by unfold Held; decide,
    shut (by decide) (by decide) (by decide) (by decide) (by decide)⟩,
   ⟨run, 2#7, 0x400E000#32, by decide, by unfold Held; decide,
    shut (by decide) (by decide) (by decide) (by decide) (by decide)⟩,
   ⟨run, 2#7, 0x200000#64, 8, false, by decide, by unfold Held; decide,
    shut (by decide) (by decide) (by decide) (by decide) (by decide)⟩,
   ⟨run, 2#7, 66#64, 4, true, by decide, by unfold Held; decide, fun h => absurd h.2.1 (by decide)⟩,
   ⟨{ run with journal := { run.journal with freeze := true } }, 2#7, 64#64, by decide, by unfold Held; decide⟩,
   ⟨(withBytes run 64 [1#8, 2#8, 3#8]), 2#7, 64#64, 8, by decide, by unfold Held; decide, by decide,
    ⟨by decide, by decide, Or.inl (by decide)⟩⟩,
   ⟨(withBytes run 64 [1#8, 2#8, 3#8]), 2#7, 64#64, 8, by decide, by unfold Held; decide, by decide,
    ⟨by decide, by decide, Or.inl (by decide)⟩, by decide⟩,
   ⟨{ run with mem := { run.mem with bad := [8] } }, 2#7, 64#64, 8, by decide, by unfold Held; decide, by decide,
    ⟨by decide, by decide, Or.inl (by decide)⟩, by decide⟩,
   ⟨run, 0x50#7, by decide, by unfold RegOpen; decide⟩,
   ⟨run, 2#7, by decide, by unfold RegOpen; decide⟩,
   ⟨{ run with marver := { run.marver with stat := 0x6F#7 } }, 2#7, by decide, by unfold RegOpen; decide⟩,
   ⟨{ run with marver := { run.marver with stat := 0x6F#7 }, raised := [(0x8000, 1)] }, 2#7, by decide,
    by unfold RegOpen; decide⟩,
   ⟨{ run with router := { run.router with noroute := 6#32 } }, 2#7, by decide, by unfold RegOpen; decide⟩,
   ⟨{ run with lehr := { run.lehr with lc := 0x500000009#64 } }, 2#7, 10, 8, 0x500000009#64, by decide,
    by unfold RegOpen; decide, by decide, by decide, by decide⟩,
   ⟨run, 0x50#7, by decide, by unfold RegOpen; decide⟩,
   ⟨{ run with stats := { run.stats with sets := Vec.upd run.stats.sets 3 fun x => x } }, 2#7, by decide, by decide,
    by unfold RegOpen; decide⟩,
   ⟨run, 2#7, by decide, by unfold RegOpen; decide⟩,
   ⟨run, 0x51#7, 3#4, by decide, by unfold RegOpen; decide⟩⟩

theorem witness_CommandsKeepToTheirUnits :
    (∃ (c : Instr) (s : State) (u : State), exec c s = .next u ∧ ((∃ src, c = .routerForward src) ∨ (∃ p l, c =
      .linkCreditReturn p l) ∨ (∃ p, c = .linkReadyDrop p ∨ c = .linkReadyRise p ∨ c = .linkReadyHoldEnd p ∨ c = .flitTimeout p
      ∨ c = .trainingComplete p) ∨ (∃ f, c = .idleFlit f) ∨ (∃ p r, c = .helloReceive p r) ∨ (∃ f, c = .edgeFrameReceive f) ∨ c
      = .edgeRetryTimeout ∨ c = .edgeTrainTimeout ∨ c = .edgeTrainRetry ∨ (∃ b, c = .elockChange b) ∨ (∃ v, c = .lehrSyncPulse
      v) ∨ c = .missedPulse)) ∧
    (∃ (c : Instr) (e : Fin 4) (s : State) (u : State) (j : Nat), exec c s = .next u ∧ c ∈ [.tld e, .tst e, .tcfg e, .trel e,
      .ldw e, .swap e, .mm e, .mms e, .acvt e, .tileRowWriteComplete e, .tstComplete e, .tcfgApply e, .stationaryRowWrite e,
      .swapTokenEntry e, .accumulatorRowWrite e, .saturationCheck e] ∧ j ≠ e.val) ∧
    (∃ (c : Instr) (e : Fin 4) (s : State) (u : State) (q : Nat), exec c s = .next u ∧ c ∈ [.tld e, .tst e, .tcfg e, .trel e,
      .ldw e, .swap e, .mm e, .mms e, .acvt e, .tileRowWriteComplete e, .tstComplete e, .tcfgApply e, .stationaryRowWrite e,
      .swapTokenEntry e, .accumulatorRowWrite e, .saturationCheck e] ∧ q ≠ e.val) ∧
    (∃ (c : Instr) (e : Fin 4) (s : State) (u : State), exec c s = .next u ∧ c ∈ [.tld e, .tst e, .tcfg e, .trel e, .ldw e,
      .swap e, .mm e, .mms e, .acvt e, .tileRowWriteComplete e, .tstComplete e, .tcfgApply e, .stationaryRowWrite e,
      .swapTokenEntry e, .accumulatorRowWrite e, .saturationCheck e]) ∧
    (∃ (c : Instr) (s : State) (u : State) (q : Nat), exec c s = .next u ∧ c ∈ [.vop, .vpload, .vep, .vred, .veCompletion] ∧ q ≠
      4) ∧
    (∃ (c : Instr) (s : State) (u : State), exec c s = .next u ∧ c ∈ [.vop, .vpload, .vep, .vred, .veCompletion]) ∧
    (∃ (c : Instr) (s : State) (u : State), exec c s = .next u ∧ c ∈ [.journalWrite, .traceSample]) ∧
    (∃ (c : Instr) (s : State) (u : State) (i : Nat), exec c s = .next u ∧ c ∈ [.snapshotCopy, .snapshotComplete] ∧ i ≠ 0) ∧
    (∃ (c : Instr) (s : State) (u : State), exec c s = .next u ∧ c ∈ [.snapshotCopy, .snapshotComplete]) :=
  ⟨⟨(.linkReadyDrop 0), run, (after (.linkReadyDrop 0) run), rfl, .inr (.inr (.inl ⟨0, .inl rfl⟩))⟩,
   ⟨(.tld 0), 0, (queued 0 [0x10#64, 0#64]), (after (.tld 0) (queued 0 [0x10#64, 0#64])), 1, rfl, by decide, by decide⟩,
   ⟨(.tld 0), 0, (queued 0 [0x10#64, 0#64]), (after (.tld 0) (queued 0 [0x10#64, 0#64])), 4, rfl, by decide, by decide⟩,
   ⟨(.tld 0), 0, (queued 0 [0x10#64, 0#64]), (after (.tld 0) (queued 0 [0x10#64, 0#64])), rfl, by decide⟩,
   ⟨.vop, (queued 4 [0x30#64, 0#64]), (after .vop (queued 4 [0x30#64, 0#64])), 0, rfl, by decide, by decide⟩,
   ⟨.vop, (queued 4 [0x30#64, 0#64]), (after .vop (queued 4 [0x30#64, 0#64])), rfl, by decide⟩,
   ⟨.traceSample, { run with journal := { run.journal with ten := true, tper := 10#5 } }, (after .traceSample
    ({ run with journal := { run.journal with ten := true, tper := 10#5 } })), rfl, by decide⟩,
   ⟨.snapshotCopy, run, (after .snapshotCopy run), 3, rfl, by decide, by decide⟩,
   ⟨.snapshotCopy, run, (after .snapshotCopy run), rfl, by decide⟩⟩

theorem witness_EveryStepKeepsMemoriesCanonical :
    ∃ (s : State) (t : State), s.canonical = true ∧ step s = .next t :=
  ⟨State.reset, State.reset.tick, by decide, rfl⟩

end Sys2Proof.Test
end

namespace Sys2Proof.Machine

/-- The pool, the accumulators and both stationary sets of an engine are in canonical form. -/
structure MatrixEngine.Canon (m : MatrixEngine) : Prop where
  pool : Memory.wf m.pool = true
  acc : Memory.wf m.acc = true
  active : Tbl.wf [] m.active.rows = true
  shadow : Tbl.wf [] m.shadow.rows = true

theorem MatrixEngine.canonical_iff (m : MatrixEngine) : m.canonical = true ↔ m.Canon := by
  simp only [MatrixEngine.canonical, Bool.and_eq_true, and_assoc]
  exact ⟨fun ⟨h1, h2, h3, h4⟩ => ⟨h1, h2, h3, h4⟩, fun ⟨h1, h2, h3, h4⟩ => ⟨h1, h2, h3, h4⟩⟩

/-- Every memory and every table of the state is in canonical form: `State.canonical`, one name for each table. A proof
that an update keeps it is `{ h with … }`, which names the tables the update touches. -/
structure State.Canon (s : State) : Prop where
  imem : Memory.wf s.core.imem = true
  engines : ∀ m ∈ s.engines.toList, m.Canon
  vregs : Tbl.wf 0#32 s.ve.vregs = true
  progs : Memory.wf s.ve.progs = true
  digVal : Tbl.wf 0#64 s.digests.val = true
  digCnt : Tbl.wf 0#32 s.digests.cnt = true
  mem : Memory.wf s.mem.mem = true
  ctxs : Tbl.wf StreamCtx.idle s.se.ctxs = true
  seqTable : Memory.wf s.se.seqTable = true
  store : Memory.wf s.rings.store = true
  credit : Memory.wf s.rings.credit = true
  sendCount : Tbl.wf 0#32 s.rings.sendCount = true
  creditCount : Tbl.wf 0#32 s.rings.creditCount = true
  revokeCount : Tbl.wf 0#16 s.rings.revokeCount = true
  active : Tbl.wf 0#12 s.router.active = true
  staged : Tbl.wf 0#12 s.router.staged = true
  exits : Tbl.wf 0#12 s.router.exits = true
  shards : Tbl.wf Shard.none s.marver.shards = true
  access : Tbl.wf 0#32 s.gaffer.access = true
  mram : Memory.wf s.gaffer.mram = true
  mbReq : Memory.wf s.gaffer.mbReq = true
  mbRep : Memory.wf s.gaffer.mbRep = true

theorem State.canonical_iff (s : State) : s.canonical = true ↔ s.Canon := by
  simp only [State.canonical, Bool.and_eq_true, List.all_eq_true, and_assoc, MatrixEngine.canonical_iff]
  constructor
  · rintro ⟨h1, h2, h3, h4, h5, h6, h7, h8, h9, h10, h11, h12, h13, h14, h15, h16, h17, h18, h19, h20, h21, h22⟩
    exact ⟨h1, h2, h3, h4, h5, h6, h7, h8, h9, h10, h11, h12, h13, h14, h15, h16, h17, h18, h19, h20, h21, h22⟩
  · rintro ⟨h1, h2, h3, h4, h5, h6, h7, h8, h9, h10, h11, h12, h13, h14, h15, h16, h17, h18, h19, h20, h21, h22⟩
    exact ⟨h1, h2, h3, h4, h5, h6, h7, h8, h9, h10, h11, h12, h13, h14, h15, h16, h17, h18, h19, h20, h21, h22⟩

/-- A command that answers with a state answers with a canonical one. -/
inductive Answer.Canon : Answer → Prop
  | next {s : State} (h : s.Canon) : Answer.Canon (.next s)
  | fault (r : Fault) : Answer.Canon (.fault r)
  | refused (r : Refusal) : Answer.Canon (.refused r)

theorem Answer.Canon.ite {c : Prop} [Decidable c] {a b : Answer} (ha : Answer.Canon a) (hb : Answer.Canon b) :
    Answer.Canon (if c then a else b) := by
  split
  · exact ha
  · exact hb

/-- The state that an attempt to issue a transfer leaves is canonical. -/
inductive Tried.Canon : Tried → Prop
  | did {s : State} (h : s.Canon) : Tried.Canon (.did s)
  | idle {s : State} (h : s.Canon) : Tried.Canon (.idle s)
  | tokens {s : State} (h : s.Canon) : Tried.Canon (.tokens s)

theorem Tried.Canon.ite {c : Prop} [Decidable c] {a b : Tried} (ha : a.Canon) (hb : b.Canon) :
    (if c then a else b).Canon := by
  split
  · exact ha
  · exact hb

theorem Tried.Canon.state {x : Tried} (h : x.Canon) : x.state.Canon := by
  cases h <;> assumption

end Sys2Proof.Machine

namespace Sys2Proof.Machine

/-! The operations every family uses. -/

namespace State.Canon

variable {s : State}

theorem ite {c : Prop} [Decidable c] {a b : State} (ha : a.Canon) (hb : b.Canon) : (if c then a else b).Canon := by
  split
  · exact ha
  · exact hb

theorem ite_snd {α : Type} {c : Prop} [Decidable c] {a b : α × State} (ha : a.2.Canon) (hb : b.2.Canon) :
    (if c then a else b).2.Canon := by
  split
  · exact ha
  · exact hb

theorem pair {α : Type} {a : α} (h : s.Canon) : (a, s).2.Canon := h

theorem ofSome {t u : State} (h : t.Canon) (hu : some t = some u) : u.Canon := Option.some.inj hu ▸ h

theorem iteSome {c : Prop} [Decidable c] {a b : Option State} {t : State} (ha : a = some t → t.Canon)
    (hb : b = some t → t.Canon) : (if c then a else b) = some t → t.Canon := by
  split
  · exact ha
  · exact hb

theorem foldl {β : Type} {f : State → β → State} {l : List β} (hf : ∀ t b, t.Canon → (f t b).Canon) (h : s.Canon) :
    (l.foldl f s).Canon := by
  induction l generalizing s with
  | nil => exact h
  | cons b l ih => exact ih (hf s b h)

/-- Parts of the state that hold no table may change freely. -/
theorem parts {pending nc free resp latches lowers raised stats far sched lehr journal tier pins} (h : s.Canon) :
    ({ s with pending, nc, free, resp, latches, lowers, raised, stats, far, sched, lehr, journal, tier, pins } : State).Canon :=
  { h with }

/-- What each part of the state holds besides its tables may change freely, together with the parts without a table. -/
theorem coreParts {pending nc free resp latches lowers raised stats far sched lehr journal tier pins tasks cur mustSwitch
    running cache queues faultCode faultValid faultSlot faultTask faultPc owners startBeat storeCount
    imemBad} (h : s.Canon) :
    ({ s with
        pending, nc, free, resp, latches, lowers, raised, stats, far, sched, lehr, journal, tier, pins
        core := { s.core with
          tasks, cur, mustSwitch, running, cache, queues, faultCode, faultValid, faultSlot, faultTask, faultPc, owners,
          startBeat, storeCount, imemBad } } : State).Canon :=
  { h with }
theorem veParts {pending nc free resp latches lowers raised stats far sched lehr journal tier pins pvalid oobSticky isat inv
    fValid fCode fOpc fSeq oob lost busy inflight} (h : s.Canon) :
    ({ s with
        pending, nc, free, resp, latches, lowers, raised, stats, far, sched, lehr, journal, tier, pins
        ve := { s.ve with
          pvalid, oobSticky, isat, inv, fValid, fCode, fOpc, fSeq, oob, lost, busy, inflight } } : State).Canon :=
  { h with }
theorem digestsParts {pending nc free resp latches lowers raised stats far sched lehr journal tier pins log logErr logWrap
    logBase logSize logPtr} (h : s.Canon) :
    ({ s with
        pending, nc, free, resp, latches, lowers, raised, stats, far, sched, lehr, journal, tier, pins
        digests := { s.digests with
          log, logErr, logWrap, logBase, logSize, logPtr } } : State).Canon :=
  { h with }
theorem memParts {pending nc free resp latches lowers raised stats far sched lehr journal tier pins bad single scrubRow
    scrubNc eccCount eccValid eccAddr} (h : s.Canon) :
    ({ s with
        pending, nc, free, resp, latches, lowers, raised, stats, far, sched, lehr, journal, tier, pins
        mem := { s.mem with
          bad, single, scrubRow, scrubNc, eccCount, eccValid, eccAddr } } : State).Canon :=
  { h with }
theorem seParts {pending nc free resp latches lowers raised stats far sched lehr journal tier pins xfers wait last buckets
    tlb walks fCode fValid fCtx fAddr shareRead shareWrite shareRemote xlatEn ptroot throt throttled} (h : s.Canon) :
    ({ s with
        pending, nc, free, resp, latches, lowers, raised, stats, far, sched, lehr, journal, tier, pins
        se := { s.se with
          xfers, wait, last, buckets, tlb, walks, fCode, fValid, fCtx, fAddr, shareRead, shareWrite, shareRemote, xlatEn,
          ptroot, throt, throttled } } : State).Canon :=
  { h with }
theorem ringsParts {pending nc free resp latches lowers raised stats far sched lehr journal tier pins writes parked cCode
    cTag cBusy stat dCode dValid dTag disc staleValid staleEntry tx rx} (h : s.Canon) :
    ({ s with
        pending, nc, free, resp, latches, lowers, raised, stats, far, sched, lehr, journal, tier, pins
        rings := { s.rings with
          writes, parked, cCode, cTag, cBusy, stat, dCode, dValid, dTag, disc, staleValid, staleEntry, tx, rx } } : State).Canon :=
  { h with }
theorem routerParts {pending nc free resp latches lowers raised stats far sched lehr journal tier pins mcout adapt comb stat
    lvalid lcid shown edge pid mtie chip epoch mapBank mapIdx xIdx noroute nrValid nrMis nrLcid nrChip ports link txq
    inbox} (h : s.Canon) :
    ({ s with
        pending, nc, free, resp, latches, lowers, raised, stats, far, sched, lehr, journal, tier, pins
        router := { s.router with
          mcout, adapt, comb, stat, lvalid, lcid, shown, edge, pid, mtie, chip, epoch, mapBank, mapIdx, xIdx, noroute,
          nrValid, nrMis, nrLcid, nrChip, ports, link, txq, inbox } } : State).Canon :=
  { h with }
theorem marverParts {pending nc free resp latches lowers raised stats far sched lehr journal tier pins slots chunk wait pubs
    stat fCode fValid fShard lr mode lrmax lrmin warm period seed ssel orphan dup blocks} (h : s.Canon) :
    ({ s with
        pending, nc, free, resp, latches, lowers, raised, stats, far, sched, lehr, journal, tier, pins
        marver := { s.marver with
          slots, chunk, wait, pubs, stat, fCode, fValid, fShard, lr, mode, lrmax, lrmin, warm, period, seed, ssel, orphan,
          dup, blocks } } : State).Canon :=
  { h with }
theorem gafferParts {pending nc free resp latches lowers raised stats far sched lehr journal tier pins inq outq lost action
    mouldAct image fw started startedNc runNc step fail evten torn ovr sel gpins domain tornMould tornKiln kiln kilnBusy
    kseq kilnNext mbDone mbBusy resetAt resetGo mouldOk storeLost sent} (h : s.Canon) :
    ({ s with
        pending, nc, free, resp, latches, lowers, raised, stats, far, sched, lehr, journal, tier, pins
        gaffer := { s.gaffer with
          inq, outq, lost, action, mouldAct, image, fw, started, startedNc, runNc, step, fail, evten, torn, ovr, sel, pins
          := gpins, domain, tornMould, tornKiln, kiln, kilnBusy, kseq, kilnNext, mbDone, mbBusy, resetAt, resetGo,
          mouldOk, storeLost, sent } } : State).Canon :=
  { h with }

theorem raise {blk o i} (h : s.Canon) : (s.raise blk o i).Canon := { h with }
theorem raiseIf {b blk o i} (h : s.Canon) : (s.raiseIf b blk o i).Canon := .ite (.raise h) h
theorem post {code source detail} (h : s.Canon) : (s.post code source detail).Canon := .ite { h with } { h with }
theorem setJnStat {i} (h : s.Canon) : (s.setJnStat i).Canon := .raise { h with }
theorem kilnRecord {code source detail} (h : s.Canon) : (s.kilnRecord code source detail).Canon :=
  .ite (.setJnStat h) { h with }
theorem postKiln {code source detail} (h : s.Canon) : (s.postKiln code source detail).Canon := .post (.kilnRecord h)
theorem eccAddr {a} (h : s.Canon) : (s.eccAddr a).Canon := .raise (.ite h { h with })
theorem noteEcc {u a} (h : s.Canon) : (s.noteEcc u a).Canon := .kilnRecord (.eccAddr h)
theorem lread {a n} (h : s.Canon) : (s.lread a n).2.2.Canon := { h with }
theorem lreadOn {u a n} (h : s.Canon) : (s.lreadOn u a n).2.Canon := by
  unfold State.lreadOn State.lread
  cases s.mem.badIn a n with
  | none => exact { h with }
  | some w => exact { noteEcc (u := u) (a := w) (h.lread (a := a) (n := n)) with }
theorem lwrite {a bs} (h : s.Canon) : (s.lwrite a bs).Canon := { h with mem := Memory.wf_writeBytes _ _ _ h.mem }
theorem onQueue {q f} (h : s.Canon) : (s.onQueue q f).Canon := { h with }
theorem take {q c} (h : s.Canon) : (s.take q c).Canon := .onQueue h
theorem complete {q seq} (h : s.Canon) : (s.complete q seq).Canon := .onQueue h
theorem completeIf {q o} (h : s.Canon) : (s.completeIf q o).Canon := by
  cases o with
  | none => exact h
  | some seq => exact .complete h
theorem farIssue {write addr len mid use data n t} (h : s.Canon) (ht : s.farIssue write addr len mid use data = some (n, t)) :
    t.Canon := by
  obtain ⟨_, _, hx⟩ := Option.map_eq_some_iff.mp ht
  cases hx; exact { h with }
theorem forgetFar {gone} (h : s.Canon) : (s.forgetFar gone).Canon := { h with }
theorem farChecked {r a n} (h : s.Canon) : (s.farChecked r a n).2.Canon := by
  unfold State.farChecked
  split
  · exact .kilnRecord h
  · exact h
  · exact h

theorem foldDigest {e osid digest seq} (h : s.Canon) : (s.foldDigest e osid digest seq).Canon := by
  unfold State.foldDigest
  extract_lets d g g2 s2 a s3
  have h2 : s2.Canon := { h with digVal := Tbl.wf_set _ _ _ _ h.digVal, digCnt := Tbl.wf_set _ _ _ _ h.digCnt }
  have h3 : s3.Canon := .lwrite h2
  exact .ite (.ite (.raiseIf { h3 with digVal := h2.digVal, digCnt := h2.digCnt }) (.raise { h2 with })) h2

/-! The journal. -/

theorem traceStarved (h : s.Canon) : s.traceStarved.Canon := .ite (.setJnStat h) (.post { h.setJnStat (i := 1) with })
theorem settleStaging (h : s.Canon) : s.settleStaging.Canon := by
  unfold State.settleStaging
  extract_lets f e j s1
  have h1 : s1.Canon := .ite (.traceStarved h.parts) h
  exact .ite (.setJnStat h1.parts) (.ite h1.parts h1)
theorem jappend {kind rank stamp arg body} (h : s.Canon) : (s.jappend kind rank stamp arg body).Canon :=
  .settleStaging { h with }
theorem jmessage {kind m stamp port} (h : s.Canon) : (s.jmessage kind m stamp port).Canon := .ite (.jappend h) h
theorem zeroOrds (h : s.Canon) : s.zeroOrds.Canon :=
  { h with ctxs := Tbl.wf_update _ _ _ h.ctxs, shards := Tbl.wf_update _ _ _ h.shards }
theorem jmark {q bank bid gen id} (h : s.Canon) : (s.jmark q bank bid gen id).1.Canon := by
  unfold State.jmark
  split
  · exact .jappend h
  · exact h
theorem launchMark (h : s.Canon) : s.launchMark.Canon := .ite (.jmark (.zeroOrds h)) { h.zeroOrds.jmark with }
theorem jread {src ord faddr data} (h : s.Canon) : (s.jread src ord faddr data).Canon := .ite (.jappend h) h
theorem jfence {cause} (h : s.Canon) : (s.jfence cause).1.Canon := by
  unfold State.jfence
  split
  · exact .jappend h
  · exact h
theorem jend {epoch} (h : s.Canon) : (s.jend epoch).Canon := .ite (.jappend h) h
theorem farWrites {use l t} (h : s.Canon) (ht : s.farWrites use l = some t) : t.Canon := by
  induction l generalizing s with
  | nil => cases ht; exact h
  | cons c l ih =>
    unfold State.farWrites at ht
    split at ht
    · cases ht
    · next hi => exact ih (h.farIssue hi) ht
theorem traceWrite (h : s.Canon) : s.traceWrite.Canon := by
  unfold State.traceWrite
  split
  · exact h
  · refine .ite { h with } ?_
    split
    · exact h
    · next hw => exact { h.farWrites hw with }
theorem journalAck (h : s.Canon) : s.journalAck.Canon := { h with }

/-! Rings and credits. -/

theorem storeTable {m} (h : s.Canon) (hm : Memory.wf m = true) :
    ({ s with rings := { s.rings with store := m } } : State).Canon := { h with store := hm }
theorem creditTable {m} (h : s.Canon) (hm : Memory.wf m = true) :
    ({ s with rings := { s.rings with credit := m } } : State).Canon := { h with credit := hm }
theorem transmit {m mc} (h : s.Canon) : (s.transmit m mc).Canon := { h with }
theorem setRing {t o n v} (h : s.Canon) : (s.setRing t o n v).Canon := { h with store := Memory.wf_writeLE _ _ _ _ h.store }
theorem setRingState {t st} (h : s.Canon) : (s.setRingState t st).Canon := .setRing h
theorem setRingEpoch {t v} (h : s.Canon) : (s.setRingEpoch t v).Canon := .setRing h
theorem setWptr {t v} (h : s.Canon) : (s.setWptr t v).Canon := .setRing h
theorem setRptr {t v} (h : s.Canon) : (s.setRptr t v).Canon := .setRing h
theorem autoClose {t} (h : s.Canon) : (s.autoClose t).Canon := .ite (.setRingState h) h
theorem setRgStat {i} (h : s.Canon) : (s.setRgStat i).Canon := .raise { h with }
theorem setCredit {e o n v} (h : s.Canon) : (s.setCredit e o n v).Canon :=
  { h with credit := Memory.wf_writeLE _ _ _ _ h.credit }
theorem noteStale {e} (h : s.Canon) : (s.noteStale e).Canon := by
  unfold State.noteStale
  extract_lets s1
  have h1 : s1.Canon := .raise (.setRgStat h)
  exact .ite h1 { h1 with }
theorem completeSend {o} (h : s.Canon) : (s.completeSend o).Canon := by
  cases o with
  | none => exact h
  | some seq => exact .complete h
theorem releaseSend {d} (h : s.Canon) : (s.releaseSend d).Canon := { h with }
theorem charge {e n} (h : s.Canon) : (s.charge e n).Canon := .setCredit h
theorem judgeParked {ds blocked} (h : s.Canon) : (judgeParked ds blocked s).2.Canon := by
  induction ds generalizing blocked s with
  | nil => exact h
  | cons d ds ih =>
    unfold Machine.judgeParked
    extract_lets c
    split
    · exact ih (.completeSend (.noteStale h))
    · split
      · exact ih h
      · exact ih (.releaseSend (.charge h))
theorem releaseParked (h : s.Canon) : s.releaseParked.Canon := { h.judgeParked with }
theorem suppressCredit {t} (h : s.Canon) : (s.suppressCredit t).2.Canon := by
  unfold State.suppressCredit; (repeat' split) <;> exact { h with }
theorem suppressRevoke {t} (h : s.Canon) : (s.suppressRevoke t).2.Canon := by
  unfold State.suppressRevoke; (repeat' split) <;> exact { h with }
theorem suppressSend {e} (h : s.Canon) : (s.suppressSend e).2.Canon := by
  unfold State.suppressSend; (repeat' split) <;> exact { h with }
theorem sendCredit {t epoch chip lcid sent gran} (h : s.Canon) : (s.sendCredit t epoch chip lcid sent gran).Canon := by
  unfold State.sendCredit
  extract_lets r s1
  have h1 : s1.Canon := { h with creditCount := Tbl.wf_set _ _ _ _ h.creditCount }
  exact .ite h1.suppressCredit (.transmit h1.suppressCredit)
theorem sendRevoke {t epoch} (h : s.Canon) : (s.sendRevoke t epoch).Canon := by
  unfold State.sendRevoke
  extract_lets r s1
  have h1 : s1.Canon := { h with revokeCount := Tbl.wf_set _ _ _ _ h.revokeCount }
  exact .ite h1.suppressRevoke (.transmit h1.suppressRevoke)
theorem classify {w tag x stamp} (h : s.Canon) : (s.classify w tag x stamp).Canon :=
  .ite h (.ite { h with } (.ite h (.raise (.raise { h with }))))
theorem countWindow {lane tag amount stamp} (h : s.Canon) : (s.countWindow lane tag amount stamp).Canon := by
  unfold State.countWindow
  refine .ite h ?_
  split
  · exact .raise { h with }
  · exact .classify { h with }
theorem lzero {a n} (h : s.Canon) : (s.lzero a n).Canon := { h with mem := Memory.wf_zero _ _ _ h.mem }
theorem zeroSlots {t} (h : s.Canon) : (s.zeroSlots t).Canon := .ite h (.lzero h)
theorem writeMessage {w} (h : s.Canon) : (s.writeMessage w).Canon := .foldl (fun _ _ h => .lwrite h) h
theorem advance {w} (h : s.Canon) : (s.advance w).Canon := .autoClose (.countWindow (.setWptr h))
theorem settleWrites {t keep} (h : s.Canon) : (s.settleWrites t keep).Canon :=
  .foldl (fun _ _ h => .ite (.advance (.writeMessage h)) (.writeMessage h)) { h with }
theorem revoke {t} (h : s.Canon) : (s.revoke t).Canon := .sendRevoke (.setRingEpoch h)
theorem releaseSlot {t slot} (h : s.Canon) : (s.releaseSlot t slot).Canon := .autoClose (.setRptr (.lzero h))
theorem dropSlots {t} (h : s.Canon) : (s.dropSlots t).Canon := by
  unfold State.dropSlots
  split
  · next slot _ => exact { releaseSlot (t := t) (slot := slot) h with }
  · exact { h with }
theorem ringAct {op t slot u} (h : s.Canon) : s.ringAct op t slot = some u → u.Canon := by
  unfold State.ringAct
  extract_lets r live s1
  have h1 : s1.Canon := .dropSlots (.settleWrites h)
  split
  · exact iteSome (ofSome (.setRingState (.zeroSlots (.setRing (.setRptr (.setWptr h)))))) nofun
  · exact iteSome (ofSome (.revoke (.setRingState (.setWptr h1)))) nofun
  · exact iteSome (ofSome (.autoClose (.revoke (.setRingState (.settleWrites h))))) nofun
  · exact iteSome (ofSome (.revoke (.setRingState (.zeroSlots (.setRptr (.setWptr h1)))))) nofun
  · exact iteSome (ofSome (.releaseSlot h)) nofun
  · exact nofun
theorem ringNote {t code busy} (h : s.Canon) : (s.ringNote t code busy).Canon := { h with }
theorem ringCommand {m op t slot} (h : s.Canon) : (s.ringCommand m op t slot).Canon := by
  unfold State.ringCommand
  refine .ite (.ringNote h) (.ite (.ringNote h) ?_)
  split
  · next ha => exact .ringNote (h.ringAct ha)
  · exact .ringNote h
theorem ringIdle (h : s.Canon) : s.ringIdle.Canon := { h with }
theorem rptrWalk {r goal k d acc} (h : s.Canon) : (State.rptrWalk r goal k d acc s).2.Canon := by
  induction k generalizing d acc s with
  | zero => exact h
  | succ k ih =>
    unfold State.rptrWalk
    split
    · exact h
    · split
      · exact h
      · exact ih (.lreadOn h)
theorem writeRptr {t new} (h : s.Canon) : (s.writeRptr t new).Canon := by
  generalize hf : State.writeRptr = f
  delta State.writeRptr at hf
  subst hf
  beta_reduce
  extract_lets r goal most
  clear_value goal most
  have hw : (if goal > most then (none, s) else State.rptrWalk r goal (goal + 1) 0 [] s).2.Canon := by
    split
    · exact h
    · exact .rptrWalk h
  split
  · next heq => rw [heq] at hw; exact .setRgStat hw
  · next heq => rw [heq] at hw; exact .autoClose (.foldl (fun _ _ h => .sendCredit h) (.setRptr hw))
theorem writeDescriptor {t o n v} (h : s.Canon) : (s.writeDescriptor t o n v).Canon := by
  unfold State.writeDescriptor
  extract_lets r old rptr full now ignored rs s1 s2
  have h1 : s1.Canon := .storeTable h (Memory.wf_writeLE _ _ _ _ h.store)
  have h2 : s2.Canon := .ite (.setRgStat h1) h1
  exact .ite (.writeRptr h2) h2
theorem writeCredit {e o n v} (h : s.Canon) : (s.writeCredit e o n v).Canon :=
  .releaseParked (.creditTable h (Memory.wf_writeLE _ _ _ _ h.credit))
theorem discard {t code b} (h : s.Canon) : (s.discard t code b).Canon := by
  unfold State.discard
  extract_lets rs s1 rs2 s2
  have h1 : s1.Canon := .raise (.setRgStat { h with })
  have h2 : s2.Canon := .ite h1 { h1 with }
  exact .ite (.post h2) h2
theorem acceptData {m stamp} (h : s.Canon) : (s.acceptData m stamp).Canon := { h with }

end State.Canon
end Sys2Proof.Machine

namespace Sys2Proof.Machine
namespace State.Canon

variable {s : State}

theorem snd {α : Type} {p : α × State} {a : α} {u : State} (h : p.2.Canon) (e : p = (a, u)) : u.Canon := by
  subst e; exact h
theorem fst {α : Type} {p : State × α} {a : α} {u : State} (h : p.1.Canon) (e : p = (u, a)) : u.Canon := by
  subst e; exact h

/-! Inbound messages. -/

theorem slotDone {t slot} (h : s.Canon) : (s.slotDone t slot).Canon := by
  unfold State.slotDone
  extract_lets r a
  split
  next head s1 e1 =>
  extract_lets flags
  split
  next old s2 e2 =>
  split
  next area high _ =>
  have h2 : s2.Canon := snd (.lreadOn (snd h.lreadOn e1)) e2
  extract_lets s3 s4 s5 s6 s7
  have h3 : s3.Canon := .lwrite h2
  have h4 : s4.Canon := .ite (.setRing h3) h3
  have h5 : s5.Canon := .ite (.setRgStat h4) h4
  have h6 : s6.Canon := .ite (.setRgStat h5) h5
  have h7 : s7.Canon := .setWptr h6
  exact .ite (.marverParts h7) h7
theorem excess {a flags} (h : s.Canon) : (s.excess a flags).Canon := .setRgStat (.ringsParts (.lwrite h))
theorem acceptGather {m stamp} (h : s.Canon) : (s.acceptGather m stamp).Canon := by
  unfold State.acceptGather
  extract_lets t r slot a
  split
  next head s1 e1 =>
  have h1 : s1.Canon := snd h.lreadOn e1
  extract_lets st same count
  refine .ite (.ite (.excess h1) (.discard h1)) (.ite (.discard h1) (.ite (.excess h1) ?_))
  split
  next old s2 e2 =>
  split
  next area full _ =>
  extract_lets flags s3 s4 g s5 s6
  have h5 : s5.Canon := .ringsParts (.lwrite (.lwrite (snd h1.lreadOn e2)))
  have h6 : s6.Canon := .ite (.slotDone h5) h5
  exact .countWindow h6
theorem deliver {m stamp} (h : s.Canon) : (s.deliver m stamp).Canon := by
  unfold State.deliver
  split
  · exact .discard h
  · exact .ite (.acceptData h) (.acceptGather h)
theorem deliverRing1 {m} (h : s.Canon) : (s.deliverRing1 m).Canon := .ite (.discard h) (.ite (.discard h) (.gafferParts h))
theorem setInbox {l} (h : s.Canon) : (s.setInbox l).Canon := .routerParts h
theorem jinbound {i} (h : s.Canon) : (s.jinbound i).Canon :=
  .ite h (.ite (.ite (.jmessage h) h) (.ite (.jmessage h) (.ite (.jmessage h) (.jmessage h))))
theorem inbound {kind} (h : s.Canon) : (s.inbound kind).Canon := by
  unfold State.inbound
  refine .ite h ?_
  split
  · exact h
  · have h1 {i} : (s.jinbound i).Canon := .jinbound h
    exact .ite (.setInbox h1) (.ite (.setInbox h1) (.ite (.deliverRing1 (.setInbox h1)) (.deliver (.setInbox h1))))
theorem applyCredit {m} (h : s.Canon) : (s.applyCredit m).Canon := .ite (.releaseParked (.setCredit h)) h
theorem applyRevoke {m} (h : s.Canon) : (s.applyRevoke m).Canon := by
  unfold State.applyRevoke
  generalize List.range 2048 = l
  exact .releaseParked (.foldl (fun _ _ h => .ite (.setCredit (.setCredit h)) h) h)

/-! Tasks and replies. -/

theorem onTask {t f} (h : s.Canon) : (s.onTask t f).Canon := .coreParts h
theorem performSpawn {t} (h : s.Canon) : (s.performSpawn t).Canon := by
  unfold State.performSpawn
  split
  · exact .ite (.onTask (.onTask h)) (.onTask h)
  · exact h
theorem performSpawns (h : s.Canon) : s.performSpawns.Canon := .foldl (fun _ _ h => .performSpawn h) h
theorem stopQueue {q code opc seq detail} (h : s.Canon) : (s.stopQueue q code opc seq detail).Canon := .post (.onQueue h)
theorem stopIf {q code opc seq old detail} (h : s.Canon) : (s.stopIf q code opc seq old detail).Canon :=
  .ite (.post h) (.stopQueue h)
theorem takeFault {q c code detail} (h : s.Canon) : (s.takeFault q c code detail).Canon := .stopQueue (.take h)
theorem wakeSpawners (h : s.Canon) : s.wakeSpawners.Canon := .coreParts h
theorem endCheck (h : s.Canon) : s.endCheck.Canon := .ite (.post (.coreParts h)) h
theorem haltTask {t code slot pc detail} (h : s.Canon) : (s.haltTask t code slot pc detail).Canon := by
  unfold State.haltTask
  extract_lets s1 c s2
  have h1 : s1.Canon := .onTask h
  have h2 : s2.Canon := .ite h1 (.coreParts h1)
  exact .endCheck (.post (.raise h2))
theorem clearQueue {q} (h : s.Canon) : (s.clearQueue q).Canon := .ite (.parts (.onQueue h)) (.onQueue h)
theorem restartQueue {q} (h : s.Canon) : (s.restartQueue q).Canon := .onQueue h
theorem reply {r status final ws} (h : s.Canon) : (s.reply r status final ws).Canon := by
  unfold State.reply
  extract_lets bytes
  split
  · exact .gafferParts h
  · exact .raise { h with mbRep := Memory.wf_writeBytes _ _ _ h.mbRep }
  · exact .transmit h
theorem final {r status ws} (h : s.Canon) : (s.final r status ws).Canon := .reply h
theorem endReplay {status} (h : s.Canon) : (s.endReplay status).Canon := by
  unfold State.endReplay
  split
  · exact .final (.gafferParts h)
  · exact h
theorem replayMismatch {cause jseq} (h : s.Canon) : (s.replayMismatch cause jseq).Canon :=
  .endReplay (.endCheck (.postKiln (.setJnStat (.coreParts h))))

/-! The stream engine. -/

theorem ctxTable {id x} (h : s.Canon) :
    ({ s with se := { s.se with ctxs := Tbl.set StreamCtx.idle s.se.ctxs id x } } : State).Canon :=
  { h with ctxs := Tbl.wf_set _ _ _ _ h.ctxs }
theorem onCtx {id f} (h : s.Canon) : (s.onCtx id f).Canon := .ctxTable h
theorem askWalk {id addr write} (h : s.Canon) : (s.askWalk id addr write).Canon := .ite h (.seParts h)
theorem failCtx {id i} (h : s.Canon) : (s.failCtx id i).Canon := .onCtx h
theorem reportHalt {id code faddr} (h : s.Canon) : (s.reportHalt id code faddr).Canon := by
  unfold State.reportHalt
  extract_lets e s1 s2
  have h1 : s1.Canon := .ite h (.seParts h)
  exact .ite (.postKiln (.raise h1)) (.post (.raise h1))
theorem settleCtx {id} (h : s.Canon) : (s.settleCtx id).Canon := by
  unfold State.settleCtx
  extract_lets xs s1 c
  have h1 : s1.Canon := .onCtx h
  refine .ite h1 ?_
  split
  · exact .reportHalt (.onCtx h1)
  · exact .ite (.onCtx h1) (.ite (.onCtx h1) h1)
theorem stopCtx {id} (h : s.Canon) : (s.stopCtx id).Canon := .onCtx (.seParts h)
theorem settleWait (h : s.Canon) : s.settleWait.Canon := by
  unfold State.settleWait
  split
  · exact h
  · exact .ite (.completeIf (.seParts (.onCtx h))) (.ite (.stopIf (.seParts h)) h)
  · exact .ite (.completeIf (.seParts (.stopCtx h))) h
theorem settleStream {id} (h : s.Canon) : (s.settleStream id).Canon := .settleWait (.settleCtx h)
theorem seRead {id far a n} (h : s.Canon) : (s.seRead id far a n).2.Canon := by
  unfold State.seRead State.lread
  extract_lets m
  split
  · split
    · exact h
    · dsimp only
      split
      · exact .eccAddr (.memParts h)
      · exact .memParts h
  · split
    · exact h
    · split
      · exact .askWalk h
      · exact h
      · split
        · exact h
        · split <;> exact h
theorem beginBlock {id far} (h : s.Canon) : (s.beginBlock id far).2.Canon := by
  unfold State.beginBlock
  extract_lets c a fail
  have hfail {t : State} {code x} (h : t.Canon) : (fail t code x).Canon := .failCtx h
  split
  · next e => exact snd h.seRead e
  · next e => exact hfail (snd h.seRead e)
  · next e =>
    have h1 := snd h.seRead e
    split
    · exact hfail h1
    · refine ite_snd (pair (.onCtx h1)) ?_
      split
      · next e => exact snd h1.seRead e
      · next e => exact hfail (snd h1.seRead e)
      · next e => exact pair (.onCtx (snd h1.seRead e))
theorem piece {id far d off} (h : s.Canon) : (s.piece id far d off).2.Canon := by
  unfold State.piece
  split
  · exact h
  · split
    · exact h
    · extract_lets t o ea
      split
      · next e => exact snd h.seRead e
      · next e => exact snd h.seRead e
      · next e =>
        extract_lets plane src dst page
        split <;> exact snd h.seRead e
theorem stepPos {id len total} (h : s.Canon) : (s.stepPos id len total).Canon := .onCtx h
theorem addXfer {x} (h : s.Canon) : (s.addXfer x).Canon := .seParts h
theorem xferDone {x} (h : s.Canon) : (s.xferDone x).Canon := .settleStream (.seParts h)
theorem xferFail {x code write} (h : s.Canon) : (s.xferFail x code write).Canon := .settleStream (.seParts (.failCtx h))
theorem snapRefused {cause b} (h : s.Canon) : (s.snapRefused cause b).Canon := .post (.setJnStat h.parts)
theorem snapAbandon (h : s.Canon) : s.snapAbandon.Canon := by
  unfold State.snapAbandon
  split
  · exact h
  · exact .snapRefused (.forgetFar (.onCtx h.parts))
theorem snapFail {code faddr} (h : s.Canon) : (s.snapFail code faddr).Canon := .snapAbandon (.reportHalt (.onCtx h))
theorem snapRead {p} (h : s.Canon) : (s.snapRead p).2.2.Canon := by
  cases p
  · exact h
  · exact .lread h

/-- What a volatile read of a replay leaves is canonical. -/
theorem serveRead_data {src ord faddr len bs u} (h : s.Canon) (e : s.serveRead src ord faddr len = .data bs u) : u.Canon := by
  unfold State.serveRead at e
  split at e
  · split at e
    · cases e
    · split at e <;> cases e
  · dsimp only at e
    split at e
    · injection e with _ e; subst e; exact h.parts
    · cases e
theorem serveRead_mismatch {src ord faddr len u} (h : s.Canon) (e : s.serveRead src ord faddr len = .mismatch u) :
    u.Canon := by
  unfold State.serveRead at e
  split at e
  · split at e
    · cases e
    · split at e
      · injection e with e; subst e; exact .replayMismatch h
      · cases e
  · dsimp only at e
    split at e
    · cases e
    · injection e with e; subst e; exact .replayMismatch h.parts
theorem tryPiece {id d src dst left} (h : s.Canon) : (s.tryPiece id d src dst left).Canon := by
  unfold State.tryPiece
  extract_lets c m xs far farW key len x fail sys metered ord
  have hfail {t : State} {code w} (h : t.Canon) : (fail t code w).Canon := .did (.xferFail h)
  refine .ite (.idle h) ?_
  clear_value sys
  split
  · exact .idle (.askWalk h)
  · exact hfail h
  · next p _ _ =>
    extract_lets cls readOk writeOk volat take v on
    refine .ite (hfail h) (.ite (hfail h) (.ite (.idle h) (.ite (.tokens h) ?_)))
    refine .ite (.idle h) ?_
    have htake {t : State} (h : t.Canon) : (take t).Canon :=
      .onCtx (.seParts (.ite (.seParts h) h))
    have hon {t : State} (h : t.Canon) : (on t).Canon := .addXfer (.stepPos (htake h))
    split
    · next e =>
      split at e
      · exact .did (.xferDone (.lwrite (hon (h.serveRead_data e))))
      · cases e
    · exact .did (hon h)
    · next e =>
      split at e
      · exact .did (h.serveRead_mismatch e)
      · cases e
    · split
      · split
        · exact .idle h
        · next e => exact .did (.stepPos (.addXfer ((htake h).farIssue e)))
      · split
        next bs bad s1 e =>
        have h1 : s1.Canon := by
          split at e
          · cases e; exact h
          · exact snd (p := (s.lread src len).2) h.lread (congrArg Prod.snd e)
        split
        · exact hfail (.eccAddr h1)
        · split
          · split
            · exact .idle h
            · next e => exact .did (.stepPos (.addXfer ((htake h1).farIssue e)))
          · exact .did (.stepPos (.addXfer (htake h1)))
end State.Canon
end Sys2Proof.Machine

namespace Sys2Proof.Machine

theorem ite_wf {α : Type} [DecidableEq α] {d : α} {c : Prop} [Decidable c] {t u : List (Nat × α)} (ht : Tbl.wf d t = true)
    (hu : Tbl.wf d u = true) : Tbl.wf d (if c then t else u) = true := by
  split
  · exact ht
  · exact hu

theorem Tbl.wf_foldl {α β : Type} [DecidableEq α] (d : α) {f : List (Nat × α) → β → List (Nat × α)}
    (hf : ∀ t b, Tbl.wf d t = true → Tbl.wf d (f t b) = true) (l : List β) {t : List (Nat × α)} (h : Tbl.wf d t = true) :
    Tbl.wf d (l.foldl f t) = true := by
  induction l generalizing t with
  | nil => exact h
  | cons b l ih => exact ih (hf t b h)

namespace State.Canon

variable {s : State}

theorem snapIssue (h : s.Canon) : s.snapIssue.Canon := by
  unfold State.snapIssue
  split
  · exact .idle h
  · next p rest _ =>
    extract_lets cls
    split
    next bs bad t e =>
    have ht : t.Canon := snd (p := (s.snapRead p).2) h.snapRead (congrArg Prod.snd e)
    refine .ite (.idle h) (.ite (.tokens h) ?_)
    split
    · exact .did (.snapFail (.eccAddr ht))
    · split
      · exact .idle h
      · next e => exact .did (.seParts (ht.farIssue e))
theorem tryCtx {id far} (h : s.Canon) : (s.tryCtx id far).Canon := by
  unfold State.tryCtx
  extract_lets c stopping
  refine .ite (.ite h.snapIssue (.idle h)) (.ite (.idle h) ?_)
  split
  next r t e =>
  have ht : t.Canon := by
    split at e
    · cases e; exact h
    · exact snd h.beginBlock e
  split
  · exact .idle ht
  · exact .did (.settleStream ht)
  · extract_lets c
    split
    · exact .idle ht
    · next d _ =>
      extract_lets badHere
      clear_value badHere
      split
      · exact .did (.settleStream (.failCtx ht))
      · refine .ite (.did (.settleStream (.stepPos ht))) ?_
        split
        · next e => exact .idle (snd ht.piece e)
        · next e => exact .did (.settleStream (.failCtx (snd ht.piece e)))
        · next e => exact (snd ht.piece e).tryPiece
theorem tryAll {far ids} (h : s.Canon) : (s.tryAll far ids).Canon := by
  induction ids generalizing s with
  | nil => exact h
  | cons id ids ih =>
    have ht := h.tryCtx (id := id) (far := far)
    unfold State.tryAll
    split
    · next e => rw [e] at ht; exact ht.state
    · next e => rw [e] at ht; exact ih ht.state
    · next e => rw [e] at ht; exact ih ht.state
theorem noteThrottle (h : s.Canon) : s.noteThrottle.Canon := .ite (.seParts h) h
theorem on5 {opc f} (hf : ∀ c, (f c).Canon) (h : s.Canon) : (s.on5 opc f).Canon := by
  unfold State.on5
  split
  · exact h
  · exact .ite (hf _) (.ite h (.takeFault h))
theorem streamsLeaveRun (h : s.Canon) : s.streamsLeaveRun.Canon :=
  .foldl (fun _ _ h => .ite (.settleCtx (.onCtx h)) h) (.seParts h)
theorem streamsEnterRun (h : s.Canon) : s.streamsEnterRun.Canon :=
  { h with ctxs := Tbl.wf_foldl _ (fun _ _ ht => ite_wf (Tbl.wf_set _ _ _ _ ht) ht) _ h.ctxs }
theorem resumeCtx {id} (h : s.Canon) : (s.resumeCtx id).Canon := .onCtx h
theorem tlbClear (h : s.Canon) : s.tlbClear.Canon := .seParts h

/-! Snapshots. -/

theorem snapPoint (h : s.Canon) : s.snapPoint.Canon := .ite h.parts h
theorem journalInbox (h : s.Canon) : s.journalInbox.Canon := .setInbox (.foldl (fun _ _ h => .jinbound h) h)
theorem snapTake {bid gen} (h : s.Canon) : (s.snapTake bid gen).Canon := by
  unfold State.snapTake
  refine .ite h ?_
  extract_lets cause j s1 seq bank
  have h1 : s1.Canon := h.parts
  refine .ite (.snapRefused h1) ?_
  split
  next e => exact .parts (fst (.jmark (.zeroOrds (.journalInbox h1))) e)
theorem snapPump {use todo} (h : s.Canon) : (s.snapPump use todo).Canon := by
  induction todo generalizing s with
  | nil => exact h.parts
  | cons p todo ih =>
    cases p with
    | bytes a bs =>
      unfold State.snapPump
      split
      · exact h.parts
      · next e => exact ih (.parts (h.farIssue e))
    | region => exact h.parts
theorem snapStart {bank} (h : s.Canon) : (s.snapStart bank).Canon := .parts (.onCtx h)
theorem snapLeaveRun (h : s.Canon) : s.snapLeaveRun.Canon := .ite (.snapAbandon h) h
theorem snapAck (h : s.Canon) : s.snapAck.Canon := by
  unfold State.snapAck
  extract_lets j s1 s2
  have h1 : s1.Canon := h.parts
  have h2 : s2.Canon := by
    unfold s2
    split
    · exact .snapPump h1
    · exact .snapPump h1
    · exact h1
  refine .ite h2 ?_
  split
  · exact h2.parts
  · exact .onCtx h2
  · exact h2.parts
  · exact h2

/-! Identity and the remap table. -/

theorem onPort {p f} (h : s.Canon) : (s.onPort p f).Canon := .routerParts h
theorem sendFrame {seq ack type slots} (h : s.Canon) : (s.sendFrame seq ack type slots).Canon := .onPort h
theorem sendHello {p} (h : s.Canon) : (s.sendHello p).Canon := .ite (.onPort h) (.onPort (.sendFrame h))
theorem sendIdle {p} (h : s.Canon) : (s.sendIdle p).Canon := .onPort h
theorem helloAgain (h : s.Canon) : s.helloAgain.Canon := .foldl (fun _ _ h => .ite (.sendHello h) h) h
theorem gainId {id} (h : s.Canon) : (s.gainId id).Canon := .ite h.parts h.parts
theorem newId {valid id} (h : s.Canon) : (s.newId valid id).Canon := .routerParts h
theorem showId (h : s.Canon) : s.showId.Canon := .routerParts h
theorem updateId {epoch} (h : s.Canon) : (s.updateId epoch).Canon := by
  unfold State.updateId
  extract_lets old new s1
  have h1 : s1.Canon := .ite (.jend h) h
  refine .ite h ?_
  clear_value new
  split
  · exact .helloAgain (.newId h1)
  · exact .gainId (.helloAgain (.newId h1))
theorem remapApply {arg} (h : s.Canon) : (s.remapApply arg).Canon := .updateId { h with active := h.staged }
theorem onAct {a f} (h : s.Canon) : (s.onAct a f).Canon := h.parts
theorem onBar {b f} (h : s.Canon) : (s.onBar b f).Canon := h.parts
theorem fireAct {a} (h : s.Canon) : (s.fireAct a).Canon := .raise (.onAct h)
theorem fireRemap {a} (h : s.Canon) : (s.fireRemap a).Canon := .remapApply (.fireAct h)
theorem passRemaps {pass} (h : s.Canon) : (s.passRemaps pass).Canon := .foldl (fun _ _ h => .ite (.fireRemap h) h) h
theorem releaseRemaps {pass stamp} (h : s.Canon) : (s.releaseRemaps pass stamp).Canon := h.parts
theorem dueRemaps (h : s.Canon) : s.dueRemaps.Canon := .foldl (fun _ _ h => .ite (.fireRemap h) h) h.parts

end State.Canon

/-! The commands of the journal, the rings and the stream engine. -/

section

variable {s : State} (h : s.Canon)
include h

theorem execJournalWrite_canon : (execJournalWrite s).Canon := by
  unfold execJournalWrite
  refine .ite (.next h) ?_
  split
  · exact .next h.traceWrite
  · refine .ite ?_ (.ite (.next h.traceWrite) (.next (.post (.setJnStat h.parts))))
    split
    · exact .next h
    · next e => exact .next (.settleStaging (.parts (h.farWrites e)))
theorem execTraceSample_canon : (execTraceSample s).Canon := by
  unfold execTraceSample
  refine .ite (.next h) ?_
  extract_lets j per now d sample s1
  refine .ite ?_ (.next h)
  have h1 : s1.Canon := h.parts
  refine .ite (.next (.traceStarved h1)) ?_
  split
  next e =>
  have ht := h1.traceStarved
  split at e <;> cases e
  · exact .next ht.parts
  · exact .next h1.parts
theorem execInboundDataMessage_canon : (execInboundDataMessage s).Canon := .ite (.next h) (.next (.inbound h))
theorem execInboundGatherMessage_canon : (execInboundGatherMessage s).Canon := .ite (.next h) (.next (.inbound h))
theorem execWptrAdvance_canon : (execWptrAdvance s).Canon := by
  unfold execWptrAdvance
  refine .ite (.next h) ?_
  split
  · exact .next h
  · exact .next (.advance (.writeMessage (.ringsParts h)))
theorem execCreditReceive_canon : (execCreditReceive s).Canon := by
  unfold execCreditReceive
  refine .ite (.next h) (.ite (.next h) ?_)
  split
  · exact .next h
  · next i _ _ =>
    have h1 : (s.jinbound i).Canon := .jinbound h
    exact .ite (.next (.setInbox h1)) (.next (.applyCredit (.setInbox h1)))
theorem execRevokeReceive_canon : (execRevokeReceive s).Canon := by
  unfold execRevokeReceive
  refine .ite (.next h) ?_
  split
  · exact .next h
  · next i _ _ =>
    have h1 : (s.jinbound i).Canon := .jinbound h
    exact .ite (.next (.setInbox h)) (.ite (.next (.setInbox h1)) (.next (.applyRevoke (.setInbox h1))))
theorem execOutboundPacket_canon : (execOutboundPacket s).Canon := by
  unfold execOutboundPacket
  extract_lets g
  refine .ite (.next h) ?_
  split
  · exact .next h
  · exact .next (.gafferParts h)
  · exact .next (.gafferParts h)
end
end Sys2Proof.Machine

namespace Sys2Proof.Machine

/-! What loading a mould makes of its tables. -/

/-- A table built from rising keys and values that are not the default is in canonical form. -/
theorem Tbl.wf_filterMap {α : Type} [DecidableEq α] (d : α) (p : Nat → Bool) (v : Nat → α) (hv : ∀ i, v i ≠ d) (l : List Nat)
    (hl : l.Pairwise (· < ·)) :
    Tbl.wf d (l.filterMap fun i => if p i then some (i, v i) else none) = true ∧
      ∀ k, (∀ i ∈ l, k < i) → Tbl.above k (l.filterMap fun i => if p i then some (i, v i) else none) = true := by
  induction l with
  | nil => exact ⟨rfl, fun _ _ => rfl⟩
  | cons i l ih =>
    obtain ⟨hi, hl⟩ := List.pairwise_cons.mp hl
    obtain ⟨hwf, habove⟩ := ih hl
    by_cases hp : p i = true
    · simp only [List.filterMap_cons, hp, if_true]
      exact ⟨by simp [Tbl.wf, hv, habove i hi, hwf], fun k hk => by simpa [Tbl.above] using hk i List.mem_cons_self⟩
    · simp only [List.filterMap_cons, hp]
      exact ⟨hwf, fun k hk => habove k fun j hj => hk j (List.mem_cons_of_mem _ hj)⟩

/-- An entry of the remap bank that a mould loads is valid, so it is not the empty entry. -/
theorem validEntry_ne_zero (e : Nat) : BitVec.ofNat 12 (2048 + fld 10 0 e) ≠ 0#12 := by
  intro h
  have hlt : fld 10 0 e < 2048 := Nat.mod_lt _ (by decide)
  have := congrArg BitVec.toNat h
  simp only [BitVec.toNat_ofNat] at this
  omega

theorem mouldRemap_wf (b : List Byte) : Tbl.wf 0#12 (mouldRemap b) = true :=
  (Tbl.wf_filterMap 0#12 (fun i => bit 15 (leAt b (2048 + 2 * i) 2))
    (fun i => BitVec.ofNat 12 (2048 + fld 10 0 (leAt b (2048 + 2 * i) 2))) (fun _ => validEntry_ne_zero _) _
    List.pairwise_lt_range).1

theorem mouldExits_wf (b : List Byte) : Tbl.wf 0#12 (mouldExits b) = true :=
  Tbl.wf_foldl _ (fun _ _ ht => ite_wf (Tbl.wf_set _ _ _ _ ht) ht) _ rfl

/-- A table that is loaded from a mould if there is one is in canonical form. -/
theorem loaded_wf {α : Type} [DecidableEq α] (d : α) {f : List Byte → List (Nat × α)} (hf : ∀ b, Tbl.wf d (f b) = true)
    (m : Option (List Byte)) : Tbl.wf d ((m.map f).getD []) = true := by
  cases m with
  | none => rfl
  | some b => exact hf b

/-! Engines. -/

theorem Vec.forall_upd {α : Type} {n : Nat} {P : α → Prop} {v : Vector α n} {i : Nat} {f : α → α} (hf : ∀ a, P a → P (f a))
    (h : ∀ a ∈ v.toList, P a) : ∀ a ∈ (Vec.upd v i f).toList, P a := by
  unfold Vec.upd
  split
  · next hi =>
    intro a ha
    rw [Vector.mem_toList_iff] at ha
    obtain ha | rfl := Vector.mem_or_eq_of_mem_set ha
    · exact h a (Vector.mem_toList_iff.mpr ha)
    · exact hf _ (h _ (Vector.mem_toList_iff.mpr (Vector.getElem_mem hi)))
  · exact h

theorem Vec.forall_map {α β : Type} {n : Nat} {P : α → Prop} {Q : β → Prop} {v : Vector α n} {f : α → β}
    (hf : ∀ a, P a → Q (f a)) (h : ∀ a ∈ v.toList, P a) : ∀ a ∈ (v.map f).toList, Q a := by
  intro a ha
  rw [Vector.mem_toList_iff, Vector.mem_map] at ha
  obtain ⟨b, hb, rfl⟩ := ha
  exact hf b (h b (Vector.mem_toList_iff.mpr hb))

theorem MatrixEngine.fresh_canon : MatrixEngine.fresh.Canon := ⟨rfl, rfl, rfl, rfl⟩

theorem MatrixEngine.replicate_fresh_canon : ∀ m ∈ (Vector.replicate 4 MatrixEngine.fresh).toList, m.Canon := by
  intro m hm
  rw [Vector.toList_replicate] at hm
  rw [List.eq_of_mem_replicate hm]
  exact MatrixEngine.fresh_canon

namespace State.Canon

variable {s : State}

/-! Moulds and the compute tier. -/

theorem applySwitch {m} (h : s.Canon) : (s.applySwitch m).Canon := .routerParts h
theorem mouldTables {se journal evten domain access active staged exits} (h : s.Canon) (ha : Tbl.wf 0#12 active = true)
    (hs : Tbl.wf 0#12 staged = true) (he : Tbl.wf 0#12 exits = true) (hd : Tbl.wf 0#32 access = true) :
    ({ s with
        se := { s.se with xlatEn := se }
        journal := journal
        gaffer := { s.gaffer with evten, domain, access }
        router := { s.router with active, staged, exits } } : State).Canon :=
  { h with active := ha, staged := hs, exits := he, access := hd }
theorem applyLoad {m} (h : s.Canon) : (s.applyLoad m).Canon := by
  unfold State.applyLoad
  extract_lets f remap access s1 s2
  have hremap : Tbl.wf 0#12 remap = true := loaded_wf _ mouldRemap_wf m
  have haccess : Tbl.wf 0#32 access = true := loaded_wf _ (fun _ => Tbl.wf_foldl_set _ _ _ _ _ rfl) m
  exact .updateId (.mouldTables (.applySwitch h) hremap hremap (loaded_wf _ mouldExits_wf m) haccess)
theorem loadMould (h : s.Canon) : s.loadMould.Canon :=
  .ite (.kilnRecord (.applyLoad (.gafferParts h))) (.kilnRecord (.kilnRecord (.applyLoad (.gafferParts h))))
theorem switchMould {m} (h : s.Canon) : (s.switchMould m).1.Canon := by
  unfold State.switchMould
  split
  · exact .applySwitch (.gafferParts h)
  · exact .post h
theorem dropCompute (h : s.Canon) : s.dropCompute.Canon :=
  { h with engines := MatrixEngine.replicate_fresh_canon, vregs := rfl, progs := rfl }
theorem unpassed (h : s.Canon) : s.unpassed.Canon :=
  .foldl (fun _ b h => by
    split
    · exact .releaseRemaps h
    · exact h) h
theorem leaveRun (h : s.Canon) : s.leaveRun.Canon := .dropCompute (.streamsLeaveRun (.snapLeaveRun (.unpassed h)))
theorem enterRun (h : s.Canon) : s.enterRun.Canon := by
  unfold State.enterRun
  extract_lets m f w s1
  have h1 : s1.Canon := .forgetFar (.streamsEnterRun (.dropCompute h))
  exact { h1 with shards := rfl }
theorem fenceTo {next cause report} (h : s.Canon) : (s.fenceTo next cause report).Canon := by
  unfold State.fenceTo
  extract_lets id
  split
  next t q e =>
  have ht : t.Canon := by
    split at e
    · exact fst h.jfence e
    · cases e; exact h
  extract_lets s1 j s2
  have h1 : s1.Canon := .ite (.leaveRun ht) ht
  have h2 : s2.Canon := .ite h1.parts h1
  exact .ite (.postKiln h2.parts) (.kilnRecord h2.parts)
theorem fence {off} (h : s.Canon) : (s.fence off).Canon := by
  unfold State.fence
  split
  · exact .fenceTo h
  · exact .gafferParts (.fenceTo h)
  · exact .fenceTo h
  · exact .ite (.fenceTo h) h
  · exact h
  · exact h
theorem autoFence {cause} (h : s.Canon) : (s.autoFence cause).Canon := .fenceTo h
theorem finalAnneal {status} (h : s.Canon) : (s.finalAnneal status).Canon := by
  unfold State.finalAnneal
  split
  · exact .final (.gafferParts h)
  · exact h
theorem annealFail {cause} (h : s.Canon) : (s.annealFail cause).Canon := .finalAnneal (.fenceTo h)
theorem supplyRequest (h : s.Canon) : s.supplyRequest.Canon := h.parts
theorem powerUp (h : s.Canon) : s.powerUp.Canon := .ite (.gafferParts (.supplyRequest h)) (.gafferParts h)
theorem annealStart (h : s.Canon) : s.annealStart.Canon := .parts (.ite h (.supplyRequest h))
theorem interfaceLost (h : s.Canon) : s.interfaceLost.Canon := by
  unfold State.interfaceLost
  extract_lets had x s1
  have h1 : s1.Canon := h.parts
  split
  · exact .autoFence h1
  · exact .ite (.annealFail h1) h1
  · exact h1

/-! The Lehr count and timed actions. -/

theorem lehrFault {cause diff} (h : s.Canon) : (s.lehrFault cause diff).Canon := .postKiln (.raise (.raise h.parts))
theorem armEntry {a kind target arg replay} (h : s.Canon) : (s.armEntry a kind target arg replay).Canon := .onAct h
theorem missAct {a} (h : s.Canon) : (s.missAct a).Canon := .post (.raise (.parts (.raise (.onAct h))))
theorem launchQueues (h : s.Canon) : s.launchQueues.Canon :=
  { h with engines := Vec.forall_map (fun _ hm => { hm with }) h.engines }
theorem launchAt {entry replay} (h : s.Canon) : (s.launchAt entry replay).Canon := by
  unfold State.launchAt
  extract_lets s1 l t s2
  have h1 : s1.Canon := .launchQueues (.unpassed (.launchMark h))
  have h2 : s2.Canon := { h1 with }
  exact .ite (.ite h2.parts h2) { h2 with digVal := rfl, digCnt := rfl }
theorem finalReplay {a} (h : s.Canon) : (s.finalReplay a).Canon := .ite (.endReplay h) h
theorem fireSnapshot {a} (h : s.Canon) : (s.fireSnapshot a).Canon := .ite (.snapPoint (.fireAct h)) (.missAct h)
theorem timerPoint (h : s.Canon) : s.timerPoint.Canon := .ite h (.parts (.snapPoint h))
theorem duePoints (h : s.Canon) : s.duePoints.Canon := .timerPoint (.foldl (fun _ _ h => .ite (.fireSnapshot h) h) h)

/-! The schedule unit and barriers. -/

theorem take7 {c} (h : s.Canon) : (s.take7 c).Canon := .parts (.take h)
theorem fault7 {c code} (h : s.Canon) : (s.fault7 c code).Canon := .stopQueue (.take7 h)
theorem on7 {opc f} (hf : ∀ c, (f c).Canon) (h : s.Canon) : (s.on7 opc f).Canon := by
  unfold State.on7
  split
  · exact h
  · exact .ite (hf _) (.ite h (.fault7 h))
theorem startSend {d} (h : s.Canon) : (s.startSend d).Canon :=
  .ite (.completeSend (.noteStale h)) (.ite (.releaseSend h) (.ite (.releaseSend (.charge h)) (.ringsParts h)))
theorem schedSlip {c d} (h : s.Canon) : (s.schedSlip c d).Canon := .stopQueue (.raise (.raise (.parts (.take7 h))))
theorem sendTable {tx sendCount} (h : s.Canon) (hc : Tbl.wf 0#32 sendCount = true) :
    ({ s with rings := { s.rings with tx, sendCount } } : State).Canon := { h with sendCount := hc }
theorem countSend {e} (h : s.Canon) : (s.countSend e).Canon := .sendTable h (Tbl.wf_set _ _ _ _ h.sendCount)
theorem finishSend {d payload} (h : s.Canon) : (s.finishSend d payload).Canon := by
  unfold State.finishSend
  split
  extract_lets w1
  split
  next e =>
  have h1 := snd h.suppressSend e
  exact .completeSend (.countSend (.ite h1 (.transmit h1)))
theorem syncDiscard (h : s.Canon) : s.syncDiscard.Canon := .raise h.parts
theorem applyRelease {m stamp} (h : s.Canon) : (s.applyRelease m stamp).Canon :=
  .ite (.ite (.onBar h) (.ite (.onBar h) (.raise (.parts (.onBar h))))) (.releaseRemaps h)

/-! A state whose memories have been put in order. -/

theorem tidy (s : State) : s.tidy.Canon where
  imem := Tbl.wf_tidy _ _
  engines := Vec.forall_map (P := fun _ => True)
    (fun _ _ => ⟨Tbl.wf_tidy _ _, Tbl.wf_tidy _ _, Tbl.wf_tidy _ _, Tbl.wf_tidy _ _⟩) (fun _ _ => trivial)
  vregs := Tbl.wf_tidy _ _
  progs := Tbl.wf_tidy _ _
  digVal := Tbl.wf_tidy _ _
  digCnt := Tbl.wf_tidy _ _
  mem := Tbl.wf_tidy _ _
  ctxs := Tbl.wf_tidy _ _
  seqTable := Tbl.wf_tidy _ _
  store := Tbl.wf_tidy _ _
  credit := Tbl.wf_tidy _ _
  sendCount := Tbl.wf_tidy _ _
  creditCount := Tbl.wf_tidy _ _
  revokeCount := Tbl.wf_tidy _ _
  active := Tbl.wf_tidy _ _
  staged := Tbl.wf_tidy _ _
  exits := Tbl.wf_tidy _ _
  shards := Tbl.wf_tidy _ _
  access := Tbl.wf_tidy _ _
  mram := Tbl.wf_tidy _ _
  mbReq := Tbl.wf_tidy _ _
  mbRep := Tbl.wf_tidy _ _

end State.Canon
end Sys2Proof.Machine

namespace Sys2Proof.Machine

/-! The commands of the stream engine, of snapshots and of the compute tier. -/

section

open State.Canon

variable {s : State} (h : s.Canon)
include h

theorem execStreamTransferIssue_canon (far) : (execStreamTransferIssue far s).Canon :=
  .ite (.next h) (.next (.noteThrottle (.tryAll h)))
theorem execPageTableWalk_canon (far) : (execPageTableWalk far s).Canon := by
  unfold execPageTableWalk
  refine .ite (.next h) ?_
  split
  · exact .next h
  · extract_lets e s1
    have h1 : s1.Canon := .seParts h
    split
    · exact .next (.settleStream (.failCtx h1))
    · exact .ite (.next (.settleStream (.failCtx (.seParts h1)))) (.next (.seParts h1))
    · exact .next (.settleStream (.failCtx h1))
theorem execLocalTransferComplete_canon : (execLocalTransferComplete s).Canon := by
  unfold execLocalTransferComplete
  refine .ite (.next h) ?_
  split
  · exact .next h
  · exact .next (.xferDone (.lwrite h))
theorem execSarm_canon : (execSarm s).Canon :=
  .next (.on5 (fun _ => .ite (.takeFault h) (.ite (.takeFault h) (.ite (.takeFault h) (.complete (.onCtx (.take h)))))) h)
theorem execRearm_canon : (execRearm s).Canon :=
  .next (.on5 (fun _ => .ite (.takeFault h) (.ite (.takeFault h) (.ite (.takeFault h) (.settleWait (.seParts (.take h)))))) h)
theorem execSstop_canon : (execSstop s).Canon :=
  .next (.on5 (fun _ => .ite (.takeFault h) (.ite (.takeFault h) (.ite (.complete (.take h))
    (.settleWait (.seParts (.take h)))))) h)
theorem execPatrolScrub_canon : (execPatrolScrub s).Canon := by
  unfold execPatrolScrub
  refine .ite (.next h) (.ite ?_ (.next h))
  exact .next (.foldl (fun _ _ h => .postKiln (.eccAddr h)) (.memParts (.lread h)))
theorem execSnapshotCopy_canon : (execSnapshotCopy s).Canon := by
  unfold execSnapshotCopy
  refine .ite (.next h) ?_
  split
  · exact .next h
  · exact .ite (.next (.snapPump h.parts)) (.ite (.next h.snapStart.snapIssue.state)
      (.ite (.next h.snapIssue.state) (.next h)))
theorem execSnapshotComplete_canon : (execSnapshotComplete s).Canon := by
  unfold execSnapshotComplete
  refine .ite (.next h) ?_
  split
  · exact .next h
  · exact .ite (.next (.snapPump h.parts)) (.ite (.next h.parts) (.next h))
theorem execSwitchClose_canon : (execSwitchClose s).Canon := .ite (.next h) (.ite (.next h.parts) (.next h))
theorem execComputeTierPowerGood_canon (trained) : (execComputeTierPowerGood trained s).Canon :=
  .ite (.next h) (.ite (.next (.gafferParts (.enterRun h.parts))) (.next h.parts))
theorem execTierStartTimeout_canon : (execTierStartTimeout s).Canon := by
  unfold execTierStartTimeout
  refine .ite (.next h) (.ite (.next h) ?_)
  split
  · exact .next (.gafferParts (.fenceTo h))
  · exact .ite (.next (.annealFail h)) (.ite (.next (.annealFail h)) (.next h))
  · exact .next h
theorem execPowerGoodLoss_canon : (execPowerGoodLoss s).Canon := by
  unfold execPowerGoodLoss
  refine .ite (.next h) ?_
  extract_lets had t s1
  have h1 : s1.Canon := h.parts
  split
  · exact .next (.autoFence h1)
  · exact .next (.ite (.annealFail h1) h1)
  · exact .next h1
theorem execTierInterfaceError_canon : (execTierInterfaceError s).Canon := .ite (.next h) (.next (.interfaceLost h))
theorem execTierInterfaceTimeout_canon : (execTierInterfaceTimeout s).Canon := .ite (.next h) (.next (.interfaceLost h))
theorem execAnnealSelfTestComplete_canon (pass) : (execAnnealSelfTestComplete pass s).Canon :=
  .ite (.next h) (.ite (.next h) (.ite (.next (.annealFail h))
    (.ite (.next (.finalAnneal (.kilnRecord (.enterRun (.helloAgain h))))) (.next h))))
theorem execDiscoveryComplete_canon : (execDiscoveryComplete s).Canon :=
  .ite (.next h) (.ite (.next (.post (.gafferParts h))) (.next h))

/-! The commands of the Lehr count, the schedule unit and the barriers. -/

theorem execLehrSyncPulse_canon (value) : (execLehrSyncPulse value s).Canon :=
  .ite (.next h) (.ite (.ite (.next h.parts) (.next h)) (.ite (.next h.parts) (.next (.lehrFault h.parts))))
theorem execMissedPulse_canon : (execMissedPulse s).Canon := .ite (.next h) (.ite (.next (.lehrFault h.parts)) (.next h))
theorem execLaunch_canon (a) : (execLaunch a s).Canon :=
  .ite (.next h) (.ite (.next h) (.ite (.next (.missAct h)) (.next (.finalReplay (.launchAt (.fireAct h))))))
theorem execSnapshotActionFire_canon (a) : (execSnapshotActionFire a s).Canon :=
  .ite (.next h) (.ite (.next h) (.next (.fireSnapshot h)))
theorem execProfile_canon (a) : (execProfile a s).Canon :=
  .ite (.next h) (.ite (.next h) (.next (.switchMould (.fireAct h))))
theorem execSnapshotTimer_canon : (execSnapshotTimer s).Canon := .ite (.next h) (.next (.timerPoint h))
theorem execMsend_canon : (execMsend s).Canon := by
  refine .next (.on7 (fun c => ?_) h)
  split
  · exact .fault7 h
  · exact .startSend (.take7 h)
theorem execXsend_canon : (execXsend s).Canon := by
  refine .next (.on7 (fun c => ?_) h)
  split
  · exact .fault7 h
  · exact .ite (.startSend (.take7 h)) (.ite h.parts (.ite (.startSend (.parts (.take7 h))) (.schedSlip h)))
theorem execXsendRelease_canon : (execXsendRelease s).Canon := by
  unfold execXsendRelease
  split
  · exact .ite (.next (.startSend (.take7 h.parts))) (.next h)
  · exact .next h
theorem execSendCompletion_canon : (execSendCompletion s).Canon := by
  unfold execSendCompletion
  refine .ite (.next h) ?_
  split
  · exact .next h
  · extract_lets x s1
    have h1 : s1.Canon := h.parts
    split
    · exact .next (.finishSend h1)
    · next paddr len _ =>
      refine .ite (.next (.stopIf h1)) ?_
      split
      next bs bad s2 e =>
      have h2 : s2.Canon := snd (p := (s1.lread paddr len).2) h1.lread (congrArg Prod.snd e)
      split
      · exact .next (.stopQueue (.noteEcc h2))
      · exact .next (.noteEcc h2)
      · exact .next (.finishSend h2)
theorem execRwin_canon : (execRwin s).Canon :=
  .next (.on7 (fun _ => .ite (.fault7 h) (.complete (.parts (.take7 h)))) h)
theorem execBar_canon : (execBar s).Canon :=
  .next (.on7 (fun _ => .ite (.fault7 h) (.parts (.onBar (.take7 h)))) h)
theorem execArriveSend_canon : (execArriveSend s).Canon := by
  unfold execArriveSend
  refine .ite (.next h) ?_
  split
  · exact .next h
  · exact .ite (.next (.ite (.onBar h) (.transmit (.onBar h)))) (.next h)
theorem execArriveReceive_canon : (execArriveReceive s).Canon := by
  unfold execArriveReceive
  refine .ite (.next h) ?_
  split
  · exact .next h
  · exact .ite (.next h) (.ite (.next (.syncDiscard (.setInbox h))) (.ite (.next (.onBar (.setInbox h)))
      (.next (.transmit (.onBar (.setInbox h))))))
theorem execReleaseReceive_canon : (execReleaseReceive s).Canon := by
  unfold execReleaseReceive
  refine .ite (.next h) ?_
  split
  · exact .next h
  · exact .next (.applyRelease (.jinbound (.setInbox h)))
theorem execBarrierPass_canon (b) : (execBarrierPass b s).Canon := by
  unfold execBarrierPass
  refine .ite (.next h) ?_
  extract_lets x gen s1 y s2
  have h1 : s1.Canon := .onBar h
  have h2 : s2.Canon := by
    unfold s2
    split
    · exact .ite (.complete h1.parts) h1
    · exact h1
  split
  · exact .next h
  · refine .ite ?_ (.next h)
    exact .next (.snapTake (.duePoints (.ite h2 (.passRemaps h2))))
theorem execBarrierTimeout_canon (b) : (execBarrierTimeout b s).Canon :=
  .ite (.next h) (.ite (.next (.post (.raise (.parts (.onBar h))))) (.next h))

end
end Sys2Proof.Machine

namespace Sys2Proof.Machine

/-- The state that a read of Marver's leaves is canonical. -/
inductive MvGot.Canon : MvGot → Prop
  | ok {bs : List Byte} {s : State} (h : s.Canon) : MvGot.Canon (.ok bs s)
  | wait : MvGot.Canon .wait
  | bad {code : Half} {addr : DWord} {s : State} (h : s.Canon) : MvGot.Canon (.bad code addr s)
  | stop {s : State} (h : s.Canon) : MvGot.Canon (.stop s)

theorem MvGot.Canon.ite {c : Prop} [Decidable c] {a b : MvGot} (ha : a.Canon) (hb : b.Canon) :
    (if c then a else b).Canon := by
  split
  · exact ha
  · exact hb

namespace MvGot.Canon

variable {x : MvGot} {bs : List Byte} {code : Half} {addr : DWord} {s : State}

theorem of_ok (h : x.Canon) (e : x = .ok bs s) : s.Canon := by subst e; cases h; assumption
theorem of_bad (h : x.Canon) (e : x = .bad code addr s) : s.Canon := by subst e; cases h; assumption
theorem of_stop (h : x.Canon) (e : x = .stop s) : s.Canon := by subst e; cases h; assumption

end MvGot.Canon

namespace State.Canon

variable {s : State}

/-! Marver's shards. -/

theorem shardTable {i x} (h : s.Canon) :
    ({ s with marver := { s.marver with shards := Tbl.set Shard.none s.marver.shards i x } } : State).Canon :=
  { h with shards := Tbl.wf_set _ _ _ _ h.shards }
theorem onShard {i f} (h : s.Canon) : (s.onShard i f).Canon := .shardTable h
theorem setMvStat {i} (h : s.Canon) : (s.setMvStat i).Canon := .raise (.marverParts h)
theorem mvFault {i code addr} (h : s.Canon) : (s.mvFault i code addr).Canon := by
  unfold State.mvFault
  extract_lets s1 x s2 m s3 s4
  have h2 : s2.Canon := .marverParts (.onShard h)
  have h3 : s3.Canon := .ite h2 (.marverParts h2)
  exact .ite (.postKiln (.raise h3)) (.post (.raise h3))
theorem mvSkip {i bad} (h : s.Canon) : (s.mvSkip i bad).Canon := .ite (.post (.setMvStat (.onShard h))) (.onShard h)
theorem mvGo {i skip} (h : s.Canon) : (s.mvGo i skip).Canon := .ite (.mvSkip h) (.ite (.mvSkip h) (.onShard h))
theorem mvSettle (h : s.Canon) : s.mvSettle.Canon := by
  unfold State.mvSettle
  extract_lets done
  have hdone {t : State} {seq} (h : t.Canon) : (done t seq).Canon := .completeIf (.marverParts h)
  split
  · exact h
  · exact .ite (hdone (.mvGo h)) h
  · exact .ite (hdone h) h
theorem mvRelease {o} (h : s.Canon) : (s.mvRelease o).Canon := by
  cases o with
  | none => exact h
  | some p => exact .marverParts (.releaseSlot h)
theorem mvChunkEnd {i slot} (h : s.Canon) : (s.mvChunkEnd i slot).Canon := by
  unfold State.mvChunkEnd
  extract_lets m s1 x
  have h1 : s1.Canon := .mvRelease (.marverParts h)
  exact .ite (.ite (.mvSettle (.onShard h1)) (.mvSettle (.mvGo h1))) h1
theorem mvEnd {i} (h : s.Canon) : (s.mvEnd i).Canon := by
  unfold State.mvEnd
  refine .ite ?_ (.ite (.mvSettle (.onShard h)) h)
  split
  · exact .ite (.mvChunkEnd h) h
  · exact h
theorem mvOrphan {t slot} (h : s.Canon) : (s.mvOrphan t slot).Canon := .setMvStat (.marverParts (.releaseSlot h))
theorem on6 {opc f} (hf : ∀ c, (f c).Canon) (h : s.Canon) : (s.on6 opc f).Canon := by
  unfold State.on6
  split
  · exact h
  · exact .ite (hf _) (.ite h (.takeFault h))

/-! Marver's reads and writes. -/

theorem mvPiece {i far p n} (h : s.Canon) : (s.mvPiece i far p n).Canon := by
  unfold State.mvPiece
  refine .ite (.ok h) ?_
  extract_lets ord next bs
  have hnext {t : State} (h : t.Canon) : (next t).Canon := .onShard h
  split
  · exact .ok (.jread (hnext h))
  · exact .wait
  · next e => exact .ok (hnext (h.serveRead_data e))
  · next e => exact .stop (h.serveRead_mismatch e)
theorem mvFar {i far k p n acc} (h : s.Canon) : (State.mvFar i far k p n acc s).Canon := by
  induction k generalizing p n acc s with
  | zero => exact .ok h
  | succ k ih =>
    unfold State.mvFar
    refine .ite (.ok h) ?_
    extract_lets m
    have hp : (s.mvPiece i far p m).Canon := h.mvPiece
    split
    · next e => exact ih (hp.of_ok e)
    · exact hp
theorem mvRead {i far a n} (h : s.Canon) : (s.mvRead i far a n).Canon := by
  unfold State.mvRead
  refine .ite (.bad h) (.ite ?_ ?_)
  · split
    next e =>
    have h1 := snd (p := (s.lread a n).2) h.lread (congrArg Prod.snd e)
    split
    · exact .bad (.eccAddr h1)
    · exact .ok h1
  · extract_lets p
    split
    · exact h.mvFar
    · exact .bad h
theorem mvIssue {i l t} (h : s.Canon) (ht : State.mvIssue i l s = some t) : t.Canon := by
  induction l generalizing s with
  | nil => exact ofSome h ht
  | cons c l ih =>
    unfold State.mvIssue at ht
    split at ht
    · cases ht
    · next e => exact ih (.onShard (h.farIssue e)) ht
theorem mvWrite {i a bs t} (h : s.Canon) (ht : s.mvWrite i a bs = some t) : t.Canon := by
  unfold State.mvWrite at ht
  split at ht
  · exact ofSome (.lwrite h) ht
  · exact h.mvIssue ht
theorem mvWrites {i l t} (h : s.Canon) (ht : State.mvWrites i l s = some t) : t.Canon := by
  induction l generalizing s with
  | nil => exact ofSome h ht
  | cons c l ih =>
    obtain ⟨u, hu, ht⟩ := Option.bind_eq_some_iff.mp ht
    exact ih (h.mvWrite hu) ht
theorem mvMask {i far x q0 q1} (h : s.Canon) : (s.mvMask i far x q0 q1).Canon := .ite (.ok h) (.ite h.mvRead h.mvRead)
theorem mvLocal {a n} (h : s.Canon) : (s.mvLocal a n).Canon := by
  unfold State.mvLocal
  split
  next e =>
  have h1 := snd (p := (s.lread a n).2) h.lread (congrArg Prod.snd e)
  split
  · exact .bad (.eccAddr h1)
  · exact .ok h1
theorem mvLocals_ok {l acc p} (h : s.Canon) (hp : State.mvLocals l acc s = .ok p) : p.2.Canon := by
  induction l generalizing acc s with
  | nil => cases hp; exact h
  | cons c l ih =>
    unfold State.mvLocals at hp
    split at hp
    · next e => exact ih (h.mvLocal.of_ok e) hp
    · cases hp
    · cases hp
theorem mvLocals_error {l acc p} (h : s.Canon) (hp : State.mvLocals l acc s = .error p) : p.1.Canon := by
  induction l generalizing acc s with
  | nil => cases hp
  | cons c l ih =>
    unfold State.mvLocals at hp
    split at hp
    · next e => exact ih (h.mvLocal.of_ok e) hp
    · next e => cases hp; exact h.mvLocal.of_bad e
    · cases hp; exact h
theorem mvAdd {x l} (h : s.Canon) : (State.mvAdd x l s).Canon := by
  induction l generalizing s with
  | nil => exact h
  | cons c l ih =>
    unfold State.mvAdd
    extract_lets ra ca
    split
    exact ih (.ite (.setMvStat (.lwrite (.lwrite h))) (.lwrite (.lwrite h)))

/-! Marver's work. -/

theorem mvChunk {i t slot far} (h : s.Canon) : (s.mvChunk i t slot far).Canon := by
  unfold State.mvChunk
  extract_lets s0 r a x fault
  refine .ite (.mvFault h) ?_
  split
  · next e => exact .mvFault (h.mvLocals_error e)
  next head s1 e =>
  have h1 : s1.Canon := h.mvLocals_ok e
  extract_lets head k mark
  split
  · next e => exact .mvFault (h1.mvLocals_error e)
  next b s2 e =>
  have h2 : s2.Canon := h1.mvLocals_ok e
  extract_lets old
  refine .ite (.setMvStat (.marverParts (.mvRelease h2))) ?_
  split
  · exact h
  · next e => exact h2.mvMask.of_stop e
  · next e => exact .mvFault (h2.mvMask.of_bad e)
  next mask s3 e =>
  have h3 : s3.Canon := h2.mvMask.of_ok e
  extract_lets live es
  split
  · next e => exact .mvFault (h3.mvLocals_error e)
  next data s4 e =>
  have h4 : s4.Canon := h3.mvLocals_ok e
  extract_lets stage
  split
  · next e => exact .mvFault (h4.mvLocals_error e)
  next s5 e =>
  have h5 : s5.Canon := h4.mvLocals_ok e
  split
  · exact .mvFault h5
  split
  · exact h
  next e => exact .mvEnd (.marverParts (.onShard (.lwrite (.mvAdd (h5.mvWrites e)))))
theorem mvPublish {i q ws} (h : s.Canon) : (s.mvPublish i q ws).Canon :=
  .ite (.ite (.onShard h) (.marverParts (.onShard h))) (.onShard h)
theorem mvNextBlock {i q} (h : s.Canon) : (s.mvNextBlock i q).Canon := .mvEnd (.onShard h)
theorem mvSend {payload i l} (h : s.Canon) : (State.mvSend payload i l s).2.Canon := by
  induction l generalizing s with
  | nil => exact h
  | cons c l ih =>
    unfold State.mvSend
    exact ite_snd (ih (.setMvStat (.onShard (.ite (.noteStale h) h)))) (ite_snd (ih (.releaseSend (.charge h))) (pair h))
theorem mvPump {l} (h : s.Canon) : (State.mvPump l s).2.Canon := by
  induction l generalizing s with
  | nil => exact h
  | cons p l ih => exact ih h.mvSend
theorem farDrop {tag} (h : s.Canon) : (s.farDrop tag).Canon := h.parts
theorem streamRead {r data err} (h : s.Canon) : (s.streamRead r data err).Canon := by
  unfold State.streamRead
  split
  · exact h
  split
  · exact .xferFail h
  · exact .xferDone (.lwrite (.ite (.jread h) h))
theorem streamAck {r err} (h : s.Canon) : (s.streamAck r err).Canon := by
  unfold State.streamAck
  split
  · exact h
  split
  · exact .xferFail h
  · exact .xferDone h
theorem mvAck {i r err} (h : s.Canon) : (s.mvAck i r err).Canon := by
  unfold State.mvAck
  refine .ite h ?_
  extract_lets s1
  have h1 : s1.Canon := .onShard h
  split
  · split
    · exact h1
    · exact h1
    · exact h1
    · exact .mvSettle (.mvFault h1)
  · exact .mvEnd h1

end State.Canon

/-! The commands of Marver and of the far port. -/

section

open State.Canon

variable {s : State} (h : s.Canon)
include h

theorem execShdef_canon : (execShdef s).Canon := by
  refine .next (.on6 (fun c => .ite (.takeFault h) (.ite (.takeFault h) ?_)) h)
  split
  next e =>
  have h1 := snd (p := (s.lread (c.reg 1) 128).2) h.lread (congrArg Prod.snd e)
  split
  · exact .stopQueue (.take (.noteEcc h1))
  · exact .ite (.takeFault h1) (.complete (.onShard (.forgetFar (.take h1))))
theorem execSharm_canon : (execSharm s).Canon :=
  .next (.on6 (fun _ => .ite (.takeFault h) (.complete (.ite (.onShard (.lzero (.take h))) (.mvFault (.take h))))) h)
theorem execShgo_canon : (execShgo s).Canon :=
  .next (.on6 (fun _ => .ite (.takeFault h) (.mvSettle (.marverParts (.take h)))) h)
theorem execShsync_canon : (execShsync s).Canon :=
  .next (.on6 (fun _ => .ite (.takeFault h) (.mvSettle (.marverParts (.take h)))) h)
theorem execShdrop_canon : (execShdrop s).Canon :=
  .next (.on6 (fun _ => .ite (.takeFault h)
    (.complete (.foldl (fun _ _ h => .mvOrphan h) (.onShard (.forgetFar (.take h)))))) h)
theorem execMarverSlot_canon (far) : (execMarverSlot far s).Canon := by
  unfold execMarverSlot
  refine .ite (.next h) ?_
  split
  · exact .next h
  split
  · exact .next (.mvOrphan h)
  · exact .next (.mvSettle (.mvChunk h))
theorem execMarverStatistics_canon (far) : (execMarverStatistics far s).Canon := by
  unfold execMarverStatistics
  refine .ite (.next h) ?_
  split
  · exact .next h
  next i x _ =>
  extract_lets unit
  split
  · exact .next h
  · next e => exact .next (h.mvRead.of_stop e)
  · next e => exact .next (.mvSettle (.mvFault (h.mvRead.of_bad e)))
  next scr s1 e =>
  have h1 : s1.Canon := h.mvRead.of_ok e
  split
  · exact .next h
  · next e => exact .next (h1.mvRead.of_stop e)
  · next e => exact .next (.mvSettle (.mvFault (h1.mvRead.of_bad e)))
  next rs s2 e =>
  have h2 : s2.Canon := h1.mvRead.of_ok e
  split
  · exact .next h
  · next e => exact .next (h2.mvRead.of_stop e)
  · next e => exact .next (.mvSettle (.mvFault (h2.mvRead.of_bad e)))
  next cs s3 e =>
  have h3 : s3.Canon := h2.mvRead.of_ok e
  refine .ite (.next (.mvSettle (.mvFault h3))) ?_
  split
  · exact .next h
  · next e => exact .next (.onShard (h3.mvWrites e))
theorem execMarverUpdateBlock_canon (far) : (execMarverUpdateBlock far s).Canon := by
  unfold execMarverUpdateBlock
  refine .ite (.next h) ?_
  split
  · exact .next h
  next i x _ =>
  extract_lets q
  split
  · exact .next h
  · next e => exact .next (h.mvMask.of_stop e)
  · next e => exact .next (.mvSettle (.mvFault (h.mvMask.of_bad e)))
  next mask s1 e =>
  have h1 : s1.Canon := h.mvMask.of_ok e
  refine .ite (.next (.mvNextBlock h1)) ?_
  split
  · exact .next h
  · next e => exact .next (h1.mvRead.of_stop e)
  · next e => exact .next (.mvSettle (.mvFault (h1.mvRead.of_bad e)))
  next rec s2 e =>
  have h2 : s2.Canon := h1.mvRead.of_ok e
  refine .ite (.next (.mvNextBlock (.mvPublish h2))) ?_
  split
  · exact .next h
  · next e => exact .next (h2.mvRead.of_stop e)
  · next e => exact .next (.mvSettle (.mvFault (h2.mvRead.of_bad e)))
  next g s3 e =>
  have h3 : s3.Canon := h2.mvRead.of_ok e
  extract_lets m
  split
  next w d _ =>
  split
  next bs nonfin _ =>
  refine .ite (.next (.mvSettle (.mvFault h3))) ?_
  split
  · exact .next h
  next s4 e =>
  extract_lets m s5 s6 s7
  have h5 : s5.Canon := .marverParts (h3.mvWrite e)
  have h6 : s6.Canon := .ite (.setMvStat h5) h5
  have h7 : s7.Canon := .ite (.mvPublish h6) h6
  exact .next (.mvNextBlock h7)
theorem execPublicationSend_canon : (execPublicationSend s).Canon := .ite (.next h) (.next (.marverParts h.mvPump))
theorem execFarReadData_canon (tag data last err) : (execFarReadData tag data last err s).Canon := by
  unfold execFarReadData
  refine .ite (.next h) ?_
  split
  · exact .fault _
  · exact .ite (.next (.streamRead (.farDrop h))) (.next h.parts)
theorem execFarWriteAck_canon (tag err) : (execFarWriteAck tag err s).Canon := by
  unfold execFarWriteAck
  refine .ite (.next h) ?_
  split
  · exact .fault _
  extract_lets s1
  have h1 : s1.Canon := .farDrop h
  split
  · exact .next (.streamAck h1)
  · exact .next (.journalAck h1)
  · exact .next h1
  · split
    · exact .next (.snapAck h1)
    · exact .next (.snapFail h1)
  · exact .next (.ite (.snapAck h1) (.snapAbandon h1))
  · exact .next (.mvAck h1)

end
end Sys2Proof.Machine

namespace Sys2Proof.Machine

/-! The tables that a snapshot's bank holds (R403, R416). -/

theorem Memory.wf_foldl {β : Type} {f : Memory → β → Memory} (hf : ∀ m b, Memory.wf m = true → Memory.wf (f m b) = true)
    (l : List β) {m : Memory} (h : Memory.wf m = true) : Memory.wf (l.foldl f m) = true := by
  induction l generalizing m with
  | nil => exact h
  | cons b l ih => exact ih (hf m b h)

theorem tableOf_wf {α : Type} [DecidableEq α] (d : α) (count : Nat) (f : Nat → α) : Tbl.wf d (tableOf d count f) = true :=
  Tbl.wf_foldl d (fun _ _ ht => Tbl.wf_set _ _ _ _ ht) _ rfl
theorem storeOf_wf (bitmap packed : List Byte) : Memory.wf (storeOf bitmap packed) = true :=
  Memory.wf_foldl (fun _ _ hm => Memory.wf_writeBytes _ _ _ hm) _ rfl
theorem localOf_wf (far : FarReply) (bank : Nat) (rmap : List Byte) : Memory.wf (localOf far bank rmap) = true :=
  Memory.wf_foldl (fun _ _ hm => Memory.wf_writeBytes _ _ _ hm) _ rfl

namespace State.Canon

variable {s : State}

/-! Restore. -/

theorem endProgram (h : s.Canon) : s.endProgram.Canon := by
  have h1 : s.launchQueues.streamsEnterRun.Canon := .streamsEnterRun (.launchQueues h)
  exact { h1 with engines := MatrixEngine.replicate_fresh_canon, vregs := rfl, progs := rfl }
theorem loadImage {image} (h : s.Canon) : (s.loadImage image).Canon :=
  { h with imem := Memory.wf_writeBytes _ _ _ h.imem }
/-- Every table that a RESTORE loads is replaced by one in canonical form. -/
theorem bankTables {shown mem bad single store credit writes sendCount creditCount revokeCount seqTable lehr val cnt journal
    tier shards slots wait chunk pubs} (h : s.Canon) (hmem : Memory.wf mem = true) (hstore : Memory.wf store = true)
    (hcredit : Memory.wf credit = true) (hsend : Tbl.wf 0#32 sendCount = true) (hcount : Tbl.wf 0#32 creditCount = true)
    (hrevoke : Tbl.wf 0#16 revokeCount = true) (hseq : Memory.wf seqTable = true) (hval : Tbl.wf 0#64 val = true)
    (hcnt : Tbl.wf 0#32 cnt = true) (hshards : Tbl.wf Shard.none shards = true) :
    ({ s with
        router := { s.router with shown }
        mem := { s.mem with mem, bad, single }
        rings := { s.rings with store, credit, writes, sendCount, creditCount, revokeCount }
        se := { s.se with seqTable }
        lehr, journal, tier
        digests := { s.digests with val, cnt }
        marver := { s.marver with shards, slots, wait, chunk, pubs } } : State).Canon :=
  { h with
    mem := hmem, store := hstore, credit := hcredit, sendCount := hsend, creditCount := hcount, revokeCount := hrevoke
    seqTable := hseq, digVal := hval, digCnt := hcnt, shards := hshards }
theorem loadBank {far bank} (h : s.Canon) : (s.loadBank far bank).Canon :=
  .marverParts (.bankTables (.forgetFar h) (localOf_wf _ _ _) (storeOf_wf _ _) (Memory.wf_writeBytes _ _ _ rfl)
    (tableOf_wf _ _ _) (tableOf_wf _ _ _) (tableOf_wf _ _ _) (Memory.wf_writeBytes _ _ _ rfl) (tableOf_wf _ _ _)
    (tableOf_wf _ _ _) (tableOf_wf _ _ _))
theorem readImage {far src n} (h : s.Canon) : (s.readImage far src n).2.2.Canon := by
  unfold State.readImage
  split
  · split
    · exact h
    · split
      next e =>
      have h1 := snd (p := (s.lread src n).2) h.lread (congrArg Prod.snd e)
      split
      · exact .noteEcc h1
      · exact h1
  · split
    · exact h
    · exact .farChecked h

/-! Replay. -/

theorem takeFence {f} (h : s.Canon) : (s.takeFence f).Canon := h.parts
theorem armReplay {a target} (h : s.Canon) : (s.armReplay a target).Canon := .armEntry h
theorem replayRelease {m} (h : s.Canon) : (s.replayRelease m).Canon := .ite (.onBar h) h
theorem cursorActs {b t} (h : s.Canon) : s.cursorActs b = some t → t.Canon := by
  unfold State.cursorActs
  extract_lets m stamp kind
  refine iteSome (iteSome (ofSome (.deliverRing1 h)) ?_) (iteSome (ofSome (.applyCredit h)) (iteSome (ofSome (.applyRevoke h))
    (iteSome (ofSome (.replayRelease h)) (iteSome (iteSome nofun (iteSome (ofSome (.replayMismatch h))
      (iteSome (ofSome (.replayMismatch h)) (iteSome (ofSome (.endReplay h.parts)) nofun)))) (ofSome h)))))
  split
  · exact nofun
  · exact ofSome (.replayMismatch h)
  · exact ofSome (.deliver h)
theorem readActs {b} (h : s.Canon) : (s.readActs b).Canon := by
  unfold State.readActs
  extract_lets seq n r all
  refine .ite ?_ (.ite (.replayMismatch h) h)
  split
  · exact .ite (.xferDone (.lwrite h)) (.replayMismatch h)
  · exact .ite (.replayMismatch h) h.parts

/-! Reset. -/

theorem atReset {p g pins free imem} (hi : Memory.wf imem = true) (ha : Tbl.wf 0#32 g.access = true)
    (hm : Memory.wf g.mram = true) (hq : Memory.wf g.mbReq = true) (hr : Memory.wf g.mbRep = true) :
    (State.atReset p g pins free imem).Canon where
  imem := hi
  engines := MatrixEngine.replicate_fresh_canon
  vregs := rfl
  progs := rfl
  digVal := rfl
  digCnt := rfl
  mem := rfl
  ctxs := rfl
  seqTable := rfl
  store := rfl
  credit := rfl
  sendCount := rfl
  creditCount := rfl
  revokeCount := rfl
  active := rfl
  staged := rfl
  exits := rfl
  shards := rfl
  access := ha
  mram := hm
  mbReq := hq
  mbRep := hr
theorem scanKiln (g : Gaffer) :
    g.scanKiln.access = g.access ∧ g.scanKiln.mram = g.mram ∧ g.scanKiln.mbReq = g.mbReq ∧ g.scanKiln.mbRep = g.mbRep := by
  unfold Gaffer.scanKiln
  split <;> exact ⟨rfl, rfl, rfl, rfl⟩
theorem toReset {p sel ovr} (h : s.Canon) : (s.toReset p sel ovr).Canon := by
  unfold State.toReset
  extract_lets g t
  obtain ⟨ha, hm, hq, hr⟩ := scanKiln g
  have ht : t.Canon := .atReset h.imem (ha ▸ rfl) (hm ▸ h.mram) (hq ▸ rfl) (hr ▸ rfl)
  exact ht.coreParts
theorem assertReset (h : s.Canon) : s.assertReset.Canon := .parts (.toReset h)
theorem releaseReset {straps} (h : s.Canon) : (s.releaseReset straps).Canon := .loadMould (.parts (.toReset h))
theorem clusterReset (h : s.Canon) : s.clusterReset.Canon := by
  have h1 : (s.toReset s.straps s.gaffer.sel s.gaffer.ovr).Canon := .toReset h
  exact .loadMould { h1 with }

/-! The stores of the MRAM. -/

theorem startMouldStore (h : s.Canon) : s.startMouldStore.Canon := by
  unfold State.startMouldStore
  split
  · exact .ite (.gafferParts h) h
  · exact h
theorem mramTable {free kiln kilnBusy kseq mouldAct tornMould tornKiln mram} (h : s.Canon) (hm : Memory.wf mram = true) :
    ({ s with
        free := free
        gaffer := { s.gaffer with kiln, kilnBusy, kseq, mouldAct, tornMould, tornKiln, mram } } : State).Canon :=
  { h with mram := hm }
theorem kilnStored {torn} (h : s.Canon) : (s.kilnStored torn).Canon := by
  unfold State.kilnStored
  split
  · exact .gafferParts h
  · exact .mramTable h (Memory.wf_writeBytes _ _ _ h.mram)
theorem mouldStored {torn r m image} (h : s.Canon) : (s.mouldStored torn r m image).Canon := by
  unfold State.mouldStored
  split
  extract_lets bit0 g1 s1
  have h1 : s1.Canon := .mramTable h (Memory.wf_writeBytes _ _ _ h.mram)
  exact .ite (.final h1) (.final h1)
theorem storeEnds {torn} (h : s.Canon) : (s.storeEnds torn).Canon := by
  unfold State.storeEnds
  refine .ite (.kilnStored h) ?_
  split
  · exact .mouldStored h
  · exact h

end State.Canon

/-! The commands of restore, replay, reset and the pins. -/

section

open State.Canon

variable {s : State} (h : s.Canon)
include h

theorem execRestoreLoadComplete_canon (far) : (execRestoreLoadComplete far s).Canon := by
  unfold execRestoreLoadComplete
  refine .ite (.next h) ?_
  split
  · next r base bank src len _ =>
    extract_lets g1 s1 a none'
    have h1 : s1.Canon := .gafferParts h
    have hnone {t : State} (h : t.Canon) : (none' t).Canon := .parts (.endProgram h)
    refine .ite (.next (.final h1)) ?_
    split
    · next e => exact .next (.final (hnone (snd h1.farChecked e)))
    · next e =>
      have h2 := snd h1.farChecked e
      refine .ite (.next (.final h2)) ?_
      split
      · next e => exact .next (.final (hnone (snd (p := (State.readImage _ far src.toNat len).2) h2.readImage (congrArg Prod.snd e))))
      · next e =>
        have h3 := snd (p := (State.readImage _ far src.toNat len).2) h2.readImage (congrArg Prod.snd e)
        exact .next (.final (.loadBank (.loadImage (.endProgram h3))))
  · exact .next h
theorem execFenceRecordRead_canon (far) : (execFenceRecordRead far s).Canon := by
  unfold execFenceRecordRead
  refine .ite (.next h) ?_
  split
  · extract_lets g1 s1 at0 far1 fence
    have h1 : s1.Canon := .gafferParts h
    split
    next e =>
    have h2 := snd h1.farChecked e
    extract_lets mark g2 stop
    have hstop {code} : (stop code).Canon := .final (.gafferParts h2)
    clear_value fence mark
    split
    · refine .ite (.next hstop) (.ite (.next hstop) ?_)
      split
      · exact .next (.armReplay (.parts (.takeFence h2)))
      · exact .next hstop
    · exact .next (.replayMismatch h2)
  · exact .next h
theorem execReplayMessageCursor_canon (record) : (execReplayMessageCursor record s).Canon := by
  unfold execReplayMessageCursor
  refine .ite (.next h) ?_
  split
  · exact .next h
  · exact .next (.replayMismatch h)
  · split
    · exact .next h
    · next e => exact .next (.parts (h.cursorActs e))
theorem execReplayReadCursor_canon (record) : (execReplayReadCursor record s).Canon := by
  unfold execReplayReadCursor
  refine .ite (.next h) ?_
  split
  · exact .next h
  · exact .next (.replayMismatch h)
  · exact .ite (.next (.parts (.readActs h))) (.next (.parts (.readActs h)))
theorem execResetRelease_canon (straps) : (execResetRelease straps s).Canon :=
  .ite (.next h) (.ite (.next h.parts) (.ite (.next (.releaseReset h)) (.next h)))
theorem execClusterReset_canon : (execClusterReset s).Canon := by
  unfold execClusterReset
  refine .ite (.next h) ?_
  split
  · exact .ite (.next (.clusterReset h)) (.next h)
  · exact .next h
theorem execBistComplete_canon (pass) : (execBistComplete pass s).Canon := by
  unfold execBistComplete
  refine .ite (.next h) (.ite ?_ (.next (.kilnRecord (.gafferParts h))))
  extract_lets m1 r1 e1 j1 g1 s1
  have h1 : s1.Canon := { h with mem := rfl, store := rfl, credit := rfl, ctxs := rfl, seqTable := rfl }
  exact .next (.ite (.powerUp h1) h1)
theorem execBaseTierFailure_canon : (execBaseTierFailure s).Canon := .next h.parts
theorem execMramStoreComplete_canon (torn) : (execMramStoreComplete torn s).Canon := by
  unfold execMramStoreComplete
  extract_lets torn done
  have hdone {t : State} (h : t.Canon) : (done t).Canon := by
    refine .ite ?_ (.startMouldStore h)
    split
    · exact .releaseReset (.assertReset h)
    · exact .assertReset h
  exact .ite (.next h) (.next (.ite (hdone (.storeEnds h)) h))
theorem execResetAssert_canon : (execResetAssert s).Canon :=
  .ite (.next (.assertReset (.parts (.ite (.storeEnds h.parts) h))))
    (.ite (.next h) (.ite (.next h.parts) (.next (.assertReset h))))
theorem execKilnRecordStore_canon : (execKilnRecordStore s).Canon := .ite (.next (.gafferParts h)) (.next h)
theorem execMouldImageRead_canon (far) : (execMouldImageRead far s).Canon := by
  unfold execMouldImageRead
  split
  · next r m src _ =>
    refine .ite (.next h) ?_
    split
    next e =>
    have h1 := snd (p := (s.readImage far src.toNat 8192).2) h.readImage (congrArg Prod.snd e)
    extract_lets g2 s2
    have h2 : s2.Canon := .gafferParts h1
    split
    · exact .next (.final h2)
    · exact .ite (.next (.final h2)) (.next (.startMouldStore (.gafferParts h2)))
  · exact .next h
theorem execMouldStoreWaitTimeout_canon : (execMouldStoreWaitTimeout s).Canon := by
  unfold execMouldStoreWaitTimeout
  split
  · exact .ite (.next (.final (.gafferParts h))) (.next h)
  · exact .next h
theorem execPwrStableChange_canon (level) : (execPwrStableChange level s).Canon := by
  unfold execPwrStableChange
  extract_lets p1 g1 s1
  have h1 : s1.Canon := .gafferParts h
  exact .next (.ite (.startMouldStore h1) h1)
theorem execTestModeChange_canon (level) : (execTestModeChange level s).Canon := .next h.parts
theorem execScanShift_canon : (execScanShift s).Canon :=
  .ite (.next h) (.next { State.Canon.tidy (Config.freeState s.free) with mram := h.mram })
theorem execTestAccessPort_canon (access) : (execTestAccessPort access s).Canon := by
  cases access with
  | boundaryScan => exact .next h
  | memorySelfTest => exact .next h
  | repairWrite offset value => exact .next { h with mram := Memory.wf_write _ _ _ h.mram }

end
end Sys2Proof.Machine

namespace Sys2Proof.Machine
namespace State.Canon

variable {s : State}

/-! Register space. -/

theorem onMe {e f} (hf : ∀ m : MatrixEngine, m.Canon → (f m).Canon) (h : s.Canon) : (s.onMe e f).Canon :=
  { h with engines := Vec.forall_upd hf h.engines }
/-- What an engine holds besides its tables may change freely. -/
theorem onMeParts {e : Nat} {f : MatrixEngine → MatrixEngine} (h : s.Canon) (hp : ∀ m, (f m).pool = m.pool)
    (ha : ∀ m, (f m).acc = m.acc) (hact : ∀ m, (f m).active = m.active) (hsh : ∀ m, (f m).shadow = m.shadow) :
    (s.onMe e f).Canon :=
  .onMe (fun m hm => ⟨hp m ▸ hm.pool, ha m ▸ hm.acc, hact m ▸ hm.active, hsh m ▸ hm.shadow⟩) h
theorem setReg64 {blk o v} (h : s.Canon) : (s.setReg64 blk o v).Canon := by
  unfold State.setReg64
  split
  · exact .tlbClear (.seParts h)
  · exact .marverParts h
  · exact h.parts
  · split
    · exact .onAct h
    · exact h
  · exact h.parts
  · exact h.parts
  · exact h.parts
  · split
    · exact h.parts
    · exact h
  · exact h.parts
  · exact h
theorem regClear {blk o} (h : s.Canon) : (s.regClear blk o).Canon := by
  unfold State.regClear
  refine .ite (.ite (.onMe (fun _ hm => { hm with }) h) h) ?_
  split
  · exact .ite (.veParts h) h
  · exact .ite (.veParts h) h
  · exact .seParts h
  · exact .memParts h
  · exact .marverParts h
  · exact .marverParts h
  · exact .routerParts h
  · exact .ringsParts h
  · split
    · exact .onPort h
    · exact .onPort h
    · exact .onPort h
    · exact h
  · exact .ite h.parts h
  · exact .ite h.parts h
  · exact .ite h.parts h
  · exact .ite h.parts h
  · exact .ite h.parts h
  · exact h.parts
  · exact h
theorem regRead {m blk o} (h : s.Canon) : (s.regRead m blk o).2.Canon := by
  unfold State.regRead
  extract_lets a
  refine ite_snd (pair h) ?_
  split
  · exact h.parts
  · split
    · split
      · exact h.parts
      · exact h
    · exact .regClear h
theorem queueControl {v} (h : s.Canon) : (s.queueControl v).Canon :=
  .foldl (fun _ _ h => .ite (.clearQueue h) (.ite (.restartQueue h) h)) h
theorem putCore {o v} (h : s.Canon) : (s.putCore o v).Canon := by
  unfold State.putCore
  refine .ite h ?_
  split
  · exact .ite (.coreParts h) h
  · exact .queueControl h
  · exact .coreParts h
  · exact .coreParts h
  · exact h
theorem putMe {e o v} (h : s.Canon) : (s.putMe e o v).Canon := by
  unfold State.putMe
  refine .ite h ?_
  split
  · exact .onMe (fun _ hm => { hm with }) h
  · exact .onMe (fun _ hm => { hm with }) h
  · exact .onMe (fun _ hm => { hm with }) h
  · exact .onMe (fun _ hm => { hm with }) h
  · exact h
theorem putVe {o v} (h : s.Canon) : (s.putVe o v).Canon := by
  unfold State.putVe
  refine .ite h ?_
  split
  · exact .veParts h
  · exact .veParts h
  · exact h
theorem putSe {o v} (h : s.Canon) : (s.putSe o v).Canon := by
  unfold State.putSe
  split
  · exact .seParts h
  · exact .seParts h
  · exact .ite (.tlbClear h) h
  · exact .memParts h
  · exact h
theorem putMv {o v} (h : s.Canon) : (s.putMv o v).Canon := by
  unfold State.putMv
  extract_lets w
  split
  · exact .marverParts h
  · exact .marverParts h
  · exact .marverParts h
  · exact .marverParts h
  · exact .marverParts h
  · exact .marverParts h
  · exact .marverParts h
  · exact .marverParts h
  · exact .marverParts h
  · exact h
theorem stagedTable {k e} (h : s.Canon) :
    ({ s with router := { s.router with staged := Tbl.set 0#12 s.router.staged k e } } : State).Canon :=
  { h with staged := Tbl.wf_set _ _ _ _ h.staged }
theorem exitsTable {k e} (h : s.Canon) :
    ({ s with router := { s.router with exits := Tbl.set 0#12 s.router.exits k e } } : State).Canon :=
  { h with exits := Tbl.wf_set _ _ _ _ h.exits }
theorem accessTable {k e} (h : s.Canon) :
    ({ s with gaffer := { s.gaffer with access := Tbl.set 0#32 s.gaffer.access k e } } : State).Canon :=
  { h with access := Tbl.wf_set _ _ _ _ h.access }
theorem putRt {m o v} (h : s.Canon) : (s.putRt m o v).Canon := by
  unfold State.putRt
  extract_lets r
  split
  · exact .routerParts h
  · exact .routerParts h
  · exact .routerParts h
  · exact .ite (.stagedTable h) h
  · exact .routerParts h
  · exact .exitsTable h
  · exact .routerParts h
  · exact .ringCommand h
  · exact .ringsParts h
  · exact .ringsParts h
  · exact .ringsParts h
  · exact h
theorem putCtl {a v} (h : s.Canon) : (s.putCtl a v).1.Canon := by
  unfold State.putCtl
  extract_lets x kind x'
  split
  · exact h
  · exact .onAct h
theorem putLh {o v} (h : s.Canon) : (s.putLh o v).Canon := by
  unfold State.putLh
  extract_lets l run l'
  split
  · exact h.parts
  · exact .ite h.parts h
  · exact h.parts
  · exact .ite h.parts h
  · exact .ite h.parts h
  · exact .ite h.parts h
  · exact h.parts
  · split
    · exact .putCtl h
    · exact .onAct h
    · exact .ite (.onBar h) h
theorem putJn {o v} (h : s.Canon) : (s.putJn o v).Canon := by
  unfold State.putJn
  extract_lets j
  split
  · exact h.parts
  · exact h.parts
  · exact h.parts
  · exact h.parts
  · exact h.parts
  · split
    · exact h.parts
    · exact h.parts
    · exact h
theorem putAccess {m v} (h : s.Canon) : (s.putAccess m v).Canon := .ite (.accessTable h) h
theorem digestsTable {g : Digests} (h : s.Canon) (hv : Tbl.wf 0#64 g.val = true) (hc : Tbl.wf 0#32 g.cnt = true) :
    ({ s with digests := g } : State).Canon := { h with digVal := hv, digCnt := hc }
theorem putTs {o v} (h : s.Canon) : (s.putTs o v).Canon := by
  unfold State.putTs
  extract_lets t g g2
  split
  · exact .ite h.parts h
  · exact .ite h.parts h
  · exact .ite h.parts h
  · refine .digestsTable h ?_ ?_ <;> split
    · rfl
    · exact h.digVal
    · rfl
    · exact h.digCnt
  · exact .digestsParts h
  · exact .digestsParts h
  · exact .digestsParts h
  · exact h
theorem put32 {m blk o v} (h : s.Canon) : (s.put32 m blk o v).Canon := by
  unfold State.put32
  extract_lets w
  refine .ite (.putMe h) ?_
  split
  · exact .ite h.parts h
  · exact .putCore h
  · exact .putVe h
  · exact .putSe h
  · exact .putMv h
  · exact .putRt h
  · exact .putLh h
  · exact .putJn h
  · exact .ite (.putAccess h) h
  · exact .putTs h
  · exact h
theorem put {m blk o v} (h : s.Canon) : (s.put m blk o v).Canon :=
  .ite h (.ite h.parts (.ite (.setReg64 h.parts) (.put32 h)))

/-! The bus. -/

theorem busGet {m n w} (h : s.Canon) : (s.busGet m n w).2.2.Canon := by
  unfold State.busGet
  split
  · next a =>
    split
    next e =>
    have h1 := snd (p := (s.lread a n).2) h.lread (congrArg Prod.snd e)
    split
    · exact .noteEcc h1
    · exact h1
  · split
    · exact .kilnRecord h
    · exact h
  · exact h
  · exact h
  · exact h
  · exact h
  · exact .regRead h
  · exact h
  · exact h
  · exact h
theorem putMailbox {m v} (h : s.Canon) : (s.putMailbox m v).Canon := .ite (.gafferParts h) (.gafferParts h)
theorem busPut {m n v w} (h : s.Canon) : (s.busPut m n v w).2.Canon := by
  unfold State.busPut
  split
  · exact .lwrite h
  · exact .onMe (fun _ hm => { hm with pool := Memory.wf_writeBytes _ _ _ hm.pool }) h
  · exact .writeDescriptor h
  · exact .writeCredit h
  · exact h
  · exact { h with seqTable := Memory.wf_writeLE _ _ _ _ h.seqTable }
  · exact .put h
  · exact { h with mbReq := Memory.wf_writeLE _ _ _ _ h.mbReq }
  · exact h
  · exact .ite (.putMailbox h) h
theorem busRead {m a n} (h : s.Canon) : (s.busRead m a n).2.2.Canon := by
  unfold State.busRead
  split
  · exact h
  · exact .busGet h
theorem busWrite {m a n v} (h : s.Canon) : (s.busWrite m a n v).2.Canon := by
  unfold State.busWrite
  split
  · exact h
  · exact .busPut h
theorem respond {m code data} (h : s.Canon) : (s.respond m code data).Canon := h.parts
theorem masterRead {m a n} (h : s.Canon) : (s.masterRead m a n).Canon := .ite h (.respond (.busRead h))
theorem masterWrite {m a n v} (h : s.Canon) : (s.masterWrite m a n v).Canon := .ite h (.respond (.busWrite h))
theorem writeRgCmd {m op tag slot} (h : s.Canon) : (s.writeRgCmd m op tag slot).Canon := .masterWrite h

end State.Canon

/-! The commands of masters. -/

section

open State.Canon

variable {s : State} (h : s.Canon)
include h

theorem execExternalMasterAccess_canon (m write addr size data) : (execExternalMasterAccess m write addr size data s).Canon :=
  .ite (.next (.masterWrite h)) (.next (.masterRead h))
theorem execRegisterWrite_canon (m addr value) : (execRegisterWrite m addr value s).Canon := .next (.masterWrite h)
theorem execReadClear_canon (m addr) : (execReadClear m addr s).Canon := .next (.masterRead h)
theorem execUpperWordLatchRead_canon (m addr) : (execUpperWordLatchRead m addr s).Canon := .next (.masterRead h)
theorem execSplit64BitWrite_canon (m addr lower) : (execSplit64BitWrite m addr lower s).Canon := .next (.masterWrite h)
theorem execCounterSetClear_canon (m mask) : (execCounterSetClear m mask s).Canon := .next (.masterWrite h)
theorem execDigestClearAll_canon (m) : (execDigestClearAll m s).Canon := .next (.masterWrite h)
theorem execJnLiveWrite_canon (m i value) : (execJnLiveWrite m i value s).Canon := .next (.masterWrite h)
theorem execQueueClear_canon (m mask) : (execQueueClear m mask s).Canon := .next (.masterWrite h)
theorem execQueueRestart_canon (m mask) : (execQueueRestart m mask s).Canon := .next (.masterWrite h)
theorem execTlbInvalidate_canon (m) : (execTlbInvalidate m s).Canon := .next (.masterWrite h)
theorem execPtrootWrite_canon (m upper) : (execPtrootWrite m upper s).Canon := .next (.masterWrite h)
theorem execRptrWrite_canon (m tag value) : (execRptrWrite m tag value s).Canon := .next (.masterWrite h)
theorem execRingDescriptorWrite_canon (m offset size data) : (execRingDescriptorWrite m offset size data s).Canon :=
  .next (.masterWrite h)
theorem execCreditEntryWrite_canon (m offset size data) : (execCreditEntryWrite m offset size data s).Canon :=
  .next (.masterWrite h)
theorem execRingOpen_canon (m tag) : (execRingOpen m tag s).Canon := .next (.writeRgCmd h)
theorem execRingClose_canon (m tag) : (execRingClose m tag s).Canon := .next (.writeRgCmd h)
theorem execRingDrain_canon (m tag) : (execRingDrain m tag s).Canon := .next (.writeRgCmd h)
theorem execRingReset_canon (m tag) : (execRingReset m tag s).Canon := .next (.writeRgCmd h)
theorem execRingGrel_canon (m tag slot) : (execRingGrel m tag slot s).Canon := .next (.writeRgCmd h)
theorem execActionArm_canon (m a ctl) : (execActionArm m a ctl s).Canon := .next (.masterWrite h)
theorem execMailboxGo_canon (m) : (execMailboxGo m s).Canon := .next (.masterWrite h)

end
end Sys2Proof.Machine

namespace Sys2Proof.Machine
namespace State.Canon

variable {s : State}

theorem snd2 {α β : Type} {p : α × β × State} {a : α} {b : β} {u : State} (h : p.2.2.Canon) (e : p = (a, b, u)) : u.Canon := by
  subst e; exact h

/-! The data cache. -/

theorem coreTable {c : Core} (h : s.Canon) (hc : c.imem = s.core.imem) : ({ s with core := c } : State).Canon :=
  { h with imem := show Memory.wf c.imem = true from hc ▸ h.imem }
theorem fill {line} (h : s.Canon) : (s.fill line).Canon := by
  unfold State.fill
  split
  next e =>
  have h1 := snd2 h.lread e
  exact .coreTable (.foldl (fun _ _ h => .noteEcc h) h1) rfl
theorem loadAccess {a n} (h : s.Canon) : (s.loadAccess a n).2.2.Canon := by
  unfold State.loadAccess
  split
  · exact h
  · extract_lets s1
    have h1 : s1.Canon := .ite h (.fill h)
    split
    · exact h1
    · split
      · exact h1
      · exact .coreTable h1 rfl
  · exact .busGet h
theorem accessCheck {a n write} (h : s.Canon) : (s.accessCheck a n write).2.Canon := by
  unfold State.accessCheck
  refine ite_snd (pair h) ?_
  split
  · exact h
  · refine ite_snd (pair h) ?_
    split
    · exact ite_snd (pair (.ite h (.fill h))) (pair h)
    · split
      · exact pair (.busGet h)
      · exact h
    · exact h
theorem pushStore {t a n v} (h : s.Canon) : (s.pushStore t a n v).Canon := .coreTable (.onTask h) rfl

/-! The commands of the Gaffer. -/

theorem say {p status ws} (h : s.Canon) : (s.say p status ws).Canon := .reply h
theorem start {p a} (h : s.Canon) : (s.start p a).Canon := .gafferParts (.say h)
theorem tryArm {kind target arg replay t} (h : s.Canon) (e : s.tryArm kind target arg replay = .ok t) : t.Canon := by
  unfold State.tryArm at e
  extract_lets w at e
  split at e
  · cases e
  · split at e
    · injection e with e; exact e ▸ .armEntry h
    · cases e
theorem sayArm {p} {x : Except Half State} (h : s.Canon) (hx : ∀ t, x = .ok t → t.Canon) : (s.sayArm p x).Canon := by
  cases x with
  | ok t => exact .say (hx t rfl)
  | error code => exact .say h
theorem cmdIdentify {p} (h : s.Canon) : (cmdIdentify s p).Canon := .say h
theorem cmdSetMould {p} (h : s.Canon) : (cmdSetMould s p).Canon :=
  .ite (.say h) (.ite (.sayArm h fun _ e => h.tryArm e) (.say (.switchMould h)))
theorem cmdWriteMould {p} (h : s.Canon) : (cmdWriteMould s p).Canon :=
  .ite (.say h) (.ite (.say h) (.gafferParts (.say h)))
theorem cmdLoadFw {p} (h : s.Canon) : (cmdLoadFw s p).Canon := .ite (.say h) (.ite (.say h) (.start h))
theorem cmdStartFw {p} (h : s.Canon) : (cmdStartFw s p).Canon := by
  unfold Machine.cmdStartFw
  refine .ite (.say h) ?_
  split
  · exact .say h
  · extract_lets g0 g s1 s2
    have h1 : s1.Canon := .helloAgain (.gafferParts h)
    exact .say (.ite (.powerUp h1) h1)
theorem cmdLaunchAt {p} (h : s.Canon) : (cmdLaunchAt s p).Canon :=
  .ite (.say h) (.ite (.say h) (.ite (.say h) (.start h)))
theorem cmdFence {p} (h : s.Canon) : (cmdFence s p).Canon := .say (.fence h)
theorem cmdAnneal {p} (h : s.Canon) : (cmdAnneal s p).Canon := .ite (.say h) (.annealStart (.start h))
theorem writeRemap {x} (h : s.Canon) : (s.writeRemap x).Canon := .ite (.exitsTable h) (.stagedTable h)
theorem cmdRemap {p} (h : s.Canon) : (cmdRemap s p).Canon := by
  unfold Machine.cmdRemap
  extract_lets es s1
  have h1 : s1.Canon := .foldl (fun _ _ h => .writeRemap h) h
  exact .ite (.say h) (.ite (.sayArm h1 fun _ e => h1.tryArm e) (.say h1))
theorem cmdSnapshot {p} (h : s.Canon) : (cmdSnapshot s p).Canon :=
  .ite (.sayArm h fun _ e => h.tryArm e) (.say h.parts)
theorem cmdRestore {p} (h : s.Canon) : (cmdRestore s p).Canon :=
  .ite (.say h) (.ite (.say h) (.ite (.say h) (.start h)))
theorem cmdReplay {p} (h : s.Canon) : (cmdReplay s p).Canon := by
  unfold Machine.cmdReplay
  refine .ite (.say h) (.ite (.say h) (.ite (.ite (.say h) (.start h)) ?_))
  split
  · exact .say h
  · next e => exact .start (h.tryArm e)
theorem cmdResume {p} (h : s.Canon) : (cmdResume s p).Canon := .ite (.say (.resumeCtx h)) (.say h)
theorem cmdReadKiln {p} (h : s.Canon) : (cmdReadKiln s p).Canon := .say h
theorem cmdSetAccess {p} (h : s.Canon) : (cmdSetAccess s p).Canon := by
  unfold Machine.cmdSetAccess
  extract_lets first n setdom s1 dom g s2
  have h1 : s1.Canon := .foldl (fun _ _ h => .putAccess h) h
  exact .ite (.say h) (.ite (.say h) (.say (.ite (.helloAgain (.gafferParts h1)) h1)))
theorem setMarver {m : Marver} (h : s.Canon) (hm : m.shards = s.marver.shards) : ({ s with marver := m } : State).Canon :=
  { h with shards := show Tbl.wf Shard.none m.shards = true from hm ▸ h.shards }
theorem cmdStepParams {p} (h : s.Canon) : (cmdStepParams s p).Canon := by
  refine .say (.setMarver h ?_)
  (repeat' split) <;> rfl
theorem regSweep {blk o} (h : s.Canon) : (s.regSweep blk o).Canon := by
  unfold State.regSweep
  extract_lets s1
  have h1 : s1.Canon := .regClear h
  split
  · exact .onAct h1
  · exact .ite h1 (.put32 h1)
theorem cmdQueryStats {p} (h : s.Canon) : (cmdQueryStats s p).Canon :=
  .say (.ite (.foldl (fun _ _ h => .regSweep h) h) h)
theorem clearedDigests {ds : List Nat} {g : Digests} (hv : Tbl.wf 0#64 g.val = true) (hc : Tbl.wf 0#32 g.cnt = true) :
    let g' := ds.foldl (fun g d => { g with val := Tbl.set 0#64 g.val d 0#64, cnt := Tbl.set 0#32 g.cnt d 0#32 }) g
    Tbl.wf 0#64 g'.val = true ∧ Tbl.wf 0#32 g'.cnt = true := by
  induction ds generalizing g with
  | nil => exact ⟨hv, hc⟩
  | cons d ds ih => exact ih (Tbl.wf_set _ _ _ _ hv) (Tbl.wf_set _ _ _ _ hc)
theorem cmdDigestRead {p} (h : s.Canon) : (cmdDigestRead s p).Canon := by
  refine .say (.ite (.digestsTable h ?_ ?_) h)
  · exact (clearedDigests h.digVal h.digCnt).1
  · exact (clearedDigests h.digVal h.digCnt).2
theorem readWords {m n a} (h : s.Canon) : (State.readWords m n a s).2.2.Canon := by
  induction n generalizing a s with
  | zero => exact h
  | succ n ih =>
    unfold State.readWords
    split
    next e =>
    have h1 := snd2 h.busRead e
    split
    · exact h1
    · exact ih h1
theorem cmdMemRead {p} (h : s.Canon) : (cmdMemRead s p).Canon := .ite (.say (.readWords h)) (.say (.readWords h))
theorem writeWords {m vs a} (h : s.Canon) : (State.writeWords m vs a s).2.2.Canon := by
  induction vs generalizing a s with
  | nil => exact h
  | cons v vs ih =>
    unfold State.writeWords
    split
    next e =>
    have h1 := snd h.busWrite e
    split
    · exact h1
    · exact ih h1
theorem cmdMemWrite {p} (h : s.Canon) : (cmdMemWrite s p).Canon := .say (.writeWords h)
theorem cmdResetCluster {p} (h : s.Canon) : (cmdResetCluster s p).Canon := by
  unfold Machine.cmdResetCluster
  have h1 : (match p.input with
    | .port =>
      let r := OutPacket.reply (p.reply.packet Code.ok false []) true
      { s with gaffer := { s.gaffer with outq := s.gaffer.outq ++ [r] } }
    | _ => s.say p Code.ok []).Canon := by
    split
    · exact .gafferParts h
    · exact .say h
  exact .ite h1 (.gafferParts h1)
theorem runCommand {p} (h : s.Canon) : (s.runCommand p).Canon := by
  unfold State.runCommand
  refine .ite (.say h) (.ite (.say h) (.ite (.say h) ?_))
  split
  · exact .cmdIdentify h
  · exact .cmdSetMould h
  · exact .cmdWriteMould h
  · exact .cmdLoadFw h
  · exact .cmdStartFw h
  · exact .cmdLaunchAt h
  · exact .cmdFence h
  · exact .cmdAnneal h
  · exact .cmdRemap h
  · exact .cmdSnapshot h
  · exact .cmdRestore h
  · exact .cmdReplay h
  · exact .cmdResume h
  · exact .cmdReadKiln h
  · exact .cmdSetAccess h
  · exact .cmdStepParams h
  · exact .cmdQueryStats h
  · exact .cmdDigestRead h
  · exact .cmdResetCluster h
  · exact .cmdMemRead h
  · exact .cmdMemWrite h
  · exact .say h
theorem runRound {ps taken} (h : s.Canon) : (State.runRound ps taken s).Canon := by
  induction ps generalizing taken s with
  | nil => exact h
  | cons x ps ih =>
    obtain ⟨p, code, keys⟩ := x
    cases code with
    | some code => exact ih (.say h)
    | none => exact .ite (ih (.say h)) (ih (.runCommand h))
theorem configureBar {e} (h : s.Canon) : (s.configureBar e).Canon := .onBar h
theorem loadPart {far src len} (h : s.Canon) : (s.loadPart far src len).Canon := .loadImage h.parts

/-! The issue of a long word. -/

theorem readTags {k x} (h : s.Canon) : (s.readTags k x).st.Canon := by
  unfold State.readTags
  extract_lets a n
  split
  · exact h
  · split
    · exact h
    · split
      next e =>
      have h1 := snd2 h.lread e
      split
      · exact .noteEcc h1
      · exact h1
theorem judgeMemory {k x} (h : s.Canon) : (s.judgeMemory k x).st.Canon := by
  unfold State.judgeMemory
  extract_lets o a n
  split
  · exact h.accessCheck
  · split <;> exact h
theorem judgeControl {k w x} (h : s.Canon) : (s.judgeControl k w x).st.Canon := by
  have hite {c : Prop} [Decidable c] {a b : Judged} (ha : a.st.Canon) (hb : b.st.Canon) : (if c then a else b).st.Canon := by
    split
    · exact ha
    · exact hb
  exact hite h (hite h (hite h (hite h (hite h.readTags (hite h h)))))
theorem judgeSlot {t k w i} (h : s.Canon) : (s.judgeSlot t k w i).st.Canon := by
  unfold State.judgeSlot
  split
  · exact h
  · split
    · exact h.judgeMemory
    · split
      · exact h.judgeControl
      · split <;> exact h
theorem judge {t k w} (h : s.Canon) : (s.judge t k w).2.2.Canon := by
  unfold State.judge
  extract_lets j1 j2 j3
  have h1 : j1.st.Canon := h.judgeSlot
  have h2 : j2.st.Canon := h1.judgeSlot
  have h3 : j3.st.Canon := h2.judgeSlot
  split
  · exact h1
  · split
    · exact h2
    · exact h3
theorem runMemory {t k w x} (h : s.Canon) : (s.runMemory t k w x).2.2.Canon := by
  unfold State.runMemory
  extract_lets o a n halts rd place base len all
  split
  · exact .pushStore h
  · split
    · split
      · exact h.loadAccess
      · exact h
    · split
      · exact h
      · split
        · split
          · exact .coreTable h rfl
          · exact h
        · exact h
theorem runEnq {k x} (h : s.Canon) : (s.runEnq k x).2.Canon := .onQueue h
theorem waitNow {t c} (h : s.Canon) : (s.waitNow t c).Canon := by
  unfold State.waitNow
  refine .ite h (.ite ?_ (.onTask h))
  split
  · exact .onTask h
  · exact h
theorem effects {t k w tags} (h : s.Canon) : (s.effects t k w tags).Canon := by
  unfold State.effects
  extract_lets scalars
  split
  next mw loads s1 e =>
  have h1 : s1.Canon := by
    split at e
    · cases e; exact h
    · exact snd2 h.runMemory e
  split
  next enq s2 e =>
  have h2 : s2.Canon := by
    split at e
    · cases e; exact h1
    · exact snd h1.runEnq e
  split
  extract_lets s3 s4 away c5 s5
  have h4 : s4.Canon := .waitNow (.onTask h2)
  have h5 : s5.Canon := .coreParts h4
  exact .ite (.endCheck (.onTask h5)) h5
theorem runWord {t k w} (h : s.Canon) : (s.runWord t k w).Canon := by
  unfold State.runWord
  split
  · exact h
  · exact .coreParts (.onTask h)
  · split
    · next e => exact .haltTask (snd2 h.judge e)
    · next e => exact .effects (snd2 h.judge e)
theorem runTask {t} (h : s.Canon) : (s.runTask t).Canon := by
  unfold State.runTask
  extract_lets s1 k
  have h1 : s1.Canon := .onTask h
  split
  · exact .haltTask h1
  · exact .haltTask (.kilnRecord h1)
  · exact .runWord h1

end State.Canon

/-! The commands of the control core and of the Gaffer. -/

section

open State.Canon

variable {s : State} (h : s.Canon)
include h

theorem execLoadDataArrival_canon (task) : (execLoadDataArrival task s).Canon := by
  unfold execLoadDataArrival
  extract_lets t
  refine .ite (.next h) ?_
  split
  · next l _ =>
    refine .ite (.next h) ?_
    split
    next e =>
    have h1 := snd2 h.loadAccess e
    exact .ite (.next (.onTask h1)) (.next (.haltTask (.performSpawn h1)))
  · exact .next h
theorem execStoreBufferDrain_canon (task) : (execStoreBufferDrain task s).Canon := by
  unfold execStoreBufferDrain
  extract_lets t
  refine .ite (.next h) ?_
  split
  · exact .next h
  · extract_lets s1
    have h1 : s1.Canon := .onTask h
    split
    · exact .next h1
    · exact .next h1.busPut
theorem execCacheDropComplete_canon (task) : (execCacheDropComplete task s).Canon := by
  unfold execCacheDropComplete
  extract_lets t
  refine .ite (.next h) ?_
  split
  · exact .next (.onTask (.coreTable h rfl))
  · exact .next h
theorem execManagementPacket_canon (bytes) : (execManagementPacket bytes s).Canon :=
  .ite (.next h) (.next (.gafferParts h))
theorem execGafferRound_canon : (execGafferRound s).Canon :=
  .ite (.next h) (.next (.runRound (.gafferParts h)))
theorem execFwImageLoaded_canon (far) : (execFwImageLoaded far s).Canon := by
  unfold execFwImageLoaded
  split
  · refine .ite (.next h) ?_
    split
    next e =>
    extract_lets g s1
    have h1 : s1.Canon := .gafferParts (snd2 h.readImage e)
    split
    · exact .next (.final h1)
    · split
      · exact .next (.final h1)
      · exact .next (.final (.gafferParts h1))
  · exact .next h
theorem execLaunchImageCopied_canon (far) : (execLaunchImageCopied far s).Canon := by
  unfold execLaunchImageCopied
  split
  · next r target entry det src len bars _ =>
    refine .ite (.next h) ?_
    extract_lets g s1
    have h1 : s1.Canon := .gafferParts h
    split
    next err image t e =>
    have h2 : t.Canon := by
      split at e
      · cases e; exact h1
      · exact snd2 h1.readImage e
    split
    · exact .next (.final (.loadPart h2))
    · extract_lets t2
      have h3 : t2.Canon := .ite h2 (.loadImage h2)
      split
      · exact .next (.final h3)
      · next e => exact .next (.final (.parts (.foldl (fun _ _ h => .configureBar h) (h3.tryArm e))))
  · exact .next h
theorem execTaskWake_canon (task) : (execTaskWake task s).Canon := .ite (.next h) (.next (.onTask h))
theorem execLongWordIssue_canon : (execLongWordIssue s).Canon := by
  unfold execLongWordIssue
  refine .ite (.next h) ?_
  extract_lets s1
  have h1 : s1.Canon := .performSpawns (.wakeSpawners h)
  split
  · exact .next h1
  · exact .next (.runTask (.coreParts h1))

end
end Sys2Proof.Machine

namespace Sys2Proof.Machine
namespace State.Canon

variable {s : State}

/-! The router. -/

theorem setRtStat {i} (h : s.Canon) : (s.setRtStat i).Canon := .raise (.routerParts h)
theorem noRoute {m mis} (h : s.Canon) : (s.noRoute m mis).Canon := by
  unfold State.noRoute
  extract_lets r s1 s2
  have h2 : s2.Canon := .raise (.setRtStat (.routerParts h))
  exact .ite h2 (.post (.routerParts h2))
theorem freeInput {input lane n} (h : s.Canon) : (s.freeInput input lane n).Canon := .ite (.onPort h) h
theorem sendFlit {p i} (h : s.Canon) : (s.sendFlit p i).Canon := by
  unfold State.sendFlit
  split
  · exact h
  · exact .ite (.freeInput (.onPort h)) (.onPort h)
theorem pumpMesh {p k} (h : s.Canon) : (State.pumpMesh p k s).Canon := by
  induction k generalizing s with
  | zero => exact h
  | succ k ih =>
    unfold State.pumpMesh
    split
    · exact h
    · exact ih (.sendFlit h)
theorem edgeSlots {k} (h : s.Canon) : (edgeSlots k s).2.Canon := by
  induction k generalizing s with
  | zero => exact h
  | succ k ih =>
    unfold Machine.edgeSlots
    split
    · exact h
    · split
      · exact h
      · exact ih (.sendFlit h)
theorem edgePump {k} (h : s.Canon) : (edgePump k s).Canon := by
  induction k generalizing s with
  | zero => exact h
  | succ k ih =>
    unfold Machine.edgePump
    extract_lets l
    refine .ite h ?_
    split
    next e =>
    exact .ite h (ih (.sendFrame (.routerParts (snd (edgeSlots h) e))))
theorem pumpPort {p} (h : s.Canon) : (s.pumpPort p).Canon := .ite h (.ite (.pumpMesh h) (.edgePump h))
theorem dropAt {p m} (h : s.Canon) : (s.dropAt p m).Canon := .noRoute (.onPort h)
theorem outPort {p input held m side} (h : s.Canon) : (s.outPort p input held m side).Canon := by
  unfold State.outPort
  extract_lets free o
  have hfree {t : State} (h : t.Canon) : (free t).Canon := .ite (.freeInput h) h
  refine .ite (hfree (.dropAt h)) ?_
  split
  · exact hfree (.onPort h)
  · exact .pumpPort (.onPort h)
theorem deliverLocal {input m} (h : s.Canon) : (s.deliverLocal input m).Canon := .ite h (.routerParts h)
theorem route {input m side} (h : s.Canon) : (s.route input m side).Canon :=
  .ite (.outPort h) (.ite (.outPort h) (.ite (.freeInput (.deliverLocal h)) (.ite (.outPort h) (.freeInput (.noRoute h)))))
theorem spread {input m ports} (h : s.Canon) : (s.spread input m ports).Canon := by
  unfold State.spread
  extract_lets ports s1
  have h1 : s1.Canon := .foldl (fun _ _ h => .ite (.outPort h) h) h
  exact .freeInput (.ite (.deliverLocal h1) h1)
theorem inject {input m rr} (h : s.Canon) : (s.inject input m rr).Canon := by
  unfold State.inject
  refine .ite (.ite (.spread h) (.noRoute h)) ?_
  split
  · exact .noRoute h
  · exact .route h

/-! The links. -/

theorem onLink {f} (h : s.Canon) : (s.onLink f).Canon := .routerParts h
theorem cutInput {input lane} (h : s.Canon) : (s.cutInput input lane).Canon := by
  unfold State.cutInput
  split
  · exact h
  · exact .routerParts h
theorem clearLink {p} (h : s.Canon) : (s.clearLink p).Canon := by
  have h1 {ports f} : (State.onPort { s with router := { s.router with ports } } p f).Canon := .onPort (.routerParts h)
  exact .ite (.onLink h1) h1
theorem dropTraffic {p} (h : s.Canon) : (s.dropTraffic p).Canon := by
  unfold State.dropTraffic
  extract_lets q cut waiting s1 s2 s3 s4
  have h1 : s1.Canon := .ite (.foldl (fun _ _ h => .cutInput h) h) h
  have h2 : s2.Canon := .foldl (fun _ _ h => .ite (.freeInput h) h) h1
  have h3 : s3.Canon := .onPort (.clearLink h2)
  have h4 : s4.Canon := .ite (.setRtStat h3) h3
  exact .foldl (fun _ _ h => .dropAt h) h4
theorem portDown {p peer} (h : s.Canon) : (s.portDown p peer).Canon := by
  unfold State.portDown
  extract_lets x s1 s2
  have h1 : s1.Canon := .onPort (.dropTraffic h)
  have h2 : s2.Canon := .ite h1 (.setRtStat h1)
  exact .ite h (.ite (.postKiln h2) h2)
theorem startTraining {p} (h : s.Canon) : (s.startTraining p).Canon := .ite (.onLink (.onPort h)) (.onPort h)
theorem trainPorts (h : s.Canon) : s.trainPorts.Canon :=
  .foldl (fun _ _ h => .ite (.onPort h) (.ite (.startTraining h) h)) h
theorem returnCredits (h : s.Canon) : s.returnCredits.Canon := .ite (.sendFrame (.routerParts h)) (.routerParts h)
theorem partnerChanged {p} (h : s.Canon) : (s.partnerChanged p).Canon := .ite (.post (.onPort h)) h
theorem portUp {p gen} (h : s.Canon) : (s.portUp p gen).Canon := .partnerChanged (.post (.setRtStat (.onPort h)))
theorem helloDone {p r} (h : s.Canon) : (s.helloDone p r).Canon := .ite (.portUp h) (.ite (.portUp h) (.onLink h))
theorem hello {p r} (h : s.Canon) : (s.hello p r).Canon := by
  unfold State.hello
  extract_lets x changed s1 s2
  have h1 : s1.Canon := .onPort h
  have h2 : s2.Canon := .ite (.postKiln (.setRtStat (.onPort (.dropTraffic h1)))) h1
  exact .ite h (.ite (.partnerChanged h1) (.ite (.partnerChanged (.postKiln (.setRtStat (.onPort h2))))
    (.ite (.partnerChanged h1) (.ite (.helloDone h1) h1))))
theorem resend (h : s.Canon) : s.resend.Canon :=
  .ite h (.ite (.portDown h) (.foldl (fun _ _ h => .sendFrame h) (.onPort (.onLink h))))
theorem frameSlots {f} (h : s.Canon) : (s.frameSlots f).Canon := .foldl (fun _ _ h => .onPort (.onLink h)) h
theorem dropFrame (h : s.Canon) : s.dropFrame.Canon := .sendFrame (.onLink (.onPort h))
theorem frameCredits {ack lcred} (h : s.Canon) : (s.frameCredits ack lcred).Canon := .pumpPort (.onPort (.onLink h))

end State.Canon

/-! The commands of the router and of the links. -/

section

open State.Canon

variable {s : State} (h : s.Canon)
include h

theorem execRouterForward_canon (src) : (execRouterForward src s).Canon := by
  unfold execRouterForward
  refine .ite (.next h) ?_
  split
  · extract_lets here s1
    have h1 : s1.Canon := .onPort h
    exact .ite (.next h) (.ite (.ite (.next (.freeInput (.noRoute h1))) (.next (.spread h1))) (.next (.route h1)))
  · extract_lets own
    split
    · exact .next h
    · extract_lets s1 s2
      have h2 : s2.Canon := .onPort (.routerParts h)
      refine .ite (.ite (.next h2) (.ite (.next (.spread h2)) (.next (.noRoute h2)))) ?_
      split
      · exact .next (.noRoute h2)
      · exact .next (.route h2)
  · split
    · exact .next h
    · exact .next (.inject (.routerParts h))
theorem execLinkCreditReturn_canon (port lane) : (execLinkCreditReturn port lane s).Canon :=
  .ite (.next h) (.next (.pumpPort (.onPort h)))
theorem execLinkReadyDrop_canon (port) : (execLinkReadyDrop port s).Canon :=
  .ite (.next h) (.ite (.next (.portDown (.onPort h))) (.next h))
theorem execLinkReadyRise_canon (port) : (execLinkReadyRise port s).Canon :=
  .ite (.next h) (.ite (.next (.ite (.startTraining (.onPort h)) (.onPort h))) (.next h))
theorem execLinkReadyHoldEnd_canon (port) : (execLinkReadyHoldEnd port s).Canon :=
  .ite (.next h) (.ite (.next (.startTraining (.onPort h))) (.next h))
theorem execFlitTimeout_canon (port) : (execFlitTimeout port s).Canon :=
  .ite (.next h) (.ite (.next (.portDown h)) (.next h))
theorem execIdleFlit_canon (flit) : (execIdleFlit flit s).Canon := by
  unfold execIdleFlit
  refine .ite (.next h) ?_
  split
  · exact .ite (.next (.sendIdle h)) (.next h)
  · exact .ite (.next (.onPort h)) (.next h)
theorem execTrainingComplete_canon (port) : (execTrainingComplete port s).Canon :=
  .ite (.next h) (.ite (.next (.sendHello (.onPort h))) (.next h))
theorem execHelloReceive_canon (port record) : (execHelloReceive port record s).Canon :=
  .ite (.next h) (.next (.hello h))
theorem execEdgeFrameReceive_canon (frame) : (execEdgeFrameReceive frame s).Canon := by
  unfold execEdgeFrameReceive
  refine .ite (.next h) ?_
  extract_lets f st s1 seq ack lcred
  have h1 : s1.Canon := .onPort h
  refine .ite (.next h) (.ite (.next (.setRtStat (.dropFrame h))) ?_)
  split
  · exact .ite (.next h1) (.ite (.next (.dropFrame h1)) (.next (.frameCredits (.frameSlots (.onLink h1)))))
  · exact .next (.frameCredits h1)
  · exact .next (.resend (.frameCredits h1))
  · exact .next (.hello (.frameCredits h1))
  · exact .next h1
theorem execEdgeRetryTimeout_canon : (execEdgeRetryTimeout s).Canon := .ite (.next h) (.ite (.next (.resend h)) (.next h))
theorem execEdgeTrainTimeout_canon : (execEdgeTrainTimeout s).Canon :=
  .ite (.next h) (.ite (.ite (.next (.onLink (.portDown h))) (.next (.onLink (.startTraining (.clearLink h))))) (.next h))
theorem execEdgeTrainRetry_canon : (execEdgeTrainRetry s).Canon := .ite (.next h) (.ite (.next (.startTraining h)) (.next h))
theorem execElockChange_canon (lock) : (execElockChange lock s).Canon := by
  have h1 : (s.onLink fun l => { l with lock := lock }).Canon := .onLink h
  exact .ite (.next h) (.ite (.next h) (.ite (.ite (.next (.sendHello (.onPort h1))) (.ite (.next (.portUp h1)) (.next h1)))
    (.ite (.next (.portDown h1)) (.next h1))))

end
end Sys2Proof.Machine

namespace Sys2Proof.Machine

/-! What the operations of the matrix engines make of an engine. -/

theorem ite_canon {c : Prop} [Decidable c] {m n : MatrixEngine} (hm : m.Canon) (hn : n.Canon) : (if c then m else n).Canon := by
  split
  · exact hm
  · exact hn

/-- Weights that a failed load leaves are all there, in the order of their rows. -/
theorem freeRows_wf (draw : Nat) (cls : ClassTag) : Tbl.wf [] (freeRows draw cls) = true := by
  have h := (Tbl.wf_filterMap ([] : List FVal) (fun _ => true)
    (fun k => (List.range 32).map fun n =>
      let w := fun j => (Config.freeWord draw (64 * (32 * k + n) + j)).toNat
      if cls == .w64 then Fmt.fp64.decode (w 0 + 2 ^ 32 * w 1) else Fmt.fp32.decode (w 0))
    (fun _ h => by simpa using congrArg List.length h) (List.range 64) List.pairwise_lt_range).1
  simpa [freeRows] using h

theorem StationarySet.put_wf {w : StationarySet} {rows : List (Nat × List FVal)} (h : Tbl.wf [] w.rows = true) :
    Tbl.wf [] (w.put rows).rows = true := Tbl.wf_foldl_set _ _ _ _ _ h
theorem StationarySet.spoil_wf {w : StationarySet} {draw : Nat} {cls : ClassTag} (h : Tbl.wf [] w.rows = true) :
    Tbl.wf [] (w.spoil draw cls).rows = true := by
  unfold StationarySet.spoil
  split
  · exact h
  · exact freeRows_wf _ _

namespace MatrixEngine.Canon

variable {m : MatrixEngine}

/-- What an engine holds besides its tables may change freely. -/
theorem parts {poolBad desc valid tsel empty emptyTile tbub tfValid tfCode tfTile tfOpc tfSeq queueTags wempty abusy gated
    inflight} (h : m.Canon) :
    ({ m with
        poolBad, desc, valid, tsel, empty, emptyTile, tbub, tfValid, tfCode, tfTile, tfOpc, tfSeq, queueTags, wempty, abusy,
        gated, inflight } : MatrixEngine).Canon := ⟨h.pool, h.acc, h.active, h.shadow⟩
theorem setActive {x : StationarySet} (h : m.Canon) (hx : Tbl.wf [] x.rows = true) : ({ m with active := x } : MatrixEngine).Canon :=
  { h with active := hx }
theorem setShadow {x : StationarySet} (h : m.Canon) (hx : Tbl.wf [] x.rows = true) : ({ m with shadow := x } : MatrixEngine).Canon :=
  { h with shadow := hx }
theorem warnEmpty {tile} (h : m.Canon) : (m.warnEmpty tile).Canon := ite_canon h h.parts
theorem warnRow {tile row} (h : m.Canon) : (m.warnRow tile row).Canon := ite_canon h (.warnEmpty h)
theorem warnWeights (h : m.Canon) : m.warnWeights.Canon := ite_canon h.parts h
theorem tileFault {code tile opc seq} (h : m.Canon) : (m.tileFault code tile opc seq).Canon := ite_canon h h.parts
theorem poolWrite {a bs} (h : m.Canon) : (m.poolWrite a bs).Canon := { h with pool := Memory.wf_writeBytes _ _ _ h.pool }
theorem writeRow {t tile row bs} (h : m.Canon) : (m.writeRow t tile row bs).Canon := h.poolWrite.parts
theorem clearValid {mask p} (h : m.Canon) : (m.clearValid mask p).Canon := h.parts
theorem release {mask} (h : m.Canon) : (m.release mask).Canon := .clearValid h
theorem setAccRow {f a row vs} (h : m.Canon) : (m.setAccRow f a row vs).Canon :=
  { h with acc := Memory.wf_writeBytes _ _ _ h.acc }
theorem zeroAcc {a row n} (h : m.Canon) : (m.zeroAcc a row n).Canon := { h with acc := Memory.wf_zero _ _ _ h.acc }
theorem setOutputs {f a row vs} (h : m.Canon) : (m.setOutputs f a row vs).Canon :=
  ite_canon (.setAccRow (.setAccRow h)) (.setAccRow h)
theorem start {c op} (h : m.Canon) : (m.start c op).Canon := h.parts
theorem setOp {i op} (h : m.Canon) : (m.setOp i op).Canon := h.parts
theorem dropOp {i} (h : m.Canon) : (m.dropOp i).Canon := h.parts
theorem foldl {β : Type} {f : MatrixEngine → β → MatrixEngine} {l : List β} (hf : ∀ t b, t.Canon → (f t b).Canon) (h : m.Canon) :
    (l.foldl f m).Canon := by
  induction l generalizing m with
  | nil => exact h
  | cons b l ih => exact ih (hf m b h)
theorem mmsZero {c cls} (h : m.Canon) : (mmsZero m c cls).Canon := .foldl (fun _ _ h => ite_canon (.zeroAcc h) h) h
/-- The stationary set that a load writes also when it is of another class than the set it stands in. -/
theorem loadActive {x : StationarySet} {b : Bool} (h : m.Canon) (hx : Tbl.wf [] x.rows = true) :
    (if b then { m with active := x } else m).Canon := ite_canon (.setActive h hx) h
end MatrixEngine.Canon

namespace State.Canon

variable {s : State}

/-! Taking a command of a matrix engine. -/

theorem meTake {e opc f} (hf : ∀ c, (f c).Canon) (h : s.Canon) : (meTake s e opc f).Canon := by
  unfold Machine.meTake
  split
  · exact h
  · exact .ite h (.ite (hf _) (.ite h (.takeFault h)))
theorem meStartWith {e c op f} (hf : ∀ m : MatrixEngine, m.Canon → (f m).Canon) (h : s.Canon) : (meStart s e c op f).Canon :=
  .onMe (fun m hm => .start (hf m hm)) (.take h)
theorem meStart {e c op} (h : s.Canon) : (meStart s e c op).Canon := .meStartWith (fun _ hm => hm) h
theorem meTileFault {e c code tile} (h : s.Canon) : (meTileFault s e c code tile).Canon :=
  .takeFault (.raise (.onMe (fun _ hm => .tileFault hm) h))
theorem meFault {e c code tile} (h : s.Canon) : (meFault s e c code tile).Canon := .ite (.meTileFault h) (.takeFault h)
theorem takeRead {unit a n} (h : s.Canon) : (takeRead s unit a n).2.2.Canon := by
  unfold Machine.takeRead
  split
  · exact h
  · split
    · next e => exact snd2 h.lread e
    · next e => exact .noteEcc (snd2 h.lread e)
theorem takeTcfg {e c} (h : s.Canon) : (takeTcfg s e c).Canon := by
  unfold Machine.takeTcfg
  extract_lets mask table
  refine .ite (.meTileFault h) (.ite (.meStart h) ?_)
  split
  · next r => exact .meTileFault (snd2 h.takeRead r)
  · next r => exact .meStart (snd2 h.takeRead r)
theorem takeTrel {e c} (h : s.Canon) : (takeTrel s e c).Canon :=
  .ite (.meTileFault h) (.ite (.meStart h) (.complete (.onMe (fun _ hm => .release hm) (.take h))))
theorem takeTileMove {e c store} (h : s.Canon) : (takeTileMove s e c store).Canon := by
  unfold Machine.takeTileMove
  split
  · exact .meTileFault h
  · exact .meStart h
theorem takeLdw {e c} (h : s.Canon) : (takeLdw s e c).Canon := by
  unfold Machine.takeLdw
  extract_lets tile xf
  split
  · exact .meFault h
  · exact h
  · extract_lets cls cmd go
    have hgo {cmd} {t : State} (h : t.Canon) : (go cmd t).Canon := .meStartWith (fun _ hm => hm.parts) h
    refine .ite (.ite (hgo h) ?_) (hgo h)
    split
    · next r => exact .meFault (snd2 h.takeRead r)
    · next r => exact hgo (snd2 h.takeRead r)
theorem takeSwap {e c} (h : s.Canon) : (takeSwap s e c).Canon :=
  .ite (.takeFault h) (.ite (.complete (.take h)) (.meStartWith (fun _ hm => hm.parts) h))
theorem meStartArray {e c op} (h : s.Canon) : (meStartArray s e c op).Canon :=
  .raiseIf (.meStartWith (fun _ hm => .warnWeights hm) h)
theorem takeMm {e c} (h : s.Canon) : (takeMm s e c).Canon := by
  unfold Machine.takeMm
  extract_lets v
  split
  · exact .meFault h
  · exact h
  · exact .meStartArray h
theorem readBias {unit ocd n} (h : s.Canon) : (readBias s unit ocd n).2.2.Canon := by
  unfold Machine.readBias
  split
  · exact h
  · split
    · next r => exact snd2 h.takeRead r
    · next r => exact snd2 h.takeRead r
theorem takeMms {e c} (h : s.Canon) : (takeMms s e c).Canon := by
  unfold Machine.takeMms
  extract_lets r0 ocd agd ad od a cls trans n
  refine .ite h ?_
  split
  · exact .meFault h
  · split
    · next r => exact .takeFault (snd2 h.takeRead r)
    · next r =>
      have h1 := snd2 h.takeRead r
      split
      · next r => exact .takeFault (snd2 h1.takeRead r)
      · next r =>
        have h2 := snd2 h1.takeRead r
        split
        · next r => exact .takeFault (snd2 h2.readBias r)
        · next r => exact .meStartArray (snd2 h2.readBias r)
theorem acvtRead {e c seed step hid} (h : s.Canon) : (acvtRead s e c seed step hid).2.Canon := by
  unfold Machine.acvtRead
  extract_lets r0 ocd od
  split
  · exact h
  · split
    · next r => exact snd2 h.takeRead r
    · next r =>
      have h1 := snd2 h.takeRead r
      split
      · next r => exact snd2 h1.readBias r
      · next r => exact snd2 h1.readBias r
theorem takeAcvt {e c} (h : s.Canon) : (takeAcvt s e c).Canon := by
  unfold Machine.takeAcvt
  refine .ite (.meStart h) ?_
  split
  · next r => exact .ite (.meTileFault (snd h.acvtRead r)) (.takeFault (snd h.acvtRead r))
  · next r => exact .meStart (snd h.acvtRead r)

/-! The work of a matrix engine. -/

theorem meComplete {e i x} (h : s.Canon) : (meComplete s e i x).Canon := .completeIf (.onMe (fun _ hm => .dropOp hm) h)
theorem meStop {e i x code tile detail} (h : s.Canon) : (meStop s e i x code tile detail).Canon := by
  refine .stopIf (.raiseIf (.onMe (fun m hm => ?_) h))
  cases tile with
  | none => exact hm.dropOp
  | some t => exact hm.dropOp.tileFault
theorem mePoolStop {e i x tile addr} (h : s.Canon) : (mePoolStop s e i x tile addr).Canon := .meStop (.kilnRecord h)
theorem meWarnRow {e tile row} (h : s.Canon) : (meWarnRow s e tile row).Canon := .raiseIf (.onMe (fun _ hm => .warnRow hm) h)
theorem meRun {e k f} (hf : ∀ i x, (f i x).Canon) (h : s.Canon) : (meRun s e k f).Canon := by
  unfold Machine.meRun
  refine .ite h ?_
  split
  · exact h
  · exact hf _ _
theorem meLost {e} (h : s.Canon) : (s.meLost e).Canon := .parts (.onMe (fun _ hm => hm.parts) h)
theorem tcfgCheck {e i x mask table} (h : s.Canon) : (tcfgCheck s e i x mask table).Canon := by
  unfold Machine.tcfgCheck
  extract_lets m new
  split
  · exact .meStop h
  · exact .ite h (.meComplete (.onMe (fun _ hm => .parts (.clearValid hm)) h))
theorem tldRow {e i x c done} (h : s.Canon) : (tldRow s e i x c done).Canon := by
  unfold Machine.tldRow
  split
  · exact h
  · split
    · next r => exact .meStop (.noteEcc (snd2 h.lread r))
    · next r =>
      have h1 := fun f hf => State.Canon.onMe (e := e.val) (f := f) hf (snd2 h.lread r)
      exact .ite (.meComplete (h1 _ fun _ hm => .setOp (.writeRow hm))) (h1 _ fun _ hm => .setOp (.writeRow hm))
theorem meFold {e osid crc x} (h : s.Canon) : (meFold s e osid crc x).Canon := .foldDigest h
theorem acvtRow {e i x c hh rows row crc} (h : s.Canon) : (acvtRow s e i x c hh rows row crc).Canon := by
  unfold Machine.acvtRow
  split
  · extract_lets s1
    have h1 : s1.Canon := .onMe (fun _ hm => .setOp (.writeRow hm)) h
    exact .ite (.meComplete (.meFold h1)) h1
  · exact h
theorem tstRows {e c t n k} (h : s.Canon) : (tstRows s e c t n k).1.Canon := by
  induction n generalizing k s with
  | zero => exact h
  | succ n ih =>
    unfold Machine.tstRows
    extract_lets m row
    split
    · exact ih (.meWarnRow h)
    · split
      · exact h
      · exact ih (.lwrite h)
theorem ldwFail {e c done} (h : s.Canon) : (ldwFail s e c done).Canon := by
  refine .ite (.onMe (fun _ hm => hm.parts) h) (.parts (.onMe (fun m hm => ?_) h))
  exact .parts (.loadActive (.setShadow hm (StationarySet.spoil_wf hm.shadow)) (StationarySet.spoil_wf hm.active))
theorem ldwRow {e i x c done} (h : s.Canon) : (ldwRow s e i x c done).Canon := by
  unfold Machine.ldwRow
  split
  · exact h
  · extract_lets m row rows s1 s2 tile s3
    have h1 : s1.Canon := .onMe (fun m hm =>
      .setOp (.loadActive (.setShadow hm (StationarySet.put_wf hm.shadow)) (StationarySet.put_wf hm.active))) h
    have h2 : s2.Canon := .ite (.meLost (.meWarnRow h1)) h1
    have h3 : s3.Canon := by
      refine .onMe (fun m hm => ?_) h2
      extract_lets x1 m1 x2 m2
      have hm1 : m1.Canon := hm.setShadow hm.shadow
      have hm2 : m2.Canon := hm1.loadActive hm1.active
      exact hm2.loadActive rfl
    split
    · exact .ldwFail (.mePoolStop h)
    · exact .ite h2 (.meComplete h3)
theorem ldwStart {e i x c addr done} (h : s.Canon) : (ldwStart s e i x c addr done).Canon := by
  unfold Machine.ldwStart
  split
  · next r => exact .onMe (fun _ hm => hm.parts) (.meStop (snd2 h.takeRead r))
  · next r => exact .ldwRow (.onMe (fun _ hm => .setOp hm) (snd2 h.takeRead r))
theorem mePass {e n} (h : s.Canon) : (mePass e n s).Canon := by
  induction n generalizing s with
  | zero => exact h
  | succ n ih =>
    unfold Machine.mePass
    split
    · exact h
    · refine ih (.meComplete ?_)
      split
      · exact .onMe (fun _ hm => .release hm) h
      · exact h
theorem passTokens (h : s.Canon) : s.passTokens.Canon := .foldl (fun _ _ h => .mePass h) h
theorem engineRead {unit a n} (h : s.Canon) : (Machine.streamRead s unit a n).2.Canon := by
  unfold Machine.streamRead
  split
  · exact h
  · split
    · exact h
    · split
      · next e => exact snd2 h.lread e
      · next e => exact .noteEcc (snd2 h.lread e)
theorem readElems {unit ty l} (h : s.Canon) : (readElems s unit ty l).2.Canon := by
  induction l generalizing s with
  | nil => exact h
  | cons a l ih =>
    cases a with
    | none =>
      have h1 := ih h
      unfold Machine.readElems
      split
      · next e => exact snd h1 e
      · exact h1
    | some a =>
      unfold Machine.readElems
      split
      · next e => exact snd (engineRead h) e
      · next e =>
        have h1 := ih (snd (engineRead h) e)
        split
        · next e => exact snd h1 e
        · exact h1
theorem tileInput {e cls trans tile row off} (h : s.Canon) : (tileInput s e cls trans tile row off).2.Canon := by
  unfold Machine.tileInput
  extract_lets m
  split
  · exact h
  · split
    · exact h
    · exact .meWarnRow h
theorem memInput {unit a cls trans m} (h : s.Canon) : (memInput s unit a cls trans m).2.Canon := by
  unfold Machine.memInput
  split
  · extract_lets addr n
    split
    · next e => exact snd (engineRead h) e
    · next e =>
      have h1 := snd (engineRead h) e
      split
      · split
        · next e => exact snd (engineRead h1) e
        · next e => exact snd (engineRead h1) e
      · exact h1
  · exact .readElems h
theorem mmRow {e i x c cls done} (h : s.Canon) : (mmRow s e i x c cls done).Canon := by
  unfold Machine.mmRow
  split
  · next r => exact .mePoolStop (snd h.tileInput r)
  · next r =>
    have h1 := snd h.tileInput r
    extract_lets f m two init
    split
    extract_lets s2 s3
    have h3 : s3.Canon := .meLost (.onMe (fun _ hm => .parts (.setOutputs hm)) h1)
    exact .ite (.meComplete h3) h3
theorem mmsStop {e i x c cls code detail} (h : s.Canon) : (mmsStop s e i x c cls code detail).Canon :=
  .meStop (.onMe (fun _ hm => .mmsZero hm) h)
theorem mmsInit {e c cls m} (h : s.Canon) : (mmsInit s e c cls m).2.Canon := by
  unfold Machine.mmsInit
  split
  · exact h
  · extract_lets f n
    split
    · next r => exact snd (engineRead h) r
    · next r => exact snd (engineRead h) r
theorem mmsInput {e c cls k} (h : s.Canon) : (mmsInput s e c cls k).2.Canon := by
  unfold Machine.mmsInput
  split
  · split
    · next r => exact snd h.tileInput r
    · next r => exact snd h.tileInput r
  · split
    · next r => exact snd h.memInput r
    · next r => exact snd h.memInput r
theorem mmsFetch {e c cls n k rows} (h : s.Canon) : (mmsFetch s e c cls n k rows).2.Canon := by
  induction n generalizing k rows s with
  | zero => exact h
  | succ n ih =>
    unfold Machine.mmsFetch
    split
    · next r => exact snd h.mmsInput r
    · next r => exact ih (.meLost (snd h.mmsInput r))
theorem mmsPut {e i c cls done g hh crc xs init rest} (h : s.Canon) :
    (mmsPut s e i c cls done g hh crc xs init rest).Canon := by
  unfold Machine.mmsPut
  refine .onMe (fun m hm => ?_) h
  extract_lets m1 stage two m2 m3
  have h1 : m1.Canon := ite_canon (.mmsZero hm) hm
  have h2 : m3.Canon := ite_canon (ite_canon (.zeroAcc (.zeroAcc h1)) (.zeroAcc h1)) h1
  split
  exact .parts (.setOutputs h2)
theorem mmsRow {e i x c cls done g hh crc ahead} (h : s.Canon) : (mmsRow s e i x c cls done g hh crc ahead).Canon := by
  unfold Machine.mmsRow
  extract_lets upTo
  split
  · next r => exact .mePoolStop (snd h.mmsFetch r)
  · next r => exact .mmsStop (snd h.mmsFetch r)
  · next r =>
    have h1 := snd h.mmsFetch r
    split
    · next r => exact .mmsStop (snd h1.mmsInit r)
    · next r => exact .mmsPut (snd h1.mmsInit r)
theorem writeRows {dst stride rs k} (h : s.Canon) : (writeRows s dst stride rs k).Canon := by
  induction rs generalizing k s with
  | nil => exact h
  | cons r rs ih => exact ih (.lwrite h)
theorem adjWrite {o g hh} (h : s.Canon) : (adjWrite s o g hh).Canon := .ite (.lwrite h) h
theorem groupStats {o c hh} (h : s.Canon) : (groupStats s o c hh).Canon := .raiseIf (.raiseIf h.parts)
theorem mmsCheck {e i x c cls done g hh crc ahead} (h : s.Canon) : (mmsCheck s e i x c cls done g hh crc ahead).Canon := by
  unfold Machine.mmsCheck
  extract_lets m n rows
  split
  extract_lets adjBad
  refine .ite (.onMe (fun _ hm => .setOp hm) h) ?_
  split
  · exact .mmsStop h
  · exact .ite (.meComplete (.meFold (.groupStats (.adjWrite (.writeRows h)))))
      (.onMe (fun _ hm => .setOp hm) (.groupStats (.adjWrite (.writeRows h))))
theorem acvtCheck {e i x c hh crc} (h : s.Canon) : (acvtCheck s e i x c hh crc).Canon := by
  unfold Machine.acvtCheck
  extract_lets m f rows s1
  split
  extract_lets s2 crc2
  have h1 : s1.Canon := .onMe (fun m hm => ite_canon (ite_canon (.zeroAcc (.zeroAcc hm)) (.zeroAcc hm)) hm) h
  have h2 : s2.Canon := .groupStats (.adjWrite h1)
  exact .ite (.onMe (fun _ hm => .setOp hm) h) (.ite (.onMe (fun _ hm => .setOp hm) h2)
    (.meComplete (.meFold (.writeRows h2))))
theorem acvtStart {e i x regs seed step hid} (h : s.Canon) : (acvtStart s e i x regs seed step hid).Canon := by
  unfold Machine.acvtStart
  extract_lets c
  split
  · next r => exact .meStop (snd h.acvtRead r)
  · next r => exact .acvtCheck (snd h.acvtRead r)

end State.Canon

/-! The commands of the matrix engines. -/

section

open State.Canon

variable {s : State} (h : s.Canon)
include h

theorem execTcfg_canon (e) : (execTcfg e s).Canon := .next (.meTake (fun _ => .takeTcfg h) h)
theorem execTrel_canon (e) : (execTrel e s).Canon := .next (.meTake (fun _ => .takeTrel h) h)
theorem execTld_canon (e) : (execTld e s).Canon := .next (.meTake (fun _ => .takeTileMove h) h)
theorem execTst_canon (e) : (execTst e s).Canon := .next (.meTake (fun _ => .takeTileMove h) h)
theorem execLdw_canon (e) : (execLdw e s).Canon := .next (.meTake (fun _ => .takeLdw h) h)
theorem execSwap_canon (e) : (execSwap e s).Canon := .next (.meTake (fun _ => .takeSwap h) h)
theorem execMm_canon (e) : (execMm e s).Canon := .next (.meTake (fun _ => .takeMm h) h)
theorem execMms_canon (e) : (execMms e s).Canon := .next (.meTake (fun _ => .takeMms h) h)
theorem execAcvt_canon (e) : (execAcvt e s).Canon := .next (.meTake (fun _ => .takeAcvt h) h)
theorem execTcfgApply_canon (e) : (execTcfgApply e s).Canon := by
  unfold execTcfgApply
  extract_lets m
  refine .next (.ite h ?_)
  split
  · exact h
  · split
    · exact .tcfgCheck h
    · refine .ite h ?_
      split
      · next r => exact .meStop (snd2 h.takeRead r)
      · next r => exact .tcfgCheck (.onMe (fun _ hm => .setOp hm) (snd2 h.takeRead r))
    · exact h
theorem execTileRowWriteComplete_canon (e) : (execTileRowWriteComplete e s).Canon := by
  refine .next (.meRun (fun i x => ?_) h)
  split
  · exact .tldRow h
  · exact .acvtRow h
  · exact h
theorem execTstComplete_canon (e) : (execTstComplete e s).Canon := by
  refine .next (.meRun (fun i x => ?_) h)
  split
  · split
    · exact h
    · split
      · next r => exact .meComplete (fst h.tstRows r)
      · next r => exact .mePoolStop (fst h.tstRows r)
  · exact h
theorem execStationaryRowWrite_canon (e) : (execStationaryRowWrite e s).Canon := by
  refine .next (.meRun (fun i x => ?_) h)
  split
  · split
    · exact .ldwStart h
    · exact .ldwRow h
  · exact h
theorem execSwapTokenEntry_canon (e) : (execSwapTokenEntry e s).Canon :=
  .next (.meRun (fun _ _ => .onMe (fun _ hm => { hm with active := hm.shadow, shadow := hm.active }) h) h)
theorem execAccumulatorRowWrite_canon (e) : (execAccumulatorRowWrite e s).Canon := by
  refine .next (.meRun (fun i x => ?_) h)
  split
  · exact .mmRow h
  · exact .mmsRow h
  · exact h
theorem execSaturationCheck_canon (e) : (execSaturationCheck e s).Canon := by
  refine .next (.meRun (fun i x => ?_) h)
  split
  · exact .mmsCheck h
  · exact .acvtStart h
  · exact .acvtCheck h
  · exact h

end
end Sys2Proof.Machine

namespace Sys2Proof.Machine
namespace State.Canon

variable {s : State}

/-! The vector engine. -/

theorem onVe {f : VectorEngine → VectorEngine} (h : s.Canon) (hv : Tbl.wf 0#32 (f s.ve).vregs = true)
    (hp : Memory.wf (f s.ve).progs = true) : (s.onVe f).Canon := { h with vregs := hv, progs := hp }
theorem fault_tables (v : VectorEngine) (code : Half) (opc : Nat) (seq : Word) :
    (v.fault code opc seq).vregs = v.vregs ∧ (v.fault code opc seq).progs = v.progs := by
  unfold VectorEngine.fault
  split <;> exact ⟨rfl, rfl⟩
/-- A fault of the vector engine, recorded in VE_FAULT, leaves its registers and programs. -/
theorem onVeFault {code opc seq} {inflight : VectorEngine → List VeCmd} (h : s.Canon) :
    (s.onVe fun v => { v.fault code opc seq with inflight := inflight v }).Canon :=
  .onVe h ((fault_tables s.ve code opc seq).1 ▸ h.vregs) ((fault_tables s.ve code opc seq).2 ▸ h.progs)
theorem veFault {c code} (h : s.Canon) : (veFault s c code).Canon :=
  .takeFault (.raise (.onVe h ((fault_tables s.ve code c.opc c.seq).1 ▸ h.vregs)
    ((fault_tables s.ve code c.opc c.seq).2 ▸ h.progs)))
theorem veTake {opc f} (hf : ∀ c, (f c).Canon) (h : s.Canon) : (veTake s opc f).Canon := by
  unfold Machine.veTake
  split
  · exact h
  · exact .ite h (.ite (hf _) (.ite h (.veFault h)))
theorem veStart {c} (h : s.Canon) : (veStart s c).Canon := .veParts (.take h)
theorem veCheck {c bad v} (h : s.Canon) : (veCheck s c bad v).Canon := .ite (.veFault h) (.ite (.veFault h) (.veStart h))
theorem veWrite {dst xs} (h : s.Canon) : (veWrite s dst xs).Canon := by
  unfold Machine.veWrite
  split
  · exact .onVe h (Tbl.wf_foldl_set _ _ _ _ _ h.vregs) h.progs
  · exact .lwrite h
  · exact h
theorem veCountSingles {c n} (h : s.Canon) : (veCountSingles s c n).Canon :=
  .foldl (fun _ o h => by
    split
    · exact h.lread
    · exact h) h
theorem veLost (h : s.Canon) : s.veLost.Canon := .parts (.veParts h)
theorem veDone {x} (h : s.Canon) : (veDone s x).Canon := .completeIf (.veParts h)
theorem veEccStop {x w} (h : s.Canon) : (veEccStop s x w).Canon := .stopIf (.raise (.onVeFault (.noteEcc h)))
theorem veWarn {isat inv beats} (h : s.Canon) : (veWarn s isat inv beats).Canon := .raiseIf (.raiseIf (.veParts h))
theorem veEnd {x c rs stop beats} (h : s.Canon) : (veEnd s x c rs stop beats).Canon := by
  unfold Machine.veEnd
  extract_lets n s1 s2
  have h1 : s1.Canon := .ite (.veLost (.veCountSingles h)) h
  have h2 : s2.Canon := .veWrite (.veWarn h1)
  split
  · exact .veDone h2
  · exact .veEccStop h2
theorem veFinish {x c f beats} (h : s.Canon) : (veFinish s x c f beats).Canon := .veEnd h
theorem veOob {missed} (h : s.Canon) : (s.veOob missed).Canon := .raiseIf (.veParts h)
theorem runGather {x v c beats} (h : s.Canon) : (runGather s x v c beats).Canon :=
  .veEnd (.veOob (.foldl (fun _ _ h => h.lread) h))
theorem runScatter {x v c beats} (h : s.Canon) : (runScatter s x v c beats).Canon := by
  unfold Machine.runScatter
  extract_lets sz stop pairs missed s1 s2 s3
  have h1 : s1.Canon := .veCountSingles h
  have h2 : s2.Canon := .foldl (fun _ _ h => .ite (.lwrite h) h) h1
  have h3 : s3.Canon := .veLost (.veWarn (.veOob h2))
  clear_value stop
  split
  · exact .veDone h3
  · exact .veEccStop h3
theorem runVop {x} (h : s.Canon) : (runVop s x).Canon := .ite (.runGather h) (.ite (.runScatter h) (.veFinish h))
theorem runVpload {x} (h : s.Canon) : (runVpload s x).Canon := by
  unfold Machine.runVpload
  extract_lets r slot
  split
  · next e => exact .veEccStop (snd2 h.lread e)
  · next e =>
    have h1 := snd2 h.lread e
    exact .ite (.stopIf (.raise (.onVeFault h1))) (.veDone (.onVe h1 h1.vregs (Memory.wf_writeBytes _ _ _ h1.progs)))
theorem runVep {x} (h : s.Canon) : (runVep s x).Canon := by
  unfold Machine.runVep
  exact .veFinish h
theorem vredSegs {v o n k} (h : s.Canon) : (vredSegs s v o n k).1.Canon := by
  induction n generalizing k s with
  | zero => exact h
  | succ n ih =>
    unfold Machine.vredSegs
    extract_lets first err vs s1
    have h1 : s1.Canon := by
      refine .veWarn ?_
      split
      · exact h.lread
      · exact h
    clear_value err
    split
    · exact h
    · exact ih (.lwrite h1)
theorem runVred {x} (h : s.Canon) : (runVred s x).Canon := by
  unfold Machine.runVred
  extract_lets v c
  split
  · next e => exact .veDone (fst (.vredSegs (.veLost h)) e)
  · next e => exact .veEccStop (fst (.vredSegs (.veLost h)) e)

/-! A step without a command. -/

theorem beatStart (h : s.Canon) : s.beatStart.Canon := .noteThrottle (.dueRemaps (.passTokens (.showId { h with })))
theorem tick (h : s.Canon) : s.tick.Canon := by
  unfold State.tick
  refine .ite h ?_
  extract_lets s1 s2
  have h1 : s1.Canon := .ringIdle (.returnCredits (.trainPorts h.parts))
  have h2 : s2.Canon := .ite (.performSpawns (.wakeSpawners h1)) h1
  exact .ite (.beatStart h2) h2

end State.Canon

/-! The commands of the vector engine. -/

section

open State.Canon

variable {s : State} (h : s.Canon)
include h

theorem execVop_canon : (execVop s).Canon := .next (.veTake (fun _ => .veCheck h) h)
theorem execVpload_canon : (execVpload s).Canon :=
  .next (.veTake (fun _ => .ite (.veFault h) (.ite (.veFault h) (.veStart h))) h)
theorem execVep_canon : (execVep s).Canon := .next (.veTake (fun _ => .veCheck h) h)
theorem execVred_canon : (execVred s).Canon :=
  .next (.veTake (fun _ => .ite (.veFault h) (.ite (.veFault h) (.veStart h))) h)
theorem execVeCompletion_canon : (execVeCompletion s).Canon := by
  refine .next (.ite h ?_)
  split
  · exact h
  · split
    · exact .runVop h
    · exact .runVpload h
    · exact .runVep h
    · exact .runVred h

/-- Every command keeps every memory and table in canonical form. -/
theorem exec_canon (c : Instr) : Answer.Canon (exec c s) := by
  unfold exec
  cases c with
  | longWordIssue => exact execLongWordIssue_canon h
  | loadDataArrival task => exact execLoadDataArrival_canon h task
  | storeBufferDrain task => exact execStoreBufferDrain_canon h task
  | cacheDropComplete task => exact execCacheDropComplete_canon h task
  | taskWake task => exact execTaskWake_canon h task
  | queueClear m mask => exact execQueueClear_canon h m mask
  | queueRestart m mask => exact execQueueRestart_canon h m mask
  | tcfg e => exact execTcfg_canon h e
  | tcfgApply e => exact execTcfgApply_canon h e
  | trel e => exact execTrel_canon h e
  | tld e => exact execTld_canon h e
  | tst e => exact execTst_canon h e
  | tileRowWriteComplete e => exact execTileRowWriteComplete_canon h e
  | ldw e => exact execLdw_canon h e
  | stationaryRowWrite e => exact execStationaryRowWrite_canon h e
  | swap e => exact execSwap_canon h e
  | swapTokenEntry e => exact execSwapTokenEntry_canon h e
  | mm e => exact execMm_canon h e
  | mms e => exact execMms_canon h e
  | acvt e => exact execAcvt_canon h e
  | accumulatorRowWrite e => exact execAccumulatorRowWrite_canon h e
  | saturationCheck e => exact execSaturationCheck_canon h e
  | vop => exact execVop_canon h
  | vpload => exact execVpload_canon h
  | vep => exact execVep_canon h
  | vred => exact execVred_canon h
  | veCompletion => exact execVeCompletion_canon h
  | sarm => exact execSarm_canon h
  | rearm => exact execRearm_canon h
  | sstop => exact execSstop_canon h
  | streamTransferIssue far => exact execStreamTransferIssue_canon h far
  | pageTableWalk far => exact execPageTableWalk_canon h far
  | farReadData tag data last err => exact execFarReadData_canon h tag data last err
  | farWriteAck tag err => exact execFarWriteAck_canon h tag err
  | tlbInvalidate m => exact execTlbInvalidate_canon h m
  | ptrootWrite m upper => exact execPtrootWrite_canon h m upper
  | patrolScrub => exact execPatrolScrub_canon h
  | msend => exact execMsend_canon h
  | xsend => exact execXsend_canon h
  | xsendRelease => exact execXsendRelease_canon h
  | sendCompletion => exact execSendCompletion_canon h
  | bar => exact execBar_canon h
  | arriveSend => exact execArriveSend_canon h
  | rwin => exact execRwin_canon h
  | barrierPass b => exact execBarrierPass_canon h b
  | barrierTimeout b => exact execBarrierTimeout_canon h b
  | inboundDataMessage => exact execInboundDataMessage_canon h
  | inboundGatherMessage => exact execInboundGatherMessage_canon h
  | wptrAdvance => exact execWptrAdvance_canon h
  | creditReceive => exact execCreditReceive_canon h
  | revokeReceive => exact execRevokeReceive_canon h
  | arriveReceive => exact execArriveReceive_canon h
  | releaseReceive => exact execReleaseReceive_canon h
  | rptrWrite m tag value => exact execRptrWrite_canon h m tag value
  | ringDescriptorWrite m offset size data => exact execRingDescriptorWrite_canon h m offset size data
  | creditEntryWrite m offset size data => exact execCreditEntryWrite_canon h m offset size data
  | ringOpen m tag => exact execRingOpen_canon h m tag
  | ringClose m tag => exact execRingClose_canon h m tag
  | ringDrain m tag => exact execRingDrain_canon h m tag
  | ringReset m tag => exact execRingReset_canon h m tag
  | ringGrel m tag slot => exact execRingGrel_canon h m tag slot
  | routerForward src => exact execRouterForward_canon h src
  | linkCreditReturn port lane => exact execLinkCreditReturn_canon h port lane
  | idleFlit flit => exact execIdleFlit_canon h flit
  | linkReadyDrop port => exact execLinkReadyDrop_canon h port
  | flitTimeout port => exact execFlitTimeout_canon h port
  | linkReadyRise port => exact execLinkReadyRise_canon h port
  | linkReadyHoldEnd port => exact execLinkReadyHoldEnd_canon h port
  | trainingComplete port => exact execTrainingComplete_canon h port
  | helloReceive port record => exact execHelloReceive_canon h port record
  | edgeFrameReceive frame => exact execEdgeFrameReceive_canon h frame
  | edgeRetryTimeout => exact execEdgeRetryTimeout_canon h
  | edgeTrainTimeout => exact execEdgeTrainTimeout_canon h
  | edgeTrainRetry => exact execEdgeTrainRetry_canon h
  | elockChange lock => exact execElockChange_canon h lock
  | lehrSyncPulse value => exact execLehrSyncPulse_canon h value
  | missedPulse => exact execMissedPulse_canon h
  | actionArm m a ctl => exact execActionArm_canon h m a ctl
  | launch a => exact execLaunch_canon h a
  | snapshotActionFire a => exact execSnapshotActionFire_canon h a
  | profile a => exact execProfile_canon h a
  | snapshotTimer => exact execSnapshotTimer_canon h
  | snapshotCopy => exact execSnapshotCopy_canon h
  | snapshotComplete => exact execSnapshotComplete_canon h
  | journalWrite => exact execJournalWrite_canon h
  | traceSample => exact execTraceSample_canon h
  | replayMessageCursor record => exact execReplayMessageCursor_canon h record
  | replayReadCursor record => exact execReplayReadCursor_canon h record
  | shdef => exact execShdef_canon h
  | sharm => exact execSharm_canon h
  | shgo => exact execShgo_canon h
  | shsync => exact execShsync_canon h
  | shdrop => exact execShdrop_canon h
  | marverSlot far => exact execMarverSlot_canon h far
  | marverStatistics far => exact execMarverStatistics_canon h far
  | marverUpdateBlock far => exact execMarverUpdateBlock_canon h far
  | publicationSend => exact execPublicationSend_canon h
  | managementPacket bytes => exact execManagementPacket_canon h bytes
  | mailboxGo m => exact execMailboxGo_canon h m
  | gafferRound => exact execGafferRound_canon h
  | fwImageLoaded far => exact execFwImageLoaded_canon h far
  | launchImageCopied far => exact execLaunchImageCopied_canon h far
  | restoreLoadComplete far => exact execRestoreLoadComplete_canon h far
  | mramStoreComplete torn => exact execMramStoreComplete_canon h torn
  | kilnRecordStore => exact execKilnRecordStore_canon h
  | clusterReset => exact execClusterReset_canon h
  | outboundPacket => exact execOutboundPacket_canon h
  | resetRelease straps => exact execResetRelease_canon h straps
  | resetAssert => exact execResetAssert_canon h
  | bistComplete pass => exact execBistComplete_canon h pass
  | switchClose => exact execSwitchClose_canon h
  | computeTierPowerGood trained => exact execComputeTierPowerGood_canon h trained
  | tierStartTimeout => exact execTierStartTimeout_canon h
  | powerGoodLoss => exact execPowerGoodLoss_canon h
  | tierInterfaceError => exact execTierInterfaceError_canon h
  | tierInterfaceTimeout => exact execTierInterfaceTimeout_canon h
  | annealSelfTestComplete pass => exact execAnnealSelfTestComplete_canon h pass
  | discoveryComplete => exact execDiscoveryComplete_canon h
  | pwrStableChange level => exact execPwrStableChange_canon h level
  | testModeChange level => exact execTestModeChange_canon h level
  | scanShift => exact execScanShift_canon h
  | counterSetClear m mask => exact execCounterSetClear_canon h m mask
  | digestClearAll m => exact execDigestClearAll_canon h m
  | jnLiveWrite m k value => exact execJnLiveWrite_canon h m k value
  | upperWordLatchRead m addr => exact execUpperWordLatchRead_canon h m addr
  | split64BitWrite m addr lower => exact execSplit64BitWrite_canon h m addr lower
  | readClear m addr => exact execReadClear_canon h m addr
  | registerWrite m addr value => exact execRegisterWrite_canon h m addr value
  | externalMasterAccess m write addr size data => exact execExternalMasterAccess_canon h m write addr size data
  | tstComplete e => exact execTstComplete_canon h e
  | localTransferComplete => exact execLocalTransferComplete_canon h
  | mouldImageRead far => exact execMouldImageRead_canon h far
  | mouldStoreWaitTimeout => exact execMouldStoreWaitTimeout_canon h
  | fenceRecordRead far => exact execFenceRecordRead_canon h far
  | baseTierFailure => exact execBaseTierFailure_canon h
  | testAccessPort access => exact execTestAccessPort_canon h access

theorem step_canon : Answer.Canon (step s) := by
  unfold step
  split
  · exact .next (.tick h)
  · exact exec_canon h.parts _

end

/-- Settles O60: every command and the step without one keep `State.Canon`, which is `State.canonical` table by table. -/
theorem everyStepKeepsMemoriesCanonical : Obligations.EveryStepKeepsMemoriesCanonical := by
  unfold Obligations.EveryStepKeepsMemoriesCanonical
  intro s t hs ht
  have h := step_canon ((State.canonical_iff s).mp hs)
  rw [ht] at h
  cases h with
  | next h => exact (State.canonical_iff t).mpr h

end Sys2Proof.Machine

namespace Sys2Proof.Machine

/-! Stores that leave a store buffer for local memory (R54). -/

theorem windowAt_local {a : Nat} (h : a < 0x200000) : windowAt a = some (.loc a) := if_pos h

theorem State.busPut_local (s : State) (m n v a : Nat) : s.busPut m n v (.loc a) = (Code.ok, s.lwrite a (leBytes n v)) := rfl

theorem getElem_leBytes (n v i : Nat) (h : i < (leBytes n v).length) : (leBytes n v)[i] = BitVec.ofNat 8 (v / 256 ^ i) := by
  induction n generalizing v i with
  | zero => simp at h
  | succ n ih =>
    cases i with
    | zero => simp [leBytes]
    | succ i => simp [leBytes, ih, Nat.div_div_eq_div_mul, Nat.pow_succ']

/-- A word cut to `n` bytes has the low `n` bytes of the word. -/
theorem leBytes_mod_two_pow (n v : Nat) : leBytes n (v % 2 ^ (8 * n)) = leBytes n v := by
  rw [Nat.pow_mul]
  exact leBytes_mod n v

/-- Byte `i` of a word is the byte at bit `8 * i`. -/
theorem ofNat_div_eq_extractLsb' (d : DWord) (i : Nat) : BitVec.ofNat 8 (d.toNat / 256 ^ i) = d.extractLsb' (8 * i) 8 := by
  rw [show 256 = 2 ^ 8 from rfl, ← Nat.pow_mul, ← Nat.shiftRight_eq_div_pow]
  rfl

/-- The bytes that a store of the low `n` bytes of a word leaves in memory. -/
theorem Memory.read_writeBytes_dword (m : Memory) (a n i : Nat) (d : DWord) (h : m.wf = true) (hi : i < n) :
    (m.writeBytes a (leBytes n (d.toNat % 2 ^ (8 * n)))).read (a + i) = d.extractLsb' (8 * i) 8 := by
  rw [leBytes_mod_two_pow, Memory.read_writeBytes_inside m a _ i h (by simpa using hi), getElem_leBytes,
    ofNat_div_eq_extractLsb']

theorem State.task_onTask_same (s : State) (t : Fin 32) (f : Task → Task) :
    (s.onTask t.val f).task t.val = f (s.task t.val) := Vec.at_upd_same _ _ _ t.isLt

theorem State.task_onTask_ne (s : State) (t r : Nat) (f : Task → Task) (h : r ≠ t) : (s.onTask t f).task r = s.task r :=
  Vec.at_upd_ne _ _ _ _ h

/-- The drain of a store to local memory is the write of its bytes. -/
theorem exec_storeBufferDrain_local {s : State} {task : Fin 32} {e : StoreEntry} {es : List StoreEntry} (hrun : s.inRun = true)
    (hst : (s.task task.val).stores = e :: es) (ha : e.addr < 0x200000) :
    exec (.storeBufferDrain task) s =
      .next ((s.onTask task.val fun k => { k with stores := es }).lwrite e.addr
        (leBytes e.size (e.data.toNat % 2 ^ (8 * e.size)))) := by
  show execStoreBufferDrain task s = _
  simp only [execStoreBufferDrain, hrun, hst, windowAt_local ha, State.busPut_local]
  rfl

/-- Settles O9: the store's window is local memory, so the drain is one `lwrite`. -/
theorem storeDrainWritesMemory : Obligations.StoreDrainWritesMemory := by
  unfold Obligations.StoreDrainWritesMemory
  intro s task e es hrun hst ha _ hwf
  refine ⟨_, exec_storeBufferDrain_local hrun hst ha, State.task_onTask_same s task _, fun r hr =>
    State.task_onTask_ne s _ r _ hr, fun i hi => Memory.read_writeBytes_dword _ _ _ _ _ hwf hi, fun a hout => ?_, rfl, rfl, rfl, rfl⟩
  exact Memory.read_writeBytes_outside _ _ _ _ hwf (by simpa using hout)

end Sys2Proof.Machine

namespace Sys2Proof.Machine

/-! Which accesses are performed (R8, R400, R449, R478-R480). -/

/-- Address `a` lies in the range of this structure. -/
def Window.At.Covers (w : Window.At) (a : Nat) : Prop :=
  match w with
  | .loc _ => a < 0x200000
  | .tile _ _ => 0x2000000 ≤ a ∧ a < 0x2080000
  | .ring _ _ => 0x3000000 ≤ a ∧ a < 0x3040000
  | .credit _ _ => 0x3200000 ≤ a ∧ a < 0x3208000
  | .ctx _ _ => 0x3400000 ≤ a ∧ a < 0x3430000
  | .seq _ => 0x3800000 ≤ a ∧ a < 0x3804000
  | .reg blk o => 0x4000000 ≤ a ∧ a < 0x400E000 ∧ (a - 0x4000000) / 0x1000 = blk ∧ a % 0x1000 = o
  | _ => 0x5000000 ≤ a ∧ a < 0x5001000

theorem windowAt_covers {a : Nat} {w : Window.At} (h : windowAt a = some w) : w.Covers a := by
  by_cases ha : a < 0x200000
  · rw [windowAt_local ha] at h
    cases h
    exact ha
  · rw [windowAt, if_neg ha] at h
    simp only [Bool.and_eq_true, decide_eq_true_eq] at h
    split_ifs at h <;> cases h <;> simp only [Window.At.Covers, and_self, and_true] <;> omega

theorem windowAt_ring {a : Nat} (h : 0x3000000 ≤ a ∧ a < 0x3040000) :
    windowAt a = some (.ring ((a - 0x3000000) / 32) (a % 32)) := by
  simp only [windowAt, Bool.and_eq_true, decide_eq_true_eq]
  rw [if_neg (by omega), if_neg (by omega), if_pos h]

theorem windowAt_credit {a : Nat} (h : 0x3200000 ≤ a ∧ a < 0x3208000) :
    windowAt a = some (.credit ((a - 0x3200000) / 16) (a % 16)) := by
  simp only [windowAt, Bool.and_eq_true, decide_eq_true_eq]
  rw [if_neg (by omega), if_neg (by omega), if_neg (by omega), if_pos h]

theorem State.busHeld_iff (s : State) (m a : Nat) : s.busHeld m a = true ↔ Held s m a := by
  have hm : (!(m == 0x50 || m == 0x51 || m == 0x52)) = true ↔ m ≠ 0x50 ∧ m ≠ 0x51 ∧ m ≠ 0x52 := by simp [and_assoc]
  simp only [State.busHeld, Bool.and_eq_true, hm, Held, and_assoc]
  refine and_congr_right' (and_congr_right' (and_congr_right' (and_congr_right' ⟨fun h => ?_, fun h => ?_⟩)))
  · split at h
    · next hw => exact .inl (windowAt_covers hw)
    · next hw => exact .inr (.inl (windowAt_covers hw))
    · next hw => exact .inr (.inr (windowAt_covers hw))
    · cases h
  · rcases h with h | h | h
    · rw [windowAt_local h]
    · rw [windowAt_ring h]
    · rw [windowAt_credit h]

theorem bytes_of_sizeOk {n : Nat} (h : (n == 1 || n == 2 || n == 4 || n == 8) = true) : n = 1 ∨ n = 2 ∨ n = 4 ∨ n = 8 := by
  simpa [or_assoc] using h

/-- An access that passes the checks of the bus is permitted. -/
theorem State.permitted_of_busCheck {s : State} {m a n : Nat} {write : Bool} {w : Window.At}
    (h : s.busCheck m a n write = some w) : Permitted s m a n write := by
  unfold State.busCheck at h
  split at h
  · cases h
  · next x hx =>
    obtain ⟨hc, hw⟩ := Option.ite_none_right_eq_some.mp h
    cases hw
    simp only [Bool.and_eq_true, bne_iff_ne, beq_iff_eq, Bool.not_eq_true'] at hc
    obtain ⟨⟨⟨⟨hn, ha⟩, hsize⟩, hmay⟩, hden⟩ := hc
    refine ⟨hn, ha, ?_⟩
    have hr := windowAt_covers hx
    cases w with
    | loc _ => exact .inl ⟨hr, bytes_of_sizeOk hsize, hmay⟩
    | tile _ _ => exact .inr (.inl ⟨hr.1, hr.2, bytes_of_sizeOk hsize, by simpa [State.windowDenied] using hden, hmay⟩)
    | ring _ _ => exact .inr (.inr (.inl ⟨hr.1, hr.2, bytes_of_sizeOk hsize, hmay⟩))
    | credit _ _ => exact .inr (.inr (.inr (.inl ⟨hr.1, hr.2, bytes_of_sizeOk hsize, hmay⟩)))
    | ctx _ _ => exact .inr (.inr (.inr (.inr (.inl ⟨hr.1, hr.2, bytes_of_sizeOk hsize, hden, hmay⟩))))
    | seq _ => exact .inr (.inr (.inr (.inr (.inr (.inl ⟨hr.1, hr.2, bytes_of_sizeOk hsize, hmay⟩)))))
    | reg blk o =>
      obtain ⟨hlo, hhi, rfl, rfl⟩ := hr
      refine .inr (.inr (.inr (.inr (.inr (.inr (.inl ⟨hlo, hhi, beq_iff_eq.mp hsize, fun hw => ?_, ?_⟩))))))
      · simpa [State.windowDenied, hw] using hden
      · simpa [State.mayWindow, openToCore, and_assoc, or_assoc] using hmay
    | mbReq _ => exact .inr (.inr (.inr (.inr (.inr (.inr (.inr ⟨hr.1, hr.2, beq_iff_eq.mp hsize, bne_iff_ne.mp hmay⟩))))))
    | mbRep _ => exact .inr (.inr (.inr (.inr (.inr (.inr (.inr ⟨hr.1, hr.2, beq_iff_eq.mp hsize, bne_iff_ne.mp hmay⟩))))))
    | mbCtl _ => exact .inr (.inr (.inr (.inr (.inr (.inr (.inr ⟨hr.1, hr.2, beq_iff_eq.mp hsize, bne_iff_ne.mp hmay⟩))))))

theorem State.busCheck_eq_none {s : State} {m a n : Nat} {write : Bool} (h : ¬ Permitted s m a n write) :
    s.busCheck m a n write = none :=
  Option.eq_none_iff_forall_ne_some.mpr fun _ hw => h (State.permitted_of_busCheck hw)

/-- A permitted access of local memory is aligned, of one of the four sizes, and the table grants the right. -/
theorem Permitted.of_local {s : State} {m a n : Nat} {write : Bool} (h : Permitted s m a n write) (ha : a < 0x200000) :
    (n = 1 ∨ n = 2 ∨ n = 4 ∨ n = 8) ∧ a % n = 0 ∧ s.may m .loc write = true := by
  obtain ⟨-, hmod, hcase⟩ := h
  rcases hcase with h | h | h | h | h | h | h | h
  · exact ⟨h.2.1, hmod, h.2.2⟩
  all_goals exact absurd h.1 (by omega)

theorem State.busCheck_local {s : State} {m a n : Nat} {write : Bool} (h : Permitted s m a n write) (ha : a < 0x200000) :
    s.busCheck m a n write = some (.loc a) := by
  obtain ⟨hb, hmod, hmay⟩ := h.of_local ha
  have hsize : Window.At.sizeOk (.loc a) n = true := by simpa [Window.At.sizeOk, or_assoc] using hb
  have hn : n ≠ 0 := by omega
  simp [State.busCheck, windowAt_local ha, hn, hmod, hsize, State.mayWindow, hmay, State.windowDenied]

theorem windowAt_reg {blk o : Nat} (hb : blk < 14) (ho : o < 0x1000) :
    windowAt (0x04000000 + 0x1000 * blk + o) = some (.reg blk o) := by
  simp only [windowAt, Bool.and_eq_true, decide_eq_true_eq]
  rw [if_neg (by omega), if_neg (by omega), if_neg (by omega), if_neg (by omega), if_neg (by omega),
    if_neg (by omega), if_pos (by omega)]
  congr 2 <;> omega

theorem regAddr_toNat {blk o : Nat} (hb : blk < 14) (ho : o < 0x1000) :
    (regAddr blk o).toNat = 0x04000000 + 0x1000 * blk + o := by
  rw [regAddr, BitVec.toNat_ofNat, Nat.mod_eq_of_lt (by omega)]

theorem State.busCheck_reg {s : State} {m : Master} {blk o : Nat} {write : Bool} (h : RegOpen s m blk o write) :
    s.busCheck m.toNat (regAddr blk o).toNat 4 write = some (.reg blk o) := by
  obtain ⟨-, hb, ho, hmod, hden, hmay⟩ := h
  rw [regAddr_toNat hb ho]
  have hmod' : (0x04000000 + 0x1000 * blk + o) % 4 = 0 := by omega
  have hmayw : s.mayWindow m.toNat (.reg blk o) write = true := by
    rcases hmay with hmay | ⟨rfl, rfl, rfl, ho⟩
    · simp [State.mayWindow, hmay]
    · simpa [State.mayWindow, openToCore, or_assoc, and_assoc] using .inr ho
  have hdenw : s.windowDenied m.toNat (.reg blk o) write = false := by
    cases write with
    | false => rfl
    | true => simpa [State.windowDenied] using hden rfl
  simp [State.busCheck, windowAt_reg hb ho, hmod', Window.At.sizeOk, hmayw, hdenw]

theorem State.busHeld_reg (s : State) (m : Nat) {blk o : Nat} (hb : blk < 14) (ho : o < 0x1000) :
    s.busHeld m (regAddr blk o).toNat = false := by
  simp [State.busHeld, regAddr_toNat hb ho, windowAt_reg hb ho]

end Sys2Proof.Machine

namespace Sys2Proof.Machine

/-! What an access does once it is performed or refused. -/

theorem State.respond_eq (s : State) (m : Master) (code : Half) (data : Nat) :
    s.respond m.toNat code data = { s with resp := { master := m, status := code, data := BitVec.ofNat 64 data } } := by
  simp [State.respond]

section

variable {s : State} {m : Master}

theorem State.busHeld_eq_false {a : Nat} (h : ¬ Held s m.toNat a) : s.busHeld m.toNat a = false := by
  rw [← State.busHeld_iff] at h
  simpa using h

theorem State.masterWrite_held {a n v : Nat} (h : Held s m.toNat a) : s.masterWrite m.toNat a n v = s := by
  simp [State.masterWrite, (State.busHeld_iff s _ _).mpr h]

theorem State.masterRead_held {a n : Nat} (h : Held s m.toNat a) : s.masterRead m.toNat a n = s := by
  simp [State.masterRead, (State.busHeld_iff s _ _).mpr h]

theorem State.masterWrite_denied {a n v : Nat} (hal : s.pins.alive = true) (hh : ¬ Held s m.toNat a)
    (hp : ¬ Permitted s m.toNat a n true) :
    s.masterWrite m.toNat a n v = { s with resp := { master := m, status := Code.accessDenied, data := 0#64 } } := by
  simp [State.masterWrite, hal, State.busHeld_eq_false hh, State.busWrite, State.busCheck_eq_none hp, State.respond_eq]

theorem State.masterRead_denied {a n : Nat} (hal : s.pins.alive = true) (hh : ¬ Held s m.toNat a)
    (hp : ¬ Permitted s m.toNat a n false) :
    s.masterRead m.toNat a n = { s with resp := { master := m, status := Code.accessDenied, data := 0#64 } } := by
  simp [State.masterRead, hal, State.busHeld_eq_false hh, State.busRead, State.busCheck_eq_none hp, State.respond_eq]

theorem State.masterWrite_local {a n v : Nat} (hal : s.pins.alive = true) (hh : ¬ Held s m.toNat a)
    (hp : Permitted s m.toNat a n true) (ha : a < 0x200000) :
    s.masterWrite m.toNat a n v = (s.lwrite a (leBytes n v)).respond m.toNat Code.ok 0 := by
  simp [State.masterWrite, hal, State.busHeld_eq_false hh, State.busWrite, State.busCheck_local hp ha, State.busPut_local]

theorem State.masterRead_local {a n : Nat} (hal : s.pins.alive = true) (hh : ¬ Held s m.toNat a)
    (hp : Permitted s m.toNat a n false) (ha : a < 0x200000) :
    s.masterRead m.toNat a n =
      (s.busGet m.toNat n (.loc a)).2.2.respond m.toNat (s.busGet m.toNat n (.loc a)).1 (s.busGet m.toNat n (.loc a)).2.1 := by
  simp [State.masterRead, hal, State.busHeld_eq_false hh, State.busRead, State.busCheck_local hp ha]

/-- A write of an open register answers its status. -/
theorem State.masterWrite_reg {blk o v : Nat} (h : RegOpen s m blk o true) :
    s.masterWrite m.toNat (regAddr blk o).toNat 4 v =
      (s.put m.toNat blk o v).respond m.toNat (s.putStatus blk o v) 0 := by
  have hb := State.busCheck_reg h
  obtain ⟨hal, hblk, ho, -⟩ := h
  simp [State.masterWrite, hal, State.busHeld_reg s _ hblk ho, State.busWrite, hb, State.busPut]

/-- Of the registers only the control words of timed actions refuse a permitted write. -/
theorem State.putStatus_ok {blk o v : Nat} (h : blk ≠ 10) : s.putStatus blk o v = Code.ok := by
  simp [State.putStatus, h]

theorem State.masterRead_reg {blk o : Nat} (h : RegOpen s m blk o false) :
    s.masterRead m.toNat (regAddr blk o).toNat 4 =
      (s.regRead m.toNat blk o).2.respond m.toNat Code.ok (s.regRead m.toNat blk o).1 := by
  have hb := State.busCheck_reg h
  obtain ⟨hal, hblk, ho, -⟩ := h
  simp [State.masterRead, hal, State.busHeld_reg s _ hblk ho, State.busRead, hb, State.busGet]

/-! Local memory. -/

/-- A write that does not cross a word marks the region of its address. -/
theorem getLsbD_dirtyMask {a n : Nat} (hn : n = 1 ∨ n = 2 ∨ n = 4 ∨ n = 8) (hmod : a % n = 0) {k : Nat} (hk : k < 512) :
    (dirtyMask a n).getLsbD k = decide (k = a / 4096) := by
  have h : (a + n - 1) / 4096 = a / 4096 := by rcases hn with rfl | rfl | rfl | rfl <;> omega
  have hn0 : n ≠ 0 := by omega
  simp only [dirtyMask, hn0, if_false, h, Nat.add_sub_cancel_left]
  rw [show (2 ^ 1 - 1) <<< (a / 4096) = 2 ^ (a / 4096) from Nat.one_shiftLeft _, BitVec.getLsbD_ofNat, Nat.testBit_two_pow]
  simp [hk, eq_comm]

theorem badIn_eq_none {M : LocalMemory} {a n : Nat} (hn : n = 1 ∨ n = 2 ∨ n = 4 ∨ n = 8) (hmod : a % n = 0)
    (h : ∀ w ∈ M.bad, w ≠ a / 8) : M.badIn a n = none := by
  simp only [LocalMemory.badIn, Option.map_eq_none_iff, List.find?_eq_none]
  intro w hw
  have := h w hw
  rcases hn with rfl | rfl | rfl | rfl <;> simp <;> omega

theorem badIn_eq_some {M : LocalMemory} {a n : Nat} (hn : n = 1 ∨ n = 2 ∨ n = 4 ∨ n = 8) (hmod : a % n = 0)
    (h : a / 8 ∈ M.bad) : M.badIn a n = some (8 * (a / 8)) := by
  have hp : ∀ w, (decide (8 * w < a + n) && decide (a < 8 * w + 8)) = (w == a / 8) := by
    intro w
    rw [Bool.eq_iff_iff]
    simp only [Bool.and_eq_true, decide_eq_true_eq, beq_iff_eq]
    rcases hn with rfl | rfl | rfl | rfl <;> omega
  have hf : M.bad.find? (· == a / 8) = some (a / 8) := by
    cases hf : M.bad.find? (· == a / 8) with
    | none => exact absurd (beq_self_eq_true _) (List.find?_eq_none.mp hf _ h)
    | some w => rw [beq_iff_eq.mp (List.find?_some (p := (· == a / 8)) hf)]
  simp only [LocalMemory.badIn, hp, hf, Option.map_some]

/-- An uncorrectable word is recorded in SE_ECCADDR unless it holds an earlier one (R204). -/
theorem State.noteEcc_mem (t : State) (unit : Byte) (a : Nat) :
    (t.noteEcc unit a).mem = if t.mem.eccValid then t.mem else
      { t.mem with eccValid := true, eccAddr := BitVec.ofNat 21 (a / 8 * 8) } := by
  simp only [State.noteEcc, State.kilnRecord_frame, State.eccAddr, State.raise]
  split <;> rfl

theorem exec_externalWrite (m : Master) (addr data : DWord) (size : Nat) (s : State) :
    exec (.externalMasterAccess m true addr size data) s =
      .next (s.masterWrite m.toNat addr.toNat size (data.toNat % 2 ^ (8 * size))) := rfl

theorem exec_externalRead (m : Master) (addr data : DWord) (size : Nat) (s : State) :
    exec (.externalMasterAccess m false addr size data) s = .next (s.masterRead m.toNat addr.toNat size) := rfl

theorem externalWrite_local {addr data : DWord} {size : Nat} (hal : s.pins.alive = true) (hh : ¬ Held s m.toNat addr.toNat)
    (ha : addr.toNat < 0x200000) (hp : Permitted s m.toNat addr.toNat size true) :
    ∃ u, exec (.externalMasterAccess m true addr size data) s = .next u ∧ Answered u m 0 ∧
      u.mem.mem = s.mem.mem.writeLE addr.toNat size data.toNat ∧
      u = { s with mem := u.mem, resp := u.resp, journal := { s.journal with
        dirty0 := u.journal.dirty0, dirty1 := u.journal.dirty1 } } ∧
      (∀ k, k < 512 → u.journal.dirty0.getLsbD k = (s.journal.dirty0.getLsbD k || decide (k = addr.toNat / 4096)) ∧
        u.journal.dirty1.getLsbD k = (s.journal.dirty1.getLsbD k || decide (k = addr.toNat / 4096))) := by
  obtain ⟨hn, hmod, -⟩ := hp.of_local ha
  rw [exec_externalWrite, State.masterWrite_local hal hh hp ha, leBytes_mod_two_pow, State.respond_eq]
  refine ⟨_, rfl, rfl, rfl, rfl, fun k hk => ?_⟩
  simp [State.lwrite, getLsbD_dirtyMask hn hmod hk]

theorem externalRead_local_good {addr data : DWord} {size : Nat} (hal : s.pins.alive = true) (hh : ¬ Held s m.toNat addr.toNat)
    (ha : addr.toNat < 0x200000) (hp : Permitted s m.toNat addr.toNat size false)
    (hgood : ∀ w ∈ s.mem.bad, w ≠ addr.toNat / 8) :
    ∃ u, exec (.externalMasterAccess m false addr size data) s = .next u ∧
      Answered u m (s.mem.mem.readLE addr.toNat size) ∧ u.mem.mem = s.mem.mem ∧
      u = { s with mem := { s.mem with eccCount := u.mem.eccCount }, resp := u.resp } := by
  obtain ⟨hn, hmod, -⟩ := hp.of_local ha
  rw [exec_externalRead, State.masterRead_local hal hh hp ha, State.respond_eq]
  simp only [State.busGet, State.lread, badIn_eq_none hn hmod hgood, ← Memory.readLE_eq]
  exact ⟨_, rfl, rfl, rfl, rfl⟩

theorem externalRead_local_bad {addr data : DWord} {size : Nat} (hal : s.pins.alive = true) (hh : ¬ Held s m.toNat addr.toNat)
    (ha : addr.toNat < 0x200000) (hp : Permitted s m.toNat addr.toNat size false) (hbad : addr.toNat / 8 ∈ s.mem.bad) :
    ∃ u, exec (.externalMasterAccess m false addr size data) s = .next u ∧ u.resp.status = 0x0503#16 ∧
      u.mem.eccValid = true ∧ (s.mem.eccValid = false → u.mem.eccAddr.toNat = addr.toNat / 8 * 8) ∧ u.mem.mem = s.mem.mem ∧
      u.core = s.core := by
  obtain ⟨hn, hmod, -⟩ := hp.of_local ha
  rw [exec_externalRead, State.masterRead_local hal hh hp ha, State.respond_eq]
  simp only [State.busGet, State.lread, badIn_eq_some hn hmod hbad]
  refine ⟨_, rfl, rfl, ?_, ?_, ?_, ?_⟩
  · simp only [State.noteEcc_mem]
    split
    · assumption
    · rfl
  · intro hv
    simp only [State.noteEcc_mem, hv, Bool.false_eq_true, if_false, BitVec.toNat_ofNat]
    omega
  · simp only [State.noteEcc_mem]
    split <;> rfl
  · simp

end
end Sys2Proof.Machine

namespace Sys2Proof.Machine

/-! Registers by access code (R9, R10, R140, R174, R430). -/

theorem testBit_sub_two_pow {v p : Nat} (h : v.testBit p = true) (i : Nat) :
    (v - 2 ^ p).testBit i = (v.testBit i && decide (i ≠ p)) := by
  induction p generalizing v i with
  | zero =>
    have hv : v % 2 = 1 := by simpa using h
    cases i with
    | zero => simp; omega
    | succ i =>
      have : (v - 1) / 2 = v / 2 := by omega
      simp [Nat.testBit_succ, this]
  | succ p ih =>
    have hle : 2 ^ (p + 1) ≤ v := Nat.ge_two_pow_of_testBit h
    rw [Nat.testBit_succ] at h
    rw [Nat.pow_succ] at hle ⊢
    cases i with
    | zero => simp; omega
    | succ i =>
      have : (v - 2 ^ p * 2) / 2 = v / 2 - 2 ^ p := by omega
      rw [Nat.testBit_succ, this, ih h, Nat.testBit_succ]
      simp

/-- A register without RW1C bits takes what is written. -/
theorem State.unraised_zero (s : State) (blk o v : Nat) : s.unraised blk o 0 v = v := by
  simp [State.unraised]

/-- Of the RW1C bits written as 1, those that an event has set in the present N-cycle do not clear (R10). -/
theorem State.testBit_unraised (s : State) (blk o bits v i : Nat) :
    (s.unraised blk o bits v).testBit i =
      (v.testBit i && !(bits.testBit i && decide ((0x1000 * blk + o, i) ∈ s.raised))) := by
  unfold State.unraised
  generalize s.raised = l
  induction l generalizing v with
  | nil => simp
  | cons p l ih =>
    obtain ⟨k, j⟩ := p
    rw [List.foldl_cons, ih]
    split
    · next h =>
      simp only [Bool.and_eq_true, decide_eq_true_eq] at h
      obtain ⟨⟨rfl, hb⟩, hv⟩ := h
      rw [testBit_sub_two_pow hv]
      by_cases hi : i = j
      · subst hi; simp [hb]
      · simp [hi]
    · next h =>
      by_cases hi : (0x1000 * blk + o, i) = (k, j)
      · obtain ⟨rfl, rfl⟩ := Prod.mk.inj hi
        cases hb : bits.testBit i <;> cases hv : v.testBit i <;> simp_all
      · simp [List.mem_cons, hi]

section

variable {s : State} {m : Master}

theorem exec_registerWrite (m : Master) (addr value : Word) (s : State) :
    exec (.registerWrite m addr value) s = .next (s.masterWrite m.toNat addr.toNat 4 value.toNat) := rfl

theorem registerWrite_reg {blk o : Nat} {value : Word} (hblk : blk ≠ 10) (h : RegOpen s m blk o true) :
    exec (.registerWrite m (regAddr blk o) value) s =
      .next { s.put m.toNat blk o value.toNat with resp := { master := m, status := Code.ok, data := 0#64 } } := by
  rw [exec_registerWrite, State.masterWrite_reg h, State.putStatus_ok hblk, State.respond_eq]

theorem registerWrite_lr {value : Word} (h : RegOpen s m 8 0x008 true) :
    exec (.registerWrite m (regAddr 8 0x008) value) s = .next { s with
      marver := { s.marver with lr := value }, resp := { master := m, status := Code.ok, data := 0#64 } } := by
  have hput : s.put m.toNat 8 0x008 value.toNat = { s with marver := { s.marver with lr := value } } := by
    show s.putMv 0x008 (s.unraised 8 0x008 0 value.toNat) = _
    rw [State.unraised_zero]
    simp [State.putMv]
  rw [registerWrite_reg (by decide) h, hput]

theorem registerWrite_kfeat {value : Word} (h : RegOpen s m 0 0x010 true) :
    exec (.registerWrite m (regAddr 0 0x010) value) s =
      .next { s with resp := { master := m, status := Code.ok, data := 0#64 } } := by
  have hput : s.put m.toNat 0 0x010 value.toNat = s := rfl
  rw [registerWrite_reg (by decide) h, hput]

theorem registerWrite_mvStat {value : Word} (h : RegOpen s m 8 0x000 true) :
    ∃ u, exec (.registerWrite m (regAddr 8 0x000) value) s = .next u ∧ Answered u m 0 ∧
      (∀ i, 1 ≤ i → i < 7 → u.marver.stat.getLsbD i =
        (s.marver.stat.getLsbD i && (!value.getLsbD i || decide ((0x8000, i) ∈ s.raised)))) ∧
      u = { s with marver := { s.marver with stat := u.marver.stat }, resp := u.resp } := by
  have hput : s.put m.toNat 8 0x000 value.toNat = { s with marver := { s.marver with
      stat := s.marver.stat &&& ~~~(BitVec.ofNat 7 (s.unraised 8 0x000 0x7E value.toNat)) } } := rfl
  rw [registerWrite_reg (by decide) h, hput]
  refine ⟨_, rfl, rfl, fun i h1 h7 => ?_, rfl⟩
  have hbit : (0x7E : Nat).testBit i = true := by interval_cases i <;> rfl
  have hbits : (BitVec.ofNat 7 (s.unraised 8 0x000 0x7E value.toNat)).getLsbD i =
      (value.getLsbD i && !decide ((0x8000, i) ∈ s.raised)) := by
    rw [BitVec.getLsbD_ofNat, State.testBit_unraised, hbit]
    simp [h7, BitVec.testBit_toNat]
  rw [BitVec.getLsbD_and, BitVec.getLsbD_not, hbits]
  simp [h7]

theorem readClear_noroute (h : RegOpen s m 9 0x020 false) :
    ∃ u, exec (.readClear m (regAddr 9 0x020)) s = .next u ∧ Answered u m s.router.noroute.toNat ∧
      u = { s with router := { s.router with noroute := 0#32 }, resp := u.resp } := by
  have hr : s.regRead m.toNat 9 0x020 = (s.router.noroute.toNat, { s with router := { s.router with noroute := 0#32 } }) := by
    have h20 : s.reg64 9 0x020 = none := rfl
    have h1c : s.reg64 9 0x01C = none := rfl
    have hv : s.regView 9 0x020 = s.router.noroute.toNat := rfl
    simp [State.regRead, h20, h1c, hv, tierLatch, State.regClear]
  show ∃ u, Host.Outcome.next (s.masterRead m.toNat (regAddr 9 0x020).toNat 4) = _ ∧ _
  rw [State.masterRead_reg h, hr, State.respond_eq]
  exact ⟨_, rfl, rfl, rfl⟩

end

/-! Which registers have 64 bits (R140, R174). -/

theorem isSome_ite_some {α : Type} {c : Prop} [Decidable c] (a b : α) : (if c then some a else some b).isSome = true := by
  split <;> rfl

/-- Where a register of 64 bits stands does not depend on the state. -/
theorem State.isSome_reg64 (s t : State) (blk o : Nat) : (s.reg64 blk o).isSome = (t.reg64 blk o).isSome := by
  delta State.reg64
  dsimp only
  split
  · split <;> simp [isSome_ite_some]
  · split <;> simp [isSome_ite_some]

theorem indexed_aligned {α : Type} {base stride count o : Nat} {f : Nat → α} {v : α} (hb : base % 8 = 0) (hs : stride % 8 = 0)
    (h : (indexed base stride count o).map f = some v) : o % 8 = 0 := by
  obtain ⟨p, hp, -⟩ := Option.map_eq_some_iff.mp h
  obtain ⟨hc, -⟩ := Option.ite_none_right_eq_some.mp hp
  simp only [Bool.and_eq_true, decide_eq_true_eq, beq_iff_eq] at hc
  obtain ⟨⟨hle, hmod⟩, -⟩ := hc
  obtain ⟨c, hc⟩ := Nat.dvd_of_mod_eq_zero hmod
  obtain ⟨d, hd⟩ := Nat.dvd_of_mod_eq_zero hs
  have : o = base + 8 * (d * c) := by rw [← Nat.mul_assoc, ← hd, ← hc]; omega
  omega

/-- The lower word of a register of 64 bits stands at a multiple of 8. -/
theorem State.reg64_aligned {s : State} {blk o : Nat} {v : DWord} (h : s.reg64 blk o = some v) : o % 8 = 0 := by
  delta State.reg64 at h
  dsimp only at h
  split at h
  · split at h
    · rfl
    · rfl
    · cases h
  · split at h
    case h_8 => exact indexed_aligned rfl rfl h
    case h_13 => exact indexed_aligned rfl rfl h
    case h_18 => exact indexed_aligned rfl rfl h
    case h_20 => exact indexed_aligned rfl rfl h
    case h_21 => cases h
    all_goals rfl

theorem State.reg64_eq_none {s : State} {blk o : Nat} (h : o % 8 ≠ 0) : s.reg64 blk o = none :=
  Option.eq_none_iff_forall_ne_some.mpr fun _ hv => h (State.reg64_aligned hv)

/-- The registers of the compute tier whose words are latched (R140). -/
theorem tierLatch_iff {blk o : Nat} (hb : blk < 14) (ho : o < 0x1000) :
    tierLatch (0x04000000 + 0x1000 * blk + o) = true ↔ (2 ≤ blk ∧ blk ≤ 5) ∨ (blk = 6 ∧ o = 0x018) ∨ (blk = 9 ∧ o = 0x820) ∨
      (blk = 10 ∧ (o = 0x040 ∨ o = 0x048)) ∨ (blk = 13 ∧ o = 0x008) := by
  have h : (0x04000000 + 0x1000 * blk + o) % 2 ^ 16 = 0x1000 * blk + o := by omega
  simp only [tierLatch, h, Bool.or_eq_true, Bool.and_eq_true, decide_eq_true_eq, beq_iff_eq]
  omega

/-- A register of 64 bits of the compute tier reads zero outside RUN. -/
theorem State.reg64_tierLatch {s : State} {blk o : Nat} {v : DWord} (hrun : s.inRun = false) (hb : blk < 14) (ho : o < 0x1000)
    (hl : tierLatch (0x04000000 + 0x1000 * blk + o) = true) (h : s.reg64 blk o = some v) : v = 0#64 := by
  have hzero : ∀ x : DWord, (if s.inRun = true then some x else some 0#64) = some v → v = 0#64 := fun x hx => by
    simpa [hrun] using hx.symm
  rcases (tierLatch_iff hb ho).mp hl with ⟨h2, h5⟩ | ⟨rfl, rfl⟩ | ⟨rfl, rfl⟩ | ⟨rfl, rfl | rfl⟩ | ⟨rfl, rfl⟩
  · delta State.reg64 at h
    rw [if_pos (by simp [h2, h5])] at h
    split at h
    · exact hzero _ h
    · exact hzero _ h
    · cases h
  · exact hzero _ h
  · exact hzero _ h
  · exact hzero _ h
  · exact hzero _ h
  · exact hzero _ h

end Sys2Proof.Machine

namespace Sys2Proof.Machine

section

variable {s : State} {m : Master}

/-! The two words of a register of 64 bits. -/

/-- Outside RUN a register of the compute tier reads zero and latches nothing (log 115). -/
theorem State.regRead_lower_off (k : Nat) {blk o : Nat} (hrun : s.inRun = false)
    (hl : tierLatch (0x04000000 + 0x1000 * blk + o) = true) : s.regRead k blk o = (0, s) := by
  simp [State.regRead, hrun, hl]

theorem State.regRead_upper_off (k : Nat) {blk o : Nat} {v : DWord} (hrun : s.inRun = false)
    (hl : tierLatch (0x04000000 + 0x1000 * blk + o) = true) (h : s.reg64 blk o = some v) :
    s.regRead k blk (o + 4) = (0, s) := by
  have ha : 0x04000000 + 0x1000 * blk + (o + 4) - 4 = 0x04000000 + 0x1000 * blk + o := by omega
  simp [State.regRead, hrun, ha, hl, h]

/-- A read of a lower word latches the upper one for its master (R140). -/
theorem State.regRead_lower (k : Nat) {blk o : Nat} {v : DWord} (h : s.reg64 blk o = some v)
    (hon : s.inRun = true ∨ tierLatch (0x04000000 + 0x1000 * blk + o) = false) :
    s.regRead k blk o = ((loWord v).toNat, { s with
      latches := (latchKey k (0x04000000 + 0x1000 * blk + o), hiWord v) ::
        dropKey (latchKey k (0x04000000 + 0x1000 * blk + o)) s.latches }) := by
  have hal := State.reg64_aligned h
  have hlow : 4 ≤ o → s.reg64 blk (o - 4) = none := fun ho => State.reg64_eq_none (by omega)
  have hpass : (!s.inRun && (tierLatch (0x04000000 + 0x1000 * blk + o) || (decide (4 ≤ o) &&
      tierLatch (0x04000000 + 0x1000 * blk + o - 4) && (s.reg64 blk (o - 4)).isSome))) = false := by
    rcases hon with hon | hon
    · simp [hon]
    · by_cases ho : 4 ≤ o <;> simp [hon, ho, hlow]
  simp only [State.regRead, hpass, Bool.false_eq_true, if_false, h]

/-- The next read of the upper word returns what its master's read of the lower word latched (R140). -/
theorem State.regRead_upper (k : Nat) {blk o : Nat} {v : DWord} {w : Word} (hb : blk < 14) (ho : o + 4 < 0x1000)
    (h : s.reg64 blk o = some v)
    (hon : s.inRun = true ∨ tierLatch (0x04000000 + 0x1000 * blk + o) = false)
    (hw : findKey (latchKey k (0x04000000 + 0x1000 * blk + o)) s.latches = some w) :
    s.regRead k blk (o + 4) = (w.toNat, { s with
      latches := dropKey (latchKey k (0x04000000 + 0x1000 * blk + o)) s.latches }) := by
  have hal := State.reg64_aligned h
  have hnone : s.reg64 blk (o + 4) = none := State.reg64_eq_none (by omega)
  have ha : 0x04000000 + 0x1000 * blk + (o + 4) - 4 = 0x04000000 + 0x1000 * blk + o := by omega
  have hpass : (!s.inRun && (tierLatch (0x04000000 + 0x1000 * blk + (o + 4)) || (decide (4 ≤ o + 4) &&
      tierLatch (0x04000000 + 0x1000 * blk + (o + 4) - 4) && (s.reg64 blk (o + 4 - 4)).isSome))) = false := by
    rcases hon with hon | hon
    · simp [hon]
    · have hup : tierLatch (0x04000000 + 0x1000 * blk + (o + 4)) = false := by
        rw [← Bool.not_eq_true, tierLatch_iff hb (by omega)] at hon ⊢
        omega
      simp only [ha, hup, hon, Bool.and_false, Bool.or_self, Bool.false_and]
  unfold State.regRead
  dsimp only
  rw [if_neg (Bool.eq_false_iff.mp hpass)]
  simp only [hnone, Nat.le_add_left, if_true, Nat.add_sub_cancel, h, ha, hw]

theorem exec_upperWordLatchRead (m : Master) (addr : Word) (s : State) :
    exec (.upperWordLatchRead m addr) s = .next (s.masterRead m.toNat addr.toNat 4) := rfl

theorem upperWordLatchRead_reg {blk o d : Nat} {t : State} (h : RegOpen s m blk o false) (hr : s.regRead m.toNat blk o = (d, t)) :
    exec (.upperWordLatchRead m (regAddr blk o)) s =
      .next { t with resp := { master := m, status := Code.ok, data := BitVec.ofNat 64 d } } := by
  rw [exec_upperWordLatchRead, State.masterRead_reg h, hr, State.respond_eq]

theorem RegOpen.upper {t : State} {blk o : Nat} (h : RegOpen s m blk o false) (ho : o + 4 < 0x1000) (hp : t.pins = s.pins)
    (hg : t.gaffer = s.gaffer) : RegOpen t m blk (o + 4) false := by
  obtain ⟨hal, hb, -, hmod, -, hmay⟩ := h
  refine ⟨hp ▸ hal, hb, ho, by omega, nofun, .inl ?_⟩
  rcases hmay with hmay | ⟨hf, -⟩
  · simpa [State.may, State.entry, hg] using hmay
  · cases hf

theorem findKey_cons (k : Nat) (w : Word) (l : Latches) : findKey k ((k, w) :: l) = some w := by simp [findKey]

/-- A read of the lower word, and of the upper one after the register has counted on. -/
theorem readUpperWord {blk o : Nat} {v : DWord} (h : RegOpen s m blk o false) (ho : o + 4 < 0x1000)
    (hv : s.reg64 blk o = some v) :
    ∃ u w, exec (.upperWordLatchRead m (regAddr blk o)) s = .next u ∧ Answered u m (loWord v).toNat ∧
      u = { s with latches := u.latches, resp := u.resp } ∧
      exec (.upperWordLatchRead m (regAddr blk (o + 4))) { u with lehr := { u.lehr with lc := u.lehr.lc + 1#64 } } = .next w ∧
      Answered w m (hiWord v).toNat := by
  have hb := h.2.1
  have hsome : ∀ t : State, ∃ x, t.reg64 blk o = some x := fun t =>
    Option.isSome_iff_exists.mp (by rw [State.isSome_reg64 t s, hv]; rfl)
  by_cases hon : s.inRun = true ∨ tierLatch (0x04000000 + 0x1000 * blk + o) = false
  · have hup := fun (t : State) (hp : t.pins = s.pins) (hg : t.gaffer = s.gaffer) (hr : t.inRun = s.inRun)
        (hw : findKey (latchKey m.toNat (0x04000000 + 0x1000 * blk + o)) t.latches = some (hiWord v)) =>
      upperWordLatchRead_reg (h.upper ho hp hg)
        (State.regRead_upper m.toNat hb ho (hsome t).choose_spec (hr ▸ hon) hw)
    exact ⟨_, _, upperWordLatchRead_reg h (State.regRead_lower _ hv hon), rfl, rfl, hup _ rfl rfl rfl (findKey_cons _ _ _), rfl⟩
  · obtain ⟨hrun, hl⟩ : s.inRun = false ∧ tierLatch (0x04000000 + 0x1000 * blk + o) = true := by simpa using hon
    have hup := fun (t : State) (hp : t.pins = s.pins) (hg : t.gaffer = s.gaffer) (hr : t.inRun = s.inRun) =>
      upperWordLatchRead_reg (h.upper ho hp hg)
        (State.regRead_upper_off m.toNat (hr.trans hrun) hl (hsome t).choose_spec)
    obtain rfl := State.reg64_tierLatch hrun hb (by omega) hl hv
    exact ⟨_, _, upperWordLatchRead_reg h (State.regRead_lower_off _ hrun hl), rfl, rfl, hup _ rfl rfl rfl, rfl⟩

/-- Two words as one number. -/
theorem ofWords_eq (hi lo : Word) : ofWords hi lo = BitVec.ofNat 64 (hi.toNat * 2 ^ 32 + lo.toNat) := by
  apply BitVec.eq_of_toNat_eq
  rw [ofWords, BitVec.toNat_append, ← Nat.shiftLeft_add_eq_or_of_lt lo.isLt, Nat.shiftLeft_eq, BitVec.toNat_ofNat,
    Nat.mod_eq_of_lt (by have := hi.isLt; have := lo.isLt; omega)]

/-- MV_SEED's lower word waits for its upper one (R174). -/
theorem State.put_seedLower (t : State) (k v : Nat) :
    t.put k 8 0x020 v = { t with lowers := (0x8020, BitVec.ofNat 32 v) :: dropKey 0x8020 t.lowers } := rfl

theorem State.put_seedUpper (t : State) (k v : Nat) {lower : Word} (h : findKey 0x8020 t.lowers = some lower) :
    t.put k 8 0x024 v = { t with
      lowers := dropKey 0x8020 t.lowers
      marver := { t.marver with seed := ofWords (BitVec.ofNat 32 v) lower } } := by
  have hput : t.put k 8 0x024 v = { t with
      lowers := dropKey 0x8020 t.lowers
      marver := { t.marver with
        seed := ofWords (BitVec.ofNat 32 v) ((findKey 0x8020 t.lowers).getD (loWord ((t.reg64 8 0x020).getD 0#64))) } } := rfl
  rw [hput, h, Option.getD_some]

theorem exec_split64BitWrite (m : Master) (addr lower : Word) (s : State) :
    exec (.split64BitWrite m addr lower) s = .next (s.masterWrite m.toNat addr.toNat 4 lower.toNat) := rfl

theorem RegOpen.seedUpper {t : State} (h : RegOpen s m 8 0x020 true) (hp : t.pins = s.pins) (hg : t.gaffer = s.gaffer) :
    RegOpen t m 8 0x024 true := by
  obtain ⟨hal, -, -, -, hden, hmay⟩ := h
  refine ⟨hp ▸ hal, by decide, by decide, rfl, fun _ => hden rfl, .inl ?_⟩
  rcases hmay with hmay | ⟨-, -, hf, -⟩
  · simpa [State.may, State.entry, hg] using hmay
  · cases hf

/-- Both words of MV_SEED take effect with the write of the upper one (R174). -/
theorem writeSeed {lower upper : Word} (h : RegOpen s m 8 0x020 true) :
    ∃ u w, exec (.split64BitWrite m (regAddr 8 0x020) lower) s = .next u ∧ Answered u m 0 ∧
      u = { s with lowers := u.lowers, resp := u.resp } ∧ exec (.registerWrite m (regAddr 8 0x024) upper) u = .next w ∧
      Answered w m 0 ∧ w = { s with
        marver := { s.marver with seed := BitVec.ofNat 64 (upper.toNat * 2 ^ 32 + lower.toNat) }
        lowers := w.lowers, resp := w.resp } := by
  rw [exec_split64BitWrite, State.masterWrite_reg h, State.putStatus_ok (by decide), State.respond_eq, State.put_seedLower]
  refine ⟨_, _, rfl, rfl, rfl, registerWrite_reg (by decide) (h.seedUpper rfl rfl), rfl, ?_⟩
  rw [State.put_seedUpper _ _ _ (findKey_cons _ _ _), ofWords_eq, BitVec.ofNat_toNat, BitVec.setWidth_eq, BitVec.ofNat_toNat,
    BitVec.setWidth_eq]

/-! Counter sets, the digest table and the live bits. -/

theorem State.masterWrite_at {a blk o v : Nat} (ha : (regAddr blk o).toNat = a) (hblk : blk ≠ 10) (h : RegOpen s m blk o true) :
    s.masterWrite m.toNat a 4 v =
      { s.put m.toNat blk o v with resp := { master := m, status := Code.ok, data := 0#64 } } := by
  rw [← ha, State.masterWrite_reg h, State.putStatus_ok hblk, State.respond_eq]

/-- Counter sets with those named by the mask below `n` cleared. -/
theorem at_clearSets (sets : Vector StatSet 16) (v n i : Nat) (hi : i < 16) :
    Vec.at ((List.range n).foldl (fun w i => if bit i v then Vec.upd w i fun _ => StatSet.cleared else w) sets) i =
      if i < n ∧ v.testBit i = true then StatSet.cleared else Vec.at sets i := by
  induction n with
  | zero => simp
  | succ n ih =>
    rw [List.range_succ, List.foldl_append, List.foldl_cons, List.foldl_nil]
    by_cases hn : i = n
    · subst hn
      by_cases hv : v.testBit i = true
      · simp [bit, hv, Vec.at_upd_same _ _ _ hi]
      · rw [if_neg (show ¬ bit i v = true from hv), ih]
        simp [hv]
    · have hlt : i < n + 1 ↔ i < n := by omega
      simp only [hlt]
      rw [← ih]
      split
      · exact Vec.at_upd_ne _ _ _ _ hn
      · rfl

theorem clearCounters {mask : BitVec 16} (hrun : s.tier.state = .run) (h : RegOpen s m 13 0 true) :
    ∃ u, exec (.counterSetClear m mask) s = .next u ∧ Answered u m 0 ∧
      (∀ i, i < 16 → Vec.at u.stats.sets i = (if mask.getLsbD i then StatSet.cleared else Vec.at s.stats.sets i)) ∧
      u = { s with stats := { s.stats with sets := u.stats.sets }, resp := u.resp } := by
  have hin : s.inRun = true := by simp [State.inRun, hrun, h.1]
  have hput : s.put m.toNat 13 0 mask.toNat = { s with stats := { s.stats with
      sets := (List.range 16).foldl (fun w i => if bit i mask.toNat then Vec.upd w i fun _ => StatSet.cleared else w) s.stats.sets } } := by
    show s.putTs 0 (s.unraised 13 0 0 mask.toNat) = _
    rw [State.unraised_zero]
    exact if_pos hin
  show ∃ u, Host.Outcome.next (s.masterWrite m.toNat 0x400D000 4 mask.toNat) = _ ∧ _
  rw [State.masterWrite_at (a := 0x400D000) rfl (by decide) h, hput]
  refine ⟨_, rfl, rfl, fun i hi => ?_, rfl⟩
  rw [at_clearSets _ _ _ _ hi]
  simp [hi, BitVec.testBit_toNat]

theorem clearDigests (h : RegOpen s m 13 0x400 true) :
    ∃ u, exec (.digestClearAll m) s = .next u ∧ Answered u m 0 ∧
      u = { s with digests := { s.digests with val := [], cnt := [], logPtr := 0#32 }, resp := u.resp } := by
  have hput : s.put m.toNat 13 0x400 (0x80000000 + flag 0 s.digests.log) =
      { s with digests := { s.digests with val := [], cnt := [], logPtr := 0#32 } } := by
    show s.putTs 0x400 (s.unraised 13 0x400 0 (0x80000000 + flag 0 s.digests.log)) = _
    rw [State.unraised_zero]
    have hb : bit 31 (0x80000000 + flag 0 s.digests.log) = true ∧ bit 0 (0x80000000 + flag 0 s.digests.log) = s.digests.log := by
      cases s.digests.log <;> decide
    simp only [State.putTs, hb, if_true]
  show ∃ u, Host.Outcome.next (s.masterWrite m.toNat 0x400D400 4 (0x80000000 + flag 0 s.digests.log)) = _ ∧ _
  rw [State.masterWrite_at (a := 0x400D400) rfl (by decide) h, hput]
  exact ⟨_, rfl, rfl, rfl⟩

theorem State.put_live {k i v : Nat} (hi : i < 16) :
    s.put k 11 (0x080 + 4 * i) v = { s with journal := s.journal.putLive i v } := by
  have hput : s.put k 11 (0x080 + 4 * i) v = s.putJn (0x080 + 4 * i) (s.unraised 11 (0x080 + 4 * i) 0 v) := by
    interval_cases i <;> rfl
  rw [hput, State.unraised_zero]
  interval_cases i <;> rfl

/-- A word of 32 bits placed at word `i` of 512 bits. -/
theorem getLsbD_word {i v k : Nat} (hk : k < 512) :
    (BitVec.ofNat 512 ((v % 2 ^ 32) <<< (32 * i))).getLsbD k = (decide (k / 32 = i) && v.testBit (k % 32)) := by
  rw [BitVec.getLsbD_ofNat, Nat.testBit_shiftLeft, Nat.testBit_mod_two_pow]
  by_cases h : k / 32 = i
  · have h1 : k - 32 * i = k % 32 := by omega
    have h2 : 32 * i ≤ k := by omega
    have h3 : k % 32 < 32 := by omega
    simp [hk, h, h1, h2, h3]
  · have : ¬ (32 * i ≤ k ∧ k - 32 * i < 32) := by omega
    simp [h]
    omega

theorem getLsbD_putLive {j : Journal} {i v k : Nat} (hk : k < 512) :
    (j.putLive i v).live.getLsbD k = (if k / 32 = i then v.testBit (k % 32) else j.live.getLsbD k) := by
  have hs := getLsbD_word (i := i) (v := 0xFFFFFFFF) hk
  have hn := getLsbD_word (i := i) (v := v) hk
  have h32 : (0xFFFFFFFF : Nat).testBit (k % 32) = true := by
    rw [show 0xFFFFFFFF = 2 ^ 32 - 1 from rfl, Nat.testBit_two_pow_sub_one]
    simp only [decide_eq_true_eq]; omega
  rw [h32, Bool.and_true] at hs
  simp only [Journal.putLive, BitVec.getLsbD_or, BitVec.getLsbD_and, BitVec.getLsbD_not, hk, decide_true, Bool.true_and]
  rw [hn, show (0xFFFFFFFF : Nat) = 0xFFFFFFFF % 2 ^ 32 from rfl, hs]
  by_cases h : k / 32 = i <;> simp [h]

theorem exec_jnLiveWrite (m : Master) (i : BitVec 4) (value : Word) (s : State) :
    exec (.jnLiveWrite m i value) s = .next (s.masterWrite m.toNat (0x400B080 + 4 * i.toNat) 4 value.toNat) := rfl

theorem jnLiveWrite_word {i : BitVec 4} {value : Word} (h : RegOpen s m 11 (0x080 + 4 * i.toNat) true) :
    ∃ u, exec (.jnLiveWrite m i value) s = .next u ∧ Answered u m 0 ∧
      (∀ k, k < 512 → u.journal.live.getLsbD k =
        (if k / 32 = i.toNat then value.getLsbD (k % 32) else s.journal.live.getLsbD k)) ∧
      (∀ k, k < 512 → u.journal.dirty0.getLsbD k =
          (s.journal.dirty0.getLsbD k || (u.journal.live.getLsbD k && !s.journal.live.getLsbD k)) ∧
        u.journal.dirty1.getLsbD k =
          (s.journal.dirty1.getLsbD k || (u.journal.live.getLsbD k && !s.journal.live.getLsbD k))) ∧
      u = { s with resp := u.resp, journal := { s.journal with
        live := u.journal.live, dirty0 := u.journal.dirty0, dirty1 := u.journal.dirty1 } } := by
  have hi := i.isLt
  have ha : (regAddr 11 (0x080 + 4 * i.toNat)).toNat = 0x400B080 + 4 * i.toNat := by
    rw [regAddr_toNat (by decide) (by omega)]; omega
  have hlive := fun k hk => getLsbD_putLive (j := s.journal) (i := i.toNat) (v := value.toNat) (k := k) hk
  rw [exec_jnLiveWrite, State.masterWrite_at ha (by decide) h, State.put_live hi]
  refine ⟨_, rfl, rfl, fun k hk => by rw [hlive k hk, BitVec.testBit_toNat], fun k hk => ?_, rfl⟩
  have hnew := getLsbD_word (i := i.toNat) (v := value.toNat) hk
  dsimp only
  rw [hlive k hk]
  simp only [Journal.putLive, BitVec.getLsbD_or, BitVec.getLsbD_and, BitVec.getLsbD_not, hk, decide_true, Bool.true_and]
  rw [hnew]
  by_cases hki : k / 32 = i.toNat <;> simp [hki]

end

/-! Accesses of masters answer (R8-R10, R140, R172, R174, R401, R431, R449). -/

theorem externalAccess_denied {s : State} {m : Master} {addr data : DWord} {size : Nat} {write : Bool}
    (hal : s.pins.alive = true) (hh : ¬ Held s m.toNat addr.toNat) (hp : ¬ Permitted s m.toNat addr.toNat size write) :
    exec (.externalMasterAccess m write addr size data) s =
      .next { s with resp := { master := m, status := Code.accessDenied, data := 0#64 } } := by
  cases write with
  | true => rw [exec_externalWrite, State.masterWrite_denied hal hh hp]
  | false => rw [exec_externalRead, State.masterRead_denied hal hh hp]

theorem externalAccess_held {s : State} {m : Master} {addr data : DWord} {size : Nat} {write : Bool}
    (hh : Held s m.toNat addr.toNat) : exec (.externalMasterAccess m write addr size data) s = .next s := by
  cases write with
  | true => rw [exec_externalWrite, State.masterWrite_held hh]
  | false => rw [exec_externalRead, State.masterRead_held hh]

/-- Settles O57: a refused or held access by the checks of the bus, a performed one by the rule of its window and, for a
register, of its access code. -/
theorem accessesAnswer : Obligations.AccessesAnswer := by
  intro s m hal
  refine ⟨fun addr value hh hp => ?denied, fun addr data size write hh hp => externalAccess_denied hal hh hp,
    fun addr data size write hh => externalAccess_held hh, fun addr data size hh ha => ⟨externalWrite_local hal hh ha,
      fun hp => ⟨externalRead_local_good hal hh ha hp, externalRead_local_bad hal hh ha hp⟩⟩,
    fun value => ⟨registerWrite_lr, registerWrite_kfeat, registerWrite_mvStat⟩, readClear_noroute,
    fun blk o v h ho hv _ => readUpperWord h ho hv, fun lower upper => writeSeed, fun mask => clearCounters, clearDigests,
    fun i value => jnLiveWrite_word⟩
  case denied => rw [exec_registerWrite, State.masterWrite_denied hal hh hp]

end Sys2Proof.Machine

namespace Sys2Proof.Machine

/-! The passing of an N-cycle. -/

/-- What an N-cycle changes only by the advance of time: the queue, the cycles since reset, local memory, and the count with what
lets it advance. -/
def State.timeParts (s : State) := (s.pending, s.nc, s.mem, s.pins, s.lehr.synced, s.lehr.lc)

theorem State.timeParts_of_offLink {s u : State} (h : u.offLink = s.offLink) : u.timeParts = s.timeParts := by
  simp only [State.offLink, Prod.mk.injEq] at h
  simp [State.timeParts, h]

theorem foldl_timeParts {β : Type} (f : State → β → State) (h : ∀ s b, (f s b).timeParts = s.timeParts) (l : List β)
    (s : State) : (l.foldl f s).timeParts = s.timeParts := foldl_keeps f State.timeParts h l s

@[simp] theorem State.onTask_timeParts (s : State) (t : Nat) (f : Task → Task) : (s.onTask t f).timeParts = s.timeParts := rfl

@[simp] theorem State.performSpawn_timeParts (s : State) (t : Nat) : (s.performSpawn t).timeParts = s.timeParts := by
  unfold State.performSpawn; (repeat' split) <;> rfl

@[simp] theorem State.performSpawns_timeParts (s : State) : s.performSpawns.timeParts = s.timeParts :=
  foldl_timeParts _ State.performSpawn_timeParts _ _

@[simp] theorem State.wakeSpawners_timeParts (s : State) : s.wakeSpawners.timeParts = s.timeParts := rfl

@[simp] theorem meComplete_timeParts (s : State) (e : Fin 4) (i : Nat) (x : InFlight) :
    (meComplete s e i x).timeParts = s.timeParts := by
  simp [meComplete, State.timeParts]

@[simp] theorem mePass_timeParts (e : Fin 4) (n : Nat) (s : State) : (mePass e n s).timeParts = s.timeParts := by
  induction n generalizing s with
  | zero => rfl
  | succ n ih =>
    unfold mePass
    split
    · rfl
    · rw [ih, meComplete_timeParts]; split <;> rfl

@[simp] theorem State.passTokens_timeParts (s : State) : s.passTokens.timeParts = s.timeParts :=
  foldl_timeParts _ (fun s e => mePass_timeParts e _ s) _ _

@[simp] theorem State.gainId_timeParts (s : State) (id : Nat) : (s.gainId id).timeParts = s.timeParts := by
  unfold State.gainId; dsimp only; split <;> rfl

@[simp] theorem State.helloAgain_timeParts (s : State) : s.helloAgain.timeParts = s.timeParts :=
  State.timeParts_of_offLink s.helloAgain_offLink

@[simp] theorem State.updateId_timeParts (s : State) (epoch : Half) : (s.updateId epoch).timeParts = s.timeParts := by
  unfold State.updateId; dsimp only
  (repeat' split) <;> simp <;> simp [State.timeParts]

@[simp] theorem State.fireRemap_timeParts (s : State) (a : Nat) : (s.fireRemap a).timeParts = s.timeParts := by
  simp [State.fireRemap, State.remapApply]; rfl

@[simp] theorem State.dueRemaps_timeParts (s : State) : s.dueRemaps.timeParts = s.timeParts :=
  (foldl_timeParts _ (fun s p => by split <;> simp) _ _).trans rfl

@[simp] theorem State.noteThrottle_timeParts (s : State) : s.noteThrottle.timeParts = s.timeParts := by
  unfold State.noteThrottle; split <;> rfl

/-- The start of a beat advances the count while it is synchronised, outside TEST_MODE (R272, R277). -/
theorem State.beatStart_timeParts (s : State) : s.beatStart.timeParts =
    (s.pending, s.nc, s.mem, s.pins, s.lehr.synced,
      if s.lehr.synced && !s.pins.testMode then s.lehr.lc + 1#64 else s.lehr.lc) := by
  simp only [State.beatStart, State.noteThrottle_timeParts, State.dueRemaps_timeParts, State.passTokens_timeParts]
  rfl

/-- An N-cycle up to the start of a beat: ports train, link credits go back, the ring controller's command is done, and SPAWNs are
performed (R14, R51, R244, R309, R325). -/
def State.cycleSettled (s : State) : State :=
  let t := { s with nc := s.nc + 1, raised := [] }.trainPorts.returnCredits.ringIdle
  if t.inRun && !t.resting then t.wakeSpawners.performSpawns else t

theorem State.tick_of_alive (s : State) (ha : s.pins.alive = true) :
    s.tick = if s.cycleSettled.nc % 2 = 0 then s.cycleSettled.beatStart else s.cycleSettled := by
  simp only [State.tick, ha, Bool.not_true, Bool.false_eq_true, if_false]
  rfl

theorem State.cycleSettled_timeParts (s : State) :
    s.cycleSettled.timeParts = (s.pending, s.nc + 1, s.mem, s.pins, s.lehr.synced, s.lehr.lc) := by
  have hidle : { s with nc := s.nc + 1, raised := [] }.trainPorts.returnCredits.ringIdle.timeParts =
      (s.pending, s.nc + 1, s.mem, s.pins, s.lehr.synced, s.lehr.lc) :=
    State.timeParts_of_offLink (s := { s with nc := s.nc + 1, raised := [] })
      (u := { s with nc := s.nc + 1, raised := [] }.trainPorts.returnCredits)
      (by rw [State.returnCredits_offLink, State.trainPorts_offLink])
  unfold State.cycleSettled
  dsimp only
  split
  · rw [State.performSpawns_timeParts, State.wakeSpawners_timeParts, hidle]
  · exact hidle

/-- An N-cycle of a cluster that is awake: `nc` advances, and with every second one a synchronised count (R14, R272, R277). -/
theorem State.tick_timeParts (s : State) (ha : s.pins.alive = true) :
    s.tick.timeParts = (s.pending, s.nc + 1, s.mem, s.pins, s.lehr.synced,
      if (s.nc + 1) % 2 = 0 ∧ s.lehr.synced ∧ s.pins.testMode = false then s.lehr.lc + 1#64 else s.lehr.lc) := by
  have hsettled := s.cycleSettled_timeParts
  simp only [State.timeParts, Prod.mk.injEq] at hsettled
  obtain ⟨hp, hn, hm, hpins, hsync, hlc⟩ := hsettled
  rw [State.tick_of_alive s ha, hn]
  split
  case isTrue hbeat => rw [State.beatStart_timeParts]; simp [hp, hn, hm, hpins, hsync, hlc, hbeat]
  case isFalse hbeat => simp [State.timeParts, hp, hn, hm, hpins, hsync, hlc, hbeat]

theorem step_of_pending_nil (s : State) (h : s.pending = []) : step s = .next s.tick := by simp [step, h]

/-- Settles O2: the step is a tick, of which `State.tick_timeParts` states these parts. -/
theorem emptyQueuePassesTime : Obligations.EmptyQueuePassesTime := by
  unfold Obligations.EmptyQueuePassesTime
  intro s hp ha
  have h := s.tick_timeParts ha
  simp only [State.timeParts, Prod.mk.injEq] at h
  obtain ⟨hpending, hnc, hmem, _, _, hlc⟩ := h
  exact ⟨s.tick, step_of_pending_nil s hp, hnc, hpending.trans hp, hmem, hlc⟩

/-! The state after reset. -/

theorem Memory.readLE_nil (a n : Nat) : Memory.readLE [] a n = 0 := by
  induction n generalizing a with
  | zero => rfl
  | succ n ih => simp [Memory.readLE, ih]

theorem State.reset_ring_closed (t : Nat) : (State.reset.ring t).state = RingState.closed := by
  have h (o n : Nat) : State.reset.ringFld t o n = 0 := Memory.readLE_nil _ _
  simp [State.ring, h, fld, RingState.closed]

/-- Settles O3: the fields by evaluation, a ring's state by reading the empty ring store. -/
theorem resetValues : Obligations.ResetValues := by
  unfold Obligations.ResetValues
  have hentry : entryValid 0#12 = false := by decide
  exact ⟨rfl, rfl, rfl, rfl, rfl, fun _ => rfl, fun t _ => State.reset_ring_closed t, fun _ _ => rfl, rfl, rfl, rfl, rfl, rfl,
    rfl, rfl, by decide, fun _ _ => hentry, rfl, rfl, rfl, rfl, rfl, rfl⟩

end Sys2Proof.Machine

namespace Sys2Proof.Machine

/-! What a command of the engine behind queue `q` leaves: a matrix engine for `q` below 4, the vector engine for 4. -/

/-- The parts of the state that a command of the engine behind queue `q` never changes. -/
def State.offEngine (q : Nat) (s : State) :=
  (s.se, s.far, s.rings, s.sched, s.lehr, s.router, s.marver, s.tier, s.pins, s.core.tasks, s.core.imem,
    (fun j => if j = q then none else some (s.queue j) : Nat → Option EngineQueue),
    (fun j => if j = q then none else some (s.me j) : Nat → Option MatrixEngine), if q = 4 then none else some s.ve)

section
variable (q : Nat) (s : State)

@[simp] theorem State.onQueue_offEngine (f : EngineQueue → EngineQueue) : (s.onQueue q f).offEngine q = s.offEngine q := by
  have h (j : Nat) (hj : j ≠ q) : (s.onQueue q f).queue j = s.queue j := Vec.at_upd_ne _ _ _ _ hj
  simp only [State.offEngine, Prod.mk.injEq]
  refine ⟨rfl, rfl, rfl, rfl, rfl, rfl, rfl, rfl, rfl, rfl, rfl, funext fun j => ?_, rfl, rfl⟩
  split
  · rfl
  · rename_i hj; rw [h j hj]

@[simp] theorem State.onMe_offEngine (f : MatrixEngine → MatrixEngine) : (s.onMe q f).offEngine q = s.offEngine q := by
  have h (j : Nat) (hj : j ≠ q) : (s.onMe q f).me j = s.me j := Vec.at_upd_ne _ _ _ _ hj
  simp only [State.offEngine, Prod.mk.injEq]
  refine ⟨rfl, rfl, rfl, rfl, rfl, rfl, rfl, rfl, rfl, rfl, rfl, rfl, funext fun j => ?_, rfl⟩
  split
  · rfl
  · rename_i hj; rw [h j hj]

@[simp] theorem State.onVe_offEngine (f : VectorEngine → VectorEngine) : (s.onVe f).offEngine 4 = s.offEngine 4 := rfl

/-- An update that leaves every unit but local memory, the statistics, the digests, the journal and the Gaffer. -/
theorem State.offEngine_of_units {q : Nat} {s u : State} (hcore : u.core = s.core) (hengines : u.engines = s.engines) (hve : u.ve = s.ve)
    (hse : u.se = s.se) (hfar : u.far = s.far) (hrings : u.rings = s.rings) (hsched : u.sched = s.sched)
    (hlehr : u.lehr = s.lehr) (hrouter : u.router = s.router) (hmarver : u.marver = s.marver) (htier : u.tier = s.tier)
    (hpins : u.pins = s.pins) : u.offEngine q = s.offEngine q := by
  simp only [State.offEngine, State.queue, State.me, hcore, hengines, hve, hse, hfar, hrings, hsched, hlehr, hrouter, hmarver,
    htier, hpins]

@[simp] theorem State.raise_offEngine (b o i : Nat) : (s.raise b o i).offEngine q = s.offEngine q := rfl
@[simp] theorem State.raiseIf_offEngine (c : Bool) (b o i : Nat) : (s.raiseIf c b o i).offEngine q = s.offEngine q := by
  apply State.offEngine_of_units <;> simp
@[simp] theorem State.post_offEngine (c : Half) (b : Byte) (d : List Nat) : (s.post c b d).offEngine q = s.offEngine q := by
  apply State.offEngine_of_units <;> simp
@[simp] theorem State.kilnRecord_offEngine (c : Half) (b : Byte) (d : List Nat) :
    (s.kilnRecord c b d).offEngine q = s.offEngine q := by
  apply State.offEngine_of_units <;> simp
@[simp] theorem State.noteEcc_offEngine (u : Byte) (a : Nat) : (s.noteEcc u a).offEngine q = s.offEngine q := by
  apply State.offEngine_of_units <;> simp
@[simp] theorem State.lwrite_offEngine (a : Nat) (bs : List Byte) : (s.lwrite a bs).offEngine q = s.offEngine q := by
  apply State.offEngine_of_units <;> simp
@[simp] theorem State.foldDigest_offEngine (e o : Nat) (d : DWord) (n : Word) :
    (s.foldDigest e o d n).offEngine q = s.offEngine q := by
  apply State.offEngine_of_units <;> simp
@[simp] theorem State.lread_offEngine (a n : Nat) : (s.lread a n).2.2.offEngine q = s.offEngine q := rfl
@[simp] theorem State.take_offEngine (c : QueueCmd) : (s.take q c).offEngine q = s.offEngine q := by
  simp [State.take]
@[simp] theorem State.complete_offEngine (n : Word) : (s.complete q n).offEngine q = s.offEngine q := by
  simp [State.complete]
@[simp] theorem State.completeIf_offEngine (o : Option Word) : (s.completeIf q o).offEngine q = s.offEngine q := by
  cases o <;> simp [State.completeIf]
@[simp] theorem State.stopQueue_offEngine (c : Half) (o : Nat) (n : Word) (d : Option (List Nat)) :
    (s.stopQueue q c o n d).offEngine q = s.offEngine q := by
  simp [State.stopQueue]
@[simp] theorem State.stopIf_offEngine (c : Half) (o : Nat) (n : Word) (b : Bool) (d : Option (List Nat)) :
    (s.stopIf q c o n b d).offEngine q = s.offEngine q := by
  unfold State.stopIf; split <;> simp
@[simp] theorem State.takeFault_offEngine (c : QueueCmd) (code : Half) (d : Option (List Nat)) :
    (s.takeFault q c code d).offEngine q = s.offEngine q := by
  simp [State.takeFault]
end

end Sys2Proof.Machine

namespace Sys2Proof.Machine

/-! Taking a command of a matrix engine. -/

section
variable {q : Nat} {e : Fin 4} {s u : State}

theorem State.lread_offEngine_of_eq {a n : Nat} {bs : List Byte} {w : Option Nat} (h : s.lread a n = (bs, w, u)) :
    u.offEngine q = s.offEngine q := by
  have := s.lread_offEngine q a n
  rwa [h] at this

theorem takeRead_offEngine {unit : Byte} {a n : Nat} {code : Option Half} {bs : List Byte}
    (h : takeRead s unit a n = (code, bs, u)) : u.offEngine q = s.offEngine q := by
  unfold takeRead at h
  split at h
  · cases h; rfl
  · split at h <;> rename_i hr <;> cases h <;> simp [State.lread_offEngine_of_eq hr]

@[simp] theorem meStart_offEngine (c : QueueCmd) (op : MeOp) (f : MatrixEngine → MatrixEngine) :
    (meStart s e c op f).offEngine e = s.offEngine e := by
  simp [meStart]

@[simp] theorem meTileFault_offEngine (c : QueueCmd) (code : Half) (t : Nat) :
    (meTileFault s e c code t).offEngine e = s.offEngine e := by
  simp [meTileFault]

@[simp] theorem meFault_offEngine (c : QueueCmd) (code : Half) (t : Nat) :
    (meFault s e c code t).offEngine e = s.offEngine e := by
  unfold meFault; split <;> simp

@[simp] theorem meStartArray_offEngine (c : QueueCmd) (op : MeOp) :
    (meStartArray s e c op).offEngine e = s.offEngine e := by
  simp [meStartArray]

/-- Taking a command leaves what its own operation leaves. -/
theorem meTake_offEngine (o : Nat) {f : QueueCmd → State} (hf : ∀ c, (f c).offEngine e = s.offEngine e) :
    (meTake s e o f).offEngine e = s.offEngine e := by
  unfold meTake; (repeat' split) <;> simp [hf]

theorem takeTcfg_offEngine (c : QueueCmd) : (takeTcfg s e c).offEngine e = s.offEngine e := by
  unfold takeTcfg; dsimp only
  (repeat' split) <;> simp
  all_goals rename_i h; exact takeRead_offEngine h

theorem takeTrel_offEngine (c : QueueCmd) : (takeTrel s e c).offEngine e = s.offEngine e := by
  unfold takeTrel; dsimp only; (repeat' split) <;> simp

theorem takeTileMove_offEngine (c : QueueCmd) (b : Bool) : (takeTileMove s e c b).offEngine e = s.offEngine e := by
  unfold takeTileMove; split <;> simp

theorem takeLdw_offEngine (c : QueueCmd) : (takeLdw s e c).offEngine e = s.offEngine e := by
  unfold takeLdw; dsimp only
  (repeat' split) <;> simp
  all_goals rename_i h; exact takeRead_offEngine h

theorem takeSwap_offEngine (c : QueueCmd) : (takeSwap s e c).offEngine e = s.offEngine e := by
  unfold takeSwap; dsimp only; (repeat' split) <;> simp

theorem takeMm_offEngine (c : QueueCmd) : (takeMm s e c).offEngine e = s.offEngine e := by
  unfold takeMm; dsimp only; split <;> simp

theorem readBias_offEngine {unit : Byte} {ocd : List Byte} {n : Nat} {code : Option Half} {bias : Option (List Word)}
    (h : readBias s unit ocd n = (code, bias, u)) : u.offEngine q = s.offEngine q := by
  unfold readBias at h
  split at h
  · cases h; rfl
  · split at h <;> rename_i hr <;> cases h <;> exact takeRead_offEngine hr

theorem takeMms_offEngine (c : QueueCmd) : (takeMms s e c).offEngine e = s.offEngine e := by
  unfold takeMms; dsimp only
  split
  · rfl
  split
  · simp
  split
  · rename_i h; simp [takeRead_offEngine h]
  rename_i hagd
  split
  · rename_i h; simp [takeRead_offEngine h, takeRead_offEngine hagd]
  rename_i hocd
  split <;> rename_i hbias <;>
    simp [readBias_offEngine hbias, takeRead_offEngine hocd, takeRead_offEngine hagd]

theorem acvtRead_offEngine {c : QueueCmd} {seed : DWord} {stp hid : Word} {r : Except (Half × Bool) (AcvtCmd × DWord)}
    (h : acvtRead s e c seed stp hid = (r, u)) : u.offEngine q = s.offEngine q := by
  unfold acvtRead at h; dsimp only at h
  split at h
  · cases h; rfl
  split at h <;> rename_i hocd
  · cases h; exact takeRead_offEngine hocd
  split at h <;> rename_i hbias <;> cases h <;> exact (readBias_offEngine hbias).trans (takeRead_offEngine hocd)

theorem takeAcvt_offEngine (c : QueueCmd) : (takeAcvt s e c).offEngine e = s.offEngine e := by
  unfold takeAcvt
  split
  · simp
  split <;> rename_i h
  · split <;> simp [acvtRead_offEngine h]
  · simp [acvtRead_offEngine h]

/-! The matrix engines at work. -/

@[simp] theorem meComplete_offEngine (i : Nat) (x : InFlight) : (meComplete s e i x).offEngine e = s.offEngine e := by
  simp [meComplete]

@[simp] theorem meStop_offEngine (i : Nat) (x : InFlight) (code : Half) (t : Option Nat) (d : Option (List Nat)) :
    (meStop s e i x code t d).offEngine e = s.offEngine e := by
  simp [meStop]

@[simp] theorem mePoolStop_offEngine (i : Nat) (x : InFlight) (t a : Nat) :
    (mePoolStop s e i x t a).offEngine e = s.offEngine e := by
  simp [mePoolStop]

@[simp] theorem meWarnRow_offEngine (t r : Nat) : (meWarnRow s e t r).offEngine e = s.offEngine e := by
  simp [meWarnRow]

@[simp] theorem State.meLost_offEngine : (s.meLost e).offEngine e = s.offEngine e := s.onMe_offEngine e _

/-- A progress step leaves what its own operation leaves. -/
theorem meRun_offEngine (k : MeOp → Bool) {f : Nat → InFlight → State} (hf : ∀ i x, (f i x).offEngine e = s.offEngine e) :
    (meRun s e k f).offEngine e = s.offEngine e := by
  unfold meRun; (repeat' split) <;> simp [hf]

@[simp] theorem tcfgCheck_offEngine (i : Nat) (x : InFlight) (m : Word) (l : List Word) :
    (tcfgCheck s e i x m l).offEngine e = s.offEngine e := by
  unfold tcfgCheck; dsimp only; (repeat' split) <;> simp

theorem execTcfgApply_offEngine (h : execTcfgApply e s = .next u) : u.offEngine e = s.offEngine e := by
  unfold execTcfgApply at h; dsimp only at h
  cases h
  (repeat' split) <;> simp
  all_goals rename_i h; exact takeRead_offEngine h

theorem tldRow_offEngine (i : Nat) (x : InFlight) (c : TileMove) (done : Nat) :
    (tldRow s e i x c done).offEngine e = s.offEngine e := by
  unfold tldRow
  split
  · rfl
  split <;> rename_i h
  · simp [State.lread_offEngine_of_eq h]
  · dsimp only; split <;> simp [State.lread_offEngine_of_eq h]

theorem acvtRow_offEngine (i : Nat) (x : InFlight) (c : AcvtCmd) (h : Nat) (rows : List (List Byte)) (row : Nat) (crc : DWord) :
    (acvtRow s e i x c h rows row crc).offEngine e = s.offEngine e := by
  unfold acvtRow; dsimp only
  (repeat' split) <;> simp [meFold]

theorem tstRows_offEngine {c : TileMove} {t : TileShape} {n k : Nat} {r : Option Nat}
    (h : tstRows s e c t n k = (u, r)) : u.offEngine e = s.offEngine e := by
  induction n generalizing s k with
  | zero => cases h; rfl
  | succ n ih =>
    unfold tstRows at h; dsimp only at h
    split at h
    · simpa using ih h
    split at h
    · cases h; rfl
    · simpa using ih h

@[simp] theorem ldwFail_offEngine (c : LdwCmd) (done : Nat) : (ldwFail s e c done).offEngine e = s.offEngine e := by
  unfold ldwFail; split
  · simp
  · exact s.onMe_offEngine e _

@[simp] theorem ldwRow_offEngine (i : Nat) (x : InFlight) (c : LdwCmd) (done : Nat) :
    (ldwRow s e i x c done).offEngine e = s.offEngine e := by
  unfold ldwRow; dsimp only
  split
  · rfl
  split
  · simp
  · (repeat' split) <;> simp

theorem ldwStart_offEngine (i : Nat) (x : InFlight) (c : LdwCmd) (a done : Nat) :
    (ldwStart s e i x c a done).offEngine e = s.offEngine e := by
  unfold ldwStart
  split <;> rename_i h <;> simp [takeRead_offEngine h]

theorem streamRead_offEngine {unit : Byte} {a n : Nat} {r : Got (List Byte)} (h : streamRead s unit a n = (r, u)) :
    u.offEngine q = s.offEngine q := by
  unfold streamRead at h
  split at h
  · cases h; rfl
  split at h
  · cases h; rfl
  split at h <;> rename_i hr <;> cases h <;> simp [State.lread_offEngine_of_eq hr]

theorem readElems_offEngine {unit : Byte} {ty : Nat} {l : List (Option Nat)} {r : Got (List FVal)}
    (h : readElems s unit ty l = (r, u)) : u.offEngine q = s.offEngine q := by
  induction l generalizing s r with
  | nil => cases h; rfl
  | cons o rest ih =>
    cases o with
    | none =>
      unfold readElems at h
      split at h
      · rename_i hr; cases h; exact ih hr
      · exact ih h
    | some a =>
      unfold readElems at h
      split at h <;> rename_i hs
      · cases h; exact streamRead_offEngine hs
      · split at h
        · rename_i hr; cases h; exact (ih hr).trans (streamRead_offEngine hs)
        · exact (ih h).trans (streamRead_offEngine hs)

theorem tileInput_offEngine {cls : ClassTag} {b : Bool} {t r o : Nat} {v : Except Nat (List FVal)}
    (h : tileInput s e cls b t r o = (v, u)) : u.offEngine e = s.offEngine e := by
  unfold tileInput at h; dsimp only at h
  split at h
  · cases h; rfl
  split at h <;> cases h <;> simp

theorem memInput_offEngine {unit : Byte} {a : AgdCmd} {cls : ClassTag} {b : Bool} {m : Nat} {v : Got (List FVal)}
    (h : memInput s unit a cls b m = (v, u)) : u.offEngine q = s.offEngine q := by
  unfold memInput at h; dsimp only at h
  split at h
  · split at h <;> rename_i hs
    · cases h; exact streamRead_offEngine hs
    split at h
    · split at h <;> rename_i hsc <;> cases h <;> exact (streamRead_offEngine hsc).trans (streamRead_offEngine hs)
    · cases h; exact streamRead_offEngine hs
  · exact readElems_offEngine h

theorem mmRow_offEngine (i : Nat) (x : InFlight) (c : MmCmd) (cls : ClassTag) (done : Nat) :
    (mmRow s e i x c cls done).offEngine e = s.offEngine e := by
  unfold mmRow; dsimp only
  split <;> rename_i h
  · simp [tileInput_offEngine h]
  · split <;> simp [tileInput_offEngine h]

@[simp] theorem mmsStop_offEngine (i : Nat) (x : InFlight) (c : MmsCmd) (cls : ClassTag) (code : Half)
    (d : Option (List Nat)) : (mmsStop s e i x c cls code d).offEngine e = s.offEngine e := by
  simp [mmsStop]

theorem mmsInit_offEngine {c : MmsCmd} {cls : ClassTag} {m : Nat} {v : Got (List FVal)}
    (h : mmsInit s e c cls m = (v, u)) : u.offEngine q = s.offEngine q := by
  unfold mmsInit at h; dsimp only at h
  split at h
  · cases h; rfl
  split at h <;> rename_i hs <;> cases h <;> exact streamRead_offEngine hs

theorem mmsInput_offEngine {c : MmsCmd} {cls : ClassTag} {k : Nat} {v : Except (Half × Option (List Nat) ⊕ Nat) (List FVal)}
    (h : mmsInput s e c cls k = (v, u)) : u.offEngine e = s.offEngine e := by
  unfold mmsInput at h
  split at h
  · split at h <;> rename_i hs <;> cases h <;> exact tileInput_offEngine hs
  · split at h <;> rename_i hs <;> cases h <;> exact memInput_offEngine hs

theorem mmsFetch_offEngine {c : MmsCmd} {cls : ClassTag} {n k : Nat} {rows : List (List FVal)}
    {v : Except (Half × Option (List Nat) ⊕ Nat) (List (List FVal))}
    (h : mmsFetch s e c cls n k rows = (v, u)) : u.offEngine e = s.offEngine e := by
  induction n generalizing s k rows with
  | zero => cases h; rfl
  | succ n ih =>
    unfold mmsFetch at h
    split at h <;> rename_i hs
    · cases h; exact mmsInput_offEngine hs
    · exact (ih h).trans (by simp [mmsInput_offEngine hs])

theorem mmsRow_offEngine (i : Nat) (x : InFlight) (c : MmsCmd) (cls : ClassTag) (done g h : Nat) (crc : DWord)
    (ahead : List (List FVal)) : (mmsRow s e i x c cls done g h crc ahead).offEngine e = s.offEngine e := by
  unfold mmsRow; dsimp only
  split <;> rename_i hf
  · simp [mmsFetch_offEngine hf]
  · simp [mmsFetch_offEngine hf]
  · split <;> rename_i hi <;> simp [mmsPut, mmsInit_offEngine hi, mmsFetch_offEngine hf]

/-! The group check. -/

@[simp] theorem writeRows_offEngine (d t : Nat) (l : List (List Byte)) (k : Nat) :
    (writeRows s d t l k).offEngine q = s.offEngine q := by
  induction l generalizing s k with
  | nil => rfl
  | cons r l ih => simp [writeRows, ih]

@[simp] theorem adjWrite_offEngine (o : OcdCmd) (g h : Nat) : (adjWrite s o g h).offEngine q = s.offEngine q := by
  unfold adjWrite; split <;> simp

@[simp] theorem groupStats_offEngine (o : OcdCmd) (c : Counts) (h : Nat) : (groupStats s o c h).offEngine q = s.offEngine q := by
  simp only [groupStats, State.raiseIf_offEngine]; rfl

theorem mmsCheck_offEngine (i : Nat) (x : InFlight) (c : MmsCmd) (cls : ClassTag) (done g h : Nat) (crc : DWord)
    (ahead : List (List FVal)) : (mmsCheck s e i x c cls done g h crc ahead).offEngine e = s.offEngine e := by
  unfold mmsCheck; dsimp only
  split
  · simp
  split
  · simp
  split <;> simp [meFold]

@[simp] theorem acvtCheck_offEngine (i : Nat) (x : InFlight) (c : AcvtCmd) (h : Nat) (crc : DWord) :
    (acvtCheck s e i x c h crc).offEngine e = s.offEngine e := by
  unfold acvtCheck; dsimp only
  generalize (if c.f64 then Fmt.fp64 else Fmt.fp32) = f
  split
  · simp
  split <;> simp [meFold]

theorem acvtStart_offEngine (i : Nat) (x : InFlight) (l : List DWord) (seed : DWord) (stp hid : Word) :
    (acvtStart s e i x l seed stp hid).offEngine e = s.offEngine e := by
  unfold acvtStart; dsimp only
  split <;> rename_i h <;> simp [acvtRead_offEngine h]

/-! The progress steps. -/

theorem execTileRowWriteComplete_offEngine (h : execTileRowWriteComplete e s = .next u) : u.offEngine e = s.offEngine e := by
  cases h
  refine meRun_offEngine _ fun i x => ?_
  split
  · exact tldRow_offEngine ..
  · exact acvtRow_offEngine ..
  · rfl

theorem execTstComplete_offEngine (h : execTstComplete e s = .next u) : u.offEngine e = s.offEngine e := by
  cases h
  refine meRun_offEngine _ fun i x => ?_
  (repeat' split) <;> try rfl
  all_goals rename_i h; simp [tstRows_offEngine h]

theorem execStationaryRowWrite_offEngine (h : execStationaryRowWrite e s = .next u) : u.offEngine e = s.offEngine e := by
  cases h
  refine meRun_offEngine _ fun i x => ?_
  split
  · split
    · exact ldwStart_offEngine ..
    · simp
  · rfl

theorem execAccumulatorRowWrite_offEngine (h : execAccumulatorRowWrite e s = .next u) : u.offEngine e = s.offEngine e := by
  cases h
  refine meRun_offEngine _ fun i x => ?_
  split
  · exact mmRow_offEngine ..
  · exact mmsRow_offEngine ..
  · rfl

theorem execSaturationCheck_offEngine (h : execSaturationCheck e s = .next u) : u.offEngine e = s.offEngine e := by
  cases h
  refine meRun_offEngine _ fun i x => ?_
  split
  · exact mmsCheck_offEngine ..
  · exact acvtStart_offEngine ..
  · exact acvtCheck_offEngine ..
  · rfl

/-- A command of matrix engine `e` leaves what lies off the engine. -/
theorem exec_matrix_offEngine {c : Instr} (h : exec c s = .next u)
    (hc : c ∈ [.tld e, .tst e, .tcfg e, .trel e, .ldw e, .swap e, .mm e, .mms e, .acvt e, .tileRowWriteComplete e, .tstComplete e,
      .tcfgApply e, .stationaryRowWrite e, .swapTokenEntry e, .accumulatorRowWrite e, .saturationCheck e]) :
    u.offEngine e = s.offEngine e := by
  simp only [List.mem_cons, List.not_mem_nil, or_false] at hc
  rcases hc with rfl | rfl | rfl | rfl | rfl | rfl | rfl | rfl | rfl | rfl | rfl | rfl | rfl | rfl | rfl | rfl
  · cases h; exact meTake_offEngine _ fun c => takeTileMove_offEngine c false
  · cases h; exact meTake_offEngine _ fun c => takeTileMove_offEngine c true
  · cases h; exact meTake_offEngine _ takeTcfg_offEngine
  · cases h; exact meTake_offEngine _ takeTrel_offEngine
  · cases h; exact meTake_offEngine _ takeLdw_offEngine
  · cases h; exact meTake_offEngine _ takeSwap_offEngine
  · cases h; exact meTake_offEngine _ takeMm_offEngine
  · cases h; exact meTake_offEngine _ takeMms_offEngine
  · cases h; exact meTake_offEngine _ takeAcvt_offEngine
  · exact execTileRowWriteComplete_offEngine h
  · exact execTstComplete_offEngine h
  · exact execTcfgApply_offEngine h
  · exact execStationaryRowWrite_offEngine h
  · cases h; exact meRun_offEngine _ fun i x => s.onMe_offEngine e _
  · exact execAccumulatorRowWrite_offEngine h
  · exact execSaturationCheck_offEngine h
end
end Sys2Proof.Machine

namespace Sys2Proof.Machine

/-! The vector engine. -/

section
variable {s u : State}

@[simp] theorem veFault_offEngine (c : QueueCmd) (code : Half) : (veFault s c code).offEngine 4 = s.offEngine 4 := by
  simp [veFault]

@[simp] theorem veStart_offEngine (c : QueueCmd) : (veStart s c).offEngine 4 = s.offEngine 4 := by
  simp [veStart]

@[simp] theorem veCheck_offEngine (c : QueueCmd) (b : Bool) (v : VCmd) : (veCheck s c b v).offEngine 4 = s.offEngine 4 := by
  unfold veCheck; (repeat' split) <;> simp

/-- Taking a command leaves what its own checks leave. -/
theorem veTake_offEngine (o : Nat) {f : QueueCmd → State} (hf : ∀ c, (f c).offEngine 4 = s.offEngine 4) :
    (veTake s o f).offEngine 4 = s.offEngine 4 := by
  unfold veTake; (repeat' split) <;> simp [hf]

/-- A fold of steps that keep what lies off an engine keeps it. -/
theorem foldl_offEngine {q : Nat} {β : Type} {f : State → β → State} (h : ∀ s b, (f s b).offEngine q = s.offEngine q) (l : List β) :
    (l.foldl f s).offEngine q = s.offEngine q := foldl_keeps f (State.offEngine q) h l s

@[simp] theorem State.veLost_offEngine : s.veLost.offEngine 4 = s.offEngine 4 := rfl

@[simp] theorem veDone_offEngine (x : VeCmd) : (veDone s x).offEngine 4 = s.offEngine 4 := by
  simp [veDone]

@[simp] theorem veEccStop_offEngine (x : VeCmd) (w : Nat) : (veEccStop s x w).offEngine 4 = s.offEngine 4 := by
  simp [veEccStop]

@[simp] theorem veWarn_offEngine (a b : Bool) (n : Nat) : (veWarn s a b n).offEngine 4 = s.offEngine 4 := by
  simp [veWarn]

@[simp] theorem veWrite_offEngine (d : VOperand) (l : List Nat) : (veWrite s d l).offEngine 4 = s.offEngine 4 := by
  cases d <;> simp [veWrite]

@[simp] theorem veCountSingles_offEngine (c : VCmd) (n : Nat) : (veCountSingles s c n).offEngine 4 = s.offEngine 4 :=
  foldl_offEngine (fun s o => by cases o <;> rfl) _

@[simp] theorem State.veOob_offEngine (n : Nat) : (s.veOob n).offEngine 4 = s.offEngine 4 := by
  simp [State.veOob]

@[simp] theorem veEnd_offEngine (x : VeCmd) (c : VCmd) (l : List VRes) (stop : Option Nat) (b : Nat → Nat) :
    (veEnd s x c l stop b).offEngine 4 = s.offEngine 4 := by
  unfold veEnd; dsimp only
  cases c.usesMem <;> cases stop <;> simp

@[simp] theorem runGather_offEngine (x : VeCmd) (v : VopFields) (c : VCmd) (b : Nat → Nat) :
    (runGather s x v c b).offEngine 4 = s.offEngine 4 := by
  unfold runGather; dsimp only
  simp only [veEnd_offEngine, State.veOob_offEngine]
  exact foldl_offEngine (fun s j => s.lread_offEngine 4 _ _) _

@[simp] theorem runScatter_offEngine (x : VeCmd) (v : VopFields) (c : VCmd) (b : Nat → Nat) :
    (runScatter s x v c b).offEngine 4 = s.offEngine 4 := by
  have h (s : State) (p : Nat × Nat) : (if p.1 < v.k then s.lwrite (v.daddr + p.1 * v.ty.size) (leBytes v.ty.size p.2)
      else s).offEngine 4 = s.offEngine 4 := by split <;> simp
  unfold runScatter; dsimp only
  split <;> simp [foldl_offEngine h]

theorem runVop_offEngine (x : VeCmd) : (runVop s x).offEngine 4 = s.offEngine 4 := by
  unfold runVop; dsimp only
  (repeat' split) <;> simp [veFinish]

theorem runVep_offEngine (x : VeCmd) : (runVep s x).offEngine 4 = s.offEngine 4 := by
  simp [runVep, veFinish]

theorem runVpload_offEngine (x : VeCmd) : (runVpload s x).offEngine 4 = s.offEngine 4 := by
  unfold runVpload; dsimp only
  split <;> rename_i h
  · simp [State.lread_offEngine_of_eq h]
  · split <;> simp [State.lread_offEngine_of_eq h]

theorem vredSegs_offEngine {v : VredFields} {o : VOperand} {n k : Nat} {r : Option Nat}
    (h : vredSegs s v o n k = (u, r)) : u.offEngine 4 = s.offEngine 4 := by
  induction n generalizing s k with
  | zero => cases h; rfl
  | succ n ih =>
    unfold vredSegs at h; dsimp only at h
    split at h
    · cases h; rfl
    · rw [ih h]
      cases o <;> simp

theorem runVred_offEngine (x : VeCmd) : (runVred s x).offEngine 4 = s.offEngine 4 := by
  unfold runVred; dsimp only
  split <;> rename_i h <;> simp [vredSegs_offEngine h]

theorem execVeCompletion_offEngine (h : execVeCompletion s = .next u) : u.offEngine 4 = s.offEngine 4 := by
  cases h
  split
  · rfl
  split
  · rfl
  split
  · exact runVop_offEngine _
  · exact runVpload_offEngine _
  · exact runVep_offEngine _
  · exact runVred_offEngine _

theorem execVpload_offEngine (h : execVpload s = .next u) : u.offEngine 4 = s.offEngine 4 := by
  cases h
  exact veTake_offEngine _ fun c => by dsimp only; (repeat' split) <;> simp

theorem execVred_offEngine (h : execVred s = .next u) : u.offEngine 4 = s.offEngine 4 := by
  cases h
  exact veTake_offEngine _ fun c => by dsimp only; (repeat' split) <;> simp

/-- A command of the vector engine leaves what lies off the engine. -/
theorem exec_vector_offEngine {c : Instr} (h : exec c s = .next u) (hc : c ∈ [.vop, .vpload, .vep, .vred, .veCompletion]) :
    u.offEngine 4 = s.offEngine 4 := by
  simp only [List.mem_cons, List.not_mem_nil, or_false] at hc
  rcases hc with rfl | rfl | rfl | rfl | rfl
  · cases h; exact veTake_offEngine _ fun c => veCheck_offEngine ..
  · exact execVpload_offEngine h
  · cases h; exact veTake_offEngine _ fun c => veCheck_offEngine ..
  · exact execVred_offEngine h
  · exact execVeCompletion_offEngine h

end
end Sys2Proof.Machine

namespace Sys2Proof.Machine

/-! What happens on the links and with the count. -/

section
variable {s u : State}

theorem execRouterForward_offLink {src : RouterInput} (h : execRouterForward src s = .next u) : u.offLink = s.offLink := by
  unfold execRouterForward at h; dsimp only at h
  (repeat' split at h) <;> cases h <;> simp

theorem execIdleFlit_offLink {f : IdleFlit} (h : execIdleFlit f s = .next u) : u.offLink = s.offLink := by
  unfold execIdleFlit at h; dsimp only at h
  (repeat' split at h) <;> cases h <;> simp

theorem execEdgeFrameReceive_offLink {f : List Byte} (h : execEdgeFrameReceive f s = .next u) : u.offLink = s.offLink := by
  unfold execEdgeFrameReceive at h; dsimp only at h
  (repeat' split at h) <;> cases h <;> simp

theorem execElockChange_offLink {b : Bool} (h : execElockChange b s = .next u) : u.offLink = s.offLink := by
  unfold execElockChange at h; dsimp only at h
  (repeat' split at h) <;> cases h <;> simp

/-- The parts of the state that neither what happens on the links nor the count changes. -/
def State.offCount (s : State) :=
  (s.core, s.engines, s.ve, s.stats, s.digests, s.mem, s.se, s.far, s.rings, s.sched, s.marver, s.tier, s.pins)

theorem State.offCount_of_offLink (h : u.offLink = s.offLink) : u.offCount = s.offCount := by
  simp only [State.offLink, Prod.mk.injEq] at h
  simp [State.offCount, h]

theorem execLinkCreditReturn_offLink {p : Fin 5} {l : BitVec 2} (h : execLinkCreditReturn p l s = .next u) :
    u.offLink = s.offLink := by
  unfold execLinkCreditReturn at h
  split at h <;> cases h <;> simp

theorem execLinkReadyDrop_offLink {p : Fin 5} (h : execLinkReadyDrop p s = .next u) : u.offLink = s.offLink := by
  unfold execLinkReadyDrop at h
  (repeat' split at h) <;> cases h <;> simp

theorem execLinkReadyRise_offLink {p : Fin 5} (h : execLinkReadyRise p s = .next u) : u.offLink = s.offLink := by
  unfold execLinkReadyRise at h; dsimp only at h
  (repeat' split at h) <;> cases h <;> simp

theorem execLinkReadyHoldEnd_offLink {p : Fin 5} (h : execLinkReadyHoldEnd p s = .next u) : u.offLink = s.offLink := by
  unfold execLinkReadyHoldEnd at h; dsimp only at h
  (repeat' split at h) <;> cases h <;> simp

theorem execFlitTimeout_offLink {p : Fin 5} (h : execFlitTimeout p s = .next u) : u.offLink = s.offLink := by
  unfold execFlitTimeout at h; dsimp only at h
  (repeat' split at h) <;> cases h <;> simp

theorem execTrainingComplete_offLink {p : Fin 5} (h : execTrainingComplete p s = .next u) : u.offLink = s.offLink := by
  unfold execTrainingComplete at h; dsimp only at h
  (repeat' split at h) <;> cases h <;> simp

theorem execHelloReceive_offLink {p : Fin 5} {r : List Byte} (h : execHelloReceive p r s = .next u) :
    u.offLink = s.offLink := by
  unfold execHelloReceive at h
  split at h <;> cases h <;> simp

theorem execEdgeRetryTimeout_offLink (h : execEdgeRetryTimeout s = .next u) : u.offLink = s.offLink := by
  unfold execEdgeRetryTimeout at h
  (repeat' split at h) <;> cases h <;> simp

theorem execEdgeTrainTimeout_offLink (h : execEdgeTrainTimeout s = .next u) : u.offLink = s.offLink := by
  unfold execEdgeTrainTimeout at h; dsimp only at h
  (repeat' split at h) <;> cases h <;> simp

theorem execEdgeTrainRetry_offLink (h : execEdgeTrainRetry s = .next u) : u.offLink = s.offLink := by
  unfold execEdgeTrainRetry at h
  (repeat' split at h) <;> cases h <;> simp

@[simp] theorem State.lehrFault_offCount (c : BitVec 2) (d : Half) : (s.lehrFault c d).offCount = s.offCount := by
  simp [State.offCount]

/-- A jump of the count is a Lehr fault beside the new count (R274). -/
theorem execLehrSyncPulse_offCount {v : DWord} (h : execLehrSyncPulse v s = .next u) : u.offCount = s.offCount := by
  unfold execLehrSyncPulse at h; dsimp only at h
  split at h
  · cases h; rfl
  split at h
  · split at h <;> cases h <;> rfl
  · split at h <;> cases h
    · rfl
    · exact State.lehrFault_offCount ..

theorem execMissedPulse_offCount (h : execMissedPulse s = .next u) : u.offCount = s.offCount := by
  unfold execMissedPulse at h
  split at h
  · cases h; rfl
  split at h <;> cases h
  · exact State.lehrFault_offCount ..
  · rfl

/-! The journal's writer. -/

/-- The state with what the journal's writer may change left out. -/
def State.offJournal (s : State) : State :=
  { s with journal := State.reset.journal, far := [], gaffer := State.reset.gaffer, raised := [] }

theorem State.eq_of_offJournal (h : u.offJournal = s.offJournal) :
    u = { s with journal := u.journal, far := u.far, gaffer := u.gaffer, raised := u.raised } := by
  cases u; cases s
  simp only [State.offJournal, State.mk.injEq] at h
  simp [h]

@[simp] theorem State.setJnStat_offJournal (i : Nat) : (s.setJnStat i).offJournal = s.offJournal := rfl

@[simp] theorem State.post_offJournal (c : Half) (b : Byte) (d : List Nat) : (s.post c b d).offJournal = s.offJournal := by
  unfold State.post; split <;> rfl

@[simp] theorem State.traceStarved_offJournal : s.traceStarved.offJournal = s.offJournal := by
  unfold State.traceStarved; dsimp only
  split
  · rfl
  · exact State.post_offJournal ..

@[simp] theorem State.settleStaging_offJournal : s.settleStaging.offJournal = s.offJournal := by
  simp [State.offJournal]

theorem State.farWrites_offJournal {use : FarUse} {l : List (Nat × List Byte)} (h : s.farWrites use l = some u) :
    u.offJournal = s.offJournal := by
  induction l generalizing s with
  | nil => cases h; rfl
  | cons p l ih =>
    unfold State.farWrites at h
    split at h
    · cases h
    · rename_i hi
      rw [ih h]
      obtain ⟨t, _, he⟩ := Option.map_eq_some_iff.mp hi
      cases he; rfl

end
end Sys2Proof.Machine

namespace Sys2Proof.Machine

section
variable {s u : State}

theorem State.traceWrite_offJournal : s.traceWrite.offJournal = s.offJournal := by
  unfold State.traceWrite; dsimp only
  split
  · rfl
  split
  · rfl
  split
  · rfl
  · rename_i h; have hw := State.farWrites_offJournal h; exact hw

theorem execJournalWrite_offJournal (h : execJournalWrite s = .next u) : u.offJournal = s.offJournal := by
  unfold execJournalWrite at h
  split at h
  · cases h; rfl
  split at h
  · cases h; exact State.traceWrite_offJournal
  split at h
  · split at h <;> cases h
    · rfl
    · rename_i hw
      have hout := State.farWrites_offJournal hw
      exact State.settleStaging_offJournal.trans hout
  split at h <;> cases h
  · exact State.traceWrite_offJournal
  · exact State.post_offJournal ..

theorem execTraceSample_offJournal (h : execTraceSample s = .next u) : u.offJournal = s.offJournal := by
  unfold execTraceSample at h; dsimp only at h
  split at h
  · cases h; rfl
  split at h
  · split at h <;> cases h
    · exact State.traceStarved_offJournal
    · split
      · exact State.traceStarved_offJournal
      · rfl
  · cases h; rfl

/-! A snapshot's copy. -/

/-- Key 0 lies before every other, so that a write there reaches no other key even in a table out of order. -/
theorem Tbl.get_set_zero {α : Type} [DecidableEq α] {d : α} (t : List (Nat × α)) (v : α) {k : Nat} (hk : k ≠ 0) :
    Tbl.get d (Tbl.set d t 0 v) k = Tbl.get d t k := by
  have hpos : ¬ k < 0 := Nat.not_lt_zero k
  cases t with
  | nil => unfold Tbl.set; split <;> simp [Tbl.get, hk]
  | cons c t =>
    unfold Tbl.set
    split
    · rename_i h0
      split <;> simp [Tbl.get, ← h0, hk]
    · split
      · split <;> simp [Tbl.get, hk]
      · omega

/-- The parts of the state that a snapshot's copy never changes. -/
def State.offSnapshot (s : State) :=
  (s.core, s.engines, s.ve, s.mem.mem, s.mem.bad, (fun i => if i = 0 then none else some (s.ctx i) : Nat → Option StreamCtx),
    s.se.tlb, s.se.wait, s.rings, s.sched, s.lehr, s.router, s.marver, s.tier, s.pins)

@[simp] theorem State.offSnapshot_journal (j : Journal) : { s with journal := j }.offSnapshot = s.offSnapshot := rfl
@[simp] theorem State.forgetFar_offSnapshot (p : FarUse → Bool) : (s.forgetFar p).offSnapshot = s.offSnapshot := rfl

@[simp] theorem State.onCtx_zero_offSnapshot (f : StreamCtx → StreamCtx) : (s.onCtx 0 f).offSnapshot = s.offSnapshot := by
  have h : (fun i => if i = 0 then none else some ((s.onCtx 0 f).ctx i)) = fun i => if i = 0 then none else some (s.ctx i) := by
    funext i
    split
    · rfl
    · rename_i hi; exact congrArg some (Tbl.get_set_zero _ _ hi)
  simp only [State.offSnapshot, h]
  rfl

@[simp] theorem State.eccAddr_offSnapshot (a : Nat) : (s.eccAddr a).offSnapshot = s.offSnapshot := by
  unfold State.eccAddr; dsimp only; split <;> rfl

@[simp] theorem State.post_offSnapshot (c : Half) (b : Byte) (d : List Nat) : (s.post c b d).offSnapshot = s.offSnapshot := by
  simp [State.offSnapshot, State.ctx]

@[simp] theorem State.postKiln_offSnapshot (c : Half) (b : Byte) (d : List Nat) :
    (s.postKiln c b d).offSnapshot = s.offSnapshot := by
  simp [State.offSnapshot, State.ctx]

@[simp] theorem State.reportHalt_offSnapshot (i : Nat) (c : Half) (a : DWord) :
    (s.reportHalt i c a).offSnapshot = s.offSnapshot := by
  unfold State.reportHalt; dsimp only
  (repeat' split) <;> simp <;> rfl

@[simp] theorem State.snapRefused_offSnapshot (c b : Nat) : (s.snapRefused c b).offSnapshot = s.offSnapshot := by
  simp [State.offSnapshot, State.ctx]

@[simp] theorem State.snapAbandon_offSnapshot : s.snapAbandon.offSnapshot = s.offSnapshot := by
  unfold State.snapAbandon; dsimp only
  split
  · rfl
  · simp

@[simp] theorem State.snapFail_offSnapshot (c : Half) (a : DWord) : (s.snapFail c a).offSnapshot = s.offSnapshot := by
  simp [State.snapFail]

theorem State.farIssue_offSnapshot {w : Bool} {a n t : Nat} {m : Master} {use : FarUse} {d : List Byte}
    (h : s.farIssue w a n m use d = some (t, u)) : u.offSnapshot = s.offSnapshot := by
  obtain ⟨t, _, he⟩ := Option.map_eq_some_iff.mp h
  cases he; rfl

theorem State.snapPump_offSnapshot (use : FarUse) (l : List SnapPiece) : (s.snapPump use l).offSnapshot = s.offSnapshot := by
  induction l generalizing s with
  | nil => rfl
  | cons p l ih =>
    cases p with
    | bytes a bs =>
      unfold State.snapPump
      split
      · rfl
      · rename_i h; rw [ih, State.offSnapshot_journal]; exact State.farIssue_offSnapshot h
    | region => rfl

@[simp] theorem State.snapRead_offSnapshot (p : SnapPiece) : (s.snapRead p).2.2.offSnapshot = s.offSnapshot := by
  cases p <;> rfl

theorem State.snapIssue_offSnapshot : s.snapIssue.state.offSnapshot = s.offSnapshot := by
  unfold State.snapIssue; dsimp only
  split
  · rfl
  split
  · rfl
  split
  · rfl
  split
  · simp [Tried.state]
  split
  · rfl
  · rename_i h; exact (State.farIssue_offSnapshot h).trans (s.snapRead_offSnapshot _)

theorem State.snapStart_offSnapshot (b : Bool) : (s.snapStart b).offSnapshot = s.offSnapshot := by
  unfold State.snapStart
  rw [State.offSnapshot_journal, State.onCtx_zero_offSnapshot]

theorem execSnapshotCopy_offSnapshot (h : execSnapshotCopy s = .next u) : u.offSnapshot = s.offSnapshot := by
  unfold execSnapshotCopy at h
  split at h
  · exact Host.Outcome.next.inj h ▸ rfl
  split at h
  · exact Host.Outcome.next.inj h ▸ rfl
  split at h
  · rw [← Host.Outcome.next.inj h, State.snapPump_offSnapshot, State.offSnapshot_journal]
  split at h
  · rw [← Host.Outcome.next.inj h, State.snapIssue_offSnapshot, State.snapStart_offSnapshot]
  split at h
  · rw [← Host.Outcome.next.inj h, State.snapIssue_offSnapshot]
  · exact Host.Outcome.next.inj h ▸ rfl

theorem execSnapshotComplete_offSnapshot (h : execSnapshotComplete s = .next u) : u.offSnapshot = s.offSnapshot := by
  unfold execSnapshotComplete at h
  split at h
  · exact Host.Outcome.next.inj h ▸ rfl
  split at h
  · exact Host.Outcome.next.inj h ▸ rfl
  split at h
  · rw [← Host.Outcome.next.inj h, State.snapPump_offSnapshot, State.offSnapshot_journal]
  split at h
  · rw [← Host.Outcome.next.inj h, State.offSnapshot_journal]
  · exact Host.Outcome.next.inj h ▸ rfl

end

/-! The units of each kind of command. -/

theorem linkCommands_offCount {c : Instr} {s u : State} (h : exec c s = .next u)
    (hc : (∃ src, c = .routerForward src) ∨ (∃ p l, c = .linkCreditReturn p l) ∨
      (∃ p, c = .linkReadyDrop p ∨ c = .linkReadyRise p ∨ c = .linkReadyHoldEnd p ∨ c = .flitTimeout p ∨
        c = .trainingComplete p) ∨ (∃ f, c = .idleFlit f) ∨
      (∃ p r, c = .helloReceive p r) ∨ (∃ f, c = .edgeFrameReceive f) ∨ c = .edgeRetryTimeout ∨ c = .edgeTrainTimeout ∨
      c = .edgeTrainRetry ∨ (∃ b, c = .elockChange b) ∨ (∃ v, c = .lehrSyncPulse v) ∨ c = .missedPulse) :
    u.offCount = s.offCount := by
  rcases hc with ⟨_, rfl⟩ | ⟨_, _, rfl⟩ | ⟨_, rfl | rfl | rfl | rfl | rfl⟩ | ⟨_, rfl⟩ | ⟨_, _, rfl⟩ | ⟨_, rfl⟩ | rfl | rfl |
    rfl | ⟨_, rfl⟩ | ⟨_, rfl⟩ | rfl
  · exact State.offCount_of_offLink (execRouterForward_offLink h)
  · exact State.offCount_of_offLink (execLinkCreditReturn_offLink h)
  · exact State.offCount_of_offLink (execLinkReadyDrop_offLink h)
  · exact State.offCount_of_offLink (execLinkReadyRise_offLink h)
  · exact State.offCount_of_offLink (execLinkReadyHoldEnd_offLink h)
  · exact State.offCount_of_offLink (execFlitTimeout_offLink h)
  · exact State.offCount_of_offLink (execTrainingComplete_offLink h)
  · exact State.offCount_of_offLink (execIdleFlit_offLink h)
  · exact State.offCount_of_offLink (execHelloReceive_offLink h)
  · exact State.offCount_of_offLink (execEdgeFrameReceive_offLink h)
  · exact State.offCount_of_offLink (execEdgeRetryTimeout_offLink h)
  · exact State.offCount_of_offLink (execEdgeTrainTimeout_offLink h)
  · exact State.offCount_of_offLink (execEdgeTrainRetry_offLink h)
  · exact State.offCount_of_offLink (execElockChange_offLink h)
  · exact execLehrSyncPulse_offCount h
  · exact execMissedPulse_offCount h

/-- What `State.offEngine` says of the queues, of the engines and of the vector engine. -/
theorem State.offEngine_eq {q : Nat} {s u : State} (h : u.offEngine q = s.offEngine q) :
    (∀ j, j ≠ q → u.queue j = s.queue j) ∧ (∀ j, j ≠ q → u.me j = s.me j) ∧ (q ≠ 4 → u.ve = s.ve) := by
  simp only [State.offEngine, Prod.mk.injEq] at h
  obtain ⟨_, _, _, _, _, _, _, _, _, _, _, hqueue, hme, hve⟩ := h
  refine ⟨fun j hj => ?_, fun j hj => ?_, fun hq => ?_⟩
  · simpa [hj] using congrFun hqueue j
  · simpa [hj] using congrFun hme j
  · simpa [hq] using hve

theorem State.engines_ext {s u : State} (h : ∀ j < 4, u.me j = s.me j) : u.engines = s.engines := by
  ext j hj : 1
  have := h j hj
  rwa [State.me, State.me, Vec.at_eq _ _ hj, Vec.at_eq _ _ hj] at this

theorem matrixCommands_units {e : Fin 4} {s u : State} (h : u.offEngine e = s.offEngine e) :
    (∀ j, j ≠ e.val → u.me j = s.me j) ∧ u.ve = s.ve ∧ u.se = s.se ∧ u.far = s.far ∧ u.rings = s.rings ∧ u.sched = s.sched ∧
      u.lehr = s.lehr ∧ u.router = s.router ∧ u.marver = s.marver ∧ u.tier = s.tier ∧ u.pins = s.pins ∧
      u.core.tasks = s.core.tasks ∧ u.core.imem = s.core.imem ∧ ∀ q, q ≠ e.val → u.queue q = s.queue q := by
  obtain ⟨hqueue, hme, hve⟩ := State.offEngine_eq h
  simp only [State.offEngine, Prod.mk.injEq] at h
  simp [h, hve (by omega)]
  exact ⟨hme, hqueue⟩

theorem vectorCommands_units {s u : State} (h : u.offEngine 4 = s.offEngine 4) :
    u.engines = s.engines ∧ u.se = s.se ∧ u.far = s.far ∧ u.rings = s.rings ∧ u.sched = s.sched ∧ u.lehr = s.lehr ∧
      u.router = s.router ∧ u.marver = s.marver ∧ u.tier = s.tier ∧ u.pins = s.pins ∧ u.core.tasks = s.core.tasks ∧
      u.core.imem = s.core.imem ∧ ∀ q, q ≠ 4 → u.queue q = s.queue q := by
  obtain ⟨hqueue, hme, _⟩ := State.offEngine_eq h
  simp only [State.offEngine, Prod.mk.injEq] at h
  simp [h, State.engines_ext fun j hj => hme j (by omega)]
  exact hqueue

theorem journalCommands_offJournal {c : Instr} {s u : State} (h : exec c s = .next u) (hc : c ∈ [.journalWrite, .traceSample]) :
    u.offJournal = s.offJournal := by
  simp only [List.mem_cons, List.not_mem_nil, or_false] at hc
  rcases hc with rfl | rfl
  · exact execJournalWrite_offJournal h
  · exact execTraceSample_offJournal h

theorem snapshotCommands_offSnapshot {c : Instr} {s u : State} (h : exec c s = .next u)
    (hc : c ∈ [.snapshotCopy, .snapshotComplete]) : u.offSnapshot = s.offSnapshot := by
  simp only [List.mem_cons, List.not_mem_nil, or_false] at hc
  rcases hc with rfl | rfl
  · exact execSnapshotCopy_offSnapshot h
  · exact execSnapshotComplete_offSnapshot h

/-- Settles O58: each kind of command keeps the tuple of the parts that are not its units'. -/
theorem commandsKeepToTheirUnits : Obligations.CommandsKeepToTheirUnits := by
  unfold Obligations.CommandsKeepToTheirUnits
  refine ⟨fun c s u h hc => ?_, fun c e s u h hc => matrixCommands_units (exec_matrix_offEngine h hc),
    fun c s u h hc => vectorCommands_units (exec_vector_offEngine h hc),
    fun c s u h hc => State.eq_of_offJournal (journalCommands_offJournal h hc), fun c s u h hc => ?_⟩
  · have hunits := linkCommands_offCount h hc
    simp only [State.offCount, Prod.mk.injEq] at hunits
    exact hunits
  · have hunits := snapshotCommands_offSnapshot h hc
    simp only [State.offSnapshot, Prod.mk.injEq] at hunits
    obtain ⟨hcore, hengines, hve, hmem, hbad, hctx, hrest⟩ := hunits
    refine ⟨hcore, hengines, hve, hmem, hbad, fun i hi => ?_, hrest⟩
    simpa [hi] using congrFun hctx i

end Sys2Proof.Machine

namespace Sys2Proof.Machine

/-! Fences: what a leave of RUN and an entry into FENCED or FENCED_OFF make of the state. -/

section
variable (s : State)

@[simp] theorem State.kilnRecord_fvalid (c : Half) (b : Byte) (d : List Nat) :
    (s.kilnRecord c b d).journal.fvalid = s.journal.fvalid ∧ (s.kilnRecord c b d).journal.flcid = s.journal.flcid := by
  unfold State.kilnRecord; split <;> exact ⟨rfl, rfl⟩

@[simp] theorem State.postKiln_fvalid (c : Half) (b : Byte) (d : List Nat) :
    (s.postKiln c b d).journal.fvalid = s.journal.fvalid ∧ (s.postKiln c b d).journal.flcid = s.journal.flcid := by
  simp [State.postKiln]

@[simp] theorem State.kilnRecord_action (c : Half) (b : Byte) (d : List Nat) :
    (s.kilnRecord c b d).gaffer.action = s.gaffer.action := by
  unfold State.kilnRecord; split <;> rfl

@[simp] theorem State.post_action (c : Half) (b : Byte) (d : List Nat) :
    (s.post c b d).gaffer.action = s.gaffer.action := by
  unfold State.post; split <;> rfl

@[simp] theorem State.postKiln_action (c : Half) (b : Byte) (d : List Nat) :
    (s.postKiln c b d).gaffer.action = s.gaffer.action := by
  simp [State.postKiln]

@[simp] theorem State.reply_action (r : ReplyTo) (c : Half) (f : Bool) (ws : List Nat) :
    (s.reply r c f ws).gaffer.action = s.gaffer.action := by
  unfold State.reply; dsimp only; split <;> rfl

/-- The tier's registers as a fence sets them (R19, R20). -/
def Tier.fenced (t : Tier) (next : TierState) (cause : Byte) : Tier :=
  let off := next == .fencedOff
  { t with state := next, cause := cause, vctOn := t.vctOn && !off, powerGood := t.powerGood && !off, trained := t.trained && !off }

theorem State.leaveRun_core : s.leaveRun.core = Core.fresh s.core.imem s.core.imemBad := by
  simp [State.leaveRun, State.dropCompute]

theorem State.leaveRun_engines : s.leaveRun.engines = Vector.replicate 4 MatrixEngine.fresh := rfl

theorem State.leaveRun_store : s.leaveRun.rings.store = s.rings.store := by
  simp [State.leaveRun, State.dropCompute]

/-- A fence from RUN appends the FENCE record and leaves RUN before the tier's registers change (R414); any other changes no more
than these. -/
def State.fenceBase (c : Byte) : State := if s.inRun then (s.jfence c).1.leaveRun else s

/-- The DETAIL of a fence: CAUSE, the FENCE record's JSEQ and the former ID (R428). -/
def State.fenceDetail (c : Byte) : List Nat :=
  [c.toNat, (if s.inRun then (s.jfence c).2 else 0#32).toNat, (if s.router.lvalid then s.router.lcid else 0x7FF#11).toNat]

theorem State.fenceTo_eq (n : TierState) (c : Byte) (r : Bool) : s.fenceTo n c r =
    let t := s.fenceBase c
    let u := if t.router.lvalid then { t with journal := { t.journal with fvalid := true, flcid := t.router.lcid } } else t
    let v := { u with tier := u.tier.fenced n c }
    if r then v.postKiln Code.fenced Source.tier (s.fenceDetail c) else v.kilnRecord Code.fenced Source.tier (s.fenceDetail c) := by
  cases hrun : s.inRun
  · simp only [State.fenceTo, State.fenceBase, State.fenceDetail, hrun, Bool.false_eq_true, if_false, Tier.fenced]
  · have hj : (s.jfence c).1.inRun = true := by simpa [State.inRun] using hrun
    simp only [State.fenceTo, State.fenceBase, State.fenceDetail, hrun, hj, if_true, Tier.fenced]

theorem State.fenceTo_parts (n : TierState) (c : Byte) (r : Bool) :
    (s.fenceTo n c r).core = (s.fenceBase c).core ∧ (s.fenceTo n c r).engines = (s.fenceBase c).engines ∧
      (s.fenceTo n c r).rings = (s.fenceBase c).rings ∧ (s.fenceTo n c r).tier = (s.fenceBase c).tier.fenced n c ∧
      (s.fenceTo n c r).gaffer.action = (s.fenceBase c).gaffer.action := by
  rw [State.fenceTo_eq]; dsimp only
  cases r <;> simp <;> split <;> simp

theorem State.fenceTo_fvalid (n : TierState) (c : Byte) (r : Bool) (hv : s.router.lvalid = true) :
    (s.fenceTo n c r).journal.fvalid = true ∧ (s.fenceTo n c r).journal.flcid = s.router.lcid := by
  have hrouter : (s.fenceBase c).router = s.router := by unfold State.fenceBase; split <;> simp
  rw [State.fenceTo_eq]; dsimp only
  rw [hrouter, hv]
  cases r <;> simp

@[simp] theorem State.fenceBase_tier (c : Byte) : (s.fenceBase c).tier = s.tier := by
  unfold State.fenceBase; split <;> simp

theorem State.fenceTo_tier (n : TierState) (c : Byte) (r : Bool) : (s.fenceTo n c r).tier = s.tier.fenced n c := by
  obtain ⟨_, _, _, htier, _⟩ := s.fenceTo_parts n c r
  rw [htier, State.fenceBase_tier]

theorem State.fenceTo_of_not_inRun (n : TierState) (c : Byte) (r : Bool) (hrun : s.inRun = false) :
    (s.fenceTo n c r).core = s.core ∧ (s.fenceTo n c r).gaffer.action = s.gaffer.action := by
  have hbase : s.fenceBase c = s := by simp [State.fenceBase, hrun]
  obtain ⟨hcore, _, _, _, haction⟩ := s.fenceTo_parts n c r
  exact ⟨by rw [hcore, hbase], by rw [haction, hbase]⟩

theorem State.fenceTo_of_inRun (n : TierState) (c : Byte) (r : Bool) (hrun : s.inRun = true) :
    (s.fenceTo n c r).core = Core.fresh s.core.imem s.core.imemBad ∧
      (s.fenceTo n c r).engines = Vector.replicate 4 MatrixEngine.fresh ∧
      (s.fenceTo n c r).rings.store = s.rings.store := by
  have hbase : s.fenceBase c = (s.jfence c).1.leaveRun := by simp [State.fenceBase, hrun]
  obtain ⟨hcore, hengines, hrings, _, _⟩ := s.fenceTo_parts n c r
  rw [hcore, hengines, hrings, hbase, State.leaveRun_core, State.leaveRun_engines, State.leaveRun_store]
  simp

theorem Core.fresh_tasks_free (imem : Memory) (bad : List Nat) {t : Nat} (h : t < 32) :
    (Vec.at (Core.fresh imem bad).tasks t).state = .free := by
  rw [Core.fresh, Vec.at_replicate _ _ h]; rfl

theorem Core.fresh_queues_empty (imem : Memory) (bad : List Nat) {q : Nat} (h : q < 8) :
    (Vec.at (Core.fresh imem bad).queues q).entries = [] := by
  rw [Core.fresh, Vec.at_replicate _ _ h]; rfl

theorem fresh_engine_empty {e : Nat} (h : e < 4) :
    (Vec.at (Vector.replicate 4 MatrixEngine.fresh) e).pool = [] ∧ (Vec.at (Vector.replicate 4 MatrixEngine.fresh) e).acc = [] := by
  rw [Vec.at_replicate _ _ h]; exact ⟨rfl, rfl⟩

/-- A fence from RUN: LEAVE_RUN has been performed (R19, R22). -/
theorem State.fenceTo_leftRun (n : TierState) (c : Byte) (r : Bool) (hrun : s.inRun = true) :
    LeftRun s (s.fenceTo n c r) n c := by
  obtain ⟨hcore, hengines, hstore⟩ := s.fenceTo_of_inRun n c r hrun
  have htier := s.fenceTo_tier n c r
  refine ⟨by rw [htier]; rfl, by rw [htier]; rfl, by rw [hcore]; rfl, fun t ht => ?_, fun q hq => ?_, fun e he => ?_,
    by rw [hcore]; rfl, by simp, hstore, by simp, by simp, by simp, s.fenceTo_fvalid n c r⟩
  · rw [State.task, hcore]; exact Core.fresh_tasks_free _ _ ht
  · rw [State.queue, hcore]; exact Core.fresh_queues_empty _ _ hq
  · rw [State.me, hengines]; exact fresh_engine_empty he

end
end Sys2Proof.Machine

namespace Sys2Proof.Machine

/-! The entry into RUN. -/

/-- A context as the entry into RUN leaves a program's (R235). -/
def StreamCtx.Fresh (c : StreamCtx) : Prop := c.state = .idle ∧ c.delivered = 0#32

theorem Tbl.get_of_not_mem {α : Type} (d : α) (t : List (Nat × α)) (k : Nat) (h : k ∉ t.map (·.1)) : Tbl.get d t k = d := by
  induction t with
  | nil => rfl
  | cons c t ih =>
    obtain ⟨a, v⟩ := c
    simp only [List.map_cons, List.mem_cons, not_or] at h
    obtain ⟨hne, hmem⟩ := h
    simp only [Tbl.get, if_neg hne, ih hmem, ite_self]

/-- Entering RUN writes each program context of a list of keys once. -/
def ctxsEnterRun (t : List (Nat × StreamCtx)) (keys : List Nat) : List (Nat × StreamCtx) :=
  keys.foldl (fun t id => if 64 ≤ id then Tbl.set StreamCtx.idle t id (Tbl.get StreamCtx.idle t id).enterRun else t) t

theorem ctxsEnterRun_fresh (keys : List Nat) (t : List (Nat × StreamCtx)) (hw : Tbl.wf StreamCtx.idle t = true) (i : Nat)
    (hi : 64 ≤ i) (h : i ∈ keys ∨ (Tbl.get StreamCtx.idle t i).Fresh) :
    (Tbl.get StreamCtx.idle (ctxsEnterRun t keys) i).Fresh := by
  induction keys generalizing t with
  | nil => simpa [ctxsEnterRun] using h
  | cons k keys ih =>
    have hstep : ctxsEnterRun t (k :: keys) = ctxsEnterRun
        (if 64 ≤ k then Tbl.set StreamCtx.idle t k (Tbl.get StreamCtx.idle t k).enterRun else t) keys := rfl
    rw [hstep]
    refine ih _ (by split; exacts [Tbl.wf_set _ _ _ _ hw, hw]) ?_
    by_cases hk : i = k
    · subst hk
      rw [if_pos hi, Tbl.get_set_same _ _ _ _ hw]
      exact .inr ⟨rfl, rfl⟩
    · have hsame : Tbl.get StreamCtx.idle
          (if 64 ≤ k then Tbl.set StreamCtx.idle t k (Tbl.get StreamCtx.idle t k).enterRun else t) i =
          Tbl.get StreamCtx.idle t i := by
        split
        · exact Tbl.get_set_ne _ _ _ _ _ hw hk
        · rfl
      rw [hsame]
      simpa [hk] using h

theorem State.enterRun_ctx_fresh (s : State) (hw : Tbl.wf StreamCtx.idle s.se.ctxs = true) (i : Nat) (hi : 64 ≤ i) :
    (s.enterRun.ctx i).Fresh := by
  refine ctxsEnterRun_fresh (s.se.ctxs.map (·.1)) s.se.ctxs hw i hi ?_
  by_cases h : i ∈ s.se.ctxs.map (·.1)
  · exact .inl h
  · exact .inr (by rw [Tbl.get_of_not_mem _ _ _ h]; exact ⟨rfl, rfl⟩)

/-- What `EnteredRun` looks at. -/
def State.runParts (s : State) :=
  (s.tier, s.core, s.engines, s.se, s.marver, s.journal.dirty0, s.journal.dirty1, s.mem)

theorem EnteredRun.congr {s u v : State} (h : v.runParts = u.runParts) (hu : EnteredRun s u) : EnteredRun s v := by
  simp only [State.runParts, Prod.mk.injEq] at h
  simpa only [EnteredRun, State.task, State.me, State.ctx, h] using hu

/-- ENTER_RUN (R19, R235, R374, R384, R401). -/
theorem State.enterRun_enteredRun (s : State) : EnteredRun s s.enterRun := by
  have hcore : s.enterRun.core = Core.fresh s.core.imem s.core.imemBad := rfl
  have hengines : s.enterRun.engines = Vector.replicate 4 MatrixEngine.fresh := rfl
  refine ⟨rfl, rfl, by rw [hcore]; rfl, fun t ht => ?_, fun e he => ?_, s.enterRun_ctx_fresh, rfl, rfl, rfl, by rw [hcore]; rfl,
    by simp⟩
  · rw [State.task, hcore]; exact Core.fresh_tasks_free _ _ ht
  · rw [State.me, hengines]; exact fresh_engine_empty he

end Sys2Proof.Machine

namespace Sys2Proof.Machine

/-! The compute tier's changes of state. -/

/-- The action under way once an ANNEAL has ended (R426, R439). -/
def dropAnneal : Option GafferAction → Option GafferAction
  | some (.anneal _) => none
  | a => a

section
variable (s : State)

@[simp] theorem State.finalAnneal_parts (c : Half) :
    (s.finalAnneal c).runParts = s.runParts ∧ (s.finalAnneal c).gaffer.action = dropAnneal s.gaffer.action := by
  unfold State.finalAnneal
  split
  · rename_i h; simp [State.final, State.runParts, h, dropAnneal]
  · rename_i h
    refine ⟨rfl, ?_⟩
    unfold dropAnneal
    split
    · rename_i r hr; exact absurd hr (h r)
    · rfl

/-- An ANNEAL that ends in FENCED_OFF (R19, R20, R426). -/
theorem State.annealFail_parts (c : Byte) (hstate : s.tier.state = .anneal) :
    (s.annealFail c).tier = s.tier.fenced .fencedOff c ∧ (s.annealFail c).mem = s.mem ∧ (s.annealFail c).core = s.core ∧
      (s.annealFail c).gaffer.action = dropAnneal s.gaffer.action := by
  have hrun : s.inRun = false := by simp [State.inRun, hstate]
  obtain ⟨hcore, haction⟩ := s.fenceTo_of_not_inRun .fencedOff c true hrun
  obtain ⟨hparts, hdrop⟩ := (s.fenceTo .fencedOff c true).finalAnneal_parts Code.fenced
  simp only [State.runParts, Prod.mk.injEq] at hparts
  obtain ⟨htier, hcore', _, _, _, _, _, hmem⟩ := hparts
  refine ⟨htier.trans (s.fenceTo_tier ..), hmem.trans (by simp), hcore'.trans hcore, ?_⟩
  rw [State.annealFail, hdrop, haction]

variable {s}

/-- 66 microseconds are 112,200 N-cycles (R473). -/
theorem exec_switchClose (ha : s.pins.alive = true) (hstate : s.tier.state = .starting) (hoff : s.tier.vctOn = false) :
    exec .switchClose s = if s.tier.sinceNc + 112200 ≤ s.nc
      then .next { s with tier := { s.tier with vctOn := true, trained := false } } else .next s := by
  have hdue : decide (s.tier.sinceNc + 66 * Config.ncPerUs ≤ s.nc) = decide (s.tier.sinceNc + 112200 ≤ s.nc) := rfl
  simp only [exec, execSwitchClose, ha, hstate, hoff, hdue]
  simp

theorem exec_tierStartTimeout_early (ha : s.pins.alive = true) (h : s.nc < s.tier.sinceNc + 170000) :
    exec .tierStartTimeout s = .next s := by
  have hdue : decide (s.tier.sinceNc + 100 * Config.ncPerUs ≤ s.nc) = false := decide_eq_false (show ¬ _ + 170000 ≤ _ by omega)
  simp [exec, execTierStartTimeout, ha, hdue]

theorem exec_tierStartTimeout_starting (ha : s.pins.alive = true) (h : s.tier.sinceNc + 170000 ≤ s.nc)
    (hstate : s.tier.state = .starting) :
    exec .tierStartTimeout s = .next { s.fenceTo .fencedOff 3#8 true with
      tier := { (s.fenceTo .fencedOff 3#8 true).tier with skipped := true }
      gaffer := { (s.fenceTo .fencedOff 3#8 true).gaffer with step := 9#4 } } := by
  have hdue : decide (s.tier.sinceNc + 100 * Config.ncPerUs ≤ s.nc) = true := decide_eq_true h
  simp [exec, execTierStartTimeout, ha, hstate, hdue]

theorem exec_tierStartTimeout_anneal (ha : s.pins.alive = true) (h : s.tier.sinceNc + 170000 ≤ s.nc)
    (hstate : s.tier.state = .anneal) {cause : Byte}
    (hcause : (s.tier.powerGood = false ∧ cause = 2#8) ∨ (s.tier.powerGood = true ∧ s.tier.trained = false ∧ cause = 3#8)) :
    exec .tierStartTimeout s = .next (s.annealFail cause) := by
  have hdue : decide (s.tier.sinceNc + 100 * Config.ncPerUs ≤ s.nc) = true := decide_eq_true h
  rcases hcause with ⟨hp, rfl⟩ | ⟨hp, ht, rfl⟩
  · simp [exec, execTierStartTimeout, ha, hstate, hdue, hp]
  · simp [exec, execTierStartTimeout, ha, hstate, hdue, hp, ht]

/-- An automatic fence from a state that differs from `s` in the tier's registers (R20). -/
theorem autoFence_leftRun {v : State} (hv : v = { s with tier := v.tier }) (hrun : v.inRun = true) (c : Byte) :
    LeftRun s (v.autoFence c) .fenced c ∧ (v.autoFence c).tier = v.tier.fenced .fenced c := by
  refine ⟨?_, v.fenceTo_tier .fenced c true⟩
  have hleft : LeftRun v (v.autoFence c) .fenced c := v.fenceTo_leftRun .fenced c true hrun
  generalize v.autoFence c = u at hleft ⊢
  rw [hv] at hleft
  exact hleft

theorem exec_computeTierPowerGood (ha : s.pins.alive = true) (hstate : s.tier.state = .starting) (hon : s.tier.vctOn = true)
    (trained : Bool) (t : State) (ht : t = { s with tier := { s.tier with
      powerGood := s.tier.powerGood || !trained, trained := s.tier.trained || trained } }) :
    exec (.computeTierPowerGood trained) s =
      if (if trained then s.tier.powerGood else s.tier.trained) = true
      then .next { t.enterRun with gaffer := { t.enterRun.gaffer with step := 9#4 } } else .next t := by
  subst ht
  cases trained <;> simp [exec, execComputeTierPowerGood, ha, hstate, hon]

/-- STARTING with power good and a trained interface ends in RUN (R19, R456). -/
theorem computeTierPowerGood_starting (ha : s.pins.alive = true) (trained : Bool) (hstate : s.tier.state = .starting)
    (hon : s.tier.vctOn = true) :
    ((if trained then s.tier.powerGood else s.tier.trained) = true →
      ∃ u, exec (.computeTierPowerGood trained) s = .next u ∧ EnteredRun s u ∧ u.gaffer.step = 9#4) ∧
    ((if trained then s.tier.powerGood else s.tier.trained) = false →
      exec (.computeTierPowerGood trained) s = .next { s with tier := { s.tier with
        powerGood := s.tier.powerGood || !trained, trained := s.tier.trained || trained } }) := by
  have he := exec_computeTierPowerGood ha hstate hon trained _ rfl
  refine ⟨fun h => ?_, fun h => ?_⟩
  · rw [if_pos h] at he
    refine ⟨_, he, ?_, rfl⟩
    exact State.enterRun_enteredRun { s with tier := { s.tier with
      powerGood := s.tier.powerGood || !trained, trained := s.tier.trained || trained } }
  · rw [he, if_neg (by simp [h])]

/-- 100 microseconds after its entry STARTING, or an ANNEAL that lacks power good or training, ends in FENCED_OFF (R19). -/
theorem tierStartTimeout_late (ha : s.pins.alive = true) (h : s.tier.sinceNc + 170000 ≤ s.nc) :
    (s.tier.state = .starting →
      ∃ u, exec .tierStartTimeout s = .next u ∧ u.tier.state = .fencedOff ∧ u.tier.cause = 3#8 ∧ u.tier.vctOn = false ∧
        u.gaffer.step = 9#4 ∧ u.mem = s.mem ∧ u.core = s.core) ∧
    (s.tier.state = .anneal → ∀ cause : Byte,
      (s.tier.powerGood = false ∧ cause = 2#8) ∨ (s.tier.powerGood = true ∧ s.tier.trained = false ∧ cause = 3#8) →
      ∃ u, exec .tierStartTimeout s = .next u ∧ u.tier.state = .fencedOff ∧ u.tier.cause = cause ∧ u.tier.vctOn = false ∧
        u.gaffer.action = dropAnneal s.gaffer.action ∧ u.mem = s.mem ∧ u.core = s.core) := by
  refine ⟨fun hstate => ?_, fun hstate cause hcause => ?_⟩
  · have htier := s.fenceTo_tier .fencedOff 3#8 true
    obtain ⟨hcore, _⟩ := s.fenceTo_of_not_inRun .fencedOff 3#8 true (by simp [State.inRun, hstate])
    refine ⟨_, exec_tierStartTimeout_starting ha h hstate, ?_, ?_, ?_, rfl, by simp, hcore⟩ <;> simp [htier, Tier.fenced]
  · obtain ⟨htier, hmem, hcore, haction⟩ := s.annealFail_parts cause hstate
    refine ⟨_, exec_tierStartTimeout_anneal ha h hstate hcause, ?_, ?_, ?_, haction, hmem, hcore⟩ <;> simp [htier, Tier.fenced]

theorem exec_powerGoodLoss_run (ha : s.pins.alive = true) (hstate : s.tier.state = .run) :
    ∃ u, exec .powerGoodLoss s = .next u ∧ LeftRun s u .fenced 2#8 ∧ u.tier.powerGood = false := by
  obtain ⟨hleft, htier⟩ := autoFence_leftRun (s := s) (v := { s with tier := { s.tier with powerGood := false } }) rfl
    (by simp [State.inRun, hstate, ha]) 2#8
  exact ⟨_, by simp [exec, execPowerGoodLoss, ha, hstate], hleft, by rw [htier]; rfl⟩

theorem interfaceLost_run (ha : s.pins.alive = true) (hstate : s.tier.state = .run) :
    LeftRun s s.interfaceLost .fenced 3#8 ∧ s.interfaceLost.tier.trained = false := by
  have he : s.interfaceLost = { s with tier := { s.tier with trained := false } }.autoFence 3#8 := by
    simp [State.interfaceLost, hstate]
  obtain ⟨hleft, htier⟩ := autoFence_leftRun (s := s) (v := { s with tier := { s.tier with trained := false } }) rfl
    (by simp [State.inRun, hstate, ha]) 3#8
  rw [he]
  exact ⟨hleft, by rw [htier]; rfl⟩

/-- An ANNEAL that has lost power good or its interface ends in FENCED_OFF (R19, R20). -/
theorem annealFail_off {v : State} (hv : v = { s with tier := v.tier }) (hstate : v.tier.state = .anneal) (c : Byte) :
    (v.annealFail c).tier.state = .fencedOff ∧ (v.annealFail c).tier.cause = c ∧ (v.annealFail c).tier.vctOn = false ∧
      (v.annealFail c).mem = s.mem ∧ (v.annealFail c).core = s.core := by
  obtain ⟨htier, hmem, hcore, _⟩ := v.annealFail_parts c hstate
  rw [htier, hmem, hcore, hv]
  simp [Tier.fenced]

theorem exec_powerGoodLoss_anneal (ha : s.pins.alive = true) (hstate : s.tier.state = .anneal) (hp : s.tier.powerGood = true) :
    ∃ u, exec .powerGoodLoss s = .next u ∧ u.tier.state = .fencedOff ∧ u.tier.cause = 2#8 ∧ u.tier.vctOn = false ∧
      u.mem = s.mem ∧ u.core = s.core :=
  ⟨_, by simp [exec, execPowerGoodLoss, ha, hstate, hp],
    annealFail_off (s := s) (v := { s with tier := { s.tier with powerGood := false } }) rfl hstate 2#8⟩

theorem interfaceLost_anneal (hstate : s.tier.state = .anneal) (ht : s.tier.trained = true) :
    s.interfaceLost.tier.state = .fencedOff ∧ s.interfaceLost.tier.cause = 3#8 ∧ s.interfaceLost.mem = s.mem ∧
      s.interfaceLost.core = s.core := by
  have he : s.interfaceLost = { s with tier := { s.tier with trained := false } }.annealFail 3#8 := by
    simp [State.interfaceLost, hstate, ht]
  obtain ⟨h1, h2, _, h3, h4⟩ := annealFail_off (s := s) (v := { s with tier := { s.tier with trained := false } }) rfl hstate 3#8
  rw [he]
  exact ⟨h1, h2, h3, h4⟩

theorem exec_tierInterfaceError (ha : s.pins.alive = true) : exec .tierInterfaceError s = .next s.interfaceLost := by
  simp [exec, execTierInterfaceError, ha]

theorem exec_tierInterfaceTimeout (ha : s.pins.alive = true) : exec .tierInterfaceTimeout s = .next s.interfaceLost := by
  simp [exec, execTierInterfaceTimeout, ha]

/-- Outside RUN and ANNEAL the loss of power good or of the interface shows in the tier's registers alone (R19). -/
theorem losses_elsewhere (ha : s.pins.alive = true) (hrun : s.tier.state ≠ .run) (hanneal : s.tier.state ≠ .anneal) :
    exec .powerGoodLoss s = .next { s with tier := { s.tier with powerGood := false } } ∧
      s.interfaceLost = { s with tier := { s.tier with trained := false } } := by
  cases hstate : s.tier.state <;> simp_all [exec, execPowerGoodLoss, State.interfaceLost]

/-! The end of an ANNEAL and of discovery. -/

@[simp] theorem State.kilnRecord_runParts (c : Half) (b : Byte) (d : List Nat) : (s.kilnRecord c b d).runParts = s.runParts := by
  unfold State.kilnRecord; split <;> rfl

theorem annealSelfTest_pass (ha : s.pins.alive = true) (hstate : s.tier.state = .anneal) (hp : s.tier.powerGood = true)
    (ht : s.tier.trained = true) : ∃ u, exec (.annealSelfTestComplete true) s = .next u ∧ EnteredRun s u := by
  refine ⟨_, by simp [exec, execAnnealSelfTestComplete, ha, hstate, hp, ht]; rfl, ?_⟩
  have h : EnteredRun s s.helloAgain.enterRun := by
    have := s.helloAgain.enterRun_enteredRun
    simpa [EnteredRun] using this
  refine EnteredRun.congr ?_ h
  rw [(State.finalAnneal_parts _ _).1, State.kilnRecord_runParts]

theorem annealSelfTest_waits (ha : s.pins.alive = true) (hstate : s.tier.state = .anneal)
    (h : s.tier.powerGood = false ∨ s.tier.trained = false) : exec (.annealSelfTestComplete true) s = .next s := by
  rcases h with h | h <;> simp [exec, execAnnealSelfTestComplete, ha, hstate, h]

theorem annealSelfTest_fail (ha : s.pins.alive = true) (hstate : s.tier.state = .anneal) :
    ∃ u, exec (.annealSelfTestComplete false) s = .next u ∧ u.tier.state = .fencedOff ∧ u.tier.cause = 4#8 ∧
      u.tier.vctOn = false ∧ u.mem = s.mem ∧ u.core = s.core :=
  ⟨_, by simp [exec, execAnnealSelfTestComplete, ha, hstate], annealFail_off (s := s) (v := s) rfl hstate 4#8⟩

theorem State.post_appends (v : State) (c : Half) (b : Byte) (d : List Nat) (h : v.gaffer.eventCount < Config.eventDepth) :
    ∃ e, (v.post c b d).gaffer.outq = v.gaffer.outq ++ [.event e] ∧ e.code = c ∧ e.source = b ∧
      e.detail = d.map (BitVec.ofNat 32) := by
  rw [State.post, if_neg (Nat.not_le.mpr h)]
  exact ⟨_, rfl, rfl, rfl, rfl⟩

theorem State.post_gaffer (v : State) (c : Half) (b : Byte) (d : List Nat) :
    v.post c b d = { v with gaffer := (v.post c b d).gaffer } ∧ (v.post c b d).gaffer.step = v.gaffer.step := by
  unfold State.post; split <;> exact ⟨rfl, rfl⟩

/-- Since when discovery counts its 100 microseconds (R330). -/
def State.discoverySince (s : State) : Nat := if s.tier.skipped then s.gaffer.startedNc else s.gaffer.runNc

theorem exec_discoveryComplete (ha : s.pins.alive = true) (hstep : s.gaffer.step = 9#4) (hfw : s.gaffer.started = true)
    (h : s.router.ports.toList.all Port.settled = true ∨ s.discoverySince + 170000 ≤ s.nc) :
    exec .discoveryComplete s = .next ({ s with gaffer := { s.gaffer with step := 0xA#4 } }.post Code.ok Source.firmware [0x0A]) := by
  have hdue : (s.router.ports.toList.all Port.settled || decide (s.discoverySince + 100 * Config.ncPerUs ≤ s.nc)) = true := by
    rcases h with h | h
    · rw [h]; rfl
    · rw [decide_eq_true (show _ + 100 * Config.ncPerUs ≤ s.nc from h), Bool.or_true]
  have hcond : (s.gaffer.step == 9#4 && s.gaffer.started && (s.router.ports.toList.all Port.settled ||
      decide (s.discoverySince + 100 * Config.ncPerUs ≤ s.nc))) = true := by
    rw [hdue, hstep, hfw]; rfl
  unfold State.discoverySince at hcond
  simp only [exec, execDiscoveryComplete, ha, hcond, Bool.not_true, Bool.false_eq_true, if_false, if_true]

theorem discoveryComplete_ends (ha : s.pins.alive = true) (hstep : s.gaffer.step = 9#4) (hfw : s.gaffer.started = true)
    (h : s.router.ports.toList.all Port.settled = true ∨ s.discoverySince + 170000 ≤ s.nc) :
    ∃ u, exec .discoveryComplete s = .next u ∧ u.gaffer.step = 10#4 ∧
      (s.gaffer.eventCount < Config.eventDepth → ∃ e, u.gaffer.outq = s.gaffer.outq ++ [.event e] ∧ e.code = 0x0000#16 ∧
        e.source = 0#8 ∧ e.detail = [0x0A#32]) ∧ u = { s with gaffer := u.gaffer } := by
  obtain ⟨hgaffer, hstep'⟩ := State.post_gaffer { s with gaffer := { s.gaffer with step := 0xA#4 } } Code.ok Source.firmware [0x0A]
  exact ⟨_, exec_discoveryComplete ha hstep hfw h, hstep',
    State.post_appends { s with gaffer := { s.gaffer with step := 0xA#4 } } Code.ok Source.firmware [0x0A], hgaffer⟩

theorem discoveryComplete_waits (ha : s.pins.alive = true) (h : s.router.ports.toList.all Port.settled = false)
    (hearly : s.nc < s.discoverySince + 170000) : exec .discoveryComplete s = .next s := by
  have hdue : decide ((if s.tier.skipped then s.gaffer.startedNc else s.gaffer.runNc) + 100 * Config.ncPerUs ≤ s.nc) = false :=
    decide_eq_false (show ¬ s.discoverySince + 170000 ≤ s.nc by omega)
  simp only [exec, execDiscoveryComplete, ha, h, hdue]
  simp

end

/-- Settles O55, command by command: a fence from RUN is `State.fenceTo_leftRun`, an entry into RUN
`State.enterRun_enteredRun`. -/
theorem tierChangesState : Obligations.TierChangesState := by
  unfold Obligations.TierChangesState
  intro s ha
  refine ⟨fun hstate hoff => ?_, fun trained hstate hon => computeTierPowerGood_starting ha trained hstate hon, fun h => ?_,
    exec_tierStartTimeout_early ha, fun hstate => ?_, fun hstate => ?_, fun hrun hanneal => ?_, fun hstep hfw => ?_⟩
  · have he := exec_switchClose ha hstate hoff
    exact ⟨fun h => by rw [he, if_pos h], fun h => by rw [he, if_neg (by omega)]⟩
  · exact tierStartTimeout_late ha h
  · obtain ⟨hleft, htrained⟩ := interfaceLost_run ha hstate
    exact ⟨exec_powerGoodLoss_run ha hstate, ⟨_, exec_tierInterfaceError ha, hleft, htrained⟩,
      ⟨_, exec_tierInterfaceTimeout ha, hleft, htrained⟩⟩
  · refine ⟨exec_powerGoodLoss_anneal ha hstate, fun ht => ?_, annealSelfTest_pass ha hstate, annealSelfTest_waits ha hstate,
      annealSelfTest_fail ha hstate⟩
    have hlost := interfaceLost_anneal hstate ht
    exact ⟨⟨_, exec_tierInterfaceError ha, hlost⟩, ⟨_, exec_tierInterfaceTimeout ha, hlost⟩⟩
  · obtain ⟨hpower, hlost⟩ := losses_elsewhere ha hrun hanneal
    exact ⟨hpower, by rw [exec_tierInterfaceError ha, hlost], by rw [exec_tierInterfaceTimeout ha, hlost]⟩
  · exact ⟨discoveryComplete_ends ha hstep hfw, discoveryComplete_waits ha⟩

end Sys2Proof.Machine

namespace Sys2Proof.Machine

/-! Resets and pins. -/

/-- What the boot ROM has taken and found (R452, R453, R456), with the MRAM. -/
def Gaffer.boot (g : Gaffer) := (g.step, g.sel, g.ovr, g.torn, g.pins, g.mram, g.fail)

/-- What start-up step 2 has latched (R456, R462). -/
def Router.latched (r : Router) := (r.chip, r.pid, r.edge)

section
variable (s : State)

@[simp] theorem State.post_boot (c : Half) (b : Byte) (d : List Nat) : (s.post c b d).gaffer.boot = s.gaffer.boot := by
  unfold State.post; split <;> rfl

@[simp] theorem State.setJnStat_boot (i : Nat) : (s.setJnStat i).gaffer.boot = s.gaffer.boot := rfl

@[simp] theorem State.kilnRecord_boot (c : Half) (b : Byte) (d : List Nat) :
    (s.kilnRecord c b d).gaffer.boot = s.gaffer.boot := by
  unfold State.kilnRecord; split <;> rfl

@[simp] theorem State.traceStarved_boot : s.traceStarved.gaffer.boot = s.gaffer.boot := by
  unfold State.traceStarved; dsimp only; split <;> simp

@[simp] theorem State.settleStaging_boot : s.settleStaging.gaffer.boot = s.gaffer.boot := by
  unfold State.settleStaging; dsimp only
  (repeat' split) <;> simp

@[simp] theorem State.jend_boot (e : Half) : (s.jend e).gaffer.boot = s.gaffer.boot := by
  unfold State.jend; split
  · simp [State.jappend]
  · rfl

@[simp] theorem State.updateId_boot (e : Half) : (s.updateId e).gaffer.boot = s.gaffer.boot := by
  unfold State.updateId; dsimp only; (repeat' split) <;> simp

@[simp] theorem State.helloAgain_latched : s.helloAgain.router.latched = s.router.latched := by
  have hhello (s : State) (p : Nat) : (s.sendHello p).router.latched = s.router.latched := by
    unfold State.sendHello; split <;> rfl
  exact foldl_keeps _ (fun s => s.router.latched) (fun s p => by split <;> simp [hhello]) _ _

@[simp] theorem State.updateId_latched (e : Half) : (s.updateId e).router.latched = s.router.latched := by
  unfold State.updateId; dsimp only; (repeat' split) <;> simp [State.newId] <;> simp [Router.latched]

@[simp] theorem State.applyLoad_boot (m : Option (List Byte)) :
    (s.applyLoad m).gaffer.boot = s.gaffer.boot ∧ (s.applyLoad m).router.latched = s.router.latched := by
  unfold State.applyLoad; dsimp only
  rw [State.updateId_boot, State.updateId_latched]
  exact ⟨rfl, rfl⟩

/-- Start-up steps 3-5: only TORN and the step change of what step 2 has latched (R453, R456). -/
theorem State.loadMould_boot :
    s.loadMould.gaffer.boot = { s.gaffer with torn := !s.gaffer.validMould s.gaffer.sel.toNat, step := 6#4 }.boot ∧
      s.loadMould.router.latched = s.router.latched := by
  unfold State.loadMould; dsimp only
  split <;> simp <;> rfl

end

section
variable {s : State}

theorem Gaffer.scanKiln_boot (g : Gaffer) : g.scanKiln.boot = g.boot ∧ g.scanKiln.tornMould = g.tornMould := by
  unfold Gaffer.scanKiln; split <;> exact ⟨rfl, rfl⟩

theorem Gaffer.validMould_congr {g k : Gaffer} (hm : k.mram = g.mram) (ht : k.tornMould = g.tornMould) (m : Nat) :
    k.validMould m = g.validMould m := by
  simp [Gaffer.validMould, Gaffer.mould, hm, ht]

/-- The Gaffer as a reset leaves it: what boots it, MRAM with it, and no action of a reply (R452, R456). -/
theorem State.toReset_boot (s : State) (p : Straps) (sel : BitVec 2) (ovr : Bool) :
    (s.toReset p sel ovr).gaffer.boot = (2#4, sel, ovr, false, p.mouldSel, s.gaffer.mram, false) ∧
      (s.toReset p sel ovr).gaffer.tornMould = s.gaffer.tornMould :=
  Gaffer.scanKiln_boot _

/-- RST_N low: the units at their reset values (R206, R468). -/
theorem State.assertReset_parts (s : State) :
    s.assertReset.pins = { s.pins with resetHeld := true, resetPending := false, release := none } ∧
      s.assertReset.tier.state = .off ∧ s.assertReset.core.running = false ∧ s.assertReset.lehr.synced = false ∧
      s.assertReset.mem.mem = [] ∧ s.assertReset.rings.store = [] ∧ s.assertReset.gaffer.mram = s.gaffer.mram ∧
      s.assertReset.gaffer.step = 2#4 ∧ s.assertReset.pending = s.pending := by
  have hboot := (s.toReset_boot s.straps s.gaffer.pins false).1
  simp only [Gaffer.boot, Prod.mk.injEq] at hboot
  obtain ⟨hstep, _, _, _, _, hmram, _⟩ := hboot
  exact ⟨rfl, rfl, rfl, rfl, rfl, rfl, hmram, hstep, rfl⟩

theorem exec_resetAssert_awake (hd : s.pins.dead = false) (hh : s.pins.resetHeld = false) (hst : s.gaffer.storing = false) :
    exec .resetAssert s = .next s.assertReset := by
  simp [exec, execResetAssert, hd, hh, hst]

/-- A reset wakes a base tier that has failed, after the store that was running (R24, R455). -/
def State.wake (s : State) : State :=
  if s.gaffer.storing then { s with free := s.free + 1 }.storeEnds (s.gaffer.storeLost || Config.freeFlag s.free) else s

theorem exec_resetAssert_dead (hd : s.pins.dead = true) :
    exec .resetAssert s = .next { s.wake with pins := { s.wake.pins with dead := false } }.assertReset := by
  simp [exec, execResetAssert, hd, State.wake]

@[simp] theorem State.storeEnds_frame (s : State) (torn : Bool) :
    (s.storeEnds torn).pending = s.pending ∧ (s.storeEnds torn).pins = s.pins := by
  unfold State.storeEnds; (repeat' split) <;> simp

theorem State.wake_parts (s : State) : s.wake.pending = s.pending ∧ s.wake.pins = s.pins ∧
    (s.gaffer.storing = false → s.wake.gaffer.mram = s.gaffer.mram) := by
  unfold State.wake
  cases hst : s.gaffer.storing <;> simp

/-- The release: the straps latched and the mould they select taken, MRAM kept (R452, R456, R462). -/
theorem State.releaseReset_parts (s : State) (p : Straps) (hd : s.pins.dead = false) :
    (s.releaseReset p).pins.alive = true ∧ (s.releaseReset p).gaffer.step = 6#4 ∧ (s.releaseReset p).router.chip = p.chipId ∧
      (s.releaseReset p).router.pid = p.row ++ p.col ∧ (s.releaseReset p).router.edge = p.edge ∧
      (s.releaseReset p).gaffer.pins = p.mouldSel ∧ (s.releaseReset p).gaffer.sel = p.mouldSel ∧
      (s.releaseReset p).gaffer.ovr = false ∧
      (s.releaseReset p).gaffer.torn = !s.gaffer.validMould p.mouldSel.toNat ∧ (s.releaseReset p).tier.state = .off ∧
      (s.releaseReset p).gaffer.mram = s.gaffer.mram ∧ (s.releaseReset p).pending = s.pending ∧
      (s.releaseReset p).pins.resetPending = false ∧ (s.releaseReset p).core.running = false := by
  obtain ⟨hboot, htorn⟩ := s.toReset_boot p p.mouldSel false
  simp only [Gaffer.boot, Prod.mk.injEq] at hboot
  obtain ⟨_, hsel, hovr, _, hpins, hmram, _⟩ := hboot
  obtain ⟨hload, hlatched⟩ := State.loadMould_boot
    { s.toReset p p.mouldSel false with pins := { s.pins with resetHeld := false, resetPending := false, release := none } }
  simp only [Gaffer.boot, Router.latched, Prod.mk.injEq, Gaffer.validMould_congr hmram htorn, hsel, hovr, hpins, hmram]
    at hload hlatched
  obtain ⟨hstep, hsel', hovr', htorn', hpins', hmram', _⟩ := hload
  obtain ⟨hchip, hpid, hedge⟩ := hlatched
  refine ⟨?_, hstep, hchip, hpid, hedge, hpins', hsel', hovr', htorn', ?_, hmram', ?_, ?_, ?_⟩ <;>
    simp [State.releaseReset]
  · simp [Pins.alive, hd]
  all_goals rfl

end
end Sys2Proof.Machine

namespace Sys2Proof.Machine

section
variable {s : State}

section
variable (hd : s.pins.dead = false) (hst : s.gaffer.storing = true) (hp : s.pins.resetPending = true) (torn : Bool)
include hd hst hp

theorem exec_mramStoreComplete_held (hr : s.pins.release = none) :
    exec (.mramStoreComplete torn) s = .next (s.storeEnds (torn || s.gaffer.storeLost)).assertReset := by
  simp [exec, execMramStoreComplete, hd, hst, hp, hr]

theorem exec_mramStoreComplete_released {p : Straps} (hr : s.pins.release = some p) :
    exec (.mramStoreComplete torn) s = .next ((s.storeEnds (torn || s.gaffer.storeLost)).assertReset.releaseReset p) := by
  simp [exec, execMramStoreComplete, hd, hst, hp, hr]

/-- A reset that a store has held off, with a release that came before the store's end (R455, R468). -/
theorem mramStoreComplete_reset :
    ∃ u, exec (.mramStoreComplete torn) s = .next u ∧ u.pins.resetPending = false ∧ u.tier.state = .off ∧
      u.core.running = false ∧ (s.pins.release = none → u.pins.resetHeld = true ∧ u.gaffer.step = 2#4) ∧
      (∀ straps, s.pins.release = some straps →
        u.pins.alive = true ∧ u.gaffer.step = 6#4 ∧ u.router.chip = straps.chipId ∧ u.gaffer.sel = straps.mouldSel) := by
  obtain ⟨hpins, htier, hcore, _, _, _, _, hstep, _⟩ := (s.storeEnds (torn || s.gaffer.storeLost)).assertReset_parts
  cases hr : s.pins.release with
  | none =>
    refine ⟨_, exec_mramStoreComplete_held hd hst hp torn hr, by rw [hpins], htier, hcore, fun _ => ⟨by rw [hpins], hstep⟩,
      fun _ h => nomatch h⟩
  | some p =>
    have hdead : (s.storeEnds (torn || s.gaffer.storeLost)).assertReset.pins.dead = false := by
      rw [hpins]; exact (congrArg Pins.dead (s.storeEnds_frame _).2).trans hd
    obtain ⟨halive, hstep', hchip, _, _, _, hsel, _, _, htier', _, _, hpending, hrun⟩ :=
      (s.storeEnds (torn || s.gaffer.storeLost)).assertReset.releaseReset_parts p hdead
    refine ⟨_, exec_mramStoreComplete_released hd hst hp torn hr, hpending, htier', hrun, (nomatch ·), fun q hq => ?_⟩
    cases hq
    exact ⟨halive, hstep', hchip, hsel⟩

end

/-- Every unit of a reset, from RST_N of a cluster that is awake, held or failed (R24, R206, R468). -/
theorem resetAssert_dead (hd : s.pins.dead = true) :
    ∃ u, exec .resetAssert s = .next u ∧ u.pins.dead = false ∧ u.pins.resetHeld = true ∧ u.tier.state = .off ∧
      u.core.running = false ∧ u.gaffer.step = 2#4 ∧ (s.gaffer.storing = false → u.gaffer.mram = s.gaffer.mram) ∧
      u.pending = s.pending := by
  obtain ⟨hpend, _, hmram⟩ := s.wake_parts
  obtain ⟨hpins, htier, hcore, _, _, _, hmram', hstep, hpend'⟩ :=
    State.assertReset_parts { s.wake with pins := { s.wake.pins with dead := false } }
  refine ⟨_, exec_resetAssert_dead hd, ?_, ?_, htier, hcore, hstep, fun h => hmram'.trans (hmram h), hpend'.trans hpend⟩ <;>
    rw [hpins]

theorem resetRelease_cases (straps : Straps) (hd : s.pins.dead = false) :
    (s.pins.resetPending = false → (s.pins.resetHeld = true ∨ s.gaffer.step = 2#4) →
      exec (.resetRelease straps) s = .next (s.releaseReset straps)) ∧
    (s.pins.resetPending = true →
      exec (.resetRelease straps) s = .next { s with pins := { s.pins with release := some straps } }) ∧
    (s.pins.resetPending = false → s.pins.resetHeld = false → s.gaffer.step ≠ 2#4 →
      exec (.resetRelease straps) s = .next s) := by
  refine ⟨fun hp h => ?_, fun hp => ?_, fun hp hh hs => ?_⟩
  · rcases h with h | h <;> simp [exec, execResetRelease, hd, hp, h]
  · simp [exec, execResetRelease, hd, hp]
  · simp [exec, execResetRelease, hd, hp, hh, hs]

/-- Local memory, the ring store with the credit table and the context store at zero, the state of start-up step 7 (R206, R242,
R456). -/
def State.selfTested (s : State) : State :=
  { s with
    mem := { s.mem with mem := [], bad := [], single := [] }
    rings := { s.rings with store := [], credit := [] }
    se := { s.se with ctxs := [], seqTable := [] }
    journal := { s.journal with staged := [], trace := [] }
    gaffer := { s.gaffer with step := 7#4, image := if s.gaffer.started then s.gaffer.image else none } }

theorem exec_bistComplete_pass (ha : s.pins.alive = true) (hs : s.gaffer.step = 6#4) (hf : s.gaffer.fail = false) :
    exec (.bistComplete true) s = .next (if s.gaffer.started then s.selfTested.powerUp else s.selfTested) := by
  have hcond : (!s.pins.alive || s.gaffer.step != 6#4 || s.gaffer.fail) = false := by simp [ha, hs, hf]
  simp only [exec, execBistComplete, hcond, Bool.false_eq_true, if_false, if_true]
  rfl

/-- The supply's start touches the boot ROM's step alone in the Gaffer (R456). -/
theorem State.powerUp_mram (s : State) : s.powerUp.gaffer.mram = s.gaffer.mram := by
  unfold State.powerUp; split <;> rfl

theorem State.powerUp_off (h : s.tier.state = .off) :
    s.powerUp.gaffer.step = 8#4 ∧ s.powerUp.tier.state = .starting := by
  simp [State.powerUp, h]

/-- Start-up step 6 ends well (R206, R242, R456). -/
theorem bistComplete_pass (ha : s.pins.alive = true) (hs : s.gaffer.step = 6#4) (hf : s.gaffer.fail = false) :
    ∃ u, exec (.bistComplete true) s = .next u ∧ u.mem.mem = [] ∧ u.mem.bad = [] ∧ u.mem.single = [] ∧
      u.rings.store = [] ∧ u.rings.credit = [] ∧ u.se.ctxs = [] ∧ u.se.seqTable = [] ∧ u.gaffer.mram = s.gaffer.mram ∧
      u.core = s.core ∧ u.router = s.router ∧
      (s.gaffer.started = false → u.gaffer.step = 7#4 ∧ u.gaffer.image = none ∧ u.tier = s.tier) ∧
      (s.gaffer.started = true → s.tier.state = .off → u.gaffer.step = 8#4 ∧ u.tier.state = .starting) := by
  refine ⟨_, exec_bistComplete_pass ha hs hf, ?_⟩
  cases hst : s.gaffer.started
  · simp [State.selfTested, hst]
  · have hoff : s.tier.state = .off → _ := State.powerUp_off (s := s.selfTested)
    simp only [if_true, State.powerUp_frame, State.powerUp_mram]
    exact ⟨rfl, rfl, rfl, rfl, rfl, rfl, rfl, rfl, rfl, rfl, (nomatch ·), fun _ => hoff⟩

/-- Start-up step 6 fails: FAIL and the kiln record (R206, R456). -/
theorem bistComplete_fail (ha : s.pins.alive = true) (hs : s.gaffer.step = 6#4) (hf : s.gaffer.fail = false) :
    ∃ u, exec (.bistComplete false) s = .next u ∧ u.gaffer.fail = true ∧ u.gaffer.step = 6#4 ∧ u.mem = s.mem ∧
      u.tier = s.tier ∧ u.core = s.core := by
  have hcond : (!s.pins.alive || s.gaffer.step != 6#4 || s.gaffer.fail) = false := by simp [ha, hs, hf]
  have hboot := State.kilnRecord_boot { s with free := s.free + 1, gaffer := { s.gaffer with fail := true } }
    Code.eccUncorrected Source.firmware [(Config.freeWord s.free 0).toNat, (Config.freeWord s.free 1).toNat]
  simp only [Gaffer.boot, Prod.mk.injEq] at hboot
  obtain ⟨hstep, _, _, _, _, _, hfail⟩ := hboot
  refine ⟨_, by simp only [exec, execBistComplete, hcond, Bool.false_eq_true, if_false], hfail, hstep.trans hs, ?_⟩
  simp

theorem resetAssert_held (hd : s.pins.dead = false) (hh : s.pins.resetHeld = true) : exec .resetAssert s = .next s := by
  simp [exec, execResetAssert, hd, hh]

theorem resetAssert_storing (hd : s.pins.dead = false) (hh : s.pins.resetHeld = false) (hst : s.gaffer.storing = true) :
    exec .resetAssert s = .next { s with pins := { s.pins with resetPending := true, release := none } } := by
  simp [exec, execResetAssert, hd, hh, hst]

theorem State.startMouldStore_mram : s.startMouldStore.gaffer.mram = s.gaffer.mram := by
  unfold State.startMouldStore; (repeat' split) <;> rfl

theorem State.startMouldStore_wait (hp : s.pins.pwrStable = true) {r m image since}
    (hw : s.gaffer.mouldAct = some (.wait r m image since)) :
    s.startMouldStore.gaffer.mouldAct =
      if s.gaffer.kilnBusy then some (.wait r m image since) else some (.store r m image) := by
  cases hk : s.gaffer.kilnBusy <;> simp [State.startMouldStore, hp, hw, hk]

/-- A fall of PWR_STABLE tears a running store, a rise starts one that waits (R455). -/
theorem pwrStableChange (level : Bool) : ∃ u, exec (.pwrStableChange level) s = .next u ∧
    u.pins = { s.pins with pwrStable := level } ∧
    (level = false → u.gaffer.storeLost = (s.gaffer.storeLost || s.gaffer.storing) ∧
      u.gaffer.mouldAct = s.gaffer.mouldAct) ∧
    (∀ r m image since, level = true → s.pins.alive = true → s.gaffer.mouldAct = some (.wait r m image since) →
      u.gaffer.mouldAct = if s.gaffer.kilnBusy then some (.wait r m image since) else some (.store r m image)) ∧
    u.gaffer.mram = s.gaffer.mram ∧ u.core = s.core ∧ u.mem = s.mem := by
  have halive : ({ s.pins with pwrStable := level } : Pins).alive = s.pins.alive := rfl
  refine ⟨_, rfl, ?_⟩
  simp only [halive]
  cases hup : level && s.pins.alive
  · refine ⟨rfl, fun h => ⟨by simp [h], rfl⟩, fun r m image since hl ha => ?_, rfl, rfl, rfl⟩
    simp [hl, ha] at hup
  · obtain ⟨hl, ha⟩ := Bool.and_eq_true_iff.mp hup
    simp only [if_true, State.startMouldStore_frame, State.startMouldStore_mram]
    refine ⟨trivial, fun h => absurd (hl.symm.trans h) (by decide), fun r m image since _ _ hw => ?_, trivial, trivial, trivial⟩
    exact State.startMouldStore_wait (s := { s with
      pins := { s.pins with pwrStable := level }
      gaffer := { s.gaffer with storeLost := s.gaffer.storeLost || (!level && s.gaffer.storing) } }) hl hw

theorem scanShift_inTest (ht : s.pins.testMode = true) :
    ∃ u, exec .scanShift s = .next u ∧ u.pins = s.pins ∧ u.pending = s.pending ∧ u.gaffer.mram = s.gaffer.mram := by
  simp [exec, execScanShift, ht]

theorem scanShift_functional (ht : s.pins.testMode = false) : exec .scanShift s = .next s := by
  simp [exec, execScanShift, ht]

/-- A base tier that has failed answers nothing (R24, R472). -/
theorem dead_answersNothing (ha : s.pins.alive = false) :
    (∀ m addr value, exec (.registerWrite m addr value) s = .next s) ∧ exec .gafferRound s = .next s ∧
      (∀ src, exec (.routerForward src) s = .next s) ∧ exec .journalWrite s = .next s := by
  refine ⟨fun m addr value => ?_, ?_, fun src => ?_, ?_⟩
  · simp [exec, execRegisterWrite, State.masterWrite, ha]
  · simp [exec, execGafferRound, ha]
  · simp [exec, execRouterForward, ha]
  · simp [exec, execJournalWrite, ha]

/-- The IEEE 1687 network writes one byte of the repair area (R454, R475). -/
theorem repairWrite_reads (offset : BitVec 14) (value : Byte) (hwf : Memory.wf s.gaffer.mram = true) :
    (s.gaffer.mram.write (0x8000 + offset.toNat) value).read (0x8000 + offset.toNat) = value ∧
      ∀ a, a ≠ 0x8000 + offset.toNat →
        (s.gaffer.mram.write (0x8000 + offset.toNat) value).read a = s.gaffer.mram.read a :=
  ⟨Memory.read_write_same _ _ _ hwf, fun _ ha => Memory.read_write_ne _ _ _ _ hwf ha⟩

end

/-- Settles O56: each event by the states it finds, from the parts of a reset that is held and of one that is released. -/
theorem resetAndPins : Obligations.ResetAndPins := by
  unfold Obligations.ResetAndPins
  intro s
  refine ⟨fun hd hh => ⟨fun hst => ?_, resetAssert_storing hd hh⟩, resetAssert_held, resetAssert_dead,
    fun straps hd => ⟨fun hp hh => ?_, (resetRelease_cases straps hd).2⟩,
    mramStoreComplete_reset, fun ha hs hf => ⟨bistComplete_pass ha hs hf, bistComplete_fail ha hs hf⟩, pwrStableChange,
    fun _ => rfl, scanShift_inTest, scanShift_functional, ?_, rfl, rfl, fun offset value => ?_⟩
  · obtain ⟨hpins, htier, hcore, hlehr, hmem, hrings, hmram, hstep, hpend⟩ := s.assertReset_parts
    exact ⟨_, exec_resetAssert_awake hd hh hst, by rw [hpins], by rw [hpins], htier, hcore, hlehr, hmem, hrings, hmram, hstep,
      hpend⟩
  · obtain ⟨halive, hstep, hchip, hpid, hedge, hpins, hsel, hovr, htorn, htier, hmram, hpend, _⟩ :=
      s.releaseReset_parts straps hd
    exact ⟨_, (resetRelease_cases straps hd).1 hp hh, halive, hstep, hchip, hpid, hedge, hpins, hsel, hovr, htorn, htier, hmram,
      hpend⟩
  · exact ⟨_, rfl, rfl, dead_answersNothing (by simp [Pins.alive])⟩
  · exact ⟨_, rfl, repairWrite_reads offset value, rfl⟩

end Sys2Proof.Machine

namespace Sys2Proof.Machine

/-! Numbers at places in bytes (R7). -/

theorem leBytes_add (m n v : Nat) : leBytes (m + n) v = leBytes m v ++ leBytes n (v / 256 ^ m) := by
  induction m generalizing v with
  | zero => simp [leBytes]
  | succ m ih => simp [Nat.succ_add, leBytes, ih, Nat.div_div_eq_div_mul, Nat.pow_succ']

theorem ofLE_lt (bs : List Byte) : ofLE bs < 256 ^ bs.length := by
  induction bs with
  | nil => simp [ofLE]
  | cons b bs ih =>
    have := b.isLt
    rw [List.length_cons, Nat.pow_succ, ofLE]
    omega

theorem ofLE_append (a b : List Byte) : ofLE (a ++ b) = ofLE a + 256 ^ a.length * ofLE b := by
  induction a with
  | nil => simp [ofLE]
  | cons x a ih => simp only [List.cons_append, ofLE, ih, List.length_cons, Nat.pow_succ']; ring

theorem leAt_lt (bs : List Byte) (o n : Nat) : leAt bs o n < 256 ^ n :=
  (ofLE_lt _).trans_le (Nat.pow_le_pow_right (by decide) (List.length_take_le ..))

/-- Bytes in front of a place. -/
theorem leAt_append_right {a : List Byte} {o : Nat} (h : a.length ≤ o) (b : List Byte) (n : Nat) :
    leAt (a ++ b) o n = leAt b (o - a.length) n := by
  rw [leAt, List.drop_append, List.drop_eq_nil_of_le h, List.nil_append, leAt]

theorem leAt_leBytes_skip {k o : Nat} (h : k ≤ o) (v : Nat) (b : List Byte) (n : Nat) :
    leAt (leBytes k v ++ b) o n = leAt b (o - k) n := by
  simpa using leAt_append_right (a := leBytes k v) (by simpa using h) b n

theorem leAt_leBytes (k v : Nat) (b : List Byte) : leAt (leBytes k v ++ b) 0 k = v % 256 ^ k := by
  rw [leAt, List.drop_zero, List.take_left' (length_leBytes k v), ofLE_leBytes]

theorem leAt_leBytes_self (k v : Nat) : leAt (leBytes k v) 0 k = v % 256 ^ k := by
  simpa using leAt_leBytes k v []

/-- A number whose low part ends inside the bytes. -/
theorem leAt_add {b : List Byte} {o m : Nat} (h : o + m ≤ b.length) (n : Nat) :
    leAt b o (m + n) = leAt b o m + 256 ^ m * leAt b (o + m) n := by
  have hlen : ((b.drop o).take m).length = m := by simp; omega
  rw [leAt, List.take_add, ofLE_append, hlen, List.drop_drop, leAt, leAt]

@[simp] theorem length_wordBytes (ws : List Nat) : (wordBytes ws).length = 4 * ws.length := by
  induction ws with
  | nil => rfl
  | cons w ws ih =>
    rw [wordBytes, List.flatMap_cons, List.length_append, ← wordBytes, ih, length_leBytes, List.length_cons]
    omega

/-- Word `i` of the words of a packet (R434, R435). -/
theorem leAt_wordBytes (ws : List Nat) (i : Nat) : leAt (wordBytes ws) (4 * i) 4 = ws.getD i 0 % 2 ^ 32 := by
  induction ws generalizing i with
  | nil => simp [wordBytes, leAt, ofLE]
  | cons w ws ih =>
    have hcons : wordBytes (w :: ws) = leBytes 4 w ++ wordBytes ws := rfl
    rw [hcons]
    cases i with
    | zero => exact leAt_leBytes 4 w _
    | succ i =>
      rw [leAt_leBytes_skip (by omega), show 4 * (i + 1) - 4 = 4 * i by omega, ih]
      rfl

theorem length_wordsOf (n : Nat) (bs : List Byte) : (wordsOf n bs).length = n := by
  induction n generalizing bs with
  | zero => rfl
  | succ n ih => simp [wordsOf, ih]

/-- Word `i` of bytes taken apart. -/
theorem getD_wordsOf {n i : Nat} (h : i < n) (bs : List Byte) : (wordsOf n bs).getD i 0 = leAt bs (4 * i) 4 := by
  induction n generalizing i bs with
  | zero => omega
  | succ n ih =>
    cases i with
    | zero => rfl
    | succ i => simpa [wordsOf, leAt, Nat.mul_add, Nat.add_comm] using ih (i := i) (by omega) (bs.drop 4)

/-- Bytes cut behind a number leave it. -/
theorem leAt_take {o n k : Nat} (h : o + n ≤ k) (bs : List Byte) : leAt (bs.take k) o n = leAt bs o n := by
  rw [leAt, List.drop_take, List.take_take, Nat.min_eq_left (by omega), leAt]

theorem leAt_drop (bs : List Byte) (k o n : Nat) : leAt (bs.drop k) o n = leAt bs (k + o) n := by
  rw [leAt, List.drop_drop, leAt]

end Sys2Proof.Machine

namespace Sys2Proof.Machine

/-! The layout of packets (R434-R436, R446). -/

/-- The 12 bytes of a CP2 packet before its CRC (R434). -/
def cp2Head (opc tag src flags status : Nat) (ws : List Nat) : List Byte :=
  leBytes 1 2 ++ (leBytes 1 opc ++ (leBytes 2 tag ++ (leBytes 1 src ++ (leBytes 1 flags ++ (leBytes 2 ws.length ++
    (leBytes 2 status ++ leBytes 2 0))))))

/-- The 8 bytes of a CP1 reply before its CRC (R435). -/
def cp1Head (opc tag src status : Nat) (ws : List Nat) : List Byte :=
  leBytes 1 1 ++ (leBytes 1 opc ++ (leBytes 1 tag ++ (leBytes 1 src ++ (leBytes 2 status ++ (leBytes 1 ws.length ++
    leBytes 1 0)))))

/-- A header, the CRC over it and the words, and the words. -/
def sealed (head : List Byte) (ws : List Nat) : List Byte :=
  head ++ (leBytes 4 (crc32c (head ++ wordBytes ws)).toNat ++ wordBytes ws)

theorem cp2_eq (opc tag src flags status : Nat) (ws : List Nat) :
    cp2 opc tag src flags status ws = sealed (cp2Head opc tag src flags status ws) ws := by
  simp only [cp2, sealed, cp2Head, List.append_assoc]

theorem cp1Reply_eq (opc tag src status : Nat) (ws : List Nat) :
    cp1Reply opc tag src status ws = sealed (cp1Head opc tag src status ws) ws := by
  simp only [cp1Reply, sealed, cp1Head, List.append_assoc]

section
variable {head : List Byte} {ws : List Nat}

theorem length_sealed : (sealed head ws).length = head.length + 4 + 4 * ws.length := by
  simp [sealed, Nat.add_assoc]

theorem leAt_sealed_head {o n : Nat} (h : o + n ≤ head.length) : leAt (sealed head ws) o n = leAt head o n := by
  rw [← leAt_take h, sealed, List.take_left' rfl]

theorem leAt_sealed_crc :
    leAt (sealed head ws) head.length 4 =
      (crc32c ((sealed head ws).take head.length ++ (sealed head ws).drop (head.length + 4))).toNat := by
  have htake : (sealed head ws).take head.length = head := List.take_left' rfl
  have hdrop : (sealed head ws).drop (head.length + 4) = wordBytes ws := by
    rw [sealed, ← List.append_assoc, List.drop_left' (by simp)]
  rw [htake, hdrop, sealed, leAt_append_right le_rfl, Nat.sub_self, leAt_leBytes]
  exact Nat.mod_eq_of_lt (BitVec.isLt _)

theorem leAt_sealed_word (i : Nat) : leAt (sealed head ws) (head.length + 4 + 4 * i) 4 = ws.getD i 0 % 2 ^ 32 := by
  rw [sealed, leAt_append_right (by omega), leAt_leBytes_skip (by omega),
    show head.length + 4 + 4 * i - head.length - 4 = 4 * i by omega, leAt_wordBytes]

end

theorem length_cp2Head (opc tag src flags status : Nat) (ws : List Nat) : (cp2Head opc tag src flags status ws).length = 12 := by
  simp [cp2Head]

theorem length_cp1Head (opc tag src status : Nat) (ws : List Nat) : (cp1Head opc tag src status ws).length = 8 := by
  simp [cp1Head]

/-- A number at a place of a header: the fields before it are skipped one by one. -/
theorem cp2Head_fields (opc tag src flags status : Nat) (ws : List Nat) :
    let b := cp2Head opc tag src flags status ws
    leAt b 0 1 = 2 ∧ leAt b 1 1 = opc % 256 ∧ leAt b 2 2 = tag % 65536 ∧ leAt b 4 1 = src % 256 ∧ leAt b 5 1 = flags % 256 ∧
      leAt b 6 2 = ws.length % 65536 ∧ leAt b 8 2 = status % 65536 ∧ leAt b 10 2 = 0 := by
  simp [cp2Head, leAt_leBytes_skip, leAt_leBytes, leAt_leBytes_self]

theorem cp1Head_fields (opc tag src status : Nat) (ws : List Nat) :
    let b := cp1Head opc tag src status ws
    leAt b 0 1 = 1 ∧ leAt b 1 1 = opc % 256 ∧ leAt b 2 1 = tag % 256 ∧ leAt b 3 1 = src % 256 ∧ leAt b 4 2 = status % 65536 ∧
      leAt b 6 1 = ws.length % 256 ∧ leAt b 7 1 = 0 := by
  simp [cp1Head, leAt_leBytes_skip, leAt_leBytes, leAt_leBytes_self]

/-- Numbers at the places of a CP2 packet (R434). -/
theorem cp2_fields (opc tag src flags status : Nat) (ws : List Nat) :
    let b := cp2 opc tag src flags status ws
    leAt b 0 1 = 2 ∧ leAt b 1 1 = opc % 256 ∧ leAt b 2 2 = tag % 65536 ∧ leAt b 4 1 = src % 256 ∧ leAt b 5 1 = flags % 256 ∧
      leAt b 6 2 = ws.length % 65536 ∧ leAt b 8 2 = status % 65536 ∧ leAt b 10 2 = 0 := by
  have hlen := length_cp2Head opc tag src flags status ws
  have hin {o n : Nat} (h : o + n ≤ 12) := leAt_sealed_head (ws := ws) (hlen.symm ▸ h)
  simpa [cp2_eq, hin] using cp2Head_fields opc tag src flags status ws

/-- Numbers at the places of a CP1 reply (R435). -/
theorem cp1Reply_fields (opc tag src status : Nat) (ws : List Nat) :
    let b := cp1Reply opc tag src status ws
    leAt b 0 1 = 1 ∧ leAt b 1 1 = opc % 256 ∧ leAt b 2 1 = tag % 256 ∧ leAt b 3 1 = src % 256 ∧ leAt b 4 2 = status % 65536 ∧
      leAt b 6 1 = ws.length % 256 ∧ leAt b 7 1 = 0 := by
  have hlen := length_cp1Head opc tag src status ws
  have hin {o n : Nat} (h : o + n ≤ 8) := leAt_sealed_head (ws := ws) (hlen.symm ▸ h)
  simpa [cp1Reply_eq, hin] using cp1Head_fields opc tag src status ws

/-- Word `i` of a CP2 packet. -/
theorem leAt_cp2_word (opc tag src flags status : Nat) (ws : List Nat) (i : Nat) :
    leAt (cp2 opc tag src flags status ws) (16 + 4 * i) 4 = ws.getD i 0 % 2 ^ 32 := by
  have h := leAt_sealed_word (head := cp2Head opc tag src flags status ws) (ws := ws) i
  rwa [length_cp2Head, ← cp2_eq] at h

theorem leAt_cp1Reply_word (opc tag src status : Nat) (ws : List Nat) (i : Nat) :
    leAt (cp1Reply opc tag src status ws) (12 + 4 * i) 4 = ws.getD i 0 % 2 ^ 32 := by
  have h := leAt_sealed_word (head := cp1Head opc tag src status ws) (ws := ws) i
  rwa [length_cp1Head, ← cp1Reply_eq] at h

theorem leAt_cp2_crc (opc tag src flags status : Nat) (ws : List Nat) :
    let b := cp2 opc tag src flags status ws
    leAt b 12 4 = (crc32c (b.take 12 ++ b.drop 16)).toNat := by
  have h := leAt_sealed_crc (head := cp2Head opc tag src flags status ws) (ws := ws)
  rwa [length_cp2Head, ← cp2_eq] at h

theorem leAt_cp1Reply_crc (opc tag src status : Nat) (ws : List Nat) :
    let b := cp1Reply opc tag src status ws
    leAt b 8 4 = (crc32c (b.take 8 ++ b.drop 12)).toNat := by
  have h := leAt_sealed_crc (head := cp1Head opc tag src status ws) (ws := ws)
  rwa [length_cp1Head, ← cp1Reply_eq] at h

theorem length_cp2 (opc tag src flags status : Nat) (ws : List Nat) :
    (cp2 opc tag src flags status ws).length = 16 + 4 * ws.length := by
  rw [cp2_eq, length_sealed, length_cp2Head]

theorem length_cp1Reply (opc tag src status : Nat) (ws : List Nat) :
    (cp1Reply opc tag src status ws).length = 12 + 4 * ws.length := by
  rw [cp1Reply_eq, length_sealed, length_cp1Head]

/-- The packet of a reply is laid out as R434-R436 say. -/
theorem ReplyTo.packet_is (r : ReplyTo) (status : Half) (final : Bool) {ws : List Nat} (hlen : ws.length < 256)
    (hws : ∀ w ∈ ws, w < 2 ^ 32) : ReplyIs (r.packet status final ws) r final status ws := by
  have hword (i : Nat) (hi : i < ws.length) : ws.getD i 0 % 2 ^ 32 = ws.getD i 0 := by
    rw [List.getD_eq_getElem _ _ hi]
    exact Nat.mod_eq_of_lt (hws _ (List.getElem_mem hi))
  have hopc : (r.opc.toNat % 128 + 128) % 256 = r.opc.toNat % 128 + 128 := by omega
  have htag := Nat.mod_eq_of_lt r.tag.isLt
  have hsrc := Nat.mod_eq_of_lt r.src.isLt
  have hstatus := Nat.mod_eq_of_lt status.isLt
  have hflag : flag 1 final % 256 = if final then 2 else 0 := by cases final <;> rfl
  cases hcp : r.cp1
  · obtain ⟨h0, h1, h2, h4, h5, h6, h8, h10⟩ :=
      cp2_fields (r.opc.toNat % 128 + 128) r.tag.toNat r.src.toNat (flag 1 final) status.toNat ws
    rw [ReplyTo.packet, hcp]
    refine ⟨h1.trans hopc, (fun h => absurd (hcp.symm.trans h) (by decide)), fun _ => ⟨length_cp2 .., h0, h2.trans htag,
      h4.trans hsrc, h5.trans hflag, h6.trans (Nat.mod_eq_of_lt (by omega)), h8.trans hstatus, h10,
      fun i hi => (leAt_cp2_word ..).trans (hword i hi), leAt_cp2_crc ..⟩⟩
  · obtain ⟨h0, h1, h2, h3, h4, h6, h7⟩ :=
      cp1Reply_fields (r.opc.toNat % 128 + 128) r.tag.toNat r.src.toNat status.toNat ws
    rw [ReplyTo.packet, hcp]
    refine ⟨h1.trans hopc, fun _ => ⟨length_cp1Reply .., h0, h2, h3.trans hsrc, h4.trans hstatus,
      h6.trans (Nat.mod_eq_of_lt hlen), h7, fun i hi => (leAt_cp1Reply_word ..).trans (hword i hi), leAt_cp1Reply_crc ..⟩,
      fun h => absurd (hcp.symm.trans h) (by decide)⟩

theorem loWord_add_hiWord (x : DWord) : (loWord x).toNat + 2 ^ 32 * (hiWord x).toNat = x.toNat := by
  simp only [loWord, hiWord, BitVec.extractLsb'_toNat, Nat.shiftRight_eq_div_pow]
  have := x.isLt
  omega

/-- A word by its first byte, its second and its upper half. -/
theorem leAt_word_parts {b : List Byte} {o : Nat} (h : o + 4 ≤ b.length) :
    leAt b o 4 = leAt b o 1 + 256 * (leAt b (o + 1) 1 + 256 * leAt b (o + 2) 2) := by
  have hlow : leAt b o (1 + 3) = _ := leAt_add (by omega) 3
  have hmid : leAt b (o + 1) (1 + 2) = _ := leAt_add (by omega) 2
  simpa only [hmid, pow_one] using hlow

theorem leAt_dword_parts {b : List Byte} {o : Nat} (h : o + 8 ≤ b.length) :
    leAt b o 8 = leAt b o 4 + 2 ^ 32 * leAt b (o + 4) 4 :=
  leAt_add (b := b) (o := o) (m := 4) (by omega) 4

/-- An event's packet: what R446 says of its header and of the words before DETAIL. -/
theorem Event.packet_fields (e : Event) (lost : Half) :
    let b := e.packet lost.toNat
    leAt b 1 1 = 0x80 ∧ leAt b 4 1 = 1 ∧ leAt b 8 2 = e.code.toNat ∧ leAt b 16 1 = e.source.toNat ∧
      leAt b 18 2 = lost.toNat ∧ leAt b 20 8 = e.lc.toNat := by
  have hsource := e.source.isLt
  have htier := e.tier.isLt
  have hlost := lost.isLt
  have hlen : (e.packet lost.toNat).length = 64 := by simp [Event.packet, length_cp2, Event.words]
  have hword (i : Nat) : leAt (e.packet lost.toNat) (16 + 4 * i) 4 = (e.words lost.toNat).getD i 0 % 2 ^ 32 :=
    leAt_cp2_word ..
  obtain ⟨_, hopc, _, hsrc, _, _, hcode, _⟩ := cp2_fields 0x80 0 1 1 e.code.toNat (e.words lost.toNat)
  generalize hb : e.packet lost.toNat = b at hlen hword ⊢
  rw [← Event.packet, hb] at hopc hsrc hcode
  have hw0 : leAt b 16 4 = e.source.toNat + e.tier.toNat * 256 + lost.toNat * 65536 :=
    (hword 0).trans (Nat.mod_eq_of_lt (by simp only [Event.words, List.cons_append, List.getD_cons_zero]; omega))
  have hlo : leAt b 20 4 = (loWord e.lc).toNat := (hword 1).trans (Nat.mod_eq_of_lt (BitVec.isLt _))
  have hhi : leAt b 24 4 = (hiWord e.lc).toNat := (hword 2).trans (Nat.mod_eq_of_lt (BitVec.isLt _))
  have hparts : leAt b 16 4 = leAt b 16 1 + 256 * (leAt b 17 1 + 256 * leAt b 18 2) := leAt_word_parts (by omega)
  have hfirst := leAt_lt b 16 1
  have hsecond := leAt_lt b 17 1
  refine ⟨hopc, hsrc, hcode.trans (Nat.mod_eq_of_lt e.code.isLt), by omega, by omega, ?_⟩
  rw [leAt_dword_parts (by omega), hlo, hhi, loWord_add_hiWord]

end Sys2Proof.Machine

namespace Sys2Proof.Machine

/-! A packet of the management port: what its bytes spell and which of checks 1-6 it fails (R434-R437). -/

/-- The packet that a command packet of the port spells. -/
def portPacket (bytes : List Byte) : Packet := packetOf { input := .port, bytes := bytes }

theorem packetOf_length (x : InPacket) : (packetOf x).ws.length = if leAt x.bytes 0 1 == 1 then leAt x.bytes 4 1 else leAt x.bytes 6 2 :=
  length_wordsOf _ _

theorem packetOf_w (x : InPacket) {i : Nat} (h : i < (packetOf x).ws.length) :
    (packetOf x).w i = leAt x.bytes ((if leAt x.bytes 0 1 == 1 then 12 else 16) + 4 * i) 4 := by
  rw [packetOf_length] at h
  exact (getD_wordsOf h _).trans ((leAt_take (by omega) _).trans (leAt_drop ..))

/-- Every parameter word is a word. -/
theorem packetOf_w_lt (x : InPacket) (i : Nat) : (packetOf x).w i < 2 ^ 32 := by
  by_cases h : i < (packetOf x).ws.length
  · rw [packetOf_w x h]
    exact leAt_lt _ _ 4
  · rw [Packet.w, List.getD_eq_default _ _ (by omega)]
    decide

/-- The header and the words of a packet stand where R434 and R435 lay them out. -/
theorem packetOf_is (x : InPacket) : PacketIs x.bytes (packetOf x) := by
  have hlen := packetOf_length x
  have hword {i : Nat} := packetOf_w x (i := i)
  have hver : (packetOf x).ver = leAt x.bytes 0 1 := rfl
  refine ⟨hver, rfl, fun h => ?_, fun h => ?_⟩ <;> rw [hver] at h
  · simp only [h, beq_self_eq_true, if_true] at hlen hword
    exact ⟨by simp [packetOf, h], by simp [packetOf, h], hlen, fun i => hword, by simp [packetOf, h]⟩
  · simp only [beq_iff_eq, h, if_false] at hlen hword
    exact ⟨by simp [packetOf, h], by simp [packetOf, h], hlen, fun i => hword, by simp [packetOf, h]⟩

section
variable (b : List Byte)

/-- The length and the CRC of the port's packet with a header of `h` bytes and `n` words. -/
theorem lengthAgrees_crc_iff (h n : Nat) :
    (lengthAgrees .port b.length (h + 4 * n) &&
        leAt b (h - 4) 4 == (crc32c (b.take (h - 4) ++ (b.drop h).take (4 * n))).toNat) = true ↔
      b.length ≤ 1040 ∧ b.length = h + 4 * n ∧ leAt b (h - 4) 4 = (crc32c (b.take (h - 4) ++ b.drop h)).toNat := by
  have hbody (hl : b.length = h + 4 * n) : (b.drop h).take (4 * n) = b.drop h :=
    List.take_of_length_le (by rw [List.length_drop]; omega)
  simp only [lengthAgrees, Bool.and_eq_true, beq_iff_eq, decide_eq_true_eq]
  constructor
  · rintro ⟨⟨hl, hmax⟩, hcrc⟩
    exact ⟨by omega, hl, hbody hl ▸ hcrc⟩
  · rintro ⟨hmax, hl, hcrc⟩
    exact ⟨⟨hl, by omega⟩, (hbody hl).symm ▸ hcrc⟩

/-- Check 1 (R436). -/
theorem portPacket_intact_iff : (portPacket b).intact = true ↔ PacketIntact b (portPacket b) := by
  have hlen : (portPacket b).ws.length = _ := packetOf_length { input := .port, bytes := b }
  have hver : (portPacket b).ver = leAt b 0 1 := rfl
  rw [PacketIntact, hver, hlen]
  by_cases h : leAt b 0 1 = 1
  · simpa [portPacket, packetOf, h] using lengthAgrees_crc_iff b 12 (leAt b 4 1)
  · simpa [portPacket, packetOf, h] using lengthAgrees_crc_iff b 16 (leAt b 6 2)

end

section
variable {p : Packet}

/-- Check 2 (R436). -/
theorem badVersion_iff (hport : p.input = .port) :
    p.badVersion = true ↔ (p.ver ≠ 1 ∧ p.ver ≠ 2) ∨ (p.ver = 1 ∧ p.opc ∈ [0x0B, 0x0C, 0x12, 0x14, 0x15]) := by
  simp [Packet.badVersion, hport, cp2Only, Opc.restore, Opc.replay, Opc.digestRead, Opc.memRead, Opc.memWrite, or_assoc]

/-- Check 3 at the port (R432). -/
theorem srcFits_iff (hport : p.input = .port) : p.srcFits = false ↔ p.src = 0 ∨ 0x0F < p.src := by
  simp only [Packet.srcFits, hport, Bool.and_eq_false_iff, decide_eq_false_iff_not]
  omega

/-- Check 4 (R437). -/
theorem defined_iff : p.defined = false ↔ p.opc = 0 ∨ 0x15 < p.opc := by
  simp only [Packet.defined, Bool.and_eq_false_iff, decide_eq_false_iff_not]
  omega

theorem clr_iff : p.clr = true ↔
    (p.opc = 0x11 ∧ (p.w 0).testBit 8 = true) ∨ (p.opc = 0x12 ∧ (p.w 0).testBit 16 = true) := by
  simp [Packet.clr, Opc.queryStats, Opc.digestRead, bit]

/-- The class of every defined opcode is the one of the table of R437. -/
theorem classBit_iff (hopc : ¬ (p.opc = 0 ∨ 0x15 < p.opc)) (k : Nat) : ClassBit p k ↔ k = p.classBit := by
  rw [ClassBit, ← clr_iff, Packet.classBit]
  have hclr : p.clr = true → p.opc = 0x11 ∨ p.opc = 0x12 := fun h => (clr_iff.mp h).imp And.left And.left
  obtain ⟨hlo, hhi⟩ : 1 ≤ p.opc ∧ p.opc ≤ 0x15 := by omega
  clear hopc
  generalize p.opc = o at *
  cases hc : p.clr
  · interval_cases o <;>
      simp [Opc.identify, Opc.readKiln, Opc.memRead, Opc.queryStats, Opc.digestRead, Opc.resume, Opc.stepParams, Opc.memWrite,
        Opc.loadFw, Opc.startFw, Opc.launchAt]
  · rcases hclr hc with rfl | rfl <;>
      simp [Opc.identify, Opc.readKiln, Opc.memRead, Opc.queryStats, Opc.digestRead]

/-- Check 5 (R437, R449). -/
theorem classDenied_iff (s : State) (hopc : ¬ (p.opc = 0 ∨ 0x15 < p.opc)) :
    (∀ k, ClassBit p k → (s.entry p.src).testBit (16 + k) = false) ↔ (s.entry p.src).testBit (16 + p.classBit) = false := by
  simp only [classBit_iff hopc, forall_eq]

end

/-- The first of checks 1-6 that the port's packet fails is the one that R436 names. -/
theorem State.packetCheck_of_verdict {s : State} {b : List Byte} {code : Half} (h : PacketVerdict s b (portPacket b) code) :
    s.packetCheck (portPacket b) = if code = 0x0000#16 then none else some code := by
  have hport : (portPacket b).input = .port := rfl
  have hclass (hd : (portPacket b).defined = true) := classDenied_iff (p := portPacket b) s (by simp [← defined_iff, hd])
  simp only [PacketVerdict] at h
  rw [← portPacket_intact_iff, ← badVersion_iff hport, ← srcFits_iff hport, ← defined_iff] at h
  simp only [Bool.not_eq_true, Bool.not_eq_false] at h
  rw [State.packetCheck]
  rcases h with ⟨h1, rfl⟩ | ⟨h1, h2, rfl⟩ | ⟨h1, h2, h3, rfl⟩ | ⟨h1, h2, h3, h4, rfl⟩ | ⟨h1, h2, h3, h4, h5, rfl⟩ |
      ⟨h1, h2, h3, h4, h5, h6, rfl⟩ | ⟨h1, h2, h3, h4, h5, h6, rfl⟩
  · simp [h1, Code.badPacket]
  · simp [h1, h2, Code.badVersion]
  · simp [h1, h2, h3, Code.denied]
  · simp [h1, h2, h3, h4, Code.badOpcode]
  · simp [h1, h2, h3, h4, (hclass h4).mp h5, Code.denied]
  · rw [hclass h4, Bool.not_eq_false] at h5
    simp [h1, h2, h3, h4, h5, h6, Code.badParam]
  · rw [hclass h4, Bool.not_eq_false] at h5
    simp [h1, h2, h3, h4, h5, h6]

end Sys2Proof.Machine

namespace Sys2Proof.Machine

/-! Packets that wait for the Gaffer: a fence leaves them. -/

section
variable (s : State)

@[simp] theorem State.post_inq (c : Half) (b : Byte) (d : List Nat) : (s.post c b d).gaffer.inq = s.gaffer.inq := by
  unfold State.post; split <;> rfl

@[simp] theorem State.kilnRecord_inq (c : Half) (b : Byte) (d : List Nat) :
    (s.kilnRecord c b d).gaffer.inq = s.gaffer.inq := by
  unfold State.kilnRecord; split <;> rfl

@[simp] theorem State.postKiln_inq (c : Half) (b : Byte) (d : List Nat) :
    (s.postKiln c b d).gaffer.inq = s.gaffer.inq := by
  simp [State.postKiln]

@[simp] theorem State.settleStaging_inq : s.settleStaging.gaffer.inq = s.gaffer.inq := by
  have hstarved (s : State) : s.traceStarved.gaffer.inq = s.gaffer.inq := by
    unfold State.traceStarved; dsimp only; split <;> simp [State.setJnStat, State.raise]
  unfold State.settleStaging; dsimp only
  (repeat' split) <;> simp [hstarved, State.setJnStat, State.raise]

@[simp] theorem State.jfence_inq (c : Byte) : (s.jfence c).1.gaffer.inq = s.gaffer.inq := by
  unfold State.jfence; split <;> simp [State.jappend]

@[simp] theorem State.snapLeaveRun_inq : s.snapLeaveRun.gaffer.inq = s.gaffer.inq := by
  have habandon : s.snapAbandon.gaffer.inq = s.gaffer.inq := by
    unfold State.snapAbandon; split <;> simp [State.snapRefused, State.setJnStat, State.raise]
  unfold State.snapLeaveRun; split <;> simp [habandon]

@[simp] theorem State.settleCtx_inq (id : Nat) : (s.settleCtx id).gaffer.inq = s.gaffer.inq := by
  have hhalt (s : State) (id : Nat) (code : Half) (a : DWord) : (s.reportHalt id code a).gaffer.inq = s.gaffer.inq := by
    unfold State.reportHalt; dsimp only; split <;> simp [State.raise] <;> split <;> rfl
  unfold State.settleCtx; dsimp only
  (repeat' split) <;> simp [hhalt]

@[simp] theorem State.streamsLeaveRun_inq : s.streamsLeaveRun.gaffer.inq = s.gaffer.inq :=
  foldl_keeps _ (fun s => s.gaffer.inq) (fun s id => by split <;> simp) _ _

theorem State.fenceTo_inq (n : TierState) (c : Byte) (r : Bool) : (s.fenceTo n c r).gaffer.inq = s.gaffer.inq := by
  have hbase : (s.fenceBase c).gaffer.inq = s.gaffer.inq := by
    unfold State.fenceBase; split <;> simp [State.leaveRun, State.dropCompute]
  rw [State.fenceTo_eq]; dsimp only
  cases r <;> simp <;> split <;> simp [hbase]

end

/-! Rounds of one packet, and the commands (R433, R436, R443). -/

section
variable {s : State}

/-- The reply to a packet of the port waits behind the others (R436, R464). -/
theorem State.say_port {p : Packet} (hport : p.input = .port) (status : Half) (ws : List Nat) :
    s.say p status ws = { s with gaffer := { s.gaffer with
      outq := s.gaffer.outq ++ [.reply (p.reply.packet status false ws) false] } } := by
  simp [State.say, State.reply, Packet.reply, hport]

/-- What a reply to a packet of the port says. -/
theorem say_replied (b : List Byte) (status : Half) {ws : List Nat} (hlen : ws.length < 256) (hws : ∀ w ∈ ws, w < 2 ^ 32) :
    ReplyIs ((portPacket b).reply.packet status false ws) (portPacket b).reply false status ws :=
  ReplyTo.packet_is _ status false hlen hws

section
variable {b : List Byte}

/-- A round with one packet of the port waits for the freeze's end if the packet accesses memory (R400). -/
theorem State.roundHeld_one (hin : s.gaffer.inq = [{ input := .port, bytes := b }]) :
    s.roundHeld = (s.journal.freeze && ((portPacket b).opc == 0x14 || (portPacket b).opc == 0x15)) := by
  simp [State.roundHeld, hin, portPacket, Opc.memRead, Opc.memWrite]

theorem exec_gafferRound_held (hin : s.gaffer.inq = [{ input := .port, bytes := b }]) (hfreeze : s.journal.freeze = true)
    (hopc : (portPacket b).opc = 0x14 ∨ (portPacket b).opc = 0x15) : exec .gafferRound s = .next s := by
  have hheld : s.roundHeld = true := by rw [State.roundHeld_one hin]; simpa [hfreeze] using hopc
  simp [exec, execGafferRound, hheld]

section
variable (ha : s.pins.alive = true) (hin : s.gaffer.inq = [{ input := .port, bytes := b }]) (hstep : 3 ≤ s.gaffer.step.toNat)
  (hfree : s.journal.freeze = false ∨ ((portPacket b).opc ≠ 0x14 ∧ (portPacket b).opc ≠ 0x15))
include ha hin hstep hfree

/-- The one packet of a round, which no other contradicts, is taken. -/
theorem exec_gafferRound_one : exec .gafferRound s = .next (State.runRound
    [(portPacket b, s.packetCheck (portPacket b), s.conflictKeys (portPacket b))] []
    { s with gaffer := { s.gaffer with inq := [] } }) := by
  have hheld : s.roundHeld = false := by
    rw [State.roundHeld_one hin]
    rcases hfree with hf | ⟨h1, h2⟩
    · simp [hf]
    · simp [h1, h2]
  have hround : bySource (s.gaffer.inq.map packetOf) = [portPacket b] := by rw [hin]; rfl
  have hserving : s.gaffer.serving = true := decide_eq_true hstep
  have hcond : (!s.pins.alive || !s.gaffer.serving || s.gaffer.inq.isEmpty || s.roundHeld) = false := by
    simp [ha, hserving, hheld, hin]
  simp only [exec, execGafferRound, hcond, Bool.false_eq_true, if_false, hround, List.map_cons, List.map_nil]

theorem exec_gafferRound_refused {code : Half} (hcheck : s.packetCheck (portPacket b) = some code) :
    exec .gafferRound s = .next (({ s with gaffer := { s.gaffer with inq := [] } } : State).say (portPacket b) code []) := by
  rw [exec_gafferRound_one ha hin hstep hfree, hcheck, State.runRound, State.runRound]

theorem exec_gafferRound_taken (hcheck : s.packetCheck (portPacket b) = none) :
    exec .gafferRound s = .next (({ s with gaffer := { s.gaffer with inq := [] } } : State).runCommand (portPacket b)) := by
  rw [exec_gafferRound_one ha hin hstep hfree, hcheck, State.runRound, if_neg (by simp), State.runRound]

end
end

theorem State.runCommand_identify {p : Packet} (h : p.opc = 0x01) : s.runCommand p = cmdIdentify s p := by
  simp [State.runCommand, h, bootServes, tierGroup, Opc.anneal, Opc.identify, Opc.fence, Opc.resetCluster, Opc.launchAt,
    Opc.restore, Opc.replay, Opc.loadFw, Opc.startFw, Opc.resume]

theorem State.runCommand_stepParams {p : Packet} (h : p.opc = 0x10) (hst : s.gaffer.started = true) :
    s.runCommand p = cmdStepParams s p := by
  simp [State.runCommand, h, hst, tierGroup, Opc.anneal, Opc.fence, Opc.resetCluster, Opc.launchAt, Opc.restore, Opc.replay,
    Opc.loadFw, Opc.startFw, Opc.resume]

theorem State.runCommand_fence {p : Packet} (h : p.opc = 0x07) (hact : s.gaffer.action = none) :
    s.runCommand p = cmdFence s p := by
  simp [State.runCommand, h, hact, bootServes, Opc.anneal, Opc.identify, Opc.setMould, Opc.writeMould, Opc.loadFw,
    Opc.startFw, Opc.fence]

/-- Every word that IDENTIFY answers is a word. -/
theorem identify_words (s : State) :
    ∀ w ∈ [kfeat0, kfeat1, kfeat2, s.kfeat3, s.router.posWord.toNat, s.kcrTier, s.kcrMould, s.jnRstat], w < 2 ^ 32 := by
  have hkfeat3 : s.kfeat3 < 2 ^ 32 := by
    simp only [State.kfeat3, fld]; omega
  have htier : s.kcrTier < 2 ^ 32 := by
    have := s.tier.cause.isLt
    have := s.tier.state.code.isLt
    simp only [State.kcrTier]; omega
  have hflag (i : Nat) (b : Bool) : flag i b ≤ 2 ^ i := by cases b <;> simp [flag]
  have hmould : s.kcrMould < 2 ^ 32 := by
    have := s.gaffer.sel.isLt
    have := s.gaffer.pins.isLt
    have := hflag 13 s.gaffer.evten
    have := hflag 12 s.gaffer.torn
    have := hflag 8 s.gaffer.ovr
    simp only [State.kcrMould]; omega
  have hrstat : s.jnRstat < 2 ^ 32 := by
    have := hflag 31 s.journal.fvalid
    have := s.journal.flcid.isLt
    have := s.journal.cause.isLt
    have : s.journal.rstate.code ≤ 4 := by cases s.journal.rstate <;> decide
    simp only [State.jnRstat]; omega
  have hpos := s.router.posWord.isLt
  simp only [List.forall_mem_cons]
  exact ⟨by decide, by decide, by decide, hkfeat3, hpos, htier, hmould, hrstat, by simp⟩

end
end Sys2Proof.Machine

namespace Sys2Proof.Machine

/-! The management port and the mailbox (R432, R436, R443, R447, R457, R464). -/

section
variable {s : State} {b : List Byte}

/-- The port has four buffers (R432, R464). -/
theorem managementPacket_cases (ha : s.pins.alive = true) (bytes : List Byte) :
    ((s.gaffer.inq.filter fun p => p.input == .port).length < 4 →
      exec (.managementPacket bytes) s = .next { s with gaffer := { s.gaffer with
        inq := s.gaffer.inq ++ [{ input := .port, bytes := bytes }] } }) ∧
    (4 ≤ (s.gaffer.inq.filter fun p => p.input == .port).length → exec (.managementPacket bytes) s = .next s) := by
  constructor <;> intro h
  · have hcond : (!s.pins.alive || decide ((s.gaffer.inq.filter fun p => p.input == .port).length ≥ 4)) = false := by
      simpa [ha] using h
    simp only [exec, execManagementPacket, hcond, Bool.false_eq_true, if_false]
  · have hcond : (!s.pins.alive || decide ((s.gaffer.inq.filter fun p => p.input == .port).length ≥ 4)) = true := by
      simpa [ha] using h
    simp only [exec, execManagementPacket, hcond, if_true]

theorem windowAt_mailboxControl : windowAt 0x5000F00 = some (.mbCtl 0) := by decide

/-- GO of a master with a command class is performed at once (R449, R457). -/
theorem exec_mailboxGo (ha : s.pins.alive = true) (m : Master) (hm : fld 19 16 (s.entry m.toNat) ≠ 0) :
    exec (.mailboxGo m) s = .next ((s.putMailbox m.toNat 1).respond m.toNat Code.ok 0) := by
  have hheld : s.busHeld m.toNat 0x5000F00 = false := by simp [State.busHeld, windowAt_mailboxControl]
  have hcheck : s.busCheck m.toNat 0x5000F00 4 true = some (.mbCtl 0) := by
    simp [State.busCheck, windowAt_mailboxControl, Window.At.sizeOk, State.mayWindow, State.windowDenied, hm]
  simp [exec, execMailboxGo, State.masterWrite, ha, hheld, State.busWrite, hcheck, State.busPut]

/-- GO leaves DONE, which the value 1 does not name (R457). -/
theorem State.putMailbox_go (m : Master) : s.putMailbox m.toNat 1 =
    if s.gaffer.mbBusy then s else { s with gaffer := { s.gaffer with
      mbBusy := true, inq := s.gaffer.inq ++ [{ input := .mailbox m, bytes := s.gaffer.mailboxPacket }] } } := by
  have hdone : bit 1 (s.unraised 14 0 2 1) = false := by
    rw [bit, State.testBit_unraised]; rfl
  have hbit : bit 0 1 = true := rfl
  simp only [State.putMailbox, hdone, hbit, Bool.not_false, Bool.and_true, Bool.true_and, BitVec.ofNat_toNat, BitVec.setWidth_eq]
  by_cases hb : s.gaffer.mbBusy = true
  · rw [if_pos hb, if_neg (by simp [hb])]
  · rw [if_neg hb, if_pos (by simpa using hb)]

theorem mailboxGo_cases (ha : s.pins.alive = true) (m : Master) (hm : fld 19 16 (s.entry m.toNat) ≠ 0) :
    (s.gaffer.mbBusy = false →
      ∃ u, exec (.mailboxGo m) s = .next u ∧ Answered u m 0 ∧
        u = { s with resp := u.resp, gaffer := { s.gaffer with
          mbBusy := true, inq := s.gaffer.inq ++ [{ input := .mailbox m, bytes := s.gaffer.mailboxPacket }] } }) ∧
    (s.gaffer.mbBusy = true →
      ∃ u, exec (.mailboxGo m) s = .next u ∧ Answered u m 0 ∧ u = { s with resp := u.resp }) := by
  have hgo := exec_mailboxGo ha m hm
  rw [State.putMailbox_go] at hgo
  constructor <;> intro hb <;> rw [hb] at hgo <;> exact ⟨_, hgo, by simp [Answered, State.respond], rfl⟩

/-- Marver's step registers as STEP_PARAMS sets them (R368, R443). -/
def Marver.stepped (m : Marver) (p : Packet) : Marver :=
  let w := fun (i : Nat) => BitVec.ofNat 32 (p.w i)
  let m := if bit 0 (p.w 0) then { m with lr := w 1 } else m
  if bit 1 (p.w 0) then { m with mode := bit 2 (p.w 0), lrmax := w 2, lrmin := w 3, warm := w 4, period := w 5 } else m

theorem cmdStepParams_eq (s : State) (p : Packet) :
    cmdStepParams s p = ({ s with marver := s.marver.stepped p } : State).say p Code.ok [] := rfl

/-- LR by bit 0 of the first word, the other step registers by bit 1, and nothing else of Marver (R443). -/
theorem Marver.stepped_parts (m : Marver) (p : Packet) (hw : ∀ i, p.w i < 2 ^ 32) :
    (((p.w 0).testBit 0 = true → (m.stepped p).lr.toNat = p.w 1) ∧
      ((p.w 0).testBit 0 = false → (m.stepped p).lr = m.lr)) ∧
    ((p.w 0).testBit 1 = true → (m.stepped p).mode = (p.w 0).testBit 2 ∧ (m.stepped p).lrmax.toNat = p.w 2 ∧
      (m.stepped p).lrmin.toNat = p.w 3 ∧ (m.stepped p).warm.toNat = p.w 4 ∧ (m.stepped p).period.toNat = p.w 5) ∧
    m.stepped p = { m with
      lr := (m.stepped p).lr
      mode := if (p.w 0).testBit 1 then (m.stepped p).mode else m.mode
      lrmax := if (p.w 0).testBit 1 then (m.stepped p).lrmax else m.lrmax
      lrmin := if (p.w 0).testBit 1 then (m.stepped p).lrmin else m.lrmin
      warm := if (p.w 0).testBit 1 then (m.stepped p).warm else m.warm
      period := if (p.w 0).testBit 1 then (m.stepped p).period else m.period } := by
  have hword (i : Nat) : (BitVec.ofNat 32 (p.w i)).toNat = p.w i := Nat.mod_eq_of_lt (hw i)
  cases h0 : (p.w 0).testBit 0 <;> cases h1 : (p.w 0).testBit 1 <;>
    simp only [Marver.stepped, bit, h0, h1, hword, Bool.false_eq_true, if_true, if_false, true_imp_iff, false_imp_iff, and_self,
      reduceCtorEq]

/-- The Gaffer has no part in a leave of RUN. -/
theorem LeftRun.ofGaffer {s u : State} {g : Gaffer} {n : TierState} {c : Byte} (h : LeftRun { s with gaffer := g } u n c)
    (k : Gaffer) : LeftRun s { u with gaffer := k } n c := by
  unfold LeftRun at h ⊢
  exact h

section
variable (ha : s.pins.alive = true) (hin : s.gaffer.inq = [{ input := .port, bytes := b }]) (hstep : 3 ≤ s.gaffer.step.toNat)
  (hfree : s.journal.freeze = false ∨ ((portPacket b).opc ≠ 0x14 ∧ (portPacket b).opc ≠ 0x15))
include ha hin hstep hfree

/-- A packet that fails one of checks 1-6 is answered and changes nothing else (R436). -/
theorem round_refuses {code : Half} (hverdict : PacketVerdict s b (portPacket b) code) (hcode : code ≠ 0x0000#16) :
    ∃ u, exec .gafferRound s = .next u ∧ Replied s u (portPacket b) code [] ∧
      u = { s with gaffer := { s.gaffer with inq := [], outq := u.gaffer.outq } } := by
  have hcheck := State.packetCheck_of_verdict hverdict
  rw [if_neg hcode] at hcheck
  refine ⟨_, exec_gafferRound_refused ha hin hstep hfree hcheck, ?_⟩
  rw [State.say_port rfl]
  exact ⟨⟨_, rfl, say_replied b code (by decide) (by simp)⟩, rfl⟩

variable (hverdict : PacketVerdict s b (portPacket b) 0x0000#16)
include hverdict

theorem round_identify (hopc : (portPacket b).opc = 0x01) :
    ∃ u, exec .gafferRound s = .next u ∧ Replied s u (portPacket b) 0x0000#16
        [kfeat0, kfeat1, kfeat2, s.kfeat3, s.router.posWord.toNat, s.kcrTier, s.kcrMould, s.jnRstat] ∧
      u = { s with gaffer := { s.gaffer with inq := [], outq := u.gaffer.outq } } := by
  refine ⟨_, exec_gafferRound_taken ha hin hstep hfree (State.packetCheck_of_verdict hverdict), ?_⟩
  rw [State.runCommand_identify hopc, cmdIdentify, State.say_port rfl]
  exact ⟨⟨_, rfl, say_replied b _ (by simp) (identify_words s)⟩, rfl⟩

theorem round_stepParams (hopc : (portPacket b).opc = 0x10) (hst : s.gaffer.started = true) :
    exec .gafferRound s = .next { s with
      marver := s.marver.stepped (portPacket b)
      gaffer := { s.gaffer with
        inq := []
        outq := s.gaffer.outq ++ [.reply ((portPacket b).reply.packet Code.ok false []) false] } } := by
  rw [exec_gafferRound_taken ha hin hstep hfree (State.packetCheck_of_verdict hverdict),
    State.runCommand_stepParams hopc (by exact hst), cmdStepParams_eq, State.say_port rfl]

omit ha hin hstep hfree hverdict in
theorem State.fence_run (hstate : s.tier.state = .run) (off : Bool) :
    s.fence off = s.fenceTo (if off then .fencedOff else .fenced) 1#8 false := by
  simp [State.fence, hstate]

omit ha hin hstep hfree hverdict in
/-- KCR_TIER after a commanded fence (R18, R19). -/
theorem State.fenceTo_kcrTier (off r : Bool) :
    (s.fenceTo (if off then .fencedOff else .fenced) 1#8 r).kcrTier = if off then 0x104 else 0x103 := by
  rw [State.kcrTier, State.fenceTo_tier]
  cases off <;> simp [Tier.fenced, TierState.code]

theorem round_fence (hopc : (portPacket b).opc = 0x07) (hact : s.gaffer.action = none) (hstate : s.tier.state = .run) :
    ∃ u, exec .gafferRound s = .next u ∧
      LeftRun s u (if ((portPacket b).w 0).testBit 0 then .fencedOff else .fenced) 1#8 ∧ u.gaffer.inq = [] ∧
      ∃ bytes, u.gaffer.outq.getLast? = some (.reply bytes false) ∧
        ReplyIs bytes (portPacket b).reply false 0x0000#16 [if ((portPacket b).w 0).testBit 0 then 0x104 else 0x103] := by
  have hrun : s.inRun = true := by simp [State.inRun, hstate, ha]
  refine ⟨_, exec_gafferRound_taken ha hin hstep hfree (State.packetCheck_of_verdict hverdict), ?_⟩
  rw [State.runCommand_fence hopc (by exact hact), cmdFence, State.fence_run (by exact hstate), State.say_port rfl,
    State.fenceTo_kcrTier]
  have hword : ∀ w ∈ [if bit 0 ((portPacket b).w 0) then 0x104 else 0x103], w < 2 ^ 32 := by
    simp only [List.forall_mem_singleton]; split <;> decide
  exact ⟨(State.fenceTo_leftRun { s with gaffer := { s.gaffer with inq := [] } } _ 1#8 false hrun).ofGaffer _,
    State.fenceTo_inq .., _, List.getLast?_concat, say_replied b Code.ok (by simp) hword⟩

end

/-- The oldest reply or event crosses the port (R443, R447, R464). -/
theorem outboundPacket_cases (ha : s.pins.alive = true) :
    (∀ (bytes : List Byte) (reset : Bool) (rest : List OutPacket), s.gaffer.outq = .reply bytes reset :: rest →
      exec .outboundPacket s = .next { s with gaffer := { s.gaffer with
        outq := rest, sent := bytes, resetGo := s.gaffer.resetGo || reset } }) ∧
    (∀ (e : Event) (rest : List OutPacket), s.gaffer.outq = .event e :: rest →
      exec .outboundPacket s = .next { s with gaffer := { s.gaffer with
        outq := rest, lost := 0#16, sent := e.packet s.gaffer.lost.toNat } }) ∧
    (s.gaffer.outq = [] → exec .outboundPacket s = .next s) := by
  refine ⟨fun bytes reset rest h => ?_, fun e rest h => ?_, fun h => ?_⟩ <;>
    simp [exec, execOutboundPacket, ha, h]

end

/-- Settles O53: the port and the mailbox by their buffers; a round of one packet by its verdict and its command; the port's output by
what is oldest. -/
theorem managementAnswers : Obligations.ManagementAnswers := by
  unfold Obligations.ManagementAnswers
  intro s ha
  obtain ⟨hreply, hevent, hempty⟩ := outboundPacket_cases ha
  refine ⟨managementPacket_cases ha, mailboxGo_cases ha, fun bytes p hin hstep hp => ?_, hreply, fun e rest h => ?_, hempty⟩
  · subst hp
    refine ⟨packetOf_is _, exec_gafferRound_held hin, fun hfree => ⟨fun code => round_refuses ha hin hstep hfree, fun hverdict =>
      ⟨round_identify ha hin hstep hfree hverdict, fun hopc hst => ?_, round_fence ha hin hstep hfree hverdict⟩⟩⟩
    obtain ⟨hlr, hregs, hmarver⟩ := s.marver.stepped_parts (portPacket bytes) (packetOf_w_lt _)
    exact ⟨_, round_stepParams ha hin hstep hfree hverdict hopc hst, ⟨_, rfl, say_replied bytes Code.ok (by decide) (by simp)⟩,
      hlr, hregs, hmarver, rfl⟩
  · obtain ⟨hopc, hsrc, hcode, hsource, hlost, hlc⟩ := e.packet_fields s.gaffer.lost
    exact ⟨_, hevent e rest h, rfl, hopc, hsrc, hcode, hsource, hlost, hlc⟩

end Sys2Proof.Machine

namespace Sys2Proof.Machine

/-! A long word that issues (R30, R36, R45, R52). -/

section

variable {s : State}

theorem exec_longWordIssue (s : State) : exec .longWordIssue s = execLongWordIssue s := rfl

/-- A task outside the 32 is FREE. -/
theorem State.task_of_le {t : Nat} (h : 32 ≤ t) : s.task t = default := Vec.at_of_le _ _ h

theorem State.lt_of_task_ready {t : Nat} (h : (s.task t).state = .ready) : t < 32 := by
  by_contra hlt
  rw [State.task_of_le (by omega)] at h
  exact absurd h (by decide)

theorem State.task_mem {t : Nat} (h : t < 32) : s.task t ∈ s.core.tasks.toList := by
  simp [State.task, Vec.at_eq _ _ h]

theorem Core.task_of_pick {c : Core} {t : Nat} (h : c.pick = some t) : (Vec.at c.tasks t).state = .ready := by
  unfold Core.pick Core.firstReadyTask at h
  split at h <;> simpa using List.find?_some h

theorem Task.spawnEnds_of_not_spawning {k : Task} (h : k.spawning = false) (nc : Nat) : k.spawnEnds nc = k := by
  unfold Task.spawning at h
  unfold Task.spawnEnds
  split <;> simp_all

theorem State.performSpawn_of_not_spawning {t : Nat} (h : (s.task t).spawning = false) : s.performSpawn t = s := by
  unfold Task.spawning at h
  unfold State.performSpawn
  split <;> simp_all

/-- With no SPAWN under way, none is performed or ends (R51). -/
theorem State.spawns_idle (h : ∀ k ∈ s.core.tasks.toList, k.spawning = false) : s.wakeSpawners.performSpawns = s := by
  have hwake : s.wakeSpawners = s := by
    have htasks : s.core.tasks.map (fun k => k.spawnEnds s.nc) = s.core.tasks := by
      apply Vector.toList_inj.mp
      rw [Vector.toList_map]
      exact (List.map_congr_left (g := id) fun k hk => Task.spawnEnds_of_not_spawning (h k hk) _).trans (List.map_id _)
    rw [State.wakeSpawners, htasks]
  rw [hwake, State.performSpawns]
  have hstep : ∀ l : List Nat, (∀ t ∈ l, t < 32) → l.foldl State.performSpawn s = s := by
    intro l hl
    induction l with
    | nil => rfl
    | cons t l ih =>
      rw [List.foldl_cons, State.performSpawn_of_not_spawning (h _ (State.task_mem (hl t (by simp)))),
        ih fun r hr => hl r (by simp [hr])]
  exact hstep _ fun t ht => by simpa using ht

/-- Task `t` is the present one and its due results are written. -/
def State.turnOf (s : State) (t : Nat) : State :=
  ({ s with core := { s.core with cur := t, mustSwitch := false } } : State).onTask t Task.commit

theorem State.turnOf_task (s : State) {t : Nat} (h : t < 32) : (s.turnOf t).task t = (s.task t).commit :=
  State.task_onTask_same _ ⟨t, h⟩ _

theorem State.turnOf_task_ne (s : State) {t r : Nat} (h : r ≠ t) : (s.turnOf t).task r = s.task r :=
  State.task_onTask_ne _ _ _ _ h

@[simp] theorem Task.take_pc (k : Task) (r : PendingResult) : (k.take r).pc = k.pc := by
  unfold Task.take; (repeat' split) <;> rfl

@[simp] theorem Task.take_stores (k : Task) (r : PendingResult) : (k.take r).stores = k.stores := by
  unfold Task.take; (repeat' split) <;> rfl

@[simp] theorem Task.commit_pc (k : Task) : k.commit.pc = k.pc := by
  suffices h : ∀ (l : List PendingResult) (k : Task), (l.foldl Task.take k).pc = k.pc from h _ _
  intro l
  induction l with
  | nil => exact fun _ => rfl
  | cons r l ih => exact fun k => by rw [List.foldl_cons, ih, Task.take_pc]

@[simp] theorem Task.commit_stores (k : Task) : k.commit.stores = k.stores := by
  suffices h : ∀ (l : List PendingResult) (k : Task), (l.foldl Task.take k).stores = k.stores from h _ _
  intro l
  induction l with
  | nil => exact fun _ => rfl
  | cons r l ih => exact fun k => by rw [List.foldl_cons, ih, Task.take_stores]

/-- The task whose turn it is fetches its word (R30, R52). -/
theorem exec_longWordIssue_turn {t : Nat} (hrun : s.inRun = true) (hrest : s.resting = false) (hbeat : s.core.startBeat ≤ s.beat)
    (hspawn : ∀ k ∈ s.core.tasks.toList, k.spawning = false) (hpick : s.core.pick = some t) :
    t < 32 ∧ exec .longWordIssue s =
      .next (State.runTask { s with core := { s.core with cur := t, mustSwitch := false } } t) := by
  refine ⟨State.lt_of_task_ready (Core.task_of_pick hpick), ?_⟩
  have hmay : s.core.mayIssue s.beat = true := by simpa [Core.mayIssue] using hbeat
  simp only [exec_longWordIssue, execLongWordIssue, hrun, hrest, hmay, State.spawns_idle hspawn, hpick]
  rfl

/-- A word that is fetched whole is run (R30). -/
theorem Issues.exec_eq {t : Nat} {w : LongWord} (h : Issues s t w) :
    t < 32 ∧ exec .longWordIssue s = .next ((s.turnOf t).runWord t (s.task t).commit w) := by
  obtain ⟨hrun, hrest, hbeat, hspawn, hpick, hfetch⟩ := h
  obtain ⟨ht, hexec⟩ := exec_longWordIssue_turn hrun hrest hbeat hspawn hpick
  refine ⟨ht, hexec.trans ?_⟩
  have htask := State.turnOf_task s ht
  have hf : (s.turnOf t).core.fetch (s.task t).commit.pc = .word w := hfetch
  unfold State.turnOf at htask hf
  simp only [State.runTask, State.turnOf, htask, hf]

theorem Issues.fetched {t : Nat} {w : LongWord} (h : Issues s t w) : s.core.fetch (s.task t).commit.pc = .word w :=
  h.2.2.2.2.2

/-- A fetched word has no slot that R35 forbids. -/
theorem Core.fetch_slots_good {c : Core} {pc : Nat} {w : LongWord} (h : c.fetch pc = .word w) :
    ∀ p ∈ w.slots, Slot.bad c.imem (w.pc + w.len) p = false := by
  unfold Core.fetch at h
  split at h
  · cases h
  · split at h
    · cases h
    · dsimp only at h
      split at h
      · cases h
      · split at h
        · cases h
        · split at h
          · cases h
          · next hnone =>
            cases h
            simpa using hnone

theorem LongWord.mem_of_active {w : LongWord} {k : Task} {i x : Nat} (h : w.active k i = some x) : (i, x) ∈ w.slots := by
  obtain ⟨p, hp, rfl⟩ := Option.map_eq_some_iff.mp h
  have hi := List.find?_some hp
  simp only [Bool.and_eq_true, beq_iff_eq] at hi
  rw [← hi.1]
  exact List.mem_of_find?_eq_some hp

theorem LongWord.active_eq_none {w : LongWord} {k : Task} {i : Nat} (h : ∀ p ∈ w.slots, p.1 ≠ i) : w.active k i = none := by
  simp only [LongWord.active, Option.map_eq_none_iff, List.find?_eq_none]
  intro p hp hc
  simp only [Bool.and_eq_true, beq_iff_eq] at hc
  exact h p hp hc.1

/-- The only slot of a word is active when its guard is true. -/
theorem LongWord.active_single {w : LongWord} {k : Task} {i x : Nat} (h : w.slots = [(i, x)]) (hg : k.guard x = true) (j : Nat) :
    w.active k j = if j = i then some x else none := by
  by_cases hj : j = i
  · simp [LongWord.active, h, hg, hj]
  · rw [if_neg hj]
    exact LongWord.active_eq_none fun p hp => by
      rw [h, List.mem_singleton] at hp
      subst hp
      exact fun he => hj he.symm

/-- Task `t` goes on after the word `w`, with these results more (R45, R55, R56). -/
def State.goOn (s : State) (t : Nat) (k : Task) (w : LongWord) (more : List PendingResult) : State :=
  let s := s.onTask t fun x => { x with
    results := x.results ++ more, cycle := x.cycle + 1 + w.dly
    pc := (endBody w.pc w.next k.loops).1, loops := (endBody w.pc w.next k.loops).2, memWait := .none, state := .ready }
  { s with core := { s.core with mustSwitch := w.yld || w.dly != 0 } }

theorem State.goOn_task (s : State) {t : Nat} (ht : t < 32) (k : Task) (w : LongWord) (more : List PendingResult)
    {stores : List StoreEntry} (h : s.task t = { k with stores := stores }) :
    (s.goOn t k w more).task t = k.after w more stores := by
  have hset := State.task_onTask_same s ⟨t, ht⟩ fun x => { x with
    results := x.results ++ more, cycle := x.cycle + 1 + w.dly
    pc := (endBody w.pc w.next k.loops).1, loops := (endBody w.pc w.next k.loops).2, memWait := .none, state := .ready }
  rw [h] at hset
  exact hset

theorem State.goOn_task_ne (s : State) {t r : Nat} (k : Task) (w : LongWord) (more : List PendingResult) (h : r ≠ t) :
    (s.goOn t k w more).task r = s.task r := State.task_onTask_ne _ _ _ _ h

/-- The effects of a word without a control slot, when its memory slot lets the task go on: those of its memory slot, those of its
ENQ, and the task's going on. -/
theorem State.effects_eq_goOn {t : Nat} {k : Task} {w : LongWord} {tags : List Nat} {m q : State} {loads enq : List PendingResult}
    (ht : t < 32) (hctl : w.active k 2 = none)
    (hmem : (w.active k 1 = none ∧ m = s ∧ loads = []) ∨ ∃ x, w.active k 1 = some x ∧ s.runMemory t k w x = (.none, loads, m))
    (henq : (w.active k 3 = none ∧ q = m ∧ enq = []) ∨ ∃ x, w.active k 3 = some x ∧ m.runEnq k x = (enq, q)) :
    s.effects t k w tags = q.goOn t k w (scalarResults k w s.lehr.lc ++ loads ++ enq) := by
  have hready : ∀ (v : State) (f : Task → Task), (∀ x, (f x).state = .ready) → (((v.onTask t f).task t).state == .waiting) = false := by
    intro v f hf
    rw [State.task_onTask_same v ⟨t, ht⟩ f, hf]
    rfl
  have hctl' : w.control k = 0 := by simp [LongWord.control, hctl]
  rcases hmem with ⟨h1, rfl, rfl⟩ | ⟨x, h1, hm⟩ <;> rcases henq with ⟨h3, rfl, rfl⟩ | ⟨y, h3, hq⟩ <;>
    simp [State.effects, State.goOn, flow, callResult, waitsFor, State.waitNow, Op.brr, Op.halt, *]

end

end Sys2Proof.Machine

namespace Sys2Proof.Machine

/-! What S0 and S1 compute (R39, R46). -/

theorem sub_eq_ofInt (a b : DWord) : a - b = BitVec.ofInt 64 ((a.toNat : Int) - b.toNat) := by
  rw [Int.sub_eq_add_neg, BitVec.ofInt_add, BitVec.ofInt_neg]
  simp [BitVec.sub_eq_add_neg]

theorem shiftLeft_eq_ofNat (a : DWord) (n : Nat) : a <<< n = BitVec.ofNat 64 (a.toNat * 2 ^ n) := by
  apply BitVec.eq_of_toNat_eq
  simp [Nat.shiftLeft_eq]

theorem shiftRight_eq_ofNat (a : DWord) (n : Nat) : a >>> n = BitVec.ofNat 64 (a.toNat / 2 ^ n) := by
  apply BitVec.eq_of_toNat_eq
  rw [BitVec.toNat_ushiftRight, BitVec.toNat_ofNat, Nat.shiftRight_eq_div_pow,
    Nat.mod_eq_of_lt (Nat.lt_of_le_of_lt (Nat.div_le_self _ _) a.isLt)]

theorem sshiftRight_eq_ofInt (a : DWord) (n : Nat) : a.sshiftRight n = BitVec.ofInt 64 (a.toInt / 2 ^ n) := by
  rw [BitVec.sshiftRight, Int.shiftRight_eq_div_pow]
  norm_cast

theorem min_signed (a b : DWord) : (if a.slt b then a else b) = BitVec.ofInt 64 (min a.toInt b.toInt) := by
  rcases lt_or_ge a.toInt b.toInt with h | h
  · rw [min_eq_left h.le, BitVec.ofInt_toInt, if_pos (by simpa [BitVec.slt_eq_decide] using h)]
  · rw [min_eq_right h, BitVec.ofInt_toInt, if_neg (by simpa [BitVec.slt_eq_decide] using h)]

theorem max_signed (a b : DWord) : (if a.slt b then b else a) = BitVec.ofInt 64 (max a.toInt b.toInt) := by
  rcases lt_or_ge a.toInt b.toInt with h | h
  · rw [max_eq_right h.le, BitVec.ofInt_toInt, if_pos (by simpa [BitVec.slt_eq_decide] using h)]
  · rw [max_eq_left h, BitVec.ofInt_toInt, if_neg (by simpa [BitVec.slt_eq_decide] using h)]

theorem min_unsigned (a b : DWord) : (if a.ult b then a else b) = BitVec.ofNat 64 (min a.toNat b.toNat) := by
  rcases lt_or_ge a.toNat b.toNat with h | h
  · rw [min_eq_left h.le, BitVec.ofNat_toNat, BitVec.setWidth_eq, if_pos (by simpa [BitVec.ult] using h)]
  · rw [min_eq_right h, BitVec.ofNat_toNat, BitVec.setWidth_eq, if_neg (by simpa [BitVec.ult] using h)]

theorem max_unsigned (a b : DWord) : (if a.ult b then b else a) = BitVec.ofNat 64 (max a.toNat b.toNat) := by
  rcases lt_or_ge a.toNat b.toNat with h | h
  · rw [max_eq_right h.le, BitVec.ofNat_toNat, BitVec.setWidth_eq, if_pos (by simpa [BitVec.ult] using h)]
  · rw [max_eq_left h, BitVec.ofNat_toNat, BitVec.setWidth_eq, if_neg (by simpa [BitVec.ult] using h)]

/-- Halfword `h` of a number taken out and another put in its place: the parts above and below it stay. -/
theorem replace_halfword (d v s : Nat) : d - fld (s + 15) s d * 2 ^ s + v * 2 ^ s =
    2 ^ s * (2 ^ 16 * (d / 2 ^ (s + 16)) + v) + d % 2 ^ s := by
  rw [fld, show s + 15 - s + 1 = 16 by omega, Nat.shiftRight_eq_div_pow, Nat.pow_add, ← Nat.div_div_eq_div_mul]
  have hlow := Nat.div_add_mod d (2 ^ s)
  have hhigh := Nat.div_add_mod (d / 2 ^ s) (2 ^ 16)
  generalize d / 2 ^ s / 2 ^ 16 = high at *
  generalize d / 2 ^ s % 2 ^ 16 = mid at *
  generalize d % 2 ^ s = low at *
  rw [← hlow, ← hhigh]
  generalize 2 ^ s = p
  rw [show p * (2 ^ 16 * high + mid) + low = mid * p + (p * (2 ^ 16 * high) + low) by ring, Nat.add_sub_cancel_left]
  ring

/-- MOVK replaces one halfword (R39). -/
theorem movk_eq_ofNat (d : DWord) (v s : Nat) (hv : v < 2 ^ 16) :
    (d &&& ~~~(0xFFFF#64 <<< s)) ||| (BitVec.ofNat 64 v <<< s) =
      BitVec.ofNat 64 (d.toNat - fld (s + 15) s d.toNat * 2 ^ s + v * 2 ^ s) := by
  rw [replace_halfword]
  have hlow : d.toNat % 2 ^ s < 2 ^ s := Nat.mod_lt _ (by positivity)
  apply BitVec.eq_of_getLsbD_eq
  intro i hi
  have hmask : BitVec.getLsbD 0xFFFF#64 (i - s) = decide (i - s < 16) := by
    rw [show (0xFFFF#64) = BitVec.ofNat 64 (2 ^ 16 - 1) from rfl, BitVec.getLsbD_ofNat, Nat.testBit_two_pow_sub_one]
    simp
    omega
  rw [BitVec.getLsbD_ofNat, Nat.testBit_two_pow_mul_add _ hlow, Nat.testBit_two_pow_mul_add _ hv]
  simp only [BitVec.getLsbD_or, BitVec.getLsbD_and, BitVec.getLsbD_not, BitVec.getLsbD_shiftLeft, hmask,
    BitVec.getLsbD_ofNat, hi, Nat.testBit_mod_two_pow, Nat.testBit_div_two_pow]
  by_cases hbelow : i < s
  · simp [hbelow, BitVec.getLsbD]
  · by_cases hin : i - s < 16
    · simp [hbelow, hin, show i - s < 64 by omega]
    · have hv' : v.testBit (i - s) = false :=
        Nat.testBit_lt_two_pow (Nat.lt_of_lt_of_le hv (Nat.pow_le_pow_right (by decide) (by omega)))
      simp [hbelow, hin, hv', BitVec.getLsbD, show i - s - 16 + (s + 16) = i by omega]

theorem boolWord_meaning {c : Prop} {b : Bool} (h : b = true ↔ c) (due : Nat) (d : Dest) :
    (c → (⟨due, d, boolWord b⟩ : PendingResult) = ⟨due, d, 1#64⟩) ∧
      (¬ c → (⟨due, d, boolWord b⟩ : PendingResult) = ⟨due, d, 0#64⟩) := by
  rw [← h]
  cases b <;> simp [boolWord]

theorem fld_lt (hi lo x : Nat) : fld hi lo x < 2 ^ (hi - lo + 1) := Nat.mod_lt _ (by positivity)

theorem Slot.imm16_lt (x : Nat) : Slot.imm16 x < 2 ^ 16 := fld_lt 15 0 x

section

variable {k : Task} {lc : DWord} {x : Nat} {r : PendingResult} (h : k.scalar lc x = some r)
include h

theorem Task.scalar_alu (ho : Op.isAlu (Slot.op x) = true) :
    r = ⟨k.cycle + 1, .reg (BitVec.ofNat 5 (Slot.rd x)), aluValue (Slot.op x) (k.reg (Slot.ra x)) (k.second x)⟩ := by
  simpa [Task.scalar, ho, eq_comm] using h

theorem Task.scalar_cmp (ho : Op.isCmp (Slot.op x) = true) :
    r = ⟨k.cycle + 1, .pred (BitVec.ofNat 3 (Slot.pd x)),
      boolWord (cmpValue (Slot.op x) (k.reg (Slot.ra x)) (k.second x))⟩ := by
  have hn : Op.isAlu (Slot.op x) = false := by simp [Op.isAlu, Op.isCmp] at ho ⊢; omega
  simpa [Task.scalar, hn, ho, eq_comm] using h

theorem Task.scalar_pred (ho : Op.isPred (Slot.op x) = true) :
    r = ⟨k.cycle + 1, .pred (BitVec.ofNat 3 (Slot.pd x)),
      boolWord (predValue (Slot.op x) (k.pred (Slot.ra x % 8)) (k.pred (Slot.rb x % 8)))⟩ := by
  have hn : Op.isAlu (Slot.op x) = false ∧ Op.isCmp (Slot.op x) = false := by
    simp [Op.isAlu, Op.isCmp, Op.isPred] at ho ⊢; omega
  simpa [Task.scalar, hn, ho, eq_comm] using h

theorem Task.scalar_mov (ho : Op.isMov (Slot.op x) = true) :
    r = ⟨k.cycle + 1, .reg (BitVec.ofNat 5 (Slot.rd x)), movValue (Slot.op x) (k.reg (Slot.rd x)) (Slot.imm16 x)⟩ := by
  have hn : Op.isAlu (Slot.op x) = false ∧ Op.isCmp (Slot.op x) = false ∧ Op.isPred (Slot.op x) = false := by
    simp [Op.isAlu, Op.isCmp, Op.isPred, Op.isMov] at ho ⊢; omega
  simpa [Task.scalar, hn, ho, eq_comm] using h

theorem Task.scalar_mfloop (ho : Slot.op x = 0x28) :
    r = ⟨k.cycle + 1, .reg (BitVec.ofNat 5 (Slot.rd x)), k.level (fld 1 0 x)⟩ := by
  simpa [Task.scalar, ho, Op.isAlu, Op.isCmp, Op.isPred, Op.isMov, Op.mfloop, eq_comm] using h

theorem Task.scalar_mflc (ho : Slot.op x = 0x29) : r = ⟨k.cycle + 1, .reg (BitVec.ofNat 5 (Slot.rd x)), lc⟩ := by
  simpa [Task.scalar, ho, Op.isAlu, Op.isCmp, Op.isPred, Op.isMov, Op.mfloop, Op.mflc, eq_comm] using h

theorem Task.scalar_mul (ho : Op.isMul (Slot.op x) = true) :
    r = ⟨k.cycle + 3, .reg (BitVec.ofNat 5 (Slot.rd x)), mulValue (Slot.op x) (k.reg (Slot.ra x)) (k.second x)⟩ := by
  have hn : Op.isAlu (Slot.op x) = false ∧ Op.isCmp (Slot.op x) = false ∧ Op.isPred (Slot.op x) = false ∧
      Op.isMov (Slot.op x) = false ∧ Slot.op x ≠ Op.mfloop ∧ Slot.op x ≠ Op.mflc := by
    simp [Op.isAlu, Op.isCmp, Op.isPred, Op.isMov, Op.isMul, Op.mfloop, Op.mflc] at ho ⊢; omega
  simpa [Task.scalar, hn, ho, eq_comm] using h

omit h in
theorem Task.pred_fields : k.pred (Slot.ra x % 8) = k.pred (fld 14 12 x) ∧ k.pred (Slot.rb x % 8) = k.pred (fld 2 0 x) := by
  constructor <;> congr 1 <;> simp only [Slot.ra, Slot.rb, fld] <;> omega

/-- The result of an S0 or S1 slot is the one that R39 and R46 give it. -/
theorem Task.scalar_meaning : ScalarMeaning k lc x r := by
  have halu : ∀ o v, Op.isAlu o = true → aluValue o (k.reg (Slot.ra x)) (k.second x) = v → Slot.op x = o →
      r = ⟨k.cycle + 1, .reg (BitVec.ofNat 5 (Slot.rd x)), v⟩ := by
    rintro _ _ hc rfl rfl
    exact Task.scalar_alu h hc
  have hcmp : ∀ o (c : Prop), Op.isCmp o = true → (cmpValue o (k.reg (Slot.ra x)) (k.second x) = true ↔ c) → Slot.op x = o →
      (c → r = ⟨k.cycle + 1, .pred (BitVec.ofNat 3 (Slot.pd x)), 1#64⟩) ∧
        (¬ c → r = ⟨k.cycle + 1, .pred (BitVec.ofNat 3 (Slot.pd x)), 0#64⟩) := by
    rintro _ c hc hv rfl
    rw [Task.scalar_cmp h hc]
    exact boolWord_meaning hv _ _
  have hpred : ∀ o (c : Prop), Op.isPred o = true →
      (predValue o (k.pred (fld 14 12 x)) (k.pred (fld 2 0 x)) = true ↔ c) → Slot.op x = o →
      (c → r = ⟨k.cycle + 1, .pred (BitVec.ofNat 3 (Slot.pd x)), 1#64⟩) ∧
        (¬ c → r = ⟨k.cycle + 1, .pred (BitVec.ofNat 3 (Slot.pd x)), 0#64⟩) := by
    rintro _ c hc hv rfl
    rw [Task.scalar_pred h hc, k.pred_fields.1, k.pred_fields.2]
    exact boolWord_meaning hv _ _
  have hmul : ∀ o v, Op.isMul o = true → mulValue o (k.reg (Slot.ra x)) (k.second x) = v → Slot.op x = o →
      r = ⟨k.cycle + 3, .reg (BitVec.ofNat 5 (Slot.rd x)), v⟩ := by
    rintro _ _ hc rfl rfl
    exact Task.scalar_mul h hc
  refine ⟨halu 0x01 _ rfl (by simp [aluValue]; rfl), halu 0x02 _ rfl (sub_eq_ofInt _ _), halu 0x03 _ rfl rfl, halu 0x04 _ rfl rfl,
    halu 0x05 _ rfl rfl, halu 0x06 _ rfl (shiftLeft_eq_ofNat _ _), halu 0x07 _ rfl (shiftRight_eq_ofNat _ _),
    halu 0x08 _ rfl (sshiftRight_eq_ofInt _ _), halu 0x09 _ rfl (min_signed _ _), halu 0x0A _ rfl (max_signed _ _),
    halu 0x0B _ rfl (min_unsigned _ _), halu 0x0C _ rfl (max_unsigned _ _),
    hcmp 0x10 _ rfl (by simp [cmpValue]; rfl), hcmp 0x11 _ rfl (by simp [cmpValue]; rfl), hcmp 0x12 _ rfl BitVec.slt_iff_toInt_lt,
    hcmp 0x13 _ rfl BitVec.ult_iff_toNat_lt, hcmp 0x14 _ rfl BitVec.sle_iff_toInt_le, hcmp 0x15 _ rfl BitVec.ule_iff_toNat_le,
    hpred 0x18 _ rfl (by simp [predValue]), hpred 0x19 _ rfl (by simp [predValue]), hpred 0x1A _ rfl (by simp [predValue]),
    hpred 0x1B _ rfl (by simp [predValue]), ?movz, ?movk, ?mfloop, Task.scalar_mflc h,
    hmul 0x30 _ rfl ?mul, hmul 0x31 _ rfl rfl, hmul 0x32 _ rfl rfl⟩
  case movz =>
    intro hlo hhi
    have hlo' : 0x20 ≤ Slot.op x := hlo
    have hhi' : Slot.op x < 0x24 := hhi
    rw [Task.scalar_mov h (by simp [Op.isMov]; omega), movValue, if_pos hhi', shiftLeft_eq_ofNat, BitVec.toNat_ofNat,
      Nat.mod_eq_of_lt (Nat.lt_trans (Slot.imm16_lt x) (by decide)), show Slot.op x % 4 = Slot.op x - 0x20 by omega]
    rfl
  case movk =>
    intro hlo hhi
    have hlo' : 0x24 ≤ Slot.op x := hlo
    have hhi' : Slot.op x < 0x28 := hhi
    rw [Task.scalar_mov h (by simp [Op.isMov]; omega), movValue, if_neg (by omega), movk_eq_ofNat _ _ _ (Slot.imm16_lt x),
      show Slot.op x % 4 = Slot.op x - 0x24 by omega]
    rfl
  case mfloop =>
    intro ho
    rw [Task.scalar_mfloop h ho]
    constructor
    · intro l hl
      simp only [Task.level, hl, Option.map_some, Option.getD_some, BitVec.ofNat_toNat]
      rfl
    · intro hlen
      rw [Task.level, List.getElem?_eq_none hlen]
      rfl
  case mul =>
    rw [mulValue, if_pos rfl]
    apply BitVec.eq_of_toNat_eq
    rw [BitVec.toNat_mul, BitVec.toNat_ofNat]
    rfl

end

/-- An S0 slot of a fetched word has a result. -/
theorem Task.scalar_isSome_of_good {k : Task} {lc : DWord} {x : Nat} (h : Slot.badScalar false x = false) :
    (k.scalar lc x).isSome = true := by
  unfold Slot.badScalar at h
  unfold Task.scalar
  dsimp only at h ⊢
  (repeat' split) <;> simp_all

/-- An ALU, compare, predicate or move slot has a result. -/
theorem Task.scalar_isSome {k : Task} {lc : DWord} {x : Nat}
    (h : (Op.isAlu (Slot.op x) || Op.isCmp (Slot.op x) || Op.isPred (Slot.op x) || Op.isMov (Slot.op x)) = true) :
    (k.scalar lc x).isSome = true := by
  simp only [Bool.or_eq_true] at h
  unfold Task.scalar
  dsimp only
  (repeat' split) <;> simp_all

end Sys2Proof.Machine

namespace Sys2Proof.Machine

/-! When a word reads a result (R46, R48). -/

/-- Results for other registers leave register `n`. -/
theorem Task.reg_foldl_take {n : BitVec 5} (hn : n ≠ 0#5) (l : List PendingResult) (k : Task)
    (hl : ∀ r ∈ l, r.dest ≠ .reg n) : (l.foldl Task.take k).reg n.toNat = k.reg n.toNat := by
  have hne : n.toNat ≠ 0 := fun h => hn (BitVec.eq_of_toNat_eq h)
  induction l generalizing k with
  | nil => rfl
  | cons r l ih =>
    rw [List.foldl_cons, ih _ fun q hq => hl q (by simp [hq])]
    have hr := hl r (by simp)
    simp only [Task.reg, if_neg hne]
    unfold Task.take
    split
    · next m hm =>
      split
      · rfl
      · exact Vec.at_upd_ne _ _ _ _ fun he => hr (by rw [hm, BitVec.eq_of_toNat_eq he])
    · split <;> rfl

theorem Task.reg_take_same {n : BitVec 5} (hn : n ≠ 0#5) (k : Task) (due : Nat) (v : DWord) :
    (k.take ⟨due, .reg n, v⟩).reg n.toNat = v := by
  have hne : n.toNat ≠ 0 := fun h => hn (BitVec.eq_of_toNat_eq h)
  simp only [Task.reg, if_neg hne, Task.take, if_neg hn]
  exact Vec.at_upd_same _ _ _ n.isLt

theorem mem_insertDue {r x : PendingResult} {l : List PendingResult} : x ∈ insertDue r l ↔ x = r ∨ x ∈ l := by
  induction l with
  | nil => simp [insertDue]
  | cons y l ih =>
    unfold insertDue
    split
    · simp
    · simp only [List.mem_cons, ih]
      tauto

theorem sorted_insertDue (r : PendingResult) {l : List PendingResult} (h : l.Pairwise fun a b => a.due ≤ b.due) :
    (insertDue r l).Pairwise fun a b => a.due ≤ b.due := by
  induction l with
  | nil => simp [insertDue]
  | cons y l ih =>
    obtain ⟨hy, hl⟩ := List.pairwise_cons.mp h
    unfold insertDue
    split
    · next hlt =>
      exact List.pairwise_cons.mpr ⟨fun z hz => by
        rcases List.mem_cons.mp hz with rfl | hz
        · omega
        · have := hy z hz; omega, h⟩
    · next hge =>
      exact List.pairwise_cons.mpr ⟨fun z hz => by
        rcases mem_insertDue.mp hz with rfl | hz
        · omega
        · exact hy z hz, ih hl⟩

/-- A result goes before those due later: whatever stands behind it is due later. -/
theorem insertDue_split (r : PendingResult) {l : List PendingResult} (h : l.Pairwise fun a b => a.due ≤ b.due) :
    ∃ a b, insertDue r l = a ++ r :: b ∧ ∀ x ∈ b, x ∈ l ∧ r.due < x.due := by
  induction l with
  | nil => exact ⟨[], [], rfl, by simp⟩
  | cons y l ih =>
    obtain ⟨hy, hl⟩ := List.pairwise_cons.mp h
    unfold insertDue
    split
    · next hlt =>
      exact ⟨[], y :: l, rfl, fun x hx => ⟨hx, by
        rcases List.mem_cons.mp hx with rfl | hx
        · exact hlt
        · exact Nat.lt_of_lt_of_le hlt (hy x hx)⟩⟩
    · obtain ⟨a, b, he, hb⟩ := ih hl
      exact ⟨y :: a, b, by rw [he]; rfl, fun x hx => ⟨List.mem_cons_of_mem _ (hb x hx).1, (hb x hx).2⟩⟩

/-- A result put into the order stands before `r`, or behind it and is due no earlier. -/
theorem insertDue_append (q r : PendingResult) (a b : List PendingResult) :
    ∃ a' b', insertDue q (a ++ r :: b) = a' ++ r :: b' ∧ ∀ x ∈ b', x ∈ b ∨ (x = q ∧ r.due ≤ q.due) := by
  induction a with
  | nil =>
    rw [List.nil_append, insertDue]
    split
    · exact ⟨[q], b, rfl, fun x hx => .inl hx⟩
    · next hge =>
      exact ⟨[], insertDue q b, rfl, fun x hx => by
        rcases mem_insertDue.mp hx with rfl | hx
        · exact .inr ⟨rfl, by omega⟩
        · exact .inl hx⟩
  | cons y a ih =>
    rw [List.cons_append, insertDue]
    split
    · exact ⟨q :: y :: a, b, rfl, fun x hx => .inl hx⟩
    · obtain ⟨a', b', he, hb⟩ := ih
      exact ⟨y :: a', b', by rw [he]; rfl, hb⟩

/-- The results of a list, put into the order in which they take effect. -/
def byDue (l acc : List PendingResult) : List PendingResult := l.foldl (fun l r => insertDue r l) acc

theorem Task.reg_commit (k : Task) (n : Nat) :
    k.commit.reg n = ((byDue (k.results.filter fun r => decide (r.due ≤ k.cycle)) []).foldl Task.take k).reg n := rfl

theorem byDue_sorted (l : List PendingResult) {acc : List PendingResult} (h : acc.Pairwise fun a b => a.due ≤ b.due) :
    (byDue l acc).Pairwise fun a b => a.due ≤ b.due := by
  induction l generalizing acc with
  | nil => exact h
  | cons r l ih => exact ih (sorted_insertDue r h)

theorem mem_byDue {l acc : List PendingResult} {x : PendingResult} : x ∈ byDue l acc ↔ x ∈ l ∨ x ∈ acc := by
  induction l generalizing acc with
  | nil => simp [byDue]
  | cons r l ih =>
    have hr := ih (acc := insertDue r acc)
    rw [byDue] at hr ⊢
    rw [List.foldl_cons, hr, mem_insertDue, List.mem_cons]
    tauto

/-- Results issued after `r` stand before it, or behind it where they are due no earlier. -/
theorem byDue_append (l : List PendingResult) (r : PendingResult) (a b : List PendingResult) :
    ∃ a' b', byDue l (a ++ r :: b) = a' ++ r :: b' ∧ ∀ x ∈ b', x ∈ b ∨ (x ∈ l ∧ r.due ≤ x.due) := by
  induction l generalizing a b with
  | nil => exact ⟨a, b, rfl, fun x hx => .inl hx⟩
  | cons q l ih =>
    obtain ⟨a1, b1, he, hb⟩ := insertDue_append q r a b
    obtain ⟨a2, b2, he2, hb2⟩ := ih a1 b1
    refine ⟨a2, b2, by rw [← he2, ← he]; rfl, fun x hx => ?_⟩
    rcases hb2 x hx with hx | ⟨hx, hd⟩
    · rcases hb x hx with hx | ⟨rfl, hd⟩
      · exact .inl hx
      · exact .inr ⟨by simp, hd⟩
    · exact .inr ⟨by simp [hx], hd⟩

/-- A word reads a register as the last-issued of the results due last left it. -/
theorem Task.commit_reg_last {k : Task} {n : BitVec 5} (hn : n ≠ 0#5) {pre post : List PendingResult} {due : Nat} {v : DWord}
    (hres : k.results = pre ++ ⟨due, .reg n, v⟩ :: post) (hdue : due ≤ k.cycle)
    (hpre : ∀ r ∈ pre, r.dest = .reg n → r.due ≤ due ∨ k.cycle < r.due)
    (hpost : ∀ r ∈ post, r.dest = .reg n → r.due < due ∨ k.cycle < r.due) : k.commit.reg n.toNat = v := by
  obtain ⟨a, b, he, hb⟩ := insertDue_split ⟨due, .reg n, v⟩
    (byDue_sorted (pre.filter fun r => decide (r.due ≤ k.cycle)) List.Pairwise.nil)
  obtain ⟨a', b', he', hb'⟩ := byDue_append (post.filter fun r => decide (r.due ≤ k.cycle)) ⟨due, .reg n, v⟩ a b
  have horder : byDue (k.results.filter fun r => decide (r.due ≤ k.cycle)) [] = a' ++ ⟨due, .reg n, v⟩ :: b' := by
    rw [hres, List.filter_append, List.filter_cons_of_pos (by simpa using hdue), byDue, List.foldl_append, List.foldl_cons,
      ← he', ← he]
    rfl
  have hlast : ∀ r ∈ b', r.dest ≠ .reg n := by
    intro r hr hd
    rcases hb' r hr with hr | ⟨hr, hle⟩
    · obtain ⟨hmem, hlt⟩ := hb r hr
      obtain ⟨hin, hnow⟩ := List.mem_filter.mp ((mem_byDue.mp hmem).resolve_right (by simp))
      have hlate := hpre r hin hd
      rw [decide_eq_true_eq] at hnow
      dsimp only at hlt
      omega
    · obtain ⟨hin, hnow⟩ := List.mem_filter.mp hr
      have hlate := hpost r hin hd
      rw [decide_eq_true_eq] at hnow
      dsimp only at hle
      omega
  rw [Task.reg_commit, horder, List.foldl_append, List.foldl_cons, Task.reg_foldl_take hn _ _ hlast, Task.reg_take_same hn]

/-- A register for which no result is due reads as it stands. -/
theorem Task.commit_reg_none_due {k : Task} {n : BitVec 5} (hn : n ≠ 0#5)
    (h : ∀ r ∈ k.results, r.dest = .reg n → k.cycle < r.due) : k.commit.reg n.toNat = k.reg n.toNat := by
  rw [Task.reg_commit, Task.reg_foldl_take hn]
  intro r hr hd
  obtain ⟨hin, hnow⟩ := List.mem_filter.mp ((mem_byDue.mp hr).resolve_right (by simp))
  rw [decide_eq_true_eq] at hnow
  have hlate := h r hin hd
  omega

end Sys2Proof.Machine

namespace Sys2Proof.Machine

section

variable {s : State} {t : Nat} {k : Task} {w : LongWord}

/-- A word that neither waits, stalls nor faults takes effect (R36, R37). -/
theorem State.runWord_effects {tags : List Nat} {v : State} (hhold : s.hold k w = none)
    (hjudge : s.judge t k w = (none, tags, v)) : s.runWord t k w = v.effects t k w tags := by
  simp [State.runWord, hhold, hjudge]

/-- Going on keeps what the word has not touched (R52). -/
theorem State.goOn_wordIssued {m : State} {more : List PendingResult} (htasks : ∀ r, r ≠ t → m.task r = s.task r)
    (hcore : m.core = { s.core with
      cur := t, mustSwitch := m.core.mustSwitch, tasks := m.core.tasks, cache := m.core.cache, queues := m.core.queues
      storeCount := m.core.storeCount }) : WordIssued s t w (m.goOn t k w more) := by
  refine ⟨?_, fun r hr => (State.goOn_task_ne m k w more hr).trans (htasks r hr)⟩
  have hgo : (m.goOn t k w more).core =
      { m.core with tasks := (m.goOn t k w more).core.tasks, mustSwitch := w.yld || w.dly != 0 } := rfl
  rw [hgo, hcore]

/-- Going on changes the core alone. -/
theorem State.goOn_core {m : State} {more : List PendingResult} {c : Core} (h : m = { s with core := c }) :
    m.goOn t k w more = { s with core := (m.goOn t k w more).core } := by
  subst h
  rfl

/-- The operation of an ALU, compare, predicate or move slot. -/
def Op.isScalar (o : Nat) : Bool := Op.isAlu o || Op.isCmp o || Op.isPred o || Op.isMov o

theorem Op.not_memory_of_isScalar {o : Nat} (h : Op.isScalar o = true) :
    Op.isStore o = false ∧ Op.isLoad o = false ∧ o ≠ Op.acq ∧ o ≠ Op.cinva := by
  simp [Op.isScalar, Op.isAlu, Op.isCmp, Op.isPred, Op.isMov, Op.isStore, Op.isLoad, Op.acq, Op.cinva] at h ⊢
  omega

section

variable (hscalar : ∀ x, w.active k 1 = some x → Op.isScalar (Slot.op x) = true) (henq : w.active k 3 = none)
  (hctl : w.active k 2 = none)
include hscalar henq

theorem State.hold_scalar : s.hold k w = none := by
  cases h1 : w.active k 1 with
  | none => simp [State.hold, h1, henq]
  | some x => simp [State.hold, h1, henq, Slot.isStore, Op.not_memory_of_isScalar (hscalar x h1)]

include hctl

theorem State.judge_scalar : s.judge t k w = (none, [], s) := by
  cases h1 : w.active k 1 with
  | none => simp [State.judge, State.judgeSlot, h1, henq, hctl]
  | some x =>
    simp [State.judge, State.judgeSlot, h1, henq, hctl, State.judgeMemory, Op.not_memory_of_isScalar (hscalar x h1)]

theorem State.effects_scalar (ht : t < 32) (tags : List Nat) :
    s.effects t k w tags = s.goOn t k w (scalarResults k w s.lehr.lc) := by
  have hmem : (w.active k 1 = none ∧ s = s ∧ ([] : List PendingResult) = []) ∨
      ∃ x, w.active k 1 = some x ∧ s.runMemory t k w x = (.none, [], s) := by
    cases h1 : w.active k 1 with
    | none => exact .inl ⟨rfl, rfl, rfl⟩
    | some x => exact .inr ⟨x, rfl, by simp [State.runMemory, Op.not_memory_of_isScalar (hscalar x h1)]⟩
  rw [State.effects_eq_goOn ht hctl hmem (.inl ⟨henq, rfl, rfl⟩), List.append_nil, List.append_nil]

end

/-- S0's result stands before S1's. -/
theorem scalarResults_eq {lc : DWord} {r0 r1 : PendingResult} (h0 : ∀ x, w.active k 0 = some x → k.scalar lc x = some r0)
    (h1 : ∀ x, w.active k 1 = some x → k.scalar lc x = some r1) :
    scalarResults k w lc = ((w.active k 0).toList.map fun _ => r0) ++ ((w.active k 1).toList.map fun _ => r1) := by
  cases e0 : w.active k 0 <;> cases e1 : w.active k 1 <;> simp [scalarResults, e0, e1, h0, h1]

end

/-- The slot's result, where it has one. -/
def scalarResult (k : Task) (lc : DWord) (x : Option Nat) : PendingResult := (x.bind (k.scalar lc)).getD default

theorem scalar_scalarResult {k : Task} {lc : DWord} {x : Nat} (h : (k.scalar lc x).isSome = true) :
    k.scalar lc x = some (scalarResult k lc (some x)) := by
  obtain ⟨r, hr⟩ := Option.isSome_iff_exists.mp h
  simp [scalarResult, hr]

theorem endBody_of_not_last {pc after : Nat} {ls : List LoopLevel} (h : ∀ l ∈ ls, l.last ≠ pc) :
    endBody pc after ls = (after, ls) := by
  cases ls with
  | nil => rfl
  | cons l ls => rw [endBody, if_neg (h l (by simp))]

theorem endBody_of_last {pc after : Nat} {l : LoopLevel} {ls : List LoopLevel} (h : l.last = pc) (hrem : l.rem ≠ 1#32) :
    endBody pc after (l :: ls) = (l.first, { l with rem := l.rem - 1#32 } :: ls) := by
  have hsub : l.rem - 1#32 ≠ 0#32 := fun he => hrem (by simpa using sub_eq_zero.mp he)
  rw [endBody, if_pos h, if_neg hsub]

/-- Settles O4: a word of scalar slots is `goOn` with their results; a register reads the last of the results due. -/
theorem scalarWordIssues : Obligations.ScalarWordIssues := by
  unfold Obligations.ScalarWordIssues
  refine ⟨fun s t w k hi hk hslots => ?_, fun k n hn => ⟨fun pre post due v => Task.commit_reg_last hn, Task.commit_reg_none_due hn⟩⟩
  subst hk
  obtain ⟨ht, hexec⟩ := hi.exec_eq
  set k := (s.task t).commit with hk
  have hctl : w.active k 2 = none := LongWord.active_eq_none fun p hp => by have := hslots p hp; omega
  have henq : w.active k 3 = none := LongWord.active_eq_none fun p hp => by have := hslots p hp; omega
  have hscalar : ∀ x, w.active k 1 = some x → Op.isScalar (Slot.op x) = true := fun x hx =>
    ((hslots _ (LongWord.mem_of_active hx)).resolve_left (by simp)).2
  have h0 : ∀ x, w.active k 0 = some x → k.scalar s.lehr.lc x = some (scalarResult k s.lehr.lc (w.active k 0)) := fun x hx =>
    hx ▸ scalar_scalarResult (Task.scalar_isSome_of_good (Core.fetch_slots_good hi.fetched _ (LongWord.mem_of_active hx)))
  have h1 : ∀ x, w.active k 1 = some x → k.scalar s.lehr.lc x = some (scalarResult k s.lehr.lc (w.active k 1)) := fun x hx =>
    hx ▸ scalar_scalarResult (Task.scalar_isSome (hscalar x hx))
  have htask : ((s.turnOf t).goOn t k w (scalarResults k w s.lehr.lc)).task t =
      k.after w (scalarResults k w s.lehr.lc) k.stores := State.goOn_task _ ht k w _ (State.turnOf_task s ht)
  rw [State.runWord_effects (State.hold_scalar hscalar henq) (State.judge_scalar hscalar henq hctl),
    State.effects_scalar hscalar henq hctl ht, show (s.turnOf t).lehr = s.lehr from rfl] at hexec
  refine ⟨_, _, _, hexec, fun x hx => Task.scalar_meaning (h0 x hx), fun x hx => Task.scalar_meaning (h1 x hx),
    htask.trans (by rw [scalarResults_eq h0 h1]), fun hl => ?_, fun l ls hl hlast hrem => ?_,
    State.goOn_wordIssued (fun r hr => State.turnOf_task_ne s hr) rfl, rfl, rfl, rfl, rfl⟩
  · rw [htask]
    simp [Task.after, endBody_of_not_last hl, LongWord.next]
  · rw [htask]
    simp [Task.after, hl, endBody_of_last hlast hrem]

end Sys2Proof.Machine

namespace Sys2Proof.Machine

/-! A word that is one ENQ or one store (R41, R43, R44, R54, R59-R62). -/

theorem State.queue_onQueue_same {s : State} {q : Nat} (hq : q < 8) (f : EngineQueue → EngineQueue) :
    (s.onQueue q f).queue q = f (s.queue q) := Vec.at_upd_same _ _ _ hq

theorem State.queue_onQueue_ne {s : State} {q r : Nat} (h : r ≠ q) (f : EngineQueue → EngineQueue) :
    (s.onQueue q f).queue r = s.queue r := Vec.at_upd_ne _ _ _ _ h

theorem scalarResults_nil {k : Task} {w : LongWord} (lc : DWord) (h0 : w.active k 0 = none) (h1 : w.active k 1 = none) :
    scalarResults k w lc = [] := by simp [scalarResults, h0, h1]

section

variable {s : State} {t x : Nat} {k : Task} {w : LongWord}

section

variable (hact : ∀ j, w.active k j = if j = 3 then some x else none) (hstop : (s.queue (Slot.enqQ x)).stopped = false)
  (hroom : (s.queue (Slot.enqQ x)).entries.length < 64)
  (hown : s.tier.det = true → Vec.at s.core.owners (Slot.enqQ x) = BitVec.ofNat 5 t)
include hact

include hstop hroom in
theorem State.hold_enq : s.hold k w = none := by
  simp [State.hold, hact, hstop, Config.queueDepth, hroom]

include hown in
theorem State.judge_enq : s.judge t k w = (none, [], s) := by
  have hjudge : (s.tier.det && Vec.at s.core.owners (Slot.enqQ x) != BitVec.ofNat 5 t) = false := by
    cases hdet : s.tier.det with
    | false => rfl
    | true => simp [hown hdet]
  simp [State.judge, State.judgeSlot, hact, State.judgeEnq, hjudge]

theorem State.effects_enq (ht : t < 32) (tags : List Nat) :
    s.effects t k w tags = (s.runEnq k x).2.goOn t k w (s.runEnq k x).1 := by
  rw [State.effects_eq_goOn ht (by simp [hact]) (.inl ⟨by simp [hact], rfl, rfl⟩) (.inr ⟨x, by simp [hact], rfl⟩),
    scalarResults_nil _ (by simp [hact]) (by simp [hact])]
  rfl

end

end

/-- Settles O5: the word is `goOn` after `runEnq`. -/
theorem enqWordQueuesCommand : Obligations.EnqWordQueuesCommand := by
  unfold Obligations.EnqWordQueuesCommand
  intro s t w x k q seq hi hk hslots hguard hq hseq hstop hroom hown
  subst hk hq hseq
  obtain ⟨ht, hexec⟩ := hi.exec_eq
  have hact := LongWord.active_single hslots hguard
  have hq : Slot.enqQ x < 8 := fld_lt 9 7 x
  rw [State.runWord_effects (State.hold_enq (s := s.turnOf t) hact hstop hroom) (State.judge_enq (s := s.turnOf t) hact hown),
    State.effects_enq hact ht] at hexec
  exact ⟨_, hexec, State.queue_onQueue_same hq _, fun r hr => State.queue_onQueue_ne hr _,
    State.goOn_task _ ht _ _ _ (State.turnOf_task s ht), State.goOn_wordIssued (fun r hr => State.turnOf_task_ne s hr) rfl,
    rfl, rfl, rfl⟩

/-! Bytes of a cache line (R54, R484). -/

theorem CacheLine.testBit_read (l : CacheLine) (off n i : Nat) :
    (l.read off n).testBit i = (decide (i < 8 * n) && l.data.getLsbD (8 * off + i)) := by
  simp [CacheLine.read, Nat.testBit_mod_two_pow, Nat.testBit_div_two_pow, BitVec.getLsbD, Nat.add_comm]

theorem CacheLine.getLsbD_put (l : CacheLine) {off n i : Nat} (v : DWord) (hoff : off + n ≤ 64) (hi : i < 512) :
    (l.put off n v).data.getLsbD i =
      if 8 * off ≤ i ∧ i < 8 * (off + n) then v.getLsbD (i - 8 * off) else l.data.getLsbD i := by
  have hhole : ∀ j, (BitVec.ofNat 512 (2 ^ (8 * n) - 1)).getLsbD j = decide (j < 8 * n) := by
    intro j
    rw [BitVec.getLsbD_ofNat, Nat.testBit_two_pow_sub_one]
    by_cases hj : j < 8 * n
    · simp [hj]; omega
    · simp [hj]
  have hval : ∀ j, (BitVec.ofNat 512 (v.toNat % 2 ^ (8 * n))).getLsbD j = (decide (j < 8 * n) && v.getLsbD j) := by
    intro j
    rw [BitVec.getLsbD_ofNat, Nat.testBit_mod_two_pow]
    by_cases hj : j < 8 * n
    · simp [hj, BitVec.getLsbD]; omega
    · simp [hj]
  simp only [CacheLine.put, BitVec.getLsbD_or, BitVec.getLsbD_and, BitVec.getLsbD_not, BitVec.getLsbD_shiftLeft, hhole, hval, hi]
  by_cases hlo : 8 * off ≤ i
  · by_cases hhi : i < 8 * (off + n)
    · simp [show ¬ i < 8 * off by omega, hlo, hhi, show i - 8 * off < 8 * n by omega]
    · simp [show ¬ i < 8 * off by omega, hhi, show ¬ i - 8 * off < 8 * n by omega]
  · simp [show i < 8 * off by omega, hlo]

theorem CacheLine.read_put_same (l : CacheLine) {off n : Nat} (v : DWord) (hoff : off + n ≤ 64) :
    (l.put off n v).read off n = v.toNat % 2 ^ (8 * n) := by
  apply Nat.eq_of_testBit_eq
  intro i
  rw [CacheLine.testBit_read, Nat.testBit_mod_two_pow]
  by_cases hi : i < 8 * n
  · rw [CacheLine.getLsbD_put l v hoff (by omega), if_pos (by omega), Nat.add_sub_cancel_left]
    rfl
  · simp [hi]

theorem CacheLine.read_put_outside (l : CacheLine) {off n o : Nat} (v : DWord) (hoff : off + n ≤ 64) (ho : o < 64)
    (hout : o < off ∨ off + n ≤ o) : (l.put off n v).read o 1 = l.read o 1 := by
  apply Nat.eq_of_testBit_eq
  intro i
  rw [CacheLine.testBit_read, CacheLine.testBit_read]
  by_cases hi : i < 8
  · rw [CacheLine.getLsbD_put l v hoff (by omega), if_neg (by omega)]
  · simp [hi]

section

variable {s : State} {t x : Nat} {k : Task} {w : LongWord}

/-- The checks of the bus look at nothing of the core but whether the tier runs. -/
theorem State.busCheck_core (c : Core) (m a n : Nat) (write : Bool) :
    ({ s with core := c } : State).busCheck m a n write = s.busCheck m a n write := rfl

section

variable (hact : ∀ j, w.active k j = if j = 1 then some x else none) (hstore : Op.isStore (Slot.op x) = true)
include hact

theorem State.hold_store (hroom : k.stores.length < 16) : s.hold k w = none := by
  simp [State.hold, hact, Config.storeDepth, Nat.not_le.mpr hroom]

include hstore

theorem State.judge_store (hmod : k.address x % Op.size (Slot.op x) = 0)
    (hmay : (s.busCheck 0x51 (k.address x) (Op.size (Slot.op x)) true).isSome = true) :
    s.judge t k w = (none, [], s) := by
  obtain ⟨v, hv⟩ := Option.isSome_iff_exists.mp hmay
  have haccess : s.accessCheck (k.address x) (Op.size (Slot.op x)) true = (none, s) := by simp [State.accessCheck, hmod, hv]
  simp [State.judge, State.judgeSlot, hact, State.judgeMemory, hstore, haccess]

theorem State.effects_store (ht : t < 32) (tags : List Nat) :
    s.effects t k w tags =
      (s.pushStore t (k.address x) (Op.size (Slot.op x)) (k.reg (Slot.rd x))).goOn t k w [] := by
  have hrun : s.runMemory t k w x =
      (.none, [], s.pushStore t (k.address x) (Op.size (Slot.op x)) (k.reg (Slot.rd x))) := by simp [State.runMemory, hstore]
  have hnot : k.scalar s.lehr.lc x = none := by
    simp [Op.isStore] at hstore
    have hop : ∀ o, 0x34 ≤ o → Op.isAlu o = false ∧ Op.isCmp o = false ∧ Op.isPred o = false ∧ Op.isMov o = false ∧
        Op.isMul o = false ∧ o ≠ Op.mfloop ∧ o ≠ Op.mflc := by
      simp [Op.isAlu, Op.isCmp, Op.isPred, Op.isMov, Op.isMul, Op.mfloop, Op.mflc]
      omega
    simp [Task.scalar, hop _ hstore.1]
  have hresults : scalarResults k w s.lehr.lc = [] := by simp [scalarResults, hact, hnot]
  rw [State.effects_eq_goOn ht (by simp [hact]) (.inr ⟨x, by simp [hact], hrun⟩) (.inl ⟨by simp [hact], rfl, rfl⟩), hresults]
  rfl

end

/-- The lines of the cache after a store: the present line has its bytes, every line its number and error mark. -/
theorem State.pushStore_cache (a n : Nat) (v : DWord) (hn : a % 64 + n ≤ 64) :
    (s.pushStore t a n v).core.cache.map (fun l => (l.line, l.bad)) = s.core.cache.map (fun l => (l.line, l.bad)) ∧
    ∀ l ∈ (s.pushStore t a n v).core.cache, (l ∈ s.core.cache ∧ (l.line ≠ a / 64 ∨ 0x200000 ≤ a)) ∨
      (l.line = a / 64 ∧ l.read (a % 64) n = v.toNat % 2 ^ (8 * n) ∧
        ∃ l0 ∈ s.core.cache, l0.line = l.line ∧
          ∀ o, o < 64 → (o < a % 64 ∨ a % 64 + n ≤ o) → l.read o 1 = l0.read o 1) := by
  by_cases ha : a < 0x200000
  · have hcache : (s.pushStore t a n v).core.cache =
        s.core.cache.map fun (l : CacheLine) => if l.line = a / 64 then l.put (a % 64) n v else l := by
      simp [State.pushStore, isLoc, Config.localSize, ha]
      rfl
    rw [hcache]
    constructor
    · rw [List.map_map]
      refine List.map_congr_left fun l _ => ?_
      by_cases hl : l.line = a / 64
      · simp [hl, CacheLine.put]
      · simp [hl]
    · intro l hl
      obtain ⟨l0, hmem, rfl⟩ := List.mem_map.mp hl
      by_cases hline : l0.line = a / 64
      · rw [if_pos hline]
        exact .inr ⟨hline, CacheLine.read_put_same _ _ hn, l0, hmem, rfl, fun o ho hout => CacheLine.read_put_outside _ _ hn ho hout⟩
      · rw [if_neg hline]
        exact .inl ⟨hmem, .inl hline⟩
  · have hcache : (s.pushStore t a n v).core.cache = s.core.cache := by
      simp [State.pushStore, isLoc, Config.localSize, ha]
      rfl
    rw [hcache]
    exact ⟨rfl, fun l hl => .inl ⟨hl, .inr (by omega)⟩⟩

theorem State.pushStore_task (ht : t < 32) (a n : Nat) (v : DWord) (h : s.task t = k) :
    (s.pushStore t a n v).task t =
      { k with stores := k.stores ++ [{ addr := a, size := n, data := v, ord := s.core.storeCount }] } := by
  subst h
  exact State.task_onTask_same s ⟨t, ht⟩ _

theorem State.pushStore_task_ne {r : Nat} (a n : Nat) (v : DWord) (h : r ≠ t) : (s.pushStore t a n v).task r = s.task r :=
  State.task_onTask_ne _ _ _ _ h

theorem State.pushStore_eq (a n : Nat) (v : DWord) : s.pushStore t a n v = { s with core := (s.pushStore t a n v).core } := rfl

theorem Op.size_of_isStore {o : Nat} (h : Op.isStore o = true) : Op.size o ∈ [1, 2, 4, 8] := by
  simp [Op.isStore] at h
  obtain rfl | rfl | rfl | rfl : o = 0x34 ∨ o = 0x35 ∨ o = 0x36 ∨ o = 0x37 := by omega
  all_goals decide

/-- An aligned access of 1, 2, 4 or 8 bytes lies in one line. -/
theorem aligned_in_line {a n : Nat} (hn : n ∈ [1, 2, 4, 8]) (ha : a % n = 0) : a % 64 + n ≤ 64 := by
  simp only [List.mem_cons, List.not_mem_nil, or_false] at hn
  rcases hn with rfl | rfl | rfl | rfl <;> omega

end

/-- Settles O6: the word is `goOn` after `pushStore`. -/
theorem storeWordBuffers : Obligations.StoreWordBuffers := by
  unfold Obligations.StoreWordBuffers
  intro s t w x k a n hi hk hslots hguard hstore hroom ha hn hmod hmay
  subst hk ha hn
  obtain ⟨ht, hexec⟩ := hi.exec_eq
  have hact := LongWord.active_single hslots hguard
  rw [State.runWord_effects (State.hold_store hact (by simpa using hroom))
    (State.judge_store (s := s.turnOf t) hact hstore hmod hmay), State.effects_store hact hstore ht] at hexec
  obtain ⟨hlines, hread⟩ := (s.turnOf t).pushStore_cache (t := t) ((s.task t).commit.address x) (Op.size (Slot.op x))
    ((s.task t).commit.reg (Slot.rd x)) (aligned_in_line (Op.size_of_isStore hstore) hmod)
  exact ⟨_, hexec, State.goOn_task _ ht _ _ _ (State.pushStore_task ht _ _ _ (State.turnOf_task s ht)), rfl, hlines, hread,
    State.goOn_wordIssued (fun r hr => (State.pushStore_task_ne _ _ _ hr).trans (State.turnOf_task_ne s hr)) rfl, rfl,
    State.goOn_core (State.pushStore_eq _ _ _)⟩

end Sys2Proof.Machine

namespace Sys2Proof.Machine

/-! Words that R35 forbids, and the task that halts on one (R28, R37, R63). -/

section

variable {s : State}

/-- A program with a task that may still go on is not at its end (R31). -/
theorem State.endCheck_of_live {r : Nat} (h : (s.task r).state = .ready ∨ (s.task r).state = .waiting) : s.endCheck = s := by
  have hr : r < 32 := by
    by_contra hlt
    rw [State.task_of_le (by omega)] at h
    revert h
    decide
  have hall : (s.core.tasks.toList.all fun t => t.state == .free || t.state == .halted) = false := by
    rw [List.all_eq_false]
    exact ⟨_, State.task_mem hr, by rcases h with h | h <;> simp [h]⟩
  simp [State.endCheck, hall]

/-- CC_FAULT and CC_FAULTPC take the first fault (R63). -/
def Core.recordFault (c : Core) (t : Nat) (code : Half) (slot pc : Nat) : Core :=
  if c.faultValid then c else { c with
    faultValid := true, faultCode := code, faultSlot := BitVec.ofNat 2 slot, faultTask := BitVec.ofNat 5 t
    faultPc := BitVec.ofNat 16 pc }

theorem Core.recordFault_valid (c : Core) (t : Nat) (code : Half) (slot pc : Nat) :
    (c.faultValid = true → c.recordFault t code slot pc = c) ∧
    (c.faultValid = false → c.recordFault t code slot pc = { c with
      faultValid := true, faultCode := code, faultSlot := BitVec.ofNat 2 slot, faultTask := BitVec.ofNat 5 t
      faultPc := BitVec.ofNat 16 pc }) := by
  constructor <;> intro h <;> simp [Core.recordFault, h]

@[simp] theorem Core.recordFault_frame (c : Core) (t : Nat) (code : Half) (slot pc : Nat) :
    (c.recordFault t code slot pc).tasks = c.tasks ∧ (c.recordFault t code slot pc).queues = c.queues ∧
      (c.recordFault t code slot pc).cache = c.cache := by
  unfold Core.recordFault; split <;> simp

/-- The event that a report posts (R446). -/
def State.eventOf (s : State) (code : Half) (source : Byte) (detail : List Nat) : Event :=
  { code := code, source := source, tier := s.tier.state.code, lc := s.lehr.lc, pos := s.router.posWord
    detail := detail.map (BitVec.ofNat 32) }

theorem State.post_room (code : Half) (source : Byte) (detail : List Nat) (h : s.gaffer.eventCount < 64) :
    s.post code source detail =
      { s with gaffer := { s.gaffer with outq := s.gaffer.outq ++ [.event (s.eventOf code source detail)] } } :=
  if_neg (Nat.not_le.mpr h)

/-- Task `t` has come to a halt (R63). -/
def State.halted (s : State) (t : Nat) : State :=
  s.onTask t fun x => { x with state := .halted, cause := .none, memWait := .none }

theorem State.haltTask_record (t : Nat) (code : Half) (slot pc : Nat) (detail : List Nat) :
    s.haltTask t code slot pc detail =
      (State.post { s with
        core := (s.halted t).core.recordFault t code slot pc, raised := (0x1000 * 1 + 0x008, 15) :: s.raised }
        code Source.core detail).endCheck := by
  cases hv : s.core.faultValid <;> simp only [State.haltTask, State.halted, State.onTask, Core.recordFault, State.raise, hv] <;> rfl

/-- A task of a program that goes on halts: its record, the report, and nothing else (R63). -/
theorem State.haltTask_eq {t r : Nat} (code : Half) (slot pc : Nat) (detail : List Nat) (hr : r ≠ t)
    (hlive : (s.task r).state = .ready ∨ (s.task r).state = .waiting) (hroom : s.gaffer.eventCount < 64) :
    s.haltTask t code slot pc detail = { s with
      core := (s.halted t).core.recordFault t code slot pc
      raised := (0x1000 * 1 + 0x008, 15) :: s.raised
      gaffer := { s.gaffer with outq := s.gaffer.outq ++ [.event (s.eventOf code Source.core detail)] } } := by
  have hpost := State.post_room (s := { s with
    core := (s.halted t).core.recordFault t code slot pc, raised := (0x1000 * 1 + 0x008, 15) :: s.raised })
    code Source.core detail hroom
  rw [State.haltTask_record, hpost, State.endCheck_of_live (r := r)]
  · rfl
  · have htask : Vec.at ((s.halted t).core.recordFault t code slot pc).tasks r = s.task r := by
      rw [(Core.recordFault_frame ..).1]
      exact State.task_onTask_ne _ _ _ _ hr
    rw [← htask] at hlive
    exact hlive

/-- A forbidden word of the task whose turn it is (R35, R52). -/
theorem exec_longWordIssue_bad {t slot : Nat} (hrun : s.inRun = true) (hrest : s.resting = false)
    (hbeat : s.core.startBeat ≤ s.beat) (hspawn : ∀ k ∈ s.core.tasks.toList, k.spawning = false) (hpick : s.core.pick = some t)
    (hfetch : s.core.fetch (s.task t).commit.pc = .bad slot) :
    t < 32 ∧ exec .longWordIssue s = .next ((s.turnOf t).haltTask t Code.badCommand slot (s.task t).pc []) := by
  obtain ⟨ht, hexec⟩ := exec_longWordIssue_turn hrun hrest hbeat hspawn hpick
  refine ⟨ht, hexec.trans ?_⟩
  have htask := State.turnOf_task s ht
  have hf : (s.turnOf t).core.fetch (s.task t).commit.pc = .bad slot := hfetch
  rw [← Task.commit_pc (s.task t)]
  unfold State.turnOf at htask hf
  simp only [State.runTask, State.turnOf, htask, hf]

theorem Core.imemError_nil {c : Core} (h : c.imemBad = []) (a n : Nat) : c.imemError a n = none := by
  simp [Core.imemError, h]

/-- A header past the end of instruction memory, or with reserved bits, is a fault of slot 0 (R33-R35). -/
theorem Core.fetch_bad_header {c : Core} (pc : Nat) (h : c.imemBad = []) :
    (0x10000 < pc + 2 → c.fetch pc = .bad 0) ∧
    (pc + 2 ≤ 0x10000 → fld 7 0 (c.imem.readLE pc 2) ≠ 0 → c.fetch pc = .bad 0) := by
  constructor
  · intro hpc
    simp [Core.fetch, Config.imemSize, hpc]
  · intro hpc hres
    simp [Core.fetch, Config.imemSize, Nat.not_lt.mpr hpc, Core.imemError_nil h, hres]

end

/-- An operation that no table of R39, R40 or R42 lists is forbidden in S0 and S1. -/
theorem Slot.badScalar_undefined {x : Nat} (s1 : Bool) (h : Slot.op x = 0 ∨ Slot.op x = 0x0D ∨ 0x3F ≤ Slot.op x) :
    Slot.badScalar s1 x = true := by
  have hop : Op.isAlu (Slot.op x) = false ∧ Op.isCmp (Slot.op x) = false ∧ Op.isPred (Slot.op x) = false ∧
      Op.isMov (Slot.op x) = false ∧ Op.isMul (Slot.op x) = false ∧ Op.isStore (Slot.op x) = false ∧
      Op.isLoad (Slot.op x) = false ∧ Slot.op x ≠ Op.acq ∧ Slot.op x ≠ Op.cinva ∧ Slot.op x ≠ Op.mfloop ∧
      Slot.op x ≠ Op.mflc := by
    simp [Op.isAlu, Op.isCmp, Op.isPred, Op.isMov, Op.isMul, Op.isStore, Op.isLoad, Op.acq, Op.cinva, Op.mfloop, Op.mflc]
    omega
  cases s1 <;> simp [Slot.badScalar, hop]

/-- Slots that R35 forbids: undefined operations, reserved fields and KINDs, and the operands of LOOP and ENQ. -/
theorem Slot.bad_cases (m : Memory) (next x : Nat) :
    ((Slot.op x = 0 ∨ Slot.op x = 0x0D ∨ 0x3F ≤ Slot.op x) → Slot.bad m next (0, x) = true ∧ Slot.bad m next (1, x) = true) ∧
    (Slot.op x = 0x01 → bit 11 x = false → fld 10 5 x ≠ 0 → Slot.bad m next (0, x) = true) ∧
    (Slot.op x = 0x34 → bit 11 x = false → Slot.bad m next (1, x) = true) ∧
    ((Slot.op x = 0 ∨ 10 ≤ Slot.op x) → Slot.bad m next (2, x) = true) ∧
    (Slot.op x = 6 → 4 < fld 21 18 x → Slot.bad m next (2, x) = true) ∧
    (Slot.op x = 4 → fld 21 11 x = 0 → Slot.bad m next (2, x) = true) ∧
    ((Slot.op x ≠ 1 ∨ 31 < fld 16 12 x + fld 11 10 x) → Slot.bad m next (3, x) = true) := by
  refine ⟨fun h => ⟨Slot.badScalar_undefined false h, Slot.badScalar_undefined true h⟩, fun ho hi hf => ?_, fun ho hi => ?_,
    fun ho => ?_, fun ho hk => ?_, fun ho hb => ?_, fun ho => ?_⟩
  · simp [Slot.bad, Slot.badScalar, ho, Op.isAlu, Slot.badA, Slot.imm, hi, hf]
  · simp [Slot.bad, Slot.badScalar, ho, Op.isAlu, Op.isCmp, Op.isPred, Op.isMov, Op.isStore, Slot.imm, hi]
  · have hne : ∀ n, 1 ≤ n → n ≤ 9 → Slot.op x ≠ n := by omega
    simp [Slot.bad, Slot.badControl, Op.br, Op.call, Op.loop, Op.wait, Op.rsel, Op.brr, Op.loopx, Op.spawn, Op.halt, hne]
  · simp [Slot.bad, Slot.badControl, ho, Op.br, Op.call, Op.loop, Op.wait, Slot.kind, hk]
  · simp [Slot.bad, Slot.badControl, ho, Op.br, Op.call, Op.loop, Slot.body, hb]
  · simp only [Slot.bad, Slot.badEnq, Slot.ra, Slot.enqN, Op.enq]
    rcases ho with ho | ho
    · simp [ho]
    · simp [show 32 < fld 16 12 x + (fld 11 10 x + 1) by omega]

/-- Settles O7: the word's task halts by `haltTask`; a header and a slot are forbidden by their encodings. -/
theorem forbiddenWordHaltsTask : Obligations.ForbiddenWordHaltsTask := by
  unfold Obligations.ForbiddenWordHaltsTask
  refine ⟨fun s t slot hrun hrest hbeat hspawn hpick hfetch hother hroom => ?_, fun c pc hbad => Core.fetch_bad_header pc hbad,
    Slot.bad_cases⟩
  obtain ⟨ht, hexec⟩ := exec_longWordIssue_bad hrun hrest hbeat hspawn hpick hfetch
  obtain ⟨r, hr, hlive⟩ := hother
  rw [← State.turnOf_task_ne s hr] at hlive
  rw [State.haltTask_eq (s := s.turnOf t) Code.badCommand slot (s.task t).pc [] hr hlive hroom] at hexec
  generalize hv : (s.turnOf t).halted t = v at hexec
  have htask : v.task t = { (s.task t).commit with state := .halted, cause := .none, memWait := .none } := by
    
    rw [← hv, State.halted, State.task_onTask_same _ ⟨t, ht⟩, State.turnOf_task s ht]
  have hothers : ∀ r, r ≠ t → v.task r = s.task r := fun r hr => by
    rw [← hv, State.halted, State.task_onTask_ne _ _ _ _ hr, State.turnOf_task_ne s hr]
  have hcore : v.core = { s.core with cur := t, mustSwitch := false, tasks := v.core.tasks } := by rw [← hv]; rfl
  obtain ⟨hold, hnew⟩ := v.core.recordFault_valid t Code.badCommand slot (s.task t).pc
  obtain ⟨htasks, hqueues, hcache⟩ := v.core.recordFault_frame t Code.badCommand slot (s.task t).pc
  have hvalid : v.core.faultValid = s.core.faultValid := by rw [hcore]
  refine ⟨_, _, hexec, ?_, fun r hr => ?_, ?_, ?_, fun hf => ?_, fun hf => ?_, rfl, rfl, rfl, rfl⟩
  · exact (congrArg (Vec.at · t) htasks).trans htask
  · exact (congrArg (Vec.at · r) htasks).trans (hothers r hr)
  · exact hqueues.trans (by rw [hcore])
  · exact hcache.trans (by rw [hcore])
  · rw [hold (hvalid.trans hf), hcore]
    exact ⟨hf, rfl, rfl, rfl, rfl⟩
  · rw [hnew (hvalid.trans hf)]
    exact ⟨rfl, rfl, rfl, rfl, rfl⟩

end Sys2Proof.Machine

namespace Sys2Proof.Machine

/-! Loads that arrive and lines that are dropped (R28, R46-R48, R344, R484). -/

section

variable {s : State}

theorem Task.wake_of_waiting {k : Task} (hs : k.state = .waiting) (hc : k.cause = .none) (hm : k.memWait = .none) :
    k.wake = { k with state := .ready } := by
  simp [Task.wake, hs, hc, hm]

theorem Memory.readBytes_add (m : Memory) (a n k : Nat) : m.readBytes a (n + k) = m.readBytes a n ++ m.readBytes (a + n) k := by
  induction n generalizing a with
  | zero => simp [Memory.readBytes]
  | succ n ih => rw [Nat.add_right_comm, Memory.readBytes, ih]; simp [Memory.readBytes, Nat.add_assoc, Nat.add_comm 1]

/-- A part of a range of memory, read as a number, is a part of the number that the range spells. -/
theorem Memory.readLE_part (m : Memory) {a o n len : Nat} (h : o + n ≤ len) :
    m.readLE a len / 2 ^ (8 * o) % 2 ^ (8 * n) = m.readLE (a + o) n := by
  obtain ⟨rest, rfl⟩ := Nat.exists_eq_add_of_le h
  have hlow := ofLE_lt (m.readBytes a o)
  have hmid := ofLE_lt (m.readBytes (a + o) n)
  rw [Memory.length_readBytes] at hlow hmid
  rw [show (2 : Nat) ^ (8 * o) = 256 ^ o by rw [Nat.pow_mul], show (2 : Nat) ^ (8 * n) = 256 ^ n by rw [Nat.pow_mul],
    Memory.readLE_eq, Memory.readLE_eq, Memory.readBytes_add, Memory.readBytes_add, ofLE_append, ofLE_append]
  simp only [List.length_append, Memory.length_readBytes]
  rw [Nat.pow_add, Nat.mul_assoc, Nat.add_assoc, ← Nat.mul_add, Nat.add_mul_div_left _ _ (by positivity),
    Nat.div_eq_of_lt hlow, Nat.zero_add, Nat.add_mul_mod_self_left, Nat.mod_eq_of_lt hmid]

/-- The line that a fill takes from memory, when no word of it is bad and no store waits for it. -/
def State.lineOf (s : State) (line : Nat) : CacheLine :=
  { line := line, data := BitVec.ofNat 512 (ofLE (s.mem.mem.readBytes (64 * line) 64)), poison := 0#8, bad := false }

theorem State.fill_clean {line : Nat} (hbad : ∀ i < 8, 8 * line + i ∉ s.mem.bad) (hst : s.core.storesFor line = []) :
    s.fill line = { (s.lread (64 * line) 64).2.2 with core := s.core.allocate (s.lineOf line) } := by
  have hnone : (List.range 8).filter (fun k => s.mem.bad.contains (8 * line + k)) = [] := by
    rw [List.filter_eq_nil_iff]
    intro k hk
    simpa using hbad k (by simpa using hk)
  simp only [State.fill, State.lread, hnone, List.foldl_nil, hst]
  rfl

theorem Core.storesFor_eq_nil {c : Core} {line : Nat} (h : ∀ x ∈ c.tasks.toList, ∀ e ∈ x.stores, e.addr / 64 ≠ line) :
    c.storesFor line = [] := by
  have hnone : (c.tasks.toList.flatMap fun t => t.stores).filter (fun e => e.addr / 64 == line) = [] := by
    rw [List.filter_eq_nil_iff]
    intro e he
    obtain ⟨x, hx, hex⟩ := List.mem_flatMap.mp he
    simpa using h x hx e hex
  simp [Core.storesFor, hnone]

theorem State.lineOf_read {a n : Nat} (h : a % 64 + n ≤ 64) : (s.lineOf (a / 64)).read (a % 64) n = s.mem.mem.readLE a n := by
  have hlt := ofLE_lt (s.mem.mem.readBytes (64 * (a / 64)) 64)
  rw [Memory.length_readBytes, show (256 : Nat) = 2 ^ 8 from rfl, ← Nat.pow_mul, show 8 * 64 = 512 from rfl] at hlt
  rw [CacheLine.read, State.lineOf, BitVec.toNat_ofNat, Nat.mod_eq_of_lt hlt,
    ← Memory.readLE_eq, Memory.readLE_part _ h, show 64 * (a / 64) + a % 64 = a by omega]

/-- A load that misses a clean line reads local memory, and the line is present then (R47, R484). -/
theorem State.loadAccess_miss {a n : Nat} (ha : a < 0x200000) (hn : a % 64 + n ≤ 64) (hline : s.core.line a = none)
    (hst : s.core.storesFor (a / 64) = []) (hbad : ∀ i < 8, 8 * (a / 64) + i ∉ s.mem.bad) :
    s.loadAccess a n = (Code.ok, s.mem.mem.readLE a n,
      { (s.lread (64 * (a / 64)) 64).2.2 with core := (s.core.allocate (s.lineOf (a / 64))).touch (s.lineOf (a / 64)) }) := by
  have hfill := State.fill_clean hbad hst
  have hhit : ((s.fill (a / 64)).core.line a) = some (s.lineOf (a / 64)) := by
    rw [hfill]
    simp [Core.line, Core.allocate, State.lineOf]
  have hpoison : (s.lineOf (a / 64)).poison.getLsbD (a % 64 / 8) = false := by simp [State.lineOf]
  simp only [State.loadAccess, windowAt_local ha, hline, Option.isSome_none, Bool.false_eq_true, if_false, hhit, hpoison,
    State.lineOf_read hn]
  rw [hfill]

theorem Core.line_touch (c : Core) (l : CacheLine) {a : Nat} (hl : l.line = a / 64) (hb : l.bad = false) :
    ((c.touch l).line a).isSome = true := by
  simp [Core.line, Core.touch, hl, hb]

theorem exec_loadDataArrival (task : Fin 32) (s : State) : exec (.loadDataArrival task) s = execLoadDataArrival task s := rfl

/-- The data of a load that reads well takes its place among the task's results (R47). -/
theorem exec_loadDataArrival_ok {task : Fin 32} {l : LoadWait} {v : Nat} {m : State} (hrun : s.inRun = true)
    (hwait : (s.task task.val).memWait = .load l) (hahead : s.core.storeAhead l = false)
    (hload : s.loadAccess l.addr l.size = (Code.ok, v, m)) :
    exec (.loadDataArrival task) s = .next (m.onTask task.val fun k => k.arrived l v) := by
  simp [exec_loadDataArrival, execLoadDataArrival, hrun, hwait, hahead, hload]

/-- Settles O8: the line is filled from local memory and the load reads it there. -/
theorem loadArrivalReadsMemory : Obligations.LoadArrivalReadsMemory := by
  unfold Obligations.LoadArrivalReadsMemory
  intro s task k l hrun hk hwait hstate hcause hsize hmod ha hline hst hbad
  subst hk
  have hahead : s.core.storeAhead l = false := by simp [Core.storeAhead, isLoc, Config.localSize, ha]
  have hload := State.loadAccess_miss ha (aligned_in_line hsize hmod) hline (Core.storesFor_eq_nil hst) hbad
  have hexec := exec_loadDataArrival_ok hrun hwait hahead hload
  have htask : ∀ m : State, m.task task.val = s.task task.val →
      (m.onTask task.val fun k => k.arrived l (s.mem.mem.readLE l.addr l.size)).task task.val =
      { s.task task.val with
        results := (s.task task.val).results.take l.place ++
          ⟨l.due, .reg l.rd, loadValue l.size (s.mem.mem.readLE l.addr l.size) l.signed⟩ ::
            (s.task task.val).results.drop l.place
        memWait := .none, state := .ready } := fun m hm => by
    rw [State.task_onTask_same, hm, Task.arrived, Task.wake_of_waiting (by exact hstate) (by exact hcause) rfl]
    simp
  exact ⟨_, _, hexec, fun hs => by simp [loadValue, hs], fun hs => by simp [loadValue, hs], htask _ rfl,
    fun r hr => State.task_onTask_ne _ _ _ _ hr, Core.line_touch _ _ rfl rfl, rfl, rfl, rfl⟩

theorem exec_cacheDropComplete (task : Fin 32) (s : State) : exec (.cacheDropComplete task) s = execCacheDropComplete task s := rfl

theorem exec_cacheDropComplete_drop {task : Fin 32} {base len : Nat} {all : Bool} (hrun : s.inRun = true)
    (hwait : (s.task task.val).memWait = .drop base len all) :
    exec (.cacheDropComplete task) s = .next (({ s with core := s.core.dropLines base len all } : State).onTask task.val
      fun k => Task.wake { k with memWait := .none }) := by
  simp [exec_cacheDropComplete, execCacheDropComplete, hrun, hwait]

/-- The lines that a drop leaves are those that its range does not touch (R344). -/
theorem Core.mem_dropLines {c : Core} {base len : Nat} {all : Bool} {l : CacheLine} :
    l ∈ (c.dropLines base len all).cache ↔
      l ∈ c.cache ∧ all = false ∧ (base + len ≤ 64 * l.line ∨ 64 * l.line + 64 ≤ base) := by
  cases all
  · simp [Core.dropLines]
  · simp [Core.dropLines]

/-- Settles O10: the drop is `dropLines`. -/
theorem cacheDropCompletes : Obligations.CacheDropCompletes := by
  unfold Obligations.CacheDropCompletes
  intro s task base len all hrun hwait hstate hcause
  refine ⟨_, exec_cacheDropComplete_drop hrun hwait, ?_, fun l hl => Core.mem_dropLines.mp hl,
    fun l hl hall hout => Core.mem_dropLines.mpr ⟨hl, hall, hout⟩, fun r hr => State.task_onTask_ne _ _ _ _ hr, rfl, rfl⟩
  exact (State.task_onTask_same _ task _).trans (Task.wake_of_waiting (by exact hstate) (by exact hcause) rfl)

end

end Sys2Proof.Machine

namespace Sys2Proof.Machine

/-! What a task waits for (R53, R54, R61, R258). -/

section

variable {s : State}

theorem reached_iff (count mark : Word) : reached count mark = true ↔ 0 ≤ (count - mark).toInt := by
  rw [reached, BitVec.msb_eq_toInt]
  simp

/-- Ring `tag` has something to select (R258). -/
def State.Ready (s : State) (tag : Nat) : Prop :=
  ((s.ring tag).state = RingState.opened ∨ (s.ring tag).state = RingState.draining) ∧ (s.ring tag).rptr ≠ (s.ring tag).wptr

/-- What is unread or unreleased in ring `tag`. -/
def State.waitingIn (s : State) (tag : Nat) : Nat := ((s.ring tag).wptr + 2 ^ 32 - (s.ring tag).rptr) % 2 ^ 32

theorem State.ringReady_of_ready {tag : Nat} (h : s.Ready tag) : s.ringReady tag = some (s.waitingIn tag) := by
  obtain ⟨hst, hne⟩ := h
  simp [State.ringReady, State.waitingIn, hst, hne]

theorem State.ringReady_of_not_ready {tag : Nat} (h : ¬ s.Ready tag) : s.ringReady tag = none := by
  unfold State.Ready at h
  simp only [State.ringReady]
  rw [if_neg]
  simpa using h

/-- The first ready position of a list. -/
theorem State.firstReady_eq_some {tags : List Nat} {l : List Nat} {i n : Nat} (h : s.firstReady tags l = some (i, n)) :
    s.Ready (tags.getD i 0) ∧ n = s.waitingIn (tags.getD i 0) ∧
      ∃ a b, l = a ++ i :: b ∧ ∀ j ∈ a, ¬ s.Ready (tags.getD j 0) := by
  induction l with
  | nil => cases h
  | cons j l ih =>
    rw [State.firstReady] at h
    by_cases hj : s.Ready (tags.getD j 0)
    · rw [State.ringReady_of_ready hj] at h
      cases h
      exact ⟨hj, rfl, [], l, rfl, by simp⟩
    · rw [State.ringReady_of_not_ready hj] at h
      obtain ⟨hi, hn, a, b, rfl, ha⟩ := ih h
      exact ⟨hi, hn, j :: a, b, rfl, List.forall_mem_cons.mpr ⟨hj, ha⟩⟩

theorem State.firstReady_isSome {tags : List Nat} {l : List Nat} {i : Nat} (hi : i ∈ l) (h : s.Ready (tags.getD i 0)) :
    (s.firstReady tags l).isSome = true := by
  induction l with
  | nil => simp at hi
  | cons j l ih =>
    rw [State.firstReady]
    by_cases hj : s.Ready (tags.getD j 0)
    · rw [State.ringReady_of_ready hj]
      rfl
    · rw [State.ringReady_of_not_ready hj]
      exact ih ((List.mem_cons.mp hi).resolve_left fun he => hj (he ▸ h))

/-- Position `i` is the first of highest PRIO among the ready ones below `m` (R258). -/
def State.HighestBelow (s : State) (tags : List Nat) (m i : Nat) : Prop :=
  i < m ∧ s.Ready (tags.getD i 0) ∧ ∀ j, j < m → s.Ready (tags.getD j 0) →
    (s.ring (tags.getD j 0)).prio ≤ (s.ring (tags.getD i 0)).prio ∧
      (j < i → (s.ring (tags.getD j 0)).prio < (s.ring (tags.getD i 0)).prio)

/-- The best ready position below `m` so far: none is ready, or this one is the best. -/
def State.BestBelow (s : State) (tags : List Nat) (m : Nat) (best : Option (Nat × Nat)) : Prop :=
  match best with
  | none => ∀ j, j < m → ¬ s.Ready (tags.getD j 0)
  | some (i, n) => s.HighestBelow tags m i ∧ n = s.waitingIn (tags.getD i 0)

theorem State.highestReady_skip {tags : List Nat} {i : Nat} (h : ¬ s.Ready (tags.getD i 0)) (best : Option (Nat × Nat))
    (l : List Nat) : s.highestReady tags best (i :: l) = s.highestReady tags best l := by
  simp only [State.highestReady, State.ringReady_of_not_ready h]

theorem State.highestReady_first {tags : List Nat} {i : Nat} (h : s.Ready (tags.getD i 0)) (l : List Nat) :
    s.highestReady tags none (i :: l) = s.highestReady tags (some (i, s.waitingIn (tags.getD i 0))) l := by
  simp only [State.highestReady, State.ringReady_of_ready h]

theorem State.highestReady_next {tags : List Nat} {i : Nat} (h : s.Ready (tags.getD i 0)) (b : Nat × Nat) (l : List Nat) :
    s.highestReady tags (some b) (i :: l) =
      if (s.ring (tags.getD i 0)).prio > (s.ring (tags.getD b.1 0)).prio then
        s.highestReady tags (some (i, s.waitingIn (tags.getD i 0))) l
      else s.highestReady tags (some b) l := by
  simp only [State.highestReady, State.ringReady_of_ready h]

theorem State.highestReady_range {tags : List Nat} (n m : Nat) {best : Option (Nat × Nat)} (h : s.BestBelow tags m best) :
    s.BestBelow tags (m + n) (s.highestReady tags best (List.range' m n)) := by
  induction n generalizing m best with
  | zero => exact h
  | succ n ih =>
    rw [List.range'_succ, show m + (n + 1) = m + 1 + n by omega]
    by_cases hm : s.Ready (tags.getD m 0)
    · cases best with
      | none =>
        rw [State.highestReady_first hm]
        refine ih (m + 1) ⟨⟨by omega, hm, fun j hj hr => ?_⟩, rfl⟩
        obtain rfl : j = m := by
          by_contra hne
          exact h j (by omega) hr
        exact ⟨Nat.le_refl _, fun hlt => absurd hlt (Nat.lt_irrefl _)⟩
      | some p =>
        obtain ⟨i, k⟩ := p
        obtain ⟨⟨hi, hri, hbest⟩, hk⟩ := h
        rw [State.highestReady_next hm]
        dsimp only
        split
        · next hgt =>
          refine ih (m + 1) ⟨⟨by omega, hm, fun j hj hr => ?_⟩, rfl⟩
          rcases Nat.lt_succ_iff_lt_or_eq.mp hj with hj | rfl
          · have := (hbest j hj hr).1
            exact ⟨by omega, fun _ => by omega⟩
          · exact ⟨Nat.le_refl _, fun hlt => absurd hlt (Nat.lt_irrefl _)⟩
        · next hle =>
          refine ih (m + 1) ⟨⟨by omega, hri, fun j hj hr => ?_⟩, hk⟩
          rcases Nat.lt_succ_iff_lt_or_eq.mp hj with hj | rfl
          · exact hbest j hj hr
          · exact ⟨by omega, fun hlt => by omega⟩
    · rw [State.highestReady_skip hm]
      refine ih (m + 1) ?_
      cases best with
      | none =>
        intro j hj
        rcases Nat.lt_succ_iff_lt_or_eq.mp hj with hj | rfl
        · exact h j hj
        · exact hm
      | some p =>
        obtain ⟨i, k⟩ := p
        obtain ⟨⟨hi, hri, hbest⟩, hk⟩ := h
        refine ⟨⟨by omega, hri, fun j hj hr => ?_⟩, hk⟩
        rcases Nat.lt_succ_iff_lt_or_eq.mp hj with hj | rfl
        · exact hbest j hj hr
        · exact absurd hr hm

/-- The position after the last one, wrapping (R258). -/
def rselStart (tags : List Nat) (last : Nat) : Nat := if last + 1 < tags.length then last + 1 else 0

theorem rotated_mod {n k start : Nat} (hk : k < n) (hs : start < n) : ((start + k) % n + n - start) % n = k := by
  by_cases h : start + k < n
  · rw [Nat.mod_eq_of_lt h, show start + k + n - start = k + n by omega, Nat.add_mod_right, Nat.mod_eq_of_lt hk]
  · have hwrap : (start + k) % n = start + k - n := by
      rw [Nat.mod_eq_sub_mod (by omega), Nat.mod_eq_of_lt (by omega)]
    rw [hwrap, show start + k - n + n - start = k by omega, Nat.mod_eq_of_lt hk]

theorem mod_rotated {n j start : Nat} (hj : j < n) (hs : start < n) : (start + (j + n - start) % n) % n = j := by
  by_cases h : start ≤ j
  · rw [show j + n - start = j - start + n by omega, Nat.add_mod_right, Nat.mod_eq_of_lt (show j - start < n by omega),
      show start + (j - start) = j by omega, Nat.mod_eq_of_lt hj]
  · rw [Nat.mod_eq_of_lt (show j + n - start < n by omega), show start + (j + n - start) = j + n by omega, Nat.add_mod_right,
      Nat.mod_eq_of_lt hj]

/-- The first ready position of the rotated list is the one of lowest place. -/
theorem State.firstReady_rotated {tags : List Nat} {start i n : Nat} (hs : start < tags.length)
    (h : s.firstReady tags ((List.range tags.length).map fun k => (start + k) % tags.length) = some (i, n)) :
    i < tags.length ∧ s.Ready (tags.getD i 0) ∧ n = s.waitingIn (tags.getD i 0) ∧
      ∀ j, j < tags.length → s.Ready (tags.getD j 0) →
        (i + tags.length - start) % tags.length ≤ (j + tags.length - start) % tags.length := by
  obtain ⟨hready, hn, a, b, hsplit, ha⟩ := State.firstReady_eq_some h
  have hlen : a.length < tags.length := by
    have := congrArg List.length hsplit
    simp at this
    omega
  have hget : ∀ k, k < tags.length → (a ++ i :: b)[k]? = some ((start + k) % tags.length) := by
    intro k hk
    rw [← hsplit, List.getElem?_map, List.getElem?_range hk]
    rfl
  have hi : i = (start + a.length) % tags.length := by
    have := hget a.length hlen
    simpa using this
  refine ⟨hi ▸ Nat.mod_lt _ (by omega), hready, hn, fun j hj hr => ?_⟩
  rw [hi, rotated_mod hlen hs]
  by_contra hlt
  have hplace := hget ((j + tags.length - start) % tags.length) (Nat.mod_lt _ (by omega))
  rw [mod_rotated hj hs, List.getElem?_append_left (by omega)] at hplace
  exact ha j (List.mem_of_getElem? hplace) hr

theorem State.select_mode0 (tags : List Nat) (last : Nat) :
    s.select tags 0 last = s.highestReady tags none (List.range tags.length) := rfl

theorem State.select_mode1 (tags : List Nat) (last : Nat) :
    s.select tags 1 last =
      s.firstReady tags ((List.range tags.length).map fun k => (rselStart tags last + k) % tags.length) := rfl

theorem State.select_mode2 (tags : List Nat) {mode : Nat} (h : 2 ≤ mode) (last : Nat) :
    s.select tags mode last = s.firstReady tags [rselStart tags last] := by
  rw [State.select, if_neg (by omega), if_neg (by omega)]
  rfl

theorem rselStart_lt {tags : List Nat} (h : 0 < tags.length) (last : Nat) : rselStart tags last < tags.length := by
  unfold rselStart
  split <;> omega

/-- What `select` answers, RSEL selects (R258). -/
theorem State.select_selects {tags : List Nat} (htags : 0 < tags.length) {mode last i n : Nat}
    (h : s.select tags mode last = some (i, n)) : Selects s tags mode last i ∧ n = s.waitingIn (tags.getD i 0) := by
  obtain rfl | rfl | hmode : mode = 0 ∨ mode = 1 ∨ 2 ≤ mode := by omega
  · have hbest := s.highestReady_range (tags := tags) tags.length 0 (best := none) fun j hj => absurd hj (Nat.not_lt_zero j)
    rw [← List.range_eq_range', ← State.select_mode0 tags last, h, Nat.zero_add] at hbest
    obtain ⟨⟨hi, hr, hall⟩, hn⟩ := hbest
    exact ⟨⟨hi, hr, fun _ => hall, by simp, by simp⟩, hn⟩
  · rw [State.select_mode1] at h
    obtain ⟨hi, hr, hn, hplace⟩ := State.firstReady_rotated (rselStart_lt htags last) h
    exact ⟨⟨hi, hr, by simp, fun _ => hplace, by simp⟩, hn⟩
  · rw [State.select_mode2 tags hmode] at h
    obtain ⟨hr, hn, a, b, hsplit, -⟩ := State.firstReady_eq_some h
    have hi : i = rselStart tags last := by
      have hmem : i ∈ [rselStart tags last] := by rw [hsplit]; simp
      simpa using hmem
    exact ⟨⟨hi ▸ rselStart_lt htags last, hr, by omega, by omega, fun _ => hi⟩, hn⟩

/-- RSEL selects at most one position. -/
theorem Selects.unique {tags : List Nat} {mode last i j : Nat} (hi : Selects s tags mode last i) (hj : Selects s tags mode last j) :
    i = j := by
  obtain ⟨hil, hir, hi0, hi1, hi2⟩ := hi
  obtain ⟨hjl, hjr, hj0, hj1, hj2⟩ := hj
  obtain rfl | rfl | hmode : mode = 0 ∨ mode = 1 ∨ 2 ≤ mode := by omega
  · have h1 := hi0 rfl j hjl hjr
    have h2 := hj0 rfl i hil hir
    by_contra hne
    rcases Nat.lt_or_gt_of_ne hne with hlt | hlt
    · have := h2.2 hlt; omega
    · have := h1.2 hlt; omega
  · have hs : rselStart tags last < tags.length := rselStart_lt (by omega) last
    have hplace := Nat.le_antisymm (hi1 rfl j hjl hjr) (hj1 rfl i hil hir)
    rw [← mod_rotated hil hs, ← mod_rotated hjl hs]
    exact congrArg (fun p => (rselStart tags last + p) % tags.length) hplace
  · rw [hi2 hmode, hj2 hmode]

/-- An RSEL that may select does (R258). -/
theorem State.select_of_selects {tags : List Nat} {mode last i : Nat} (h : Selects s tags mode last i) :
    s.select tags mode last = some (i, s.waitingIn (tags.getD i 0)) := by
  have hlen : 0 < tags.length := by have := h.1; omega
  have hsome : (s.select tags mode last).isSome = true := by
    obtain ⟨hil, hir, -, -, hi2⟩ := h
    obtain rfl | rfl | hmode : mode = 0 ∨ mode = 1 ∨ 2 ≤ mode := by omega
    · have hbest := s.highestReady_range (tags := tags) tags.length 0 (best := none) fun j hj => absurd hj (Nat.not_lt_zero j)
      rw [← List.range_eq_range', ← State.select_mode0 tags last, Nat.zero_add] at hbest
      cases hsel : s.select tags 0 last with
      | some p => rfl
      | none =>
        rw [hsel] at hbest
        exact absurd hir (hbest i hil)
    · rw [State.select_mode1]
      refine State.firstReady_isSome (List.mem_map.mpr ⟨(i + tags.length - rselStart tags last) % tags.length, ?_, ?_⟩) hir
      · simpa using Nat.mod_lt _ hlen
      · exact mod_rotated hil (rselStart_lt hlen last)
    · rw [State.select_mode2 tags hmode]
      exact State.firstReady_isSome (List.mem_singleton.mpr (hi2 hmode)) hir
  obtain ⟨⟨j, n⟩, hj⟩ := Option.isSome_iff_exists.mp hsome
  obtain ⟨hjs, hn⟩ := State.select_selects hlen hj
  rw [hj, hn, hjs.unique h]

/-- What a task waits for holds as R53 and its like say. -/
theorem State.holds_iff {t : Nat} (hrsel : ∀ mode rd, (s.task t).cause ≠ .rsel [] mode rd) :
    s.holds t (s.task t).cause = true ↔ WaitOver s (s.task t) := by
  unfold WaitOver
  cases hc : (s.task t).cause with
  | queueDone q seq => exact reached_iff _ _
  | stream id n => exact reached_iff _ _
  | lehr target => exact decide_eq_true_iff
  | storeEmpty => exact List.isEmpty_iff
  | queueFree q n => exact decide_eq_true_iff.trans (by rw [Nat.add_comm]; rfl)
  | rsel tags mode rd =>
    refine Option.isSome_iff_exists.trans ?_
    constructor
    · rintro ⟨⟨i, n⟩, hsel⟩
      have hne : 0 < tags.length := List.length_pos_iff.mpr fun he => hrsel mode rd (he ▸ hc)
      exact ⟨i, (State.select_selects hne hsel).1⟩
    · rintro ⟨i, hi⟩
      exact ⟨_, State.select_of_selects hi⟩
  | storeFull => exact decide_eq_true_iff
  | queueStopped q =>
    exact (by rw [Bool.not_eq_true'] :
      (!(s.queue q).stopped) = true ↔ (s.queue q).stopped = false)
  | none => exact ⟨Bool.false_ne_true, False.elim⟩
  | load l => exact ⟨Bool.false_ne_true, False.elim⟩
  | drop base len all => exact ⟨Bool.false_ne_true, False.elim⟩
  | spawn u pc arg rd n => exact ⟨Bool.false_ne_true, False.elim⟩
  | spawned v rd n => exact ⟨Bool.false_ne_true, False.elim⟩

/-- A wait that is over holds, an RSEL of no ring or not. -/
theorem State.holds_of_waitOver {t : Nat} (h : WaitOver s (s.task t)) : s.holds t (s.task t).cause = true := by
  refine (State.holds_iff fun mode rd hc => ?_).mpr h
  simp only [WaitOver, hc] at h
  obtain ⟨i, hi⟩ := h
  exact absurd hi.1 (Nat.not_lt_zero i)

theorem exec_taskWake (task : Fin 32) (s : State) : exec (.taskWake task) s = execTaskWake task s := rfl

/-- A task that wakes is READY unless its memory operation holds it (R28). -/
theorem Task.wake_eq {k : Task} (hs : k.state = .waiting) (hc : k.cause = .none) :
    k.wake = { k with state := if k.memWait = .none then .ready else .waiting } := by
  by_cases hm : k.memWait = .none
  · rw [Task.wake_of_waiting hs hc hm, if_pos hm]
  · simp [Task.wake, hm, ← hs]

section

variable {task : Fin 32} (hrun : s.inRun = true) (hstate : (s.task task.val).state = .waiting)
include hrun hstate

theorem exec_taskWake_waits (h : s.holds task.val (s.task task.val).cause = false) : exec (.taskWake task) s = .next s := by
  simp [exec_taskWake, execTaskWake, hrun, hstate, h]

theorem exec_taskWake_plain (h : s.holds task.val (s.task task.val).cause = true)
    (hrsel : ∀ tags mode rd, (s.task task.val).cause ≠ .rsel tags mode rd) :
    exec (.taskWake task) s = .next (s.onTask task.val fun _ => Task.wake { s.task task.val with cause := .none }) := by
  rw [exec_taskWake]
  unfold execTaskWake
  simp only [hrun, hstate, h]
  split
  · next hc => simp at hc
  · rfl

theorem exec_taskWake_rsel {tags : List Nat} {mode i : Nat} {rd : BitVec 5} (hc : (s.task task.val).cause = .rsel tags mode rd)
    (hsel : Selects s tags mode (s.task task.val).rselPos i) :
    exec (.taskWake task) s = .next (s.onTask task.val fun _ => Task.wake
      { (s.task task.val).selected (s.task task.val).cycle tags mode rd (i, s.waitingIn (tags.getD i 0)) with cause := .none }) := by
  have hs := State.select_of_selects hsel
  have hholds : s.holds task.val (.rsel tags mode rd) = true := Option.isSome_iff_exists.mpr ⟨_, hs⟩
  simp [exec_taskWake, execTaskWake, hrun, hstate, hc, hholds, hs]

end

/-- Settles O11: a condition that holds wakes the task; an RSEL's selection is unique. -/
theorem taskWakes : Obligations.TaskWakes := by
  unfold Obligations.TaskWakes
  intro s task k hrun hk hstate
  subst hk
  refine ⟨fun hover => ?_, fun hnot hrsel => ?_⟩
  · by_cases hr : ∃ tags mode rd, (s.task task.val).cause = .rsel tags mode rd
    · obtain ⟨tags, mode, rd, hc⟩ := hr
      have hsel : ∃ i, Selects s tags mode (s.task task.val).rselPos i := by simpa only [WaitOver, hc] using hover
      obtain ⟨i, hi⟩ := hsel
      refine ⟨_, exec_taskWake_rsel hrun hstate hc hi, fun hne => absurd hc (hne tags mode rd), fun tags' mode' rd' j hc' hj => ?_,
        fun r hr => State.task_onTask_ne _ _ _ _ hr, rfl, rfl⟩
      obtain ⟨rfl, rfl, rfl⟩ : tags = tags' ∧ mode = mode' ∧ rd = rd' := by simpa [hc] using hc'
      obtain rfl := hi.unique hj
      rw [State.task_onTask_same, Task.wake_eq (by exact hstate) rfl]
      rfl
    · have hr' : ∀ tags mode rd, (s.task task.val).cause ≠ .rsel tags mode rd := fun tags mode rd hc => hr ⟨tags, mode, rd, hc⟩
      refine ⟨_, exec_taskWake_plain hrun hstate (State.holds_of_waitOver hover) hr', fun _ => ?_,
        fun tags mode rd i hc => absurd hc (hr' tags mode rd), fun r hr => State.task_onTask_ne _ _ _ _ hr, rfl, rfl⟩
      rw [State.task_onTask_same, Task.wake_eq (by exact hstate) rfl]
  · exact exec_taskWake_waits hrun hstate (by simpa using (State.holds_iff hrsel).not.mpr hnot)

end

end Sys2Proof.Machine

/-! Queues cleared and restarted (R66). -/

noncomputable section
namespace Sys2Proof.Machine

theorem mem_drop_takeWhile {α : Type} {p : α → Bool} {x : α} (hp : p x = false) :
    ∀ {l : List α}, x ∈ l → x ∈ l.drop (l.takeWhile p).length
  | a :: l, hx => by
    rw [List.takeWhile_cons]
    split
    next ha =>
      rcases List.mem_cons.mp hx with rfl | hl
      · rw [hp] at ha; cases ha
      · exact mem_drop_takeWhile hp hl
    next => exact hx

theorem takeWhile_map_done (l : List QueueCmd) :
    (l.map fun c => (c.seq, CmdProgress.done)).takeWhile (fun p => p.2 == .done) =
      l.map fun c => (c.seq, CmdProgress.done) :=
  List.takeWhile_eq_self_iff.mpr fun p hp => by
    obtain ⟨c, -, rfl⟩ := List.mem_map.mp hp
    rfl

/-- A cleared queue that had no command in execution counts every command it discards. -/
theorem EngineQueue.clear_completed {x : EngineQueue} (h : x.outstanding = []) :
    x.clear.completed = x.completed + BitVec.ofNat 32 x.entries.length := by
  show x.completed + BitVec.ofNat 32 (List.takeWhile _ (x.outstanding.map finishFaulted ++ _)).length = _
  rw [h, List.map_nil, List.nil_append, takeWhile_map_done, List.length_map]

/-- A command in execution stays in execution when its queue is cleared (R61). -/
theorem EngineQueue.run_mem_clear {x : EngineQueue} {seq : Word} (h : (seq, CmdProgress.run) ∈ x.outstanding) :
    (seq, CmdProgress.run) ∈ x.clear.outstanding :=
  mem_drop_takeWhile (p := fun (o : Word × CmdProgress) => o.2 == .done) rfl
    (List.mem_append_left _ (List.mem_map.mpr ⟨_, h, rfl⟩))

theorem EngineQueue.restart_stopped {x : EngineQueue} (h : x.stopped = true) :
    x.restart = EngineQueue.settle
      { x with stopped := false, fcode := 0#16, outstanding := x.outstanding.map finishFaulted } := if_pos h

theorem EngineQueue.restart_running {x : EngineQueue} (h : x.stopped = false) : x.restart = x :=
  if_neg (h ▸ Bool.false_ne_true)

/-- The queue that CC_QCTL leaves of queue `q`. -/
def controlled (v q : Nat) (x : EngineQueue) : EngineQueue :=
  if v.testBit (8 + q) then x.clear else if v.testBit q then x.restart else x

section
variable {s : State}

theorem State.clearQueue_core (q : Nat) : (s.clearQueue q).core = (s.onQueue q EngineQueue.clear).core := by
  unfold State.clearQueue; dsimp only; split <;> rfl

/-- What CC_QCTL does with one queue. -/
def State.controlQueue (v : Nat) (s : State) (q : Nat) : State :=
  if bit (8 + q) v then s.clearQueue q else if bit q v then s.restartQueue q else s

theorem State.controlQueue_tasks (v q : Nat) : (s.controlQueue v q).core.tasks = s.core.tasks := by
  unfold State.controlQueue
  split
  · rw [State.clearQueue_core]; rfl
  · split <;> rfl

theorem State.queue_controlQueue_same {v q : Nat} (hq : q < 8) :
    (s.controlQueue v q).queue q = controlled v q (s.queue q) := by
  unfold State.controlQueue controlled bit
  split
  · show Vec.at (s.clearQueue q).core.queues q = _
    rw [State.clearQueue_core]
    exact State.queue_onQueue_same hq _
  · split
    · exact State.queue_onQueue_same hq _
    · rfl

theorem State.queue_controlQueue_ne {v q r : Nat} (h : r ≠ q) : (s.controlQueue v q).queue r = s.queue r := by
  unfold State.controlQueue
  split
  · show Vec.at (s.clearQueue q).core.queues r = _
    rw [State.clearQueue_core]
    exact State.queue_onQueue_ne h _
  · split
    · exact State.queue_onQueue_ne h _
    · rfl

theorem State.queue_foldl_controlQueue (v : Nat) {r : Nat} (hr : r < 8) :
    ∀ n, ((List.range n).foldl (State.controlQueue v) s).queue r =
      if r < n then controlled v r (s.queue r) else s.queue r
  | 0 => rfl
  | n + 1 => by
    have ih := State.queue_foldl_controlQueue v hr n
    rw [List.range_succ, List.foldl_append, List.foldl_cons, List.foldl_nil]
    by_cases hn : r = n
    · subst hn
      rw [State.queue_controlQueue_same hr, ih, if_neg (Nat.lt_irrefl r), if_pos (Nat.lt_succ_self r)]
    · rw [State.queue_controlQueue_ne hn, ih]
      exact if_congr (by omega) rfl rfl

/-- CC_QCTL clears, restarts or leaves each queue by its two bits. -/
theorem State.queue_queueControl (v : Nat) {q : Nat} (hq : q < 8) :
    (s.queueControl v).queue q = controlled v q (s.queue q) :=
  (State.queue_foldl_controlQueue v hq 8).trans (if_pos hq)

theorem State.queueControl_tasks (v : Nat) : (s.queueControl v).core.tasks = s.core.tasks :=
  foldl_keeps (State.controlQueue v) (fun s => s.core.tasks) (fun _ q => State.controlQueue_tasks v q) _ s

theorem State.put_queueControl (m v : Nat) (h : s.inRun = true) : s.put m 1 0x040 v = s.queueControl v := by
  show s.putCore 0x040 (s.unraised 1 0x040 0 v) = _
  rw [State.unraised_zero]
  simp only [State.putCore, h, Bool.not_true, Bool.false_eq_true, if_false]

theorem regOpen_queueControl {m : Master} (hrun : s.inRun = true) (hmay : s.may m.toNat .reg true = true) :
    RegOpen s m 1 0x040 true := by
  have halive : s.pins.alive = true := (Bool.and_eq_true_iff.mp hrun).2
  exact ⟨halive, by decide, by decide, by decide, fun _ => rfl, .inl hmay⟩

/-- A write of CC_QCTL is answered and reaches the queues alone of what a core's program sees. -/
theorem State.masterWrite_queueControl {m : Master} (v : Nat) (hrun : s.inRun = true) (h : RegOpen s m 1 0x040 true) :
    ∃ u, s.masterWrite m.toNat 0x4001040 4 v = u ∧ Answered u m 0 ∧
      (∀ q, q < 8 → u.queue q = controlled v q (s.queue q)) ∧ u.core.tasks = s.core.tasks ∧ u.mem = s.mem := by
  rw [State.masterWrite_at (a := 0x4001040) rfl (by decide) h, State.put_queueControl _ _ hrun]
  refine ⟨_, rfl, rfl, fun q hq => State.queue_queueControl v hq, State.queueControl_tasks v, ?_⟩
  exact (s.queueControl_frame v).2.2.2.2.2.2.2.2.2.2.1

theorem exec_queueClear (m : Master) (mask : BitVec 8) :
    exec (.queueClear m mask) s = .next (s.masterWrite m.toNat 0x4001040 4 (256 * mask.toNat)) := rfl

theorem exec_queueRestart (m : Master) (mask : BitVec 8) :
    exec (.queueRestart m mask) s = .next (s.masterWrite m.toNat 0x4001040 4 mask.toNat) := rfl

theorem testBit_clearMask (mask : BitVec 8) (q : Nat) :
    (256 * mask.toNat).testBit (8 + q) = mask.getLsbD q := by
  rw [show 256 = 2 ^ 8 from rfl, Nat.testBit_two_pow_mul]; simp [BitVec.testBit_toNat]

theorem controlled_clearMask {mask : BitVec 8} {q : Nat} (hq : q < 8) (x : EngineQueue) :
    controlled (256 * mask.toNat) q x = if mask.getLsbD q then x.clear else x := by
  have hlow : (256 * mask.toNat).testBit q = false := by
    rw [show 256 = 2 ^ 8 from rfl, Nat.testBit_two_pow_mul]; simp; omega
  rw [controlled, testBit_clearMask, hlow, if_neg Bool.false_ne_true]

theorem controlled_restartMask {mask : BitVec 8} {q : Nat} (x : EngineQueue) :
    controlled mask.toNat q x = if mask.getLsbD q then x.restart else x := by
  have hhigh : mask.toNat.testBit (8 + q) = false := by rw [BitVec.testBit_toNat]; exact BitVec.getLsbD_of_ge _ _ (by omega)
  rw [controlled, hhigh, if_neg Bool.false_ne_true, BitVec.testBit_toNat]

end

/-- Settles O12: CC_QCTL acts on each queue by its own two bits. -/
theorem queuesClearAndRestart : Obligations.QueuesClearAndRestart := by
  intro s m mask hrun hmay
  have hopen := regOpen_queueControl hrun hmay
  refine ⟨?clear, ?restart, fun value _ => ?both⟩
  case clear =>
    obtain ⟨u, hu, ha, hqueue, htasks, hmem⟩ := State.masterWrite_queueControl (256 * mask.toNat) hrun hopen
    refine ⟨u, by rw [exec_queueClear, hu], ha, fun q hq hm => ?_, fun q hq hm => ?_, htasks, hmem⟩ <;>
      rw [hqueue q hq, controlled_clearMask hq, hm]
    · exact ⟨rfl, rfl, rfl, rfl, EngineQueue.clear_completed⟩
    · rfl
  case restart =>
    obtain ⟨u, hu, ha, hqueue, htasks, hmem⟩ := State.masterWrite_queueControl mask.toNat hrun hopen
    refine ⟨u, by rw [exec_queueRestart, hu], ha, fun q hq hm hs => ?_, fun q hq hm => ?_, htasks, hmem⟩ <;>
      rw [hqueue q hq, controlled_restartMask]
    · rw [if_pos hm, EngineQueue.restart_stopped hs]
      refine ⟨rfl, rfl, rfl, fun seq ho => ?_⟩
      rw [ho]
      exact ⟨rfl, rfl⟩
    · rcases hm with hm | hs
      · rw [hm]; rfl
      · rw [EngineQueue.restart_running hs, ite_self]
  case both =>
    obtain ⟨u, hu, ha, hqueue, -, -⟩ := State.masterWrite_queueControl value.toNat hrun hopen
    refine ⟨u, by rw [exec_registerWrite, ← hu]; rfl, ha, fun q hq hb => ?_⟩
    have hclear : u.queue q = (s.queue q).clear :=
      (hqueue q hq).trans (if_pos (by rw [BitVec.testBit_toNat]; exact hb))
    rw [hclear]
    exact ⟨rfl, rfl, fun seq => EngineQueue.run_mem_clear⟩

end Sys2Proof.Machine
end

/-! A matrix engine's command as it is taken and as it makes progress: what changes of its queue and of the engine. -/

noncomputable section
namespace Sys2Proof.Machine

section
variable {s u : State} {e : Fin 4} {c : QueueCmd}

theorem Fin.val_lt_queues (e : Fin 4) : e.val < 8 := by omega

theorem State.me_onMe_same (s : State) (e : Fin 4) (f : MatrixEngine → MatrixEngine) : (s.onMe e f).me e = f (s.me e) :=
  Vec.at_upd_same _ _ _ e.isLt

theorem State.me_onMe_ne (s : State) {e j : Nat} (h : j ≠ e) (f : MatrixEngine → MatrixEngine) : (s.onMe e f).me j = s.me j :=
  Vec.at_upd_ne _ _ _ _ h

theorem State.me_of_engines (h : u.engines = s.engines) (j : Nat) : u.me j = s.me j := by rw [State.me, State.me, h]

theorem State.queue_of_core (h : u.core = s.core) (q : Nat) : u.queue q = s.queue q := by rw [State.queue, State.queue, h]

/-! The head of a queue. -/

theorem State.head_some {q : Nat} (h : s.head q = some c) :
    s.inRun = true ∧ s.resting = false ∧ (s.queue q).stopped = false ∧ (s.queue q).entries.head? = some c := by
  unfold State.head at h
  split at h
  next hc =>
    rw [Bool.and_eq_true, Bool.and_eq_true, Bool.not_eq_true', Bool.not_eq_true'] at hc
    exact ⟨hc.1.1, hc.1.2, hc.2, h⟩
  next => cases h

/-- A ready command of the opcode looked for is taken by its own rule. -/
theorem meTake_ready {opc : Nat} (h : MeReady s e opc c) (f : QueueCmd → State) : meTake s e opc f = f c := by
  obtain ⟨hhead, hopc, hcfg⟩ := h
  have hany : ((s.me e.val).inflight.any fun x => x.op.isTcfg) = false := List.any_eq_false.mpr fun x hx => by
    rw [hcfg x hx]; exact Bool.false_ne_true
  simp only [meTake, hhead, hany, hopc, Bool.false_eq_true, if_false, if_true]

/-! Taking a command: its queue gives it up, and it is in flight. -/

theorem State.take_took {q : Nat} (hq : q < 8) (c : QueueCmd) (hu : u.core = (s.take q c).core) : QueueTook s u q c := by
  refine ⟨(State.queue_of_core hu q).trans (State.queue_onQueue_same hq _), fun r hr => ?_⟩
  exact (State.queue_of_core hu r).trans (State.queue_onQueue_ne hr _)

/-- What taking a command may change of an engine, beyond the list of commands in flight: the tags that later checks see and the
warning of R118. -/
def KeepsStores (g : MatrixEngine → MatrixEngine) : Prop :=
  ∀ m, (g m).inflight = m.inflight ∧ (g m).pool = m.pool ∧ (g m).desc = m.desc ∧ (g m).valid = m.valid ∧
    (g m).active = m.active ∧ (g m).shadow = m.shadow ∧ (g m).acc = m.acc

theorem keepsStores_id : KeepsStores id := fun _ => ⟨rfl, rfl, rfl, rfl, rfl, rfl, rfl⟩

theorem meStart_started {op : MeOp} {g : MatrixEngine → MatrixEngine} (hg : KeepsStores g)
    (hcore : u.core = (s.take e c).core) (hengines : u.engines = (s.onMe e fun m => (g m).start c op).engines)
    (hmem : u.mem.mem = s.mem.mem) : MeStarted s u e c op := by
  have hme : u.me e.val = (g (s.me e.val)).start c op :=
    (State.me_of_engines (s := s.onMe e fun m => (g m).start c op) hengines e.val).trans (s.me_onMe_same e _)
  obtain ⟨hinflight, hpool, hdesc, hvalid, hactive, hshadow, hacc⟩ := hg (s.me e.val)
  refine ⟨State.take_took (Fin.val_lt_queues e) c hcore, ?_, ?_, ?_, ?_, ?_, ?_, ?_, fun j hj => ?_, hmem,
    (congrArg Core.tasks hcore :)⟩
  · rw [hme, ← hinflight]; rfl
  · rw [hme, ← hpool]; rfl
  · rw [hme, ← hdesc]; rfl
  · rw [hme, ← hvalid]; rfl
  · rw [hme, ← hactive]; rfl
  · rw [hme, ← hshadow]; rfl
  · rw [hme, ← hacc]; rfl
  · exact (State.me_of_engines (s := s.onMe e fun m => (g m).start c op) hengines j).trans (s.me_onMe_ne hj _)

/-! A command that faults as it is taken (R61, R138). -/

theorem State.takeFault_queue {q : Nat} (hq : q < 8) (c : QueueCmd) (code : Half) (d : Option (List Nat))
    (hrun : (s.queue q).stopped = false) :
    ((s.takeFault q c code d).queue q).stopped = true ∧ ((s.takeFault q c code d).queue q).fcode = code ∧
      ((s.takeFault q c code d).queue q).entries = (s.queue q).entries.tail ∧
      ∀ r, r ≠ q → (s.takeFault q c code d).queue r = s.queue r := by
  have hcore : (s.takeFault q c code d).core = ((s.take q c).onQueue q fun x =>
      { x.mark c.seq .faulted with stopped := true, fcode := if x.stopped then x.fcode else code }).core :=
    (State.post_frame ..).2.2.2.2.2.2.1
  have htake : (s.take q c).queue q = _ := State.queue_onQueue_same hq _
  have hsame := (State.queue_of_core hcore q).trans (State.queue_onQueue_same hq _)
  rw [htake] at hsame
  refine ⟨congrArg EngineQueue.stopped hsame, (congrArg EngineQueue.fcode hsame).trans ?_,
    congrArg EngineQueue.entries hsame, fun r hr => ?_⟩
  · exact if_neg (hrun ▸ Bool.false_ne_true)
  · exact (State.queue_of_core hcore r).trans ((State.queue_onQueue_ne hr _).trans (State.queue_onQueue_ne hr _))

theorem State.takeFault_units (s : State) (q : Nat) (c : QueueCmd) (code : Half) (d : Option (List Nat)) :
    (s.takeFault q c code d).engines = s.engines ∧ (s.takeFault q c code d).ve = s.ve ∧
      (s.takeFault q c code d).mem = s.mem := by
  unfold State.takeFault; simp

theorem State.takeFault_gaffer (q : Nat) (c : QueueCmd) (code : Half) (d : Option (List Nat))
    (hroom : s.gaffer.eventCount < 64) :
    (s.takeFault q c code d).gaffer = { s.gaffer with outq := s.gaffer.outq ++
      [.event (s.eventOf code (Source.queue q) (d.getD [q, c.opc, c.seq.toNat]))] } :=
  congrArg State.gaffer (State.post_room (s := (s.take q c).onQueue q fun x =>
    { x.mark c.seq .faulted with stopped := true, fcode := if x.stopped then x.fcode else code }) code _ _ hroom)

/-! Progress of the oldest command in flight. -/

/-- A step of a kind that the oldest command is of acts on that command. -/
theorem meRun_head {x : InFlight} {rest : List InFlight} {k : MeOp → Bool} (hrun : s.inRun = true)
    (h : (s.me e.val).inflight = x :: rest) (hk : k x.op = true) (f : Nat → InFlight → State) : meRun s e k f = f 0 x := by
  have hcur : (s.me e.val).current k = some (0, x) := by
    simp [MatrixEngine.current, h, List.findIdx?_cons, hk]
  simp only [meRun, hrun, Bool.not_true, Bool.false_eq_true, if_false, hcur]

theorem MatrixEngine.setOp_head {m : MatrixEngine} {x : InFlight} {rest : List InFlight} (h : m.inflight = x :: rest)
    (op : MeOp) : m.setOp 0 op = { m with inflight := { x with op := op } :: rest } := by
  have hrest : rest.mapIdx (fun _ y => y) = rest := List.ext_getElem (by simp) (by simp)
  simp [MatrixEngine.setOp, h, List.mapIdx_cons, hrest]

theorem MatrixEngine.dropOp_head {m : MatrixEngine} {x : InFlight} {rest : List InFlight} (h : m.inflight = x :: rest) :
    m.dropOp 0 = { m with inflight := rest } := by
  simp [MatrixEngine.dropOp, h]

/-- A completed command leaves its engine's list and counts in its queue (R59). -/
theorem meComplete_new {i : Nat} {x : InFlight} (h : x.old = false) :
    meComplete s e i x = (s.onMe e fun m => m.dropOp i).complete e x.seq := by
  rw [meComplete, h]; rfl

theorem State.complete_completed {q : Nat} (hq : q < 8) (seq : Word) (hcore : u.core = (s.complete q seq).core) :
    QueueCompleted s u q seq :=
  ⟨(State.queue_of_core hcore q).trans (State.queue_onQueue_same hq _),
    fun r hr => (State.queue_of_core hcore r).trans (State.queue_onQueue_ne hr _)⟩

theorem meComplete_queue {i : Nat} {x : InFlight} (h : x.old = false) : QueueCompleted s (meComplete s e i x) e.val x.seq := by
  rw [meComplete_new h]
  exact State.complete_completed (Fin.val_lt_queues e) x.seq rfl

theorem meComplete_me {i : Nat} {x : InFlight} (h : x.old = false) :
    (meComplete s e i x).me e.val = (s.me e.val).dropOp i ∧ (∀ j, j ≠ e.val → (meComplete s e i x).me j = s.me j) := by
  rw [meComplete_new h]
  exact ⟨s.me_onMe_same e _, fun j hj => s.me_onMe_ne hj _⟩

theorem meComplete_units (s : State) (e : Fin 4) (i : Nat) (x : InFlight) :
    (meComplete s e i x).mem = s.mem ∧ (meComplete s e i x).stats = s.stats ∧ (meComplete s e i x).digests = s.digests := by
  simp [meComplete]

/-- Completion between states with the queues of `s` and of `u`. -/
theorem QueueCompleted.of_queues {v w : State} {q : Nat} {seq : Word} (h : QueueCompleted v w q seq)
    (hv : ∀ r, v.queue r = s.queue r) (hw : ∀ r, u.queue r = w.queue r) : QueueCompleted s u q seq := by
  obtain ⟨hq, hr⟩ := h
  exact ⟨by rw [hw, hq, hv], fun r hne => by rw [hw, hr r hne, hv]⟩

theorem QueueCompleted.of_core {v : State} {q : Nat} {seq : Word} (h : QueueCompleted v u q seq) (hcore : v.core = s.core) :
    QueueCompleted s u q seq :=
  h.of_queues (State.queue_of_core hcore) fun _ => rfl

/-! A stop of the oldest command (R61). -/

theorem State.stopQueue_queue {q : Nat} (hq : q < 8) (s : State) (code : Half) (opc : Nat) (seq : Word)
    (d : Option (List Nat)) : ((s.stopQueue q code opc seq d).queue q).stopped = true ∧
      ((s.queue q).stopped = false → ((s.stopQueue q code opc seq d).queue q).fcode = code) := by
  have hcore : (s.stopQueue q code opc seq d).core = (s.onQueue q fun x =>
      { x.mark seq .faulted with stopped := true, fcode := if x.stopped then x.fcode else code }).core :=
    (State.post_frame ..).2.2.2.2.2.2.1
  have hsame := (State.queue_of_core hcore q).trans (State.queue_onQueue_same hq _)
  exact ⟨congrArg EngineQueue.stopped hsame, fun hrun =>
    (congrArg EngineQueue.fcode hsame).trans (if_neg (hrun ▸ Bool.false_ne_true))⟩

/-! Reads of local memory. -/

/-- A read of words that can be corrected: single-bit errors are counted (R204). -/
def State.counted (s : State) (a n : Nat) : State :=
  { s with mem := { s.mem with eccCount := satAdd s.mem.eccCount (s.mem.singlesIn a n) } }

theorem State.lread_good {a n : Nat} (h : s.mem.badIn a n = none) :
    s.lread a n = (s.mem.mem.readBytes a n, none, s.counted a n) := by
  rw [State.lread, h]; rfl

theorem takeRead_good {a n : Nat} (unit : Byte) (hmay : s.may 0x51 .loc false = true) (h : s.mem.badIn a n = none) :
    takeRead s unit a n = (none, s.mem.mem.readBytes a n, s.counted a n) := by
  simp only [takeRead, hmay, Bool.not_true, Bool.false_eq_true, if_false, State.lread_good h]

end

end Sys2Proof.Machine
end

/-! TLD and TST (R84, R85). -/

noncomputable section
namespace Sys2Proof.Machine

section
variable {s : State} {e : Fin 4} {c : QueueCmd}

/-- The code of checks none of whose groups holds a failed one. -/
theorem Checks.verdict_none {a b c d : Bool} (h1 : a = false) (h2 : b = false) (h3 : c = false) (h4 : d = false) :
    Checks.verdict [(1, a), (2, b), (3, c), (4, d)] = none := by
  subst h1 h2 h3 h4; rfl

/-- A tile that misfits is found before the checks of groups 3 and 4 (R138). -/
theorem Checks.verdict_shape {a b c d : Bool} (h1 : a = false) (h2 : b = true) :
    Checks.verdict [(1, a), (2, b), (3, c), (4, d)] = some Code.tileShape := by
  subst h1 h2; rfl

theorem exec_tileMove (store : Bool) (e : Fin 4) (s : State) : exec (if store then .tst e else .tld e) s =
    .next (meTake s e (if store then 0x23 else 0x22) fun c => takeTileMove s e c store) := by
  cases store <;> rfl

theorem exec_tileMove_ready {store : Bool} (h : MeReady s e (if store then 0x23 else 0x22) c) :
    exec (if store then .tst e else .tld e) s = .next (takeTileMove s e c store) := by
  rw [exec_tileMove, meTake_ready h]

theorem takeTileMove_good {store : Bool} {t : TileShape} (hres : tileMoveReserved c = false)
    (hshape : (s.me e.val).shape (tileMoveOf c).tile = some t) (hrows : (tileMoveOf c).row + (tileMoveOf c).count < t.rows)
    (haddr : (tileMoveOf c).addr % 16 = 0) (hstride : (tileMoveOf c).stride % 16 = 0)
    (hin : ∀ i ≤ (tileMoveOf c).count, inLocal ((tileMoveOf c).addr + i * (tileMoveOf c).stride) t.stride = true)
    (hmay : s.may 0x51 .loc store = true) :
    takeTileMove s e c store = meStart s e c (if store then .tst (tileMoveOf c) else .tld (tileMoveOf c) 0) := by
  have hverdict : (tileMoveChecks s e c store).verdict = none := by
    unfold tileMoveChecks
    refine Checks.verdict_none hres ?_ ?_ (by rw [hmay]; rfl) <;> rw [hshape]
    · exact decide_eq_false (by omega)
    · rw [haddr, hstride]
      refine List.any_eq_false.mpr fun i hi => ?_
      have hle : i ≤ (tileMoveOf c).count := by rw [List.mem_range] at hi; omega
      rw [Option.map_some, Option.getD_some, hin i hle]
      exact Bool.false_ne_true
  rw [takeTileMove, hverdict]

theorem takeTileMove_misfit {store : Bool} (hres : tileMoveReserved c = false)
    (hrows : ∀ t, (s.me e.val).shape (tileMoveOf c).tile = some t → t.rows ≤ (tileMoveOf c).row + (tileMoveOf c).count) :
    takeTileMove s e c store = meTileFault s e c Code.tileShape (tileMoveOf c).tile := by
  have hverdict : (tileMoveChecks s e c store).verdict = some Code.tileShape := by
    unfold tileMoveChecks
    refine Checks.verdict_shape hres ?_
    cases hshape : (s.me e.val).shape (tileMoveOf c).tile with
    | none => rfl
    | some t => exact decide_eq_true (hrows t hshape)
  rw [takeTileMove, hverdict]

/-! The record of a tile's fault (R87, R94). -/

theorem MatrixEngine.tileFault_valid (m : MatrixEngine) (code : Half) (tile opc : Nat) (seq : Word) :
    (m.tileFault code tile opc seq).tfValid = true := by
  unfold MatrixEngine.tileFault
  split
  next h => exact h
  next => rfl

/-- A tile fault changes the record of it alone. -/
theorem MatrixEngine.tileFault_keeps (m : MatrixEngine) (code : Half) (tile opc : Nat) (seq : Word) :
    (m.tileFault code tile opc seq).inflight = m.inflight ∧ (m.tileFault code tile opc seq).pool = m.pool ∧
      (m.tileFault code tile opc seq).valid = m.valid ∧ (m.tileFault code tile opc seq).desc = m.desc := by
  unfold MatrixEngine.tileFault
  split <;> exact ⟨rfl, rfl, rfl, rfl⟩

theorem MatrixEngine.tileFault_first {m : MatrixEngine} (h : m.tfValid = false) (code : Half) (tile opc : Nat) (seq : Word) :
    m.tileFault code tile opc seq = { m with
      tfValid := true, tfCode := code, tfTile := BitVec.ofNat 5 tile, tfOpc := BitVec.ofNat 8 opc, tfSeq := seq } :=
  if_neg (h ▸ Bool.false_ne_true)

/-- A tile fault stops the queue, is recorded and is reported with its tile; it changes nothing else (R61, R87, R94). -/
theorem meTileFault_faulted (code : Half) (tile : Nat) (hrun : (s.queue e.val).stopped = false)
    (hroom : s.gaffer.eventCount < 64) : let u := meTileFault s e c code tile
    (u.queue e.val).stopped = true ∧ (u.queue e.val).fcode = code ∧
      (u.queue e.val).entries = (s.queue e.val).entries.tail ∧ (∀ q, q ≠ e.val → u.queue q = s.queue q) ∧
      u.me e.val = (s.me e.val).tileFault code tile c.opc c.seq ∧ (∀ j, j ≠ e.val → u.me j = s.me j) ∧
      u.gaffer = { s.gaffer with outq := s.gaffer.outq ++
        [.event (s.eventOf code (Source.queue e.val) (tileDetail e c.opc c.seq tile))] } ∧ u.mem = s.mem := by
  obtain ⟨hstopped, hfcode, hentries, hqueues⟩ := State.takeFault_queue
    (s := (s.onMe e fun m => m.tileFault code tile c.opc c.seq).raise (2 + e) 0x214 15) (Fin.val_lt_queues e) c code
    (some (tileDetail e c.opc c.seq tile)) hrun
  obtain ⟨hengines, -, hmem⟩ := State.takeFault_units
    ((s.onMe e fun m => m.tileFault code tile c.opc c.seq).raise (2 + e) 0x214 15) e c code
    (some (tileDetail e c.opc c.seq tile))
  exact ⟨hstopped, hfcode, hentries, hqueues, (State.me_of_engines hengines _).trans (s.me_onMe_same e _),
    fun j hj => (State.me_of_engines hengines j).trans (s.me_onMe_ne hj _), State.takeFault_gaffer _ _ _ _ hroom, hmem⟩

end

/-- Settles O13: a move that passes R85 is put in flight; one that its tile does not fit faults as it is taken. -/
theorem tileMovesTakenOrFault : Obligations.TileMovesTakenOrFault := by
  intro s e c store hready
  rw [exec_tileMove_ready hready]
  constructor
  · intro t _ hres hshape hrows haddr hstride hin hmay
    rw [takeTileMove_good hres hshape hrows haddr hstride hin hmay]
    exact ⟨_, rfl, meStart_started (g := id) keepsStores_id rfl rfl rfl⟩
  · intro hres hrows hroom
    have hrun := (State.head_some hready.1).2.2.1
    obtain ⟨hstopped, hfcode, hentries, hqueues, hme, hothers, hgaffer, hmem⟩ :=
      meTileFault_faulted (c := c) Code.tileShape (tileMoveOf c).tile hrun hroom
    obtain ⟨hinflight, hpool, hvalid, -⟩ :=
      (s.me e.val).tileFault_keeps Code.tileShape (tileMoveOf c).tile c.opc c.seq
    rw [takeTileMove_misfit hres hrows]
    refine ⟨_, _, rfl, hstopped, hfcode, hentries, hqueues, ?_, fun hfirst => ?_, hgaffer, rfl, ?_, ?_, ?_, ?_, hothers, hmem⟩
    · rw [hme]; exact MatrixEngine.tileFault_valid ..
    · rw [hme, MatrixEngine.tileFault_first hfirst]; exact ⟨rfl, rfl, rfl, rfl⟩
    · exact congrArg (fun w => [BitVec.ofNat 32 e.val, BitVec.ofNat 32 c.opc, w, BitVec.ofNat 32 (tileMoveOf c).tile])
        ((BitVec.ofNat_toNat 32 c.seq).trans (BitVec.setWidth_eq c.seq))
    · rw [hme, hinflight]
    · rw [hme, hpool]
    · rw [hme, hvalid]

end Sys2Proof.Machine
end

/-! Tile rows (R80, R84). -/

noncomputable section
namespace Sys2Proof.Machine

theorem padTo_of_length {n : Nat} {bs : List Byte} (h : bs.length = n) : padTo n bs = bs := by
  simp [padTo, h, List.take_of_length_le]

theorem getLsbD_ofNat_two_pow (w n k : Nat) :
    (BitVec.ofNat w (2 ^ n)).getLsbD k = (decide (k < w) && decide (n = k)) := by
  rw [BitVec.getLsbD_ofNat, Nat.testBit_two_pow]

/-- A row written whole is in the pool at its place, and valid; every other byte and valid bit stays (R80). -/
theorem MatrixEngine.writeRow_written {m : MatrixEngine} {t : TileShape} {tile row : Nat} {bs : List Byte}
    (hlen : bs.length = t.stride) (htile : tile < 32) (hrow : row < 32) (hwf : Memory.wf m.pool = true) :
    (∀ j < t.stride, (m.writeRow t tile row bs).pool.read (t.base + row * t.stride + j) = bs.getD j 0#8) ∧
      (∀ a, a < t.base + row * t.stride ∨ t.base + row * t.stride + t.stride ≤ a →
        (m.writeRow t tile row bs).pool.read a = m.pool.read a) ∧
      (m.writeRow t tile row bs).rowValid tile row = true ∧
      ∀ j r, (j ≠ tile ∨ r ≠ row) → (m.writeRow t tile row bs).rowValid j r = m.rowValid j r := by
  have hpool : (m.writeRow t tile row bs).pool = m.pool.writeBytes (t.base + row * t.stride) bs :=
    congrArg (m.pool.writeBytes _) (padTo_of_length hlen)
  have hvalid : Vec.at (m.writeRow t tile row bs).valid tile = Vec.at m.valid tile ||| BitVec.ofNat 32 (2 ^ row) :=
    Vec.at_upd_same _ _ _ htile
  refine ⟨fun j hj => ?_, fun a ha => ?_, ?_, fun j r hjr => ?_⟩
  · rw [hpool, Memory.read_writeBytes_inside _ _ _ _ hwf (by omega), List.getD_eq_getElem]
  · rw [hpool]
    exact Memory.read_writeBytes_outside _ _ _ _ hwf (by omega)
  · rw [MatrixEngine.rowValid, hvalid]
    rw [BitVec.getLsbD_or, getLsbD_ofNat_two_pow]
    simp [hrow]
  · rcases eq_or_ne j tile with rfl | hj
    · have hr : r ≠ row := hjr.resolve_left fun h => h rfl
      rw [MatrixEngine.rowValid, hvalid, BitVec.getLsbD_or, getLsbD_ofNat_two_pow]
      simp [MatrixEngine.rowValid, hr.symm]
    · exact congrArg (fun w : Word => w.getLsbD r) (Vec.at_upd_ne _ _ _ _ hj)

/-- Writing a row of a tile leaves the rest of the engine. -/
theorem MatrixEngine.writeRow_keeps (m : MatrixEngine) (t : TileShape) (tile row : Nat) (bs : List Byte) :
    (m.writeRow t tile row bs).inflight = m.inflight ∧ (m.writeRow t tile row bs).acc = m.acc := ⟨rfl, rfl⟩

section
variable {s : State} {e : Fin 4}

theorem exec_tileRowWriteComplete_tld {seq : Word} {opc : Byte} {c : TileMove} {done : Nat} {rest : List InFlight}
    (hrun : s.inRun = true) (h : (s.me e.val).inflight = ⟨seq, opc, .tld c done, false⟩ :: rest) :
    exec (.tileRowWriteComplete e) s = .next (tldRow s e 0 ⟨seq, opc, .tld c done, false⟩ c done) :=
  congrArg Host.Outcome.next (meRun_head hrun h rfl _)

/-- A row of a TLD that can be read: its bytes enter the tile, and the last one completes the command (R84). -/
theorem tldRow_good {i : Nat} {x : InFlight} {c : TileMove} {done : Nat} {t : TileShape}
    (hshape : (s.me e.val).shape c.tile = some t) (hgood : s.mem.badIn (c.addr + done * c.stride) t.stride = none) :
    tldRow s e i x c done =
      let v := (s.counted (c.addr + done * c.stride) t.stride).onMe e fun m =>
        (m.writeRow t c.tile (c.row + done) (s.mem.mem.readBytes (c.addr + done * c.stride) t.stride)).setOp i
          (.tld c (done + 1))
      if done ≥ c.count then meComplete v e i x else v := by
  simp only [tldRow, hshape, State.lread_good hgood]

end

/-- Settles O14: the row's bytes are read and written whole; the last row completes the command. -/
theorem tileLoadWritesRow : Obligations.TileLoadWritesRow := by
  intro s e seq opc c done rest t hrun hhead hshape htile hrow hdone hgood hwf
  rw [exec_tileRowWriteComplete_tld hrun hhead, tldRow_good hshape hgood]
  set a := c.addr + done * c.stride
  set x : InFlight := ⟨seq, opc, .tld c done, false⟩
  set bs := s.mem.mem.readBytes a t.stride with hbs
  set w := (s.me e.val).writeRow t c.tile (c.row + done) bs
  set v := (s.counted a t.stride).onMe e fun m =>
    (m.writeRow t c.tile (c.row + done) bs).setOp 0 (.tld c (done + 1))
  have hv : v.me e.val = { w with inflight := { x with op := .tld c (done + 1) } :: rest } :=
    (State.me_onMe_same _ e _).trans (MatrixEngine.setOp_head (m := w) hhead _)
  have hv' (j : Nat) (hj : j ≠ e.val) : v.me j = s.me j := State.me_onMe_ne _ hj _
  obtain ⟨hin, hout, hvalid, hinvalid⟩ := MatrixEngine.writeRow_written (m := s.me e.val) (t := t) (tile := c.tile)
    (row := c.row + done) (bs := bs) (Memory.length_readBytes _ _ _) htile hrow hwf
  have hread (j : Nat) (hj : j < t.stride) : bs.getD j 0#8 = s.mem.mem.read (a + j) := by
    rw [List.getD_eq_getElem _ _ (by rwa [Memory.length_readBytes]), Memory.getElem_readBytes]
  by_cases hlast : done ≥ c.count
  · obtain ⟨hme, hothers⟩ := meComplete_me (s := v) (e := e) (i := 0) (x := x) rfl
    rw [hv, MatrixEngine.dropOp_head (m := { w with inflight := _ :: rest }) rfl] at hme
    refine ⟨_, rfl, ?_⟩
    rw [if_pos hlast, hme]
    exact ⟨fun j hj => (hin j hj).trans (hread j hj), hout, hvalid, hinvalid, fun h => absurd h (Nat.not_lt.mpr hlast),
      fun _ => ⟨rfl, meComplete_queue rfl⟩, fun j hj => (hothers j hj).trans (hv' j hj), rfl, rfl⟩
  · refine ⟨_, rfl, ?_⟩
    rw [if_neg hlast, hv]
    exact ⟨fun j hj => (hin j hj).trans (hread j hj), hout, hvalid, hinvalid, fun _ => ⟨rfl, rfl⟩,
      fun h => absurd h.ge hlast, hv', rfl, rfl⟩

end Sys2Proof.Machine
end

/-! Consistent tile configurations, and TCFG (R71-R78). -/

noncomputable section
namespace Sys2Proof.Machine

/-! The tables and descriptors that engines read from local memory. -/

theorem Memory.leAt_readBytes (m : Memory) {a o n k : Nat} (h : o + n ≤ k) : leAt (m.readBytes a k) o n = m.readLE (a + o) n := by
  obtain ⟨r, rfl⟩ := Nat.exists_eq_add_of_le h
  rw [leAt, Nat.add_assoc, Memory.readBytes_add, List.drop_left' (Memory.length_readBytes _ _ _), Memory.readBytes_add,
    List.take_left' (Memory.length_readBytes _ _ _), Memory.readLE_eq]

/-- The table of a TCFG, as memory holds it (R74). -/
theorem tableWords_readBytes (m : Memory) (a : Nat) :
    tableWords (m.readBytes a 128) = (List.range 32).map fun i => BitVec.ofNat 32 (m.readLE (a + 4 * i) 4) := by
  refine List.map_congr_left fun i hi => ?_
  rw [List.mem_range] at hi
  exact congrArg (BitVec.ofNat 32) (Memory.leAt_readBytes m (o := 4 * i) (n := 4) (by omega))

/-! R75: the cases of an inconsistent configuration. -/

section
variable {mask : Word} {new : List Nat} {d : Nat → Nat}

theorem descReserved_iff {x : Nat} : descReserved x = false ↔ (x.testBit 31 = false → x = 0) ∧
    (x.testBit 31 = true → fld 30 28 x = 0 ∧ fld 19 18 x = 0 ∧ fld 12 8 x = 0 ∧ fld 27 24 x < 12) := by
  unfold descReserved
  cases x.testBit 31 <;> simp
  omega

theorem descPartial_iff {x : Nat} : descPartial x = false ↔
    (x.testBit 31 = true → 8 * (16 * (fld 23 20 x + 1)) % typeBits (fld 27 24 x) = 0) := by
  unfold descPartial TileShape.of
  rw [Nat.mul_comm _ 8]
  cases x.testBit 31 <;> simp

theorem descMx_iff {x : Nat} : descMx x = false ↔
    (x.testBit 31 = true → 6 ≤ fld 27 24 x → fld 27 24 x ≤ 8 → 16 * (fld 23 20 x + 1) % 32 = 0) := by
  unfold descMx isMx TileShape.of
  cases x.testBit 31 <;> simp

/-- One past the last pool byte of a descriptor's tile (R73). -/
theorem TileShape.of_stop (x : Nat) : (TileShape.of x).stop =
    512 * fld 7 0 x + (fld 17 13 x + 1) * (16 * (fld 23 20 x + 1) + typeTrailer (fld 27 24 x)) := by
  simp only [TileShape.stop, TileShape.stride, TileShape.of, Nat.mul_comm _ 512]

theorem TileShape.of_base (x : Nat) : (TileShape.of x).base = 512 * fld 7 0 x := Nat.mul_comm _ _

theorem descPast_iff {x : Nat} : descPast x = false ↔ (x.testBit 31 = true → (TileShape.of x).stop ≤ 0x20000) := by
  unfold descPast
  cases x.testBit 31 <;> simp [Config.poolSize]

theorem descShare_iff {x y : Nat} : descShare x y = false ↔ (x.testBit 31 = true → y.testBit 31 = true →
    (TileShape.of x).stop ≤ (TileShape.of y).base ∨ (TileShape.of y).stop ≤ (TileShape.of x).base) := by
  unfold descShare
  cases x.testBit 31 <;> cases y.testBit 31 <;> simp
  omega

theorem configError_none : configError mask.toNat new = none ↔
    (∀ t, t < 32 → mask.getLsbD t = true → descReserved (new.getD t 0) = false) ∧
    (∀ t, t < 32 → mask.getLsbD t = true → descPartial (new.getD t 0) = false) ∧
    (∀ t, t < 32 → mask.getLsbD t = true → descMx (new.getD t 0) = false) ∧
    (∀ t, t < 32 → descPast (new.getD t 0) = false) ∧
    ∀ t u, t < 32 → u < 32 → t ≠ u → descShare (new.getD t 0) (new.getD u 0) = false := by
  have hused (p : Nat → Bool) : (((List.range 32).filter fun t => mask.toNat.testBit t).find? fun t => p (new.getD t 0)) = none ↔
      ∀ t, t < 32 → mask.getLsbD t = true → p (new.getD t 0) = false := by
    simp [List.find?_eq_none, BitVec.testBit_toNat]
  have htiles (p : Nat → Bool) : ((List.range 32).find? p) = none ↔ ∀ t, t < 32 → p t = false := by
    simp [List.find?_eq_none]
  rw [← hused descReserved, ← hused descPartial, ← hused descMx, ← htiles fun t => descPast (new.getD t 0)]
  have hshare : ((List.range 32).find? fun t => (List.range 32).any fun u => u != t && descShare (new.getD t 0) (new.getD u 0)) = none ↔
      ∀ t u, t < 32 → u < 32 → t ≠ u → descShare (new.getD t 0) (new.getD u 0) = false := by
    rw [htiles]
    simp only [List.any_eq_false, List.mem_range, Bool.and_eq_true, bne_iff_ne, not_and, Bool.not_eq_true]
    exact ⟨fun h t u ht hu hne => h t ht u hu hne.symm, fun h t ht u hu hne => h t u ht hu hne.symm⟩
  rw [← hshare]
  unfold configError
  dsimp only
  split
  next h => simp only [h, reduceCtorEq, false_and]
  next h1 =>
    split
    next h => simp only [h, reduceCtorEq, false_and, and_false]
    next h2 =>
      split
      next h => simp only [h, reduceCtorEq, false_and, and_false]
      next h3 =>
        split
        next h => simp only [h, reduceCtorEq, false_and, and_false]
        next h4 => simp only [h1, h2, h3, h4, true_and]

/-- TCFG's check accepts exactly the consistent configurations (R75). -/
theorem configConsistent_iff (hd : ∀ t, t < 32 → new.getD t 0 = d t) :
    ConfigConsistent mask d ↔ configError mask.toNat new = none := by
  rw [configError_none]
  constructor
  · intro ⟨hfree, hused, hstop, hapart⟩
    refine ⟨fun t ht hm => ?_, fun t ht hm => ?_, fun t ht hm => ?_, fun t ht => ?_, fun t u ht hu hne => ?_⟩
    · rw [hd t ht, descReserved_iff]
      refine ⟨hfree t ht hm, fun hb => ?_⟩
      obtain ⟨h30, h19, h12, hty, -, -⟩ := hused t ht hm hb
      exact ⟨h30, h19, h12, hty⟩
    · rw [hd t ht, descPartial_iff]
      exact fun hb => (hused t ht hm hb).2.2.2.2.1
    · rw [hd t ht, descMx_iff]
      exact fun hb => (hused t ht hm hb).2.2.2.2.2
    · rw [hd t ht, descPast_iff, TileShape.of_stop]
      exact hstop t ht
    · rw [hd t ht, hd u hu, descShare_iff]
      simp only [TileShape.of_stop, TileShape.of_base]
      exact hapart t u ht hu hne
  · intro ⟨hreserved, hpartial, hmx, hpast, hshare⟩
    have hdesc (t : Nat) (ht : t < 32) (hm : mask.getLsbD t = true) := descReserved_iff.mp (hd t ht ▸ hreserved t ht hm)
    refine ⟨fun t ht hm => (hdesc t ht hm).1, fun t ht hm hb => ?_, fun t ht => ?_, fun t u ht hu hne => ?_⟩
    · obtain ⟨h30, h19, h12, hty⟩ := (hdesc t ht hm).2 hb
      exact ⟨h30, h19, h12, hty, descPartial_iff.mp (hd t ht ▸ hpartial t ht hm) hb,
        descMx_iff.mp (hd t ht ▸ hmx t ht hm) hb⟩
    · have h := descPast_iff.mp (hpast t ht)
      rwa [hd t ht, TileShape.of_stop] at h
    · have h := descShare_iff.mp (hshare t u ht hu hne)
      rwa [hd t ht, hd u hu, TileShape.of_stop, TileShape.of_stop, TileShape.of_base, TileShape.of_base] at h

/-- The configuration that TCFG checks gives each tile its new descriptor (R75). -/
theorem getD_newConfig (m : MatrixEngine) (mask : Word) (table : List Word) {t : Nat} (ht : t < 32) :
    (newConfig m mask table).getD t 0 = newDescriptors m mask table t := by
  rw [newConfig, List.getD_eq_getElem _ _ (by simpa using ht), List.getElem_map, List.getElem_range]; rfl

end

section
variable {s v : State} {e : Fin 4} {c : QueueCmd} {mask : Word}

theorem inLocal_iff {a n : Nat} : inLocal a n = true ↔ a + n ≤ 0x200000 := decide_eq_true_iff

theorem exec_tcfg (e : Fin 4) (s : State) : exec (.tcfg e) s = .next (meTake s e 0x20 (takeTcfg s e)) := rfl

/-- The fields of a TCFG keep R74. -/
def tcfgFieldsGood (c : QueueCmd) : Prop :=
  (c.regs.length != 2 || fld 31 8 (c.reg 0) != 0 || fld 63 32 (c.reg 1) != 0 || fld 31 0 (c.reg 1) % 128 != 0 ||
    !inLocal (fld 31 0 (c.reg 1)) 128) = false

theorem tcfgFieldsGood_of (hlen : c.regs.length = 2) (hlow : fld 31 8 (c.reg 0) = 0) (hhigh : fld 63 32 (c.reg 1) = 0)
    (halign : fld 31 0 (c.reg 1) % 128 = 0) (hin : fld 31 0 (c.reg 1) + 128 ≤ 0x200000) : tcfgFieldsGood c := by
  rw [tcfgFieldsGood, hlen, hlow, hhigh, halign, inLocal_iff.mpr hin]; rfl

/-- A TCFG behind writes that are under way is taken to read its table later (R123). -/
theorem takeTcfg_waits (hgood : tcfgFieldsGood c) (hmem : (s.me e.val).memSettled = false) :
    takeTcfg s e c = meStart s e c (.tcfgWait (BitVec.ofNat 32 (fld 63 32 (c.reg 0))) (fld 31 0 (c.reg 1))) := by
  rw [tcfgFieldsGood] at hgood
  simp only [takeTcfg, hgood, hmem, Bool.false_eq_true, if_false, Bool.not_false, if_true]

/-- A TCFG with no write before it reads its table as it is taken (R74). -/
theorem takeTcfg_reads (hgood : tcfgFieldsGood c) (hmem : (s.me e.val).memSettled = true)
    (hmay : s.may 0x51 .loc false = true) (hbad : s.mem.badIn (fld 31 0 (c.reg 1)) 128 = none) :
    takeTcfg s e c = meStart (s.counted (fld 31 0 (c.reg 1)) 128) e c (.tcfg (BitVec.ofNat 32 (fld 63 32 (c.reg 0)))
      ((List.range 32).map fun i => BitVec.ofNat 32 (s.mem.mem.readLE (fld 31 0 (c.reg 1) + 4 * i) 4))) := by
  rw [tcfgFieldsGood] at hgood
  simp only [takeTcfg, hgood, hmem, Bool.false_eq_true, if_false, Bool.not_true, takeRead_good _ hmay hbad,
    tableWords_readBytes]

/-! TCFG_APPLY. -/

/-- Engine `e` of `v` holds the TCFG with its table read, in front of `rest`; its tiles, its queue and memory are those of `s`. -/
def TableRead (s v : State) (e : Fin 4) (x : InFlight) (rest : List InFlight) : Prop :=
  v.me e.val = { s.me e.val with inflight := x :: rest } ∧ v.core = s.core ∧ v.mem.mem = s.mem.mem

/-- TCFG_APPLY checks the table that the oldest command, a TCFG, has read or reads now (R76, R123). -/
theorem exec_tcfgApply_head {seq : Word} {opc : Byte} {op : MeOp} {table : List Word} {rest : List InFlight}
    (hrun : s.inRun = true) (hhead : (s.me e.val).inflight = ⟨seq, opc, op, false⟩ :: rest)
    (hop : op = .tcfg mask table ∨ ∃ addr, op = .tcfgWait mask addr ∧ s.may 0x51 .loc false = true ∧
      s.mem.badIn addr 128 = none ∧ table = (List.range 32).map fun i => BitVec.ofNat 32 (s.mem.mem.readLE (addr + 4 * i) 4)) :
    ∃ v, exec (.tcfgApply e) s = .next (tcfgCheck v e 0 ⟨seq, opc, .tcfg mask table, false⟩ mask table) ∧
      TableRead s v e ⟨seq, opc, .tcfg mask table, false⟩ rest := by
  have hexec : exec (.tcfgApply e) s = execTcfgApply e s := rfl
  rcases hop with rfl | ⟨addr, rfl, hmay, hgood, rfl⟩
  · refine ⟨s, ?_, by rw [← hhead], rfl, rfl⟩
    rw [hexec, execTcfgApply]
    simp [hrun, hhead, List.findIdx?_cons, MeOp.isTcfg]
  · rw [← tableWords_readBytes]
    refine ⟨(s.counted addr 128).onMe e fun m => m.setOp 0 (.tcfg mask (tableWords (s.mem.mem.readBytes addr 128))), ?_,
      (State.me_onMe_same (s.counted addr 128) e _).trans (MatrixEngine.setOp_head hhead _), rfl, rfl⟩
    rw [hexec, execTcfgApply]
    simp [hrun, hhead, List.findIdx?_cons, MeOp.isTcfg, takeRead_good _ hmay hgood]

section
variable {x : InFlight} {rest : List InFlight} {table : List Word}

/-- The tiles of the mask take their new descriptors and become empty (R77). -/
def MatrixEngine.configure (m : MatrixEngine) (mask : Word) (new : List Nat) : MatrixEngine :=
  { m.clearValid mask fun _ => true with desc := Vector.ofFn fun j : Fin 32 => BitVec.ofNat 32 (new.getD j 0) }

theorem MatrixEngine.valid_clearValid (m : MatrixEngine) (mask : Word) (p : Nat → Bool) {t : Nat} (ht : t < 32) :
    Vec.at (m.clearValid mask p).valid t = if mask.getLsbD t && p t then 0#32 else Vec.at m.valid t := by
  rw [Vec.at_eq _ _ ht, Vec.at_eq _ _ ht, MatrixEngine.clearValid, Vector.getElem_ofFn]; rfl

theorem MatrixEngine.configure_configured (m : MatrixEngine) (mask : Word) (table : List Word) :
    Configured m (m.configure mask (newConfig m mask table)) mask table := by
  have hdesc (t : Nat) (ht : t < 32) : Vec.at (m.configure mask (newConfig m mask table)).desc t =
      BitVec.ofNat 32 (newDescriptors m mask table t) := by
    rw [← getD_newConfig m mask table ht, Vec.at_eq _ _ ht, MatrixEngine.configure, Vector.getElem_ofFn]
  have hvalid (t : Nat) (ht : t < 32) := m.valid_clearValid mask (fun _ => true) ht
  refine ⟨fun t ht hm => ⟨?_, ?_⟩, fun t ht hm => ⟨?_, ?_⟩⟩
  · rw [hdesc t ht, newDescriptors, if_pos hm, BitVec.ofNat_toNat, BitVec.setWidth_eq]
  · exact (hvalid t ht).trans (if_pos (by rw [hm]; rfl))
  · rw [hdesc t ht, newDescriptors, hm, if_neg Bool.false_ne_true, BitVec.ofNat_toNat, BitVec.setWidth_eq]
  · exact (hvalid t ht).trans (if_neg (by rw [hm]; exact Bool.false_ne_true))

theorem Configured.of_eq {m u w : MatrixEngine} (h : Configured m u mask table) (hdesc : w.desc = u.desc)
    (hvalid : w.valid = u.valid) : Configured m w mask table := by
  unfold Configured
  rwa [hdesc, hvalid]

/-- A consistent configuration applies, and its TCFG completes (R77, R78). -/
theorem tcfgCheck_applies (hv : TableRead s v e x rest) (hop : x.op.isTcfg = true) (hold : x.old = false)
    (hcfg : ConfigConsistent mask (newDescriptors (s.me e.val) mask table)) : let u := tcfgCheck v e 0 x mask table
    Configured (s.me e.val) (u.me e.val) mask table ∧ (u.me e.val).pool = (s.me e.val).pool ∧
      (u.me e.val).inflight = rest ∧ QueueCompleted s u e.val x.seq ∧ u.mem.mem = s.mem.mem := by
  obtain ⟨hme, hcore, hmem⟩ := hv
  have hnew : newConfig (v.me e.val) mask table = newConfig (s.me e.val) mask table := by rw [hme]; rfl
  have herr := (configConsistent_iff fun t ht => getD_newConfig (s.me e.val) mask table ht).mp hcfg
  have hcur : ((v.me e.val).current MeOp.isTcfg).isNone = false := by
    simp [MatrixEngine.current, hme, List.findIdx?_cons, hop]
  have hcheck : tcfgCheck v e 0 x mask table = meComplete
      (v.onMe e fun m => m.configure mask (newConfig (s.me e.val) mask table)) e 0 x := by
    simp only [tcfgCheck, hnew, herr, hcur, Bool.false_eq_true, if_false]; rfl
  obtain ⟨w, hw⟩ : ∃ w, w = v.onMe e fun m => m.configure mask (newConfig (s.me e.val) mask table) := ⟨_, rfl⟩
  have hwcore : w.core = s.core := by rw [hw]; exact hcore
  have hwmem : w.mem.mem = s.mem.mem := by rw [hw]; exact hmem
  have hwme : w.me e.val = ({ s.me e.val with inflight := x :: rest } : MatrixEngine).configure mask
      (newConfig (s.me e.val) mask table) := by rw [hw, State.me_onMe_same, hme]
  obtain ⟨hdone, -⟩ := meComplete_me (s := w) (e := e) (i := 0) (x := x) hold
  rw [hwme, MatrixEngine.dropOp_head (x := x) (rest := rest) rfl] at hdone
  have hconf := (s.me e.val).configure_configured mask table
  intro u
  have hu : u = meComplete w e 0 x := by rw [hw]; exact hcheck
  rw [hu, hdone]
  exact ⟨hconf.of_eq rfl rfl, by simp only [MatrixEngine.configure, MatrixEngine.clearValid], rfl, (meComplete_queue hold).of_core hwcore,
    (congrArg LocalMemory.mem (meComplete_units w e 0 x).1).trans hwmem⟩

/-- A stop that records a tile stops the queue; of the engine it changes the record and the list of commands (R61, R94). -/
theorem meStop_tile {code : Half} {t : Nat} {d : Option (List Nat)} (hold : x.old = false) :
    let u := meStop v e 0 x code (some t) d
    (u.queue e.val).stopped = true ∧ ((v.queue e.val).stopped = false → (u.queue e.val).fcode = code) ∧
      u.me e.val = ((v.me e.val).dropOp 0).tileFault code t x.opc.toNat x.seq ∧ u.mem = v.mem := by
  obtain ⟨w, hw⟩ : ∃ w, w = (v.onMe e fun m => (m.dropOp 0).tileFault code t x.opc.toNat x.seq).raise (2 + e) 0x214 15 :=
    ⟨_, rfl⟩
  obtain ⟨d', hd⟩ : ∃ d', d' = d.orElse fun _ => some (tileDetail e x.opc.toNat x.seq t) := ⟨_, rfl⟩
  have hstop : meStop v e 0 x code (some t) d = w.stopQueue e code x.opc.toNat x.seq d' := by
    rw [meStop, State.stopIf, hold, hw, hd]; rfl
  have hqueue : w.queue e.val = v.queue e.val := by rw [hw]; rfl
  have hmem : w.mem = v.mem := by rw [hw]; rfl
  have hme : w.me e.val = ((v.me e.val).dropOp 0).tileFault code t x.opc.toNat x.seq := by
    rw [hw]; exact State.me_onMe_same v e _
  intro u
  have hu : u = w.stopQueue e code x.opc.toNat x.seq d' := hstop
  obtain ⟨hstopped, hfcode⟩ := State.stopQueue_queue (Fin.val_lt_queues e) w code x.opc.toNat x.seq d'
  rw [hu]
  refine ⟨hstopped, hqueue ▸ hfcode, ?_, ?_⟩
  · rw [State.me_of_engines (s := w) (by simp), hme]
  · rw [← hmem]; simp

/-- An inconsistent configuration changes no tile and stops the queue with TILE_CFG (R76). -/
theorem tcfgCheck_refuses (hv : TableRead s v e x rest) (hold : x.old = false)
    (hcfg : ¬ ConfigConsistent mask (newDescriptors (s.me e.val) mask table)) : let u := tcfgCheck v e 0 x mask table
    (u.queue e.val).stopped = true ∧ ((s.queue e.val).stopped = false → (u.queue e.val).fcode = Code.tileCfg) ∧
      (∃ t, u.me e.val = { s.me e.val with inflight := rest }.tileFault Code.tileCfg t x.opc.toNat x.seq) ∧
      u.mem.mem = s.mem.mem := by
  obtain ⟨hme, hcore, hmem⟩ := hv
  have hnew : newConfig (v.me e.val) mask table = newConfig (s.me e.val) mask table := by rw [hme]; rfl
  have herr := mt (configConsistent_iff fun t ht => getD_newConfig (s.me e.val) mask table ht).mpr hcfg
  obtain ⟨t, ht⟩ := Option.ne_none_iff_exists'.mp herr
  have hcheck : tcfgCheck v e 0 x mask table = meStop v e 0 x Code.tileCfg (some t) none := by
    simp only [tcfgCheck, hnew, ht]
  obtain ⟨hstopped, hfcode, hum, humem⟩ := meStop_tile (v := v) (e := e) (x := x) (code := Code.tileCfg) (t := t) (d := none) hold
  rw [hme, MatrixEngine.dropOp_head (x := x) (rest := rest) rfl] at hum
  intro u
  have hu : u = meStop v e 0 x Code.tileCfg (some t) none := hcheck
  rw [hu]
  exact ⟨hstopped, State.queue_of_core hcore e.val ▸ hfcode, ⟨t, hum⟩, by rw [humem, hmem]⟩

end
end

end Sys2Proof.Machine
end

/-! TREL (R82), and what the start of a beat completes in the matrix engines (R82, R108). -/

noncomputable section
namespace Sys2Proof.Machine

section
variable {s : State} {e : Fin 4} {c : QueueCmd}

theorem exec_trel (e : Fin 4) (s : State) : exec (.trel e) s = .next (meTake s e 0x21 (takeTrel s e)) := rfl

/-- A TREL whose fields keep R82 acts as it is taken where the tiles are drained, and waits in the engine otherwise. -/
theorem takeTrel_good (hlen : c.regs.length = 1) (hlow : fld 31 8 (c.reg 0) = 0) :
    takeTrel s e c = if (s.me e.val).drained (fld 63 32 (c.reg 0)) then
        ((s.take e c).onMe e fun m => m.release (BitVec.ofNat 32 (fld 63 32 (c.reg 0)))).complete e c.seq
      else meStart s e c (.trel (BitVec.ofNat 32 (fld 63 32 (c.reg 0)))) := by
  have hgood : (c.regs.length != 1 || fld 31 8 (c.reg 0) != 0) = false := by rw [hlen, hlow]; rfl
  simp only [takeTrel, hgood, Bool.false_eq_true, if_false]
  cases (s.me e.val).drained (fld 63 32 (c.reg 0)) <;> rfl

theorem MatrixEngine.release_released (m : MatrixEngine) (mask : Word) : Released m (m.release mask) mask.toNat :=
  ⟨fun t ht => by rw [BitVec.testBit_toNat]; exact m.valid_clearValid mask (fun t => (Vec.at m.desc t).getLsbD 31) ht,
    by simp only [MatrixEngine.release, MatrixEngine.clearValid], by simp only [MatrixEngine.release, MatrixEngine.clearValid]⟩

theorem Released.of_eq {m u w : MatrixEngine} {mask : Nat} (h : Released m u mask) (hvalid : w.valid = u.valid)
    (hdesc : w.desc = u.desc) (hpool : w.pool = u.pool) : Released m w mask := by
  unfold Released
  rwa [hvalid, hdesc, hpool]

/-- A mask of 32 bits as a word. -/
theorem fld_mask_toNat (x : Nat) : (BitVec.ofNat 32 (fld 63 32 x)).toNat = fld 63 32 x := by
  rw [BitVec.toNat_ofNat, Nat.mod_eq_of_lt (fld_lt 63 32 x)]

/-! The start of a beat. -/

/-- What the N-cycle before a beat leaves of the queues, the engines and the count of N-cycles. -/
def State.engineParts (s : State) := (s.core.queues, s.engines, s.nc)

theorem State.performSpawns_engineParts (s : State) : s.performSpawns.engineParts = s.engineParts :=
  foldl_keeps State.performSpawn State.engineParts (fun s t => by unfold State.performSpawn; (repeat' split) <;> rfl) _ _

theorem State.cycleSettled_engineParts (s : State) : s.cycleSettled.engineParts = (s.core.queues, s.engines, s.nc + 1) := by
  have hidle : { s with nc := s.nc + 1, raised := [] }.trainPorts.returnCredits.ringIdle.engineParts =
      (s.core.queues, s.engines, s.nc + 1) := by
    have h : { s with nc := s.nc + 1, raised := [] }.trainPorts.returnCredits.offLink =
        { s with nc := s.nc + 1, raised := [] }.offLink := by
      rw [State.returnCredits_offLink, State.trainPorts_offLink]
    simp only [State.offLink, Prod.mk.injEq] at h
    obtain ⟨-, hnc, -, -, -, -, hcore, hengines, -⟩ := h
    simp only [State.engineParts, State.ringIdle, hnc, hcore, hengines]
  unfold State.cycleSettled
  dsimp only
  split
  · rw [State.performSpawns_engineParts]; exact hidle
  · exact hidle

/-- A beat starts with the time's own parts and passes the matrix engines, then the REMAPs that are due (R14, R82, R108). -/
theorem State.beatStart_passes (s : State) : ∃ l x c r j, s.beatStart =
    { s with lehr := l, se := x, sched := c, router := r, journal := j }.passTokens.dueRemaps.noteThrottle := by
  unfold State.beatStart State.showId
  dsimp only
  exact ⟨_, _, _, _, _, rfl⟩

/-- The N-cycle that starts a beat changes of queues and matrix engines what the passing of them changes. -/
theorem State.tick_beat (halive : s.pins.alive = true) (hbeat : (s.nc + 1) % 2 = 0) :
    ∃ v : State, v.engineParts = (s.core.queues, s.engines, s.nc + 1) ∧
      s.tick.core = v.passTokens.core ∧ s.tick.engines = v.passTokens.engines := by
  have hparts := s.cycleSettled_engineParts
  have hnc : s.cycleSettled.nc = s.nc + 1 := (Prod.mk.inj (Prod.mk.inj hparts).2).2
  obtain ⟨l, x, c, r, j, hpass⟩ := s.cycleSettled.beatStart_passes
  refine ⟨{ s.cycleSettled with lehr := l, se := x, sched := c, router := r, journal := j }, hparts, ?_, ?_⟩ <;>
    rw [State.tick_of_alive s halive, hnc, if_pos hbeat, hpass]
  · have h (t : State) : t.noteThrottle.core = t.core := by unfold State.noteThrottle; split <;> rfl
    rw [h, (State.dueRemaps_frame _).2.2.2.2.2.2.1]
  · have h (t : State) : t.noteThrottle.engines = t.engines := by unfold State.noteThrottle; split <;> rfl
    rw [h, (State.dueRemaps_frame _).2.2.2.2.2.2.2.1]

theorem mePass_offEngine (e : Fin 4) (n : Nat) (s : State) : (mePass e n s).offEngine e = s.offEngine e := by
  induction n generalizing s with
  | zero => rfl
  | succ n ih =>
    unfold mePass
    split
    · rfl
    · rw [ih, meComplete, State.completeIf_offEngine, State.onMe_offEngine]
      split
      · exact State.onMe_offEngine _ _ _
      · rfl

/-- With no command in flight elsewhere, only engine `e` is passed. -/
theorem State.passTokens_one (hothers : ∀ j, j ≠ e.val → (s.me j).inflight = []) :
    s.passTokens = mePass e (s.me e.val).inflight.length s := by
  have hfold (l : List (Fin 4)) (t : State) (ht : ∀ j ∈ l, (t.me j.val).inflight = []) :
      l.foldl (fun s e => mePass e (s.me e.val).inflight.length s) t = t := by
    induction l with
    | nil => rfl
    | cons j l ih =>
      rw [List.foldl_cons, ht j List.mem_cons_self]
      exact ih fun k hk => ht k (List.mem_cons_of_mem _ hk)
  obtain ⟨before, after, hl⟩ := List.append_of_mem (List.mem_finRange e)
  have hnodup := List.nodup_finRange 4
  rw [hl, List.nodup_middle, List.nodup_cons, List.mem_append, not_or] at hnodup
  obtain ⟨⟨hbefore, hafter⟩, -⟩ := hnodup
  have hne {l : List (Fin 4)} (he : e ∉ l) (j : Fin 4) (hj : j ∈ l) : j.val ≠ e.val := fun h => he (Fin.ext h ▸ hj)
  rw [State.passTokens, hl, List.foldl_append, hfold before s fun j hj => hothers j (hne hbefore j hj), List.foldl_cons]
  refine hfold after _ fun j hj => ?_
  rw [(State.offEngine_eq (mePass_offEngine e _ s)).2.1 j (hne hafter j hj)]
  exact hothers j (hne hafter j hj)

/-- The step that starts a beat passes engine `e`, where no other engine has a command in flight, and leaves local memory. -/
theorem step_beat_passes (hpending : s.pending = []) (halive : s.pins.alive = true) (hbeat : (s.nc + 1) % 2 = 0)
    (hothers : ∀ j, j ≠ e.val → (s.me j).inflight = []) :
    ∃ v u, (∀ r, v.queue r = s.queue r) ∧ (∀ j, v.me j = s.me j) ∧ v.beat = (s.nc + 1) / 2 ∧ step s = .next u ∧
      (∀ r, u.queue r = (mePass e (s.me e.val).inflight.length v).queue r) ∧
      (∀ j, u.me j = (mePass e (s.me e.val).inflight.length v).me j) ∧ u.mem = s.mem := by
  obtain ⟨v, hparts, hcore, hengines⟩ := s.tick_beat halive hbeat
  obtain ⟨hqueues, hrest⟩ := Prod.mk.inj hparts
  obtain ⟨hvengines, hnc⟩ := Prod.mk.inj hrest
  have hme := State.me_of_engines hvengines
  have hpass : v.passTokens = mePass e (s.me e.val).inflight.length v := by
    rw [State.passTokens_one fun j hj => (hme j).symm ▸ hothers j hj, hme]
  rw [hpass] at hcore hengines
  refine ⟨v, s.tick, fun r => congrArg (fun q => Vec.at q r) hqueues, hme, congrArg (· / 2) hnc,
    step_of_pending_nil s hpending, State.queue_of_core hcore, State.me_of_engines hengines, ?_⟩
  have hmem := s.tick_timeParts halive
  simp only [State.timeParts, Prod.mk.injEq] at hmem
  exact hmem.2.2.1

/-! What passes first. -/

theorem MatrixEngine.passed_head {m : MatrixEngine} {x : InFlight} {rest : List InFlight} {b : Nat}
    (h : m.inflight = x :: rest) (hop : (∃ mask, x.op = .trel mask) ∨ ∃ b0, x.op = .token b0 ∧ b0 + 63 ≤ b) :
    m.passed b = some (0, x) := by
  rw [MatrixEngine.passed, h, List.length_cons, List.range_succ_eq_map]
  rcases hop with ⟨mask, hop⟩ | ⟨b0, hop, hb⟩
  · simp [hop]
  · simp [hop, hb]

theorem MatrixEngine.passed_none {m : MatrixEngine} {b : Nat}
    (h : ∀ x ∈ m.inflight, ∀ b0 mask, x.op ≠ .token b0 ∧ x.op ≠ .trel mask) : m.passed b = none := by
  rw [MatrixEngine.passed, List.findSome?_eq_none_iff]
  intro i _
  split
  next x hx =>
    have hmem := h x (List.mem_of_getElem? hx)
    split
    next b0 hop => exact absurd hop (hmem b0 0#32).1
    next mask hop => exact absurd hop (hmem 0 mask).2
    next => rfl
  next => rfl

theorem mePass_of_none {n : Nat} (h : (s.me e.val).passed s.beat = none) : mePass e n s = s := by
  cases n with
  | zero => rfl
  | succ n => rw [mePass, h]

/-- A TREL whose tiles are drained releases them and completes (R82). -/
theorem mePass_trel {n : Nat} {x : InFlight} {mask : Word} {rest : List InFlight} (h : (s.me e.val).inflight = x :: rest)
    (hop : x.op = .trel mask) :
    mePass e (n + 1) s = mePass e n (meComplete (s.onMe e fun m => m.release mask) e 0 x) := by
  rw [mePass, MatrixEngine.passed_head h (.inl ⟨mask, hop⟩)]
  simp only [hop]

/-- A SWAP whose token has passed completes (R108). -/
theorem mePass_token {n b0 : Nat} {x : InFlight} {rest : List InFlight} (h : (s.me e.val).inflight = x :: rest)
    (hop : x.op = .token b0) (hb : b0 + 63 ≤ s.beat) : mePass e (n + 1) s = mePass e n (meComplete s e 0 x) := by
  rw [mePass, MatrixEngine.passed_head h (.inr ⟨b0, hop, hb⟩)]
  simp only [hop]

end

/-- Settles O16: the four parts are TCFG's taking, its check, and TREL's taking and its wait. -/
theorem tileConfiguration : Obligations.TileConfiguration := by
  refine ⟨?taken, ?applied, ?released, ?waited⟩
  case taken =>
    intro s e c mask table hready hmask htable hlen hlow hhigh halign hin
    subst hmask htable
    have hgood := tcfgFieldsGood_of hlen hlow hhigh halign hin
    rw [exec_tcfg, meTake_ready hready]
    constructor
    · intro hmem
      rw [takeTcfg_waits hgood hmem]
      exact ⟨_, rfl, meStart_started (g := id) keepsStores_id rfl rfl rfl⟩
    · intro hmem hmay hbad
      rw [takeTcfg_reads hgood hmem hmay hbad]
      exact ⟨_, rfl, meStart_started (g := id) keepsStores_id rfl rfl rfl⟩
  case applied =>
    intro s e seq mask opc op table rest hrun hhead hop
    obtain ⟨v, hexec, hv⟩ := exec_tcfgApply_head hrun hhead hop
    rw [hexec]
    refine ⟨fun hcfg => ⟨_, rfl, tcfgCheck_applies hv rfl rfl hcfg⟩, fun hcfg => ?_⟩
    obtain ⟨hstopped, hfcode, ⟨t, hme⟩, hmem⟩ := tcfgCheck_refuses hv rfl hcfg
    have hkeeps := ({ s.me e.val with inflight := rest } : MatrixEngine).tileFault_keeps Code.tileCfg t opc.toNat seq
    obtain ⟨-, hpool, hvalid, hdesc⟩ := hkeeps
    refine ⟨_, rfl, hstopped, hfcode, ?_, ?_, ?_, ?_, fun hfirst => ?_, hmem⟩ <;> rw [hme]
    · exact hdesc
    · exact hvalid
    · exact hpool
    · exact MatrixEngine.tileFault_valid ..
    · rw [MatrixEngine.tileFault_first (m := { s.me e.val with inflight := rest }) hfirst]
      exact ⟨rfl, rfl⟩
  case released =>
    intro s e c hready hlen hlow
    rw [exec_trel, meTake_ready hready, takeTrel_good hlen hlow]
    constructor
    · intro hdrained
      obtain ⟨u, hu⟩ : ∃ u, u =
        ((s.take e c).onMe e fun m => m.release (BitVec.ofNat 32 (fld 63 32 (c.reg 0)))).complete e c.seq := ⟨_, rfl⟩
      have hme : u.me e.val = (s.me e.val).release (BitVec.ofNat 32 (fld 63 32 (c.reg 0))) := by
        rw [hu]; exact State.me_onMe_same s e _
      have hreleased := (s.me e.val).release_released (BitVec.ofNat 32 (fld 63 32 (c.reg 0)))
      rw [fld_mask_toNat] at hreleased
      refine ⟨u, by rw [if_pos hdrained, hu], hme ▸ hreleased, ?_, by rw [hu]; rfl, by rw [hu]; rfl, fun j hj => ?_⟩
      · rw [hme]; simp only [MatrixEngine.release, MatrixEngine.clearValid]
      · rw [hu]; exact State.me_onMe_ne s hj _
    · intro hbusy
      rw [hbusy]
      exact ⟨_, rfl, meStart_started (g := id) keepsStores_id rfl rfl rfl⟩
  case waited =>
    intro s e seq mask opc hpending halive hbeat hhead hothers
    obtain ⟨v, u, hvqueue, hvme, -, hstep, huqueue, hume, humem⟩ := step_beat_passes hpending halive hbeat hothers
    obtain ⟨m, hm⟩ : ∃ m, m = (s.me e.val).release mask := ⟨_, rfl⟩
    obtain ⟨w, hw⟩ : ∃ w, w = v.onMe e fun m => m.release mask := ⟨_, rfl⟩
    have hwme : w.me e.val = m := by rw [hw, State.me_onMe_same, hvme, hm]
    have hinflight : m.inflight = (s.me e.val).inflight := by
      rw [hm]; simp only [MatrixEngine.release, MatrixEngine.clearValid]
    have hpass : mePass e (s.me e.val).inflight.length v = meComplete w e 0 ⟨seq, opc, .trel mask, false⟩ := by
      rw [hhead, hw]
      exact mePass_trel (n := 0) (rest := []) (by rw [hvme, hhead]) rfl
    obtain ⟨hdone, -⟩ := meComplete_me (s := w) (e := e) (i := 0) (x := ⟨seq, opc, .trel mask, false⟩) rfl
    have hqueue := meComplete_queue (s := w) (e := e) (i := 0) (x := ⟨seq, opc, .trel mask, false⟩) rfl
    rw [hwme, MatrixEngine.dropOp_head (hinflight.trans hhead), ← hpass, ← hume] at hdone
    have hreleased := (s.me e.val).release_released mask
    rw [← hm] at hreleased
    rw [← hpass] at hqueue
    refine ⟨u, hstep, ?_, ?_, hqueue.of_queues (fun r => ?_) huqueue, humem⟩
    · rw [hdone]; exact hreleased.of_eq rfl rfl rfl
    · rw [hdone]
    · rw [hw]; exact hvqueue r

end Sys2Proof.Machine
end

/-! LDW and SWAP as they are taken (R101-R109). -/

noncomputable section
namespace Sys2Proof.Machine

/-- Checks that give no code have all passed (R138). -/
theorem Checks.passed {a b c d : Bool} (h : Checks.verdict [(1, a), (2, b), (3, c), (4, d)] = none) :
    a = false ∧ b = false ∧ c = false ∧ d = false := by
  revert h; cases a <;> cases b <;> cases c <;> cases d <;> decide

section
variable {s v : State} {e : Fin 4} {c : QueueCmd} {t : TileShape}

/-- The LDW that `c` is, of class `cls`, with its expansion table or the address of one that is still to be read. -/
def ldwTaken (s : State) (e : Fin 4) (c : QueueCmd) (cls : ClassTag) (table : List FVal) (xtab : Option Nat) : LdwCmd :=
  { ldwOf c cls (!cls.full && (s.me e.val).queueTags.1.1.full) with table := table, xtab := xtab }

/-- Later checks see the tags that the load will leave (R102, R105, R106). -/
def MatrixEngine.afterLoad (cls : ClassTag) (tile : Nat) (m : MatrixEngine) : MatrixEngine :=
  { m with queueTags := tagsAfterLoad m.queueTags cls (BitVec.ofNat 5 tile) }

theorem keepsStores_afterLoad (cls : ClassTag) (tile : Nat) : KeepsStores (MatrixEngine.afterLoad cls tile) :=
  fun _ => ⟨rfl, rfl, rfl, rfl, rfl, rfl, rfl⟩

/-- The tags after a load: the shadow set's are the load's; the active set's follow a full load, and are NONE after a half load that
follows a full one (R105, R106). -/
theorem tagsAfterLoad_tags (q : (ClassTag × BitVec 5) × (ClassTag × BitVec 5)) (cls : ClassTag) (tile : BitVec 5) :
    (tagsAfterLoad q cls tile).2 = (cls, tile) ∧ (cls.full = true → (tagsAfterLoad q cls tile).1 = (cls, tile)) ∧
      (cls.full = false → q.1.1.full = true → (tagsAfterLoad q cls tile).1 = (.none, 0#5)) ∧
      (cls.full = false → q.1.1.full = false → (tagsAfterLoad q cls tile).1 = q.1) := by
  unfold tagsAfterLoad
  cases cls.full <;> cases q.1.1.full <;> simp

theorem exec_ldw (e : Fin 4) (s : State) : exec (.ldw e) s = .next (meTake s e 0x11 (takeLdw s e)) := rfl

/-- The state of engine `e` after an LDW has been put in flight from `v`. -/
def ldwStarted (v : State) (e : Fin 4) (c : QueueCmd) (cls : ClassTag) (x : LdwCmd) : State :=
  meStart v e c (.ldw x 0) (MatrixEngine.afterLoad cls (fld 12 8 (c.reg 0)))

section
variable (hverdict : (ldwChecks s e c).verdict = none) (hshape : (s.me e.val).shape (fld 12 8 (c.reg 0)) = some t)
include hverdict hshape

theorem takeLdw_plain (hty : t.ty ≠ 10) : takeLdw s e c = ldwStarted s e c (weightClass t.ty (fld 28 27 (c.reg 0)))
    (ldwTaken s e c (weightClass t.ty (fld 28 27 (c.reg 0))) [] none) := by
  simp only [takeLdw, hverdict, hshape, hty, if_false]; rfl

/-- An LDW behind writes that are under way reads its table later (R123). -/
theorem takeLdw_waits (hty : t.ty = 10) (hmem : (s.me e.val).memSettled = false) :
    takeLdw s e c = ldwStarted s e c (weightClass t.ty (fld 28 27 (c.reg 0)))
      (ldwTaken s e c (weightClass t.ty (fld 28 27 (c.reg 0))) [] (some (fld 31 0 (c.reg 1)))) := by
  simp only [takeLdw, hverdict, hshape, hty, hmem, Bool.not_false, if_true]; rfl

/-- An LDW that reads an expansion table has the right to (R103). -/
theorem ldwChecks_may (hty : t.ty = 10) : s.may 0x51 .loc false = true := by
  unfold ldwChecks at hverdict
  have hshape' : (s.me e.val).shape (ldwOf c .none false).tile = some t := hshape
  simp only [hshape'] at hverdict
  have hmay := (Checks.passed hverdict).2.2.2
  rw [hty] at hmay
  simpa using hmay

/-- An LDW with no write before it reads its table as it is taken (R102). -/
theorem takeLdw_reads (hty : t.ty = 10) (hmem : (s.me e.val).memSettled = true)
    (hbad : s.mem.badIn (fld 31 0 (c.reg 1)) (tableSize (fld 28 27 (c.reg 0))) = none) :
    takeLdw s e c = ldwStarted (s.counted (fld 31 0 (c.reg 1)) (tableSize (fld 28 27 (c.reg 0)))) e c
      (weightClass t.ty (fld 28 27 (c.reg 0)))
      (ldwTaken s e c (weightClass t.ty (fld 28 27 (c.reg 0))) (tableVals (fld 28 27 (c.reg 0))
        (s.mem.mem.readBytes (fld 31 0 (c.reg 1)) (tableSize (fld 28 27 (c.reg 0))))) none) := by
  have hmay := ldwChecks_may hverdict hshape hty
  simp only [takeLdw, hverdict, hshape, hty, hmem, Bool.not_true, Bool.false_eq_true, if_false, if_true,
    takeRead_good _ hmay hbad]
  rfl

end

/-- The values of an expansion table, as memory holds them (R102). -/
theorem tableVals_readBytes (m : Memory) (a xf : Nat) : tableVals xf (m.readBytes a (tableSize xf)) =
    (List.range 16).map fun i => (expandFmt xf).decode
      (m.readLE (a + i * (if xf < 2 then 2 else 1)) (if xf < 2 then 2 else 1)) := by
  refine List.map_congr_left fun i hi => congrArg (expandFmt xf).decode ?_
  rw [List.mem_range] at hi
  refine Memory.leAt_readBytes m ?_
  unfold tableSize
  split <;> omega

theorem ldwStarted_started (x : LdwCmd) (cls : ClassTag) (hcore : v.core = s.core) (hengines : v.engines = s.engines)
    (hmem : v.mem.mem = s.mem.mem) : MeStarted s (ldwStarted v e c cls x) e c (.ldw x 0) ∧
      ((ldwStarted v e c cls x).me e.val).queueTags =
        tagsAfterLoad (s.me e.val).queueTags cls (BitVec.ofNat 5 (fld 12 8 (c.reg 0))) := by
  refine ⟨meStart_started (keepsStores_afterLoad cls (fld 12 8 (c.reg 0))) ?_ ?_ hmem, ?_⟩
  · show (v.take e c).core = _
    rw [State.take, State.take, State.onQueue, State.onQueue, hcore]
  · exact congrArg (fun w => Vec.upd w e.val fun m =>
      (MatrixEngine.afterLoad cls (fld 12 8 (c.reg 0)) m).start c (.ldw x 0)) hengines
  · rw [← State.me_of_engines hengines e.val]
    exact congrArg MatrixEngine.queueTags (State.me_onMe_same (v.take e c) e _)

/-! SWAP. -/

theorem exec_swap (e : Fin 4) (s : State) : exec (.swap e) s = .next (meTake s e 0x12 (takeSwap s e)) := rfl

def MatrixEngine.swapTags (m : MatrixEngine) : MatrixEngine := { m with queueTags := (m.queueTags.2, m.queueTags.1) }

/-- A SWAP whose fields keep R107 completes at once between two full loads, and is put in flight otherwise (R107, R109). -/
theorem takeSwap_good (hlen : c.regs.length = 1) (hlow : fld 63 8 (c.reg 0) = 0) :
    takeSwap s e c = if (s.me e.val).queueTags.1.1.full && (s.me e.val).queueTags.2.1.full then
      (s.take e c).complete e c.seq else meStart s e c .swap MatrixEngine.swapTags := by
  have hgood : (c.regs.length != 1 || fld 63 8 (c.reg 0) != 0) = false := by rw [hlen, hlow]; rfl
  simp only [takeSwap, hgood, Bool.false_eq_true, if_false]; rfl

end

/-- Settles O17: the loads by where their table comes from, then SWAP. -/
theorem weightCommandsTaken : Obligations.WeightCommandsTaken := by
  constructor
  · intro s e c t cls table xtab w x hready hverdict hshape hcls hw hx hplain hwait hread
    subst hw hx
    have hcls' : cls = weightClass t.ty (fld 28 27 (c.reg 0)) := hcls
    subst hcls'
    rw [exec_ldw, meTake_ready hready]
    obtain ⟨v, hcore, hengines, hmem, htake⟩ : ∃ v : State, v.core = s.core ∧ v.engines = s.engines ∧
        v.mem.mem = s.mem.mem ∧ takeLdw s e c = ldwStarted v e c (weightClass t.ty (fld 28 27 (c.reg 0)))
          (ldwTaken s e c (weightClass t.ty (fld 28 27 (c.reg 0))) table xtab) := by
      by_cases hty : t.ty = 10
      · cases hsettled : (s.me e.val).memSettled with
        | false =>
          obtain ⟨rfl, rfl⟩ := hwait hty hsettled
          exact ⟨s, rfl, rfl, rfl, takeLdw_waits hverdict hshape hty hsettled⟩
        | true =>
          obtain ⟨hbad, rfl, rfl⟩ := hread hty hsettled
          rw [← tableVals_readBytes]
          exact ⟨s.counted (fld 31 0 (c.reg 1)) (tableSize (fld 28 27 (c.reg 0))), rfl, rfl, rfl,
            takeLdw_reads hverdict hshape hty hsettled hbad⟩
      · obtain ⟨rfl, rfl⟩ := hplain hty
        exact ⟨s, rfl, rfl, rfl, takeLdw_plain hverdict hshape hty⟩
    obtain ⟨hstarted, htags⟩ := ldwStarted_started (e := e) (c := c)
      (ldwTaken s e c (weightClass t.ty (fld 28 27 (c.reg 0))) table xtab) (weightClass t.ty (fld 28 27 (c.reg 0)))
      hcore hengines hmem
    rw [htake]
    refine ⟨_, rfl, hstarted, ?_⟩
    rw [htags]
    exact tagsAfterLoad_tags _ _ _
  · intro s e c hready hlen hlow
    rw [exec_swap, meTake_ready hready, takeSwap_good hlen hlow]
    constructor
    · intro hhalf
      rw [if_neg (by rwa [Bool.and_eq_true])]
      refine ⟨_, rfl, meStart_started (g := MatrixEngine.swapTags) (fun _ => ⟨rfl, rfl, rfl, rfl, rfl, rfl, rfl⟩) rfl rfl rfl, ?_⟩
      exact congrArg MatrixEngine.queueTags (State.me_onMe_same (s.take e c) e _)
    · intro hactive hshadow
      rw [hactive, hshadow]
      exact ⟨_, rfl, rfl, rfl⟩

end Sys2Proof.Machine
end

/-! Stationary rows and the swap token (R99-R108). -/

noncomputable section
namespace Sys2Proof.Machine

/-! Rows put in a set. -/

theorem StationarySet.get_put_ne {rows : List (Nat × List FVal)} {w : StationarySet} (h : Tbl.wf [] w.rows = true) {k : Nat}
    (hk : ∀ r ∈ rows, r.1 ≠ k) : Tbl.get [] (w.put rows).rows k = Tbl.get [] w.rows k := by
  induction rows generalizing w with
  | nil => rfl
  | cons r rows ih =>
    have hset := ih (w := { w with rows := Tbl.set [] w.rows r.1 r.2 }) (Tbl.wf_set _ _ _ _ h)
      fun q hq => hk q (List.mem_cons_of_mem _ hq)
    exact hset.trans (Tbl.get_set_ne _ _ _ _ _ h (hk r List.mem_cons_self).symm)

/-- Rows of different numbers are all in the set they are put in. -/
theorem StationarySet.get_put_mem {rows : List (Nat × List FVal)} {w : StationarySet} (h : Tbl.wf [] w.rows = true)
    (hne : (rows.map Prod.fst).Nodup) : ∀ r ∈ rows, Tbl.get [] (w.put rows).rows r.1 = r.2 := by
  induction rows generalizing w with
  | nil => exact fun r hr => absurd hr List.not_mem_nil
  | cons q rows ih =>
    rw [List.map_cons, List.nodup_cons] at hne
    have hwf := Tbl.wf_set [] w.rows q.1 q.2 h
    intro r hr
    rcases List.mem_cons.mp hr with rfl | hr
    · exact (StationarySet.get_put_ne (w := { w with rows := Tbl.set [] w.rows r.1 r.2 }) hwf fun p hp heq =>
        hne.1 (List.mem_map.mpr ⟨p, hp, heq⟩)).trans (Tbl.get_set_same _ _ _ _ h)
    · exact ih (w := { w with rows := Tbl.set [] w.rows q.1 q.2 }) hwf hne.2 r hr

section
variable {s v : State} {e : Fin 4}

/-! What a row of a load changes of an engine. -/

/-- Rows enter the shadow set, and for a full load both sets (R104, R105). -/
def MatrixEngine.loadRows (c : LdwCmd) (rows : List (Nat × List FVal)) (m : MatrixEngine) : MatrixEngine :=
  let m := { m with shadow := m.shadow.put rows }
  if c.tag.full then { m with active := m.active.put rows } else m

/-- The end of a load sets the tags; the active set of a full load that a half load follows is zeroed (R102, R106). -/
def MatrixEngine.loadEnds (c : LdwCmd) (m : MatrixEngine) : MatrixEngine :=
  let m := { m with shadow := { m.shadow with tag := c.tag, tile := BitVec.ofNat 5 c.tile } }
  let m := if c.tag.full then { m with active := { m.active with tag := c.tag, tile := BitVec.ofNat 5 c.tile } } else m
  if c.clears then { m with active := StationarySet.empty } else m

theorem MatrixEngine.loadRows_eq (c : LdwCmd) (rows : List (Nat × List FVal)) (m : MatrixEngine) :
    m.loadRows c rows = { m with
      shadow := m.shadow.put rows, active := if c.tag.full then m.active.put rows else m.active } := by
  unfold MatrixEngine.loadRows
  cases c.tag.full <;> rfl

theorem MatrixEngine.loadEnds_eq (c : LdwCmd) (m : MatrixEngine) :
    m.loadEnds c = { m with
      shadow := { m.shadow with tag := c.tag, tile := BitVec.ofNat 5 c.tile }
      active := if c.clears then StationarySet.empty
        else if c.tag.full then { m.active with tag := c.tag, tile := BitVec.ofNat 5 c.tile } else m.active } := by
  unfold MatrixEngine.loadEnds
  cases c.tag.full <;> cases c.clears <;> rfl

/-- The parts of engine `m` that a warning and a count leave. -/
def MatrixEngine.stores (m : MatrixEngine) := (m.pool, m.valid, m.desc, m.active, m.shadow, m.acc, m.inflight)

theorem MatrixEngine.warnRow_stores (m : MatrixEngine) (tile row : Nat) : (m.warnRow tile row).stores = m.stores := by
  unfold MatrixEngine.warnRow MatrixEngine.warnEmpty
  (repeat' split) <;> rfl

/-- The warning of R81 and the count of R94 leave the stores of the engine, the core, memory and the other engines. -/
theorem meWarned_keeps (s : State) (e : Fin 4) (tile row : Nat) : let w := (meWarnRow s e tile row).meLost e
    (w.me e.val).stores = (s.me e.val).stores ∧ (∀ j, j ≠ e.val → w.me j = s.me j) ∧ w.core = s.core ∧ w.mem = s.mem := by
  have hwarn (j : Nat) : (meWarnRow s e tile row).me j = (s.onMe e fun m => m.warnRow tile row).me j :=
    State.me_of_engines (by simp [meWarnRow]) j
  have hlost (j : Nat) : ((meWarnRow s e tile row).meLost e).me j = ((meWarnRow s e tile row).onMe e fun m =>
      { m with tbub := satAdd m.tbub (Config.freeWord (meWarnRow s e tile row).free 0).toNat }).me j := rfl
  refine ⟨?_, fun j hj => ?_, ?_, ?_⟩
  · rw [hlost, State.me_onMe_same, hwarn, State.me_onMe_same]
    exact (s.me e.val).warnRow_stores tile row
  · rw [hlost, State.me_onMe_ne _ hj, hwarn, State.me_onMe_ne _ hj]
  · show (meWarnRow s e tile row).core = s.core
    simp [meWarnRow]
  · show (meWarnRow s e tile row).mem = s.mem
    simp [meWarnRow]

/-! A row of the oldest command, an LDW. -/

section
variable {x : InFlight} {rest : List InFlight} {c : LdwCmd} {t : TileShape} {done : Nat}

/-- Row `done` of a load has reached the sets. -/
def ldwLoaded (v : State) (e : Fin 4) (c : LdwCmd) (t : TileShape) (done : Nat) : State :=
  let w := v.onMe e fun m => (m.loadRows c (ldwRows (v.me e.val) t c done)).setOp 0 (.ldw c (done + 1))
  if done ≤ c.count then (meWarnRow w e c.tile (c.row + done)).meLost e else w

theorem ldwRow_good (hshape : (v.me e.val).shape c.tile = some t)
    (herr : done ≤ c.count →
      (v.me e.val).rowError t c.tile (c.row + done) (t.slice (c.off * 16) (c.tag.loadSlice t.ty)) = none) :
    ldwRow v e 0 x c done = if done + 1 < ldwTotal c then ldwLoaded v e c t done
      else meComplete ((ldwLoaded v e c t done).onMe e fun m => m.loadEnds c) e 0 x := by
  have herr' : (if done ≤ c.count then
      (v.me e.val).rowError t c.tile (c.row + done) (t.slice (c.off * 16) (c.tag.loadSlice t.ty)) else none) = none := by
    split
    next h => exact herr h
    next => rfl
  simp only [ldwRow, hshape, herr']
  rfl

/-- What the row leaves of the engine's stores, of the core, of memory and of the other engines. -/
theorem ldwLoaded_keeps (hhead : (v.me e.val).inflight = x :: rest) : let w := ldwLoaded v e c t done
    (w.me e.val).stores = { (v.me e.val).loadRows c (ldwRows (v.me e.val) t c done) with
      inflight := { x with op := .ldw c (done + 1) } :: rest }.stores ∧
      (∀ j, j ≠ e.val → w.me j = v.me j) ∧ w.core = v.core ∧ w.mem = v.mem := by
  obtain ⟨w, hw⟩ : ∃ w, w = v.onMe e fun m =>
    (m.loadRows c (ldwRows (v.me e.val) t c done)).setOp 0 (.ldw c (done + 1)) := ⟨_, rfl⟩
  have hinflight : ((v.me e.val).loadRows c (ldwRows (v.me e.val) t c done)).inflight = x :: rest := by
    rw [MatrixEngine.loadRows_eq, ← hhead]
  have hme : w.me e.val = { (v.me e.val).loadRows c (ldwRows (v.me e.val) t c done) with
      inflight := { x with op := .ldw c (done + 1) } :: rest } := by
    rw [hw, State.me_onMe_same, MatrixEngine.setOp_head hinflight]
  have hothers (j : Nat) (hj : j ≠ e.val) : w.me j = v.me j := by rw [hw, State.me_onMe_ne _ hj]
  have hcore : w.core = v.core := by rw [hw]; rfl
  have hmem : w.mem = v.mem := by rw [hw]; rfl
  have hloaded : ldwLoaded v e c t done =
      if done ≤ c.count then (meWarnRow w e c.tile (c.row + done)).meLost e else w := by rw [hw]; rfl
  obtain ⟨hstores, hkeep, hkcore, hkmem⟩ := meWarned_keeps w e c.tile (c.row + done)
  intro u
  have hu : u = _ := hloaded
  rw [hu]
  split
  · exact ⟨hstores.trans (congrArg _ hme), fun j hj => (hkeep j hj).trans (hothers j hj), hkcore.trans hcore, hkmem.trans hmem⟩
  · exact ⟨congrArg _ hme, hothers, hcore, hmem⟩

/-- The oldest command, an LDW, goes on with its next row, its table read where it had waited for it (R102, R123). -/
theorem exec_stationaryRowWrite_head {seq : Word} {opc : Byte} {table : List FVal} {w : Nat} (hrun : s.inRun = true)
    (hhead : (s.me e.val).inflight = ⟨seq, opc, .ldw c done, false⟩ :: rest) (hw : w = if c.xf < 2 then 2 else 1)
    (hplain : c.xtab = none → table = c.table)
    (hread : ∀ a, c.xtab = some a → s.may 0x51 .loc false = true ∧ s.mem.badIn a (16 * w) = none ∧
      table = (List.range 16).map fun i => (expandFmt c.xf).decode (s.mem.mem.readLE (a + i * w) w)) :
    ∃ v x, exec (.stationaryRowWrite e) s = .next (ldwRow v e 0 x { c with table := table, xtab := none } done) ∧
      x = ⟨seq, opc, .ldw { c with table := table, xtab := none } done, false⟩ ∧
      v.me e.val = { s.me e.val with inflight := x :: rest } ∧ (∀ j, j ≠ e.val → v.me j = s.me j) ∧
      v.core = s.core ∧ v.mem.mem = s.mem.mem := by
  have hexec : exec (.stationaryRowWrite e) s = .next (match c.xtab with
      | some addr => ldwStart s e 0 ⟨seq, opc, .ldw c done, false⟩ c addr done
      | none => ldwRow s e 0 ⟨seq, opc, .ldw c done, false⟩ c done) :=
    congrArg Host.Outcome.next (meRun_head hrun hhead rfl _)
  subst hw
  cases hx : c.xtab with
  | none =>
    have hc : { c with table := table, xtab := none } = c := by rw [hplain hx, ← hx]
    refine ⟨s, ⟨seq, opc, .ldw c done, false⟩, ?_, by rw [hc], by rw [← hhead], fun _ _ => rfl, rfl, rfl⟩
    rw [hexec, hx, hc]
  | some a =>
    obtain ⟨hmay, hbad, rfl⟩ := hread a hx
    rw [← tableVals_readBytes]
    refine ⟨(s.counted a (tableSize c.xf)).onMe e fun m =>
      m.setOp 0 (.ldw { c with table := tableVals c.xf (s.mem.mem.readBytes a (tableSize c.xf)), xtab := none } done), _, ?_, rfl,
      (State.me_onMe_same (s.counted a (tableSize c.xf)) e _).trans (MatrixEngine.setOp_head hhead _),
      fun j hj => State.me_onMe_ne (s.counted a (tableSize c.xf)) hj _, rfl, rfl⟩
    rw [hexec, hx]
    simp only [ldwStart, takeRead_good _ hmay hbad, tableSize]

/-- What the row leaves, part by part. -/
theorem ldwLoaded_parts {m : MatrixEngine} {rows : List (Nat × List FVal)} (hme : v.me e.val = { m with inflight := x :: rest })
    (hrows : ldwRows m t c done = rows) : let w := ldwLoaded v e c t done
    (w.me e.val).pool = m.pool ∧ (w.me e.val).acc = m.acc ∧ (w.me e.val).shadow = m.shadow.put rows ∧
      (w.me e.val).active = (if c.tag.full then m.active.put rows else m.active) ∧
      (w.me e.val).inflight = { x with op := .ldw c (done + 1) } :: rest := by
  have hstores := (ldwLoaded_keeps (v := v) (e := e) (x := x) (rest := rest) (c := c) (t := t) (done := done) (by rw [hme])).1
  have hrows' : ldwRows (v.me e.val) t c done = rows := by rw [hme, ← hrows]; rfl
  rw [hrows', MatrixEngine.loadRows_eq, hme] at hstores
  simp only [MatrixEngine.stores, Prod.mk.injEq] at hstores
  obtain ⟨hpool, -, -, hactive, hshadow, hacc, hinflight⟩ := hstores
  exact ⟨hpool, hacc, hshadow, hactive, hinflight⟩

/-- The last row of a load: the tags are set, and the command leaves the list (R102, R105, R106). -/
theorem ldwEnded_parts {w : State} (hold : x.old = false) {y : InFlight} (hinflight : (w.me e.val).inflight = y :: rest) :
    let u := meComplete (w.onMe e fun m => m.loadEnds c) e 0 x
    u.me e.val = { (w.me e.val).loadEnds c with inflight := rest } ∧ (∀ j, j ≠ e.val → u.me j = w.me j) ∧
      QueueCompleted w u e.val x.seq ∧ u.mem = w.mem := by
  obtain ⟨z, hz⟩ : ∃ z, z = w.onMe e fun m => m.loadEnds c := ⟨_, rfl⟩
  have hzme : z.me e.val = (w.me e.val).loadEnds c := by rw [hz, State.me_onMe_same]
  have hzhead : ((w.me e.val).loadEnds c).inflight = y :: rest := by rw [MatrixEngine.loadEnds_eq, ← hinflight]
  obtain ⟨hme, hothers⟩ := meComplete_me (s := z) (e := e) (i := 0) (x := x) hold
  have hqueue := meComplete_queue (s := z) (e := e) (i := 0) (x := x) hold
  rw [hzme, MatrixEngine.dropOp_head hzhead] at hme
  rw [← hz]
  refine ⟨hme, fun j hj => (hothers j hj).trans ?_, hqueue.of_core ?_, (meComplete_units z e 0 x).1.trans ?_⟩ <;> rw [hz]
  · exact State.me_onMe_ne _ hj _
  · rfl
  · rfl

/-- The weight rows of an array row (R99, R102). -/
theorem ldwRows_eq {m : MatrixEngine} {vs : List FVal} {rows : List (Nat × List FVal)}
    (hvs : done ≤ c.count → vs = weightElems t.ty c.xf c.table t.len (m.rowBytes t c.tile (c.row + done)) (c.off * 16)
      (c.tag.loadSlice t.ty)) (hzero : c.count < done → vs = [])
    (hrows : rows = if c.tag = .f8 ∨ c.tag = .i8 then [(2 * done, vs.take 32), (2 * done + 1, vs.drop 32)] else [(done, vs)]) :
    ldwRows m t c done = rows := by
  have hvs' : (if done ≤ c.count then weightElems t.ty c.xf c.table t.len (m.rowBytes t c.tile (c.row + done)) (c.off * 16)
      (c.tag.loadSlice t.ty) else []) = vs := by
    split
    next h => exact (hvs h).symm
    next h => exact (hzero (Nat.not_le.mp h)).symm
  have hnarrow : c.tag.narrow = decide (c.tag = .f8 ∨ c.tag = .i8) := by cases c.tag <;> rfl
  rw [hrows, ldwRows, hvs', hnarrow]
  simp only [decide_eq_true_eq]

theorem ldwTotal_eq (c : LdwCmd) : ldwTotal c = if c.tag = .w64 then 16 else 32 := by
  unfold ldwTotal; cases c.tag <;> rfl

end

/-! The swap token. -/

theorem exec_swapTokenEntry_head {seq : Word} {opc : Byte} {rest : List InFlight} (hrun : s.inRun = true)
    (hhead : (s.me e.val).inflight = ⟨seq, opc, .swap, false⟩ :: rest) : exec (.swapTokenEntry e) s =
      .next (s.onMe e fun m => { m.setOp 0 (.token s.beat) with active := m.shadow, shadow := m.active }) :=
  congrArg Host.Outcome.next (meRun_head hrun hhead rfl _)

end

/-- Settles O18: a row of the oldest LDW, the token's entry, and the beat in which it has passed. -/
theorem weightSetsChange : Obligations.WeightSetsChange := by
  refine ⟨?row, ?token, ?passed⟩
  case row =>
    intro s e seq opc c done rest t table vs rows total w hrun hhead hshape herr hshwf hacwf hw hplain hread hvs hzero hrows
      htotal
    obtain ⟨v, x, hexec, hx, hvme, hvothers, hvcore, hvmem⟩ := exec_stationaryRowWrite_head hrun hhead hw hplain hread
    have hload : ldwRows (s.me e.val) t { c with table := table, xtab := none } done = rows := ldwRows_eq hvs hzero hrows
    have hnodup : (rows.map Prod.fst).Nodup := by
      rw [hrows]; split <;> simp
    have hgood := ldwRow_good (v := v) (e := e) (x := x) (c := { c with table := table, xtab := none }) (t := t)
      (done := done) (by rw [hvme]; exact hshape) (by rw [hvme]; exact herr)
    obtain ⟨hpool, hacc, hshadow, hactive, hinflight⟩ := ldwLoaded_parts hvme hload
    obtain ⟨-, hothers, hcore, hmem⟩ := ldwLoaded_keeps (v := v) (e := e) (x := x) (rest := rest)
      (c := { c with table := table, xtab := none }) (t := t) (done := done) (by rw [hvme])
    rw [ldwTotal_eq] at hgood
    obtain ⟨l, hl⟩ : ∃ l, l = ldwLoaded v e { c with table := table, xtab := none } t done := ⟨_, rfl⟩
    rw [← hl] at hgood hpool hacc hshadow hactive hinflight hothers hcore hmem
    have hin := StationarySet.get_put_mem hshwf hnodup
    have hout (k : Nat) (hk : ∀ r ∈ rows, r.1 ≠ k) := StationarySet.get_put_ne hshwf hk
    have hain := StationarySet.get_put_mem hacwf hnodup
    have haout (k : Nat) (hk : ∀ r ∈ rows, r.1 ≠ k) := StationarySet.get_put_ne hacwf hk
    have hothers' (j : Nat) (hj : j ≠ e.val) := (hothers j hj).trans (hvothers j hj)
    have hmem' := (congrArg LocalMemory.mem hmem).trans hvmem
    rw [hexec, hgood]
    by_cases hmore : done + 1 < total
    · rw [if_pos (htotal ▸ hmore)]
      refine ⟨l, rfl, hshadow ▸ hin, hshadow ▸ hout, fun hfull _ => ?_, fun hhalf _ => ?_, fun _ hend => ?_, fun _ => ?_,
        fun hend => ?_, hpool, hacc, hothers', hmem'⟩
      · rw [hactive, if_pos hfull]
        exact ⟨hain, haout⟩
      · rw [hactive, if_neg (by rw [hhalf]; exact Bool.false_ne_true)]
      · exact absurd hmore (Nat.not_lt.mpr hend)
      · refine ⟨by rw [hshadow]; rfl, ?_, by rw [hinflight, hx], hcore.trans hvcore⟩
        rw [hactive]; split <;> rfl
      · exact absurd hmore (Nat.not_lt.mpr hend)
    · rw [if_neg (htotal ▸ hmore)]
      obtain ⟨hume, huothers, huqueue, humem⟩ := ldwEnded_parts (c := { c with table := table, xtab := none }) (x := x)
        (by rw [hx]) hinflight
      rw [MatrixEngine.loadEnds_eq, hshadow, hactive] at hume
      refine ⟨_, rfl, ?_⟩
      rw [hume]
      refine ⟨hin, hout, fun hfull hkeep => ?_, fun hhalf hkeep => ?_, fun hclear _ => ?_, fun h => absurd h hmore, fun _ => ?_,
        hpool, hacc, fun j hj => (huothers j hj).trans (hothers' j hj), (congrArg LocalMemory.mem humem).trans hmem'⟩
      · simp only [hfull, hkeep, Bool.false_eq_true, if_false, if_true]
        exact ⟨hain, haout⟩
      · simp only [hhalf, hkeep.resolve_right hmore, Bool.false_eq_true, if_false]
      · simp only [hclear, if_true]; rfl
      · refine ⟨rfl, rfl, fun hfull hkeep => ?_, rfl, ?_⟩
        · simp only [hfull, hkeep, Bool.false_eq_true, if_false, if_true, and_self]
        · rw [show x.seq = seq by rw [hx]] at huqueue
          exact huqueue.of_core (hcore.trans hvcore)
  case token =>
    intro s e seq opc rest hrun hhead
    have hme := State.me_onMe_same s e fun m => { m.setOp 0 (.token s.beat) with active := m.shadow, shadow := m.active }
    rw [MatrixEngine.setOp_head hhead] at hme
    exact ⟨_, exec_swapTokenEntry_head hrun hhead, hme, fun j hj => State.me_onMe_ne s hj _, rfl⟩
  case passed =>
    intro s e seq opc entered rest hpending halive hbeat hpassed hhead hrest hothers
    obtain ⟨v, u, hvqueue, hvme, hvbeat, hstep, huqueue, hume, humem⟩ := step_beat_passes hpending halive hbeat hothers
    obtain ⟨hdone, -⟩ := meComplete_me (s := v) (e := e) (i := 0) (x := ⟨seq, opc, .token entered, false⟩) rfl
    have hqueue := meComplete_queue (s := v) (e := e) (i := 0) (x := ⟨seq, opc, .token entered, false⟩) rfl
    rw [hvme, MatrixEngine.dropOp_head hhead] at hdone
    have hpass : mePass e (s.me e.val).inflight.length v = meComplete v e 0 ⟨seq, opc, .token entered, false⟩ := by
      rw [hhead, List.length_cons, mePass_token (rest := rest) (by rw [hvme, hhead]) rfl (hvbeat ▸ hpassed)]
      refine mePass_of_none ?_
      rw [hdone]
      exact MatrixEngine.passed_none hrest
    rw [← hpass] at hdone hqueue
    exact ⟨u, hstep, (hume e.val).trans hdone, hqueue.of_queues hvqueue huqueue, humem⟩

end Sys2Proof.Machine
end

/-! MM, MMS and ACVT as they are taken (R116, R125, R133, R162). -/

noncomputable section
namespace Sys2Proof.Machine

section
variable {s v : State} {e : Fin 4} {c : QueueCmd}

/-! Reads where no word is bad. -/

theorem LocalMemory.badIn_clean {m : LocalMemory} (h : m.bad = []) (a n : Nat) : m.badIn a n = none := by
  rw [LocalMemory.badIn, h]; rfl

/-- `v` is `s` after reads of local memory that found words to correct at most. -/
def ReadFrom (s v : State) : Prop := v = { s with mem := { s.mem with eccCount := v.mem.eccCount } }

theorem ReadFrom.refl (s : State) : ReadFrom s s := rfl

theorem ReadFrom.counted (h : ReadFrom s v) (a n : Nat) : ReadFrom s (v.counted a n) := by
  unfold ReadFrom at *
  rw [h]; rfl

theorem ReadFrom.takeRead (h : ReadFrom s v) (hmay : s.may 0x51 .loc false = true) (hbad : s.mem.bad = []) (unit : Byte)
    (a n : Nat) : takeRead v unit a n = (none, s.mem.mem.readBytes a n, v.counted a n) := by
  unfold ReadFrom at h
  have hmay' : v.may 0x51 .loc false = true := by rw [h]; exact hmay
  have hbad' : v.mem.bad = [] := by rw [h]; exact hbad
  have hmem : v.mem.mem = s.mem.mem := by rw [h]
  rw [takeRead_good unit hmay' (LocalMemory.badIn_clean hbad' a n), hmem]

/-- The bias vector of a descriptor at `od`, `n` values (R162). -/
def biasHeld (m : Memory) (od : List Byte) (n : Nat) : Option (List Word) :=
  if ocdBias od = 0 then none
  else some ((List.range n).map fun i => BitVec.ofNat 32 (m.readLE (ocdBias od + 4 * i) 4))

theorem ReadFrom.readBias (h : ReadFrom s v) (hmay : s.may 0x51 .loc false = true) (hbad : s.mem.bad = []) (unit : Byte)
    (od : List Byte) (n : Nat) : ∃ w, ReadFrom s w ∧ readBias v unit od n = (none, biasHeld s.mem.mem od n, w) := by
  unfold Sys2Proof.Machine.readBias biasHeld
  split
  · exact ⟨v, h, rfl⟩
  · refine ⟨_, h.counted (ocdBias od) (4 * n), ?_⟩
    rw [h.takeRead hmay hbad]
    refine congrArg (fun l => (none, some l, v.counted (ocdBias od) (4 * n))) (List.map_congr_left fun i hi => ?_)
    rw [List.mem_range] at hi
    exact congrArg (BitVec.ofNat 32) (Memory.leAt_readBytes s.mem.mem (o := 4 * i) (n := 4) (by omega))

/-! Descriptors. -/

theorem agdHeld_of (m : Memory) (a : Nat) : AgdHeld m a (agdOf (m.readBytes a 64)) := by
  have h (o n : Nat) (ho : o + n ≤ 64) : leAt (m.readBytes a 64) o n = m.readLE (a + o) n := m.leAt_readBytes ho
  refine ⟨?_, ?_, ?_, ?_, ?_, ?_, ?_, ?_, ?_, ?_, ?_, ?_, ?_, ?_, ?_, ?_, ?_, ?_, ?_, ?_, ?_, ?_, ?_⟩ <;>
    exact h _ _ (by decide)

/-- The descriptor at `a`, with its bias vector and what R162 reads beside it. -/
theorem ocdHeld_of (s : State) (a n osid : Nat) (strict : Bool) :
    OcdHeld s a n { ocdOf (s.mem.mem.readBytes a 32) osid strict s.stats.seed s.stats.step s.hid with
      bias := biasHeld s.mem.mem (s.mem.mem.readBytes a 32) n } := by
  have h (o k : Nat) (ho : o + k ≤ 32) : leAt (s.mem.mem.readBytes a 32) o k = s.mem.mem.readLE (a + o) k :=
    s.mem.mem.leAt_readBytes ho
  have hbase : leAt (s.mem.mem.readBytes a 32) 0 1 = s.mem.mem.readLE a 1 := h 0 1 (by decide)
  have hbias : ocdBias (s.mem.mem.readBytes a 32) = s.mem.mem.readLE (a + 8) 4 := h 8 4 (by decide)
  unfold OcdHeld
  dsimp only [ocdOf, biasHeld]
  rw [hbias, hbase, h 1 1 (by decide), h 2 1 (by decide), h 4 4 (by decide), h 12 4 (by decide), h 16 4 (by decide),
    h 20 2 (by decide), h 24 4 (by decide)]
  exact ⟨rfl, rfl, rfl, rfl, rfl, rfl, rfl, rfl, rfl, rfl, rfl, rfl, rfl, fun h0 => if_pos h0, fun h0 => if_neg h0, rfl, rfl, rfl⟩

/-! Array commands. -/

theorem warnWeights_eq (m : MatrixEngine) : m.warnWeights = { m with wempty := m.wempty || m.queueTags.1.1 == .none } := by
  unfold MatrixEngine.warnWeights
  split
  next h => rw [h, show (ClassTag.none == ClassTag.none) = true from rfl, Bool.or_true]
  next h => rw [beq_eq_false_iff_ne.mpr h, Bool.or_false]

theorem keepsStores_warnWeights : KeepsStores MatrixEngine.warnWeights := fun m => by
  rw [warnWeights_eq]; exact ⟨rfl, rfl, rfl, rfl, rfl, rfl, rfl⟩

/-- An array command that is taken after such reads is in flight; with no weights WEMPTY is set (R118). -/
theorem meStartArray_started (h : ReadFrom s v) (op : MeOp) : MeStarted s (meStartArray v e c op) e c op ∧
    ((meStartArray v e c op).me e.val).wempty = ((s.me e.val).wempty || (s.me e.val).queueTags.1.1 == .none) := by
  have hframe := (meStart v e c op MatrixEngine.warnWeights).raiseIf_frame ((v.me e.val).queueTags.1.1 == .none) (2 + e) 0x004 0
  obtain ⟨-, -, -, -, -, -, hcore, hengines, -, -, -, hmem, -⟩ := hframe
  have hstart : (meStart v e c op MatrixEngine.warnWeights).core = (s.take e c).core ∧
      (meStart v e c op MatrixEngine.warnWeights).engines = (s.onMe e fun m => m.warnWeights.start c op).engines ∧
      (meStart v e c op MatrixEngine.warnWeights).mem.mem = s.mem.mem := by
    rw [h]; exact ⟨rfl, rfl, rfl⟩
  obtain ⟨hcore', hengines', hmem'⟩ := hstart
  refine ⟨meStart_started keepsStores_warnWeights (hcore.trans hcore') (hengines.trans hengines')
    ((congrArg LocalMemory.mem hmem).trans hmem'), ?_⟩
  have hme := (State.me_of_engines (s := s.onMe e fun m => m.warnWeights.start c op) (hengines.trans hengines') e.val).trans
    (s.me_onMe_same e _)
  rw [meStartArray, hme, warnWeights_eq]
  rfl

/-! MM. -/

theorem exec_mm (e : Fin 4) (s : State) : exec (.mm e) s = .next (meTake s e 0x10 (takeMm s e)) := rfl

theorem takeMm_good {t : TileShape} (hverdict : (mmChecks (s.me e.val) c).verdict = none)
    (hshape : (s.me e.val).shape (fld 12 8 (c.reg 0)) = some t) :
    takeMm s e c = meStartArray s e c (.mm (mmOf c) (runClass (s.me e.val) t.ty) 0) := by
  have hshape' : (s.me e.val).shape (mmOf c).tile = some t := hshape
  simp only [takeMm, hverdict, hshape']

/-! MMS. -/

theorem exec_mms (e : Fin 4) (s : State) : exec (.mms e) s = .next (meTake s e 0x13 (takeMms s e)) := rfl

theorem peek_inLocal {a n : Nat} (h : a + n ≤ 0x200000) : peek s a n = s.mem.mem.readBytes a n :=
  if_pos (inLocal_iff.mpr h)

theorem mmsChecks_may {ad od : List Byte} (h : (mmsChecks s e c ad od).verdict = none) : s.may 0x51 .loc false = true := by
  unfold mmsChecks at h
  simpa using (Checks.passed h).2.2.2

/-- The MMS that `c` is, with its descriptors and bias vector. -/
def mmsOf (s : State) (c : QueueCmd) (ad od : List Byte) (n : Nat) : MmsCmd where
  accp := bit 35 (c.reg 0)
  spl := bit 34 (c.reg 0)
  strict := bit 33 (c.reg 0)
  trans := bit 32 (c.reg 0)
  count := fld 19 8 (c.reg 0)
  agd := agdOf ad
  ocd := { ocdOf od (fld 31 20 (c.reg 0)) (bit 33 (c.reg 0)) s.stats.seed s.stats.step s.hid with bias := biasHeld s.mem.mem od n }
  dst := fld 31 0 (c.reg 2)
  dstride := fld 63 32 (c.reg 2)
  psum := if c.regs.length = 4 then some (fld 31 0 (c.reg 3), fld 63 32 (c.reg 3)) else none

/-- An MMS that passes its checks reads its descriptors and its bias vector and is in flight (R125, R129, R162). -/
theorem takeMms_good {ad od : List Byte} {cls : ClassTag} (hsettled : (s.me e.val).memSettled = true) (hbad : s.mem.bad = [])
    (hagd : fld 31 0 (c.reg 1) + 64 ≤ 0x200000) (hocd : fld 63 32 (c.reg 1) + 32 ≤ 0x200000)
    (had : ad = s.mem.mem.readBytes (fld 31 0 (c.reg 1)) 64) (hod : od = s.mem.mem.readBytes (fld 63 32 (c.reg 1)) 32)
    (hverdict : (mmsChecks s e c ad od).verdict = none) (hcls : cls = runClass (s.me e.val) (agdOf ad).fmt) :
    ∃ v, ReadFrom s v ∧ takeMms s e c = meStartArray v e c (.mms (mmsOf s c ad od (cls.outs (bit 32 (c.reg 0)))) cls 0 0 0
      (digestHead e (fld 31 20 (c.reg 0)) (fld 19 8 (c.reg 0) + 1)) []) := by
  have hmay := mmsChecks_may hverdict
  have hread1 := (ReadFrom.refl s).counted (fld 31 0 (c.reg 1)) 64
  have hread2 := hread1.counted (fld 63 32 (c.reg 1)) 32
  obtain ⟨v, hv, hbias⟩ := hread2.readBias hmay hbad (Source.matrix e) od (cls.outs (bit 32 (c.reg 0)))
  refine ⟨v, hv, ?_⟩
  subst hcls
  simp only [takeMms, hsettled, Bool.not_true, Bool.false_eq_true, if_false, peek_inLocal hagd, peek_inLocal hocd, ← had, ← hod,
    hverdict, (ReadFrom.refl s).takeRead hmay hbad, hread1.takeRead hmay hbad, hbias]
  rw [hv]
  rfl

/-! ACVT. -/

theorem exec_acvt (e : Fin 4) (s : State) : exec (.acvt e) s = .next (meTake s e 0x14 (takeAcvt s e)) := rfl

/-- An ACVT behind writes that are under way reads its descriptor later (R123). -/
theorem takeAcvt_waits (h : (s.me e.val).memSettled = false) :
    takeAcvt s e c = meStart s e c (.acvtWait c.regs s.stats.seed s.stats.step s.hid) := by
  simp only [takeAcvt, h, Bool.not_false, if_true]

theorem acvtChecks_may {od : List Byte} (h : (acvtChecks s e c od).verdict = none) : s.may 0x51 .loc false = true := by
  unfold acvtChecks at h
  have hmay := (Checks.passed h).2.2.2
  rw [Bool.or_eq_false_iff] at hmay
  simpa using hmay.1

/-- An ACVT that passes its checks reads its descriptor and its bias vector and is in flight (R133, R162). -/
theorem takeAcvt_good {od : List Byte} (hsettled : (s.me e.val).memSettled = true) (hbad : s.mem.bad = [])
    (hocd : fld 31 0 (c.reg 1) + 32 ≤ 0x200000) (hod : od = s.mem.mem.readBytes (fld 31 0 (c.reg 1)) 32)
    (hverdict : (acvtChecks s e c od).verdict = none) :
    ∃ v, ReadFrom s v ∧ takeAcvt s e c = meStart v e c (.acvt
      (acvtOf c od (biasHeld s.mem.mem od (acvtOuts (bit 45 (c.reg 0)) (bit 44 (c.reg 0)))) s.stats.seed s.stats.step s.hid)
      0 none (digestHead e (fld 31 20 (c.reg 0)) (fld 19 15 (c.reg 0) + 1))) := by
  have hmay := acvtChecks_may hverdict
  have hread := (ReadFrom.refl s).counted (fld 31 0 (c.reg 1)) 32
  obtain ⟨v, hv, hbias⟩ := hread.readBias hmay hbad (Source.matrix e) od (acvtOuts (bit 45 (c.reg 0)) (bit 44 (c.reg 0)))
  refine ⟨v, hv, ?_⟩
  simp only [takeAcvt, acvtRead, hsettled, Bool.not_true, Bool.false_eq_true, if_false, peek_inLocal hocd, ← hod, hverdict,
    (ReadFrom.refl s).takeRead hmay hbad, hbias]
  rfl

/-- A command that is put in flight after such reads. -/
theorem meStart_started_read (h : ReadFrom s v) (op : MeOp) : MeStarted s (meStart v e c op) e c op := by
  refine meStart_started (g := id) keepsStores_id ?_ ?_ ?_ <;> rw [h] <;> rfl

/-- The first bytes of a command's digest (R388). -/
theorem digestHead_eq (e osid rows : Nat) :
    digestHead e osid rows = crc64 0#64 (BitVec.ofNat 8 e :: leBytes 2 osid ++ 0#8 :: leBytes 4 rows) := by
  rw [digestHead, List.append_assoc]; rfl

end

/-- Settles O19: each command's taking, with what it has read. -/
theorem arrayCommandsTaken : Obligations.ArrayCommandsTaken := by
  refine ⟨?mm, ?mms, ?acvt⟩
  case mm =>
    intro s e c t tag hready hverdict hshape htag
    subst htag
    obtain ⟨hstarted, hempty⟩ := meStartArray_started (e := e) (c := c) (ReadFrom.refl s)
      (.mm (mmOf c) (runClass (s.me e.val) t.ty) 0)
    rw [exec_mm, meTake_ready hready, takeMm_good hverdict hshape]
    exact ⟨_, rfl, hstarted, hempty⟩
  case mms =>
    intro s e c tag cls hready hsettled hbad hverdict hagd hocd htag hcls
    subst htag
    have hfmt : (agdOf (s.mem.mem.readBytes (fld 31 0 (c.reg 1)) 64)).fmt = s.mem.mem.readLE (fld 31 0 (c.reg 1) + 5) 1 :=
      s.mem.mem.leAt_readBytes (o := 5) (n := 1) (by decide)
    rw [← hfmt] at hcls
    obtain ⟨v, hv, htake⟩ := takeMms_good hsettled hbad hagd hocd rfl rfl hverdict hcls
    rw [digestHead_eq] at htake
    obtain ⟨hstarted, hempty⟩ := meStartArray_started (e := e) (c := c) hv (.mms (mmsOf s c
      (s.mem.mem.readBytes (fld 31 0 (c.reg 1)) 64) (s.mem.mem.readBytes (fld 63 32 (c.reg 1)) 32)
      (cls.outs (bit 32 (c.reg 0)))) cls 0 0 0 (crc64 0#64 (BitVec.ofNat 8 e.val :: leBytes 2 (fld 31 20 (c.reg 0)) ++ 0#8 ::
        leBytes 4 (fld 19 8 (c.reg 0) + 1))) [])
    rw [exec_mms, meTake_ready hready, htake]
    exact ⟨_, _, rfl, hstarted, agdHeld_of _ _, ocdHeld_of s _ _ _ _, rfl, rfl, rfl, rfl, rfl, rfl, rfl, rfl, rfl, rfl, hempty⟩
  case acvt =>
    intro s e c hready
    rw [exec_acvt, meTake_ready hready]
    constructor
    · intro hbusy
      rw [takeAcvt_waits hbusy]
      exact ⟨_, rfl, meStart_started_read (ReadFrom.refl s) _⟩
    · intro hsettled hbad hocd hverdict
      obtain ⟨v, hv, htake⟩ := takeAcvt_good hsettled hbad hocd rfl hverdict
      rw [digestHead_eq] at htake
      rw [htake]
      exact ⟨_, _, rfl, meStart_started_read hv _, ocdHeld_of s _ _ _ _, rfl, rfl, rfl, rfl, rfl, rfl, rfl, rfl, rfl, rfl, rfl,
        rfl, rfl⟩

end Sys2Proof.Machine
end

/-! Rows written at a stride, accumulator rows zeroed, and the digest folded (R134, R171, R389). -/

noncomputable section
namespace Sys2Proof.Machine

/-! Zeroed ranges. -/

/-- No byte is listed for address `a`. -/
def Memory.blank (m : Memory) (a : Nat) : Prop := ∀ p ∈ m, p.1 ≠ a

theorem Tbl.get_of_absent {α : Type} (d : α) (k : Nat) : ∀ {t : List (Nat × α)}, (∀ p ∈ t, p.1 ≠ k) → Tbl.get d t k = d
  | [], _ => rfl
  | (a, v) :: t, h => by
    have hne : k ≠ a := fun hk => h (a, v) List.mem_cons_self hk.symm
    have ih := Tbl.get_of_absent d k fun p hp => h p (List.mem_cons_of_mem _ hp)
    rw [Tbl.get, if_neg hne, ih, ite_self]

theorem Memory.blank.read {m : Memory} {a : Nat} (h : m.blank a) : m.read a = 0#8 := Tbl.get_of_absent _ _ h

theorem Memory.blank.zero {m : Memory} {a : Nat} (h : m.blank a) (b n : Nat) : (m.zero b n).blank a :=
  fun p hp => h p (List.mem_of_mem_filter hp)

theorem Memory.blank_zero (m : Memory) {a b n : Nat} (h : b ≤ a) (h2 : a < b + n) : (m.zero b n).blank a := by
  intro p hp heq
  have hkeep := (List.mem_filter.mp hp).2
  simp [heq, h, h2] at hkeep

/-! Rows at a stride. -/

/-- Rows written at a stride from place `k` on. -/
def Memory.writeRows (m : Memory) (dst stride : Nat) : List (List Byte) → Nat → Memory
  | [], _ => m
  | r :: rs, k => Memory.writeRows (m.writeBytes (dst + k * stride) r) dst stride rs (k + 1)

/-- One more byte, where there is one. -/
def Memory.writeExtra (m : Memory) : Option (Nat × Byte) → Memory
  | none => m
  | some p => m.writeBytes p.1 [p.2]

section
variable {m : Memory} {dst stride : Nat} {rows : List (List Byte)} {extra : Option (Nat × Byte)}

theorem Memory.wf_writeRows (h : m.wf = true) (k : Nat) : (m.writeRows dst stride rows k).wf = true := by
  induction rows generalizing m k with
  | nil => exact h
  | cons r rs ih => exact ih (Memory.wf_writeBytes _ _ _ h) (k + 1)

theorem Memory.wf_writeExtra (h : m.wf = true) (extra : Option (Nat × Byte)) : (m.writeExtra extra).wf = true := by
  cases extra with
  | none => exact h
  | some p => exact Memory.wf_writeBytes _ _ _ h

/-- A byte outside every row stays. -/
theorem Memory.read_writeRows_outside (h : m.wf = true) {a k : Nat}
    (ha : ∀ r row, rows[r]? = some row → a < dst + (k + r) * stride ∨ dst + (k + r) * stride + row.length ≤ a) :
    (m.writeRows dst stride rows k).read a = m.read a := by
  induction rows generalizing m k with
  | nil => rfl
  | cons q rs ih =>
    have hrest (r : Nat) (row : List Byte) (hr : rs[r]? = some row) := ha (r + 1) row hr
    simp only [← Nat.add_assoc, Nat.add_right_comm k _ 1] at hrest
    exact (ih (Memory.wf_writeBytes _ _ _ h) hrest).trans (Memory.read_writeBytes_outside _ _ _ _ h (ha 0 q rfl))

/-- Rows no longer than the stride are all there. -/
theorem Memory.read_writeRows_inside (h : m.wf = true) (hlen : ∀ (r : Nat) (row : List Byte), rows[r]? = some row → row.length ≤ stride) {k r j : Nat}
    {row : List Byte} (hr : rows[r]? = some row) (hj : j < row.length) :
    (m.writeRows dst stride rows k).read (dst + (k + r) * stride + j) = row.getD j 0#8 := by
  induction rows generalizing m k r with
  | nil => simp at hr
  | cons q rs ih =>
    have hlen' (i : Nat) (row : List Byte) (hi : rs[i]? = some row) := hlen (i + 1) row hi
    cases r with
    | zero =>
      obtain rfl : q = row := by simpa using hr
      have hq := hlen 0 q rfl
      have hfirst := Memory.read_writeBytes_inside m (dst + k * stride) q j h hj
      rw [← List.getD_eq_getElem _ 0#8 hj] at hfirst
      refine (Memory.read_writeRows_outside (Memory.wf_writeBytes _ _ _ h) fun i row _ => .inl ?_).trans hfirst
      have hstride : stride ≤ (i + 1) * stride := Nat.le_mul_of_pos_left stride (Nat.succ_pos i)
      rw [Nat.add_zero, show (k + 1 + i) * stride = k * stride + (i + 1) * stride by ring]
      omega
    | succ r =>
      have := ih (m := m.writeBytes (dst + k * stride) q) (Memory.wf_writeBytes _ _ _ h) hlen' (k := k + 1) (r := r) hr
      rwa [show k + 1 + r = k + (r + 1) by omega] at this

theorem Memory.read_writeExtra_ne (h : m.wf = true) {a : Nat} (ha : ∀ p, extra = some p → a ≠ p.1) :
    (m.writeExtra extra).read a = m.read a := by
  cases extra with
  | none => rfl
  | some p =>
    have hne := ha p rfl
    exact Memory.read_writeBytes_outside _ _ _ _ h (by simp only [List.length_singleton]; omega)

theorem Memory.read_writeExtra_same (h : m.wf = true) {p : Nat × Byte} (hp : extra = some p) :
    (m.writeExtra extra).read p.1 = p.2 := by
  subst hp
  exact Memory.read_writeBytes_inside m p.1 [p.2] 0 h (by simp)

/-- One row alone. -/
theorem rowsWritten_single {u : Memory} {bs : List Byte} (hin : ∀ j < bs.length, u.read (dst + j) = bs.getD j 0#8)
    (hout : ∀ a, a < dst ∨ dst + bs.length ≤ a → u.read a = m.read a) : RowsWritten m u dst 0 [bs] none := by
  refine ⟨fun r row hr j hj => ?_, fun p hp => absurd hp (by simp), fun a ha _ => hout a (ha 0 bs rfl)⟩
  obtain ⟨hlt, rfl⟩ := List.getElem?_eq_some_iff.mp hr
  obtain rfl : r = 0 := Nat.lt_one_iff.mp hlt
  exact hin j hj

/-- The byte of `extra` first, then the rows, none of them over it. -/
theorem rowsWritten_extraFirst (h : m.wf = true) {k : Nat} (hapart : RowsApart (dst + k * stride) stride rows extra) :
    RowsWritten m ((m.writeExtra extra).writeRows dst stride rows k) (dst + k * stride) stride rows extra := by
  have hwf := Memory.wf_writeExtra h extra
  have haddr (r : Nat) : dst + k * stride + r * stride = dst + (k + r) * stride := by ring
  refine ⟨fun r row hr j hj => ?_, fun p hp => ?_, fun a ha hne => ?_⟩
  · rw [haddr]
    exact Memory.read_writeRows_inside hwf (fun i q hi => (hapart i q hi).1) hr hj
  · rw [Memory.read_writeRows_outside hwf fun r row hr => haddr r ▸ (hapart r row hr).2 p hp]
    exact Memory.read_writeExtra_same h hp
  · rw [Memory.read_writeRows_outside hwf fun r row hr => haddr r ▸ ha r row hr]
    exact Memory.read_writeExtra_ne h hne

/-- The rows first, then the byte of `extra`, which lies in none of them. -/
theorem rowsWritten_extraLast (h : m.wf = true) {k : Nat} (hapart : RowsApart (dst + k * stride) stride rows extra) :
    RowsWritten m ((m.writeRows dst stride rows k).writeExtra extra) (dst + k * stride) stride rows extra := by
  have hwf := Memory.wf_writeRows (dst := dst) (stride := stride) (rows := rows) h k
  have haddr (r : Nat) : dst + k * stride + r * stride = dst + (k + r) * stride := by ring
  refine ⟨fun r row hr j hj => ?_, fun p hp => Memory.read_writeExtra_same hwf hp, fun a ha hne => ?_⟩
  · rw [Memory.read_writeExtra_ne hwf fun p hp heq => ?_, haddr]
    · exact Memory.read_writeRows_inside h (fun i q hi => (hapart i q hi).1) hr hj
    · have := (hapart r row hr).2 p hp
      omega
  · rw [Memory.read_writeExtra_ne hwf hne]
    exact Memory.read_writeRows_outside h fun r row hr => haddr r ▸ ha r row hr

end

/-! Digests. -/

theorem crc64_append (c : DWord) (a b : List Byte) : crc64 c (a ++ b) = crc64 (crc64 c a) b := List.foldl_append

/-- The digest of a group: its rows, then the attempt (R388). -/
theorem crcGroup_eq (crc : DWord) (rows : List (List Byte)) (h : Nat) :
    crcGroup crc rows h = crc64 crc (rows.flatten ++ [BitVec.ofNat 8 h]) := by
  rw [crcGroup, crc64_append, crc64, crc64, crc64, List.foldl_flatten]
  rfl

section
variable {s : State} {e osid : Nat} {digest : DWord} {seq : Word}

theorem State.foldDigest_tables : (s.foldDigest e osid digest seq).digests.val =
      Tbl.set 0#64 s.digests.val (osid % 64) (Tbl.get 0#64 s.digests.val (osid % 64) + digest) ∧
    (s.foldDigest e osid digest seq).digests.cnt =
      Tbl.set 0#32 s.digests.cnt (osid % 64) (Tbl.get 0#32 s.digests.cnt (osid % 64) + 1#32) := by
  unfold State.foldDigest
  dsimp only
  split
  · split
    · rw [(State.raiseIf_frame ..).2.2.2.2.2.2.2.2.2.2.1]; exact ⟨rfl, rfl⟩
    · exact ⟨rfl, rfl⟩
  · exact ⟨rfl, rfl⟩

theorem State.foldDigest_folded (hval : Tbl.wf 0#64 s.digests.val = true) (hcnt : Tbl.wf 0#32 s.digests.cnt = true) :
    Folded s.digests (s.foldDigest e osid digest seq).digests osid digest := by
  obtain ⟨hv, hc⟩ := State.foldDigest_tables (s := s) (e := e) (osid := osid) (digest := digest) (seq := seq)
  unfold Folded
  rw [hv, hc]
  exact ⟨Tbl.get_set_same _ _ _ _ hval, Tbl.get_set_same _ _ _ _ hcnt,
    fun k hk => ⟨Tbl.get_set_ne _ _ _ _ _ hval hk, Tbl.get_set_ne _ _ _ _ _ hcnt hk⟩⟩

/-- With the log off a digest is folded without a write (R392). -/
theorem State.foldDigest_mem (hlog : s.digests.log = false) : (s.foldDigest e osid digest seq).mem = s.mem := by
  unfold State.foldDigest
  simp [hlog]

end

end Sys2Proof.Machine
end

/-! The check of a converted group (R126, R134, R171, R388). -/

noncomputable section
namespace Sys2Proof.Machine

section
variable {s w : State} {e : Fin 4}

/-! What a written group changes. -/

/-- `w` has the queues, the engines and the digests of `s`. -/
def EnginesKept (s w : State) : Prop := w.core = s.core ∧ w.engines = s.engines ∧ w.digests = s.digests

theorem EnginesKept.trans {v : State} (h : EnginesKept s v) (h' : EnginesKept v w) : EnginesKept s w := by
  obtain ⟨hc, he, hd⟩ := h
  obtain ⟨hc', he', hd'⟩ := h'
  exact ⟨hc'.trans hc, he'.trans he, hd'.trans hd⟩

theorem writeRows_keeps (s : State) (dst stride : Nat) (rows : List (List Byte)) (k : Nat) :
    EnginesKept s (writeRows s dst stride rows k) ∧ (writeRows s dst stride rows k).stats = s.stats ∧
      (writeRows s dst stride rows k).mem.mem = s.mem.mem.writeRows dst stride rows k := by
  induction rows generalizing s k with
  | nil => exact ⟨⟨rfl, rfl, rfl⟩, rfl, rfl⟩
  | cons r rs ih =>
    obtain ⟨⟨hcore, hengines, hdigests⟩, hstats, hmem⟩ := ih (s.lwrite (dst + k * stride) r) (k + 1)
    exact ⟨⟨hcore, hengines, hdigests⟩, hstats, hmem⟩

/-- The byte that an attempt leaves at ADJ for group `g`, unless the type is MX or ADJ is 0 (R171). -/
def adjByte (o : OcdCmd) (g h : Nat) : Option (Nat × Byte) :=
  if o.adj = 0 ∨ (6 ≤ o.otype ∧ o.otype ≤ 8) then none else some (o.adj + g, BitVec.ofNat 8 h)

theorem adjusts_iff (o : OcdCmd) : o.adjusts = true ↔ ¬ (o.adj = 0 ∨ (6 ≤ o.otype ∧ o.otype ≤ 8)) := by
  simp only [OcdCmd.adjusts, isMx, Bool.and_eq_true, Bool.not_eq_true', Bool.and_eq_false_iff, decide_eq_false_iff_not, bne_iff_ne]
  omega

theorem adjWrite_keeps (s : State) (o : OcdCmd) (g h : Nat) :
    EnginesKept s (adjWrite s o g h) ∧ (adjWrite s o g h).stats = s.stats ∧
      (adjWrite s o g h).mem.mem = s.mem.mem.writeExtra (adjByte o g h) := by
  unfold adjWrite adjByte
  by_cases ho : o.adjusts = true
  · rw [if_pos ho, if_neg ((adjusts_iff o).mp ho)]
    exact ⟨⟨rfl, rfl, rfl⟩, rfl, rfl⟩
  · rw [if_neg ho, if_pos (not_not.mp (mt (adjusts_iff o).mpr ho))]
    exact ⟨⟨rfl, rfl, rfl⟩, rfl, rfl⟩

theorem groupStats_keeps (s : State) (o : OcdCmd) (c : Counts) (h : Nat) :
    EnginesKept s (groupStats s o c h) ∧ (groupStats s o c h).stats = s.stats.group o.tsen o.tset c h (decide (o.sthr < c.sat)) ∧
      (groupStats s o c h).mem = s.mem := by
  unfold groupStats EnginesKept
  simp

theorem meFold_keeps (s : State) (e : Fin 4) (osid : Nat) (crc : DWord) (x : InFlight) :
    (meFold s e osid crc x).core = s.core ∧ (meFold s e osid crc x).engines = s.engines ∧
      (meFold s e osid crc x).stats = s.stats := by
  unfold meFold; simp

/-- A command that folds its digest and completes (R389). -/
theorem folded_completed {x y : InFlight} {rest : List InFlight} {osid : Nat} {crc : DWord} (hold : x.old = false)
    (hhead : (w.me e.val).inflight = y :: rest) (hval : Tbl.wf 0#64 w.digests.val = true)
    (hcnt : Tbl.wf 0#32 w.digests.cnt = true) : let u := meComplete (meFold w e osid crc x) e 0 x
    u.me e.val = { w.me e.val with inflight := rest } ∧ QueueCompleted w u e.val x.seq ∧ u.stats = w.stats ∧
      Folded w.digests u.digests osid crc ∧ (w.digests.log = false → u.mem = w.mem) := by
  obtain ⟨hcore, hengines, hstats⟩ := meFold_keeps w e osid crc x
  have hfold : Folded w.digests (meFold w e osid crc x).digests osid crc := State.foldDigest_folded hval hcnt
  have hmem : w.digests.log = false → (meFold w e osid crc x).mem = w.mem := State.foldDigest_mem
  obtain ⟨v, hv⟩ : ∃ v, v = meFold w e osid crc x := ⟨_, rfl⟩
  rw [← hv] at hcore hengines hstats hfold hmem ⊢
  obtain ⟨humem, hustats, hudigests⟩ := meComplete_units v e 0 x
  have hme := (meComplete_me (s := v) (e := e) (i := 0) (x := x) hold).1
  rw [State.me_of_engines hengines, MatrixEngine.dropOp_head hhead] at hme
  exact ⟨hme, (meComplete_queue hold).of_core hcore, hustats.trans hstats, hudigests ▸ hfold,
    fun hlog => humem.trans (hmem hlog)⟩

/-! ACVT. -/

section
variable {x : InFlight} {rest : List InFlight} {c : AcvtCmd} {h : Nat} {crc : DWord} {out : List (List Byte)} {counts : Counts}

theorem retries_iff {o : OcdCmd} : retries o counts h = true ↔ o.sthr < counts.sat ∧ h < o.retry := by
  simp [retries]

/-- CLR zeroes the rows that were read (R134). -/
def MatrixEngine.clearRead (c : AcvtCmd) (m : MatrixEngine) : MatrixEngine :=
  if c.clr then
    let m := m.zeroAcc c.acc c.arow (c.count + 1)
    if c.wide then m.zeroAcc (c.acc + 1) c.arow (c.count + 1) else m
  else m

theorem MatrixEngine.clearRead_keeps (c : AcvtCmd) (m : MatrixEngine) :
    m.clearRead c = { m with acc := (m.clearRead c).acc } := by
  unfold MatrixEngine.clearRead
  (repeat' split) <;> rfl

theorem MatrixEngine.clearRead_acc {c : AcvtCmd} (hclr : c.clr = true) (m : MatrixEngine) {r k : Nat} (hr : c.arow ≤ r)
    (hr' : r ≤ c.arow + c.count) (hk : k < 128) : (m.clearRead c).acc.read (4096 * c.acc + 128 * r + k) = 0#8 ∧
      (c.wide = true → (m.clearRead c).acc.read (4096 * (c.acc + 1) + 128 * r + k) = 0#8) := by
  have hblank (m : Memory) (a : Nat) :
      (m.zero (accAddr a c.arow) (128 * (c.count + 1))).blank (4096 * a + 128 * r + k) :=
    m.blank_zero (by unfold accAddr; omega) (by unfold accAddr; omega)
  unfold MatrixEngine.clearRead
  rw [if_pos hclr]
  cases c.wide with
  | false => exact ⟨(hblank m.acc c.acc).read, fun hw => absurd hw Bool.false_ne_true⟩
  | true => exact ⟨((hblank m.acc c.acc).zero _ _).read, fun _ => (hblank _ (c.acc + 1)).read⟩

/-- The state after the group's rows have been read and the attempt has been counted (R134, R171, R172). -/
def acvtGroup (s : State) (e : Fin 4) (c : AcvtCmd) (h : Nat) (counts : Counts) : State :=
  groupStats (adjWrite (s.onMe e fun m => m.clearRead c) c.ocd 0 h) c.ocd counts h

theorem acvtGroup_keeps (s : State) (e : Fin 4) (c : AcvtCmd) (h : Nat) (counts : Counts) :
    EnginesKept (s.onMe e fun m => m.clearRead c) (acvtGroup s e c h counts) ∧
      (acvtGroup s e c h counts).stats = s.stats.group c.ocd.tsen c.ocd.tset counts h (decide (c.ocd.sthr < counts.sat)) ∧
      (acvtGroup s e c h counts).mem.mem = s.mem.mem.writeExtra (adjByte c.ocd 0 h) := by
  obtain ⟨hadj, hstats, hmem⟩ := adjWrite_keeps (s.onMe e fun m => m.clearRead c) c.ocd 0 h
  obtain ⟨hgroup, hstats', hmem'⟩ := groupStats_keeps (adjWrite (s.onMe e fun m => m.clearRead c) c.ocd 0 h) c.ocd counts h
  rw [hstats] at hstats'
  exact ⟨hadj.trans hgroup, hstats', (congrArg LocalMemory.mem hmem').trans hmem⟩

section
variable (hconv : convertGroup c.ocd h 0 ((List.range (c.count + 1)).map fun r =>
  (s.me e.val).getOutputs (if c.f64 then .fp64 else .fp32) c.acc (c.arow + r) c.wide) = (out, counts))
include hconv

theorem acvtCheck_retries (hretry : retries c.ocd counts h = true) :
    acvtCheck s e 0 x c h crc = s.onMe e fun m => m.setOp 0 (.acvt c (h + 1) none crc) := by
  simp only [acvtCheck, hconv, hretry, if_true]

theorem acvtCheck_writes (hretry : retries c.ocd counts h = false) :
    acvtCheck s e 0 x c h crc = if c.toTile then
        (acvtGroup s e c h counts).onMe e fun m => m.setOp 0 (.acvt c h (some (out, c.drow)) (crcGroup crc out h))
      else meComplete (meFold (writeRows (acvtGroup s e c h counts) c.dst c.dstride out 0) e c.ocd.osid (crcGroup crc out h) x)
        e 0 x := by
  simp only [acvtCheck, hconv, hretry, Bool.false_eq_true, if_false]
  rfl

end
theorem acvtGroup_me (s : State) (e : Fin 4) (c : AcvtCmd) (h : Nat) (counts : Counts) :
    (acvtGroup s e c h counts).me e.val = (s.me e.val).clearRead c := by
  obtain ⟨⟨-, hengines, -⟩, -⟩ := acvtGroup_keeps s e c h counts
  exact (State.me_of_engines hengines _).trans (s.me_onMe_same e _)

/-- A converted group for local memory: its rows and its byte are written, its digest is folded, and the command completes. -/
theorem acvt_to_memory (hold : x.old = false) (hhead : (s.me e.val).inflight = x :: rest)
    (hval : Tbl.wf 0#64 s.digests.val = true) (hcnt : Tbl.wf 0#32 s.digests.cnt = true) (hwf : Memory.wf s.mem.mem = true) :
    let u := meComplete (meFold (writeRows (acvtGroup s e c h counts) c.dst c.dstride out 0) e c.ocd.osid crc x) e 0 x
    u.me e.val = { (s.me e.val).clearRead c with inflight := rest } ∧ QueueCompleted s u e.val x.seq ∧
      u.stats = s.stats.group c.ocd.tsen c.ocd.tset counts h (decide (c.ocd.sthr < counts.sat)) ∧
      Folded s.digests u.digests c.ocd.osid crc ∧
      (s.digests.log = false → RowsApart c.dst c.dstride out (adjByte c.ocd 0 h) →
        RowsWritten s.mem.mem u.mem.mem c.dst c.dstride out (adjByte c.ocd 0 h)) := by
  obtain ⟨hgroup, hgstats, hgmem⟩ := acvtGroup_keeps s e c h counts
  obtain ⟨hrows, hrstats, hrmem⟩ := writeRows_keeps (acvtGroup s e c h counts) c.dst c.dstride out 0
  have hgme := acvtGroup_me s e c h counts
  obtain ⟨v, hv⟩ : ∃ v, v = writeRows (acvtGroup s e c h counts) c.dst c.dstride out 0 := ⟨_, rfl⟩
  rw [← hv] at hrows hrstats hrmem ⊢
  obtain ⟨hcore, hengines, hdigests⟩ := hgroup.trans hrows
  have hvme : v.me e.val = (s.me e.val).clearRead c := (State.me_of_engines hrows.2.1 _).trans hgme
  have hvhead : (v.me e.val).inflight = x :: rest := by
    rw [hvme, MatrixEngine.clearRead_keeps]; exact hhead
  have hvdigests : v.digests = s.digests := hdigests
  obtain ⟨hme, hqueue, hstats, hfold, hmem⟩ := folded_completed (osid := c.ocd.osid) (crc := crc) hold hvhead
    (hvdigests ▸ hval) (hvdigests ▸ hcnt)
  rw [hvdigests] at hfold hmem
  refine ⟨hvme ▸ hme, hqueue.of_core hcore, hstats.trans (hrstats.trans hgstats), hfold, fun hlog hapart => ?_⟩
  have hwritten := rowsWritten_extraFirst (k := 0) (dst := c.dst) hwf
    (by rwa [Nat.zero_mul, Nat.add_zero] : RowsApart (c.dst + 0 * c.dstride) c.dstride out (adjByte c.ocd 0 h))
  rw [Nat.zero_mul, Nat.add_zero] at hwritten
  rw [congrArg LocalMemory.mem (hmem hlog), hrmem, hgmem]
  exact hwritten

/-- A converted group for a tile: the rows stay in the engine until the tile takes them (R134). -/
theorem acvt_to_tile (hhead : (s.me e.val).inflight = x :: rest) (hwf : Memory.wf s.mem.mem = true) (op : MeOp) :
    let u := (acvtGroup s e c h counts).onMe e fun m => m.setOp 0 op
    u.me e.val = { (s.me e.val).clearRead c with inflight := { x with op := op } :: rest } ∧ u.core = s.core ∧
      u.stats = s.stats.group c.ocd.tsen c.ocd.tset counts h (decide (c.ocd.sthr < counts.sat)) ∧ u.digests = s.digests ∧
      RowsWritten s.mem.mem u.mem.mem 0 0 [] (adjByte c.ocd 0 h) := by
  obtain ⟨⟨hcore, -, hdigests⟩, hstats, hmem⟩ := acvtGroup_keeps s e c h counts
  have hgme := acvtGroup_me s e c h counts
  have hkept : ((s.me e.val).clearRead c).inflight = x :: rest := by rw [MatrixEngine.clearRead_keeps]; exact hhead
  have hwritten := rowsWritten_extraFirst (dst := 0) (stride := 0) (rows := []) (extra := adjByte c.ocd 0 h) (k := 0) hwf
    (fun r row hr => absurd hr (by simp))
  obtain ⟨v, hv⟩ : ∃ v, v = acvtGroup s e c h counts := ⟨_, rfl⟩
  rw [← hv] at hcore hdigests hstats hmem hgme ⊢
  refine ⟨?_, hcore, hstats, hdigests, ?_⟩
  · rw [State.me_onMe_same, hgme, MatrixEngine.setOp_head hkept]
  · rw [show (v.onMe e fun m => m.setOp 0 op).mem.mem = v.mem.mem from rfl, hmem]
    exact hwritten

end

end
end Sys2Proof.Machine
end

/-! Groups of an MMS, and converted rows on their way to a tile (R80, R126, R134, R171, R389). -/

noncomputable section
namespace Sys2Proof.Machine

section
variable {s w : State} {e : Fin 4} {seq : Word} {opc : Byte} {rest : List InFlight}

theorem exec_saturationCheck_acvt {c : AcvtCmd} {h : Nat} {crc : DWord} (hrun : s.inRun = true)
    (hhead : (s.me e.val).inflight = ⟨seq, opc, .acvt c h none crc, false⟩ :: rest) :
    exec (.saturationCheck e) s = .next (acvtCheck s e 0 ⟨seq, opc, .acvt c h none crc, false⟩ c h crc) :=
  congrArg Host.Outcome.next (meRun_head hrun hhead rfl _)

theorem exec_tileRowWriteComplete_acvt {c : AcvtCmd} {h row : Nat} {crc : DWord} {rows : List (List Byte)}
    (hrun : s.inRun = true) (hhead : (s.me e.val).inflight = ⟨seq, opc, .acvt c h (some (rows, row)) crc, false⟩ :: rest) :
    exec (.tileRowWriteComplete e) s =
      .next (acvtRow s e 0 ⟨seq, opc, .acvt c h (some (rows, row)) crc, false⟩ c h rows row crc) :=
  congrArg Host.Outcome.next (meRun_head hrun hhead rfl _)

section
variable {c : MmsCmd} {cls : ClassTag} {done g h : Nat} {crc : DWord} {ahead : List (List FVal)}

theorem exec_saturationCheck_mms (hrun : s.inRun = true)
    (hhead : (s.me e.val).inflight = ⟨seq, opc, .mms c cls done g h crc ahead, false⟩ :: rest)
    (hstaged : 32 * g + mmsGroupRows c g ≤ done) : exec (.saturationCheck e) s =
      .next (mmsCheck s e 0 ⟨seq, opc, .mms c cls done g h crc ahead, false⟩ c cls done g h crc ahead) :=
  congrArg Host.Outcome.next (meRun_head hrun hhead (decide_eq_true hstaged) _)

/-! The check of an MMS's group. -/

theorem streamWriteBad_none {a n : Nat} (hin : a + n ≤ 0x200000) (hmay : s.may 0x51 .loc true = true) :
    streamWriteBad s a n = none := by
  simp only [streamWriteBad, inLocal_iff.mpr hin, hmay, Bool.not_true, Bool.false_eq_true, if_false]

theorem rowsBad_none {dst stride k : Nat} {rows : List (List Byte)} (hmay : s.may 0x51 .loc true = true)
    (hin : ∀ r row, rows[r]? = some row → dst + (k + r) * stride + row.length ≤ 0x200000) :
    rowsBad s dst stride rows k = none := by
  rw [rowsBad, List.findSome?_eq_none_iff]
  intro p hp
  obtain ⟨r, hr⟩ := List.mem_iff_getElem?.mp hp
  obtain ⟨hrow, hrange⟩ := List.getElem?_zip_eq_some.mp hr
  obtain ⟨_, hrr⟩ := List.getElem?_eq_some_iff.mp hrange
  rw [List.getElem_range] at hrr
  rw [← hrr]
  exact streamWriteBad_none (hin r p.1 hrow) hmay

/-- The group that is written: its rows, its byte and its counts (R126, R171, R172). -/
def mmsGroup (s : State) (c : MmsCmd) (g h : Nat) (out : List (List Byte)) (counts : Counts) : State :=
  groupStats (adjWrite (writeRows s c.dst c.dstride out (32 * g)) c.ocd g h) c.ocd counts h

theorem mmsGroup_keeps (s : State) (c : MmsCmd) (g h : Nat) (out : List (List Byte)) (counts : Counts) :
    EnginesKept s (mmsGroup s c g h out counts) ∧
      (mmsGroup s c g h out counts).stats = s.stats.group c.ocd.tsen c.ocd.tset counts h (decide (c.ocd.sthr < counts.sat)) ∧
      (mmsGroup s c g h out counts).mem.mem =
        (s.mem.mem.writeRows c.dst c.dstride out (32 * g)).writeExtra (adjByte c.ocd g h) := by
  obtain ⟨hrows, hrstats, hrmem⟩ := writeRows_keeps s c.dst c.dstride out (32 * g)
  obtain ⟨hadj, hastats, hamem⟩ := adjWrite_keeps (writeRows s c.dst c.dstride out (32 * g)) c.ocd g h
  obtain ⟨hgroup, hgstats, hgmem⟩ :=
    groupStats_keeps (adjWrite (writeRows s c.dst c.dstride out (32 * g)) c.ocd g h) c.ocd counts h
  rw [hastats, hrstats] at hgstats
  rw [hrmem] at hamem
  exact ⟨(hrows.trans hadj).trans hgroup, hgstats, (congrArg LocalMemory.mem hgmem).trans hamem⟩

section
variable {x : InFlight} {out : List (List Byte)} {counts : Counts}
variable (hconv : convertGroup c.ocd h (32 * g) ((List.range (mmsGroupRows c g)).map fun r =>
  (s.me e.val).getOutputs cls.accFmt (mmsStage c cls g) r (c.trans && cls.narrow)) = (out, counts))
include hconv

theorem mmsCheck_retries (hretry : retries c.ocd counts h = true) : mmsCheck s e 0 x c cls done g h crc ahead =
    s.onMe e fun m => m.setOp 0 (.mms c cls done g (h + 1) crc ahead) := by
  simp only [mmsCheck, hconv, hretry, if_true]

theorem mmsCheck_writes (hretry : retries c.ocd counts h = false) (hmay : s.may 0x51 .loc true = true)
    (hin : ∀ r row, out[r]? = some row → c.dst + (32 * g + r) * c.dstride + row.length ≤ 0x200000)
    (hadj : ∀ p, adjByte c.ocd g h = some p → p.1 < 0x200000) : mmsCheck s e 0 x c cls done g h crc ahead =
      if c.count < 32 * (g + 1) then meComplete (meFold (mmsGroup s c g h out counts) e c.ocd.osid (crcGroup crc out h) x) e 0 x
      else (mmsGroup s c g h out counts).onMe e fun m =>
        m.setOp 0 (.mms c cls done (g + 1) 0 (crcGroup crc out h) ahead) := by
  have hadj' : (if c.ocd.adjusts then streamWriteBad s (c.ocd.adj + g) 1 else none) = none := by
    split
    next ha =>
      have hp : adjByte c.ocd g h = some (c.ocd.adj + g, BitVec.ofNat 8 h) := if_neg ((adjusts_iff c.ocd).mp ha)
      exact streamWriteBad_none (hadj _ hp) hmay
    next => rfl
  simp only [mmsCheck, hconv, hretry, Bool.false_eq_true, if_false, rowsBad_none hmay hin, hadj', Option.orElse_none]
  rfl

end
end

/-! Converted rows on their way to a tile. -/

section
variable {c : AcvtCmd} {h row : Nat} {crc : DWord} {bs : List Byte} {rows : List (List Byte)} {t : TileShape} {x : InFlight}

/-- The next converted row is written; with the last one the digest is folded and the command completes (R134). -/
theorem acvtRow_next (hshape : (s.me e.val).shape c.dtile = some t) : acvtRow s e 0 x c h (bs :: rows) row crc =
    let v := s.onMe e fun m => (m.writeRow t c.dtile row bs).setOp 0 (.acvt c h (some (rows, row + 1)) crc)
    if rows.isEmpty then meComplete (meFold v e c.ocd.osid crc x) e 0 x else v := by
  simp only [acvtRow, hshape]

end

end

/-- Settles O21: the check of an ACVT's rows, the rows written to a tile, and the check of an MMS's group. -/
theorem conversionWritesGroup : Obligations.ConversionWritesGroup := by
  refine ⟨?acvt, ?tile, ?mms⟩
  case acvt =>
    intro s e seq opc c h crc crc' rest out counts extra hrun hhead hconv hextra hcrc hval hcnt hwf
    rw [exec_saturationCheck_acvt hrun hhead]
    constructor
    · intro hsat hleft
      rw [acvtCheck_retries hconv (retries_iff.mpr ⟨hsat, hleft⟩)]
      exact ⟨_, rfl, (s.me_onMe_same e _).trans (MatrixEngine.setOp_head hhead _), fun j hj => s.me_onMe_ne hj _, rfl⟩
    · intro hdone
      have hretry : retries c.ocd counts h = false := by
        rw [← Bool.not_eq_true, retries_iff]; omega
      rw [acvtCheck_writes hconv hretry, crcGroup_eq, ← hcrc]
      obtain ⟨m, hm⟩ : ∃ m, m = (s.me e.val).clearRead c := ⟨_, rfl⟩
      have hkeep : c.clr = false → m.acc = (s.me e.val).acc := fun hclr => by
        rw [hm, MatrixEngine.clearRead, hclr, if_neg Bool.false_ne_true]
      have hclear (hclr : c.clr = true) (r : Nat) (hr : c.arow ≤ r) (hr' : r ≤ c.arow + c.count) (k : Nat) (hk : k < 128) :=
        (s.me e.val).clearRead_acc hclr hr hr' hk
      have hpool : m.pool = (s.me e.val).pool := by rw [hm, MatrixEngine.clearRead_keeps]
      rw [← hm] at hclear
      cases htile : c.toTile with
      | false =>
        obtain ⟨hme, hqueue, hstats, hfold, hwritten⟩ := acvt_to_memory (c := c) (h := h) (crc := crc') (out := out)
          (counts := counts) (x := ⟨seq, opc, .acvt c h none crc, false⟩) rfl hhead hval hcnt hwf
        rw [← hm] at hme
        have hextra' : extra = adjByte c.ocd 0 h := hextra
        rw [← hextra'] at hwritten
        rw [if_neg Bool.false_ne_true]
        refine ⟨_, rfl, hstats, ?_⟩
        rw [hme]
        exact ⟨hkeep, hclear, fun _ => ⟨rfl, hqueue, hfold, hwritten⟩, fun h => absurd h Bool.false_ne_true⟩
      | true =>
        obtain ⟨hme, hcore, hstats, hdigests, hwritten⟩ := acvt_to_tile (c := c) (h := h) (counts := counts) hhead hwf
          (.acvt c h (some (out, c.drow)) crc')
        rw [← hm] at hme
        have hextra' : extra = adjByte c.ocd 0 h := hextra
        rw [← hextra'] at hwritten
        rw [if_pos rfl]
        refine ⟨_, rfl, hstats, ?_⟩
        rw [hme]
        exact ⟨hkeep, hclear, fun h => absurd h.symm Bool.false_ne_true, fun _ => ⟨rfl, hpool, hcore, hdigests, hwritten⟩⟩
  case tile =>
    intro s e seq opc c h row crc rest bs rows t hrun hhead hshape hlen htile hrow hwf hval hcnt
    obtain ⟨v, hv⟩ : ∃ v, v =
      s.onMe e fun m => (m.writeRow t c.dtile row bs).setOp 0 (.acvt c h (some (rows, row + 1)) crc) := ⟨_, rfl⟩
    obtain ⟨x, hx⟩ : ∃ x : InFlight, x = ⟨seq, opc, .acvt c h (some (rows, row + 1)) crc, false⟩ := ⟨_, rfl⟩
    obtain ⟨hin, hout, hvalid, hinvalid⟩ := MatrixEngine.writeRow_written (m := s.me e.val) (t := t) (tile := c.dtile)
      (row := row) hlen htile hrow hwf
    have hvme : v.me e.val = { (s.me e.val).writeRow t c.dtile row bs with inflight := x :: rest } := by
      rw [hv, hx, State.me_onMe_same]
      exact MatrixEngine.setOp_head (m := (s.me e.val).writeRow t c.dtile row bs) hhead _
    have hwritten : RowsWritten (s.me e.val).pool ((s.me e.val).writeRow t c.dtile row bs).pool (t.base + row * t.stride) 0 [bs]
        none := rowsWritten_single (hlen ▸ hin) (hlen ▸ hout)
    rw [exec_tileRowWriteComplete_acvt hrun hhead, acvtRow_next hshape, ← hv]
    cases rows with
    | cons q qs =>
      refine ⟨v, rfl, ?_⟩
      rw [hvme]
      exact ⟨hwritten, hvalid, hinvalid, fun _ => ⟨by rw [hx], by rw [hv]; rfl, by rw [hv]; rfl⟩, fun h => absurd h (by simp)⟩
    | nil =>
      have hdigests : v.digests = s.digests := by rw [hv]; rfl
      obtain ⟨hme, hqueue, -, hfold, -⟩ := folded_completed (x := ⟨seq, opc, .acvt c h (some ([bs], row)) crc, false⟩)
        (osid := c.ocd.osid) (crc := crc) rfl (congrArg MatrixEngine.inflight hvme) (hdigests ▸ hval) (hdigests ▸ hcnt)
      rw [hvme] at hme
      rw [hdigests] at hfold
      refine ⟨_, rfl, ?_⟩
      rw [if_pos (show List.isEmpty [] = true from rfl), hme]
      exact ⟨hwritten, hvalid, hinvalid, fun h => absurd rfl h, fun _ => ⟨rfl, hqueue.of_core (by rw [hv]; rfl), hfold⟩⟩
  case mms =>
    intro s e seq opc c cls done g h n crc crc' ahead rest out counts extra hrun hhead hn hstaged hconv hextra hcrc hval hcnt hwf
    subst hn
    rw [exec_saturationCheck_mms hrun hhead hstaged]
    constructor
    · intro hsat hleft
      rw [mmsCheck_retries hconv (retries_iff.mpr ⟨hsat, hleft⟩)]
      exact ⟨_, rfl, (s.me_onMe_same e _).trans (MatrixEngine.setOp_head hhead _), fun j hj => s.me_onMe_ne hj _, rfl⟩
    · intro hdone hmay hin hadj
      have hretry : retries c.ocd counts h = false := by
        rw [← Bool.not_eq_true, retries_iff]; omega
      have hextra' : extra = adjByte c.ocd g h := hextra
      rw [hextra'] at hadj ⊢
      rw [mmsCheck_writes hconv hretry hmay hin hadj, crcGroup_eq, ← hcrc]
      obtain ⟨hkeep, hstats, hmem⟩ := mmsGroup_keeps s c g h out counts
      have hwritten := rowsWritten_extraLast (dst := c.dst) (stride := c.dstride) (rows := out) (extra := adjByte c.ocd g h)
        (k := 32 * g) hwf
      obtain ⟨w, hw⟩ : ∃ w, w = mmsGroup s c g h out counts := ⟨_, rfl⟩
      rw [← hw] at hkeep hstats hmem ⊢
      rw [← hmem] at hwritten
      obtain ⟨hcore, hengines, hdigests⟩ := hkeep
      have hwhead := (congrArg MatrixEngine.inflight (State.me_of_engines hengines e.val)).trans hhead
      have hwme := State.me_of_engines hengines e.val
      by_cases hlast : c.count < 32 * (g + 1)
      · obtain ⟨hme, hqueue, hustats, hfold, humem⟩ := folded_completed
          (x := ⟨seq, opc, .mms c cls done g h crc ahead, false⟩) (osid := c.ocd.osid) (crc := crc') rfl hwhead
          (hdigests ▸ hval) (hdigests ▸ hcnt)
        rw [hwme] at hme
        rw [hdigests] at hfold humem
        rw [if_pos hlast]
        refine ⟨_, rfl, hustats.trans hstats, ?_⟩
        rw [hme]
        exact ⟨rfl, rfl, fun hlog hapart => humem hlog ▸ hwritten hapart, fun h => absurd hlast (by omega),
          fun _ => ⟨rfl, hqueue.of_core hcore, hfold⟩⟩
      · have hme := State.me_onMe_same w e fun m => m.setOp 0 (.mms c cls done (g + 1) 0 crc' ahead)
        rw [MatrixEngine.setOp_head hwhead, hwme] at hme
        rw [if_neg hlast]
        refine ⟨_, rfl, hstats, ?_⟩
        rw [hme]
        exact ⟨rfl, rfl, fun _ hapart => hwritten hapart, fun _ => ⟨hcore, hdigests, rfl⟩, fun h => absurd h hlast⟩

end Sys2Proof.Machine
end

/-! Vector commands as they are taken (R187-R191, R198). -/

noncomputable section
namespace Sys2Proof.Machine

section
variable {s : State} {c : QueueCmd}

/-- The engine at rest takes a command of the opcode looked for by its own rule. -/
theorem veTake_ready {opc : Nat} (hhead : s.head 4 = some c) (hidle : s.ve.inflight = []) (hopc : c.opc = opc)
    (f : QueueCmd → State) : veTake s opc f = f c := by
  have hempty : s.ve.inflight.isEmpty = true := by rw [hidle]; rfl
  simp only [veTake, hhead, hempty, hopc, Bool.not_true, Bool.false_eq_true, if_false, if_true]

theorem veStart_started (hidle : s.ve.inflight = []) (c : QueueCmd) : VeStarted s (veStart s c) c := by
  refine ⟨State.take_took (by decide) c rfl, ?_, rfl, rfl⟩
  simp only [veStart, State.onVe, State.take, State.onQueue, hidle, List.nil_append]

/-- A command that faults as it is taken stops its queue and is reported (R61). -/
theorem State.takeFault_faulted {q : Nat} (hq : q < 8) (hrun : (s.queue q).stopped = false) (c : QueueCmd) (code : Half) :
    QueueFaulted s (s.takeFault q c code) q c code := by
  obtain ⟨hstopped, hfcode, hentries, hqueues⟩ := State.takeFault_queue hq c code none hrun
  refine ⟨hstopped, hfcode, hentries, hqueues, fun hroom => ⟨_, State.takeFault_gaffer q c code none hroom, rfl, ?_⟩⟩
  exact congrArg (fun w => [BitVec.ofNat 32 q, BitVec.ofNat 32 c.opc, w])
    ((BitVec.ofNat_toNat 32 c.seq).trans (BitVec.setWidth_eq c.seq))

/-- A refused command is recorded, unless an earlier fault is, and has no effect (R198). -/
theorem veFault_refused (hhead : s.head 4 = some c) (code : Half) : VeRefused s (veFault s c code) c code := by
  obtain ⟨w, hw⟩ : ∃ w, w = (s.onVe fun v => v.fault code c.opc c.seq).raise 6 0x004 15 := ⟨_, rfl⟩
  have hfault : veFault s c code = w.takeFault 4 c code := by rw [hw]; rfl
  have hcore : w.core = s.core := by rw [hw]; rfl
  have hgaffer : w.gaffer = s.gaffer := by rw [hw]; rfl
  have hwve : w.ve = s.ve.fault code c.opc c.seq := by rw [hw]; rfl
  obtain ⟨hengines, hve, hmem⟩ := State.takeFault_units w 4 c code none
  have hrun : (w.queue 4).stopped = false := by
    rw [State.queue_of_core hcore]; exact (State.head_some hhead).2.2.1
  have hfaulted := State.takeFault_faulted (s := w) (by decide) hrun c code
  rw [hfault]
  refine ⟨?_, fun hfirst => ?_, fun hlater => ?_, hmem.trans (by rw [hw]; rfl), hengines.trans (by rw [hw]; rfl)⟩
  · unfold QueueFaulted at hfaulted ⊢
    rwa [hgaffer, State.queue_of_core hcore, funext (State.queue_of_core hcore)] at hfaulted
  · exact hve.trans (hwve.trans (if_neg (by rw [hfirst]; exact Bool.false_ne_true)))
  · exact hve.trans (hwve.trans (if_pos hlater))

/-- What the checks of R187 make of a command: taken, refused with BAD_COMMAND, or refused with ACCESS_DENIED. -/
theorem veTaken_outcomes (hhead : s.head 4 = some c) (hidle : s.ve.inflight = []) {i : Instr} {bad denied : Bool}
    (hexec : exec i s = .next (if bad then veFault s c Code.badCommand
      else if denied then veFault s c Code.accessDenied else veStart s c)) :
    (bad = false → denied = false → ∃ u, exec i s = .next u ∧ VeStarted s u c) ∧
    (bad = true → ∃ u, exec i s = .next u ∧ VeRefused s u c Code.badCommand) ∧
    (bad = false → denied = true → ∃ u, exec i s = .next u ∧ VeRefused s u c Code.accessDenied) := by
  refine ⟨fun hbad hden => ⟨_, ?_, veStart_started hidle c⟩, fun hbad => ⟨_, ?_, veFault_refused hhead _⟩,
    fun hbad hden => ⟨_, ?_, veFault_refused hhead _⟩⟩
  · rw [hexec, hbad, hden]; rfl
  · rw [hexec, hbad]; rfl
  · rw [hexec, hbad, hden]; rfl

section
variable (hhead : s.head 4 = some c) (hidle : s.ve.inflight = [])
include hhead hidle

theorem exec_vop_ready (hopc : c.opc = 0x40) :
    exec .vop s = .next (veCheck s c (vopFieldsBad (vopFields c.regs)) (vopCmd (vopFields c.regs))) :=
  congrArg Host.Outcome.next (veTake_ready hhead hidle hopc _)

theorem exec_vep_ready (hopc : c.opc = 0x42) : exec .vep s = .next (veCheck s c
    (vepFieldsBad s.ve (s.ve.image ((vopFields c.regs).func % 8)) (vopFields c.regs))
    (vepCmd (s.ve.image ((vopFields c.regs).func % 8)) (vopFields c.regs))) :=
  congrArg Host.Outcome.next (veTake_ready hhead hidle hopc _)

theorem exec_vred_ready (hopc : c.opc = 0x43) : exec .vred s = .next (
    if vredBad c (vredFields c.regs) || (vredCmd (vredFields c.regs)).bad then veFault s c Code.badCommand
    else if (vredCmd (vredFields c.regs)).denied s || !s.may 0x51 .loc true then veFault s c Code.accessDenied
    else veStart s c) :=
  congrArg Host.Outcome.next (veTake_ready hhead hidle hopc _)

theorem exec_vpload_ready (hopc : c.opc = 0x41) : exec .vpload s = .next (
    if c.regs.length != 1 || fld 31 11 (c.reg 0) != 0 || fld 63 32 (c.reg 0) % 128 != 0 || !inLocal (fld 63 32 (c.reg 0)) 128 then
      veFault s c Code.badCommand
    else if !s.may 0x51 .loc false then veFault s c Code.accessDenied
    else veStart s c) :=
  congrArg Host.Outcome.next (veTake_ready hhead hidle hopc _)

end

/-- VPLOAD's fields break R189. -/
theorem vploadBad_iff : (c.regs.length != 1 || fld 31 11 (c.reg 0) != 0 || fld 63 32 (c.reg 0) % 128 != 0 ||
    !inLocal (fld 63 32 (c.reg 0)) 128) = true ↔
      (c.regs.length ≠ 1 ∨ fld 31 11 (c.reg 0) ≠ 0 ∨ fld 63 32 (c.reg 0) % 128 ≠ 0 ∨ 0x200000 < fld 63 32 (c.reg 0) + 128) := by
  simp only [Bool.or_eq_true, bne_iff_ne, Bool.not_eq_true', ← Bool.not_eq_true, inLocal_iff, Nat.not_le, or_assoc]

end

/-- Settles O22: each of the four commands is taken or refused by the checks that it makes. -/
theorem vectorCommandsTaken : Obligations.VectorCommandsTaken := by
  intro s c hhead hidle
  refine ⟨?vop, ?vpload, ?vep, ?vred⟩
  case vop =>
    intro v d hv hd hopc
    subst hv hd
    obtain ⟨htaken, hbad, hdenied⟩ := veTaken_outcomes hhead hidle (exec_vop_ready hhead hidle hopc)
    simp only [Bool.or_eq_false_iff, Bool.or_eq_true, and_imp] at htaken hbad hdenied
    exact ⟨htaken, hbad, hdenied⟩
  case vpload =>
    intro a ha hopc
    subst ha
    obtain ⟨htaken, hbad, hdenied⟩ := veTaken_outcomes hhead hidle (exec_vpload_ready hhead hidle hopc)
    rw [vploadBad_iff] at hbad
    have hgood (h1 : c.regs.length = 1) (h2 : fld 31 11 (c.reg 0) = 0) (h3 : fld 63 32 (c.reg 0) % 128 = 0)
        (h4 : fld 63 32 (c.reg 0) + 128 ≤ 0x200000) := Bool.eq_false_iff.mpr
      (mt vploadBad_iff.mp (by omega : ¬ (c.regs.length ≠ 1 ∨ fld 31 11 (c.reg 0) ≠ 0 ∨ fld 63 32 (c.reg 0) % 128 ≠ 0 ∨
        0x200000 < fld 63 32 (c.reg 0) + 128)))
    exact ⟨fun h1 h2 h3 h4 hmay => htaken (hgood h1 h2 h3 h4) (by rw [hmay]; rfl), hbad,
      fun h1 h2 h3 h4 hmay => hdenied (hgood h1 h2 h3 h4) (by rw [hmay]; rfl)⟩
  case vep =>
    intro v img d hv himg hd hopc
    subst hv himg hd
    obtain ⟨htaken, hbad, hdenied⟩ := veTaken_outcomes hhead hidle (exec_vep_ready hhead hidle hopc)
    simp only [Bool.or_eq_false_iff, Bool.or_eq_true, and_imp] at htaken hbad hdenied
    exact ⟨htaken, hbad, hdenied⟩
  case vred =>
    intro v d hv hd hopc
    subst hv hd
    obtain ⟨htaken, hbad, hdenied⟩ := veTaken_outcomes hhead hidle (exec_vred_ready hhead hidle hopc)
    simp only [Bool.or_eq_false_iff, Bool.or_eq_true, and_imp, Bool.not_eq_true', Bool.not_eq_false'] at htaken hbad hdenied
    exact ⟨htaken, hbad, hdenied⟩

end Sys2Proof.Machine
end
noncomputable section
namespace Sys2Proof.Machine

/-! Arming a timed action (R280, R319, R426). -/

/-- Where CTL of timed action `a` stands among the registers of the schedule unit. -/
def actCtl (a : Nat) : Nat := 0x108 + 0x10 * a

theorem indexed_actCtl (a : Fin 8) : indexed 0x108 0x10 8 (actCtl a) = some a.val := by
  revert a; decide

theorem exec_actionArm (a : Fin 8) (ctl : Word) (s : State) :
    exec (.actionArm 0x50#7 a ctl) s = .next (s.masterWrite (0x50#7 : Master).toNat (regAddr 10 (actCtl a)).toNat 4 ctl.toNat) := by
  have haddr : (regAddr 10 (actCtl a)).toNat = 0x400A108 + 16 * a.val := by
    rw [regAddr_toNat (by decide) (by unfold actCtl; omega), actCtl]; omega
  rw [haddr]; rfl

theorem stickyBits_actCtl (a : Fin 8) : stickyBits 10 (actCtl a) = 0x60000000 := by
  revert a; decide

theorem writable64_actCtl (a : Fin 8) :
    writable64 10 (actCtl a) = false ∧ writable64 10 (actCtl a - 4) = false := by
  revert a; decide

theorem regDenied_actCtl (s : State) (a : Fin 8) : s.regDenied 0x50 10 (actCtl a) = false := by
  simp [State.regDenied]

theorem regOpen_actCtl {s : State} (a : Fin 8) (hal : s.pins.alive = true) (hmay : s.may 0x50 .reg true = true) :
    RegOpen s 0x50#7 10 (actCtl a) true := by
  refine ⟨hal, by decide, ?_, ?_, fun _ => regDenied_actCtl s a, .inl hmay⟩ <;> unfold actCtl <;> omega

/-- CTL of a timed action is the one register at its place (R304). -/
theorem State.putLh_actCtl (s : State) (a : Fin 8) (v : Nat) : s.putLh (actCtl a) v = (s.putCtl a v).1 := by
  fin_cases a <;> rfl

theorem State.put_actCtl (s : State) (m : Nat) (a : Fin 8) (v : Nat) :
    s.put m 10 (actCtl a) v = (s.putCtl a (s.unraised 10 (actCtl a) 0x60000000 v)).1 := by
  obtain ⟨h, h4⟩ := writable64_actCtl a
  have h32 : s.put m 10 (actCtl a) v = s.put32 m 10 (actCtl a) v := by simp [State.put, h, h4]
  rw [h32, ← stickyBits_actCtl a]
  exact s.putLh_actCtl a _

theorem State.putStatus_actCtl (s : State) (a : Fin 8) (v : Nat) :
    s.putStatus 10 (actCtl a) v = if (s.putCtl a v).2 then Code.ok else Code.badParam := by
  simp [State.putStatus, indexed_actCtl]

/-- A bit of CTL other than FIRED and MISSED is taken as it is written. -/
theorem State.testBit_unraised_ctl (s : State) (o v i : Nat) (hi : (0x60000000 : Nat).testBit i = false) :
    (s.unraised 10 o 0x60000000 v).testBit i = v.testBit i := by
  rw [State.testBit_unraised, hi]; simp

theorem State.kind_unraised (s : State) (o v : Nat) :
    BitVec.ofNat 4 (s.unraised 10 o 0x60000000 v) = BitVec.ofNat 4 v := by
  refine BitVec.eq_of_getLsbD_eq fun i hi => ?_
  rw [BitVec.getLsbD_ofNat, BitVec.getLsbD_ofNat, s.testBit_unraised_ctl _ _ _ (by interval_cases i <;> rfl)]

theorem State.armed_unraised (s : State) (o v : Nat) : bit 31 (s.unraised 10 o 0x60000000 v) = bit 31 v :=
  s.testBit_unraised_ctl _ _ _ (by rfl)

/-- A write of CTL with ARMED that may be performed arms the entry. -/
theorem State.putCtl_arms {s : State} {a v : Nat} (hv : bit 31 v = true)
    (ok : s.armOk (BitVec.ofNat 4 v) (Vec.at s.lehr.acts a).target = true) :
    s.putCtl a v = (s.onAct a fun _ =>
      { Vec.at s.lehr.acts a with
        armed := true, fired := (Vec.at s.lehr.acts a).fired && !bit 30 v, missed := (Vec.at s.lehr.acts a).missed && !bit 29 v
        kind := BitVec.ofNat 4 v, replay := false }, true) := by
  simp [State.putCtl, hv, ok]

theorem State.putCtl_refuses {s : State} {a v : Nat} (hv : bit 31 v = true)
    (bad : s.armOk (BitVec.ofNat 4 v) (Vec.at s.lehr.acts a).target = false) : s.putCtl a v = (s, false) := by
  simp [State.putCtl, hv, bad]

theorem State.givesFormerId_false {s : State}
    (h : s.journal.fvalid = true → lcidOf s.router.staged s.router.pid.toNat ≠ some s.journal.flcid.toNat) :
    s.givesFormerId = false := by
  cases hf : s.journal.fvalid with
  | false => simp [State.givesFormerId, hf]
  | true => simp [State.givesFormerId, hf, h hf]

theorem State.armOk_true {s : State} {kind : BitVec 4} {target : DWord} (h1 : 1 ≤ kind.toNat) (h4 : kind.toNat ≤ 4)
    (hsync : s.lehr.synced = true) (hlc : s.lehr.lc.toNat < target.toNat)
    (hremap : kind = 3#4 → remapOk s.router.staged = true ∧
      (s.journal.fvalid = true → lcidOf s.router.staged s.router.pid.toNat ≠ some s.journal.flcid.toNat)) :
    s.armOk kind target = true := by
  by_cases hk : kind = 3#4
  · obtain ⟨hok, hid⟩ := hremap hk
    simp [State.armOk, h1, h4, hsync, hlc, hok, State.givesFormerId_false hid]
  · simp [State.armOk, h1, h4, hsync, hlc, hk]

theorem State.armOk_false {s : State} {kind : BitVec 4} {target : DWord}
    (h : kind.toNat = 0 ∨ 4 < kind.toNat ∨ s.lehr.synced = false ∨ target.toNat ≤ s.lehr.lc.toNat ∨
      (kind = 3#4 ∧ remapOk s.router.staged = false)) : s.armOk kind target = false := by
  rcases h with h | h | h | h | ⟨rfl, h⟩
  · simp [State.armOk, h]
  · simp [State.armOk, Nat.not_le.mpr h]
  · simp [State.armOk, h]
  · simp [State.armOk, Nat.not_lt.mpr h]
  · simp [State.armOk, h]

section

variable {s : State} {a : Fin 8} {ctl : Word}

theorem bit31_of_getLsbD (h : ctl.getLsbD 31 = true) : bit 31 ctl.toNat = true := by
  simpa [bit, BitVec.testBit_toNat] using h

/-- The Gaffer's write of CTL: what the write does, and its status. -/
theorem actionArm_eq (hal : s.pins.alive = true) (hmay : s.may 0x50 .reg true = true) :
    exec (.actionArm 0x50#7 a ctl) s = .next { (s.putCtl a (s.unraised 10 (actCtl a) 0x60000000 ctl.toNat)).1 with
      resp := { master := 0x50#7, status := if (s.putCtl a ctl.toNat).2 then Code.ok else Code.badParam, data := 0#64 } } := by
  rw [exec_actionArm, State.masterWrite_reg (regOpen_actCtl a hal hmay), State.put_actCtl, State.putStatus_actCtl,
    State.respond_eq]

theorem actionArm_arms (hal : s.pins.alive = true) (hmay : s.may 0x50 .reg true = true) (hctl : ctl.getLsbD 31 = true)
    (ok : s.armOk (BitVec.ofNat 4 ctl.toNat) (Vec.at s.lehr.acts a.val).target = true) :
    ∃ u, exec (.actionArm 0x50#7 a ctl) s = .next u ∧ Answered u 0x50#7 0 ∧
      (Vec.at u.lehr.acts a.val).armed = true ∧ (Vec.at u.lehr.acts a.val).kind = BitVec.ofNat 4 ctl.toNat ∧
      (Vec.at u.lehr.acts a.val).target = (Vec.at s.lehr.acts a.val).target ∧
      (Vec.at u.lehr.acts a.val).arg = (Vec.at s.lehr.acts a.val).arg ∧
      (∀ b, b ≠ a.val → Vec.at u.lehr.acts b = Vec.at s.lehr.acts b) ∧ u = { s with lehr := u.lehr, resp := u.resp } := by
  have h31 := bit31_of_getLsbD hctl
  have hput := State.putCtl_arms (s := s) (a := a.val) (v := s.unraised 10 (actCtl a) 0x60000000 ctl.toNat)
    (by rw [State.armed_unraised, h31]) (by rw [State.kind_unraised]; exact ok)
  rw [actionArm_eq hal hmay, hput, State.putCtl_arms h31 ok]
  refine ⟨_, rfl, rfl, ?_, ?_, ?_, ?_, fun b hb => ?_, rfl⟩
  all_goals simp only [State.onAct]
  · rw [Vec.at_upd_same _ _ _ a.isLt]
  · rw [Vec.at_upd_same _ _ _ a.isLt, State.kind_unraised]
  · rw [Vec.at_upd_same _ _ _ a.isLt]
  · rw [Vec.at_upd_same _ _ _ a.isLt]
  · rw [Vec.at_upd_ne _ _ _ _ hb]

theorem actionArm_refused (hal : s.pins.alive = true) (hmay : s.may 0x50 .reg true = true) (hctl : ctl.getLsbD 31 = true)
    (bad : s.armOk (BitVec.ofNat 4 ctl.toNat) (Vec.at s.lehr.acts a.val).target = false) :
    ∃ u, exec (.actionArm 0x50#7 a ctl) s = .next u ∧ u.resp.status = Code.badParam ∧ u = { s with resp := u.resp } := by
  have h31 := bit31_of_getLsbD hctl
  have hput := State.putCtl_refuses (s := s) (a := a.val) (v := s.unraised 10 (actCtl a) 0x60000000 ctl.toNat)
    (by rw [State.armed_unraised, h31]) (by rw [State.kind_unraised]; exact bad)
  rw [actionArm_eq hal hmay, hput, State.putCtl_refuses h31 bad]
  exact ⟨_, rfl, rfl, rfl⟩

end

end Sys2Proof.Machine
end
noncomputable section
namespace Sys2Proof.Machine

/-! The journal's records leave the replay's state as it is (R411, R417). -/

/-- STATE of a replay and the ID that the restored snapshot holds. -/
def Journal.replayPart (j : Journal) : ReplayState × DWord := (j.rstate, j.restId)

@[simp] theorem Journal.push_replayPart (j : Journal) (beat rank : Nat) (b : List Byte) :
    (j.push beat rank b).replayPart = j.replayPart := rfl

@[simp] theorem Journal.place_replayPart (j : Journal) (beat rank : Nat) (b : List Byte) :
    (j.place beat rank b).replayPart = j.replayPart := by
  unfold Journal.place
  rw [Journal.push_replayPart]
  split
  · rfl
  · split
    · rfl
    · simp

@[simp] theorem Journal.unplace_replayPart (j : Journal) (l : List JRecord) : (j.unplace l).replayPart = j.replayPart := by
  cases l <;> rfl

@[simp] theorem State.setJnStat_replayPart (s : State) (i : Nat) : (s.setJnStat i).journal.replayPart = s.journal.replayPart := rfl

@[simp] theorem State.traceStarved_replayPart (s : State) : s.traceStarved.journal.replayPart = s.journal.replayPart := by
  unfold State.traceStarved
  dsimp only
  split
  · exact s.setJnStat_replayPart 1
  · simp [Journal.replayPart, State.setJnStat, State.raise]

theorem State.trimmed_replayPart (s : State) (l : List (List Byte)) :
    ({ s with journal := { s.journal with trace := l } } : State).journal.replayPart = s.journal.replayPart := rfl

theorem State.bpress_replayPart (s : State) (b : Bool) :
    ({ s with journal := { s.journal with bpress := b } } : State).journal.replayPart = s.journal.replayPart := rfl

@[simp] theorem State.settleStaging_replayPart (s : State) : s.settleStaging.journal.replayPart = s.journal.replayPart := by
  unfold State.settleStaging
  dsimp only
  generalize ht : ite ((_ && _) = true) (State.traceStarved _) _ = t
  have htrim : t.journal.replayPart = s.journal.replayPart := by
    rw [← ht]
    split
    · exact (State.traceStarved_replayPart _).trans (State.trimmed_replayPart s _)
    · rfl
  rw [← htrim]
  split
  · exact (State.setJnStat_replayPart _ 7).trans (t.bpress_replayPart true)
  · split
    · exact t.bpress_replayPart false
    · rfl

theorem Journal.foldl_place_replayPart (l : List JRecord) (j : Journal) :
    (l.foldl (fun j r => j.place r.beat r.rank r.bytes) j).replayPart = j.replayPart := by
  induction l generalizing j with
  | nil => rfl
  | cons r l ih => rw [List.foldl_cons, ih, Journal.place_replayPart]

@[simp] theorem State.jappend_replayPart (s : State) (kind rank : Nat) (stamp : DWord) (arg body : List Byte) :
    (s.jappend kind rank stamp arg body).journal.replayPart = s.journal.replayPart := by
  unfold State.jappend
  rw [State.settleStaging_replayPart]
  exact (Journal.foldl_place_replayPart ..).trans ((Journal.place_replayPart ..).trans (Journal.unplace_replayPart ..))

@[simp] theorem State.jmark_replayPart (s : State) (q : Word) (bank bid : Nat) (gen : Half) (id : DWord) :
    (s.jmark q bank bid gen id).1.journal.replayPart = s.journal.replayPart := by
  unfold State.jmark
  split <;> simp

@[simp] theorem State.launchMark_replayPart (s : State) : s.launchMark.journal.replayPart = s.journal.replayPart := by
  have h := s.zeroOrds.jmark_replayPart s.journal.snapSeq 0xFF 0 0#16 s.lehr.lc
  unfold State.launchMark
  dsimp only
  split
  · simp
  · simpa [Journal.replayPart] using h

theorem State.launchMark_rstate (s : State) : s.launchMark.journal.rstate = s.journal.rstate :=
  congrArg Prod.fst s.launchMark_replayPart

theorem State.launchMark_restId (s : State) : s.launchMark.journal.restId = s.journal.restId :=
  congrArg Prod.snd s.launchMark_replayPart

/-! A barrier that will not be passed leaves its remaps to their RELEASE (R320). -/

/-- The schedule unit but for the beats at which remaps apply by a RELEASE. -/
def Lehr.offRemapAt (l : Lehr) : Lehr := { l with remapAt := [] }

theorem State.unpassed_offRemapAt (s : State) : s.unpassed.lehr.offRemapAt = s.lehr.offRemapAt :=
  foldl_keeps _ (fun u : State => u.lehr.offRemapAt) (fun u b => by split <;> rfl) _ _

theorem State.unpassed_acts (s : State) : s.unpassed.lehr.acts = s.lehr.acts := by
  simpa [Lehr.offRemapAt] using congrArg Lehr.acts s.unpassed_offRemapAt

theorem State.unpassed_bars (s : State) : s.unpassed.lehr.bars = s.lehr.bars := by
  simpa [Lehr.offRemapAt] using congrArg Lehr.bars s.unpassed_offRemapAt

/-! What a LAUNCH sets up (R29, R302). -/

/-- The state at a LAUNCH once its MARK is written and what the queues held is out of the new counts. -/
def State.launchReady (s : State) : State := s.launchMark.unpassed.launchQueues

/-- A LAUNCH before what its replay flag decides: the core, the barriers, the counts of the schedule unit and DET. -/
def State.launched (s : State) (entry : Nat) (replay : Bool) : State :=
  { s.launchReady with
    core := s.core.launch s.beat entry (if replay then s.journal.restId else 0#64)
    lehr := { s.launchReady.lehr with
      bars := s.lehr.bars.map fun (b : Barrier) => b.launch replay
      slip := 0#32, late := 0#32, early := 0#32, unwin := 0#32 }
    tier := { s.tier with det := s.tier.detNext } }

theorem State.beat_eq_of_nc {u s : State} (h : u.nc = s.nc) : u.beat = s.beat := by simp [State.beat, h]

theorem State.launchReady_keeps (s : State) :
    s.launchReady.core = s.core ∧ s.launchReady.beat = s.beat ∧ s.launchReady.tier = s.tier ∧
      s.launchReady.digests = s.digests ∧ s.launchReady.mem = s.mem ∧ s.launchReady.router = s.router ∧
      s.launchReady.stats = s.stats ∧ s.launchReady.rings.parked = [] ∧ s.launchReady.lehr.acts = s.lehr.acts ∧
      s.launchReady.lehr.bars = s.lehr.bars ∧ s.launchReady.journal.rstate = s.journal.rstate ∧
      s.launchReady.journal.restId = s.journal.restId := by
  refine ⟨?_, State.beat_eq_of_nc ?_, ?_, ?_, ?_, ?_, ?_, rfl, ?_, ?_, ?_, ?_⟩ <;>
    simp [State.launchReady, State.unpassed_acts, State.unpassed_bars, State.launchMark_rstate, State.launchMark_restId]

theorem State.launchAt_eq (s : State) (entry : Nat) (replay : Bool) :
    s.launchAt entry replay =
      if replay then
        if s.journal.rstate == .restored then
          { s.launched entry replay with journal := { s.launchReady.journal with rstate := .none } }
        else s.launched entry replay
      else { s.launched entry replay with
        digests := { s.digests with val := [], cnt := [] }, journal := { s.launchReady.journal with waiting := [] } } := by
  obtain ⟨hcore, hbeat, htier, hdig, -, -, -, -, -, hbars, hrst, hid⟩ := s.launchReady_keeps
  simp only [State.launched, ← hcore, ← hbeat, ← htier, ← hdig, ← hbars, ← hrst, ← hid]
  rfl

/-- A REPLAY's LAUNCH while the records are being delivered changes nothing of the replay. -/
theorem State.launchAt_replay {s : State} {entry : Nat} (h : s.journal.rstate = .replay) :
    s.launchAt entry true = s.launched entry true := by
  rw [State.launchAt_eq, h]; rfl

theorem State.launchAt_new (s : State) (entry : Nat) :
    s.launchAt entry false = { s.launched entry false with
      digests := { s.digests with val := [], cnt := [] }, journal := { s.launchReady.journal with waiting := [] } } := by
  rw [State.launchAt_eq]; rfl

end Sys2Proof.Machine
end
noncomputable section
namespace Sys2Proof.Machine

/-! A LAUNCH fires (R29, R281, R302, R390). -/

theorem Core.launch_task_zero (c : Core) (beat entry : Nat) (s1 : DWord) :
    Vec.at (c.launch beat entry s1).tasks 0 =
      { Task.fresh with state := .ready, pc := entry, regs := Vec.upd Task.fresh.regs 1 fun _ => s1 } := by
  rw [Vec.at_eq _ _ (by decide)]
  exact Vector.getElem_set_self _

theorem Core.launch_task_other (c : Core) (beat entry : Nat) (s1 : DWord) {t : Nat} (h0 : 0 < t) (h : t < 32) :
    Vec.at (c.launch beat entry s1).tasks t = Task.fresh := by
  rw [Vec.at_eq _ _ h]
  exact (Vector.getElem_set_ne (by decide) h (by omega)).trans (Vector.getElem_replicate h)

theorem Core.launch_queue (c : Core) (beat entry : Nat) (s1 : DWord) {q : Nat} (h : q < 8) :
    Vec.at (c.launch beat entry s1).queues q = EngineQueue.empty := Vec.at_replicate _ _ h

/-- Of the registers of task 0 only s1 may hold anything but zero. -/
theorem Core.launch_reg (c : Core) (beat entry : Nat) (s1 : DWord) {n : Nat} (h : n < 32) :
    (Vec.at (c.launch beat entry s1).tasks 0).reg n = if n = 1 then s1 else 0#64 := by
  rw [Core.launch_task_zero]
  by_cases h1 : n = 1
  · subst h1
    simp only [Task.reg]
    exact Vec.at_upd_same _ _ _ (by decide)
  · by_cases h0 : n = 0
    · simp [Task.reg, h0]
    · simp only [Task.reg, if_neg h0, if_neg h1]
      rw [Vec.at_upd_ne _ _ _ _ h1]
      exact Vec.at_replicate _ _ h

/-- What a LAUNCH of `x` makes of `w`, in which its entry has fired. -/
structure LaunchEffect (w u : State) (x : TimedAction) : Prop where
  core : u.core = w.core.launch w.beat (x.arg.toNat % 65536) (if x.replay then w.journal.restId else 0#64)
  acts : u.lehr.acts = w.lehr.acts
  bars : u.lehr.bars = w.lehr.bars.map fun (b : Barrier) => b.launch x.replay
  counts : u.lehr.slip = 0#32 ∧ u.lehr.late = 0#32 ∧ u.lehr.early = 0#32 ∧ u.lehr.unwin = 0#32
  tier : u.tier = { w.tier with det := w.tier.detNext }
  parked : u.rings.parked = []
  mem : u.mem = w.mem
  router : u.router = w.router
  stats : u.stats = w.stats
  digestsZero : x.replay = false → u.digests.val = [] ∧ u.digests.cnt = []
  digestsKept : x.replay = true → u.digests = w.digests

theorem LaunchEffect.of_launched {w : State} {x : TimedAction} {d : Digests} {j : Journal}
    (hzero : x.replay = false → d.val = [] ∧ d.cnt = []) (hkept : x.replay = true → d = w.digests) :
    LaunchEffect w { w.launched (x.arg.toNat % 65536) x.replay with digests := d, journal := j } x := by
  obtain ⟨-, -, -, -, hmem, hrouter, hstats, hparked, hacts, -⟩ := w.launchReady_keeps
  exact {
    core := rfl, acts := hacts, bars := rfl, counts := ⟨rfl, rfl, rfl, rfl⟩, tier := rfl, parked := hparked
    mem := hmem, router := hrouter, stats := hstats, digestsZero := hzero, digestsKept := hkept }

theorem State.finalReplay_of_new (s : State) {x : TimedAction} (h : x.replay = false) : s.finalReplay x = s := by
  simp [State.finalReplay, h]

theorem State.finalReplay_of_replay {s : State} (x : TimedAction) (h : s.journal.rstate = .replay) : s.finalReplay x = s := by
  simp [State.finalReplay, h]

/-- A LAUNCH, of a replay only while its records are being delivered, sets up the core and ends no replay. -/
theorem State.launchAt_effect {w : State} {x : TimedAction} (h : x.replay = true → w.journal.rstate = .replay) :
    LaunchEffect w ((w.launchAt (x.arg.toNat % 65536) x.replay).finalReplay x) x := by
  obtain ⟨-, -, -, hdig, -, -, -, -, -, -, hrst, -⟩ := w.launchReady_keeps
  cases hx : x.replay with
  | false =>
    rw [State.finalReplay_of_new _ hx, State.launchAt_new, ← hx]
    exact .of_launched (fun _ => ⟨rfl, rfl⟩) (fun h => absurd (hx.symm.trans h) (by decide))
  | true =>
    have hr := h hx
    rw [State.launchAt_replay hr, State.finalReplay_of_replay (s := w.launched _ true) x (hrst.trans hr), ← hx]
    exact .of_launched (d := w.launchReady.digests) (j := w.launchReady.journal)
      (fun h => absurd (hx.symm.trans h) (by decide)) (fun _ => hdig)

namespace LaunchEffect

variable {w u : State} {x : TimedAction} (h : LaunchEffect w u x)
include h

theorem task_zero : (u.task 0).state = .ready ∧ (u.task 0).pc = x.arg.toNat % 65536 ∧ (u.task 0).loops = [] := by
  rw [State.task, h.core, Core.launch_task_zero]
  exact ⟨rfl, rfl, rfl⟩

theorem task_zero_reg {n : Nat} (hn : n < 32) :
    (u.task 0).reg n = if n = 1 ∧ x.replay = true then w.journal.restId else 0#64 := by
  rw [State.task, h.core, Core.launch_reg _ _ _ _ hn]
  by_cases h1 : n = 1 <;> simp [h1]

theorem task_other {t : Nat} (h0 : 0 < t) (ht : t < 32) : (u.task t).state = .free := by
  rw [State.task, h.core, Core.launch_task_other _ _ _ _ h0 ht]; rfl

theorem queue {q : Nat} (hq : q < 8) : u.queue q = EngineQueue.empty := by
  rw [State.queue, h.core, Core.launch_queue _ _ _ _ hq]

theorem barrier {b : Nat} (hb : b < 14) : u.barrier b = (w.barrier b).launch x.replay := by
  rw [State.barrier, h.bars, Vec.at_map _ _ _ hb]; rfl

end LaunchEffect

theorem Barrier.launch_pend (b : Barrier) (r : Bool) : (b.launch r).pend = false ∧ (b.launch r).expect = b.expect := by
  cases r <;> exact ⟨rfl, rfl⟩

theorem Barrier.launch_new (b : Barrier) :
    (b.launch false).gen = 0#16 ∧ (b.launch false).rgen = 0#16 ∧ (b.launch false).rcnt = 0#24 := ⟨rfl, rfl, rfl⟩

theorem Barrier.launch_replay (b : Barrier) :
    (b.launch true).gen = b.gen ∧ (b.launch true).rgen = b.rgen ∧ (b.launch true).rcnt = b.rcnt := ⟨rfl, rfl, rfl⟩

/-! An entry fires or is missed (R281). -/

section

variable {s : State} {a : Fin 8}

theorem State.fireAct_acts_same : Vec.at (s.fireAct a).lehr.acts a.val = (Vec.at s.lehr.acts a.val).fire :=
  Vec.at_upd_same _ _ _ a.isLt

theorem State.fireAct_acts_other {b : Nat} (h : b ≠ a.val) : Vec.at (s.fireAct a).lehr.acts b = Vec.at s.lehr.acts b :=
  Vec.at_upd_ne _ _ _ _ h

theorem exec_launch_fires (hal : s.pins.alive = true) (hdue : s.dueAct a.val 1#4 = true) (hrun : s.inRun = true) :
    exec (.launch a) s = .next (((s.fireAct a).launchAt ((Vec.at s.lehr.acts a.val).arg.toNat % 65536)
      (Vec.at s.lehr.acts a.val).replay).finalReplay (Vec.at s.lehr.acts a.val)) := by
  show execLaunch a s = _
  simp [execLaunch, hal, hdue, hrun]

theorem exec_launch_missed (hal : s.pins.alive = true) (hdue : s.dueAct a.val 1#4 = true) (hrun : s.inRun = false) :
    exec (.launch a) s = .next (s.missAct a) := by
  show execLaunch a s = _
  simp [execLaunch, hal, hdue, hrun]

theorem exec_launch_notDue (hdue : s.dueAct a.val 1#4 = false) : exec (.launch a) s = .next s := by
  show execLaunch a s = _
  simp [execLaunch, hdue]

theorem exec_snapshotActionFire_due (hal : s.pins.alive = true) (hdue : s.dueAct a.val 2#4 = true) :
    exec (.snapshotActionFire a) s = .next (s.fireSnapshot a) := by
  show execSnapshotActionFire a s = _
  simp [execSnapshotActionFire, hal, hdue]

theorem State.fireSnapshot_missed (h : s.inRun = false ∨ s.journal.rstate ≠ .none) : s.fireSnapshot a = s.missAct a := by
  rcases h with h | h <;> simp [State.fireSnapshot, h]

theorem State.dueAct_kind {k : BitVec 4} (h : s.dueAct a.val k = true) : (Vec.at s.lehr.acts a.val).kind = k := by
  simp only [State.dueAct, Bool.and_eq_true, beq_iff_eq] at h
  obtain ⟨⟨-, hk⟩, -⟩ := h
  exact hk

/-- A missed entry before its event is posted. -/
def State.missMarked (s : State) (a : Nat) : State :=
  let t := (s.onAct a TimedAction.miss).raise 10 (0x108 + 0x10 * a) 29
  { t with lehr := { t.lehr with actMiss := true } }.raise 10 0x000 4

/-- A missed entry, while the queue of the Gaffer's events has room. -/
theorem State.missAct_room (hroom : s.gaffer.eventCount < 64) {x : TimedAction} (hx : x = Vec.at s.lehr.acts a.val) :
    s.missAct a = { s.missMarked a with gaffer := { s.gaffer with outq := s.gaffer.outq ++
      [.event ((s.missMarked a).eventOf Code.actionMissed Source.lehr
        [a, x.kind.toNat, (loWord x.target).toNat, (hiWord x.target).toNat, x.arg.toNat])] } } := by
  subst hx
  exact State.post_room (s := s.missMarked a) _ _ _ hroom

/-- An entry of kind `k` is missed. -/
theorem State.missAct_effect (hroom : s.gaffer.eventCount < 64) {x : TimedAction} (hx : x = Vec.at s.lehr.acts a.val) :
    ∃ e, Vec.at (s.missAct a).lehr.acts a.val = { x with armed := false, missed := true } ∧
      (s.missAct a).lehr.actMiss = true ∧ (s.missAct a).gaffer = { s.gaffer with outq := s.gaffer.outq ++ [.event e] } ∧
      e.code = 0x0305#16 ∧
      e.detail = [BitVec.ofNat 32 a.val, BitVec.ofNat 32 x.kind.toNat, loWord x.target, hiWord x.target, x.arg] ∧
      s.missAct a = { s with
        lehr := (s.missAct a).lehr, raised := (s.missAct a).raised, gaffer := (s.missAct a).gaffer } := by
  have hacts : Vec.at (s.missMarked a).lehr.acts a.val = x.miss := by
    rw [hx]; exact Vec.at_upd_same _ _ _ a.isLt
  rw [State.missAct_room hroom hx]
  refine ⟨_, hacts, rfl, rfl, rfl, ?_, ?_⟩
  · simp [State.eventOf]
  · simp only [State.missMarked, State.onAct, State.raise]

end

end Sys2Proof.Machine
end
noncomputable section
namespace Sys2Proof.Machine

/-! Snapshot points (R282, R397). -/

theorem Journal.point_again {j : Journal} (h : j.snapPend = true) :
    { j with snapPend := true, snapPendAt := j.snapPendAt } = j := by
  cases j; cases h; rfl

/-- A snapshot point in RUN outside a replay; one that is already pending keeps its beat. -/
theorem State.snapPoint_eq {s : State} (hrun : s.inRun = true) (hrst : s.journal.rstate = .none) :
    s.snapPoint = { s with journal := { s.journal with
      snapPend := true, snapPendAt := if s.journal.snapPend then s.journal.snapPendAt else s.lehr.lc } } := by
  cases h : s.journal.snapPend with
  | false => simp [State.snapPoint, hrun, hrst, h]
  | true =>
    have hkeep : s.snapPoint = s := by simp [State.snapPoint, h]
    exact hkeep.trans (congrArg (fun j => { s with journal := j }) (Journal.point_again h)).symm

/-- The first time after `lc` that lies whole intervals after `next`. -/
theorem nextInterval_bounds {lc next int : Nat} (hint : int ≠ 0) (hle : next ≤ lc) :
    lc < next + ((lc - next) / int + 1) * int ∧ next + ((lc - next) / int + 1) * int ≤ lc + int := by
  have hdiv := Nat.div_add_mod (lc - next) int
  have hmod := Nat.mod_lt (lc - next) (Nat.pos_of_ne_zero hint)
  rw [Nat.add_mul, Nat.one_mul, Nat.mul_comm]
  omega

/-- The snapshot timer fires (R282). -/
theorem State.timerPoint_eq {s : State} (hint : s.lehr.snapInt ≠ 0#32) (hdue : s.lehr.due s.lehr.snapNext = true) :
    s.timerPoint = { s.snapPoint with lehr := { s.snapPoint.lehr with
      snapNext := BitVec.ofNat 64 (s.lehr.snapNext.toNat +
        ((s.lehr.lc.toNat - s.lehr.snapNext.toNat) / s.lehr.snapInt.toNat + 1) * s.lehr.snapInt.toNat) } } := by
  have h0 : s.lehr.snapInt.toNat ≠ 0 := fun h => hint (BitVec.eq_of_toNat_eq h)
  simp [State.timerPoint, h0, hdue]

theorem exec_snapshotTimer {s : State} (hal : s.pins.alive = true) : exec .snapshotTimer s = .next s.timerPoint := by
  show execSnapshotTimer s = _
  simp [execSnapshotTimer, hal]

theorem snapshotTimer_effect {s : State} (hal : s.pins.alive = true) (hint : s.lehr.snapInt ≠ 0#32)
    (hdue : s.lehr.due s.lehr.snapNext = true) (hrun : s.inRun = true) (hrst : s.journal.rstate = .none)
    (hle : s.lehr.snapNext.toNat ≤ s.lehr.lc.toNat) (hlt : s.lehr.lc.toNat + s.lehr.snapInt.toNat < 2 ^ 64) :
    ∃ u, exec .snapshotTimer s = .next u ∧ u.journal.snapPend = true ∧ s.lehr.lc.toNat < u.lehr.snapNext.toNat ∧
      u.lehr.snapNext.toNat ≤ s.lehr.lc.toNat + s.lehr.snapInt.toNat ∧
      (u.lehr.snapNext.toNat - s.lehr.snapNext.toNat) % s.lehr.snapInt.toNat = 0 ∧
      u = { s with lehr := { s.lehr with snapNext := u.lehr.snapNext }, journal := u.journal } := by
  have h0 : s.lehr.snapInt.toNat ≠ 0 := fun h => hint (BitVec.eq_of_toNat_eq h)
  obtain ⟨hgt, hub⟩ := nextInterval_bounds h0 hle
  rw [exec_snapshotTimer hal, State.timerPoint_eq hint hdue, State.snapPoint_eq hrun hrst]
  refine ⟨_, rfl, rfl, ?_⟩
  dsimp only
  rw [BitVec.toNat_ofNat, Nat.mod_eq_of_lt (by omega)]
  exact ⟨hgt, hub, by simp, rfl⟩

section

variable {s : State} {a : Fin 8}

/-- A due SNAPSHOT entry in RUN outside a replay sets a snapshot point. -/
theorem snapshotActionFire_fires (hal : s.pins.alive = true) (hdue : s.dueAct a.val 2#4 = true) (hrun : s.inRun = true)
    (hrst : s.journal.rstate = .none) :
    ∃ u, exec (.snapshotActionFire a) s = .next u ∧
      Vec.at u.lehr.acts a.val = { Vec.at s.lehr.acts a.val with armed := false, fired := true } ∧
      u.journal = { s.journal with
        snapPend := true, snapPendAt := if s.journal.snapPend then s.journal.snapPendAt else s.lehr.lc } ∧
      u = { s with lehr := u.lehr, raised := u.raised, journal := u.journal } := by
  have hfire : s.fireSnapshot a = (s.fireAct a).snapPoint := by simp [State.fireSnapshot, hrun, hrst]
  rw [exec_snapshotActionFire_due hal hdue, hfire, State.snapPoint_eq (s := s.fireAct a) hrun hrst]
  exact ⟨_, rfl, State.fireAct_acts_same, rfl, rfl⟩

/-! A PROFILE entry fires (R279, R452). -/

theorem exec_profile_due (hal : s.pins.alive = true) (hdue : s.dueAct a.val 4#4 = true) :
    exec (.profile a) s = .next ((s.fireAct a).switchMould ((Vec.at s.lehr.acts a.val).arg.toNat % 4)).1 := by
  show execProfile a s = _
  simp [execProfile, hal, hdue]

theorem State.switchMould_valid {m : Nat} (h : s.gaffer.validMould m = true) :
    (s.switchMould m).1 = { s with gaffer := { s.gaffer with sel := BitVec.ofNat 2 m, ovr := true, mouldOk := true } }.applySwitch
      (some (s.gaffer.mould m)) := by
  simp only [State.switchMould, h, if_true]
  rfl

theorem State.switchMould_invalid {m : Nat} (h : s.gaffer.validMould m = false) :
    (s.switchMould m).1 = s.post Code.nvTorn Source.firmware [m] := by
  simp [State.switchMould, h]

/-- A PROFILE entry that names a valid mould. -/
theorem profile_valid (hal : s.pins.alive = true) {m : Nat} (hm : m = (Vec.at s.lehr.acts a.val).arg.toNat % 4)
    (hdue : s.dueAct a.val 4#4 = true) (hv : s.gaffer.validMould m = true) :
    ∃ u, exec (.profile a) s = .next u ∧
      Vec.at u.lehr.acts a.val = { Vec.at s.lehr.acts a.val with armed := false, fired := true } ∧
      u.gaffer.sel.toNat = m ∧ u.gaffer.ovr = true ∧ u.gaffer.mouldOk = true ∧
      u.router.comb = bit 0 (leAt (s.gaffer.mould m) 18 1) ∧ u.core = s.core ∧ u.mem = s.mem := by
  have hsel : (BitVec.ofNat 2 m).toNat = m := by
    rw [BitVec.toNat_ofNat, Nat.mod_eq_of_lt (by omega)]
  rw [exec_profile_due hal hdue, ← hm, State.switchMould_valid (s := s.fireAct a) hv]
  exact ⟨_, rfl, State.fireAct_acts_same, hsel, rfl, rfl, rfl, rfl, rfl⟩

/-- A PROFILE entry that names a mould that is not valid. -/
theorem profile_invalid (hal : s.pins.alive = true) {m : Nat} (hm : m = (Vec.at s.lehr.acts a.val).arg.toNat % 4)
    (hdue : s.dueAct a.val 4#4 = true) (hv : s.gaffer.validMould m = false) (hroom : s.gaffer.eventCount < 64) :
    ∃ u e, exec (.profile a) s = .next u ∧ u.gaffer = { s.gaffer with outq := s.gaffer.outq ++ [.event e] } ∧
      e.code = Code.nvTorn ∧ Vec.at u.lehr.acts a.val = { Vec.at s.lehr.acts a.val with armed := false, fired := true } ∧
      u = { s with lehr := u.lehr, raised := u.raised, gaffer := u.gaffer } := by
  rw [exec_profile_due hal hdue, ← hm, State.switchMould_invalid (s := s.fireAct a) hv,
    State.post_room (s := s.fireAct a) _ _ _ hroom]
  exact ⟨_, _, rfl, rfl, rfl, State.fireAct_acts_same, rfl⟩

/-- A due LAUNCH entry in RUN. -/
theorem launch_fires (hal : s.pins.alive = true) {x : TimedAction} (hx : x = Vec.at s.lehr.acts a.val)
    (hdue : s.dueAct a.val 1#4 = true) (hrun : s.inRun = true) (hreplay : x.replay = true → s.journal.rstate = .replay) :
    ∃ u, exec (.launch a) s = .next u ∧ LaunchEffect (s.fireAct a) u x := by
  subst hx
  exact ⟨_, exec_launch_fires hal hdue hrun, State.launchAt_effect (w := s.fireAct a) hreplay⟩

end

/-- Settles O46: arming goes through `putCtl`, which arms or refuses by `armOk`; a LAUNCH has the effect of `LaunchEffect` on the
state in which its entry has fired; a missed entry, a snapshot point, a mould switch and the timer each have one equation. -/
theorem timedActionsFire : Obligations.TimedActionsFire := by
  unfold Obligations.TimedActionsFire
  intro s a x hal hx
  refine ⟨fun ctl hmay hctl kind hkind => ⟨?_, ?_⟩, ?_, ?_, ?_, ?_, exec_launch_notDue, ?_⟩
  · intro h1 h4 hsync hlc hremap
    subst hkind hx
    exact actionArm_arms hal hmay hctl (State.armOk_true h1 h4 hsync hlc hremap)
  · intro hbad
    subst hkind hx
    exact actionArm_refused hal hmay hctl (State.armOk_false hbad)
  · intro hdue hrun hreplay
    obtain ⟨u, hu, h⟩ := launch_fires hal hx hdue hrun hreplay
    obtain ⟨hready, hpc, hloops⟩ := h.task_zero
    obtain ⟨hslip, hlate, hearly, hunwin⟩ := h.counts
    refine ⟨u, hu, ?_, fun b hb => ?_, ?_, ?_, hready, hpc, fun n hn => h.task_zero_reg hn, hloops,
      fun t h0 ht => h.task_other h0 ht, fun q hq => h.queue hq, ?_, ?_, ?_, h.tier, h.parked, hslip, hlate, hearly, hunwin,
      fun b hb => ?_, h.digestsZero, h.digestsKept, h.mem, h.router, h.stats⟩
    · rw [h.acts, State.fireAct_acts_same, ← hx]; rfl
    · rw [h.acts, State.fireAct_acts_other hb]
    · rw [h.core]; rfl
    · rw [h.core]; rfl
    · rw [h.core]; rfl
    · rw [h.core]; rfl
    · rw [h.core]; rfl
    · have hbar : u.barrier b = (s.barrier b).launch x.replay := h.barrier hb
      rw [hbar]
      obtain ⟨hpend, hexpect⟩ := (s.barrier b).launch_pend x.replay
      refine ⟨hpend, hexpect, fun hr => ?_, fun hr => ?_⟩
      · rw [hr]; exact Barrier.launch_new _
      · rw [hr]; exact Barrier.launch_replay _
  · intro k i hcase hdue hroom
    have hexec : exec i s = .next (s.missAct a) := by
      rcases hcase with ⟨rfl, rfl, hrun⟩ | ⟨rfl, rfl, hout⟩
      · exact exec_launch_missed hal hdue hrun
      · rw [exec_snapshotActionFire_due hal hdue, State.fireSnapshot_missed hout]
    have hk : x.kind = k := by rw [hx]; exact State.dueAct_kind hdue
    obtain ⟨e, hmissed⟩ := State.missAct_effect hroom hx
    subst hk
    exact ⟨_, e, hexec, hmissed⟩
  · intro hdue hrun hrst
    rw [hx]
    exact snapshotActionFire_fires hal hdue hrun hrst
  · intro m hm hdue
    rw [hx] at hm ⊢
    exact ⟨profile_valid hal hm hdue, profile_invalid hal hm hdue⟩
  · exact snapshotTimer_effect hal

end Sys2Proof.Machine
end
noncomputable section
namespace Sys2Proof.Machine

/-! The bytes of a far reply. -/

@[simp] theorem length_replyBytes (r : FarReply) (a n : Nat) : (replyBytes r a n).length = n := by
  induction n generalizing a with
  | zero => rfl
  | succ n ih => simp [replyBytes, ih]

theorem getElem_replyBytes (r : FarReply) (a n i : Nat) (h : i < (replyBytes r a n).length) :
    (replyBytes r a n)[i] = replyByte r (a + i) := by
  induction n generalizing a i with
  | zero => simp at h
  | succ n ih =>
    cases i with
    | zero => rfl
    | succ i =>
      have hi : i < (replyBytes r (a + 1) n).length := by simpa using h
      calc (replyBytes r a (n + 1))[i + 1] = (replyBytes r (a + 1) n)[i] := rfl
        _ = replyByte r (a + 1 + i) := ih _ _ hi
        _ = replyByte r (a + (i + 1)) := by rw [Nat.add_right_comm, Nat.add_assoc]

theorem getD_replyBytes (r : FarReply) {a n i : Nat} (h : i < n) (d : Byte) : (replyBytes r a n).getD i d = replyByte r (a + i) := by
  have hi : i < (replyBytes r a n).length := by simpa using h
  rw [List.getD_eq_getElem _ _ hi, getElem_replyBytes]

/-- A part of a range is the range of its place. -/
theorem slice_replyBytes (r : FarReply) {a o n k : Nat} (h : o + n ≤ k) :
    ((replyBytes r a k).drop o).take n = replyBytes r (a + o) n := by
  refine List.ext_getElem (by simp; omega) fun i hi hi' => ?_
  rw [List.getElem_take, List.getElem_drop, getElem_replyBytes, getElem_replyBytes, Nat.add_assoc]

theorem leAt_replyBytes (r : FarReply) {a o n k : Nat} (h : o + n ≤ k) :
    leAt (replyBytes r a k) o n = ofLE (replyBytes r (a + o) n) := by
  rw [leAt, slice_replyBytes r h]

/-- A memory into which a range of a reply is written holds it. -/
theorem read_writeBytes_replyBytes (r : FarReply) (a : Nat) {n k : Nat} (h : k < n) :
    (Memory.writeBytes [] 0 (replyBytes r a n)).read k = replyByte r (a + k) := by
  have hk : k < (replyBytes r a n).length := by simpa using h
  have hread := Memory.read_writeBytes_inside [] 0 (replyBytes r a n) k Memory.wf_nil hk
  rwa [Nat.zero_add, getElem_replyBytes] at hread

/-! Tables and memories that a bank fills (R403, R416). -/

theorem tableOf_succ {α : Type} [DecidableEq α] (d : α) (n : Nat) (f : Nat → α) :
    tableOf d (n + 1) f = Tbl.set d (tableOf d n f) n (f n) := by
  simp [tableOf, List.range_succ]

theorem wf_tableOf {α : Type} [DecidableEq α] (d : α) (n : Nat) (f : Nat → α) : Tbl.wf d (tableOf d n f) = true :=
  Tbl.wf_foldl_set d _ id f [] rfl

theorem get_tableOf {α : Type} [DecidableEq α] (d : α) {n : Nat} (f : Nat → α) {k : Nat} (h : k < n) :
    Tbl.get d (tableOf d n f) k = f k := by
  induction n with
  | zero => omega
  | succ n ih =>
    rw [tableOf_succ]
    by_cases hk : k = n
    · rw [hk, Tbl.get_set_same d _ _ _ (wf_tableOf d n f)]
    · rw [Tbl.get_set_ne d _ _ _ _ (wf_tableOf d n f) hk, ih (by omega)]

/-- Blocks of `n` bytes, each written at its own place. -/
def writeBlocks (n : Nat) (data : Nat → List Byte) (l : List Nat) (m : Memory) : Memory :=
  l.foldl (fun m g => m.writeBytes (n * g) (data g)) m

theorem wf_writeBlocks (n : Nat) (data : Nat → List Byte) (l : List Nat) {m : Memory} (hm : m.wf = true) :
    (writeBlocks n data l m).wf = true :=
  Memory.wf_foldl (fun _ _ h => Memory.wf_writeBytes _ _ _ h) l hm

/-- A block that is written holds its bytes, every other keeps what it held. -/
theorem read_writeBlocks {n : Nat} {data : Nat → List Byte} (l : List Nat) {m : Memory} (hm : m.wf = true)
    (hlen : ∀ g ∈ l, (data g).length = n) {g k : Nat} (hk : k < n) :
    (writeBlocks n data l m).read (n * g + k) = if g ∈ l then (data g).getD k 0#8 else m.read (n * g + k) := by
  induction l generalizing m with
  | nil => simp [writeBlocks]
  | cons h l ih =>
    have hstep := ih (m := m.writeBytes (n * h) (data h)) (Memory.wf_writeBytes _ _ _ hm)
      fun g hg => hlen g (List.mem_cons_of_mem _ hg)
    have hblock : (data h).length = n := hlen h List.mem_cons_self
    show (writeBlocks n data l (m.writeBytes (n * h) (data h))).read (n * g + k) = _
    rw [hstep]
    by_cases hgl : g ∈ l
    · rw [if_pos hgl, if_pos (List.mem_cons_of_mem _ hgl)]
    rw [if_neg hgl]
    by_cases hgh : g = h
    · subst hgh
      rw [if_pos List.mem_cons_self, Memory.read_writeBytes_inside _ _ _ _ hm (hblock ▸ hk), List.getD_eq_getElem]
    · have hcons : g ∉ h :: l := by simp [hgh, hgl]
      rw [if_neg hcons, Memory.read_writeBytes_outside _ _ _ _ hm]
      rcases Nat.lt_or_gt_of_ne hgh with hlt | hgt
      · have := Nat.mul_le_mul_left n (Nat.succ_le_of_lt hlt)
        rw [Nat.mul_succ] at this
        omega
      · have := Nat.mul_le_mul_left n (Nat.succ_le_of_lt hgt)
        rw [Nat.mul_succ] at this
        omega

theorem localOf_eq (far : FarReply) (bank : Nat) (rmap : List Byte) :
    localOf far bank rmap = writeBlocks 4096 (fun r => replyBytes far (bank + (0x80000 + 4096 * r)) 4096)
      ((List.range 512).filter fun r => (rmap.getD (r / 8) 0#8).getLsbD (r % 8)) [] := rfl

theorem read_localOf (far : FarReply) (bank : Nat) (rmap : List Byte) {g k : Nat} (hg : g < 512) (hk : k < 4096) :
    (localOf far bank rmap).read (4096 * g + k) =
      if (rmap.getD (g / 8) 0#8).getLsbD (g % 8) then replyByte far (bank + 0x80000 + 4096 * g + k) else 0#8 := by
  rw [localOf_eq, read_writeBlocks _ Memory.wf_nil (fun g _ => length_replyBytes ..) hk]
  simp only [List.mem_filter, List.mem_range, hg, true_and]
  split
  · rw [getD_replyBytes _ hk, ← Nat.add_assoc]
  · rfl

/-- How many tags below `t` are saved: where the descriptor of tag `t` stands among the packed ones (R403). -/
def savedRank (saved : Nat → Bool) (t : Nat) : Nat := ((List.range t).filter saved).length

theorem savedRank_le (saved : Nat → Bool) (t : Nat) : savedRank saved t ≤ t := by
  simpa [savedRank] using List.length_filter_le saved (List.range t)

/-- The saved tags in order, each with its rank. -/
theorem zip_range_saved (saved : Nat → Bool) (n : Nat) :
    ((List.range n).filter saved).zip (List.range ((List.range n).filter saved).length) =
      ((List.range n).filter saved).map fun t => (t, savedRank saved t) := by
  induction n with
  | zero => rfl
  | succ n ih =>
    rw [List.range_succ, List.filter_append]
    by_cases hs : saved n = true
    · have hone : [n].filter saved = [n] := by simp [hs]
      rw [hone, List.length_append, List.length_singleton, List.range_succ, List.zip_append (by simp), ih, List.map_append]
      rfl
    · have hnone : [n].filter saved = [] := by simp [hs]
      rw [hnone, List.append_nil, ih]

theorem storeOf_eq (bitmap packed : List Byte) (saved : Nat → Bool)
    (hs : ∀ t, t < 8192 → saved t = (bitmap.getD (t / 8) 0#8).getLsbD (t % 8)) :
    storeOf bitmap packed =
      writeBlocks 32 (fun t => (packed.drop (32 * savedRank saved t)).take 32) ((List.range 8192).filter saved) [] := by
  have htags : (List.range 8192).filter (fun t => (bitmap.getD (t / 8) 0#8).getLsbD (t % 8)) = (List.range 8192).filter saved :=
    List.filter_congr fun t ht => (hs t (List.mem_range.mp ht)).symm
  simp only [storeOf, htags, zip_range_saved, List.foldl_map]
  rfl

theorem read_storeOf (far : FarReply) (b : Nat) (bitmap : List Byte) (saved : Nat → Bool)
    (hs : ∀ t, t < 8192 → saved t = (bitmap.getD (t / 8) 0#8).getLsbD (t % 8)) {t k : Nat} (ht : t < 8192) (hk : k < 32) :
    (storeOf bitmap (replyBytes far b 0x40000)).read (32 * t + k) =
      if saved t then replyByte far (b + 32 * savedRank saved t + k) else 0#8 := by
  have hfit {t : Nat} (ht : t < 8192) : 32 * savedRank saved t + 32 ≤ 0x40000 := by
    have := savedRank_le saved t
    omega
  rw [storeOf_eq _ _ saved hs, read_writeBlocks _ Memory.wf_nil ?_ hk]
  · simp only [List.mem_filter, List.mem_range, ht, true_and]
    split
    · rw [slice_replyBytes _ (hfit ht), getD_replyBytes _ hk]
    · rfl
  · intro g hg
    have hg8 : g < 8192 := List.mem_range.mp (List.mem_of_mem_filter hg)
    rw [slice_replyBytes _ (hfit hg8), length_replyBytes]

end Sys2Proof.Machine
end
noncomputable section
namespace Sys2Proof.Machine

/-! RESTORE (R404, R416). -/

/-! The ranges of a bank. -/

section

variable (far : FarReply) {a p o n k : Nat}

theorem bankBytes_zero (a n : Nat) : bankBytes far a 0 n = replyBytes far a n := rfl

@[simp] theorem length_bankBytes (a p n : Nat) : (bankBytes far a p n).length = n := length_replyBytes ..

theorem slice_bankBytes (h : o + n ≤ k) :
    ((bankBytes far a p k).drop o).take n = replyBytes far (a + (p + o)) n := by
  rw [bankBytes, slice_replyBytes far h, Nat.add_assoc]

theorem leAt_bankBytes (h : o + n ≤ k) : leAt (bankBytes far a p k) o n = ofLE (replyBytes far (a + (p + o)) n) := by
  rw [leAt, slice_bankBytes far h]

end

/-! What a bank that is loaded puts where. -/

section

variable (s : State) (far : FarReply) (a : Nat)

theorem State.loadBank_kept :
    (s.loadBank far a).gaffer = s.gaffer ∧ (s.loadBank far a).core = s.core ∧ (s.loadBank far a).tier.state = s.tier.state ∧
      (s.loadBank far a).journal.rstate = .restored := by
  simp only [State.loadBank, State.forgetFar, and_self]

theorem State.loadBank_header :
    (s.loadBank far a).journal.restId = BitVec.ofNat 64 (leAt (bankBytes far a 0 128) 8 8) ∧
      (s.loadBank far a).journal.restLcid = some (BitVec.ofNat 11 (leAt (bankBytes far a 0 128) 18 2)) := by
  simp only [State.loadBank, and_self]

theorem State.loadBank_local {g k : Nat} (hg : g < 512) (hk : k < 4096) :
    (s.loadBank far a).mem.mem.read (4096 * g + k) =
      if (replyByte far (a + 32 + g / 8)).getLsbD (g % 8) then replyByte far (a + 0x80000 + 4096 * g + k) else 0#8 := by
  have hmem : (s.loadBank far a).mem.mem = localOf far a (((bankBytes far a 0 128).drop 32).take 64) := by simp only [State.loadBank]
  rw [hmem, read_localOf _ _ _ hg hk, slice_bankBytes _ (by decide), getD_replyBytes _ (by omega), Nat.zero_add]

theorem State.loadBank_store {saved : Nat → Bool}
    (hs : ∀ t, saved t = (replyByte far (a + 0x1800 + t / 8)).getLsbD (t % 8)) {t k : Nat} (ht : t < 8192) (hk : k < 32) :
    (s.loadBank far a).rings.store.read (32 * t + k) =
      if saved t then replyByte far (a + 0x2A000 + 32 * savedRank saved t + k) else 0#8 := by
  have hstore : (s.loadBank far a).rings.store =
      storeOf (((bankBytes far a 0x1000 4096).drop 0x800).take 1024) (bankBytes far a 0x2A000 0x40000) := by simp only [State.loadBank]
  rw [hstore, slice_bankBytes _ (by decide), bankBytes]
  refine read_storeOf far _ _ saved (fun t ht => ?_) ht hk
  rw [getD_replyBytes _ (by omega), hs]

theorem State.loadBank_credit {k : Nat} (hk : k < 0x8000) :
    (s.loadBank far a).rings.credit.read k = replyByte far (a + 0x2000 + k) := by
  have hcredit : (s.loadBank far a).rings.credit = Memory.writeBytes [] 0 (bankBytes far a 0x2000 0x8000) := by simp only [State.loadBank]
  rw [hcredit, bankBytes, read_writeBytes_replyBytes _ _ hk]

theorem State.loadBank_seqTable {k : Nat} (hk : k < 0x4000) :
    (s.loadBank far a).se.seqTable.read k = replyByte far (a + 0xA000 + k) := by
  have hseq : (s.loadBank far a).se.seqTable = Memory.writeBytes [] 0 (bankBytes far a 0xA000 0x4000) := by simp only [State.loadBank]
  rw [hseq, bankBytes, read_writeBytes_replyBytes _ _ hk]

theorem State.loadBank_sendCount {e : Nat} (he : e < 2048) :
    Tbl.get 0#32 (s.loadBank far a).rings.sendCount e = BitVec.ofNat 32 (ofLE (replyBytes far (a + 0x18000 + 4 * e) 4)) := by
  have hcount : (s.loadBank far a).rings.sendCount =
      tableOf 0#32 2048 fun e => BitVec.ofNat 32 (leAt (bankBytes far a 0x18000 0x2000) (4 * e) 4) := by simp only [State.loadBank]
  rw [hcount, get_tableOf _ _ he, leAt_bankBytes _ (by omega), Nat.add_assoc]

theorem State.loadBank_creditCount {t : Nat} (ht : t < 8192) :
    Tbl.get 0#32 (s.loadBank far a).rings.creditCount t =
      BitVec.ofNat 32 (ofLE (replyBytes far (a + 0x1A000 + 8 * t + 4) 4)) := by
  have hcount : (s.loadBank far a).rings.creditCount =
      tableOf 0#32 8192 fun t => BitVec.ofNat 32 (leAt (bankBytes far a 0x1A000 0x10000) (8 * t + 4) 4) := by simp only [State.loadBank]
  rw [hcount, get_tableOf _ _ ht, leAt_bankBytes _ (by omega), Nat.add_assoc, Nat.add_assoc]

theorem State.loadBank_revokeCount {t : Nat} (ht : t < 8192) :
    Tbl.get 0#16 (s.loadBank far a).rings.revokeCount t =
      BitVec.ofNat 16 (ofLE (replyBytes far (a + 0x1A000 + 8 * t + 2) 2)) := by
  have hcount : (s.loadBank far a).rings.revokeCount =
      tableOf 0#16 8192 fun t => BitVec.ofNat 16 (leAt (bankBytes far a 0x1A000 0x10000) (8 * t + 2) 2) := by simp only [State.loadBank]
  rw [hcount, get_tableOf _ _ ht, leAt_bankBytes _ (by omega), Nat.add_assoc, Nat.add_assoc]

theorem State.loadBank_barrier {b : Nat} (hb : b < 14) :
    (s.loadBank far a).barrier b = Barrier.ofBytes (replyBytes far (a + 0x1000 + 32 * b) 32) := by
  have hbars : (s.loadBank far a).lehr.bars = Vector.ofFn fun (b : Fin 14) =>
      Barrier.ofBytes (((bankBytes far a 0x1000 4096).drop (32 * b.val)).take 32) := by simp only [State.loadBank]
  rw [State.barrier, hbars, Vec.at_eq _ _ hb, Vector.getElem_ofFn, slice_bankBytes _ (by dsimp only; omega), Nat.add_assoc]

theorem State.loadBank_digestVal {d : Nat} (hd : d < 64) :
    Tbl.get 0#64 (s.loadBank far a).digests.val d = BitVec.ofNat 64 (ofLE (replyBytes far (a + 0x1200 + 16 * d) 8)) := by
  have hval : (s.loadBank far a).digests.val =
      tableOf 0#64 64 fun d => BitVec.ofNat 64 (leAt (bankBytes far a 0x1000 4096) (0x200 + 16 * d) 8) := by simp only [State.loadBank]
  rw [hval, get_tableOf _ _ hd, leAt_bankBytes _ (by omega), ← Nat.add_assoc 0x1000, Nat.add_assoc a]

theorem State.loadBank_digestCnt {d : Nat} (hd : d < 64) :
    Tbl.get 0#32 (s.loadBank far a).digests.cnt d = BitVec.ofNat 32 (ofLE (replyBytes far (a + 0x1208 + 16 * d) 4)) := by
  have hcnt : (s.loadBank far a).digests.cnt =
      tableOf 0#32 64 fun d => BitVec.ofNat 32 (leAt (bankBytes far a 0x1000 4096) (0x208 + 16 * d) 4) := by simp only [State.loadBank]
  rw [hcnt, get_tableOf _ _ hd, leAt_bankBytes _ (by omega), ← Nat.add_assoc 0x1000, Nat.add_assoc a]

theorem State.loadBank_registers :
    (s.loadBank far a).journal.live = BitVec.ofNat 512 (ofLE (replyBytes far (a + 0x1600) 64)) ∧
      (s.loadBank far a).journal.resume = BitVec.ofNat 16 (ofLE (replyBytes far (a + 0x1740) 2)) ∧
      (s.loadBank far a).tier.detNext = bit 0 (ofLE (replyBytes far (a + 0x1744) 1)) := by
  have hlive : (s.loadBank far a).journal.live = BitVec.ofNat 512 (leAt (bankBytes far a 0x1000 4096) 0x600 64) := by simp only [State.loadBank]
  have hresume : (s.loadBank far a).journal.resume = BitVec.ofNat 16 (leAt (bankBytes far a 0x1000 4096) 0x740 2) := by simp only [State.loadBank]
  have hdet : (s.loadBank far a).tier.detNext = bit 0 (leAt (bankBytes far a 0x1000 4096) 0x744 1) := by simp only [State.loadBank]
  rw [hlive, hresume, hdet, leAt_bankBytes _ (by decide), leAt_bankBytes _ (by decide), leAt_bankBytes _ (by decide)]
  exact ⟨rfl, rfl, rfl⟩

theorem State.loadBank_shard {i : Nat} (hi : i < 256) :
    (s.loadBank far a).shard i = shardOf (replyBytes far (a + 0xE000 + 160 * i) 160) := by
  have hshards : (s.loadBank far a).marver.shards = tableOf Shard.none 256 fun i =>
      shardOf (((bankBytes far a 0xE000 (256 * 160)).drop (160 * i)).take 160) := by simp only [State.loadBank]
  rw [State.shard, hshards, get_tableOf _ _ hi, slice_bankBytes _ (by omega), Nat.add_assoc]

end

/-! The program has ended when a bank is loaded (R29, R405). -/

theorem State.endProgram_core (s : State) :
    s.endProgram.core.running = false ∧ s.endProgram.core.imem = s.core.imem ∧
      (∀ t, t < 32 → (s.endProgram.task t).state = .free) := by
  refine ⟨rfl, rfl, fun t ht => ?_⟩
  have htask : s.endProgram.task t = Task.fresh := Vec.at_replicate _ _ ht
  rw [htask]; rfl

end Sys2Proof.Machine
end
noncomputable section
namespace Sys2Proof.Machine

/-! Reads of far memory by firmware, and the FINAL reply (R428, R439, R463). -/

section

variable {s : State} {far : FarReply} {a n : Nat}

theorem State.farChecked_good (h : ∀ e ∈ far.errs, a ≤ e.1 → e.1 < a + n → e.2 = .ok) : s.farChecked far a n = (none, s) := by
  have hfail : farFail far a n = none := by
    rw [farFail, List.find?_eq_none]
    intro e he
    simp only [Bool.and_eq_true, decide_eq_true_eq, bne_iff_ne, ne_eq, not_and, not_not, and_imp]
    exact h e he
  rw [State.farChecked, hfail]

/-- The parts of a state that a RESTORE's kiln record leaves. -/
def State.offKiln (s : State) := (s.core, s.mem, s.tier, s.gaffer.action)

/-- A read that meets an error fails with its code; an uncorrectable error leaves a kiln record. -/
theorem State.farChecked_bad (h : ∃ e ∈ far.errs, a ≤ e.1 ∧ e.1 < a + n ∧ e.2 ≠ .ok) :
    ∃ code t, s.farChecked far a n = (some code, t) ∧ t.offKiln = s.offKiln := by
  obtain ⟨e, he, hge, hlt, hne⟩ := h
  have hsome : (farFail far a n).isSome = true := by
    rw [farFail, List.find?_isSome]
    exact ⟨e, he, by simp [hge, hlt, hne]⟩
  obtain ⟨⟨w, err⟩, hw⟩ := Option.isSome_iff_exists.mp hsome
  have herr : err ≠ .ok := by
    have hp := List.find?_some hw
    simp only [Bool.and_eq_true, bne_iff_ne] at hp
    obtain ⟨-, hp⟩ := hp
    exact hp
  rw [State.farChecked, hw]
  cases err with
  | ok => exact absurd rfl herr
  | data => exact ⟨_, _, rfl, by simp [State.offKiln]⟩
  | address => exact ⟨_, s, rfl, rfl⟩

theorem State.final_parts (s : State) (r : ReplyTo) (c : Half) (ws : List Nat) :
    s.final r c ws = { s with
      gaffer := (s.final r c ws).gaffer, router := (s.final r c ws).router, raised := (s.final r c ws).raised } := by
  unfold State.final State.reply
  dsimp only
  split <;> rfl

theorem State.final_action (s : State) (r : ReplyTo) (c : Half) (ws : List Nat) :
    (s.final r c ws).gaffer.action = s.gaffer.action := State.reply_action ..

theorem isLoc_of_isSys {x : Nat} (h : isSys x = true) : isLoc x = false := by
  simp only [isSys, beq_iff_eq] at h
  have hlocal : ¬ x < Config.localSize := by unfold Config.localSize; omega
  exact decide_eq_false hlocal

/-- An image in far memory that can be read. -/
theorem State.readImage_far {src : Nat} (hsys : isSys src = true)
    (h : ∀ e ∈ far.errs, sysBits src ≤ e.1 → e.1 < sysBits src + n → e.2 = .ok) :
    s.readImage far src n = (none, replyBytes far (sysBits src) n, s) := by
  have hend : isEndpoint src = true := by simp [isEndpoint, hsys]
  simp [State.readImage, isLoc_of_isSys hsys, hend, State.farChecked_good h]

end

/-! The reads of a RESTORE are complete (R416). -/

/-- The command that the Gaffer carried out is over. -/
def State.actionOver (s : State) : State := { s with gaffer := { s.gaffer with action := none } }

/-- Where the named bank stands. -/
def bankAddr (base : DWord) (bank : Bool) : Nat := sysBits base.toNat + (if bank then 0x280000 else 0)

/-- The program has ended and nothing is restored. -/
def State.restoreFailed (s : State) : State :=
  { s.endProgram with journal := { s.endProgram.journal with rstate := .none } }

/-- The bank is loaded and the image stands in instruction memory. -/
def State.restored (s : State) (far : FarReply) (base src : DWord) (bank : Bool) (len : Nat) : State :=
  (s.endProgram.loadImage (replyBytes far (sysBits src.toNat) len)).loadBank far (bankAddr base bank)

section

variable {s : State} {far : FarReply} {r : ReplyTo} {base src : DWord} {bank : Bool} {len : Nat}

theorem exec_restoreLoadComplete (far : FarReply) (s : State) :
    exec (.restoreLoadComplete far) s = execRestoreLoadComplete far s := rfl

theorem State.headerOk_iff (s : State) (h : List Byte) : s.headerOk h = true ↔
    leAt h 0 4 = 0x20000 ∧ leAt h 124 4 = (crc32c (h.take 124)).toNat ∧ leAt h 22 1 % 2 = 1 ∧
      leAt h 16 2 = s.router.chip.toNat := by
  simp only [State.headerOk, Bool.and_eq_true, beq_iff_eq, bit, Nat.testBit_zero, decide_eq_true_eq, and_assoc]

variable (hal : s.pins.alive = true) (hact : s.gaffer.action = some (.restore r base bank src len))
include hal hact

theorem restore_outsideRun (hrun : s.inRun = false) :
    exec (.restoreLoadComplete far) s = .next (s.actionOver.final r Code.badParam []) := by
  have hrun' : s.actionOver.inRun = false := hrun
  simp only [State.actionOver] at hrun' ⊢
  simp only [exec_restoreLoadComplete, execRestoreLoadComplete, hal, hact, Bool.not_true, Bool.false_eq_true, if_false,
    hrun', Bool.not_false, if_true]

theorem restore_unread (hrun : s.inRun = true) {code : Half} {t : State}
    (hread : s.actionOver.farChecked far (bankAddr base bank) 0x280000 = (some code, t)) :
    exec (.restoreLoadComplete far) s = .next (t.restoreFailed.final r code []) := by
  have hrun' : s.actionOver.inRun = true := hrun
  simp only [State.actionOver, bankAddr] at hrun' hread ⊢
  simp only [exec_restoreLoadComplete, execRestoreLoadComplete, hal, hact, Bool.not_true, Bool.false_eq_true, if_false,
    hrun', hread]
  rfl

theorem restore_refused (hrun : s.inRun = true)
    (hread : s.actionOver.farChecked far (bankAddr base bank) 0x280000 = (none, s.actionOver))
    (hhead : s.headerOk (bankBytes far (bankAddr base bank) 0 128) = false) :
    exec (.restoreLoadComplete far) s = .next (s.actionOver.final r Code.badParam []) := by
  have hrun' : s.actionOver.inRun = true := hrun
  have hhead' : s.actionOver.headerOk (bankBytes far (bankAddr base bank) 0 128) = false := hhead
  simp only [State.actionOver, bankAddr] at hrun' hread hhead' ⊢
  simp only [exec_restoreLoadComplete, execRestoreLoadComplete, hal, hact, Bool.not_true, Bool.false_eq_true, if_false,
    hrun', hread, hhead', Bool.not_false, if_true]

theorem restore_loads (hrun : s.inRun = true)
    (hread : s.actionOver.farChecked far (bankAddr base bank) 0x280000 = (none, s.actionOver))
    (hhead : s.headerOk (bankBytes far (bankAddr base bank) 0 128) = true)
    (himage : s.actionOver.readImage far src.toNat len = (none, replyBytes far (sysBits src.toNat) len, s.actionOver)) :
    ∃ ws, exec (.restoreLoadComplete far) s = .next ((s.actionOver.restored far base src bank len).final r Code.ok ws) := by
  have hrun' : s.actionOver.inRun = true := hrun
  have hhead' : s.actionOver.headerOk (bankBytes far (bankAddr base bank) 0 128) = true := hhead
  simp only [State.actionOver, bankAddr] at hrun' hread hhead' himage ⊢
  simp only [exec_restoreLoadComplete, execRestoreLoadComplete, hal, hact, Bool.not_true, Bool.false_eq_true, if_false,
    hrun', hread, hhead', himage]
  exact ⟨_, rfl⟩

end

end Sys2Proof.Machine
end
noncomputable section
namespace Sys2Proof.Machine

section

variable {s : State} {r : ReplyTo}

/-- A refused RESTORE answers and changes nothing. -/
theorem State.actionOver_final (s : State) (r : ReplyTo) (c : Half) :
    (s.actionOver.final r c []).gaffer.action = none ∧
      s.actionOver.final r c [] = { s with
        gaffer := (s.actionOver.final r c []).gaffer, router := (s.actionOver.final r c []).router
        raised := (s.actionOver.final r c []).raised } :=
  ⟨State.final_action .., s.actionOver.final_parts r c []⟩

/-- The reply of a RESTORE that could not read the bank: the program has ended, STATE is NONE and memory stays. -/
theorem restoreFailed_final {t : State} (ht : t.offKiln = s.actionOver.offKiln) (c : Half) :
    (t.restoreFailed.final r c []).gaffer.action = none ∧ (t.restoreFailed.final r c []).journal.rstate = .none ∧
      (t.restoreFailed.final r c []).core.running = false ∧
      (∀ k, k < 32 → ((t.restoreFailed.final r c []).task k).state = .free) ∧
      (t.restoreFailed.final r c []).core.imem = s.core.imem ∧ (t.restoreFailed.final r c []).mem = s.mem ∧
      (t.restoreFailed.final r c []).tier = s.tier := by
  simp only [State.offKiln, Prod.mk.injEq] at ht
  obtain ⟨hcore, hmem, htier, hact⟩ := ht
  obtain ⟨hrun, himem, htasks⟩ := t.endProgram_core
  refine ⟨(State.final_action ..).trans hact, by simp [State.restoreFailed], ?_, fun k hk => ?_, ?_, ?_, ?_⟩
  · simpa [State.restoreFailed] using hrun
  · simpa [State.restoreFailed, State.task] using htasks k hk
  · have : t.core.imem = s.core.imem := congrArg Core.imem hcore
    simpa [State.restoreFailed, ← this] using himem
  · have : t.mem = s.mem := hmem
    simpa [State.restoreFailed] using this
  · have : t.tier = s.tier := htier
    simpa [State.restoreFailed] using this

/-- The core once the bank is loaded: the image in instruction memory, no task. -/
theorem State.restored_core (s : State) (far : FarReply) (base src : DWord) (bank : Bool) (len : Nat) :
    (s.restored far base src bank len).core.running = false ∧
      (s.restored far base src bank len).core.imem = s.core.imem.writeBytes 0 (replyBytes far (sysBits src.toNat) len) ∧
      (∀ t, t < 32 → ((s.restored far base src bank len).task t).state = .free) := by
  obtain ⟨-, hcore, -, -⟩ :=
    (s.endProgram.loadImage (replyBytes far (sysBits src.toNat) len)).loadBank_kept far (bankAddr base bank)
  obtain ⟨-, -, htasks⟩ := s.endProgram_core
  unfold State.restored State.task
  rw [hcore]
  exact ⟨rfl, rfl, htasks⟩

end

/-- Settles O49: a read of the bank that fails, a header that is refused and a bank that is loaded are the three answers of
`execRestoreLoadComplete`; what each part holds afterwards is read off `loadBank` part by part. -/
theorem restoreLoadsSnapshot : Obligations.RestoreLoadsSnapshot := by
  unfold Obligations.RestoreLoadsSnapshot
  intro s far r base src bank len a h hal hact ha hh
  have ha' : a = bankAddr base bank := ha
  rw [← bankBytes_zero] at hh
  clear ha
  subst ha' hh
  refine ⟨fun hrun => ?_, fun hrun hbad => ?_, fun hrun hgood => ⟨fun hhead => ?_, fun hfmt hcrc hcomplete hchip hsys himage => ?_⟩⟩
  · exact ⟨_, restore_outsideRun hal hact hrun, s.actionOver_final r _⟩
  · obtain ⟨code, t, hread, ht⟩ := State.farChecked_bad (s := s.actionOver) hbad
    exact ⟨_, restore_unread hal hact hrun hread, restoreFailed_final ht code⟩
  · have hrefused : s.headerOk (bankBytes far (bankAddr base bank) 0 128) = false := by
      rw [Bool.eq_false_iff, ne_eq, State.headerOk_iff]
      rintro ⟨h1, h2, h3, h4⟩
      rcases hhead with h | h | h | h
      · exact h h1
      · exact h h2
      · omega
      · exact h h4
    exact ⟨_, restore_refused hal hact hrun (State.farChecked_good hgood) hrefused, s.actionOver_final r _⟩
  · have hok := (s.headerOk_iff _).mpr ⟨hfmt, hcrc, hcomplete, hchip⟩
    obtain ⟨ws, hexec⟩ := restore_loads hal hact hrun (State.farChecked_good hgood) hok (State.readImage_far hsys himage)
    obtain ⟨hcrun, hcimem, hctasks⟩ := s.actionOver.restored_core far base src bank len
    obtain ⟨w, hw⟩ : ∃ w, w = s.actionOver.restored far base src bank len := ⟨_, rfl⟩
    obtain ⟨z, hz⟩ : ∃ z, z = s.actionOver.endProgram.loadImage (replyBytes far (sysBits src.toNat) len) := ⟨_, rfl⟩
    have hload : w = z.loadBank far (bankAddr base bank) := by rw [hw, hz, State.restored]
    have hkeep := w.final_frame r Code.ok ws
    have hfin := w.final_action r Code.ok ws
    rw [← hw] at hexec hcrun hcimem hctasks
    obtain ⟨u, hu⟩ : ∃ u, u = w.final r Code.ok ws := ⟨_, rfl⟩
    rw [← hu] at hexec hkeep hfin
    obtain ⟨-, -, -, -, -, -, hcore, -, -, -, hdig, hmem, hse, -, hrings, -, hlehr, hmarver, hjournal, htier, -⟩ := hkeep
    obtain ⟨hgaffer, -, hstate, hrst⟩ := z.loadBank_kept far (bankAddr base bank)
    obtain ⟨hid, hlcid⟩ := z.loadBank_header far (bankAddr base bank)
    obtain ⟨hlive, hresume, hdet⟩ := z.loadBank_registers far (bankAddr base bank)
    have hbarrier (b : Nat) : u.barrier b = w.barrier b := by rw [State.barrier, hlehr, ← State.barrier]
    have hshard (i : Nat) : u.shard i = w.shard i := by rw [State.shard, hmarver, ← State.shard]
    have htask (t : Nat) : u.task t = w.task t := by rw [State.task, hcore, ← State.task]
    rw [← hload] at hgaffer hstate hrst hid hlcid hlive hresume hdet
    refine ⟨u, hexec, ?_, ?_, ?_, ?_, fun g k hg hk => ?_, fun saved hs t k ht hk => ?_, fun k hk => ?_, fun k hk => ?_,
      fun e he => ?_, fun t ht => ⟨?_, ?_⟩, fun b e hb he => ?_, fun d hd => ⟨?_, ?_⟩, ?_, ?_, ?_, fun i e hi he => ?_, ?_, ?_,
      fun t ht => ?_, ?_⟩
    · rw [hfin, hgaffer, hz]; rfl
    · rw [hjournal, hrst]
    · rw [hjournal, hid]
    · rw [hjournal, hlcid]
    · rw [hmem, hload, State.loadBank_local _ _ _ hg hk]
    · rw [hrings, hload, State.loadBank_store _ _ _ hs ht hk, savedRank]
    · rw [hrings, hload, State.loadBank_credit _ _ _ hk]
    · rw [hse, hload, State.loadBank_seqTable _ _ _ hk]
    · rw [hrings, hload, State.loadBank_sendCount _ _ _ he]
    · rw [hrings, hload, State.loadBank_creditCount _ _ _ ht]
    · rw [hrings, hload, State.loadBank_revokeCount _ _ _ ht]
    · rw [hbarrier, hload, State.loadBank_barrier _ _ _ hb, ← he]
      exact ⟨rfl, rfl, rfl, rfl, rfl, rfl, rfl⟩
    · rw [hdig, hload, State.loadBank_digestVal _ _ _ hd]
    · rw [hdig, hload, State.loadBank_digestCnt _ _ _ hd]
    · rw [hjournal, hlive]
    · rw [hjournal, hresume]
    · rw [htier, hdet]
    · rw [hshard, hload, State.loadBank_shard _ _ _ hi, ← he]
      exact ⟨rfl, rfl, rfl⟩
    · rw [hcore, hcimem]; rfl
    · rw [hcore, hcrun]
    · rw [htask, hctasks t ht]
    · rw [htier, hstate, hz]; rfl

end Sys2Proof.Machine
end

/-! TST rows in local memory (R83, R84). -/

noncomputable section
namespace Sys2Proof.Machine

/-- The bytes of the rows that a TST stores from its row `k` on, `n` of them. -/
def TileMove.storedRows (c : TileMove) (m : MatrixEngine) (t : TileShape) (n k : Nat) : List (List Byte) :=
  (List.range' k n).map fun i => m.rowBytes t c.tile (c.row + i)

section
variable {s : State} {e : Fin 4} {c : TileMove} {t : TileShape} {n k : Nat}

theorem TileMove.getElem?_storedRows {m : MatrixEngine} {r : Nat} {row : List Byte} :
    (c.storedRows m t n 0)[r]? = some row ↔ r < n ∧ m.rowBytes t c.tile (c.row + r) = row := by
  simp [TileMove.storedRows, List.getElem?_eq_some_iff]

theorem MatrixEngine.rowBytes_valid {m : MatrixEngine} {tile row : Nat} (h : m.rowValid tile row = true) :
    m.rowBytes t tile row = m.pool.readBytes (t.base + row * t.stride) t.stride := if_pos h

theorem MatrixEngine.length_rowBytes (m : MatrixEngine) (t : TileShape) (tile row : Nat) :
    (m.rowBytes t tile row).length = t.stride := by
  unfold MatrixEngine.rowBytes
  split
  · exact Memory.length_readBytes _ _ _
  · exact List.length_replicate

theorem MatrixEngine.getD_rowBytes {m : MatrixEngine} {tile row j : Nat} (h : m.rowValid tile row = true)
    (hj : j < t.stride) : (m.rowBytes t tile row).getD j 0#8 = m.pool.read (t.base + row * t.stride + j) := by
  rw [MatrixEngine.rowBytes_valid h, List.getD_eq_getElem _ _ (by rwa [Memory.length_readBytes]), Memory.getElem_readBytes]

theorem MatrixEngine.rowError_whole {m : MatrixEngine} {tile row : Nat}
    (h : m.poolError (t.base + row * t.stride) t.stride = none) : m.rowError t tile row t.whole = none := by
  simp [MatrixEngine.rowError, TileShape.whole, h]

/-- Valid rows without an uncorrectable error are written one after another (R83, R84). -/
theorem tstRows_good (hgood : ∀ i, k ≤ i → i < k + n → (s.me e.val).rowValid c.tile (c.row + i) = true ∧
    (s.me e.val).poolError (t.base + (c.row + i) * t.stride) t.stride = none) :
    tstRows s e c t n k = (writeRows s c.addr c.stride (c.storedRows (s.me e.val) t n k) k, none) := by
  induction n generalizing s k with
  | zero => rfl
  | succ n ih =>
    obtain ⟨hvalid, herror⟩ := hgood k le_rfl (by omega)
    have hrest := ih (s := s.lwrite (c.addr + k * c.stride) ((s.me e.val).rowBytes t c.tile (c.row + k))) (k := k + 1)
      fun i hk hi => hgood i (by omega) (by omega)
    simp only [tstRows, hvalid, Bool.not_true, Bool.false_eq_true, if_false, MatrixEngine.rowError_whole herror, hrest]
    rfl

/-- A TST whose rows can all be read writes them and completes (R83, R84). -/
theorem exec_tstComplete_good {seq : Word} {opc : Byte} {rest : List InFlight} (hrun : s.inRun = true)
    (hhead : (s.me e.val).inflight = ⟨seq, opc, .tst c, false⟩ :: rest) (hshape : (s.me e.val).shape c.tile = some t)
    (hgood : ∀ k ≤ c.count, (s.me e.val).rowValid c.tile (c.row + k) = true ∧
      (s.me e.val).poolError (t.base + (c.row + k) * t.stride) t.stride = none) :
    exec (.tstComplete e) s = .next (meComplete
      (writeRows s c.addr c.stride (c.storedRows (s.me e.val) t (c.count + 1) 0) 0) e 0 ⟨seq, opc, .tst c, false⟩) := by
  have hrows := tstRows_good (n := c.count + 1) (k := 0) fun i _ hi => hgood i (by omega)
  refine congrArg Host.Outcome.next ((meRun_head hrun hhead rfl _).trans ?_)
  simp only [hshape, hrows]

/-- Valid rows written at a stride that holds them are all in memory, and no byte outside them changes. -/
theorem TileMove.storedRows_written {m : MatrixEngine} {mem : Memory} (hwf : mem.wf = true) (hstride : t.stride ≤ c.stride)
    (hvalid : ∀ k < n, m.rowValid c.tile (c.row + k) = true) :
    (∀ k < n, ∀ j < t.stride, (mem.writeRows c.addr c.stride (c.storedRows m t n 0) 0).read (c.addr + k * c.stride + j) =
      m.pool.read (t.base + (c.row + k) * t.stride + j)) ∧
    ∀ a, (∀ k < n, a < c.addr + k * c.stride ∨ c.addr + k * c.stride + t.stride ≤ a) →
      (mem.writeRows c.addr c.stride (c.storedRows m t n 0) 0).read a = mem.read a := by
  constructor
  · intro k hk j hj
    have hread := Memory.read_writeRows_inside (k := 0) (r := k) (j := j) (dst := c.addr) (stride := c.stride) hwf
      (rows := c.storedRows m t n 0) (fun r row hr => by
        obtain ⟨-, rfl⟩ := TileMove.getElem?_storedRows.mp hr
        rwa [MatrixEngine.length_rowBytes])
      (TileMove.getElem?_storedRows.mpr ⟨hk, rfl⟩) (by rwa [MatrixEngine.length_rowBytes])
    rw [Nat.zero_add] at hread
    exact hread.trans (MatrixEngine.getD_rowBytes (hvalid k hk) hj)
  · intro a ha
    refine Memory.read_writeRows_outside hwf fun r row hr => ?_
    obtain ⟨hlt, rfl⟩ := TileMove.getElem?_storedRows.mp hr
    rw [Nat.zero_add, MatrixEngine.length_rowBytes]
    exact ha r hlt

end

/-- Settles O15: the rows are written one after another, no later one over an earlier one, and the command completes. -/
theorem tileStoreWritesRows : Obligations.TileStoreWritesRows := by
  intro s e seq opc c rest t hrun hhead hshape hstride hwf hgood
  refine ⟨_, exec_tstComplete_good hrun hhead hshape hgood, ?_⟩
  obtain ⟨hinside, houtside⟩ := TileMove.storedRows_written (t := t) (n := c.count + 1) hwf hstride
    fun k hk => (hgood k (by omega)).1
  obtain ⟨⟨hcore, hengines, -⟩, -, hmem⟩ :=
    writeRows_keeps s c.addr c.stride (c.storedRows (s.me e.val) t (c.count + 1) 0) 0
  set v := writeRows s c.addr c.stride (c.storedRows (s.me e.val) t (c.count + 1) 0) 0
  set x : InFlight := ⟨seq, opc, .tst c, false⟩
  rw [← hmem] at hinside houtside
  obtain ⟨hume, -⟩ := meComplete_me (s := v) (e := e) (i := 0) (x := x) rfl
  rw [State.me_of_engines hengines, MatrixEngine.dropOp_head hhead] at hume
  obtain ⟨humem, -, -⟩ := meComplete_units v e 0 x
  rw [hume, humem]
  exact ⟨fun k hk => hinside k (by omega), fun a ha => houtside a fun k hk => ha k (by omega), rfl, rfl, rfl,
    (meComplete_queue rfl).of_core hcore⟩

end Sys2Proof.Machine
end

/-! An input row of an MM (R113, R114, R116, R121, R137, R139). -/

noncomputable section
namespace Sys2Proof.Machine

/-! Outputs in the accumulators (R113). -/

section
variable {m : MatrixEngine} {f : Fmt} {a row b : Nat} {vs : List FVal}

theorem length_flatMap_leBytes (n : Nat) (g : FVal → Nat) (vs : List FVal) :
    (vs.flatMap fun v => leBytes n (g v)).length = vs.length * n := by
  simp [List.length_flatMap]

theorem MatrixEngine.wf_setAccRow_acc (hwf : Memory.wf m.acc = true) : Memory.wf (m.setAccRow f a row vs).acc = true :=
  Memory.wf_writeBytes _ _ _ hwf

/-- Values that fit an accumulator row leave every byte outside it. -/
theorem MatrixEngine.read_setAccRow_outside (hwf : Memory.wf m.acc = true) (hfit : vs.length ≤ 128 / f.bytes)
    (hb : b < accAddr a row ∨ accAddr a row + 128 ≤ b) : (m.setAccRow f a row vs).acc.read b = m.acc.read b := by
  have hlen : vs.length * f.bytes ≤ 128 := (Nat.mul_le_mul_right _ hfit).trans (Nat.div_mul_le_self _ _)
  refine Memory.read_writeBytes_outside _ _ _ _ hwf ?_
  rw [length_flatMap_leBytes]
  omega

theorem MatrixEngine.setOutputs_eq_ite (m : MatrixEngine) (f : Fmt) (a row : Nat) (vs : List FVal) :
    m.setOutputs f a row vs = if vs.length > 128 / f.bytes then
        (m.setAccRow f a row (vs.take (128 / f.bytes))).setAccRow f (a + 1) row (vs.drop (128 / f.bytes))
      else m.setAccRow f a row (vs.take (128 / f.bytes)) := rfl

/-- Outputs that fit the row's places in an accumulator and in the next one leave every byte outside these two. -/
theorem MatrixEngine.read_setOutputs_outside (hwf : Memory.wf m.acc = true) (hfit : vs.length ≤ 2 * (128 / f.bytes))
    (hb : b < accAddr a row ∨ accAddr a row + 128 ≤ b)
    (hb' : b < accAddr (a + 1) row ∨ accAddr (a + 1) row + 128 ≤ b) :
    (m.setOutputs f a row vs).acc.read b = m.acc.read b := by
  have hfirst : (m.setAccRow f a row (vs.take (128 / f.bytes))).acc.read b = m.acc.read b :=
    MatrixEngine.read_setAccRow_outside hwf (List.length_take_le _ _) hb
  rw [MatrixEngine.setOutputs_eq_ite]
  split
  · have hdrop : (vs.drop (128 / f.bytes)).length ≤ 128 / f.bytes := by
      rw [List.length_drop]; omega
    exact (MatrixEngine.read_setAccRow_outside (MatrixEngine.wf_setAccRow_acc hwf) hdrop hb').trans hfirst
  · exact hfirst

/-- Storing outputs changes the accumulators and nothing else of an engine. -/
theorem MatrixEngine.setOutputs_eq (m : MatrixEngine) (f : Fmt) (a row : Nat) (vs : List FVal) :
    m.setOutputs f a row vs = { m with acc := (m.setOutputs f a row vs).acc } := by
  rw [MatrixEngine.setOutputs_eq_ite]
  split <;> rfl

end

theorem length_rowOutputs (md : ArrayMode) (w : StationarySet) (x init : List FVal) :
    (rowOutputs md w x init).1.length = md.cls.outs md.trans := by
  simp [rowOutputs]

/-- The outputs of every class fit a row of one accumulator or of two (R113, R116). -/
theorem ClassTag.outs_le (c : ClassTag) (trans : Bool) : c.outs trans ≤ 2 * (128 / c.accFmt.bytes) := by
  cases c <;> cases trans <;> decide

/-! The row. -/

section
variable {s : State} {e : Fin 4} {c : MmCmd} {cls : ClassTag} {done : Nat} {t : TileShape} {xs out : List FVal} {gated : Nat}

/-- The elements that a slice of a row of a tile of shape `t` gives as input (R81, R102, R145). -/
def MatrixEngine.inputSlice (m : MatrixEngine) (t : TileShape) (cls : ClassTag) (trans : Bool) (tile row off : Nat) : List FVal :=
  sliceElems t.ty (((m.rowBytes t tile row).drop (off * 16)).take (cls.inSlice trans))
    ((m.rowBytes t tile row).drop (t.len + off / 2))

/-- The outputs and the gated positions of input row `done` of an MM, whose elements are `xs` (R110, R114, R137). -/
def mmOutputs (m : MatrixEngine) (c : MmCmd) (cls : ClassTag) (done : Nat) (xs : List FVal) : List FVal × Nat :=
  rowOutputs ⟨cls, c.spl, c.strict, c.trans⟩ m.weights xs
    (if c.zero then [] else m.getOutputs cls.accFmt c.acc (c.arow + done) (c.trans && cls.narrow))

/-- What an input row of an MM does to the engine: its outputs are stored, and it is counted (R116, R137, R139). -/
def MatrixEngine.accumulate (m : MatrixEngine) (c : MmCmd) (cls : ClassTag) (done : Nat) (out : List FVal)
    (gated : Nat) : MatrixEngine :=
  { m.setOutputs cls.accFmt c.acc (c.arow + done) out with
    abusy := m.abusy + BitVec.ofNat 64 (cls.passes c.spl)
    gated := m.gated + BitVec.ofNat 64 gated
    inflight := (m.setOp 0 (.mm c cls (done + 1))).inflight }

/-- What the row does to an engine does not depend on ME_TSTAT. -/
theorem MatrixEngine.accumulate_tstat (m : MatrixEngine) (empty : Bool) (emptyTile : BitVec 5) :
    MatrixEngine.accumulate { m with empty := empty, emptyTile := emptyTile } c cls done out gated =
      { m.accumulate c cls done out gated with empty := empty, emptyTile := emptyTile } := by
  unfold MatrixEngine.accumulate
  rw [MatrixEngine.setOutputs_eq_ite, MatrixEngine.setOutputs_eq_ite]
  split <;> rfl

/-- The state after input row `done` of the oldest command, an MM. -/
def mmAccumulated (s : State) (e : Fin 4) (c : MmCmd) (cls : ClassTag) (done : Nat) (out : List FVal) (gated : Nat) : State :=
  ((meWarnRow s e c.tile (c.row + done)).onMe e fun m => m.accumulate c cls done out gated).meLost e

/-- The warning of R81 sets ME_TSTAT alone. -/
theorem MatrixEngine.warnRow_eq (m : MatrixEngine) (tile row : Nat) : m.warnRow tile row =
    { m with empty := (m.warnRow tile row).empty, emptyTile := (m.warnRow tile row).emptyTile } := by
  unfold MatrixEngine.warnRow MatrixEngine.warnEmpty
  (repeat' split) <;> rfl

theorem meWarnRow_me (s : State) (e : Fin 4) (tile row : Nat) :
    (meWarnRow s e tile row).me e.val = (s.me e.val).warnRow tile row :=
  (State.me_of_engines (s := s.onMe e fun m => m.warnRow tile row) (by simp [meWarnRow]) e.val).trans (s.me_onMe_same e _)

theorem State.meLost_me (s : State) (e : Fin 4) : (s.meLost e).me e.val =
    { s.me e.val with tbub := satAdd (s.me e.val).tbub (Config.freeWord s.free 0).toNat } :=
  s.me_onMe_same e _

/-- The warning does not change what the row computes. -/
theorem mmOutputs_warned (s : State) (e : Fin 4) (tile row : Nat) :
    mmOutputs ((meWarnRow s e tile row).me e.val) c cls done xs = mmOutputs (s.me e.val) c cls done xs := by
  rw [meWarnRow_me, MatrixEngine.warnRow_eq]
  rfl

theorem tileInput_good {trans : Bool} {tile row off : Nat} (hshape : (s.me e.val).shape tile = some t)
    (herr : (s.me e.val).rowError t tile row (t.slice (off * 16) (cls.inSlice trans)) = none) :
    tileInput s e cls trans tile row off =
      (.ok ((s.me e.val).inputSlice t cls trans tile row off), meWarnRow s e tile row) := by
  simp only [tileInput, hshape, herr, MatrixEngine.inputSlice]

/-- A row that can be read is accumulated; the last one completes the command. -/
theorem mmRow_good {x : InFlight} (hshape : (s.me e.val).shape c.tile = some t)
    (herr : (s.me e.val).rowError t c.tile (c.row + done) (t.slice (c.off * 16) (cls.inSlice c.trans)) = none)
    (hout : mmOutputs (s.me e.val) c cls done ((s.me e.val).inputSlice t cls c.trans c.tile (c.row + done) c.off) =
      (out, gated)) :
    mmRow s e 0 x c cls done = if done ≥ c.count then meComplete (mmAccumulated s e c cls done out gated) e 0 x
      else mmAccumulated s e c cls done out gated := by
  have hwarned := (mmOutputs_warned s e c.tile (c.row + done)).trans hout
  rw [mmOutputs] at hwarned
  simp only [mmRow, tileInput_good hshape herr, hwarned]
  rfl

/-- The row changes the engine as `accumulate` says, beside the warning of R81 and the count of R94. -/
theorem mmAccumulated_me (s : State) (e : Fin 4) (c : MmCmd) (cls : ClassTag) (done : Nat) (out : List FVal) (gated : Nat) :
    ∃ empty emptyTile tbub, (mmAccumulated s e c cls done out gated).me e.val =
      { (s.me e.val).accumulate c cls done out gated with empty := empty, emptyTile := emptyTile, tbub := tbub } := by
  rw [mmAccumulated, State.meLost_me, State.me_onMe_same, meWarnRow_me, MatrixEngine.warnRow_eq, MatrixEngine.accumulate_tstat]
  exact ⟨_, _, _, rfl⟩

theorem mmAccumulated_keeps (s : State) (e : Fin 4) (c : MmCmd) (cls : ClassTag) (done : Nat) (out : List FVal) (gated : Nat) :
    (mmAccumulated s e c cls done out gated).core = s.core ∧ (mmAccumulated s e c cls done out gated).mem = s.mem := by
  simp [mmAccumulated, meWarnRow, State.meLost, State.onMe]

theorem MatrixEngine.accumulate_inflight {m : MatrixEngine} {x : InFlight} {rest : List InFlight}
    (hhead : m.inflight = x :: rest) :
    (m.accumulate c cls done out gated).inflight = { x with op := .mm c cls (done + 1) } :: rest :=
  congrArg MatrixEngine.inflight (MatrixEngine.setOp_head hhead _)

/-- The outputs of a row reach its places in the accumulator that the command names and in the next one, and no others. -/
theorem MatrixEngine.read_accumulate_outside {m : MatrixEngine} {a : Nat} (hwf : Memory.wf m.acc = true)
    (hout : mmOutputs m c cls done xs = (out, gated))
    (ha : a < accAddr c.acc (c.arow + done) ∨ accAddr c.acc (c.arow + done) + 128 ≤ a)
    (ha' : a < accAddr (c.acc + 1) (c.arow + done) ∨ accAddr (c.acc + 1) (c.arow + done) + 128 ≤ a) :
    (m.accumulate c cls done out gated).acc.read a = m.acc.read a := by
  have hlen : out.length = cls.outs c.trans := by
    have hrow : (mmOutputs m c cls done xs).1 = out := congrArg Prod.fst hout
    exact hrow ▸ length_rowOutputs _ _ _ _
  exact MatrixEngine.read_setOutputs_outside hwf (hlen.le.trans (cls.outs_le c.trans)) ha ha'

theorem exec_accumulatorRowWrite_mm {seq : Word} {opc : Byte} {rest : List InFlight} (hrun : s.inRun = true)
    (hhead : (s.me e.val).inflight = ⟨seq, opc, .mm c cls done, false⟩ :: rest) :
    exec (.accumulatorRowWrite e) s = .next (mmRow s e 0 ⟨seq, opc, .mm c cls done, false⟩ c cls done) :=
  congrArg Host.Outcome.next (meRun_head hrun hhead rfl _)

end

/-- Settles O20: a row that can be read is `accumulate` on the engine; the last one also takes the command off its list. -/
theorem matrixRowAccumulates : Obligations.MatrixRowAccumulates := by
  intro s e seq opc c cls done rest t out gated hrun hhead hshape herr hwf hout
  rw [exec_accumulatorRowWrite_mm hrun hhead, mmRow_good hshape herr hout]
  obtain ⟨empty, emptyTile, tbub, hme⟩ := mmAccumulated_me s e c cls done out gated
  obtain ⟨hcore, hmem⟩ := mmAccumulated_keeps s e c cls done out gated
  have hinflight := MatrixEngine.accumulate_inflight (c := c) (cls := cls) (done := done) (out := out) (gated := gated) hhead
  have hframe (a : Nat) (ha : a < 128 * 32 * c.acc + 128 * (c.arow + done) ∨
      (128 * 32 * c.acc + 128 * (c.arow + done) + 128 ≤ a ∧ (a < 128 * 32 * (c.acc + 1) + 128 * (c.arow + done) ∨
        128 * 32 * (c.acc + 1) + 128 * (c.arow + done) + 128 ≤ a))) :
      ((s.me e.val).accumulate c cls done out gated).acc.read a = (s.me e.val).acc.read a :=
    MatrixEngine.read_accumulate_outside hwf hout (by unfold accAddr; omega) (by unfold accAddr; omega)
  have hstored := (s.me e.val).setOutputs_eq cls.accFmt c.acc (c.arow + done) out
  have hactive := congrArg MatrixEngine.active hstored
  have hpool := congrArg MatrixEngine.pool hstored
  set v := mmAccumulated s e c cls done out gated
  set x : InFlight := ⟨seq, opc, .mm c cls done, false⟩
  refine ⟨_, rfl, ?_⟩
  by_cases hlast : done ≥ c.count
  · obtain ⟨hume, -⟩ := meComplete_me (s := v) (e := e) (i := 0) (x := x) rfl
    obtain ⟨humem, -, -⟩ := meComplete_units v e 0 x
    have hvhead : (v.me e.val).inflight = { x with op := .mm c cls (done + 1) } :: rest := by rw [hme]; exact hinflight
    rw [MatrixEngine.dropOp_head hvhead, hme] at hume
    rw [if_pos hlast, hume, humem]
    exact ⟨rfl, hframe, rfl, rfl, fun h => absurd h (Nat.not_lt.mpr hlast),
      fun _ => ⟨rfl, (meComplete_queue rfl).of_core hcore⟩, hactive, hpool, hmem⟩
  · rw [if_neg hlast, hme]
    exact ⟨rfl, hframe, rfl, rfl, fun _ => ⟨hinflight, hcore⟩, fun h => absurd h hlast, hactive, hpool, hmem⟩

end Sys2Proof.Machine
end

/-! A group's special value and its sum in the window (R151-R153). -/

noncomputable section
namespace Sys2Proof.Machine

section
variable {ps qs : List FVal}

/-- The special value asks only which kinds of product the group holds (R151). -/
theorem groupSpecial_perm (h : ps.Perm qs) : groupSpecial ps = groupSpecial qs := by
  have hany (p : FVal → Bool) : ps.any p = qs.any p := h.any_eq
  simp only [groupSpecial, hany]

/-- `emax` is a maximum: two products met in either order raise it to the same value. -/
theorem maxLead_perm (h : ps.Perm qs) : maxLead ps = maxLead qs := by
  refine h.foldl_eq' (fun a _ b _ acc => ?_) none
  cases a with
  | nan | inf => rfl
  | fin sa ma ea =>
    cases b with
    | nan | inf => rfl
    | fin sb mb eb =>
      by_cases ha : ma = 0
      · simp [ha]
      by_cases hb : mb = 0
      · simp [hb]
      cases acc <;> simp [ha, hb, max_comm, max_left_comm]

theorem windowSum_of_maxLead_none (w : Nat) (h : maxLead ps = none) : windowSum w ps = .fin (ps.all Val.sign) 0 0 := by
  simp only [windowSum, h]

/-- The window sum is the integer sum of the products, each taken as a multiple of the window's last bit (R152). -/
theorem windowSum_of_maxLead_some {l : Int} (w : Nat) (h : maxLead ps = some l) :
    windowSum w ps = .fin (decide ((ps.map (Val.toInt (l - w + 1))).sum < 0)) (ps.map (Val.toInt (l - w + 1))).sum.natAbs
      (l - w + 1) := by
  simp only [windowSum, h, List.sum_eq_foldl, List.foldl_map]
  refine congrArg (fun s : Int => FVal.fin (decide (s < 0)) s.natAbs _) (List.foldl_ext _ _ _ fun acc p _ => ?_)
  cases p with
  | nan | inf => exact (add_zero acc).symm
  | fin neg m e => cases neg <;> rfl

theorem windowSum_perm (w : Nat) (h : ps.Perm qs) : windowSum w ps = windowSum w qs := by
  cases hlead : maxLead qs with
  | none =>
    rw [windowSum_of_maxLead_none w hlead, windowSum_of_maxLead_none w ((maxLead_perm h).trans hlead), h.all_eq]
  | some l =>
    rw [windowSum_of_maxLead_some w hlead, windowSum_of_maxLead_some w ((maxLead_perm h).trans hlead), (h.map _).sum_eq]

end

/-- Settles O25: the special value, `emax` and the sum of the window's terms are each the same in every order. -/
theorem groupSumsIgnoreOrder : Obligations.GroupSumsIgnoreOrder := by
  intro f w acc ps qs h
  have hspecial := groupSpecial_perm h
  have hwindow := windowSum_perm w h
  exact ⟨hspecial, hwindow, by simp only [fastAdd, hspecial, hwindow]⟩

end Sys2Proof.Machine
end

/-! Finite elements of a format: decoded exactly, kept by rounding, and encoded as they stood (R141, R142). -/

noncomputable section
namespace Sys2Proof.Machine

/-! Fields of an encoding. -/

/-- The sign of an encoding: its top bit. -/
def Fmt.signField (f : Fmt) (x : Nat) : Bool := x.testBit (f.man + f.exp)

/-- The exponent field of an encoding, above the significand. -/
def Fmt.expField (f : Fmt) (x : Nat) : Nat := (x >>> f.man) % 2 ^ f.exp

/-- The significand field of an encoding: its low bits. -/
def Fmt.manField (f : Fmt) (x : Nat) : Nat := x % 2 ^ f.man

/-- What `encode` puts at the sign bit. -/
def Fmt.signBit (f : Fmt) (neg : Bool) : Nat := if neg then 2 ^ (f.man + f.exp) else 0

section
variable {f : Fmt} {m n k x : Nat} {e : Int} {neg : Bool}

theorem Fmt.manField_lt : f.manField x < 2 ^ f.man := Nat.mod_lt _ (Nat.two_pow_pos _)

theorem Fmt.expField_lt : f.expField x < 2 ^ f.exp := Nat.mod_lt _ (Nat.two_pow_pos _)

theorem Fmt.signBit_signField (hx : x < 2 ^ (f.man + f.exp + 1)) :
    f.signBit (f.signField x) = 2 ^ (f.man + f.exp) * (x / 2 ^ (f.man + f.exp)) := by
  have htop : x / 2 ^ (f.man + f.exp) < 2 := Nat.div_lt_of_lt_mul (by rwa [← pow_succ])
  rw [Fmt.signBit, Fmt.signField, Nat.testBit_eq_decide_div_mod_eq, Nat.mod_eq_of_lt htop]
  interval_cases x / 2 ^ (f.man + f.exp) <;> simp

/-- An encoding is its three fields, each at its place (R141). -/
theorem Fmt.fields_eq (hx : x < 2 ^ (f.man + f.exp + 1)) :
    f.signBit (f.signField x) + f.expField x * 2 ^ f.man + f.manField x = x := by
  rw [Fmt.signBit_signField hx, Fmt.expField, Fmt.manField, Nat.shiftRight_eq_div_pow, pow_add, ← Nat.div_div_eq_div_mul]
  calc 2 ^ f.man * 2 ^ f.exp * (x / 2 ^ f.man / 2 ^ f.exp) + x / 2 ^ f.man % 2 ^ f.exp * 2 ^ f.man + x % 2 ^ f.man
      = 2 ^ f.man * (2 ^ f.exp * (x / 2 ^ f.man / 2 ^ f.exp) + x / 2 ^ f.man % 2 ^ f.exp) + x % 2 ^ f.man := by ring
    _ = x := by rw [Nat.div_add_mod, Nat.div_add_mod]

theorem Fmt.decode_eq (f : Fmt) (x : Nat) : f.decode x =
    if f.inf && f.expField x == 2 ^ f.exp - 1 then (if f.manField x = 0 then .inf (f.signField x) else .nan)
    else if !f.inf && f.expField x == 2 ^ f.exp - 1 && f.manField x == 2 ^ f.man - 1 then .nan
    else if f.expField x = 0 then .fin (f.signField x) (f.manField x) f.qmin
    else .fin (f.signField x) (f.manField x + 2 ^ f.man) (f.expField x - f.bias - f.man) := rfl

/-- A finite element is a zero or subnormal one, of exponent field 0, or a normal one; the top exponent holds finite elements
only where there are no infinities, and then not the one of all ones (R142). -/
theorem Fmt.decode_of_finite (h : Val.isFinite (f.decode x) = true) :
    (f.expField x = 0 ∧ f.decode x = .fin (f.signField x) (f.manField x) f.qmin) ∨
    (0 < f.expField x ∧
      f.decode x = .fin (f.signField x) (f.manField x + 2 ^ f.man) (f.expField x - f.bias - f.man) ∧
      (f.expField x = 2 ^ f.exp - 1 → f.inf = false ∧ f.manField x ≠ 2 ^ f.man - 1)) := by
  rw [Fmt.decode_eq] at h ⊢
  split_ifs at h ⊢ with htop hzero hnan hsub
  · cases h
  · cases h
  · cases h
  · exact .inl ⟨hsub, rfl⟩
  · refine .inr ⟨Nat.pos_of_ne_zero hsub, rfl, fun he => ?_⟩
    have hinf : f.inf = false := by simpa [he] using htop
    exact ⟨hinf, by simpa [he, hinf] using hnan⟩

/-! Values that a format holds. -/

/-- `m * 2^e` as the format holds it: `m` fits the significand, has its leading bit unless `e` is the weight of subnormals,
and the magnitude is no greater than the largest finite one. -/
structure Fmt.Holds (f : Fmt) (m : Nat) (e : Int) : Prop where
  qmin_le : f.qmin ≤ e
  lt_two_pow : m < 2 ^ (f.man + 1)
  normal : f.qmin < e → 2 ^ f.man ≤ m
  le_max : e < f.maxE ∨ e = f.maxE ∧ m ≤ f.maxM

theorem Fmt.holds_subnormal (hexp : 2 ≤ f.exp) (hm : m < 2 ^ f.man) : f.Holds m f.qmin where
  qmin_le := le_rfl
  lt_two_pow := hm.trans (Nat.pow_lt_pow_succ Nat.one_lt_two)
  normal h := absurd h (lt_irrefl _)
  le_max := by
    have htop : (2 : Int) ^ 2 ≤ 2 ^ f.exp := pow_le_pow_right₀ (by omega) hexp
    left
    unfold Fmt.qmin Fmt.maxE
    split <;> omega

theorem Fmt.holds_normal (hm : m < 2 ^ f.man) (hk : 0 < k) (hlt : k < 2 ^ f.exp)
    (htop : k = 2 ^ f.exp - 1 → f.inf = false ∧ m ≠ 2 ^ f.man - 1) : f.Holds (m + 2 ^ f.man) (k - f.bias - f.man) where
  qmin_le := by unfold Fmt.qmin; omega
  lt_two_pow := by rw [pow_succ]; omega
  normal _ := Nat.le_add_left ..
  le_max := by
    have hcast : ((2 ^ f.exp : Nat) : Int) = 2 ^ f.exp := Nat.cast_pow 2 f.exp
    unfold Fmt.maxE Fmt.maxM
    rw [pow_succ]
    cases hinf : f.inf with
    | true =>
      have hne : k ≠ 2 ^ f.exp - 1 := fun h => by simp [hinf] at htop; omega
      simp only [if_true]
      omega
    | false =>
      simp only [Bool.false_eq_true, if_false]
      omega

theorem roundInt_self (md : RMode) (u m : Nat) (e : Int) : roundInt md u m e e = m := by simp [roundInt]

/-- The leading bit of a significand that is not subnormal. -/
theorem lead_of_normal (hlow : 2 ^ n ≤ m) (hlt : m < 2 ^ (n + 1)) (e : Int) : lead m e = n + e := by
  have hm : m ≠ 0 := ((Nat.two_pow_pos n).trans_le hlow).ne'
  rw [lead, (Nat.log2_eq_iff hm).mpr ⟨hlow, hlt⟩]

/-- The weight of the last bit that rounding keeps is the value's own. -/
theorem Fmt.Holds.lastBit_eq (h : f.Holds m e) (hm : m ≠ 0) : max (lead m e - f.man) f.qmin = e := by
  obtain heq | hlt := h.qmin_le.eq_or_lt
  · have hlog := (Nat.log2_lt hm).mpr h.lt_two_pow
    unfold lead
    omega
  · rw [lead_of_normal (h.normal hlt) h.lt_two_pow]
    omega

theorem Fmt.Holds.roundMag_eq (h : f.Holds m e) (md : RMode) (u : Nat) : f.roundMag md u m e = (m, e) := by
  by_cases hm : m = 0
  · have hlow : ¬ f.qmin < e := fun hlt => ((Nat.two_pow_pos f.man).trans_le (h.normal hlt)).ne' hm
    rw [Fmt.roundMag, if_pos hm, hm, le_antisymm h.qmin_le (not_lt.mp hlow)]
  · simp only [Fmt.roundMag, if_neg hm, h.lastBit_eq hm, roundInt_self]

theorem magGt_eq_false {m₁ m₂ : Nat} {e₁ e₂ : Int} (he : e₁ ≤ e₂) (hm : m₁ ≤ m₂ * 2 ^ (e₂ - e₁).toNat) :
    magGt m₁ e₁ m₂ e₂ = false := by
  simpa [magGt, min_eq_left he, Nat.shiftLeft_eq] using hm

/-- Of the largest weight `maxM` bounds the significand; of a smaller one a significand of all ones is no greater than `2 * maxM`,
also where the top exponent keeps that significand for NaN. -/
theorem Fmt.Holds.over_eq_false (hman : 0 < f.man) (h : f.Holds m e) : f.over m e = false := by
  obtain hlt | ⟨rfl, hle⟩ := h.le_max
  · refine magGt_eq_false hlt.le ?_
    have hmax : m ≤ f.maxM * 2 := by
      have hm := h.lt_two_pow
      have hpow : 2 ^ 1 ≤ 2 ^ f.man := Nat.pow_le_pow_right Nat.two_pos hman
      rw [pow_succ] at hm
      unfold Fmt.maxM
      rw [pow_succ]
      split <;> omega
    have hshift : 2 ^ 1 ≤ 2 ^ (f.maxE - e).toNat := Nat.pow_le_pow_right Nat.two_pos (by omega)
    exact hmax.trans (Nat.mul_le_mul_left _ hshift)
  · exact magGt_eq_false le_rfl (by simpa using hle)

/-- Rounding keeps a value that the format holds. -/
theorem Fmt.Holds.rnd_eq (hman : 0 < f.man) (h : f.Holds m e) (neg : Bool) : f.rnd (.fin neg m e) = .fin neg m e := by
  simp [Fmt.rnd, h.roundMag_eq, h.over_eq_false hman]

/-- Every finite element is a value that its format holds, so rounding keeps it. -/
theorem Fmt.rnd_decode (hman : 0 < f.man) (hexp : 2 ≤ f.exp) (h : Val.isFinite (f.decode x) = true) :
    f.rnd (f.decode x) = f.decode x := by
  obtain ⟨-, hdec⟩ | ⟨hpos, hdec, htop⟩ := Fmt.decode_of_finite h
  · rw [hdec, (Fmt.holds_subnormal hexp Fmt.manField_lt).rnd_eq hman]
  · rw [hdec, (Fmt.holds_normal Fmt.manField_lt hpos Fmt.expField_lt htop).rnd_eq hman]

/-! Encodings of the values. -/

theorem shiftTo_self (m : Nat) (e : Int) : shiftTo m e e = m := by simp [shiftTo]

theorem Fmt.encode_fin (f : Fmt) (neg : Bool) (m : Nat) (e : Int) : f.encode (.fin neg m e) =
    if m = 0 then f.signBit neg
    else if lead m e < 1 - f.bias then f.signBit neg + shiftTo m e f.qmin
    else f.signBit neg + (lead m e + f.bias).toNat * 2 ^ f.man + shiftTo m e (lead m e - f.man) % 2 ^ f.man := rfl

theorem Fmt.encode_subnormal (hm : m < 2 ^ f.man) : f.encode (.fin neg m f.qmin) = f.signBit neg + m := by
  rw [Fmt.encode_fin]
  by_cases hzero : m = 0
  · rw [if_pos hzero, hzero, add_zero]
  · have hlead : lead m f.qmin < 1 - f.bias := by
      have hlog := (Nat.log2_lt hzero).mpr hm
      unfold lead Fmt.qmin
      omega
    rw [if_neg hzero, if_pos hlead, shiftTo_self]

theorem Fmt.encode_normal (hm : m < 2 ^ f.man) (hk : 0 < k) :
    f.encode (.fin neg (m + 2 ^ f.man) (k - f.bias - f.man)) = f.signBit neg + k * 2 ^ f.man + m := by
  have hne : m + 2 ^ f.man ≠ 0 := (Nat.add_pos_right m (Nat.two_pow_pos f.man)).ne'
  have hlead : lead (m + 2 ^ f.man) (k - f.bias - f.man) = k - f.bias := by
    rw [lead_of_normal (Nat.le_add_left ..) (by rw [pow_succ]; omega), add_sub_cancel]
  rw [Fmt.encode_fin, if_neg hne, hlead, if_neg (by omega), shiftTo_self, Nat.add_mod_right, Nat.mod_eq_of_lt hm,
    sub_add_cancel, Int.toNat_natCast]

theorem Fmt.encode_decode (hx : x < 2 ^ (f.man + f.exp + 1)) (h : Val.isFinite (f.decode x) = true) :
    f.encode (f.decode x) = x := by
  have hfields := Fmt.fields_eq hx
  obtain ⟨hzero, hdec⟩ | ⟨hpos, hdec, -⟩ := Fmt.decode_of_finite h
  · rwa [hzero, zero_mul, add_zero, ← Fmt.encode_subnormal Fmt.manField_lt, ← hdec] at hfields
  · rwa [← Fmt.encode_normal Fmt.manField_lt hpos, ← hdec] at hfields

end

/-- Settles O26: a finite element decodes to a value that its format holds, which rounding keeps and whose fields encoding
puts back. -/
theorem finiteElementsRoundTrip : Obligations.FiniteElementsRoundTrip := by
  intro f x hf hx hfin
  have hwidths : 0 < f.man ∧ 2 ≤ f.exp := by
    clear hx hfin
    revert f
    decide
  rw [Fmt.rnd_decode hwidths.1 hwidths.2 hfin, Fmt.encode_decode hx hfin]

end Sys2Proof.Machine
end

/-! Two's complement: wrapped and clamped integers (R181, R182). -/

noncomputable section
namespace Sys2Proof.Machine

section
variable {w x y n : Nat} {i j : Int} {sat : Bool}

/-- The number that `w` bits spell is the balanced residue. -/
theorem sext_eq_bmod (hw : 0 < w) (x : Nat) : sext w x = Int.bmod x (2 ^ w) := by
  have htoInt : (BitVec.ofNat w x).toInt = Int.bmod x (2 ^ w) := BitVec.toInt_ofNat x
  rw [← htoInt, BitVec.toInt_eq_msb_cond, BitVec.msb_eq_getLsbD_last, BitVec.getLsbD_ofNat, BitVec.toNat_ofNat,
    decide_eq_true (Nat.sub_one_lt hw.ne'), Bool.true_and]
  rfl

theorem sext_modEq (hw : 0 < w) (x : Nat) : sext w x ≡ x [ZMOD (2 ^ w : Nat)] := by
  rw [sext_eq_bmod hw]
  exact Int.bmod_emod

/-- A number that wraps is the residue of any number it is congruent to. -/
theorem wrap_eq_of_modEq (h : i ≡ n [ZMOD (2 ^ w : Nat)]) : (i % (2 ^ w : Nat)).toNat = n % 2 ^ w := by
  rw [h, ← Int.natCast_emod, Int.toNat_natCast]

theorem natCast_wrap (w : Nat) (i : Int) : ((i % (2 ^ w : Nat)).toNat : Int) = i % 2 ^ w := by
  rw [Int.toNat_of_nonneg (Int.emod_nonneg _ (by positivity)), Nat.cast_pow, Nat.cast_two]

theorem wrap_lt (w : Nat) (i : Int) : (i % (2 ^ w : Nat)).toNat < 2 ^ w := by
  have hlt := Int.emod_lt_of_pos i (b := (2 ^ w : Nat)) (by positivity)
  have hnonneg := Int.emod_nonneg i (b := (2 ^ w : Nat)) (by positivity)
  omega

theorem two_pow_eq_double (hw : 0 < w) : (2 ^ w : Int) = 2 * 2 ^ (w - 1) := by
  rw [← pow_succ', Nat.sub_add_cancel hw]

theorem clampTo_mem (w : Nat) (i : Int) : -(2 ^ (w - 1) : Int) ≤ clampTo w i ∧ clampTo w i < 2 ^ (w - 1) := by
  have hpos : (0 : Int) < 2 ^ (w - 1) := by positivity
  unfold clampTo
  omega

/-- A number of the signed range survives wrapping. -/
theorem sext_wrap (hw : 0 < w) (hlo : -(2 ^ (w - 1) : Int) ≤ i) (hhi : i < 2 ^ (w - 1)) :
    sext w (i % (2 ^ w : Nat)).toNat = i := by
  have hdouble := two_pow_eq_double hw
  rw [sext_eq_bmod hw, natCast_wrap, ← Nat.cast_two, ← Nat.cast_pow, Int.emod_bmod]
  refine Int.bmod_eq_of_le ?_ ?_ <;> push_cast <;> omega

theorem sext_wrap_clampTo (hw : 0 < w) (i : Int) : sext w (clampTo w i % (2 ^ w : Nat)).toNat = clampTo w i :=
  sext_wrap hw (clampTo_mem w i).1 (clampTo_mem w i).2

/-- An integer result is the exact one, clamped if SAT is set, in `w` bits (R182). -/
theorem intRes_bits (w : Nat) (sat : Bool) (i : Int) :
    (intRes w sat i).bits = ((if sat then clampTo w i else i) % (2 ^ w : Nat)).toNat := by
  have hpos : (0 : Int) < 2 ^ (w - 1) := by positivity
  cases sat with
  | false => rfl
  | true =>
    have hclamp : (if i > 2 ^ (w - 1) - 1 ∨ i < -(2 ^ (w - 1)) then
        (if i > 2 ^ (w - 1) - 1 then 2 ^ (w - 1) - 1 else -(2 ^ (w - 1))) else i) = clampTo w i := by
      unfold clampTo
      split_ifs <;> omega
    rw [if_pos rfl, ← hclamp, intRes]
    simp only [Bool.true_and, Bool.or_eq_true, decide_eq_true_eq]
    split <;> rfl

/-- ISAT warns of a result that SAT has changed (R182). -/
theorem intRes_isat (w : Nat) (sat : Bool) (i : Int) :
    (intRes w sat i).isat = true ↔ sat = true ∧ clampTo w i ≠ i := by
  have hpos : (0 : Int) < 2 ^ (w - 1) := by positivity
  have hclamp : clampTo w i ≠ i ↔ i > 2 ^ (w - 1) - 1 ∨ i < -(2 ^ (w - 1)) := by
    unfold clampTo
    omega
  rw [hclamp, intRes]
  cases sat with
  | false => simp [VRes.of]
  | true =>
    simp only [Bool.true_and, Bool.or_eq_true, decide_eq_true_eq]
    split
    next h => simpa using h
    next h => simpa [VRes.of] using h

theorem intRes_bits_wrap (h : i ≡ n [ZMOD (2 ^ w : Nat)]) : (intRes w false i).bits = n % 2 ^ w :=
  (intRes_bits w false i).trans (wrap_eq_of_modEq h)

theorem sext_intRes_sat (hw : 0 < w) (i : Int) : sext w (intRes w true i).bits = clampTo w i :=
  (congrArg (sext w) (intRes_bits w true i)).trans (sext_wrap_clampTo hw i)

end

/-- Settles O24: an operand is congruent to the number that its bits spell, so the wrapped result is that of the bits; a clamped
result lies in the range, and wrapping keeps it. -/
theorem vectorIntegersWrapOrClamp : Obligations.VectorIntegersWrapOrClamp := by
  intro w a b hw ha hb
  have hpos : 0 < w := by
    simp only [List.mem_cons, List.not_mem_nil, or_false] at hw
    omega
  have hsa := sext_modEq hpos a
  have hsb := sext_modEq hpos b
  have hsub : sext w a - sext w b ≡ (a + 2 ^ w - b : Nat) [ZMOD (2 ^ w : Nat)] := by
    rw [Nat.cast_sub (by omega), Nat.cast_add, add_sub_right_comm]
    exact (hsa.sub hsb).trans (Int.add_modEq_right).symm
  exact ⟨intRes_bits_wrap (hsa.add hsb), intRes_bits_wrap hsub, intRes_bits_wrap (hsa.mul hsb),
    sext_intRes_sat hpos _, sext_intRes_sat hpos _, sext_intRes_sat hpos _⟩

end Sys2Proof.Machine
end

/-! Encodings that fit their elements (R141, R179). -/

noncomputable section
namespace Sys2Proof.Machine

section
variable {f : Fmt} {m n : Nat} {e : Int} {v : FVal}

/-- A value whose magnitude, if it is finite, is no greater than the format's largest. -/
def Fmt.InRange (f : Fmt) : FVal → Prop
  | .fin _ m e => f.over m e = false
  | _ => True

theorem Fmt.maxM_lt (f : Fmt) : f.maxM < 2 ^ (f.man + 1) := by
  have hpos := Nat.two_pow_pos (f.man + 1)
  unfold Fmt.maxM
  split <;> omega

/-- The exponent of a value in range has a field below the top of the field's range. -/
theorem Fmt.lead_lt_of_inRange (hm : m ≠ 0) (h : f.over m e = false) : lead m e + f.bias < 2 ^ f.exp := by
  have hle : m * 2 ^ (e - min e f.maxE).toNat ≤ f.maxM * 2 ^ (f.maxE - min e f.maxE).toNat := by
    simpa [Fmt.over, magGt, Nat.shiftLeft_eq] using h
  have hpow : 2 ^ (m.log2 + (e - min e f.maxE).toNat) < 2 ^ (f.man + 1 + (f.maxE - min e f.maxE).toNat) := by
    rw [pow_add, pow_add]
    calc 2 ^ m.log2 * 2 ^ (e - min e f.maxE).toNat
        ≤ m * 2 ^ (e - min e f.maxE).toNat := Nat.mul_le_mul_right _ (Nat.log2_self_le hm)
      _ ≤ f.maxM * 2 ^ (f.maxE - min e f.maxE).toNat := hle
      _ < 2 ^ (f.man + 1) * 2 ^ (f.maxE - min e f.maxE).toNat := Nat.mul_lt_mul_of_pos_right f.maxM_lt (Nat.two_pow_pos _)
  have hexp := (Nat.pow_lt_pow_iff_right Nat.one_lt_two).mp hpow
  have htop : f.maxE ≤ 2 ^ f.exp - 1 - f.bias - f.man := by
    unfold Fmt.maxE
    split <;> omega
  unfold lead
  omega

/-- A subnormal magnitude fits the significand field. -/
theorem Fmt.shiftTo_qmin_lt (h : lead m e < 1 - f.bias) : shiftTo m e f.qmin < 2 ^ f.man := by
  have hm : m < 2 ^ (m.log2 + 1) := Nat.lt_log2_self
  unfold lead at h
  unfold shiftTo
  split
  next hq =>
    rw [Nat.shiftLeft_eq]
    calc m * 2 ^ (e - f.qmin).toNat
        < 2 ^ (m.log2 + 1) * 2 ^ (e - f.qmin).toNat := Nat.mul_lt_mul_of_pos_right hm (Nat.two_pow_pos _)
      _ = 2 ^ (m.log2 + 1 + (e - f.qmin).toNat) := (pow_add ..).symm
      _ ≤ 2 ^ f.man := Nat.pow_le_pow_right Nat.two_pos (by unfold Fmt.qmin at *; omega)
  next hq =>
    rw [Nat.shiftRight_eq_div_pow]
    refine Nat.div_lt_of_lt_mul (hm.trans_le ?_)
    rw [← pow_add]
    exact Nat.pow_le_pow_right Nat.two_pos (by unfold Fmt.qmin at *; omega)

/-- A sign, an exponent field and a significand field, each within its width, make an encoding. -/
theorem Fmt.fields_lt {neg : Bool} {k : Nat} (hk : k < 2 ^ f.exp) (hm : m < 2 ^ f.man) :
    f.signBit neg + k * 2 ^ f.man + m < 2 ^ (f.man + f.exp + 1) := by
  have hsign : f.signBit neg ≤ 2 ^ (f.man + f.exp) := by
    unfold Fmt.signBit
    split
    · exact le_rfl
    · exact Nat.zero_le _
  have hfield : k * 2 ^ f.man + 2 ^ f.man ≤ 2 ^ (f.man + f.exp) := by
    rw [← Nat.succ_mul, Nat.add_comm f.man, pow_add]
    exact Nat.mul_le_mul_right _ hk
  rw [pow_succ]
  omega

/-- A value in range has an encoding of the format's width. -/
theorem Fmt.encode_lt (hnan : f.nan < 2 ^ (f.man + f.exp + 1)) (h : f.InRange v) : f.encode v < 2 ^ (f.man + f.exp + 1) := by
  have hexp := Nat.two_pow_pos f.exp
  have hman := Nat.two_pow_pos f.man
  cases v with
  | nan => exact hnan
  | inf neg =>
    change (if f.inf then f.signBit neg + (2 ^ f.exp - 1) * 2 ^ f.man else f.nan) < _
    split
    · exact Fmt.fields_lt (m := 0) (Nat.sub_one_lt hexp.ne') hman
    · exact hnan
  | fin neg m e =>
    rw [Fmt.encode_fin]
    split_ifs with hzero hsub
    · simpa using Fmt.fields_lt (neg := neg) hexp hman
    · simpa using Fmt.fields_lt (neg := neg) hexp (Fmt.shiftTo_qmin_lt hsub)
    · have hlead := Fmt.lead_lt_of_inRange hzero h
      have hcast : ((2 ^ f.exp : Nat) : Int) = 2 ^ f.exp := Nat.cast_pow 2 f.exp
      exact Fmt.fields_lt (by omega) (Nat.mod_lt _ hman)

/-! Rounding leaves a value in range, or an infinity. -/

theorem Fmt.rnd_inRange (f : Fmt) (v : FVal) : f.InRange (f.rnd v) := by
  cases v with
  | nan => trivial
  | inf neg => trivial
  | fin neg m e =>
    unfold Fmt.rnd
    dsimp only
    split
    next => trivial
    next h => simpa [Fmt.InRange] using h

theorem Approx.round_inRange (f : Fmt) (v : FVal) : f.InRange (Approx.round f v) := by
  have h := f.rnd_inRange v
  unfold Approx.round
  split
  · trivial
  · exact h

theorem Fmt.maxVal_inRange (f : Fmt) (neg : Bool) : f.InRange (f.maxVal neg) := magGt_eq_false le_rfl (by simp)

theorem outOver_inRange (f : Fmt) (ieee rtz neg : Bool) : f.InRange (outOver f ieee rtz neg) := by
  unfold outOver
  split_ifs
  · exact f.maxVal_inRange neg
  · trivial
  · trivial

/-- A conversion that neither flushes nor clips gives the encoding of a value in range. -/
theorem convertFloat_inRange {o : OcdCmd} (hclip : o.clip = false) (x : Int) (u : Nat) (v : FVal) :
    ∃ w, f.InRange w ∧ (convertFloat f o false x u v).code = f.encode w := by
  unfold convertFloat
  simp only [hclip, Bool.not_false, if_true]
  refine ⟨_, ?_, rfl⟩
  split
  · trivial
  · exact outOver_inRange ..
  · split
    next => exact outOver_inRange ..
    next h => simpa [Fmt.InRange] using h

end

/-! Vector elements. -/

/-- The format of a floating-point type has the type's width. -/
theorem VType.fmt_width {t : VType} {f : Fmt} (h : t.fmt = some f) :
    f.man + f.exp + 1 = t.width ∧ f.nan < 2 ^ t.width := by
  cases t <;> simp only [VType.fmt, Option.some.injEq, reduceCtorEq] at h <;> subst h <;> decide

theorem VType.encode_lt {t : VType} {f : Fmt} {v : FVal} (h : t.fmt = some f) (hv : f.InRange v) : f.encode v < 2 ^ t.width := by
  obtain ⟨hwidth, hnan⟩ := VType.fmt_width h
  rw [← hwidth] at hnan ⊢
  exact Fmt.encode_lt hnan hv

theorem VType.width_pos (t : VType) : 0 < t.width := by cases t <;> decide

/-- A conversion gives an element of the target's width (R185). -/
theorem convert_bits_lt (t : VType) (rm : Nat) (sat : Bool) (u : Nat) (v : FVal) : (convert t rm sat u v).bits < 2 ^ t.width := by
  unfold convert
  dsimp only
  split
  next f h =>
    obtain ⟨w, hw, hcode⟩ := convertFloat_inRange (f := f) (o := { (default : OcdCmd) with ieee := !sat, rmode := rm, clip := false })
      rfl 0 u v
    dsimp only
    rw [hcode]
    exact VType.encode_lt h hw
  next => exact Nat.mod_lt _ (Nat.two_pow_pos _)

end Sys2Proof.Machine
end

/-! What a VOP gives an element (R181-R185). -/

noncomputable section
namespace Sys2Proof.Machine

/-! Operations on values of a type. -/

section
variable {t : VType} {f a b c b' c' : Nat} {sat : Bool} {i j : Int}

theorem Val.toInt_ofInt (i : Int) : Val.toInt 0 (Val.ofInt i) = i := by
  simp only [Val.toInt, Val.ofInt, shiftTo_self, decide_eq_true_eq]
  split <;> omega

theorem Val.cmp_ofInt (i j : Int) : Val.cmp (Val.ofInt i) (Val.ofInt j) = i - j :=
  congrArg₂ (· - ·) (Val.toInt_ofInt i) (Val.toInt_ofInt j)

theorem VType.value_int (h : t.isInt = true) (x : Nat) : t.value x = Val.ofInt (sext t.width x) := by
  cases t with
  | int32 | int16 | int8 => rfl
  | fp32 | bf16 | fp16 | e4m3 | e5m2 => cases h

theorem VType.exists_fmt_of_isFloat (h : t.isFloat = true) : ∃ fm, t.fmt = some fm := by
  cases t with
  | fp32 | bf16 => exact ⟨_, rfl⟩
  | int32 | int16 | int8 | fp16 | e4m3 | e5m2 => cases h

/-! Which sources an operation uses, and which operations a type allows (R181). -/

theorem funcArity_eq_two (h : (1 ≤ f ∧ f ≤ 0x0B) ∨ (0x10 ≤ f ∧ f ≤ 0x12) ∨ (0x20 ≤ f ∧ f ≤ 0x25 ∧ f ≠ 0x23) ∨ f = 0x39 ∨
    f = 0x3A) : funcArity f = 2 := by
  simp only [funcArity, Bool.or_eq_true, Bool.and_eq_true, decide_eq_true_eq]
  split_ifs <;> omega

theorem funcArity_eq_one (h : (0x28 ≤ f ∧ f ≤ 0x2B) ∨ (0x30 ≤ f ∧ f ≤ 0x38)) : funcArity f = 1 := by
  simp only [funcArity, Bool.or_eq_true, Bool.and_eq_true, decide_eq_true_eq]
  split_ifs <;> omega

theorem one_le_funcArity (h : f ≠ 0x3B) : 1 ≤ funcArity f := by
  simp only [funcArity, Bool.or_eq_true, Bool.and_eq_true, decide_eq_true_eq]
  split_ifs <;> omega

theorem funcAllows_cases (h : funcAllows f t = true) :
    (1 ≤ f ∧ f ≤ 0x0B ∧ t.isInt = true) ∨ (0x10 ≤ f ∧ f ≤ 0x12) ∨ f = 0x13 ∨
    ((0x20 ≤ f ∧ f ≤ 0x25 ∨ 0x28 ≤ f ∧ f ≤ 0x2B) ∧ t.isFloat = true) ∨ (0x30 ≤ f ∧ f ≤ 0x3A) ∨ (f = 0x3B ∧ t = .int32) := by
  simp only [funcAllows, Bool.or_eq_true, Bool.and_eq_true, decide_eq_true_eq] at h
  split_ifs at h with hint hsel hfloat hmove
  · exact .inl ⟨hint.1, hint.2, h⟩
  · omega
  · exact .inr (.inr (.inr (.inl ⟨hfloat, h⟩)))
  · exact .inr (.inr (.inr (.inr (.inl hmove))))
  · simp only [Bool.and_eq_true, beq_iff_eq] at h
    exact .inr (.inr (.inr (.inr (.inr h))))

/-! The cases of `elemOp`. -/

theorem elemOp_int (h : f ≤ 0x0B) : elemOp t f sat a b c = intOp t.width f sat a b := if_pos h

theorem elemOp_compare (hlo : 0x10 ≤ f) (hhi : f ≤ 0x12) :
    elemOp t f sat a b c = VRes.of (if compare t f (t.value a) (t.value b) then 2 ^ t.width - 1 else 0) := by
  rw [elemOp, if_neg (by omega), if_pos hhi]

theorem elemOp_select : elemOp t 0x13 sat a b c = VRes.of (if a = 0 then c else b) := by
  by_cases h : a = 0 <;> simp [elemOp, h]

theorem elemOp_float {fm : Fmt} (hf : 0x14 ≤ f) (hfmt : t.fmt = some fm) :
    elemOp t f sat a b c = floatRes fm f (t.value a) (t.value b) (t.value c) := by
  rw [elemOp, if_neg (by omega), if_neg (by omega), if_neg (by omega), hfmt]
  rfl

/-- An operation does not depend on a source that it does not use. -/
theorem floatRes_congr {fm : Fmt} {p q r q' r' : FVal} (hf : 0x20 ≤ f ∧ f ≤ 0x25 ∨ 0x28 ≤ f ∧ f ≤ 0x2B)
    (hq : 2 ≤ funcArity f → q = q') (hr : 3 ≤ funcArity f → r = r') : floatRes fm f p q r = floatRes fm f p q' r' := by
  have hop : floatOp f p q r = floatOp f p q' r' := by
    by_cases hthree : f = 0x23
    · subst hthree
      rw [hq (by decide), hr (by decide)]
    by_cases htwo : f ≤ 0x25
    · rw [hq (funcArity_eq_two (by omega)).ge]
      obtain rfl | rfl | rfl | rfl | rfl : f = 0x20 ∨ f = 0x21 ∨ f = 0x22 ∨ f = 0x24 ∨ f = 0x25 := by omega
      all_goals rfl
    · obtain rfl | rfl | rfl | rfl : f = 0x28 ∨ f = 0x29 ∨ f = 0x2A ∨ f = 0x2B := by omega
      all_goals rfl
  have hnanq : (decide (funcArity f ≥ 2) && Val.isNan q) = (decide (funcArity f ≥ 2) && Val.isNan q') := by
    by_cases h : 2 ≤ funcArity f
    · rw [hq h]
    · simp [h]
  have hnanr : (decide (funcArity f ≥ 3) && Val.isNan r) = (decide (funcArity f ≥ 3) && Val.isNan r') := by
    by_cases h : 3 ≤ funcArity f
    · rw [hr h]
    · simp [h]
  simp only [floatRes, hop, hnanq, hnanr]

theorem floatRes_bits_lt {fm : Fmt} (hfmt : t.fmt = some fm) (p q r : FVal) : (floatRes fm f p q r).bits < 2 ^ t.width := by
  unfold floatRes
  dsimp only
  split
  · exact VType.encode_lt hfmt (Approx.round_inRange ..)
  · exact VType.encode_lt hfmt (Fmt.rnd_inRange ..)

theorem intOp_bits_lt {w : Nat} (ha : a < 2 ^ w) (hb : b < 2 ^ w) : (intOp w f sat a b).bits < 2 ^ w := by
  have hres (sat : Bool) (i : Int) : (intRes w sat i).bits < 2 ^ w := by
    rw [intRes_bits]
    exact wrap_lt w _
  unfold intOp
  dsimp only
  split
  · exact hres ..
  · exact hres ..
  · exact hres ..
  · exact Nat.mod_lt _ (Nat.two_pow_pos _)
  · exact (Nat.shiftRight_le ..).trans_lt ha
  · exact hres ..
  · exact Nat.and_lt_two_pow _ hb
  · exact Nat.or_lt_two_pow ha hb
  · exact Nat.xor_lt_two_pow ha hb
  · change (if _ then a else b) < _
    split <;> assumption
  · change (if _ then b else a) < _
    split <;> assumption

/-- MIN and MAX of integers give the operand of the lesser or of the greater number. -/
theorem sext_intOp_min (w : Nat) (sat : Bool) (a b : Nat) :
    sext w (intOp w 0x0A sat a b).bits = min (sext w a) (sext w b) := by
  change sext w (if sext w a ≤ sext w b then a else b) = _
  rw [apply_ite (sext w)]
  exact (min_def ..).symm

theorem sext_intOp_max (w : Nat) (sat : Bool) (a b : Nat) :
    sext w (intOp w 0x0B sat a b).bits = max (sext w a) (sext w b) := by
  change sext w (if sext w a ≤ sext w b then b else a) = _
  rw [apply_ite (sext w)]
  exact (max_def ..).symm

/-- Integers compare as numbers. -/
theorem compare_int (h : t.isInt = true) (a b : Nat) :
    compare t 0x10 (t.value a) (t.value b) = decide (sext t.width a = sext t.width b) ∧
    compare t 0x11 (t.value a) (t.value b) = decide (sext t.width a < sext t.width b) ∧
    compare t 0x12 (t.value a) (t.value b) = decide (sext t.width a ≤ sext t.width b) := by
  simp only [compare, h, if_true, VType.value_int h, Val.cmp_ofInt, beq_eq_decide, sub_eq_zero, sub_neg, sub_nonpos, and_self]

theorem compare_float (h : t.isInt = false) (p q : FVal) : compare t 0x10 p q = Val.eq p q ∧
    compare t 0x11 p q = Val.lt p q ∧ compare t 0x12 p q = Val.le p q := by
  simp [compare, h]

end

/-! The result of an element. -/

/-- The result of a VOP, other than GATHER and SCATTER, for element `i` with operands `a`, `b` and `c`. -/
def vopResult (x : VeCmd) (v : VopFields) (i a b c : Nat) : VRes :=
  if v.isCvt then convert v.outTy v.rm v.sat (veU x v.rm v.osid i) (v.ty.value a)
  else if v.func = 0x38 then VRes.of a
  else if v.func = 0x3B then VRes.of ((i + v.k) % 2 ^ 32)
  else elemOp v.ty v.func v.sat a b c

theorem vopElem_eq (s : State) (x : VeCmd) (v : VopFields) (c : VCmd) (i : Nat) :
    vopElem s x v c i = vopResult x v i (veElem s (c.srcs.getD 0 .none) v.ty.size i)
      (veElem s (c.srcs.getD 1 .none) v.ty.size i) (veElem s (c.srcs.getD 2 .none) v.ty.size i) := rfl

section
variable {x : VeCmd} {v : VopFields} {i a b c a' b' c' : Nat}

theorem VopFields.isCvt_iff : v.isCvt = true ↔ 0x30 ≤ v.func ∧ v.func ≤ 0x37 := by
  simp only [VopFields.isCvt, Bool.and_eq_true, decide_eq_true_eq]

theorem VopFields.isCvt_eq_false (h : v.func < 0x30 ∨ 0x37 < v.func) : v.isCvt = false := by
  rw [Bool.eq_false_iff, ne_eq, VopFields.isCvt_iff]
  omega

theorem vopResult_cvt (hlo : 0x30 ≤ v.func) (hhi : v.func ≤ 0x37) : vopResult x v i a b c =
    convert (VType.target (v.func - 0x30)) v.rm v.sat (veU x v.rm v.osid i) (v.ty.value a) := by
  have h := VopFields.isCvt_iff.mpr ⟨hlo, hhi⟩
  rw [vopResult, if_pos h, VopFields.outTy, if_pos h]

theorem vopResult_mov (h : v.func = 0x38) : vopResult x v i a b c = VRes.of a := by
  rw [vopResult, VopFields.isCvt_eq_false (by omega), if_neg Bool.false_ne_true, if_pos h]

theorem vopResult_iota (h : v.func = 0x3B) : vopResult x v i a b c = VRes.of ((i + v.k) % 2 ^ 32) := by
  rw [vopResult, VopFields.isCvt_eq_false (by omega), if_neg Bool.false_ne_true, if_neg (by omega), if_pos h]

theorem vopResult_elemOp (h : v.func < 0x30) : vopResult x v i a b c = elemOp v.ty v.func v.sat a b c := by
  rw [vopResult, VopFields.isCvt_eq_false (by omega), if_neg Bool.false_ne_true, if_neg (by omega), if_neg (by omega)]

theorem vopResult_float {f : Fmt} (hlo : 0x14 ≤ v.func) (hhi : v.func < 0x30) (hfmt : v.ty.fmt = some f) :
    vopResult x v i a b c = floatRes f v.func (v.ty.value a) (v.ty.value b) (v.ty.value c) := by
  rw [vopResult_elemOp hhi, elemOp_float hlo hfmt]

/-- The result does not depend on a source that the operation does not use. -/
theorem vopResult_congr (hallow : funcAllows v.func v.ty = true) (ha : 1 ≤ v.arity → a = a')
    (hb : 2 ≤ v.arity → b = b') (hc : 3 ≤ v.arity → c = c') (hg : v.func ≠ 0x39) (hs : v.func ≠ 0x3A) :
    vopResult x v i a b c = vopResult x v i a' b' c' := by
  unfold VopFields.arity at ha hb hc
  obtain ⟨hlo, hhi, -⟩ | ⟨hlo, hhi⟩ | hsel | ⟨hf, hfloat⟩ | ⟨hlo, hhi⟩ | ⟨hf, -⟩ := funcAllows_cases hallow
  · have harity := funcArity_eq_two (f := v.func) (by omega)
    rw [ha (by omega), hb (by omega), vopResult_elemOp (by omega), vopResult_elemOp (by omega), elemOp_int hhi, elemOp_int hhi]
  · have harity := funcArity_eq_two (f := v.func) (by omega)
    rw [ha (by omega), hb (by omega), vopResult_elemOp (by omega), vopResult_elemOp (by omega), elemOp_compare hlo hhi,
      elemOp_compare hlo hhi]
  · have harity : funcArity v.func = 3 := by simp [funcArity, hsel]
    rw [ha (by omega), hb (by omega), hc (by omega)]
  · obtain ⟨f, hfmt⟩ := VType.exists_fmt_of_isFloat hfloat
    rw [vopResult_float (by omega) (by omega) hfmt, vopResult_float (by omega) (by omega) hfmt,
      ha (one_le_funcArity (by omega))]
    exact floatRes_congr hf (fun h => congrArg v.ty.value (hb h)) fun h => congrArg v.ty.value (hc h)
  · have harity := funcArity_eq_one (f := v.func) (by omega)
    obtain hcvt | hmov : v.func ≤ 0x37 ∨ v.func = 0x38 := by omega
    · rw [vopResult_cvt hlo hcvt, vopResult_cvt hlo hcvt, ha harity.ge]
    · rw [vopResult_mov hmov, vopResult_mov hmov, ha harity.ge]
  · rw [vopResult_iota hf, vopResult_iota hf]

/-- The result is an element of the result's type. -/
theorem vopResult_bits_lt (hallow : funcAllows v.func v.ty = true) (hg : v.func ≠ 0x39) (hs : v.func ≠ 0x3A)
    (ha : a < 2 ^ v.ty.width) (hb : b < 2 ^ v.ty.width) (hc : c < 2 ^ v.ty.width) :
    (vopResult x v i a b c).bits < 2 ^ v.outTy.width := by
  have hout (h : v.func < 0x30 ∨ 0x37 < v.func) : v.outTy = v.ty := if_neg (by rw [VopFields.isCvt_eq_false h]; simp)
  obtain ⟨hlo, hhi, -⟩ | ⟨hlo, hhi⟩ | hsel | ⟨hf, hfloat⟩ | ⟨hlo, hhi⟩ | ⟨hf, hty⟩ := funcAllows_cases hallow
  · rw [hout (by omega), vopResult_elemOp (by omega), elemOp_int hhi]
    exact intOp_bits_lt ha hb
  · rw [hout (by omega), vopResult_elemOp (by omega), elemOp_compare hlo hhi]
    have hpos := Nat.two_pow_pos v.ty.width
    change (if _ then _ else _) < _
    split
    · exact Nat.sub_one_lt hpos.ne'
    · exact hpos
  · rw [hout (by omega), vopResult_elemOp (by omega), hsel, elemOp_select]
    change (if _ then c else b) < _
    split <;> assumption
  · obtain ⟨f, hfmt⟩ := VType.exists_fmt_of_isFloat hfloat
    rw [hout (by omega), vopResult_float (by omega) (by omega) hfmt]
    exact floatRes_bits_lt hfmt _ _ _
  · obtain hcvt | hmov : v.func ≤ 0x37 ∨ v.func = 0x38 := by omega
    · rw [vopResult_cvt hlo hcvt, VopFields.outTy, if_pos (VopFields.isCvt_iff.mpr ⟨hlo, hcvt⟩)]
      exact convert_bits_lt ..
    · rw [hout (by omega), vopResult_mov hmov]
      exact ha
  · rw [hout (by omega), vopResult_iota hf, hty]
    exact Nat.mod_lt _ (by decide)

/-! ISAT (R182). -/

theorem convert_isat (t : VType) (rm : Nat) (sat : Bool) (u : Nat) (p : FVal) : (convert t rm sat u p).isat = false := by
  unfold convert
  dsimp only
  split <;> rfl

theorem exactInt_of_four_le (h : 4 ≤ v.func) : exactInt v a b = 0 := by
  rw [exactInt, if_neg (by omega), if_neg (by omega), if_neg (by omega)]

/-- ADD, SUB and MUL are the exact result, wrapped or clamped (R181). -/
theorem vopResult_arith (hpos : 1 ≤ v.func) (h : v.func < 4) :
    vopResult x v i a b c = intRes v.ty.width v.sat (exactInt v a b) := by
  rw [vopResult_elemOp (by omega), elemOp_int (by omega), exactInt]
  obtain hf | hf | hf : v.func = 1 ∨ v.func = 2 ∨ v.func = 3 := by omega
  all_goals
    rw [hf]
    rfl

theorem intOp_isat_of_four_le {w f : Nat} {sat : Bool} (h : 4 ≤ f) : (intOp w f sat a b).isat = false := by
  unfold intOp
  dsimp only
  split
  · omega
  · omega
  · omega
  all_goals rfl

theorem vopResult_isat_of_four_le (h : 4 ≤ v.func) : (vopResult x v i a b c).isat = false := by
  unfold vopResult
  split_ifs
  · exact convert_isat ..
  · rfl
  · rfl
  unfold elemOp
  split_ifs
  · exact intOp_isat_of_four_le h
  all_goals rfl

/-- A result warns if SAT is set and clamping changes the exact one. -/
theorem vopResult_isat (hallow : funcAllows v.func v.ty = true) : (vopResult x v i a b c).isat = true ↔
    v.sat = true ∧ clampTo v.ty.width (exactInt v a b) ≠ exactInt v a b := by
  by_cases h : v.func < 4
  · have hpos : 1 ≤ v.func := by have := funcAllows_cases hallow; omega
    rw [vopResult_arith hpos h, intRes_isat]
  · have hzero : clampTo v.ty.width 0 = 0 := by
      have hpos : (0 : Int) < 2 ^ (v.ty.width - 1) := by positivity
      unfold clampTo
      omega
    rw [vopResult_isat_of_four_le (by omega), exactInt_of_four_le (by omega), hzero]
    simp

/-! The meaning of each operation. -/

/-- A comparison gives all ones or zero. -/
theorem ones_or_zero {p : Prop} {r w : Nat} {d : Bool} (hr : r = if d then 2 ^ w - 1 else 0) (hd : d = true ↔ p) :
    (p → r = 2 ^ w - 1) ∧ (¬ p → r = 0) :=
  ⟨fun hp => by rw [hr, if_pos (hd.mpr hp)], fun hp => by rw [hr, if_neg (mt hd.mp hp)]⟩

/-- The two readings of a comparison: of integers and of floating-point values. -/
theorem vopResult_compare {f : Nat} (hf : v.func = f) (hlo : 0x10 ≤ f) (hhi : f ≤ 0x12) {pint pfloat : Prop}
    (hint : v.ty.isInt = true → (compare v.ty f (v.ty.value a) (v.ty.value b) = true ↔ pint))
    (hfloat : v.ty.isInt = false → (compare v.ty f (v.ty.value a) (v.ty.value b) = true ↔ pfloat)) :
    (v.ty.isInt = true → (pint → (vopResult x v i a b c).bits = 2 ^ v.ty.width - 1) ∧
      (¬ pint → (vopResult x v i a b c).bits = 0)) ∧
    (v.ty.isInt = false → (pfloat → (vopResult x v i a b c).bits = 2 ^ v.ty.width - 1) ∧
      (¬ pfloat → (vopResult x v i a b c).bits = 0)) := by
  have hr : (vopResult x v i a b c).bits = if compare v.ty f (v.ty.value a) (v.ty.value b) then 2 ^ v.ty.width - 1 else 0 := by
    rw [vopResult_elemOp (by omega), hf, elemOp_compare hlo hhi]
    rfl
  exact ⟨fun h => ones_or_zero hr (hint h), fun h => ones_or_zero hr (hfloat h)⟩

/-- What a VOP gives an element is what R181-R185 say. -/
theorem vopResult_meaning (hallow : funcAllows v.func v.ty = true) (ha : a < 2 ^ v.ty.width) (hb : b < 2 ^ v.ty.width) :
    VopMeaning x v i a b c (vopResult x v i a b c).bits := by
  have hint {f : Nat} (hf : v.func = f) (hhi : f ≤ 0x0B) : vopResult x v i a b c = intOp v.ty.width f v.sat a b := by
    rw [vopResult_elemOp (by omega), hf, elemOp_int hhi]
  have hfloat {f : Nat} (hf : v.func = f) (hlo : 0x14 ≤ f) (hhi : f < 0x30) {p : FVal} (hp : floatOp f (v.ty.value a)
      (v.ty.value b) (v.ty.value c) = p) (fm : Fmt) (hfmt : v.ty.fmt = some fm) :
      (vopResult x v i a b c).bits = fm.encode (if f ≥ 0x28 then Approx.round fm p else fm.rnd p) := by
    rw [vopResult_float (by omega) (by omega) hfmt, hf, floatRes, hp]
  have hbits {f : Nat} (hf : v.func = f) (hhi : f ≤ 0x0B) : (vopResult x v i a b c).bits < 2 ^ v.ty.width := by
    rw [hint hf hhi]
    exact intOp_bits_lt ha hb
  unfold VopMeaning
  dsimp only
  refine ⟨fun h => ⟨hbits rfl (by omega), fun hsat => ?wraps, fun hsat => ?clamps⟩, fun h => ?shl, fun h => ?shr, fun h => ?sar,
    fun h => ?and, fun h => ?or, fun h => ?xor, fun h => ⟨hbits h (by decide), ?min⟩, fun h => ⟨hbits h (by decide), ?max⟩,
    fun h => ?eq, fun h => ?lt, fun h => ?le, fun h => ?select, fun h => ?add, fun h => ?sub, fun h => ?mul, fun h => ?fma,
    fun h => ?fmin, fun h => ?fmax, fun h => ?exp2, fun h => ?log2, fun h => ?rcp, fun h => ?rsq, fun h h' => ?cvt, fun h => ?mov,
    fun h => ?iota⟩
  case wraps =>
    have hpos : 1 ≤ v.func := by have := funcAllows_cases hallow; omega
    rw [vopResult_arith hpos h, intRes_bits, hsat]
    exact natCast_wrap _ _
  case clamps =>
    have hpos : 1 ≤ v.func := by have := funcAllows_cases hallow; omega
    rw [vopResult_arith hpos h, hsat, sext_intRes_sat v.ty.width_pos]
  case shl => rw [hint h (by decide), ← Nat.shiftLeft_eq]; rfl
  case shr => rw [hint h (by decide), ← Nat.shiftRight_eq_div_pow]; rfl
  case sar =>
    rw [hint h (by decide)]
    change ((intRes v.ty.width false (sext v.ty.width a / (2 ^ (b % v.ty.width) : Nat))).bits : Int) = _
    rw [intRes_bits, if_neg Bool.false_ne_true, natCast_wrap, Nat.cast_pow, Nat.cast_two]
  case and | or | xor => rw [hint h (by decide)]; rfl
  case min => rw [hint h (by decide)]; exact sext_intOp_min ..
  case max => rw [hint h (by decide)]; exact sext_intOp_max ..
  case eq =>
    exact vopResult_compare h (by decide) (by decide) (fun hi => by rw [(compare_int hi a b).1, decide_eq_true_eq])
      fun hi => by rw [(compare_float hi _ _).1]
  case lt =>
    exact vopResult_compare h (by decide) (by decide) (fun hi => by rw [(compare_int hi a b).2.1, decide_eq_true_eq])
      fun hi => by rw [(compare_float hi _ _).2.1]
  case le =>
    exact vopResult_compare h (by decide) (by decide) (fun hi => by rw [(compare_int hi a b).2.2, decide_eq_true_eq])
      fun hi => by rw [(compare_float hi _ _).2.2]
  case select => rw [vopResult_elemOp (by omega), h, elemOp_select]; rfl
  case add | sub | mul | fma | fmin | fmax | exp2 | log2 | rcp | rsq => exact hfloat h (by decide) (by decide) rfl
  case cvt => rw [vopResult_cvt h (by omega)]; rfl
  case mov => rw [vopResult_mov h]; rfl
  case iota => rw [vopResult_iota h]; rfl

end

end Sys2Proof.Machine
end

/-! Reductions: the record of a segment (R191-R195). -/

noncomputable section
namespace Sys2Proof.Machine

/-! The order of R195: by value, -0 below +0. -/

/-- The exact value of a number that is not NaN, infinities at the ends. -/
def FVal.magnitude : FVal → WithBot (WithTop ℚ)
  | .nan => ⊥
  | .inf neg => if neg then ⊥ else (⊤ : WithTop ℚ)
  | .fin neg m e => (((if neg then -(m : ℚ) else m) * 2 ^ e : ℚ) : WithTop ℚ)

/-- What the order of R195 compares: the value, and of zeros the sign. -/
def FVal.rank (v : FVal) : WithBot (WithTop ℚ) ×ₗ Bool := toLex (v.magnitude, Val.isZero v && !Val.sign v)

section
variable {p q x : FVal} {m : Nat} {e k : Int} {neg : Bool}

theorem Val.cast_toInt (h : k ≤ e) :
    (Val.toInt k (.fin neg m e) : ℚ) = (if neg then -(m : ℚ) else m) * 2 ^ e * 2 ^ (-k) := by
  have hshift : ((shiftTo m e k : Nat) : ℚ) = m * 2 ^ e * 2 ^ (-k) := by
    rw [shiftTo, if_pos h, Nat.shiftLeft_eq, Nat.cast_mul, Nat.cast_pow, Nat.cast_two, mul_assoc, ← zpow_add₀ two_ne_zero,
      ← zpow_natCast, Int.toNat_of_nonneg (sub_nonneg.mpr h), sub_eq_add_neg]
  cases neg <;> simp [Val.toInt, hshift]

theorem Val.cmp_fin {n₁ n₂ : Bool} {m₁ m₂ : Nat} {e₁ e₂ : Int} :
    (Val.cmp (.fin n₁ m₁ e₁) (.fin n₂ m₂ e₂) : ℚ) = ((if n₁ then -(m₁ : ℚ) else m₁) * 2 ^ e₁ -
      (if n₂ then -(m₂ : ℚ) else m₂) * 2 ^ e₂) * 2 ^ (-min e₁ e₂) := by
  rw [Val.cmp, Int.cast_sub, Val.cast_toInt (min_le_left e₁ e₂), Val.cast_toInt (min_le_right e₁ e₂), sub_mul]

theorem FVal.magnitude_negInf_lt (neg : Bool) (m : Nat) (e : Int) :
    (FVal.inf true).magnitude < (FVal.fin neg m e).magnitude := WithBot.bot_lt_coe _

theorem FVal.magnitude_lt_posInf (neg : Bool) (m : Nat) (e : Int) :
    (FVal.fin neg m e).magnitude < (FVal.inf false).magnitude := WithBot.coe_lt_coe.mpr (WithTop.coe_lt_top _)

/-- `Val.cmp` orders values by their magnitudes. -/
theorem Val.cmp_iff (hp : Val.isNan p = false) (hq : Val.isNan q = false) :
    (0 < Val.cmp p q ↔ q.magnitude < p.magnitude) ∧ (Val.cmp p q = 0 ↔ p.magnitude = q.magnitude) := by
  cases p with
  | nan => cases hp
  | inf n₁ =>
    cases q with
    | nan => cases hq
    | inf n₂ => cases n₁ <;> cases n₂ <;> simp [Val.cmp, FVal.magnitude]
    | fin n₂ m₂ e₂ =>
      have hlow := FVal.magnitude_negInf_lt n₂ m₂ e₂
      have hhigh := FVal.magnitude_lt_posInf n₂ m₂ e₂
      cases n₁
      · simp [Val.cmp, hhigh, hhigh.ne']
      · simp [Val.cmp, hlow.le, hlow.ne]
  | fin n₁ m₁ e₁ =>
    cases q with
    | nan => cases hq
    | inf n₂ =>
      have hlow := FVal.magnitude_negInf_lt n₁ m₁ e₁
      have hhigh := FVal.magnitude_lt_posInf n₁ m₁ e₁
      cases n₂
      · simp [Val.cmp, hhigh.le, hhigh.ne]
      · simp [Val.cmp, hlow, hlow.ne']
    | fin n₂ m₂ e₂ =>
      have hscale : (0 : ℚ) < 2 ^ (-min e₁ e₂) := zpow_pos two_pos _
      rw [← Int.cast_pos (R := ℚ), ← Int.cast_eq_zero (α := ℚ), Val.cmp_fin, mul_pos_iff_of_pos_right hscale,
        mul_eq_zero_iff_right hscale.ne', sub_pos, sub_eq_zero]
      simp only [FVal.magnitude, WithBot.coe_lt_coe, WithTop.coe_lt_coe, WithBot.coe_inj, WithTop.coe_inj, and_self]

theorem Val.isZero_iff (v : FVal) : Val.isZero v = true ↔ v.magnitude = ((0 : ℚ) : WithTop ℚ) := by
  cases v with
  | nan => simp [Val.isZero, FVal.magnitude]
  | inf neg =>
    cases neg
    · simpa [Val.isZero, FVal.magnitude] using (FVal.magnitude_lt_posInf false 0 0).ne'
    · simp [Val.isZero, FVal.magnitude]
  | fin neg m e =>
    have hpow : (2 : ℚ) ^ e ≠ 0 := zpow_ne_zero e two_ne_zero
    cases neg <;> simp [Val.isZero, FVal.magnitude, hpow]

/-- `above` is the strict order of the ranks. -/
theorem above_iff (hp : Val.isNan p = false) (hq : Val.isNan q = false) : above p q = true ↔ q.rank < p.rank := by
  obtain ⟨hpos, hzero⟩ := Val.cmp_iff hp hq
  have hsame : p.magnitude = q.magnitude → Val.isZero p = Val.isZero q := fun h => by
    rw [Bool.eq_iff_iff, Val.isZero_iff, Val.isZero_iff, h]
  simp only [above, FVal.rank, Prod.Lex.toLex_lt_toLex, Bool.or_eq_true, Bool.and_eq_true, decide_eq_true_eq, beq_iff_eq,
    Bool.not_eq_true', gt_iff_lt, hpos, hzero, eq_comm (a := q.magnitude), and_assoc]
  refine or_congr_right (and_congr_right fun h => ?_)
  rw [hsame h]
  cases Val.isZero q <;> cases Val.sign p <;> cases Val.sign q <;> decide

end

/-! The extreme of a list. -/

/-- `b` stands at place `j` of the list, none of it is better, and `b` is better than all before it (R195). -/
def IsExtreme (better : FVal → FVal → Bool) (l : List FVal) (b : FVal) (j : Nat) : Prop :=
  l[j]? = some b ∧ ∀ k x, l[k]? = some x → better x b = false ∧ (k < j → better b x = true)

section
variable {α : Type} [LinearOrder α] {better : FVal → FVal → Bool} {rank : FVal → α} {l : List FVal} {b v : FVal} {j : Nat}

theorem isExtreme_singleton (hself : better v v = false) : IsExtreme better [v] v 0 := by
  refine ⟨rfl, fun k x hx => ?_⟩
  obtain ⟨rfl, rfl⟩ : k = 0 ∧ v = x := by simpa [List.getElem?_singleton, and_comm] using hx
  exact ⟨hself, fun h => absurd h (Nat.lt_irrefl _)⟩

/-- One more value takes the place of the extreme if it is better. -/
theorem IsExtreme.append (h : IsExtreme better l b j)
    (hrank : ∀ x ∈ l ++ [v], ∀ y ∈ l ++ [v], better x y = true ↔ rank y < rank x) :
    IsExtreme better (l ++ [v]) (if better v b then (v, l.length) else (b, j)).1
      (if better v b then (v, l.length) else (b, j)).2 := by
  obtain ⟨hb, hall⟩ := h
  have hbmem : b ∈ l ++ [v] := List.mem_append_left _ (List.mem_of_getElem? hb)
  have hvmem : v ∈ l ++ [v] := by simp
  have hjlt : j < l.length := (List.getElem?_eq_some_iff.mp hb).1
  have hfalse {x y : FVal} (hx : x ∈ l ++ [v]) (hy : y ∈ l ++ [v]) : better x y = false ↔ rank x ≤ rank y := by
    rw [← not_lt, ← hrank x hx y hy, Bool.not_eq_true]
  have hcases {k : Nat} {x : FVal} (hx : (l ++ [v])[k]? = some x) : l[k]? = some x ∨ (k = l.length ∧ x = v) := by
    obtain hk | hk := Nat.lt_or_ge k l.length
    · exact .inl (by rwa [List.getElem?_append_left hk] at hx)
    · rw [List.getElem?_append_right hk, List.getElem?_singleton] at hx
      right
      split at hx
      · exact ⟨by omega, (Option.some.inj hx).symm⟩
      · cases hx
  split
  next hbetter =>
    have hvb := (hrank v hvmem b hbmem).mp hbetter
    refine ⟨by simp, fun k x hx => ?_⟩
    have hxmem := List.mem_of_getElem? hx
    obtain hl | ⟨rfl, rfl⟩ := hcases hx
    · have hxv := ((hfalse hxmem hbmem).mp (hall k x hl).1).trans_lt hvb
      exact ⟨(hfalse hxmem hvmem).mpr hxv.le, fun _ => (hrank v hvmem x hxmem).mpr hxv⟩
    · exact ⟨(hfalse hvmem hvmem).mpr le_rfl, fun hk => absurd hk (Nat.lt_irrefl _)⟩
  next hbetter =>
    refine ⟨by rw [List.getElem?_append_left hjlt]; exact hb, fun k x hx => ?_⟩
    obtain hl | ⟨rfl, rfl⟩ := hcases hx
    · exact hall k x hl
    · exact ⟨Bool.not_eq_true _ ▸ hbetter, fun hk => absurd hk (by dsimp only; omega)⟩

/-- `extreme` goes on from the extreme of the values before. -/
theorem extreme_isExtreme {rest : List FVal} (h : IsExtreme better l b j)
    (hrank : ∀ x ∈ l ++ rest, ∀ y ∈ l ++ rest, better x y = true ↔ rank y < rank x) :
    IsExtreme better (l ++ rest) (extreme better rest l.length (b, j)).1 (extreme better rest l.length (b, j)).2 := by
  induction rest generalizing l b j with
  | nil => rwa [List.append_nil]
  | cons v rest ih =>
    have hassoc : l ++ v :: rest = l ++ [v] ++ rest := (List.append_cons l v rest)
    have hnext := h.append (v := v) fun x hx y hy => hrank x (by rw [hassoc]; exact List.mem_append_left _ hx) y
      (by rw [hassoc]; exact List.mem_append_left _ hy)
    have hrest := ih hnext (by rwa [← hassoc])
    rw [List.length_append, List.length_singleton] at hrest
    rwa [hassoc]

end

/-! The record. -/

/-- The order in which a reduction looks for its extreme: MIN the lowest, MAX and ARGMAX the highest (R195). -/
def betterBy (func : Nat) : FVal → FVal → Bool := if func = 3 then fun a b => above b a else above

section
variable {t : VType} {func : Nat} {sx : Int} {vs : List FVal}

theorem betterBy_eq (func : Nat) (p q : FVal) : betterBy func p q = if func = 3 then above q p else above p q := by
  unfold betterBy
  split <;> rfl

/-- The extreme that a reduction of at least one number finds. -/
theorem exists_isExtreme (hne : vs ≠ []) (hnan : ∀ x ∈ vs, Val.isNan x = false) :
    IsExtreme (betterBy func) vs (extreme (betterBy func) (vs.drop 1) 1 (vs.headD Val.zero, 0)).1
      (extreme (betterBy func) (vs.drop 1) 1 (vs.headD Val.zero, 0)).2 := by
  obtain ⟨v, rest, rfl⟩ := List.exists_cons_of_ne_nil hne
  have hfirst : betterBy func v v = false := by
    have hv := hnan v List.mem_cons_self
    rw [betterBy_eq, ite_self, Bool.eq_false_iff, ne_eq, above_iff hv hv]
    exact lt_irrefl _
  have hsingle : IsExtreme (betterBy func) [v] v 0 := isExtreme_singleton hfirst
  by_cases hmin : func = 3
  · refine extreme_isExtreme (rank := fun x => OrderDual.toDual x.rank) hsingle fun x hx y hy => ?_
    rw [betterBy_eq, if_pos hmin, above_iff (hnan y hy) (hnan x hx)]
    exact Iff.rfl
  · refine extreme_isExtreme (rank := FVal.rank) hsingle fun x hx y hy => ?_
    rw [betterBy_eq, if_neg hmin, above_iff (hnan x hx) (hnan y hy)]

theorem reduce_intSum (h : t.isInt = true) : reduce t 0 sx vs =
    { isum := (vs.map (Val.toInt 0)).foldl (· + ·) 0
      value := (clampTo 32 ((vs.map (Val.toInt 0)).foldl (· + ·) 0) % (2 ^ 32 : Nat)).toNat
      index := 0, ovf := false, nonfin := false, nan := false } := by
  have hvalue (i : Int) : redValue t (Val.ofInt i) = (clampTo 32 i % (2 ^ 32 : Nat)).toNat := by
    have hint := Val.toInt_ofInt i
    simp only [Val.toInt, Val.ofInt] at hint
    simp only [redValue, h, if_true, Val.ofInt, hint, clampTo]
  simp only [reduce, h, if_true, hvalue]

theorem reduce_floatSum (h : t.isInt = false) : reduce t 0 sx vs =
    { isum := 0, value := (sum32 (vs.map Fmt.fp32.encode)).bits, index := 0, ovf := false
      nonfin := vs.any fun v => !Val.isFinite v
      nan := Val.isNan (Fmt.fp32.decode (sum32 (vs.map Fmt.fp32.encode)).bits) } := by
  simp only [reduce, h, Bool.false_eq_true, if_false]

/-- MAX, MIN and ARGMAX of numbers (R195). -/
theorem reduce_extreme (h : 2 ≤ func) (hnan : vs.findIdx? Val.isNan = none) : reduce t func sx vs =
    { isum := 0, value := redValue t (extreme (betterBy func) (vs.drop 1) 1 (vs.headD Val.zero, 0)).1
      index := if func = 4 then (extreme (betterBy func) (vs.drop 1) 1 (vs.headD Val.zero, 0)).2 else 0
      ovf := false, nonfin := false, nan := false } := by
  match func, h with
  | f + 2, _ => simp only [reduce, hnan, betterBy]

/-- MAX, MIN and ARGMAX where there is a NaN (R195). -/
theorem reduce_nan {j : Nat} (h : 2 ≤ func) (hnan : vs.findIdx? Val.isNan = some j) : reduce t func sx vs =
    { isum := 0, value := Fmt.fp32.nan, index := if func = 4 then j else 0, ovf := false, nonfin := false, nan := true } := by
  match func, h with
  | f + 2, _ => simp only [reduce, hnan]

/-- The record of a segment of at least one element is the one that R192-R195 give. -/
theorem reduce_meaning (hne : vs ≠ []) : RedMeaning t func sx vs (reduce t func sx vs) := by
  refine ⟨?intSum, ?floatSum, ?xsum, fun hfunc => ?extreme⟩
  case intSum =>
    rintro rfl hint
    exact reduce_intSum hint
  case floatSum =>
    rintro rfl hint
    rw [reduce_floatSum hint]
    exact ⟨rfl, rfl, rfl, rfl, by simp, rfl⟩
  case xsum =>
    rintro rfl
    rfl
  case extreme =>
    cases hfind : vs.findIdx? Val.isNan with
    | none =>
      have hnan := List.findIdx?_eq_none_iff.mp hfind
      obtain ⟨hget, hall⟩ := exists_isExtreme (func := func) hne hnan
      rw [reduce_extreme hfunc hfind]
      refine ⟨rfl, rfl, rfl, fun h4 => if_neg h4, fun _ => ⟨rfl, _, _, hget, rfl, fun h4 => if_pos h4, fun k x hx => ?_⟩,
        fun j hj _ => ?_⟩
      · rw [← betterBy_eq, ← betterBy_eq]
        exact hall k x hx
      · exact absurd (hnan _ (List.mem_of_getElem? hj)) (by decide)
    | some i =>
      obtain ⟨hlt, hi, hbefore⟩ := List.findIdx?_eq_some_iff_getElem.mp hfind
      rw [reduce_nan hfunc hfind]
      refine ⟨rfl, rfl, rfl, fun h4 => if_neg h4, fun hnone => ?_, fun j hj hfirst => ⟨rfl, rfl, fun h4 => ?_⟩⟩
      · exact absurd hi (by rw [hnone _ (List.getElem_mem hlt)]; exact Bool.false_ne_true)
      · obtain ⟨hjlt, hjnan⟩ := List.getElem?_eq_some_iff.mp hj
        have hij : ¬ j < i := fun h => hbefore j h (by rw [hjnan]; rfl)
        have hji : ¬ i < j := fun h => by
          have := hfirst i _ h (List.getElem?_eq_getElem hlt)
          rw [hi] at this
          cases this
        exact (if_pos h4).trans (by omega)

theorem RedRecord.length_bytes (r : RedRecord) : r.bytes.length = 16 := by
  simp [RedRecord.bytes]

end

end Sys2Proof.Machine
end

/-! Elements in memory and in tables (R7, R176, R178, R186). -/

noncomputable section
namespace Sys2Proof.Machine

section
variable {m : Memory} {a n sz v : Nat}

theorem Memory.readLE_lt (m : Memory) (a n : Nat) : m.readLE a n < 2 ^ (8 * n) := by
  have h := ofLE_lt (m.readBytes a n)
  rwa [Memory.length_readBytes, ← Memory.readLE_eq, show 256 = 2 ^ 8 from rfl, ← pow_mul] at h

theorem Memory.writeBytes_append (m : Memory) (a : Nat) (bs cs : List Byte) :
    m.writeBytes a (bs ++ cs) = (m.writeBytes a bs).writeBytes (a + bs.length) cs := by
  induction bs generalizing m a with
  | nil => rfl
  | cons b bs ih => simp only [List.cons_append, Memory.writeBytes, ih, List.length_cons, Nat.add_comm bs.length 1, Nat.add_assoc]

/-- A number written is the number read there, if its bytes can hold it. -/
theorem Memory.readLE_writeBytes_leBytes (h : m.wf = true) (hv : v < 2 ^ (8 * n)) :
    (m.writeBytes a (leBytes n v)).readLE a n = v := by
  have hsame := Memory.readLE_writeLE_same m a n v h
  rw [show 256 = 2 ^ 8 from rfl, ← pow_mul] at hsame
  exact hsame.trans (Nat.mod_eq_of_lt hv)

theorem Memory.readLE_writeBytes_outside (h : m.wf = true) {b : Nat} {bs : List Byte} (hout : b + n ≤ a ∨ a + bs.length ≤ b) :
    (m.writeBytes a bs).readLE b n = m.readLE b n :=
  Memory.readLE_congr _ _ _ _ fun x _ _ => Memory.read_writeBytes_outside _ _ _ _ h (by omega)

theorem length_flatMap_leBytes_nat (sz : Nat) (xs : List Nat) : (xs.flatMap (leBytes sz)).length = xs.length * sz := by
  simp [List.length_flatMap]

/-- Elements written one after another are read each at its place. -/
theorem Memory.readLE_writeElements (h : m.wf = true) {xs : List Nat} (hlt : ∀ x ∈ xs, x < 2 ^ (8 * sz)) {i : Nat}
    (hi : i < xs.length) : (m.writeBytes a (xs.flatMap (leBytes sz))).readLE (a + i * sz) sz = xs[i] := by
  induction xs generalizing m a i with
  | nil => simp at hi
  | cons x xs ih =>
    have hwf := Memory.wf_writeBytes m a (leBytes sz x) h
    rw [List.flatMap_cons, Memory.writeBytes_append, length_leBytes]
    cases i with
    | zero =>
      rw [zero_mul, add_zero, Memory.readLE_writeBytes_outside hwf (.inl le_rfl)]
      exact Memory.readLE_writeBytes_leBytes h (hlt x List.mem_cons_self)
    | succ i =>
      rw [show a + (i + 1) * sz = a + sz + i * sz by ring]
      exact ih hwf (fun y hy => hlt y (List.mem_cons_of_mem _ hy)) (Nat.lt_of_succ_lt_succ hi)

/-! Elements written by index. -/

/-- Each pair's value is written at the place of its index, if the index is below `k` (R186). -/
def Memory.scatter (m : Memory) (a sz k : Nat) : List (Nat × Nat) → Memory :=
  List.foldl (fun m p => if p.1 < k then m.writeBytes (a + p.1 * sz) (leBytes sz p.2) else m) m

section
variable {k : Nat} {ps : List (Nat × Nat)}

theorem Memory.wf_scatterOne (h : m.wf = true) (p : Nat × Nat) :
    (if p.1 < k then m.writeBytes (a + p.1 * sz) (leBytes sz p.2) else m).wf = true := by
  split
  · exact Memory.wf_writeBytes _ _ _ h
  · exact h

/-- A byte in no place that is written stays. -/
theorem Memory.read_scatter_outside (h : m.wf = true) {y : Nat}
    (hout : ∀ p ∈ ps, p.1 < k → y < a + p.1 * sz ∨ a + p.1 * sz + sz ≤ y) : (m.scatter a sz k ps).read y = m.read y := by
  induction ps generalizing m with
  | nil => rfl
  | cons p ps ih =>
    refine (ih (Memory.wf_scatterOne h p) fun q hq => hout q (List.mem_cons_of_mem _ hq)).trans ?_
    split
    next hp =>
      have hy := hout p List.mem_cons_self hp
      exact Memory.read_writeBytes_outside _ _ _ _ h (by rwa [length_leBytes])
    next => rfl

/-- Places of different indices do not meet. -/
theorem places_apart {i j : Nat} (h : i ≠ j) {y : Nat} (hlo : a + i * sz ≤ y) (hhi : y < a + i * sz + sz) :
    y < a + j * sz ∨ a + j * sz + sz ≤ y := by
  obtain hlt | hlt := Nat.lt_or_gt_of_ne h
  · have := Nat.mul_le_mul_right sz (Nat.succ_le_of_lt hlt)
    rw [Nat.succ_mul] at this
    omega
  · have := Nat.mul_le_mul_right sz (Nat.succ_le_of_lt hlt)
    rw [Nat.succ_mul] at this
    omega

/-- The last pair of an index gives the value (R186). -/
theorem Memory.readLE_scatter (h : m.wf = true) {i : Nat} {p : Nat × Nat} (hp : ps[i]? = some p) (hk : p.1 < k)
    (hlt : p.2 < 2 ^ (8 * sz)) (hlast : ∀ j q, i < j → ps[j]? = some q → q.1 ≠ p.1) :
    (m.scatter a sz k ps).readLE (a + p.1 * sz) sz = p.2 := by
  induction ps generalizing m i with
  | nil => simp at hp
  | cons q ps ih =>
    cases i with
    | zero =>
      obtain rfl : q = p := by simpa using hp
      have hkeep : ((m.writeBytes (a + q.1 * sz) (leBytes sz q.2)).scatter a sz k ps).readLE (a + q.1 * sz) sz =
          (m.writeBytes (a + q.1 * sz) (leBytes sz q.2)).readLE (a + q.1 * sz) sz :=
        Memory.readLE_congr _ _ _ _ fun y hlo hhi => Memory.read_scatter_outside (Memory.wf_writeBytes _ _ _ h) fun r hr _ => by
          obtain ⟨j, hj⟩ := List.mem_iff_getElem?.mp hr
          exact places_apart (hlast (j + 1) r (Nat.succ_pos j) hj).symm hlo hhi
      rw [Memory.scatter, List.foldl_cons, if_pos hk]
      exact hkeep.trans (Memory.readLE_writeBytes_leBytes h hlt)
    | succ i =>
      exact ih (Memory.wf_scatterOne h q) hp fun j r hj hr => hlast (j + 1) r (Nat.succ_lt_succ hj) hr

end

end

/-! Elements of a table. -/

section
variable {α : Type} [DecidableEq α] {d : α} {t : List (Nat × α)} {base n : Nat} {g : Nat → α}

/-- Entries set one after another from `base` on. -/
theorem Tbl.get_setRange (h : Tbl.wf d t = true) (k : Nat) :
    Tbl.get d ((List.range n).foldl (fun t i => Tbl.set d t (base + i) (g i)) t) k =
      if base ≤ k ∧ k < base + n then g (k - base) else Tbl.get d t k := by
  induction n with
  | zero => rw [if_neg (by omega)]; rfl
  | succ n ih =>
    have hwf := Tbl.wf_foldl_set d (List.range n) (fun i => base + i) g t h
    rw [List.range_succ, List.foldl_append, List.foldl_cons, List.foldl_nil]
    by_cases hk : k = base + n
    · rw [hk, Tbl.get_set_same d _ _ _ hwf, if_pos (by omega), Nat.add_sub_cancel_left]
    · rw [Tbl.get_set_ne d _ _ _ _ hwf hk, ih]
      exact if_congr (by omega) rfl rfl

end

end Sys2Proof.Machine
end

/-! The vector engine's command in progress: its parts at work and its end (R59, R187, R190, R199). -/

noncomputable section
namespace Sys2Proof.Machine

/-! What each part of a command's work changes. -/

section
variable (s : State) (x : VeCmd) (n : Nat)

@[simp] theorem State.veLost_parts : s.veLost.core = s.core ∧ s.veLost.engines = s.engines ∧ s.veLost.mem = s.mem ∧
    s.veLost.ve = { s.ve with lost := satAdd s.ve.lost (Config.freeWord s.free 0).toNat } := ⟨rfl, rfl, rfl, rfl⟩

@[simp] theorem State.veOob_parts : (s.veOob n).core = s.core ∧ (s.veOob n).engines = s.engines ∧ (s.veOob n).mem = s.mem ∧
    (s.veOob n).ve = { s.ve with oob := satAdd s.ve.oob n, oobSticky := s.ve.oobSticky || decide (n > 0) } := by
  simp [State.veOob, State.onVe]

@[simp] theorem veWarn_parts (isat inv : Bool) : (veWarn s isat inv n).core = s.core ∧
    (veWarn s isat inv n).engines = s.engines ∧ (veWarn s isat inv n).mem = s.mem ∧
    (veWarn s isat inv n).ve = { s.ve with
      isat := s.ve.isat || isat, inv := s.ve.inv || inv, busy := s.ve.busy + BitVec.ofNat 64 n } := by
  simp [veWarn, State.onVe]

/-- The parts of the state that counting corrected words leaves. -/
def State.uncounted (s : State) := (s.core, s.engines, s.ve, s.mem.mem, s.mem.bad)

theorem foldl_uncounted {β : Type} {f : State → β → State} (h : ∀ s b, (f s b).uncounted = s.uncounted) (l : List β) :
    (l.foldl f s).uncounted = s.uncounted := foldl_keeps f State.uncounted h l s

theorem veCountSingles_uncounted (c : VCmd) : (veCountSingles s c n).uncounted = s.uncounted :=
  foldl_uncounted s (fun s o => by cases o <;> rfl) _

@[simp] theorem veCountSingles_parts (c : VCmd) : (veCountSingles s c n).core = s.core ∧
    (veCountSingles s c n).engines = s.engines ∧ (veCountSingles s c n).ve = s.ve ∧
    (veCountSingles s c n).mem.mem = s.mem.mem := by
  have h := veCountSingles_uncounted s n c
  simp only [State.uncounted, Prod.mk.injEq] at h
  obtain ⟨hcore, hengines, hve, hmem, -⟩ := h
  exact ⟨hcore, hengines, hve, hmem⟩

@[simp] theorem veWrite_parts (d : VOperand) (xs : List Nat) : (veWrite s d xs).core = s.core ∧
    (veWrite s d xs).engines = s.engines ∧ (veWrite s d xs).ve = { s.ve with vregs := (veWrite s d xs).ve.vregs } := by
  cases d <;> exact ⟨rfl, rfl, rfl⟩

@[simp] theorem veDone_parts : (veDone s x).engines = s.engines ∧ (veDone s x).mem = s.mem ∧
    (veDone s x).ve = { s.ve with inflight := s.ve.inflight.tail } := by
  simp [veDone, State.onVe]

/-- The results go to the registers, or to memory, as these stand. -/
theorem veWrite_congr {u w : State} (hregs : w.ve.vregs = u.ve.vregs) (hmem : w.mem.mem = u.mem.mem) (d : VOperand)
    (xs : List Nat) : (veWrite w d xs).ve.vregs = (veWrite u d xs).ve.vregs ∧
      (veWrite w d xs).mem.mem = (veWrite u d xs).mem.mem := by
  cases d with
  | reg v => exact ⟨by simp only [veWrite, State.onVe, hregs], hmem⟩
  | mem a sz => exact ⟨hregs, congrArg (fun m => Memory.writeBytes m a (xs.flatMap (leBytes sz))) hmem⟩
  | scalar | none => exact ⟨hregs, hmem⟩

end

/-- The command in progress may have worked: what its end does not change is as in `s`. -/
structure VeWorked (s u : State) : Prop where
  core : u.core = s.core
  engines : u.engines = s.engines
  inflight : u.ve.inflight = s.ve.inflight
  progs : u.ve.progs = s.ve.progs
  pvalid : u.ve.pvalid = s.ve.pvalid

section
variable {s w : State} {x : VeCmd} {rest : List VeCmd}

theorem VeWorked.refl (s : State) : VeWorked s s := ⟨rfl, rfl, rfl, rfl, rfl⟩

theorem VeWorked.trans {u : State} (h : VeWorked s w) (h' : VeWorked w u) : VeWorked s u :=
  ⟨h'.core.trans h.core, h'.engines.trans h.engines, h'.inflight.trans h.inflight, h'.progs.trans h.progs,
    h'.pvalid.trans h.pvalid⟩

theorem veDone_completed (hold : x.old = false) : QueueCompleted s (veDone s x) 4 x.seq := by
  refine State.complete_completed (by decide) x.seq ?_
  rw [veDone, hold]
  rfl

theorem veDone_ended (h : VeWorked s w) (hhead : s.ve.inflight = x :: rest) (hold : x.old = false) :
    VeEnded s (veDone w x) x rest := by
  obtain ⟨hengines, -, hve⟩ := veDone_parts w x
  refine ⟨?_, (veDone_completed hold).of_core h.core, ?_, ?_, hengines.trans h.engines⟩
  · rw [hve, h.inflight, hhead]; rfl
  · rw [hve, h.progs]
  · rw [hve, h.pvalid]

theorem VeWorked.lwrite (s : State) (a : Nat) (bs : List Byte) : VeWorked s (s.lwrite a bs) := ⟨rfl, rfl, rfl, rfl, rfl⟩

/-! Commands that end without an uncorrectable word. -/

theorem veBadElem_clean (hbad : s.mem.bad = []) (c : VCmd) : veBadElem s c = none := by
  refine (congrArg (List.foldl _ none) (List.filterMap_eq_nil_iff.mpr fun o _ => ?_)).trans rfl
  cases o with
  | mem a sz => simp only [LocalMemory.badIn_clean hbad, Option.map_none]
  | reg | scalar | none => rfl

/-- A command that no word stops writes its results, warns of what they warn of, and completes. -/
theorem veEnd_none (h : VeWorked s w) (hhead : s.ve.inflight = x :: rest) (hold : x.old = false) (c : VCmd) (rs : List VRes)
    (beats : Nat → Nat) : VeEnded s (veEnd w x c rs none beats) x rest ∧
      (veEnd w x c rs none beats).ve.vregs = (veWrite w c.dst (rs.map (·.bits))).ve.vregs ∧
      (veEnd w x c rs none beats).mem.mem = (veWrite w c.dst (rs.map (·.bits))).mem.mem ∧
      (veEnd w x c rs none beats).ve.isat = (w.ve.isat || rs.any (·.isat)) ∧
      (veEnd w x c rs none beats).ve.oob = w.ve.oob := by
  obtain ⟨y, hy⟩ : ∃ y, y = if c.usesMem then (veCountSingles w c rs.length).veLost else w := ⟨_, rfl⟩
  obtain ⟨hcore, hengines, hmem, hve⟩ : y.core = w.core ∧ y.engines = w.engines ∧ y.mem.mem = w.mem.mem ∧
      ∃ lost, y.ve = { w.ve with lost := lost } := by
    rw [hy]
    split
    · simp
    · exact ⟨rfl, rfl, rfl, _, rfl⟩
  obtain ⟨lost, hlost⟩ := hve
  obtain ⟨z, hz⟩ : ∃ z, z = veWarn y (rs.any (·.isat)) (rs.any (·.inv)) (if rs.length = 0 then 0 else beats rs.length) :=
    ⟨_, rfl⟩
  have hend : veEnd w x c rs none beats = veDone (veWrite z c.dst (rs.map (·.bits))) x := by rw [hz, hy]; rfl
  obtain ⟨hzcore, hzengines, hzmem, hzve⟩ := veWarn_parts y (if rs.length = 0 then 0 else beats rs.length)
    (rs.any (·.isat)) (rs.any (·.inv))
  rw [← hz] at hzcore hzengines hzmem hzve
  obtain ⟨hwcore, hwengines, hwve⟩ := veWrite_parts z c.dst (rs.map (·.bits))
  obtain ⟨hregs, hwmem⟩ := veWrite_congr (u := w) (w := z) (by rw [hzve, hlost]) (by rw [hzmem, hmem]) c.dst (rs.map (·.bits))
  obtain ⟨-, hdmem, hdve⟩ := veDone_parts (veWrite z c.dst (rs.map (·.bits))) x
  have hworked : VeWorked w (veWrite z c.dst (rs.map (·.bits))) := by
    refine ⟨hwcore.trans (hzcore.trans hcore), hwengines.trans (hzengines.trans hengines), ?_, ?_, ?_⟩ <;>
      rw [hwve, hzve, hlost]
  rw [hend, hdmem, hdve]
  refine ⟨veDone_ended (h.trans hworked) hhead hold, hregs, hwmem, ?_, ?_⟩
  · dsimp only
    rw [hwve, hzve, hlost]
  · dsimp only
    rw [hwve, hzve, hlost]

/-! Results as elements of the destination. -/

theorem zip_map_range {β : Type} (g : Nat → β) (n : Nat) :
    ((List.range n).map g).zip (List.range ((List.range n).map g).length) = (List.range n).map fun i => (g i, i) := by
  rw [List.length_map, List.length_range]
  exact List.ext_getElem (by simp) (by simp)

/-- Results written to a destination are its elements, and nothing else changes. -/
theorem veWrite_elements {u : State} {dst : VOperand} {d addr size n : Nat} {g : Nat → Nat} {res : Nat → Nat → Prop}
    (hvregs : Tbl.wf 0#32 s.ve.vregs = true) (hmem : Memory.wf s.mem.mem = true)
    (hdst : dst = if d < 8 then .reg d else .mem addr size) (hres : ∀ i < n, res i (g i)) (hlt : ∀ i < n, g i < 2 ^ (8 * size))
    (huregs : u.ve.vregs = (veWrite s dst ((List.range n).map g)).ve.vregs)
    (humem : u.mem.mem = (veWrite s dst ((List.range n).map g)).mem.mem) : ElementsWritten s u d addr size n res := by
  constructor
  · intro hd
    rw [hdst, if_pos hd] at huregs humem
    have hget (k : Nat) : Tbl.get 0#32 u.ve.vregs k =
        if d * 2048 ≤ k ∧ k < d * 2048 + n then BitVec.ofNat 32 (g (k - d * 2048)) else Tbl.get 0#32 s.ve.vregs k := by
      rw [huregs, ← Tbl.get_setRange (g := fun i => BitVec.ofNat 32 (g i)) hvregs k]
      simp only [veWrite, State.onVe, zip_map_range, List.foldl_map]
    refine ⟨fun i hi => ⟨g i, ?_, hres i hi⟩, fun k hk => ?_, humem⟩
    · rw [hget, if_pos (by omega), Nat.add_sub_cancel_left]
    · rw [hget, if_neg (by omega)]
  · rintro rfl
    rw [hdst, if_neg (by decide)] at huregs humem
    have hread (i : Nat) (hi : i < n) : u.mem.mem.readLE (addr + i * size) size = g i := by
      have hbound : ∀ y ∈ (List.range n).map g, y < 2 ^ (8 * size) := by
        simpa using fun i hi => hlt i hi
      have helem := Memory.readLE_writeElements (a := addr) hmem hbound (i := i) (by simpa using hi)
      rw [List.getElem_map, List.getElem_range] at helem
      rw [humem]
      exact helem
    refine ⟨fun i hi => by rw [hread i hi]; exact hres i hi, fun a ha => ?_, huregs⟩
    rw [humem]
    refine Memory.read_writeBytes_outside _ _ _ _ hmem ?_
    rwa [length_flatMap_leBytes_nat, List.length_map, List.length_range]

section
variable {c : VCmd} {f : Nat → VRes} {d addr size n : Nat} {res : Nat → Nat → Prop}
variable (hhead : s.ve.inflight = x :: rest) (hold : x.old = false) (hvregs : Tbl.wf 0#32 s.ve.vregs = true)
  (hmem : Memory.wf s.mem.mem = true) (hdst : c.dst = if d < 8 then .reg d else .mem addr size)
include hhead hold hvregs hmem hdst

/-- The end of an element-wise command whose work so far has left registers and memory. -/
theorem veEnd_elements (hworked : VeWorked s w) (hwregs : w.ve.vregs = s.ve.vregs) (hwmem : w.mem.mem = s.mem.mem)
    (hres : ∀ i < n, res i (f i).bits) (hlt : ∀ i < n, (f i).bits < 2 ^ (8 * size)) (beats : Nat → Nat) {u : State}
    (hu : u = veEnd w x c ((List.range n).map f) none beats) :
    VeEnded s u x rest ∧ ElementsWritten s u d addr size n res ∧
      (u.ve.isat = true ↔ w.ve.isat = true ∨ ∃ i < n, (f i).isat = true) ∧ u.ve.oob = w.ve.oob := by
  obtain ⟨hended, hregs, hmem', hisat, hoob⟩ := veEnd_none hworked hhead hold c ((List.range n).map f) beats
  obtain ⟨hsregs, hsmem⟩ := veWrite_congr hwregs hwmem c.dst (((List.range n).map f).map (·.bits))
  rw [hsregs, List.map_map] at hregs
  rw [hsmem, List.map_map] at hmem'
  rw [hu]
  refine ⟨hended, veWrite_elements hvregs hmem hdst hres hlt hregs hmem', ?_, hoob⟩
  rw [hisat]
  simp

/-- An element-wise command on words that can be read writes the result of every element (R180, R190). -/
theorem veFinish_elements (hbad : s.mem.bad = []) (hres : ∀ i < c.count, res i (f i).bits)
    (hlt : ∀ i < c.count, (f i).bits < 2 ^ (8 * size)) (beats : Nat → Nat) :
    VeEnded s (veFinish s x c f beats) x rest ∧ ElementsWritten s (veFinish s x c f beats) d addr size c.count res ∧
      ((veFinish s x c f beats).ve.isat = true ↔ s.ve.isat = true ∨ ∃ i < c.count, (f i).isat = true) := by
  have hfinish : veFinish s x c f beats = veEnd s x c ((List.range c.count).map f) none beats := by
    unfold veFinish
    rw [veBadElem_clean hbad]
    rfl
  obtain ⟨hended, helems, hisat, -⟩ := veEnd_elements hhead hold hvregs hmem hdst (VeWorked.refl s) rfl rfl hres hlt beats hfinish
  exact ⟨hended, helems, hisat⟩

end

end

end Sys2Proof.Machine
end

/-! A VOP at work (R180-R187). -/

noncomputable section
namespace Sys2Proof.Machine

section
variable {s : State} {x : VeCmd} {rest : List VeCmd}

/-! The command in progress by its opcode. -/

/-- The work of a command by its opcode. -/
def veRun (s : State) (x : VeCmd) : Nat → State
  | 0x40 => runVop s x
  | 0x41 => runVpload s x
  | 0x42 => runVep s x
  | _ => runVred s x

theorem exec_veCompletion_eq (hrun : s.inRun = true) (hhead : s.ve.inflight = x :: rest) :
    exec .veCompletion s = .next (veRun s x ((x.regs.getD 0 0#64).toNat % 256)) := by
  change execVeCompletion s = _
  simp only [execVeCompletion, hrun, hhead, Bool.not_true, Bool.false_eq_true, if_false]
  rfl

/-! Operands. -/

section
variable {sel addr size k i : Nat}

/-- A source of a register, of memory or of the scalar gives the operand's elements (R180). -/
theorem veElem_vSource (hsel : sel ≤ 9) :
    veElem s (vSource sel addr size (k % 2 ^ (8 * size))) size i = vecOperand s sel addr size k i := by
  obtain h | h | h : sel < 8 ∨ sel = 8 ∨ sel = 9 := by omega
  · simp only [vSource, vecOperand, if_pos h, veElem]
  · simp only [vSource, vecOperand, h, veElem, Nat.lt_irrefl, if_false, if_true]
  · subst h
    rfl

theorem vecOperand_lt (s : State) (sel addr size k i : Nat) : vecOperand s sel addr size k i < 2 ^ (8 * size) := by
  unfold vecOperand
  split_ifs
  · exact Nat.mod_lt _ (Nat.two_pow_pos _)
  · exact Memory.readLE_lt ..
  · exact Nat.mod_lt _ (Nat.two_pow_pos _)

end

/-- Fields that pass R180 and R181: the type allows the operation, and every source that it uses is one. -/
theorem vopFieldsBad_false {v : VopFields} (h : vopFieldsBad v = false) : funcAllows v.func v.ty = true ∧
    (1 ≤ v.arity → v.a ≤ 9) ∧ (2 ≤ v.arity → v.b ≤ 9) ∧ (3 ≤ v.arity → v.c ≤ 9) := by
  have hsel {used : Prop} [Decidable used] {sel : Nat} (hb : selBad (decide used) sel = false) (hu : used) : sel ≤ 9 := by
    simpa [selBad, hu] using hb
  simp only [vopFieldsBad, Bool.or_eq_false_iff, Bool.not_eq_false', and_assoc] at h
  obtain ⟨hallow, -, -, -, -, -, ha, hb, hc, -⟩ := h
  exact ⟨hallow, hsel ha, hsel hb, hsel hc⟩

section
variable {v : VopFields}

theorem VopFields.gather_iff : v.gather = true ↔ v.func = 0x39 := beq_iff_eq

theorem VopFields.scatter_iff : v.scatter = true ↔ v.func = 0x3A := beq_iff_eq

theorem VopFields.gather_eq_false (h : v.func ≠ 0x39) : v.gather = false := by
  rwa [Bool.eq_false_iff, ne_eq, VopFields.gather_iff]

theorem VopFields.scatter_eq_false (h : v.func ≠ 0x3A) : v.scatter = false := by
  rwa [Bool.eq_false_iff, ne_eq, VopFields.scatter_iff]

theorem vopCmd_dst (h : v.func ≠ 0x3A) : (vopCmd v).dst = if v.d < 8 then .reg v.d else .mem v.daddr v.outTy.size := by
  simp only [vopCmd, VopFields.scatter_eq_false h, Bool.false_eq_true, if_false]

end

/-! Element by element. -/

/-- Element `i` of an operation that is neither GATHER nor SCATTER, on the operands of R180. -/
theorem vopElem_operands {v : VopFields} (hfields : vopFieldsBad v = false) (hg : v.func ≠ 0x39) (hs : v.func ≠ 0x3A) (i : Nat) :
    vopElem s x v (vopCmd v) i = vopResult x v i (vecOperand s v.a v.aaddr v.ty.size v.k i)
      (vecOperand s v.b v.baddr v.ty.size v.k i) (vecOperand s v.c v.caddr v.ty.size v.k i) := by
  obtain ⟨hallow, ha, hb, hc⟩ := vopFieldsBad_false hfields
  have hgather := VopFields.gather_eq_false hg
  have hscatter := VopFields.scatter_eq_false hs
  rw [vopElem_eq]
  refine vopResult_congr hallow (fun h => ?_) (fun h => ?_) (fun h => ?_) hg hs
  · rw [← veElem_vSource (ha h)]
    simp [vopCmd, h, hgather]
  · rw [← veElem_vSource (hb h)]
    simp [vopCmd, h, hgather, hscatter]
  · rw [← veElem_vSource (hc h)]
    simp [vopCmd, h]

/-- A VOP other than GATHER and SCATTER gives its destination the results of R181-R185, and ISAT warns of those clamped (R182). -/
theorem runVop_elements {v : VopFields} {a b c : Nat → Nat} (hhead : s.ve.inflight = x :: rest) (hold : x.old = false)
    (hbad : s.mem.bad = []) (hvregs : Tbl.wf 0#32 s.ve.vregs = true) (hmem : Memory.wf s.mem.mem = true)
    (hv : v = vopFields x.regs) (hfields : vopFieldsBad v = false) (hg : v.func ≠ 0x39) (hs : v.func ≠ 0x3A)
    (ha : a = vecOperand s v.a v.aaddr v.ty.size v.k) (hb : b = vecOperand s v.b v.baddr v.ty.size v.k)
    (hc : c = vecOperand s v.c v.caddr v.ty.size v.k) :
    VeEnded s (runVop s x) x rest ∧
      ElementsWritten s (runVop s x) v.d v.daddr v.outTy.size v.count (fun i r => VopMeaning x v i (a i) (b i) (c i) r) ∧
      ((runVop s x).ve.isat = true ↔ s.ve.isat = true ∨ (v.sat = true ∧
        ∃ i < v.count, clampTo v.ty.width (exactInt v (a i) (b i)) ≠ exactInt v (a i) (b i))) := by
  have hallow := (vopFieldsBad_false hfields).1
  have hrun : runVop s x = veFinish s x (vopCmd v) (vopElem s x v (vopCmd v)) (vopBeats v (vopCmd v)) := by
    unfold runVop
    rw [← hv]
    simp only [VopFields.gather_eq_false hg, VopFields.scatter_eq_false hs, Bool.false_eq_true, if_false]
  have helem (i : Nat) : vopElem s x v (vopCmd v) i = vopResult x v i (a i) (b i) (c i) := by
    rw [ha, hb, hc]
    exact vopElem_operands hfields hg hs i
  have hla (i : Nat) : a i < 2 ^ v.ty.width := by rw [ha]; exact vecOperand_lt ..
  have hlb (i : Nat) : b i < 2 ^ v.ty.width := by rw [hb]; exact vecOperand_lt ..
  have hlc (i : Nat) : c i < 2 ^ v.ty.width := by rw [hc]; exact vecOperand_lt ..
  obtain ⟨hended, helems, hisat⟩ := veFinish_elements (f := vopElem s x v (vopCmd v))
    (res := fun i r => VopMeaning x v i (a i) (b i) (c i) r) hhead hold hvregs hmem (vopCmd_dst hs) hbad
    (fun i _ => by rw [helem]; exact vopResult_meaning hallow (hla i) (hlb i))
    (fun i _ => by rw [helem]; exact vopResult_bits_lt hallow hg hs (hla i) (hlb i) (hlc i)) (vopBeats v (vopCmd v))
  rw [hrun]
  refine ⟨hended, helems, hisat.trans ?_⟩
  simp only [helem, vopResult_isat hallow, ← exists_and_left, and_left_comm]
  rfl

/-! GATHER and SCATTER (R186). -/

section
variable {v : VopFields}

/-- The scalar of a command is a word. -/
theorem vopFields_k (regs : List DWord) : (vopFields regs).k % 2 ^ (8 * 4) = (vopFields regs).k := Nat.mod_mod _ _

/-- The indices of a GATHER or SCATTER. -/
theorem veElem_index (hv : v = vopFields x.regs) (hfields : vopFieldsBad v = false) (hf : v.func = 0x39 ∨ v.func = 0x3A)
    (i : Nat) : veElem s ((vopCmd v).srcs.getD 1 .none) 4 i = vecOperand s v.b v.baddr 4 v.k i := by
  obtain ⟨-, -, hb, -⟩ := vopFieldsBad_false hfields
  have harity : v.arity = 2 := funcArity_eq_two (by omega)
  have hsrc : (vopCmd v).srcs.getD 1 .none = vSource v.b v.baddr 4 v.k := by
    simp [vopCmd, harity, VopFields.gather, VopFields.scatter, hf]
  have hk : v.k % 2 ^ (8 * 4) = v.k := by rw [hv]; exact vopFields_k _
  rw [hsrc, ← veElem_vSource (hb (by omega)), hk]

/-- Element `j` of the table, zero past its end. -/
def State.tableElem (s : State) (v : VopFields) (j : Nat) : Nat :=
  if j < v.k then s.mem.mem.readLE (v.aaddr + j * v.ty.size) v.ty.size else 0

theorem State.tableElem_lt (s : State) (v : VopFields) (j : Nat) : s.tableElem v j < 2 ^ (8 * v.ty.size) := by
  unfold State.tableElem
  split
  · exact Memory.readLE_lt ..
  · exact Nat.two_pow_pos _

/-- The state once a GATHER has read the elements at the indices `l` that lie within the table, and counted the others. -/
def gatherRead (s : State) (v : VopFields) (l : List Nat) : State :=
  ((l.filter fun j => decide (j < v.k)).foldl (fun s j => (s.lread (v.aaddr + j * v.ty.size) v.ty.size).2.2) s).veOob
    (l.length - (l.filter fun j => decide (j < v.k)).length)

/-- A GATHER on words that can be read: every index is looked up. -/
theorem runGather_clean (hbad : s.mem.bad = []) {c : VCmd} {l : List Nat}
    (hl : l = (List.range v.count).map fun i => veElem s (c.srcs.getD 1 .none) 4 i) (beats : Nat → Nat) :
    runGather s x v c beats = veEnd (gatherRead s v l) x c (l.map fun j => VRes.of (s.tableElem v j)) none beats := by
  have hall : l.takeWhile (fun _ => true) = l := List.takeWhile_eq_self_iff.mpr fun _ _ => rfl
  unfold runGather
  simp only [veBadElem_clean hbad, LocalMemory.badIn_clean hbad, ite_self, Option.isNone_none, Option.elim_none,
    Option.map_none, ← hl, hall, List.drop_length]
  rfl

theorem length_sub_filter_lt (k : Nat) (l : List Nat) :
    l.length - (l.filter fun j => decide (j < k)).length = l.countP fun j => decide (k ≤ j) := by
  have h := List.length_eq_countP_add_countP (fun j => decide (j < k)) (l := l)
  simp only [decide_eq_true_eq, Nat.not_lt] at h
  rw [← List.countP_eq_length_filter]
  omega

theorem gatherRead_parts (s : State) (v : VopFields) (l : List Nat) : VeWorked s (gatherRead s v l) ∧
    (gatherRead s v l).ve.vregs = s.ve.vregs ∧ (gatherRead s v l).mem.mem = s.mem.mem ∧
    (gatherRead s v l).ve.oob = satAdd s.ve.oob (l.countP fun j => decide (v.k ≤ j)) := by
  have hread := foldl_uncounted s (f := fun s j => (s.lread (v.aaddr + j * v.ty.size) v.ty.size).2.2) (fun _ _ => rfl)
    (l.filter fun j => decide (j < v.k))
  simp only [State.uncounted, Prod.mk.injEq] at hread
  obtain ⟨hcore, hengines, hve, hmem, -⟩ := hread
  rw [gatherRead, length_sub_filter_lt]
  refine ⟨⟨?_, ?_, ?_, ?_, ?_⟩, ?_, ?_, ?_⟩ <;> simp [hcore, hengines, hve, hmem]

/-- A GATHER gives its destination the table's elements, zero for an index past the table, and counts these (R186). -/
theorem runVop_gather {idx : Nat → Nat} (hhead : s.ve.inflight = x :: rest) (hold : x.old = false)
    (hbad : s.mem.bad = []) (hvregs : Tbl.wf 0#32 s.ve.vregs = true) (hmem : Memory.wf s.mem.mem = true)
    (hv : v = vopFields x.regs) (hfields : vopFieldsBad v = false) (hf : v.func = 0x39)
    (hidx : idx = vecOperand s v.b v.baddr 4 v.k) :
    VeEnded s (runVop s x) x rest ∧
      ElementsWritten s (runVop s x) v.d v.daddr v.ty.size v.count (fun i r =>
        (idx i < v.k → r = s.mem.mem.readLE (v.aaddr + idx i * v.ty.size) v.ty.size) ∧ (v.k ≤ idx i → r = 0)) ∧
      (runVop s x).ve.oob = satAdd s.ve.oob ((List.range v.count).countP fun i => v.k ≤ idx i) := by
  have hindices : (List.range v.count).map idx =
      (List.range v.count).map fun i => veElem s ((vopCmd v).srcs.getD 1 .none) 4 i :=
    List.map_congr_left fun i _ => by rw [hidx, veElem_index hv hfields (.inl hf)]
  have hrun : runVop s x = runGather s x v (vopCmd v) (vopBeats v (vopCmd v)) := by
    unfold runVop
    rw [← hv]
    simp only [VopFields.gather_iff.mpr hf, if_true]
  rw [runGather_clean hbad hindices, List.map_map] at hrun
  have hout : v.outTy = v.ty := if_neg (by rw [VopFields.isCvt_eq_false (by omega)]; exact Bool.false_ne_true)
  have hdst := vopCmd_dst (v := v) (by omega)
  rw [hout] at hdst
  obtain ⟨hworked, hregs, hgmem, hoob⟩ := gatherRead_parts s v ((List.range v.count).map idx)
  obtain ⟨hended, helems, -, huoob⟩ := veEnd_elements hhead hold hvregs hmem hdst hworked hregs hgmem
    (res := fun i r => (idx i < v.k → r = s.mem.mem.readLE (v.aaddr + idx i * v.ty.size) v.ty.size) ∧ (v.k ≤ idx i → r = 0))
    (fun i _ => ⟨fun h => if_pos h, fun h => if_neg (Nat.not_lt.mpr h)⟩) (fun i _ => s.tableElem_lt v (idx i)) _ hrun
  rw [huoob, hoob, List.countP_map]
  exact ⟨hended, helems, rfl⟩

/-- Elements written by index, each if its index is below `k`. -/
theorem foldl_lwrite_parts (s : State) (a sz k : Nat) (ps : List (Nat × Nat)) {u : State}
    (hu : u = ps.foldl (fun s p => if p.1 < k then s.lwrite (a + p.1 * sz) (leBytes sz p.2) else s) s) :
    u.core = s.core ∧ u.engines = s.engines ∧ u.ve = s.ve ∧ u.mem.mem = s.mem.mem.scatter a sz k ps := by
  induction ps generalizing s with
  | nil => rw [hu]; exact ⟨rfl, rfl, rfl, rfl⟩
  | cons p ps ih =>
    obtain ⟨hcore, hengines, hve, hmem⟩ := ih _ hu
    have hstep : s.mem.mem.scatter a sz k (p :: ps) =
        (if p.1 < k then s.mem.mem.writeBytes (a + p.1 * sz) (leBytes sz p.2) else s.mem.mem).scatter a sz k ps := rfl
    rw [hcore, hengines, hve, hmem, hstep]
    by_cases hp : p.1 < k
    · simp only [if_pos hp]
      exact ⟨rfl, rfl, rfl, rfl⟩
    · simp only [if_neg hp, and_self]

/-- What a SCATTER records at its end. -/
theorem scatterCounted_parts (y : State) (n beats : Nat) {z : State}
    (hz : z = (veWarn (y.veOob n) false false beats).veLost) :
    VeWorked y z ∧ z.mem = y.mem ∧ z.ve.vregs = y.ve.vregs ∧ z.ve.oob = satAdd y.ve.oob n := by
  rw [hz]
  exact ⟨⟨by simp, by simp, by simp, by simp, by simp⟩, by simp, by simp, by simp⟩

/-- A SCATTER on words that can be read. -/
theorem runScatter_clean (hbad : s.mem.bad = []) {c : VCmd} {ps : List (Nat × Nat)}
    (hps : ps = (List.range v.count).map fun i =>
      (veElem s (c.srcs.getD 1 .none) 4 i, veElem s (c.srcs.getD 0 .none) v.ty.size i)) (beats : Nat → Nat) :
    runScatter s x v c beats = veDone (veWarn (State.veOob
      (ps.foldl (fun s p => if p.1 < v.k then s.lwrite (v.daddr + p.1 * v.ty.size) (leBytes v.ty.size p.2) else s)
        (veCountSingles s c ps.length)) (ps.filter fun p => !decide (p.1 < v.k)).length)
      false false (if ps.length = 0 then 0 else beats ps.length)).veLost x := by
  unfold runScatter
  simp only [veBadElem_clean hbad, Option.elim_none, ← hps]

/-- A SCATTER writes its elements by index, the highest element of an index winning, and counts the indices past the table (R186). -/
theorem runVop_scatter {a idx : Nat → Nat} (hhead : s.ve.inflight = x :: rest) (hold : x.old = false)
    (hbad : s.mem.bad = []) (hmem : Memory.wf s.mem.mem = true)
    (hv : v = vopFields x.regs) (hfields : vopFieldsBad v = false) (hf : v.func = 0x3A)
    (ha : a = vecOperand s v.a v.aaddr v.ty.size v.k) (hidx : idx = vecOperand s v.b v.baddr 4 v.k) :
    VeEnded s (runVop s x) x rest ∧
      (∀ i, i < v.count → idx i < v.k → (∀ j, i < j → j < v.count → idx j ≠ idx i) →
        (runVop s x).mem.mem.readLE (v.daddr + idx i * v.ty.size) v.ty.size = a i) ∧
      (∀ y, (∀ i, i < v.count → idx i < v.k →
          y < v.daddr + idx i * v.ty.size ∨ v.daddr + idx i * v.ty.size + v.ty.size ≤ y) →
        (runVop s x).mem.mem.read y = s.mem.mem.read y) ∧ (runVop s x).ve.vregs = s.ve.vregs ∧
      (runVop s x).ve.oob = satAdd s.ve.oob ((List.range v.count).countP fun i => v.k ≤ idx i) := by
  obtain ⟨-, hsel, -⟩ := vopFieldsBad_false hfields
  have hsrc : (vopCmd v).srcs.getD 0 .none = vSource v.a v.aaddr v.ty.size (v.k % 2 ^ (8 * v.ty.size)) := by
    have harity : v.arity = 2 := funcArity_eq_two (by omega)
    simp [vopCmd, harity, VopFields.gather, hf]
  have hpairs : (List.range v.count).map (fun i => (idx i, a i)) = (List.range v.count).map fun i =>
      (veElem s ((vopCmd v).srcs.getD 1 .none) 4 i, veElem s ((vopCmd v).srcs.getD 0 .none) v.ty.size i) :=
    List.map_congr_left fun i _ => by
      rw [hidx, ha, veElem_index hv hfields (.inr hf), hsrc,
        veElem_vSource (hsel (one_le_funcArity (by omega)))]
  have hrun : runVop s x = runScatter s x v (vopCmd v) (vopBeats v (vopCmd v)) := by
    unfold runVop
    rw [← hv]
    simp only [VopFields.gather_eq_false (v := v) (by omega), VopFields.scatter_iff.mpr hf, Bool.false_eq_true, if_false, if_true]
  rw [runScatter_clean hbad hpairs] at hrun
  obtain ⟨ps, hps⟩ : ∃ ps, ps = (List.range v.count).map fun i => (idx i, a i) := ⟨_, rfl⟩
  rw [← hps] at hrun
  obtain ⟨y, hy⟩ : ∃ y, y = ps.foldl
    (fun s p => if p.1 < v.k then s.lwrite (v.daddr + p.1 * v.ty.size) (leBytes v.ty.size p.2) else s)
    (veCountSingles s (vopCmd v) ps.length) := ⟨_, rfl⟩
  obtain ⟨hcore, hengines, hve, hymem⟩ := foldl_lwrite_parts _ _ _ _ _ hy
  obtain ⟨hccore, hcengines, hcve, hcmem⟩ := veCountSingles_parts s ps.length (vopCmd v)
  rw [← hy] at hrun
  obtain ⟨z, hz⟩ : ∃ z, z = (veWarn (y.veOob (ps.filter fun p => !decide (p.1 < v.k)).length) false false
    (if ps.length = 0 then 0 else vopBeats v (vopCmd v) ps.length)).veLost := ⟨_, rfl⟩
  obtain ⟨hzworked, hzmem, hzregs, hzoob⟩ := scatterCounted_parts _ _ _ hz
  rw [← hz] at hrun
  rw [hcve] at hve
  have hyworked : VeWorked s y := by
    refine ⟨hcore.trans hccore, hengines.trans hcengines, ?_, ?_, ?_⟩ <;> rw [hve]
  have hworked := hyworked.trans hzworked
  obtain ⟨-, hdmem, hdve⟩ := veDone_parts z x
  have hmem' : (runVop s x).mem.mem = s.mem.mem.scatter v.daddr v.ty.size v.k ps := by
    rw [hrun, hdmem, hzmem, hymem, hcmem]
  have hget {i : Nat} (hi : i < v.count) : ps[i]? = some (idx i, a i) := by
    rw [hps, List.getElem?_map, List.getElem?_range hi]
    rfl
  refine ⟨by rw [hrun]; exact veDone_ended hworked hhead hold, fun i hi hk hlast => ?_, fun b hout => ?_, ?_, ?_⟩
  · rw [hmem']
    refine Memory.readLE_scatter hmem (hget hi) hk (by rw [ha]; exact vecOperand_lt ..) fun j q hj hq => ?_
    have hjlt : j < v.count := by
      have := (List.getElem?_eq_some_iff.mp hq).1
      rwa [hps, List.length_map, List.length_range] at this
    obtain rfl : (idx j, a j) = q := Option.some.inj ((hget hjlt).symm.trans hq)
    exact hlast j hj hjlt
  · rw [hmem']
    refine Memory.read_scatter_outside hmem fun p hp hk => ?_
    rw [hps] at hp
    obtain ⟨i, hi, rfl⟩ := List.mem_map.mp hp
    exact hout i (List.mem_range.mp hi) hk
  · rw [hrun, hdve, hzregs, hve]
  · rw [hrun, hdve, hzoob, hve, hps, List.filter_map, List.length_map, ← List.countP_eq_length_filter]
    refine congrArg (satAdd s.ve.oob) (List.countP_congr fun i _ => ?_)
    simp

end

end

end Sys2Proof.Machine
end

/-! VPLOAD, VEP and VRED at work (R188-R195). -/

noncomputable section
namespace Sys2Proof.Machine

section
variable {s : State} {x : VeCmd} {rest : List VeCmd}

/-! VPLOAD. -/

/-- The bit of a slot that is loaded. -/
theorem getLsbD_or_two_pow (p : BitVec 8) {slot k : Nat} (hk : k < 8) :
    (p ||| BitVec.ofNat 8 (2 ^ slot)).getLsbD k = (p.getLsbD k || k == slot) := by
  rw [BitVec.getLsbD_or, BitVec.getLsbD_ofNat, Nat.testBit_two_pow, decide_eq_true hk, Bool.true_and, beq_eq_decide,
    decide_eq_decide.mpr eq_comm]

/-- A good image fills its slot (R188, R189). -/
theorem runVpload_good {addr slot : Nat} {img : List Byte} (hhead : s.ve.inflight = x :: rest) (hold : x.old = false)
    (hbad : s.mem.bad = []) (hprogs : Memory.wf s.ve.progs = true) (haddr : addr = fld 63 32 (x.regs.getD 0 0#64).toNat)
    (hslot : slot = fld 10 8 (x.regs.getD 0 0#64).toNat) (himg : img = s.mem.mem.readBytes addr 128) (hgood : progBad img = false) :
    (runVpload s x).ve.inflight = rest ∧ QueueCompleted s (runVpload s x) 4 x.seq ∧
      (∀ k, k < 128 → (runVpload s x).ve.progs.read (128 * slot + k) = s.mem.mem.read (addr + k)) ∧
      (∀ k, k < 128 * slot ∨ 128 * slot + 128 ≤ k → (runVpload s x).ve.progs.read k = s.ve.progs.read k) ∧
      (∀ k, k < 8 → (runVpload s x).ve.pvalid.getLsbD k = (s.ve.pvalid.getLsbD k || k == slot)) ∧
      (runVpload s x).ve.vregs = s.ve.vregs ∧ (runVpload s x).mem.mem = s.mem.mem := by
  obtain ⟨y, hy⟩ : ∃ y, y = (s.counted addr 128).onVe fun v => { v with
    progs := v.progs.writeBytes (128 * slot) img, pvalid := v.pvalid ||| BitVec.ofNat 8 (2 ^ slot) } := ⟨_, rfl⟩
  have hrun : runVpload s x = veDone y x := by
    unfold runVpload
    dsimp only
    rw [← haddr, ← hslot, State.lread_good (LocalMemory.badIn_clean hbad addr 128), ← himg, hy]
    simp only [hgood, Bool.false_eq_true, if_false]
  have hcore : y.core = s.core := by rw [hy]; rfl
  obtain ⟨-, hmem, hve⟩ := veDone_parts y x
  have hlen : img.length = 128 := by rw [himg, Memory.length_readBytes]
  rw [hrun, hve, hmem, hy]
  refine ⟨congrArg List.tail hhead, hy ▸ (veDone_completed hold).of_core hcore, fun k hk => ?_, fun k hk => ?_, fun k hk => ?_, rfl, rfl⟩
  · refine (Memory.read_writeBytes_inside s.ve.progs (128 * slot) img k hprogs (by omega)).trans ?_
    simp only [himg, Memory.getElem_readBytes]
  · exact Memory.read_writeBytes_outside s.ve.progs (128 * slot) img k hprogs (by omega)
  · exact getLsbD_or_two_pow s.ve.pvalid hk

/-- A bad image faults and leaves its slot (R189). -/
theorem runVpload_bad {img : List Byte} (hhead : s.ve.inflight = x :: rest) (hold : x.old = false)
    (hbad : s.mem.bad = []) (himg : img = s.mem.mem.readBytes (fld 63 32 (x.regs.getD 0 0#64).toNat) 128)
    (hfault : progBad img = true) :
    (runVpload s x).ve.inflight = rest ∧ ((runVpload s x).queue 4).stopped = true ∧
      ((s.queue 4).stopped = false → ((runVpload s x).queue 4).fcode = Code.badCommand) ∧ (runVpload s x).ve.fValid = true ∧
      (runVpload s x).ve.progs = s.ve.progs ∧ (runVpload s x).ve.pvalid = s.ve.pvalid ∧
      (runVpload s x).ve.vregs = s.ve.vregs ∧ (runVpload s x).mem.mem = s.mem.mem := by
  obtain ⟨y, hy⟩ : ∃ y, y = ((s.counted (fld 63 32 (x.regs.getD 0 0#64).toNat) 128).onVe fun v =>
    { v.fault Code.badCommand 0x41 x.seq with inflight := v.inflight.tail }).raise 6 0x004 15 := ⟨_, rfl⟩
  have hrun : runVpload s x = y.stopQueue 4 Code.badCommand 0x41 x.seq := by
    unfold runVpload
    dsimp only
    rw [State.lread_good (LocalMemory.badIn_clean hbad _ 128), ← himg, hy]
    simp only [hfault, if_true, State.stopIf, hold, Bool.false_eq_true, if_false]
  have hcore : y.core = s.core := by rw [hy]; rfl
  have hyve : y.ve = { s.ve.fault Code.badCommand 0x41 x.seq with inflight := s.ve.inflight.tail } := by rw [hy]; rfl
  have hymem : y.mem.mem = s.mem.mem := by rw [hy]; rfl
  obtain ⟨hstopped, hfcode⟩ := State.stopQueue_queue (q := 4) (by decide) y Code.badCommand 0x41 x.seq none
  rw [State.queue_of_core hcore] at hfcode
  have hve : (runVpload s x).ve = y.ve := by rw [hrun]; simp [State.stopQueue]
  have hmem : (runVpload s x).mem = y.mem := by rw [hrun]; simp [State.stopQueue]
  have hkept : (s.ve.fault Code.badCommand 0x41 x.seq).fValid = true ∧
      (s.ve.fault Code.badCommand 0x41 x.seq).pvalid = s.ve.pvalid := by
    unfold VectorEngine.fault
    split
    next h => exact ⟨h, rfl⟩
    next => exact ⟨rfl, rfl⟩
  obtain ⟨hvregs, hprogs⟩ := State.Canon.fault_tables s.ve Code.badCommand 0x41 x.seq
  rw [hve, hyve, hmem, hymem, hrun]
  exact ⟨congrArg List.tail hhead, hstopped, hfcode, hkept.1, hprogs, hkept.2, hvregs, rfl⟩

/-! VEP. -/

section
variable {img : List Byte} {ins : List Nat} {v : VopFields}

/-- The values in scratch before operation `k` of a program, each operation setting one (R190). -/
def scratchAt (img : List Byte) (ins : List Nat) (i k0 k1 : Nat) : Nat → List Nat
  | 0 => List.replicate 8 0
  | k + 1 =>
    let w := progWord img k
    let src := scratchSrc img (scratchAt img ins i k0 k1 k) ins i k0 k1
    (scratchAt img ins i k0 k1 k).set (fld 25 23 w)
      (scratchOp w (src (fld 22 19 w)) (src (fld 18 15 w)) (src (fld 14 11 w))).bits

theorem progRun_scratchAt (i k0 k1 n k : Nat) (isat inv : Bool) :
    (progRun img ins i k0 k1 n k (scratchAt img ins i k0 k1 k) isat inv).1 = scratchAt img ins i k0 k1 (k + n) := by
  induction n generalizing k isat inv with
  | zero => rfl
  | succ n ih =>
    rw [show k + (n + 1) = k + 1 + n by omega]
    exact ih (k + 1) _ _

/-- A source that a program uses is a register or memory; the selector of one that it does not use is 15 (R190). -/
theorem vepFieldsBad_false {ve : VectorEngine} (h : vepFieldsBad ve img v = false) :
    (if progUses img 8 then v.a ≤ 8 else v.a = 15) ∧ (if progUses img 9 then v.b ≤ 8 else v.b = 15) ∧
      (if progUses img 10 then v.c ≤ 8 else v.c = 15) := by
  have hsel {used : Bool} {sel : Nat} (hb : (if used then decide (sel > 8) else sel != 15) = false) :
      if used then sel ≤ 8 else sel = 15 := by
    cases used <;> simpa using hb
  simp only [vepFieldsBad, Bool.or_eq_false_iff, and_assoc] at h
  obtain ⟨-, -, -, -, -, -, -, ha, hb, hc, -⟩ := h
  exact ⟨hsel ha, hsel hb, hsel hc⟩

/-- A source that is not used reads as zero, like the operand of selector 15. -/
theorem veElem_vepSource {used : Bool} {sel addr size i : Nat} (hsel : if used then sel ≤ 8 else sel = 15) :
    veElem s (if used then vSource sel addr size 0 else .none) size i = vecOperand s sel addr size 0 i := by
  cases used with
  | false =>
    obtain rfl : sel = 15 := hsel
    exact (Nat.zero_mod _).symm
  | true =>
    have hsource := veElem_vSource (s := s) (addr := addr) (size := size) (k := 0) (i := i)
      ((show sel ≤ 8 from hsel).trans (by decide : 8 ≤ 9))
    rwa [Nat.zero_mod] at hsource

/-- What a VEP gives an element is what R190 says. -/
theorem vepElem_meaning {ins : Nat → Nat} {i : Nat} (hins : ∀ j < 3, veElem s ((vepCmd img v).srcs.getD j .none)
    (VType.of (leAt img (72 + j) 1)).size i = ins j) :
    VepMeaning x v img i ins (vepElem s x img v (vepCmd img v) i).bits := by
  refine ⟨scratchAt img ((List.range 3).map fun j => scratchIn (VType.of (leAt img (72 + j) 1)) (ins j)) i v.k v.k1,
    rfl, fun k _ => rfl, ?_⟩
  have hscratch : ((List.range 3).map fun j => scratchIn (VType.of (leAt img (72 + j) 1))
      (veElem s ((vepCmd img v).srcs.getD j .none) (VType.of (leAt img (72 + j) 1)).size i)) =
      (List.range 3).map fun j => scratchIn (VType.of (leAt img (72 + j) 1)) (ins j) :=
    List.map_congr_left fun j hj => by rw [hins j (List.mem_range.mp hj)]
  have hrun := progRun_scratchAt (img := img)
    (ins := (List.range 3).map fun j => scratchIn (VType.of (leAt img (72 + j) 1)) (ins j)) i v.k v.k1 (leAt img 76 1) 0 false false
  rw [Nat.zero_add] at hrun
  rw [← hrun]
  unfold vepElem
  dsimp only
  rw [hscratch]
  rfl

theorem vepElem_bits_lt (c : VCmd) (i : Nat) :
    (vepElem s x img v c i).bits < 2 ^ (VType.target (leAt img 75 1)).width := convert_bits_lt ..

/-- A VEP gives its destination what its program gives each element (R190). -/
theorem runVep_elements {ins : Nat → Nat → Nat} (hhead : s.ve.inflight = x :: rest) (hold : x.old = false)
    (hbad : s.mem.bad = []) (hvregs : Tbl.wf 0#32 s.ve.vregs = true) (hmem : Memory.wf s.mem.mem = true)
    (hv : v = vopFields x.regs) (himg : img = s.ve.image (v.func % 8)) (hfields : vepFieldsBad s.ve img v = false)
    (hins : ins = fun i j => vecOperand s ([v.a, v.b, v.c].getD j 15) ([v.aaddr, v.baddr, v.caddr].getD j 0)
      (VType.of (leAt img (72 + j) 1)).size 0 i) :
    VeEnded s (runVep s x) x rest ∧ ElementsWritten s (runVep s x) v.d v.daddr (VType.target (leAt img 75 1)).size v.count
      (fun i r => VepMeaning x v img i (ins i) r) := by
  obtain ⟨ha, hb, hc⟩ := vepFieldsBad_false hfields
  have hsources (i : Nat) : ∀ j < 3, veElem s ((vepCmd img v).srcs.getD j .none) (VType.of (leAt img (72 + j) 1)).size i =
      ins i j := by
    intro j hj
    rw [hins]
    obtain rfl | rfl | rfl : j = 0 ∨ j = 1 ∨ j = 2 := by omega
    · exact veElem_vepSource ha
    · exact veElem_vepSource hb
    · exact veElem_vepSource hc
  obtain ⟨hended, helems, -⟩ := veFinish_elements (c := vepCmd img v) (f := vepElem s x img v (vepCmd img v)) (d := v.d)
    (addr := v.daddr) (size := (VType.target (leAt img 75 1)).size) (res := fun i r => VepMeaning x v img i (ins i) r)
    hhead hold hvregs hmem rfl hbad (fun i _ => vepElem_meaning (hsources i)) (fun i _ => vepElem_bits_lt _ i) fun n =>
      occupancy 128 (progBeats img) n (memBytes (vepCmd img v) n)
        (if v.d = 8 then n * (VType.target (leAt img 75 1)).size else 0) 0
  subst himg hv
  exact ⟨hended, helems⟩

end

/-! VRED. -/

section
variable {v : VredFields} {o : VOperand} {n k : Nat}

/-- The values of segment `k` (R191). -/
def segValues (s : State) (v : VredFields) (o : VOperand) (k : Nat) : List FVal :=
  (List.range v.seg).map fun j => v.ty.value (veElem s o v.ty.size (k * v.seg + j))

/-- The record of segment `k` (R192). -/
def segRecord (s : State) (v : VredFields) (o : VOperand) (k : Nat) : RedRecord := reduce v.ty v.func v.sx (segValues s v o k)

/-- A segment of words that can be read: its record is written, and INV may be set. -/
theorem vredSegs_succ (hbad : s.mem.bad = []) : ∃ y, VeWorked s y ∧ y.ve.vregs = s.ve.vregs ∧ y.mem.mem = s.mem.mem ∧
    y.mem.bad = [] ∧ vredSegs s v o (n + 1) k =
      vredSegs (y.lwrite (v.raddr + 16 * k) (segRecord s v o k).bytes) v o n (k + 1) := by
  cases o with
  | mem a sz =>
    refine ⟨veWarn (s.counted (a + k * v.seg * sz) (v.seg * sz)) false
      (reduceInv v.ty v.func (segValues s v (.mem a sz) k)) 0, ⟨?_, ?_, ?_, ?_, ?_⟩, ?_, ?_, ?_, ?_⟩
    case refine_9 =>
      simp only [vredSegs, LocalMemory.badIn_clean hbad]
      rfl
    all_goals simp [State.counted, hbad]
  | reg | scalar | none =>
    refine ⟨veWarn s false (reduceInv v.ty v.func (segValues s v _ k)) 0, ⟨?_, ?_, ?_, ?_, ?_⟩, ?_, ?_, ?_, rfl⟩
    all_goals simp [hbad]

/-- Source bytes that lie apart from the records of the `n` segments. -/
def SourceApart (v : VredFields) (o : VOperand) (n : Nat) : Prop :=
  ∀ a sz, o = .mem a sz → a + n * v.seg * sz ≤ v.raddr ∨ v.raddr + 16 * n ≤ a

/-- The values of a segment are not changed by the record of another. -/
theorem segValues_of_record {y : State} {bs : List Byte} {i N : Nat} (hapart : SourceApart v o N)
    (hvregs : y.ve.vregs = s.ve.vregs) (hwf : Memory.wf s.mem.mem = true)
    (hmem : y.mem.mem = s.mem.mem.writeBytes (v.raddr + 16 * k) bs) (hlen : bs.length = 16) (hk : k < N) (hi : i < N) :
    segValues y v o i = segValues s v o i := by
  refine List.map_congr_left fun j hj => congrArg v.ty.value ?_
  cases o with
  | reg r => simp only [veElem, hvregs]
  | scalar | none => rfl
  | mem a sz =>
    have hseg : i * v.seg + j + 1 ≤ N * v.seg := by
      have h := Nat.mul_le_mul_right v.seg (Nat.succ_le_of_lt hi)
      have hj := List.mem_range.mp hj
      rw [Nat.succ_mul] at h
      omega
    have hend := Nat.mul_le_mul_right sz hseg
    rw [Nat.add_mul _ 1, Nat.one_mul] at hend
    simp only [veElem, hmem]
    refine Memory.readLE_writeBytes_outside hwf ?_
    obtain hlow | hhigh := hapart a sz rfl
    · exact .inl (by omega)
    · exact .inr (by omega)

/-- A VRED on words that can be read writes the record of every segment, one after another (R191, R192). -/
theorem vredSegs_clean {N : Nat} (hapart : SourceApart v o N) (hN : k + n = N) (hbad : s.mem.bad = [])
    (hwf : Memory.wf s.mem.mem = true) : ∃ u, vredSegs s v o n k = (u, none) ∧ VeWorked s u ∧ u.ve.vregs = s.ve.vregs ∧
      u.mem.mem = s.mem.mem.writeRows v.raddr 16 ((List.range' k n).map fun i => (segRecord s v o i).bytes) k := by
  induction n generalizing s k with
  | zero => exact ⟨s, rfl, VeWorked.refl s, rfl, rfl⟩
  | succ n ih =>
    obtain ⟨y, hworked, hvregs, hmem, hybad, hstep⟩ := vredSegs_succ (v := v) (o := o) (n := n) (k := k) hbad
    obtain ⟨z, hz⟩ : ∃ z, z = y.lwrite (v.raddr + 16 * k) (segRecord s v o k).bytes := ⟨_, rfl⟩
    have hzmem : z.mem.mem = s.mem.mem.writeBytes (v.raddr + 16 * k) (segRecord s v o k).bytes := by
      rw [hz, ← hmem]; rfl
    have hzworked : VeWorked s z := hworked.trans (hz ▸ VeWorked.lwrite y _ _)
    have hzvregs : z.ve.vregs = s.ve.vregs := by rw [hz]; exact hvregs
    have hzbad : z.mem.bad = [] := by
      rw [hz]
      exact List.filter_eq_nil_iff.mpr fun w hw => absurd hw (by rw [hybad]; exact List.not_mem_nil)
    obtain ⟨u, hu, huworked, huvregs, humem⟩ := ih (s := z) (k := k + 1) (by omega) hzbad
      (by rw [hzmem]; exact Memory.wf_writeBytes _ _ _ hwf)
    refine ⟨u, ?_, hzworked.trans huworked, huvregs.trans hzvregs, ?_⟩
    · rw [hstep, ← hz, hu]
    · have hrecords : (List.range' (k + 1) n).map (fun i => (segRecord z v o i).bytes) =
          (List.range' (k + 1) n).map fun i => (segRecord s v o i).bytes := List.map_congr_left fun i hi => by
        have hmem := List.mem_range'_1.mp hi
        rw [segRecord, segRecord, segValues_of_record hapart hzvregs hwf hzmem (RedRecord.length_bytes _) (by omega) (by omega)]
      rw [humem, hrecords, hzmem, List.range'_succ, List.map_cons, Memory.writeRows, Nat.mul_comm 16 k]

/-- Fields that pass R191: the source is a register or memory, a segment has elements, and the records lie apart from the source. -/
theorem vredBad_false {c : QueueCmd} (h : vredBad c v = false) : v.a ≤ 8 ∧ 0 < v.seg ∧
    SourceApart v (vSource v.a v.aaddr v.ty.size 0) (v.count / v.seg) := by
  simp only [vredBad, Bool.or_eq_false_iff, and_assoc] at h
  obtain ⟨-, ha, -, -, -, -, hseg, -, -, -, -, -, hoverlap⟩ := h
  have hpos : 0 < v.seg := Nat.pos_of_ne_zero (by simpa using hseg)
  refine ⟨by simpa using ha, hpos, fun a sz ho => ?_⟩
  have hsize : sz ≠ 16 := by
    have hsz : sz = v.ty.size := by
      unfold vSource at ho
      split_ifs at ho
      exact (VOperand.mem.inj ho).2.symm
    rw [hsz]
    cases v.ty <;> decide
  simp only [vredCmd, List.any_cons, List.any_nil, Bool.or_false, ho, VOperand.range, partOverlap, VredFields.segments,
    if_neg hpos.ne', beq_eq_false_iff_ne.mpr hsize.symm, Bool.and_false, Bool.not_false, Bool.and_true, Bool.and_eq_false_iff,
    decide_eq_false_iff_not, Nat.not_lt] at hoverlap
  have hle := Nat.mul_le_mul_right sz (Nat.div_mul_le_self v.count v.seg)
  omega

/-- A VRED writes the record of every segment, and nothing else (R191-R195). -/
theorem runVred_records {c : QueueCmd} (hhead : s.ve.inflight = x :: rest) (hold : x.old = false)
    (hbad : s.mem.bad = []) (hmem : Memory.wf s.mem.mem = true)
    (hv : v = vredFields x.regs) (hfields : vredBad c v = false) :
    VeEnded s (runVred s x) x rest ∧ (runVred s x).ve.vregs = s.ve.vregs ∧
      (∀ k, k < v.count / v.seg → ∃ r : RedRecord, (runVred s x).mem.mem.readBytes (v.raddr + 16 * k) 16 = r.bytes ∧
        RedMeaning v.ty v.func v.sx ((List.range v.seg).map fun j =>
          v.ty.value (vecOperand s v.a v.aaddr v.ty.size 0 (k * v.seg + j))) r) ∧
      ∀ y, y < v.raddr ∨ v.raddr + 16 * (v.count / v.seg) ≤ y → (runVred s x).mem.mem.read y = s.mem.mem.read y := by
  obtain ⟨ha, hseg, hapart⟩ := vredBad_false hfields
  obtain ⟨u, hu, hworked, hvregs, humem⟩ := vredSegs_clean (s := s.veLost) (k := 0) hapart (Nat.zero_add _) hbad hmem
  have hrun : runVred s x = veDone u x := by
    unfold runVred
    rw [← hv]
    simp only [vredCmd, List.headD_cons, VredFields.segments, if_neg hseg.ne', hu]
  obtain ⟨-, hdmem, hdve⟩ := veDone_parts u x
  have hlost : VeWorked s s.veLost := ⟨rfl, rfl, rfl, rfl, rfl⟩
  have hvalues (k : Nat) : segValues s.veLost v (vSource v.a v.aaddr v.ty.size 0) k =
      (List.range v.seg).map fun j => v.ty.value (vecOperand s v.a v.aaddr v.ty.size 0 (k * v.seg + j)) :=
    List.map_congr_left fun j _ => congrArg v.ty.value (by
      have hsource := veElem_vSource (s := s) (addr := v.aaddr) (size := v.ty.size) (k := 0) (i := k * v.seg + j)
        (ha.trans (by decide : 8 ≤ 9))
      rwa [Nat.zero_mod] at hsource)
  have hlen (r : Nat) (row : List Byte) (hr : ((List.range' 0 (v.count / v.seg)).map fun i =>
      (segRecord s.veLost v (vSource v.a v.aaddr v.ty.size 0) i).bytes)[r]? = some row) : row.length = 16 ∧ r < v.count / v.seg := by
    rw [List.getElem?_map, Option.map_eq_some_iff] at hr
    obtain ⟨i, hi, rfl⟩ := hr
    exact ⟨RedRecord.length_bytes _, by simpa using (List.getElem?_eq_some_iff.mp hi).1⟩
  rw [hrun, hdmem, hdve, humem]
  refine ⟨veDone_ended (hlost.trans hworked) hhead hold, hvregs, fun k hk => ?_, fun y hy => ?_⟩
  · refine ⟨segRecord s.veLost v (vSource v.a v.aaddr v.ty.size 0) k, ?_, ?_⟩
    · have hrow : ((List.range' 0 (v.count / v.seg)).map fun i =>
          (segRecord s.veLost v (vSource v.a v.aaddr v.ty.size 0) i).bytes)[k]? =
          some (segRecord s.veLost v (vSource v.a v.aaddr v.ty.size 0) k).bytes := by
        simp [hk]
      refine List.ext_getElem (by rw [Memory.length_readBytes, RedRecord.length_bytes]) fun j hj hj' => ?_
      have hread := Memory.read_writeRows_inside (k := 0) (dst := v.raddr) hmem (fun r row hr => (hlen r row hr).1.le) hrow hj'
      rw [List.getD_eq_getElem _ _ hj', Nat.zero_add, Nat.mul_comm k 16] at hread
      rw [Memory.getElem_readBytes]
      exact hread
    · rw [← hvalues]
      refine reduce_meaning fun hnil => hseg.ne' ?_
      simpa [segValues] using congrArg List.length hnil
  · refine Memory.read_writeRows_outside hmem fun r row hr => ?_
    obtain ⟨hrow, hlt⟩ := hlen r row hr
    omega

end

end

/-- Settles O23: the command in progress by its opcode; a VOP as GATHER, as SCATTER, or element by element. -/
theorem vectorResultsWritten : Obligations.VectorResultsWritten := by
  intro s x rest op hrun hhead hold hbad hop hvregs hmem hprogs
  have hexec := exec_veCompletion_eq hrun hhead
  rw [← hop] at hexec
  refine ⟨?vop, ?vpload, ?vep, ?vred⟩
  case vop =>
    intro v a b c idx hopc hv hfields _ ha hb hc hidx
    rw [hopc] at hexec
    exact ⟨fun hg hs => ⟨_, hexec, runVop_elements hhead hold hbad hvregs hmem hv hfields hg hs ha hb hc⟩,
      fun hf => ⟨_, hexec, runVop_gather hhead hold hbad hvregs hmem hv hfields hf hidx⟩,
      fun hf => ⟨_, hexec, runVop_scatter hhead hold hbad hmem hv hfields hf ha hidx⟩⟩
  case vpload =>
    intro addr slot img hopc haddr hslot himg
    rw [hopc] at hexec
    exact ⟨fun hgood => ⟨_, hexec, runVpload_good hhead hold hbad hprogs haddr hslot himg hgood⟩,
      fun hfault => ⟨_, hexec, runVpload_bad hhead hold hbad (haddr ▸ himg) hfault⟩⟩
  case vep =>
    intro v img ins hopc hv himg hfields _ hins
    rw [hopc] at hexec
    exact ⟨_, hexec, runVep_elements hhead hold hbad hvregs hmem hv himg hfields hins⟩
  case vred =>
    intro v c hopc hv _ hfields _
    rw [hopc] at hexec
    exact ⟨_, hexec, runVred_records hhead hold hbad hmem hv hfields⟩

end Sys2Proof.Machine
end
